-- ==== Sys2Proof/Syntax.lean ====
section
/-! DEFINITION. The instructions of the Ciurn and the events of the device, as data.
One constructor of `Instr` for each row of spec/opcode_table.json: the 209 instructions of R191,
then the 95 events, which have no encoding and carry the identity of what they act on (log 9). -/

namespace Sys2Proof

/-- The guard of an instruction: predicate `p` (bits 87..85) and negate (bit 84), R183, R186. -/
structure Guard where
  p : Fin 8
  neg : Bool
  deriving DecidableEq, Repr

/-- A scalar position: a scalar register or a channel (R184, R185). -/
inductive SOp where
  | s (i : Fin 32)
  | ch (c : Fin 4)
  deriving DecidableEq, Repr

/-- A vector position. -/
inductive VOp where
  | v (i : Fin 16)
  | ch (c : Fin 4)
  deriving DecidableEq, Repr

/-- A predicate position. -/
inductive POp where
  | p (i : Fin 8)
  | ch (c : Fin 4)
  deriving DecidableEq, Repr

/-- A mask position. -/
inductive KOp where
  | k (i : Fin 8)
  | ch (c : Fin 4)
  deriving DecidableEq, Repr

/-- A scalar position of B that also admits an immediate, sext(X[47:0]) (R188, R189). -/
inductive SImm where
  | s (i : Fin 32)
  | ch (c : Fin 4)
  | imm (x : BitVec 48)
  deriving DecidableEq, Repr

/-- B of the vector forms that take several classes (R252). A channel is read as a vector where the
form admits one. Which of these a form admits is checked by `wellFormed`. -/
inductive VB where
  | v (i : Fin 16)
  | s (i : Fin 32)
  | k (i : Fin 8)
  | imm (x : BitVec 48)
  | ch (c : Fin 4)
  deriving DecidableEq, Repr

/-- B of the unary vector forms: no mask (0x00), a mask, or a channel read as a mask (R252). -/
inductive KOpt where
  | none
  | k (i : Fin 8)
  | ch (c : Fin 4)
  deriving DecidableEq, Repr

/-- D of SREAD and SWRITE: a scalar or a vector, as the state selector says (R312). -/
inductive XOp where
  | s (i : Fin 32)
  | v (i : Fin 16)
  | ch (c : Fin 4)
  deriving DecidableEq, Repr

/-- Element types, coding T (R187). -/
inductive ETy where
  | b8 | b16 | b32 | b64 | f64 | f32 | f16 | bf16 | e4m3 | e5m2
  deriving DecidableEq, Repr

/-- Coding W: signedness M[2] and width M[1:0] (R187). -/
structure WMod where
  sgn : Bool
  w : Fin 4
  deriving DecidableEq, Repr

/-- Scopes, coding S (R187, R112). -/
inductive Scope where
  | co | cl | die | dev | sys
  deriving DecidableEq, Repr

/-- Conditions, coding C (R187). -/
inductive Cond where
  | eq | ne | lt | ltu | ge | geu
  deriving DecidableEq, Repr

/-- Floating-point conditions (R189). -/
inductive FCond where
  | eq | ne | lt | le | gt | ge | un
  deriving DecidableEq, Repr

/-- Rounding modes (R138). -/
inductive Rm where
  | rne | rtz | rup | rdn | dyn
  deriving DecidableEq, Repr

/-- A local-store operand, layout L: base register and displacement X[14:0] (R189). -/
structure LMem where
  a : SOp
  disp : BitVec 15
  deriving DecidableEq, Repr

/-- A global operand, layout G: segment, offset register, signed displacement, length - 1 (R189). -/
structure GMem where
  seg : Fin 8
  a : SOp
  disp : BitVec 32
  len : BitVec 10
  deriving DecidableEq, Repr

/-- The life-cycle states of R411. -/
inductive LifeCycle where
  | manufacture | secured | returned
  deriving DecidableEq, Repr

/-- Operations of the ATOM group (R294). -/
inductive AOp where
  | add | and | or | xor | min | max | minu | maxu | swap | cas | fadd | fmin | fmax
  deriving DecidableEq, Repr

/-- A span request (R398): one of this device's own, flit `i` in flight, which the owning peer admits
or refuses; or one that peer `peer` sends to this device, a read or (with bytes) a write, or an atomic. -/
inductive SpanReq where
  | outbound (i : Nat) (granted : Bool)
  | inbound (peer : BitVec 4) (addr : BitVec 40) (len : Nat) (wr : Option (List (BitVec 8)))
  | inboundAtom (peer : BitVec 4) (addr : BitVec 40) (len : Nat) (op : AOp) (val cmp : BitVec 64)
  deriving DecidableEq, Repr

/-- The rows of spec/opcode_table.json, in its order. -/
inductive Instr where
  -- INT group, OP 0x01 (R222)
  | add (g : Guard) (d a : SOp) (b : SImm)
  | sub (g : Guard) (d a : SOp) (b : SImm)
  | mul (g : Guard) (d a : SOp) (b : SImm)
  | mulh (g : Guard) (d a : SOp) (b : SImm)
  | mulhu (g : Guard) (d a : SOp) (b : SImm)
  | div (g : Guard) (d a : SOp) (b : SImm)
  | divu (g : Guard) (d a : SOp) (b : SImm)
  | rem (g : Guard) (d a : SOp) (b : SImm)
  | remu (g : Guard) (d a : SOp) (b : SImm)
  | and (g : Guard) (d a : SOp) (b : SImm)
  | or (g : Guard) (d a : SOp) (b : SImm)
  | xor (g : Guard) (d a : SOp) (b : SImm)
  | andn (g : Guard) (d a : SOp) (b : SImm)
  | orn (g : Guard) (d a : SOp) (b : SImm)
  | shl (g : Guard) (d a : SOp) (b : SImm)
  | shr (g : Guard) (d a : SOp) (b : SImm)
  | sra (g : Guard) (d a : SOp) (b : SImm)
  | rotl (g : Guard) (d a : SOp) (b : SImm)
  | rotr (g : Guard) (d a : SOp) (b : SImm)
  | min (g : Guard) (d a : SOp) (b : SImm)
  | max (g : Guard) (d a : SOp) (b : SImm)
  | minu (g : Guard) (d a : SOp) (b : SImm)
  | maxu (g : Guard) (d a : SOp) (b : SImm)
  | clz (g : Guard) (w : Fin 4) (d a : SOp)
  | ctz (g : Guard) (w : Fin 4) (d a : SOp)
  | popc (g : Guard) (w : Fin 4) (d a : SOp)
  | brev (g : Guard) (w : WMod) (d a : SOp)
  | bswap (g : Guard) (w : WMod) (d a : SOp)
  | sext (g : Guard) (w : WMod) (d a : SOp)
  | bfx (g : Guard) (d a : SOp) (b : SImm)
  | bfi (g : Guard) (d a : SOp) (b : SImm)
  | sel (g : Guard) (d a : SOp) (b : SImm)
  | li (g : Guard) (d : SOp) (b : SImm)
  -- CMP group, OP 0x02 (R228)
  | cmp (g : Guard) (c : Cond) (d : POp) (a : SOp) (b : SImm)
  | test (g : Guard) (d : POp) (a : SOp) (b : SImm)
  | pand (g : Guard) (d a b : POp)
  | por (g : Guard) (d a b : POp)
  | pxor (g : Guard) (d a b : POp)
  | pandn (g : Guard) (d a b : POp)
  | pset (g : Guard) (d : POp) (b : SImm)
  | pget (g : Guard) (d : SOp) (a : POp)
  -- CTRL group, OP 0x03 (R229)
  | br (g : Guard) (off : BitVec 32)
  | bri (g : Guard) (a : SOp)
  | call (g : Guard) (off : BitVec 32)
  | calli (g : Guard) (a : SOp)
  | ret (g : Guard)
  | loop (g : Guard) (d : SOp) (off : BitVec 32)
  | halt (g : Guard)
  | nop (g : Guard)
  | ifence (g : Guard)
  | rdclk (g : Guard) (d : SOp)
  | rdid (g : Guard) (d : SOp)
  -- FP group, OP 0x04 (R236)
  | fadd (g : Guard) (t : ETy) (rm : Rm) (sat : Bool) (d a b : SOp)
  | fsub (g : Guard) (t : ETy) (rm : Rm) (sat : Bool) (d a b : SOp)
  | fmul (g : Guard) (t : ETy) (rm : Rm) (sat : Bool) (d a b : SOp)
  | fdiv (g : Guard) (t : ETy) (rm : Rm) (sat : Bool) (d a b : SOp)
  | fsqrt (g : Guard) (t : ETy) (rm : Rm) (d a : SOp)
  | fma (g : Guard) (t : ETy) (rm : Rm) (sat : Bool) (d a b : SOp)
  | fmin (g : Guard) (t : ETy) (d a b : SOp)
  | fmax (g : Guard) (t : ETy) (d a b : SOp)
  | fcmp (g : Guard) (t : ETy) (c : FCond) (d : POp) (a b : SOp)
  | fcvt (g : Guard) (t st : ETy) (sgn : Bool) (rm : Rm) (sat : Bool) (d a : SOp)
  | fclass (g : Guard) (t : ETy) (d a : SOp)
  | fsgn (g : Guard) (t : ETy) (d a b : SOp)
  -- SEG group, OP 0x05 (R245)
  | segld (g : Guard) (d : Fin 8) (b : SImm)
  | segnarrow (g : Guard) (d : Fin 8) (a : SOp) (b : SImm)
  | segq (g : Guard) (d : SOp) (a : Fin 8) (b : SImm)
  -- VINT group, OP 0x06 (R256)
  | vadd (g : Guard) (t : ETy) (d a : VOp) (b : VB)
  | vsub (g : Guard) (t : ETy) (d a : VOp) (b : VB)
  | vmul (g : Guard) (t : ETy) (d a : VOp) (b : VB)
  | vmulh (g : Guard) (t : ETy) (d a : VOp) (b : VB)
  | vand (g : Guard) (t : ETy) (d a : VOp) (b : VB)
  | vor (g : Guard) (t : ETy) (d a : VOp) (b : VB)
  | vxor (g : Guard) (t : ETy) (d a : VOp) (b : VB)
  | vshl (g : Guard) (t : ETy) (d a : VOp) (b : VB)
  | vshr (g : Guard) (t : ETy) (d a : VOp) (b : VB)
  | vsra (g : Guard) (t : ETy) (d a : VOp) (b : VB)
  | vmin (g : Guard) (t : ETy) (d a : VOp) (b : VB)
  | vmax (g : Guard) (t : ETy) (d a : VOp) (b : VB)
  | vminu (g : Guard) (t : ETy) (d a : VOp) (b : VB)
  | vmaxu (g : Guard) (t : ETy) (d a : VOp) (b : VB)
  | vabsd (g : Guard) (t : ETy) (d a : VOp) (b : VB)
  | vsel (g : Guard) (t : ETy) (d a : VOp) (b : KOp)
  | vcmp (g : Guard) (t : ETy) (c : Cond) (d : KOp) (a : VOp) (b : VB)
  -- VFP group, OP 0x07 (R259)
  | vfadd (g : Guard) (t : ETy) (rm : Rm) (sat : Bool) (d a : VOp) (b : VB)
  | vfsub (g : Guard) (t : ETy) (rm : Rm) (sat : Bool) (d a : VOp) (b : VB)
  | vfmul (g : Guard) (t : ETy) (rm : Rm) (sat : Bool) (d a : VOp) (b : VB)
  | vfma (g : Guard) (t : ETy) (rm : Rm) (sat : Bool) (d a : VOp) (b : VB)
  | vfms (g : Guard) (t : ETy) (rm : Rm) (sat : Bool) (d a : VOp) (b : VB)
  | vfnma (g : Guard) (t : ETy) (rm : Rm) (sat : Bool) (d a : VOp) (b : VB)
  | vfmin (g : Guard) (t : ETy) (d a : VOp) (b : VB)
  | vfmax (g : Guard) (t : ETy) (d a : VOp) (b : VB)
  | vfdiv (g : Guard) (t : ETy) (rm : Rm) (sat : Bool) (d a : VOp) (b : VB)
  | vfsqrt (g : Guard) (t : ETy) (rm : Rm) (d a : VOp) (b : KOpt)
  | vfrcp (g : Guard) (t : ETy) (d a : VOp) (b : KOpt)
  | vfrsq (g : Guard) (t : ETy) (d a : VOp) (b : KOpt)
  | vfexp2 (g : Guard) (t : ETy) (sat : Bool) (d a : VOp) (b : KOpt)
  | vfcmp (g : Guard) (t : ETy) (c : FCond) (d : KOp) (a : VOp) (b : VB)
  | vfcvt (g : Guard) (t st : ETy) (sgn : Bool) (rm : Rm) (sat : Bool) (d a : VOp) (b : KOpt)
  -- VPERM group, OP 0x08 (R264)
  | vbcast (g : Guard) (t : ETy) (d : VOp) (b : SImm)
  | vins (g : Guard) (t : ETy) (d : VOp) (a : SOp) (b : SImm)
  | vext (g : Guard) (t : ETy) (d : SOp) (a : VOp) (b : SImm)
  | vshuf (g : Guard) (t : ETy) (d a : VOp) (b : VB)
  | vslide (g : Guard) (t : ETy) (d a : VOp) (b : SImm)
  | vzip (g : Guard) (t : ETy) (d a b : VOp)
  | vunzip (g : Guard) (t : ETy) (d a b : VOp)
  | vredadd (g : Guard) (t : ETy) (d : SOp) (a : VOp) (b : KOp)
  | vfredadd (g : Guard) (t : ETy) (d : SOp) (a : VOp) (b : KOp)
  | vredmax (g : Guard) (t : ETy) (d : SOp) (a : VOp) (b : KOp)
  | vredmin (g : Guard) (t : ETy) (d : SOp) (a : VOp) (b : KOp)
  | vcompress (g : Guard) (t : ETy) (d a : VOp) (b : KOp)
  | vexpand (g : Guard) (t : ETy) (d a : VOp) (b : KOp)
  -- VBLOCK group, OP 0x09 (R267)
  | bdot (g : Guard) (sat : Bool) (d : SOp) (a b : VOp)
  | bunpk (g : Guard) (t : ETy) (rm : Rm) (sat : Bool) (d a : VOp) (b : SOp)
  | bpack (g : Guard) (t : ETy) (fmta : BitVec 8) (rm : Rm) (sat : Bool) (d a : VOp) (b : SOp)
  | bscale (g : Guard) (rm : Rm) (d : VOp) (a b : SOp)
  | cbload (g : Guard) (a : VOp)
  | cblook (g : Guard) (t : ETy) (d a : VOp) (b : SOp)
  | qdeq (g : Guard) (q4 : Bool) (d a : VOp) (b : SOp)
  -- REP group, OP 0x0A (R276)
  | rpt (g : Guard) (strb stra strd : BitVec 4) (seqlen : Fin 8) (count : BitVec 13)
  | rwait (g : Guard)
  | rstop (g : Guard) (d : SOp)
  -- LS group, OP 0x0B (R282)
  | ld (g : Guard) (w : WMod) (d : SOp) (m : LMem)
  | st (g : Guard) (w : Fin 4) (d : SOp) (m : LMem)
  | vld (g : Guard) (d : VOp) (m : LMem)
  | vst (g : Guard) (d : VOp) (m : LMem)
  | vgath (g : Guard) (t : ETy) (d : VOp) (m : LMem) (b : VOp)
  | vscat (g : Guard) (t : ETy) (d : VOp) (m : LMem) (b : VOp)
  | lsguard (g : Guard) (d : SOp) (m : LMem)
  -- GM group, OP 0x0C (R287)
  | gld (g : Guard) (w : WMod) (d : SOp) (m : GMem)
  | gst (g : Guard) (w : Fin 4) (d : SOp) (m : GMem)
  | gvld (g : Guard) (d : VOp) (m : GMem)
  | gvst (g : Guard) (d : VOp) (m : GMem)
  | xget (g : Guard) (d : SOp) (m : GMem)
  | xput (g : Guard) (d : SOp) (m : GMem)
  | gpref (g : Guard) (m : GMem)
  -- ATOM group, OP 0x0D (R292)
  | aadd (g : Guard) (sc : Scope) (d : SOp) (m : GMem) (b : SOp)
  | aand (g : Guard) (sc : Scope) (d : SOp) (m : GMem) (b : SOp)
  | aor (g : Guard) (sc : Scope) (d : SOp) (m : GMem) (b : SOp)
  | axor (g : Guard) (sc : Scope) (d : SOp) (m : GMem) (b : SOp)
  | amin (g : Guard) (sc : Scope) (d : SOp) (m : GMem) (b : SOp)
  | amax (g : Guard) (sc : Scope) (d : SOp) (m : GMem) (b : SOp)
  | aminu (g : Guard) (sc : Scope) (d : SOp) (m : GMem) (b : SOp)
  | amaxu (g : Guard) (sc : Scope) (d : SOp) (m : GMem) (b : SOp)
  | aswap (g : Guard) (sc : Scope) (d : SOp) (m : GMem) (b : SOp)
  | acas (g : Guard) (sc : Scope) (d : SOp) (m : GMem) (b : SOp)
  | afadd (g : Guard) (sc : Scope) (d : SOp) (m : GMem) (b : SOp)
  | afmin (g : Guard) (sc : Scope) (d : SOp) (m : GMem) (b : SOp)
  | afmax (g : Guard) (sc : Scope) (d : SOp) (m : GMem) (b : SOp)
  | radd (g : Guard) (sc : Scope) (d : SOp) (m : GMem)
  | rand (g : Guard) (sc : Scope) (d : SOp) (m : GMem)
  | ror (g : Guard) (sc : Scope) (d : SOp) (m : GMem)
  | rxor (g : Guard) (sc : Scope) (d : SOp) (m : GMem)
  | rmin (g : Guard) (sc : Scope) (d : SOp) (m : GMem)
  | rmax (g : Guard) (sc : Scope) (d : SOp) (m : GMem)
  | rminu (g : Guard) (sc : Scope) (d : SOp) (m : GMem)
  | rmaxu (g : Guard) (sc : Scope) (d : SOp) (m : GMem)
  | rfadd (g : Guard) (sc : Scope) (d : SOp) (m : GMem)
  | mwait (g : Guard) (d : POp) (m : GMem) (b : SOp)
  -- ORDER group, OP 0x0E (R297)
  | fence (g : Guard) (sc : Scope)
  | acq (g : Guard) (sc : Scope)
  | rel (g : Guard) (sc : Scope)
  | rell (g : Guard) (sc : Scope) (m : GMem)
  | flushp (g : Guard) (sc : Scope)
  | cwb (g : Guard) (sc : Scope) (m : GMem)
  | cinv (g : Guard) (sc : Scope) (m : GMem)
  | cpin (g : Guard) (sc : Scope) (d : POp) (m : GMem)
  | cunpin (g : Guard) (sc : Scope) (m : GMem)
  -- LOFT group, OP 0x0F (R303)
  | ldisc (g : Guard) (d : SOp) (m : GMem)
  | lback (g : Guard) (m : GMem)
  | lstat (g : Guard) (d : SOp) (m : GMem)
  -- MSG group, OP 0x10 (R328)
  | amsg (g : Guard) (d a b : SOp) (hidx : BitVec 8)
  | rld (g : Guard) (d a b : SOp) (disp : BitVec 15)
  | rst (g : Guard) (d a b : SOp) (disp : BitVec 15)
  | rstn (g : Guard) (d a b : SOp) (disp : BitVec 15)
  | hret (g : Guard)
  | chpoll (g : Guard) (d : SOp)
  | chlim (g : Guard) (b : SImm)
  -- BAR group, OP 0x11 (R334)
  | barc (g : Guard)
  | bara (g : Guard)
  | barw (g : Guard)
  | barb (g : Guard)
  -- TASK group, OP 0x12 (R338)
  | spawn (g : Guard) (d : POp) (a : VOp) (b : SOp)
  | join (g : Guard) (d : POp) (m : GMem)
  | texit (g : Guard)
  | launch (g : Guard) (d : SOp) (m : GMem)
  -- REGION group, OP 0x13 (R350)
  | frb (g : Guard) (d : SOp) (off : BitVec 32)
  | fre (g : Guard)
  | fra (g : Guard)
  | frq (g : Guard) (d : SOp)
  -- JOB group, OP 0x14 (R368)
  | job (g : Guard) (d : SOp) (m : GMem)
  | jwait (g : Guard) (d a : SOp)
  | jpoll (g : Guard) (d a : SOp)
  | jcancel (g : Guard) (d a : SOp)
  -- SYS group, OP 0x15 (R310)
  | trap (g : Guard) (sel : BitVec 16)
  | kret (g : Guard) (sel : BitVec 16)
  | sread (g : Guard) (d : XOp) (a : SOp) (sel : BitVec 16)
  | swrite (g : Guard) (d : XOp) (a : SOp) (sel : BitVec 16)
  | sysr (g : Guard) (d a : SOp) (sel : BitVec 16)
  | sysw (g : Guard) (d a : SOp) (sel : BitVec 16)
  | tlbinv (g : Guard) (d a b : SOp) (sel : BitVec 16)
  | lres (g : Guard) (d : POp) (a b : SOp) (sel : BitVec 16)
  | lmove (g : Guard) (d a : SOp) (sel : BitVec 16)
  | sstart (g : Guard) (d a : SOp)
  | sstop (g : Guard) (d a : SOp)
  | ctrr (g : Guard) (d : SOp) (sel : BitVec 16)
  | ctrw (g : Guard) (d : SOp) (sel : BitVec 16)
  | mark (g : Guard) (sel : BitVec 16)
  | hint (g : Guard) (sel : BitVec 16)
  -- Events of the device: rows of the opcode table without an encoding
  | repeaterIssue (core : Nat)  -- R49
  | longLatencyResult (core pos : Nat)  -- R43
  | memoryReply (i : Nat)  -- R113: the reply is flit `i` in flight
  | injectionSlot (die stop loop slot : Nat)  -- R27
  | agingTurn (die loop slot : Nat)  -- R29
  | agingTenureEnd (die loop slot : Nat)  -- R29
  | flitArrival (die loop slot : Nat) (accept : Bool)  -- R22: `accept` says whether the destination can accept it
  | flitTakenBack (die loop slot : Nat)  -- R22
  | landedFlitAccept (die stop vc : Nat)  -- R23
  | hbmServiceSlot (die : Nat)  -- R31
  | reservedSlot (die : Nat)  -- R31
  | bucketRefill (die : Nat)  -- R397
  | homeRequest (i : Nat)  -- R98: the request is flit `i` in flight
  | fillDataArrival (die k : Nat)  -- R98
  | invalidationArrival (i : Nat)  -- R97
  | rellRecall (slice j : Nat)  -- R120
  | combine (slice j : Nat)  -- R123
  | frameRequest (i : Nat)  -- R106
  | pageWalk (die k : Nat)  -- R84
  | tombstoneRetire (slice j : Nat)  -- R182
  | incarnationBroadcast (slice cluster : Nat)  -- R179
  | clusterReset (cluster : Nat)  -- R179
  | poolpush (die : Nat) (v : BitVec 64)  -- R313
  | keeperPreemptRequest (core : Nat)  -- R313
  | landlordPreemptRequest (core : Nat)  -- R313
  | controlSpaceWrite (pa : BitVec 48) (v : BitVec 64)  -- R314
  | preemption (core : Nat)  -- R174
  | resume (core src : Nat)  -- R178: what was saved on core `src` resumes on `core`
  | keeperEntry (core : Nat)  -- R161
  | landlordEntry (core : Nat)  -- R164
  | machineCheck (core : Nat)  -- R164
  | sidelogNotice (core : Nat)  -- R167
  | sidelogReplay (cluster entry : Nat)  -- R167
  | taskDeath (core pos : Nat) (cause sub : BitVec 8)  -- R170
  | deadFilterRetire (die j : Nat)  -- R171
  | deathNotice (i : Nat)  -- R172
  | noticeRingDrain (j : Nat)  -- R172
  | hbmUncorrectableError (die k : Nat)  -- R173
  | patrolScrubBurst (die : Nat) (tagOk : Bool)  -- R413
  | scrubPassStart  -- R413
  | taskPop (core pos : Nat)  -- R63
  | taskPriorityAging (cluster j : Nat)  -- R63
  | spillRefill (cluster : Nat)  -- R62
  | spawnReceive (i : Nat)  -- R339
  | stealRequest (cluster vd : Nat)  -- R67
  | stealShipment (i : Nat)  -- R68
  | stealRetryTimer (cluster : Nat)  -- R67
  | poolIdleTimeout (core pos : Nat)  -- R58
  | launchPlacement (q vd : Nat)  -- R56: queue `q` is a die, or 8 for the porch die
  | launchComplete (launch : Nat)  -- R59
  | migration (core pos : Nat)  -- R75
  | messageArrival (i : Nat)  -- R331
  | remoteLsAccess (i : Nat)  -- R333
  | channelTransfer (core pos : Nat)  -- R325
  | channelTimeout (core pos : Nat)  -- R326
  | mwaitWake (slice j : Nat)  -- R296
  | mwaitTimeout (core pos : Nat)  -- R296
  | barrierCompletion (cluster unit : Nat)  -- R335
  | bandBarrierArrival (i : Nat)  -- R336
  | rouEdgeCheck (die : Nat)  -- R357
  | regionHeldReadRetry (i : Nat)  -- R359
  | regionCommit (die slot : Nat)  -- R360
  | regionAbort (die slot : Nat) (code : BitVec 8)  -- R362
  | jobStart (cluster slot : Nat)  -- R371
  | jobUnitStep (cluster slot : Nat)  -- R377
  | jobFinish (cluster slot : Nat)  -- R374
  | tailWrite (vf off : Nat) (v : BitVec 64)  -- R394: a doubleword of a VF window is written, tail at offset 0x1000 (R393)
  | hostRecordTake (vf : Nat)  -- R394
  | completionEntry (vf : Nat)  -- R395
  | counterLowRead (vf off : Nat)  -- R181: a 32-bit half of a VF window is read (R393)
  | vfReset (vf : Nat)  -- R400
  | hostMemAccess (addr : BitVec 40) (len : Nat) (wr : Option (List (BitVec 8)))  -- R130: a write carries its bytes
  | backInvalidation (unit : Nat) (bytes : List (BitVec 8))  -- R130: the host returns its bytes of the unit
  | spanRequest (r : SpanReq)  -- R398
  | hostAtomic (i : Nat)  -- R392
  | traceRecord (core : Nat)  -- R401
  | traceWrite (die core : Nat)  -- R402
  | leaseSliceStart  -- R405
  | leaseSliceEnd  -- R405
  | breakHit (core pos : Nat)  -- R406
  | powerGood (img0 img1 : Bool) (failStep : Nat) (linksUp : BitVec 16)  -- R408, R409: which image slots can be read, the step that fails (0 none), the span links that train
  | lifeCycleChange (stage : LifeCycle)  -- R411
  | getVersion (req : List (BitVec 8))  -- R410
  | getCapabilities (req : List (BitVec 8))  -- R410
  | negotiateAlgorithms (req : List (BitVec 8))  -- R410
  | getCertificate (req : List (BitVec 8))  -- R410
  | challenge (req : List (BitVec 8))  -- R410
  | getMeasurements (req : List (BitVec 8))  -- R410
  | moduleDescriptorRead  -- R410
  | powerLimitExceeded  -- R414
  | lastIterationRetires (core : Nat)  -- R50
  | launchRetirement (launch : Nat)  -- R58
  | leaseRequest (vd : Nat) (v : BitVec 64)  -- R405
  | powerLimitSet (watts : Nat)  -- R414
  | drawWithinLimit  -- R414
  deriving DecidableEq, Repr

end Sys2Proof
end

