-- ==== Sys2Proof/WellFormed.lean ====
section
/-! DEFINITION. Which terms of `Instr` are instructions: the limits of R187, R190 and the form tables
that the operand types do not carry already. A term that fails one of them is no word of the Ciurn
(R192). Events have no limits. -/

namespace Sys2Proof

/-- Guard 000 with negate 1 is reserved (R186). -/
def Guard.ok (g : Guard) : Bool := !(g.p = 0 && g.neg)

def ETy.isInt : ETy → Bool
  | .b8 | .b16 | .b32 | .b64 => true
  | _ => false

/-- Types 4-7 of coding T. -/
def ETy.isFp : ETy → Bool
  | .f64 | .f32 | .f16 | .bf16 => true
  | _ => false

/-- Types 4-9 of coding T. -/
def ETy.isAnyFp (t : ETy) : Bool := !t.isInt

/-- FCVT and VFCVT: not both integers, and sgn only with an integer side (R236, R263). -/
def cvtOk (t st : ETy) (sgn : Bool) : Bool :=
  !(t.isInt && st.isInt) && (!sgn || t.isInt || st.isInt)

/-- The classes of B of R252 that a form admits. -/
def VB.among (v s k imm : Bool) : VB → Bool
  | .v _ => v
  | .s _ => s
  | .k _ => k
  | .imm _ => imm
  | .ch _ => true

/-- GLD, GST: len is 2^width - 1 (R190). -/
def GMem.lenIs (m : GMem) (n : Nat) : Bool := m.len.toNat = n

/-- ATOM forms: a 32-bit or a 64-bit operand (R190). -/
def GMem.atomLen (m : GMem) : Bool := m.lenIs 3 || m.lenIs 7

/-- State selectors of R312: whether the state is a vector. -/
def stateSelVector (sel : BitVec 16) : Bool := 0x20 ≤ sel.toNat && sel.toNat ≤ 0x2F

/-- The state selectors that R312 lists. -/
def stateSelKnown (sel : BitVec 16) : Bool :=
  let n := sel.toNat
  n ≤ 0x55 || (0x60 ≤ n && n ≤ 0x64) || n = 0x70

/-- Selectors that SWRITE may not name: GTI, fd0-fd3 and the TRAP selector are read only. -/
def stateSelWritable (sel : BitVec 16) : Bool :=
  let n := sel.toNat
  stateSelKnown sel && n ≠ 0x52 && !(0x60 ≤ n && n ≤ 0x64)

def XOp.fits (vec : Bool) : XOp → Bool
  | .s _ => !vec
  | .v _ => vec
  | .ch _ => true

/-- System registers with a read level (R313, R403). -/
def sysReadable (sel : BitVec 16) : Bool :=
  [0x0000, 0x0010, 0x0011, 0x0012, 0x0013, 0x0014, 0x0015, 0x0020, 0x0021, 0x0030, 0x0032, 0x0040,
    0x0041, 0x0042, 0x0050, 0x0051, 0x0060, 0x0070, 0x0071, 0x0072, 0x0073, 0x0074, 0x0075, 0x0076,
    0x0077, 0x0800, 0x0F00].contains sel.toNat

/-- System registers with a write level. -/
def sysWritable (sel : BitVec 16) : Bool :=
  [0x0000, 0x0010, 0x0011, 0x0012, 0x0013, 0x0014, 0x0015, 0x0020, 0x0021, 0x0030, 0x0031, 0x0040,
    0x0041, 0x0042, 0x0050, 0x0051, 0x0060, 0x0070, 0x0071, 0x0072, 0x0073, 0x0074, 0x0075, 0x0076,
    0x0077, 0x0F00].contains sel.toNat

/-- The well-formedness check: every limit of a form beyond its operand types. -/
def wellFormed : Instr → Bool
  | .add g _ _ _ => g.ok
  | .sub g _ _ _ => g.ok
  | .mul g _ _ _ => g.ok
  | .mulh g _ _ _ => g.ok
  | .mulhu g _ _ _ => g.ok
  | .div g _ _ _ => g.ok
  | .divu g _ _ _ => g.ok
  | .rem g _ _ _ => g.ok
  | .remu g _ _ _ => g.ok
  | .and g _ _ _ => g.ok
  | .or g _ _ _ => g.ok
  | .xor g _ _ _ => g.ok
  | .andn g _ _ _ => g.ok
  | .orn g _ _ _ => g.ok
  | .shl g _ _ _ => g.ok
  | .shr g _ _ _ => g.ok
  | .sra g _ _ _ => g.ok
  | .rotl g _ _ _ => g.ok
  | .rotr g _ _ _ => g.ok
  | .min g _ _ _ => g.ok
  | .max g _ _ _ => g.ok
  | .minu g _ _ _ => g.ok
  | .maxu g _ _ _ => g.ok
  | .clz g _ _ _ => g.ok
  | .ctz g _ _ _ => g.ok
  | .popc g _ _ _ => g.ok
  | .brev g _ _ _ => g.ok
  | .bswap g _ _ _ => g.ok
  | .sext g _ _ _ => g.ok
  | .bfx g _ _ _ => g.ok
  | .bfi g _ _ _ => g.ok
  | .sel g _ _ _ => g.ok
  | .li g _ _ => g.ok
  | .cmp g _ _ _ _ => g.ok
  | .test g _ _ _ => g.ok
  | .pand g _ _ _ => g.ok
  | .por g _ _ _ => g.ok
  | .pxor g _ _ _ => g.ok
  | .pandn g _ _ _ => g.ok
  | .pset g _ _ => g.ok
  | .pget g _ _ => g.ok
  | .br g _ => g.ok
  | .bri g _ => g.ok
  | .call g _ => g.ok
  | .calli g _ => g.ok
  | .ret g => g.ok
  | .loop g _ _ => g.ok
  | .halt g => g.ok
  | .nop g => g.ok
  | .ifence g => g.ok
  | .rdclk g _ => g.ok
  | .rdid g _ => g.ok
  | .fadd g t _ _ _ _ _ => g.ok && t.isFp
  | .fsub g t _ _ _ _ _ => g.ok && t.isFp
  | .fmul g t _ _ _ _ _ => g.ok && t.isFp
  | .fdiv g t _ _ _ _ _ => g.ok && t.isFp
  | .fsqrt g t _ _ _ => g.ok && t.isFp
  | .fma g t _ _ _ _ _ => g.ok && t.isFp
  | .fmin g t _ _ _ => g.ok && t.isFp
  | .fmax g t _ _ _ => g.ok && t.isFp
  | .fcmp g t _ _ _ _ => g.ok && t.isAnyFp
  | .fcvt g t st sgn _ _ _ _ => g.ok && cvtOk t st sgn
  | .fclass g t _ _ => g.ok && t.isAnyFp
  | .fsgn g t _ _ _ => g.ok && t.isAnyFp
  | .segld g _ _ => g.ok
  | .segnarrow g _ _ _ => g.ok
  | .segq g _ _ _ => g.ok
  | .vadd g t _ _ b => g.ok && t.isInt && b.among true true true true
  | .vsub g t _ _ b => g.ok && t.isInt && b.among true true true true
  | .vmul g t _ _ b => g.ok && t.isInt && b.among true true true true
  | .vmulh g t _ _ b => g.ok && t.isInt && b.among true true true true
  | .vand g t _ _ b => g.ok && t.isInt && b.among true true true true
  | .vor g t _ _ b => g.ok && t.isInt && b.among true true true true
  | .vxor g t _ _ b => g.ok && t.isInt && b.among true true true true
  | .vshl g t _ _ b => g.ok && t.isInt && b.among true true true true
  | .vshr g t _ _ b => g.ok && t.isInt && b.among true true true true
  | .vsra g t _ _ b => g.ok && t.isInt && b.among true true true true
  | .vmin g t _ _ b => g.ok && t.isInt && b.among true true true true
  | .vmax g t _ _ b => g.ok && t.isInt && b.among true true true true
  | .vminu g t _ _ b => g.ok && t.isInt && b.among true true true true
  | .vmaxu g t _ _ b => g.ok && t.isInt && b.among true true true true
  | .vabsd g t _ _ b => g.ok && t.isInt && b.among true true true true
  | .vsel g t _ _ _ => g.ok && t.isInt
  | .vcmp g t _ _ _ b => g.ok && t.isInt && b.among true true false false
  | .vfadd g t _ _ _ _ b => g.ok && t.isFp && b.among true true true false
  | .vfsub g t _ _ _ _ b => g.ok && t.isFp && b.among true true true false
  | .vfmul g t _ _ _ _ b => g.ok && t.isFp && b.among true true true false
  | .vfma g t _ _ _ _ b => g.ok && t.isFp && b.among true true false false
  | .vfms g t _ _ _ _ b => g.ok && t.isFp && b.among true true false false
  | .vfnma g t _ _ _ _ b => g.ok && t.isFp && b.among true true false false
  | .vfmin g t _ _ b => g.ok && t.isFp && b.among true true true false
  | .vfmax g t _ _ b => g.ok && t.isFp && b.among true true true false
  | .vfdiv g t _ _ _ _ b => g.ok && t.isFp && b.among true true true false
  | .vfsqrt g t _ _ _ _ => g.ok && t.isFp
  | .vfrcp g t _ _ _ => g.ok && t.isFp
  | .vfrsq g t _ _ _ => g.ok && t.isFp
  | .vfexp2 g t _ _ _ _ => g.ok && t.isFp
  | .vfcmp g t _ _ _ b => g.ok && t.isAnyFp && b.among true true false false
  | .vfcvt g t st sgn _ _ _ _ _ => g.ok && cvtOk t st sgn
  | .vbcast g _ _ _ => g.ok
  | .vins g _ _ _ _ => g.ok
  | .vext g _ _ _ _ => g.ok
  | .vshuf g _ _ _ b => g.ok && b.among true true false true
  | .vslide g _ _ _ _ => g.ok
  | .vzip g _ _ _ _ => g.ok
  | .vunzip g _ _ _ _ => g.ok
  | .vredadd g t _ _ _ => g.ok && t.isInt
  | .vfredadd g t _ _ _ => g.ok && t.isFp
  | .vredmax g t _ _ _ => g.ok && (t.isInt || t.isFp)
  | .vredmin g t _ _ _ => g.ok && (t.isInt || t.isFp)
  | .vcompress g _ _ _ _ => g.ok
  | .vexpand g _ _ _ _ => g.ok
  | .bdot g _ _ _ _ => g.ok
  | .bunpk g t _ _ _ _ _ => g.ok && t.isFp
  | .bpack g t fmta _ _ _ _ _ => g.ok && t.isFp && (1 ≤ fmta.toNat && fmta.toNat ≤ 10) && !(t = .f64 && 7 ≤ fmta.toNat && fmta.toNat ≤ 9)
  | .bscale g _ _ _ _ => g.ok
  | .cbload g _ => g.ok
  | .cblook g t _ _ _ => g.ok && (t = .b8 || t = .b16)
  | .qdeq g _ _ _ _ => g.ok
  | .rpt g _ _ _ _ count => g.ok && (1 ≤ count.toNat && count.toNat ≤ 4096)
  | .rwait g => g.ok
  | .rstop g _ => g.ok
  | .ld g _ _ _ => g.ok
  | .st g _ _ _ => g.ok
  | .vld g _ _ => g.ok
  | .vst g _ _ => g.ok
  | .vgath g _ _ _ _ => g.ok
  | .vscat g _ _ _ _ => g.ok
  | .lsguard g _ _ => g.ok
  | .gld g w _ m => g.ok && m.lenIs (2 ^ w.w.val - 1)
  | .gst g w _ m => g.ok && m.lenIs (2 ^ w.val - 1)
  | .gvld g _ m => g.ok && m.len.toNat ≤ 63
  | .gvst g _ m => g.ok && m.len.toNat ≤ 63
  | .xget g _ _ => g.ok
  | .xput g _ _ => g.ok
  | .gpref g _ => g.ok
  | .aadd g _ _ m _ => g.ok && m.atomLen
  | .aand g _ _ m _ => g.ok && m.atomLen
  | .aor g _ _ m _ => g.ok && m.atomLen
  | .axor g _ _ m _ => g.ok && m.atomLen
  | .amin g _ _ m _ => g.ok && m.atomLen
  | .amax g _ _ m _ => g.ok && m.atomLen
  | .aminu g _ _ m _ => g.ok && m.atomLen
  | .amaxu g _ _ m _ => g.ok && m.atomLen
  | .aswap g _ _ m _ => g.ok && m.atomLen
  | .acas g _ _ m _ => g.ok && m.atomLen
  | .afadd g _ _ m _ => g.ok && m.atomLen
  | .afmin g _ _ m _ => g.ok && m.atomLen
  | .afmax g _ _ m _ => g.ok && m.atomLen
  | .radd g _ _ m => g.ok && m.atomLen
  | .rand g _ _ m => g.ok && m.atomLen
  | .ror g _ _ m => g.ok && m.atomLen
  | .rxor g _ _ m => g.ok && m.atomLen
  | .rmin g _ _ m => g.ok && m.atomLen
  | .rmax g _ _ m => g.ok && m.atomLen
  | .rminu g _ _ m => g.ok && m.atomLen
  | .rmaxu g _ _ m => g.ok && m.atomLen
  | .rfadd g _ _ m => g.ok && m.atomLen
  | .mwait g _ m _ => g.ok && m.lenIs 7
  | .fence g _ => g.ok
  | .acq g _ => g.ok
  | .rel g _ => g.ok
  | .rell g _ m => g.ok && m.lenIs 7
  | .flushp g sc => g.ok && sc = .dev
  | .cwb g sc _ => g.ok && sc = .dev
  | .cinv g sc _ => g.ok && sc = .dev
  | .cpin g sc _ _ => g.ok && sc = .dev
  | .cunpin g sc _ => g.ok && sc = .dev
  | .ldisc g _ _ => g.ok
  | .lback g _ => g.ok
  | .lstat g _ _ => g.ok
  | .amsg g _ _ _ _ => g.ok
  | .rld g _ _ _ _ => g.ok
  | .rst g _ _ _ _ => g.ok
  | .rstn g _ _ _ _ => g.ok
  | .hret g => g.ok
  | .chpoll g _ => g.ok
  | .chlim g _ => g.ok
  | .barc g => g.ok
  | .bara g => g.ok
  | .barw g => g.ok
  | .barb g => g.ok
  | .spawn g _ _ _ => g.ok
  | .join g _ m => g.ok && m.lenIs 7
  | .texit g => g.ok
  | .launch g _ m => g.ok && m.lenIs 63
  | .frb g _ _ => g.ok
  | .fre g => g.ok
  | .fra g => g.ok
  | .frq g _ => g.ok
  | .job g _ m => g.ok && m.lenIs 191
  | .jwait g _ _ => g.ok
  | .jpoll g _ _ => g.ok
  | .jcancel g _ _ => g.ok
  | .trap g _ => g.ok
  | .kret g sel => g.ok && sel.toNat ≤ 1
  | .sread g d _ sel => g.ok && stateSelKnown sel && d.fits (stateSelVector sel)
  | .swrite g d _ sel => g.ok && stateSelWritable sel && d.fits (stateSelVector sel)
  | .sysr g _ _ sel => g.ok && sysReadable sel
  | .sysw g _ _ sel => g.ok && sysWritable sel
  | .tlbinv g _ _ _ sel => g.ok && sel.toNat ≤ 2
  | .lres g _ _ _ sel => g.ok && sel.toNat ≤ 7
  | .lmove g _ _ sel => g.ok && sel.toNat ≤ 7
  | .sstart g _ _ => g.ok
  | .sstop g _ _ => g.ok
  | .ctrr g _ sel => g.ok && sel.toNat ≤ 15
  | .ctrw g _ sel => g.ok && sel.toNat ≤ 15
  | .mark g _ => g.ok
  | .hint g _ => g.ok
  | .repeaterIssue _ => true
  | .longLatencyResult _ _ => true
  | .memoryReply _ => true
  | .injectionSlot _ _ _ _ => true
  | .agingTurn _ _ _ => true
  | .agingTenureEnd _ _ _ => true
  | .flitArrival _ _ _ _ => true
  | .flitTakenBack _ _ _ => true
  | .landedFlitAccept _ _ _ => true
  | .hbmServiceSlot _ => true
  | .reservedSlot _ => true
  | .bucketRefill _ => true
  | .homeRequest _ => true
  | .fillDataArrival _ _ => true
  | .invalidationArrival _ => true
  | .rellRecall _ _ => true
  | .combine _ _ => true
  | .frameRequest _ => true
  | .pageWalk _ _ => true
  | .tombstoneRetire _ _ => true
  | .incarnationBroadcast _ _ => true
  | .clusterReset _ => true
  | .poolpush _ _ => true
  | .keeperPreemptRequest _ => true
  | .landlordPreemptRequest _ => true
  | .controlSpaceWrite _ _ => true
  | .preemption _ => true
  | .resume _ _ => true
  | .keeperEntry _ => true
  | .landlordEntry _ => true
  | .machineCheck _ => true
  | .sidelogNotice _ => true
  | .sidelogReplay _ _ => true
  | .taskDeath _ _ _ _ => true
  | .deadFilterRetire _ _ => true
  | .deathNotice _ => true
  | .noticeRingDrain _ => true
  | .hbmUncorrectableError _ _ => true
  | .patrolScrubBurst _ _ => true
  | .scrubPassStart => true
  | .taskPop _ _ => true
  | .taskPriorityAging _ _ => true
  | .spillRefill _ => true
  | .spawnReceive _ => true
  | .stealRequest _ _ => true
  | .stealShipment _ => true
  | .stealRetryTimer _ => true
  | .poolIdleTimeout _ _ => true
  | .launchPlacement _ _ => true
  | .launchComplete _ => true
  | .migration _ _ => true
  | .messageArrival _ => true
  | .remoteLsAccess _ => true
  | .channelTransfer _ _ => true
  | .channelTimeout _ _ => true
  | .mwaitWake _ _ => true
  | .mwaitTimeout _ _ => true
  | .barrierCompletion _ _ => true
  | .bandBarrierArrival _ => true
  | .rouEdgeCheck _ => true
  | .regionHeldReadRetry _ => true
  | .regionCommit _ _ => true
  | .regionAbort _ _ _ => true
  | .jobStart _ _ => true
  | .jobUnitStep _ _ => true
  | .jobFinish _ _ => true
  | .tailWrite _ _ _ => true
  | .hostRecordTake _ => true
  | .completionEntry _ => true
  | .counterLowRead _ _ => true
  | .vfReset _ => true
  | .hostMemAccess _ _ _ => true
  | .backInvalidation _ _ => true
  | .spanRequest _ => true
  | .hostAtomic _ => true
  | .traceRecord _ => true
  | .traceWrite _ _ => true
  | .leaseSliceStart => true
  | .leaseSliceEnd => true
  | .breakHit _ _ => true
  | .powerGood _ _ _ _ => true
  | .lifeCycleChange _ => true
  | .getVersion _ => true
  | .getCapabilities _ => true
  | .negotiateAlgorithms _ => true
  | .getCertificate _ => true
  | .challenge _ => true
  | .getMeasurements _ => true
  | .moduleDescriptorRead => true
  | .powerLimitExceeded => true
  | .lastIterationRetires _ => true
  | .launchRetirement _ => true
  | .leaseRequest _ _ => true
  | .powerLimitSet _ => true
  | .drawWithinLimit => true

/-- The rows that are instructions; the others are events of the device. -/
def isEvent : Instr → Bool
  | .add _ _ _ _ => false
  | .sub _ _ _ _ => false
  | .mul _ _ _ _ => false
  | .mulh _ _ _ _ => false
  | .mulhu _ _ _ _ => false
  | .div _ _ _ _ => false
  | .divu _ _ _ _ => false
  | .rem _ _ _ _ => false
  | .remu _ _ _ _ => false
  | .and _ _ _ _ => false
  | .or _ _ _ _ => false
  | .xor _ _ _ _ => false
  | .andn _ _ _ _ => false
  | .orn _ _ _ _ => false
  | .shl _ _ _ _ => false
  | .shr _ _ _ _ => false
  | .sra _ _ _ _ => false
  | .rotl _ _ _ _ => false
  | .rotr _ _ _ _ => false
  | .min _ _ _ _ => false
  | .max _ _ _ _ => false
  | .minu _ _ _ _ => false
  | .maxu _ _ _ _ => false
  | .clz _ _ _ _ => false
  | .ctz _ _ _ _ => false
  | .popc _ _ _ _ => false
  | .brev _ _ _ _ => false
  | .bswap _ _ _ _ => false
  | .sext _ _ _ _ => false
  | .bfx _ _ _ _ => false
  | .bfi _ _ _ _ => false
  | .sel _ _ _ _ => false
  | .li _ _ _ => false
  | .cmp _ _ _ _ _ => false
  | .test _ _ _ _ => false
  | .pand _ _ _ _ => false
  | .por _ _ _ _ => false
  | .pxor _ _ _ _ => false
  | .pandn _ _ _ _ => false
  | .pset _ _ _ => false
  | .pget _ _ _ => false
  | .br _ _ => false
  | .bri _ _ => false
  | .call _ _ => false
  | .calli _ _ => false
  | .ret _ => false
  | .loop _ _ _ => false
  | .halt _ => false
  | .nop _ => false
  | .ifence _ => false
  | .rdclk _ _ => false
  | .rdid _ _ => false
  | .fadd _ _ _ _ _ _ _ => false
  | .fsub _ _ _ _ _ _ _ => false
  | .fmul _ _ _ _ _ _ _ => false
  | .fdiv _ _ _ _ _ _ _ => false
  | .fsqrt _ _ _ _ _ => false
  | .fma _ _ _ _ _ _ _ => false
  | .fmin _ _ _ _ _ => false
  | .fmax _ _ _ _ _ => false
  | .fcmp _ _ _ _ _ _ => false
  | .fcvt _ _ _ _ _ _ _ _ => false
  | .fclass _ _ _ _ => false
  | .fsgn _ _ _ _ _ => false
  | .segld _ _ _ => false
  | .segnarrow _ _ _ _ => false
  | .segq _ _ _ _ => false
  | .vadd _ _ _ _ _ => false
  | .vsub _ _ _ _ _ => false
  | .vmul _ _ _ _ _ => false
  | .vmulh _ _ _ _ _ => false
  | .vand _ _ _ _ _ => false
  | .vor _ _ _ _ _ => false
  | .vxor _ _ _ _ _ => false
  | .vshl _ _ _ _ _ => false
  | .vshr _ _ _ _ _ => false
  | .vsra _ _ _ _ _ => false
  | .vmin _ _ _ _ _ => false
  | .vmax _ _ _ _ _ => false
  | .vminu _ _ _ _ _ => false
  | .vmaxu _ _ _ _ _ => false
  | .vabsd _ _ _ _ _ => false
  | .vsel _ _ _ _ _ => false
  | .vcmp _ _ _ _ _ _ => false
  | .vfadd _ _ _ _ _ _ _ => false
  | .vfsub _ _ _ _ _ _ _ => false
  | .vfmul _ _ _ _ _ _ _ => false
  | .vfma _ _ _ _ _ _ _ => false
  | .vfms _ _ _ _ _ _ _ => false
  | .vfnma _ _ _ _ _ _ _ => false
  | .vfmin _ _ _ _ _ => false
  | .vfmax _ _ _ _ _ => false
  | .vfdiv _ _ _ _ _ _ _ => false
  | .vfsqrt _ _ _ _ _ _ => false
  | .vfrcp _ _ _ _ _ => false
  | .vfrsq _ _ _ _ _ => false
  | .vfexp2 _ _ _ _ _ _ => false
  | .vfcmp _ _ _ _ _ _ => false
  | .vfcvt _ _ _ _ _ _ _ _ _ => false
  | .vbcast _ _ _ _ => false
  | .vins _ _ _ _ _ => false
  | .vext _ _ _ _ _ => false
  | .vshuf _ _ _ _ _ => false
  | .vslide _ _ _ _ _ => false
  | .vzip _ _ _ _ _ => false
  | .vunzip _ _ _ _ _ => false
  | .vredadd _ _ _ _ _ => false
  | .vfredadd _ _ _ _ _ => false
  | .vredmax _ _ _ _ _ => false
  | .vredmin _ _ _ _ _ => false
  | .vcompress _ _ _ _ _ => false
  | .vexpand _ _ _ _ _ => false
  | .bdot _ _ _ _ _ => false
  | .bunpk _ _ _ _ _ _ _ => false
  | .bpack _ _ _ _ _ _ _ _ => false
  | .bscale _ _ _ _ _ => false
  | .cbload _ _ => false
  | .cblook _ _ _ _ _ => false
  | .qdeq _ _ _ _ _ => false
  | .rpt _ _ _ _ _ _ => false
  | .rwait _ => false
  | .rstop _ _ => false
  | .ld _ _ _ _ => false
  | .st _ _ _ _ => false
  | .vld _ _ _ => false
  | .vst _ _ _ => false
  | .vgath _ _ _ _ _ => false
  | .vscat _ _ _ _ _ => false
  | .lsguard _ _ _ => false
  | .gld _ _ _ _ => false
  | .gst _ _ _ _ => false
  | .gvld _ _ _ => false
  | .gvst _ _ _ => false
  | .xget _ _ _ => false
  | .xput _ _ _ => false
  | .gpref _ _ => false
  | .aadd _ _ _ _ _ => false
  | .aand _ _ _ _ _ => false
  | .aor _ _ _ _ _ => false
  | .axor _ _ _ _ _ => false
  | .amin _ _ _ _ _ => false
  | .amax _ _ _ _ _ => false
  | .aminu _ _ _ _ _ => false
  | .amaxu _ _ _ _ _ => false
  | .aswap _ _ _ _ _ => false
  | .acas _ _ _ _ _ => false
  | .afadd _ _ _ _ _ => false
  | .afmin _ _ _ _ _ => false
  | .afmax _ _ _ _ _ => false
  | .radd _ _ _ _ => false
  | .rand _ _ _ _ => false
  | .ror _ _ _ _ => false
  | .rxor _ _ _ _ => false
  | .rmin _ _ _ _ => false
  | .rmax _ _ _ _ => false
  | .rminu _ _ _ _ => false
  | .rmaxu _ _ _ _ => false
  | .rfadd _ _ _ _ => false
  | .mwait _ _ _ _ => false
  | .fence _ _ => false
  | .acq _ _ => false
  | .rel _ _ => false
  | .rell _ _ _ => false
  | .flushp _ _ => false
  | .cwb _ _ _ => false
  | .cinv _ _ _ => false
  | .cpin _ _ _ _ => false
  | .cunpin _ _ _ => false
  | .ldisc _ _ _ => false
  | .lback _ _ => false
  | .lstat _ _ _ => false
  | .amsg _ _ _ _ _ => false
  | .rld _ _ _ _ _ => false
  | .rst _ _ _ _ _ => false
  | .rstn _ _ _ _ _ => false
  | .hret _ => false
  | .chpoll _ _ => false
  | .chlim _ _ => false
  | .barc _ => false
  | .bara _ => false
  | .barw _ => false
  | .barb _ => false
  | .spawn _ _ _ _ => false
  | .join _ _ _ => false
  | .texit _ => false
  | .launch _ _ _ => false
  | .frb _ _ _ => false
  | .fre _ => false
  | .fra _ => false
  | .frq _ _ => false
  | .job _ _ _ => false
  | .jwait _ _ _ => false
  | .jpoll _ _ _ => false
  | .jcancel _ _ _ => false
  | .trap _ _ => false
  | .kret _ _ => false
  | .sread _ _ _ _ => false
  | .swrite _ _ _ _ => false
  | .sysr _ _ _ _ => false
  | .sysw _ _ _ _ => false
  | .tlbinv _ _ _ _ _ => false
  | .lres _ _ _ _ _ => false
  | .lmove _ _ _ _ => false
  | .sstart _ _ _ => false
  | .sstop _ _ _ => false
  | .ctrr _ _ _ => false
  | .ctrw _ _ _ => false
  | .mark _ _ => false
  | .hint _ _ => false
  | .repeaterIssue _ => true
  | .longLatencyResult _ _ => true
  | .memoryReply _ => true
  | .injectionSlot _ _ _ _ => true
  | .agingTurn _ _ _ => true
  | .agingTenureEnd _ _ _ => true
  | .flitArrival _ _ _ _ => true
  | .flitTakenBack _ _ _ => true
  | .landedFlitAccept _ _ _ => true
  | .hbmServiceSlot _ => true
  | .reservedSlot _ => true
  | .bucketRefill _ => true
  | .homeRequest _ => true
  | .fillDataArrival _ _ => true
  | .invalidationArrival _ => true
  | .rellRecall _ _ => true
  | .combine _ _ => true
  | .frameRequest _ => true
  | .pageWalk _ _ => true
  | .tombstoneRetire _ _ => true
  | .incarnationBroadcast _ _ => true
  | .clusterReset _ => true
  | .poolpush _ _ => true
  | .keeperPreemptRequest _ => true
  | .landlordPreemptRequest _ => true
  | .controlSpaceWrite _ _ => true
  | .preemption _ => true
  | .resume _ _ => true
  | .keeperEntry _ => true
  | .landlordEntry _ => true
  | .machineCheck _ => true
  | .sidelogNotice _ => true
  | .sidelogReplay _ _ => true
  | .taskDeath _ _ _ _ => true
  | .deadFilterRetire _ _ => true
  | .deathNotice _ => true
  | .noticeRingDrain _ => true
  | .hbmUncorrectableError _ _ => true
  | .patrolScrubBurst _ _ => true
  | .scrubPassStart => true
  | .taskPop _ _ => true
  | .taskPriorityAging _ _ => true
  | .spillRefill _ => true
  | .spawnReceive _ => true
  | .stealRequest _ _ => true
  | .stealShipment _ => true
  | .stealRetryTimer _ => true
  | .poolIdleTimeout _ _ => true
  | .launchPlacement _ _ => true
  | .launchComplete _ => true
  | .migration _ _ => true
  | .messageArrival _ => true
  | .remoteLsAccess _ => true
  | .channelTransfer _ _ => true
  | .channelTimeout _ _ => true
  | .mwaitWake _ _ => true
  | .mwaitTimeout _ _ => true
  | .barrierCompletion _ _ => true
  | .bandBarrierArrival _ => true
  | .rouEdgeCheck _ => true
  | .regionHeldReadRetry _ => true
  | .regionCommit _ _ => true
  | .regionAbort _ _ _ => true
  | .jobStart _ _ => true
  | .jobUnitStep _ _ => true
  | .jobFinish _ _ => true
  | .tailWrite _ _ _ => true
  | .hostRecordTake _ => true
  | .completionEntry _ => true
  | .counterLowRead _ _ => true
  | .vfReset _ => true
  | .hostMemAccess _ _ _ => true
  | .backInvalidation _ _ => true
  | .spanRequest _ => true
  | .hostAtomic _ => true
  | .traceRecord _ => true
  | .traceWrite _ _ => true
  | .leaseSliceStart => true
  | .leaseSliceEnd => true
  | .breakHit _ _ => true
  | .powerGood _ _ _ _ => true
  | .lifeCycleChange _ => true
  | .getVersion _ => true
  | .getCapabilities _ => true
  | .negotiateAlgorithms _ => true
  | .getCertificate _ => true
  | .challenge _ => true
  | .getMeasurements _ => true
  | .moduleDescriptorRead => true
  | .powerLimitExceeded => true
  | .lastIterationRetires _ => true
  | .launchRetirement _ => true
  | .leaseRequest _ _ => true
  | .powerLimitSet _ => true
  | .drawWithinLimit => true

end Sys2Proof
end

