-- ==== Sys2Proof/Decode.lean ====
section
/-! DEFINITION. Decoding and encoding of the 96-bit instruction word (13_encoding.md, R183 to R192).
`decode` is total: a word that is not an instruction is rejected by the condition of R192 that it meets. -/

namespace Sys2Proof

/-- The conditions of R192 under which a word is no instruction. -/
inductive DecodeError where
  /-- OP 0x00 or 0x16-0xFF. -/
  | unassignedOp
  /-- FN above the last value of its group. -/
  | unassignedFn
  /-- An operand class the position does not accept, an index outside its class, or class 111 misplaced. -/
  | operand
  /-- A non-zero field that the form does not use, or a must-be-zero bit set. -/
  | mustBeZero
  /-- A coding of M, a condition, a rounding mode or a format that is reserved. -/
  | reserved
  /-- A form limit of `wellFormed`: guard 000 with negate 1, a type, a length, a selector or a count. -/
  | notAdmitted
  /-- Fewer than 12 bytes. -/
  | short
  deriving DecidableEq, Repr

/-- The fields of R183, from bit 95 down. -/
structure Fields where
  op : BitVec 8
  guard : BitVec 3
  neg : Bool
  fn : BitVec 8
  d : BitVec 8
  a : BitVec 8
  b : BitVec 8
  m : BitVec 4
  x : BitVec 48
  deriving DecidableEq, Repr

/-- The fields of a word (R183). -/
def Fields.ofWord (w : BitVec 96) : Fields where
  op := w.extractLsb' 88 8
  guard := w.extractLsb' 85 3
  neg := w.getLsbD 84
  fn := w.extractLsb' 76 8
  d := w.extractLsb' 68 8
  a := w.extractLsb' 60 8
  b := w.extractLsb' 52 8
  m := w.extractLsb' 48 4
  x := w.extractLsb' 0 48

/-- The word of the fields (R183). -/
def Fields.toWord (f : Fields) : BitVec 96 :=
  f.op ++ f.guard ++ BitVec.ofBool f.neg ++ f.fn ++ f.d ++ f.a ++ f.b ++ f.m ++ f.x

/-- A field that must be zero (R192). -/
def zero {n : Nat} (b : BitVec n) : Except DecodeError Unit :=
  if b = 0 then .ok () else .error .mustBeZero

/-- A bit that must be zero. -/
def no (b : Bool) : Except DecodeError Unit :=
  if b = false then .ok () else .error .mustBeZero

/-- A field with one admitted value. -/
def is {n : Nat} (b v : BitVec n) : Except DecodeError Unit :=
  if b = v then .ok () else .error .reserved

/-! Operand specifiers: class in bits 7..5, index in bits 4..0 (R184). -/

def opClass (b : BitVec 8) : BitVec 3 := b.extractLsb' 5 3
def opIndex (b : BitVec 8) : BitVec 5 := b.extractLsb' 0 5

/-- A channel, class 100, index 0-3. -/
def decCh (b : BitVec 8) : Except DecodeError (Fin 4) :=
  if opClass b = 4 ∧ (opIndex b).toNat < 4 then .ok (b.extractLsb' 0 2).toFin else .error .operand

def encCh (c : Fin 4) : BitVec 8 := (4#3 ++ 0#3) ++ BitVec.ofNat 2 c.val

def decS (b : BitVec 8) : Except DecodeError SOp :=
  if opClass b = 0 then .ok (.s (opIndex b).toFin) else (decCh b).map .ch

def encS : SOp → BitVec 8
  | .s i => 0#3 ++ BitVec.ofNat 5 i.val
  | .ch c => encCh c

def decV (b : BitVec 8) : Except DecodeError VOp :=
  if opClass b = 1 ∧ (opIndex b).toNat < 16 then .ok (.v (b.extractLsb' 0 4).toFin) else (decCh b).map .ch

def encV : VOp → BitVec 8
  | .v i => (1#3 ++ 0#1) ++ BitVec.ofNat 4 i.val
  | .ch c => encCh c

def decP (b : BitVec 8) : Except DecodeError POp :=
  if opClass b = 2 ∧ (opIndex b).toNat < 8 then .ok (.p (b.extractLsb' 0 3).toFin) else (decCh b).map .ch

def encP' (i : Fin 8) : BitVec 8 := (2#3 ++ 0#2) ++ BitVec.ofNat 3 i.val

def encPOp : POp → BitVec 8
  | .p i => encP' i
  | .ch c => encCh c

def decK (b : BitVec 8) : Except DecodeError KOp :=
  if opClass b = 3 ∧ (opIndex b).toNat < 8 then .ok (.k (b.extractLsb' 0 3).toFin) else (decCh b).map .ch

def encK' (i : Fin 8) : BitVec 8 := (3#3 ++ 0#2) ++ BitVec.ofNat 3 i.val

def encKOp : KOp → BitVec 8
  | .k i => encK' i
  | .ch c => encCh c

def decKOpt (b : BitVec 8) : Except DecodeError KOpt :=
  if b = 0 then .ok .none
  else (decK b).map fun | .k i => .k i | .ch c => .ch c

def encKOpt : KOpt → BitVec 8
  | .none => 0
  | .k i => encK' i
  | .ch c => encCh c

def decX (b : BitVec 8) : Except DecodeError XOp :=
  if opClass b = 1 then (decV b).map fun | .v i => .v i | .ch c => .ch c
  else (decS b).map fun | .s i => .s i | .ch c => .ch c

def encX : XOp → BitVec 8
  | .s i => encS (.s i)
  | .v i => encV (.v i)
  | .ch c => encCh c

/-- A segment register: class 000, index 0-7, and no channel (R245). -/
def decSeg (b : BitVec 8) : Except DecodeError (Fin 8) :=
  if b.toNat < 8 then .ok (b.extractLsb' 0 3).toFin else .error .operand

def encSeg (i : Fin 8) : BitVec 8 := 0#5 ++ BitVec.ofNat 3 i.val

/-- B of layout I: class 111 with index 0 is the immediate X; otherwise X must be zero (R189). -/
def decSI (b : BitVec 8) (x : BitVec 48) : Except DecodeError SImm :=
  if b = 0xE0 then .ok (.imm x)
  else do
    let s ← decS b
    zero x
    pure (match s with | .s i => .s i | .ch c => .ch c)

def encSI : SImm → BitVec 8
  | .s i => encS (.s i)
  | .ch c => encCh c
  | .imm _ => 0xE0

def encSIx : SImm → BitVec 48
  | .imm x => x
  | _ => 0

/-- B of the vector forms. -/
def decVB (b : BitVec 8) (x : BitVec 48) : Except DecodeError VB :=
  if b = 0xE0 then .ok (.imm x)
  else do
    zero x
    match (opClass b).toNat with
    | 0 => pure (.s (opIndex b).toFin)
    | 1 => (decV b).map fun | .v i => .v i | .ch c => .ch c
    | 3 => (decK b).map fun | .k i => .k i | .ch c => .ch c
    | _ => (decCh b).map .ch

def encVB : VB → BitVec 8
  | .v i => encV (.v i)
  | .s i => encS (.s i)
  | .k i => encK' i
  | .imm _ => 0xE0
  | .ch c => encCh c

def encVBx : VB → BitVec 48
  | .imm x => x
  | _ => 0

/-! The modifier field (R187). -/

def decT (m : BitVec 4) : Except DecodeError ETy :=
  match m.toNat with
  | 0 => .ok .b8 | 1 => .ok .b16 | 2 => .ok .b32 | 3 => .ok .b64 | 4 => .ok .f64
  | 5 => .ok .f32 | 6 => .ok .f16 | 7 => .ok .bf16 | 8 => .ok .e4m3 | 9 => .ok .e5m2
  | _ => .error .reserved

def encT : ETy → BitVec 4
  | .b8 => 0 | .b16 => 1 | .b32 => 2 | .b64 => 3 | .f64 => 4
  | .f32 => 5 | .f16 => 6 | .bf16 => 7 | .e4m3 => 8 | .e5m2 => 9

/-- Coding W: M[3] zero, M[2] signedness, M[1:0] width. -/
def decW (m : BitVec 4) : Except DecodeError WMod :=
  if m.getLsbD 3 = false then .ok ⟨m.getLsbD 2, (m.extractLsb' 0 2).toFin⟩ else .error .reserved

def encW (w : WMod) : BitVec 4 := (0#1 ++ BitVec.ofBool w.sgn) ++ BitVec.ofNat 2 w.w.val

/-- Coding W of the forms whose signedness must be zero. -/
def decW0 (m : BitVec 4) : Except DecodeError (Fin 4) :=
  if m.extractLsb' 2 2 = 0 then .ok (m.extractLsb' 0 2).toFin else .error .reserved

def encW0 (w : Fin 4) : BitVec 4 := 0#2 ++ BitVec.ofNat 2 w.val

def decScope (m : BitVec 4) : Except DecodeError Scope :=
  match m.toNat with
  | 0 => .ok .co | 1 => .ok .cl | 2 => .ok .die | 3 => .ok .dev | 4 => .ok .sys
  | _ => .error .reserved

def encScope : Scope → BitVec 4
  | .co => 0 | .cl => 1 | .die => 2 | .dev => 3 | .sys => 4

def decCond (m : BitVec 4) : Except DecodeError Cond :=
  match m.toNat with
  | 0 => .ok .eq | 1 => .ok .ne | 2 => .ok .lt | 3 => .ok .ltu | 4 => .ok .ge | 5 => .ok .geu
  | _ => .error .reserved

def encCond : Cond → BitVec 4
  | .eq => 0 | .ne => 1 | .lt => 2 | .ltu => 3 | .ge => 4 | .geu => 5

def decFCond (m : BitVec 4) : Except DecodeError FCond :=
  match m.toNat with
  | 0 => .ok .eq | 1 => .ok .ne | 2 => .ok .lt | 3 => .ok .le | 4 => .ok .gt | 5 => .ok .ge | 6 => .ok .un
  | _ => .error .reserved

def encFCond : FCond → BitVec 4
  | .eq => 0 | .ne => 1 | .lt => 2 | .le => 3 | .gt => 4 | .ge => 5 | .un => 6

/-- Rounding codes; 4-6 are reserved (R138). -/
def decRm (m : BitVec 3) : Except DecodeError Rm :=
  match m.toNat with
  | 0 => .ok .rne | 1 => .ok .rtz | 2 => .ok .rup | 3 => .ok .rdn | 7 => .ok .dyn
  | _ => .error .reserved

def encRm : Rm → BitVec 3
  | .rne => 0 | .rtz => 1 | .rup => 2 | .rdn => 3 | .dyn => 7

def Guard.enc (g : Guard) : BitVec 3 := BitVec.ofNat 3 g.p.val

/-! The layouts of X (R189). -/

/-- Br: signed offset in X[31:0]. -/
def decBr (x : BitVec 48) : Except DecodeError (BitVec 32) := do
  zero (x.extractLsb' 32 16)
  pure (x.extractLsb' 0 32)

def encBr (off : BitVec 32) : BitVec 48 := 0#16 ++ off

/-- E and K: rm [2:0], sat [3]. -/
def xRm (x : BitVec 48) : BitVec 3 := x.extractLsb' 0 3
def xSat (x : BitVec 48) : Bool := x.getLsbD 3
def xSt (x : BitVec 48) : BitVec 4 := x.extractLsb' 4 4
def xSgn (x : BitVec 48) : Bool := x.getLsbD 8
def xCond (x : BitVec 48) : BitVec 4 := x.extractLsb' 9 4
def xTopE (x : BitVec 48) : BitVec 35 := x.extractLsb' 13 35

def encE (cond : BitVec 4) (sgn : Bool) (st : BitVec 4) (sat : Bool) (rm : BitVec 3) : BitVec 48 :=
  (0#35 ++ cond) ++ (BitVec.ofBool sgn ++ st ++ BitVec.ofBool sat ++ rm)

/-- K: fmtb [23:16] (no form uses it), fmta [15:8]. -/
def xTopK (x : BitVec 48) : BitVec 32 := x.extractLsb' 16 32
def xFmta (x : BitVec 48) : BitVec 8 := x.extractLsb' 8 8
def xMidK (x : BitVec 48) : BitVec 4 := x.extractLsb' 4 4

def encK (fmta : BitVec 8) (sat : Bool) (rm : BitVec 3) : BitVec 48 :=
  (0#32 ++ fmta) ++ (0#4 ++ BitVec.ofBool sat ++ rm)

/-- QDEQ's fmta: 0x10 (Q8) or 0x11 (Q4). -/
def decQ4 (b : BitVec 8) : Except DecodeError Bool :=
  if b = 0x10 then .ok false else if b = 0x11 then .ok true else .error .reserved

def encQ4 (q4 : Bool) : BitVec 8 := if q4 then 0x11 else 0x10

/-- P: strides, sequence length, count. -/
def xTopP (x : BitVec 48) : BitVec 20 := x.extractLsb' 28 20
def xStrb (x : BitVec 48) : BitVec 4 := x.extractLsb' 24 4
def xStra (x : BitVec 48) : BitVec 4 := x.extractLsb' 20 4
def xStrd (x : BitVec 48) : BitVec 4 := x.extractLsb' 16 4
def xSeqlen (x : BitVec 48) : Fin 8 := (x.extractLsb' 13 3).toFin
def xCount (x : BitVec 48) : BitVec 13 := x.extractLsb' 0 13

def encP (strb stra strd : BitVec 4) (seqlen : Fin 8) (count : BitVec 13) : BitVec 48 :=
  (0#20 ++ strb) ++ (stra ++ strd ++ BitVec.ofNat 3 seqlen.val ++ count)

/-- L: displacement in X[14:0], with A the base. -/
def decL (a : BitVec 8) (x : BitVec 48) : Except DecodeError LMem := do
  let r ← decS a
  zero (x.extractLsb' 15 33)
  pure ⟨r, x.extractLsb' 0 15⟩

def encL (m : LMem) : BitVec 48 := 0#33 ++ m.disp

/-- G: seg [47:45], zero [44:42], len [41:32], disp [31:0], with A the offset register. -/
def decG (a : BitVec 8) (x : BitVec 48) : Except DecodeError GMem := do
  let r ← decS a
  zero (x.extractLsb' 42 3)
  pure ⟨(x.extractLsb' 45 3).toFin, r, x.extractLsb' 0 32, x.extractLsb' 32 10⟩

def encG (m : GMem) : BitVec 48 := (BitVec.ofNat 3 m.seg.val ++ 0#3) ++ m.len ++ m.disp

/-- Q of RLD, RST, RSTN: displacement in X[14:0]. -/
def decQ (x : BitVec 48) : Except DecodeError (BitVec 15) := do
  zero (x.extractLsb' 15 33)
  pure (x.extractLsb' 0 15)

def encQ (disp : BitVec 15) : BitVec 48 := 0#33 ++ disp

/-- Q of AMSG: handler index in X[7:0]. -/
def decH (x : BitVec 48) : Except DecodeError (BitVec 8) := do
  zero (x.extractLsb' 8 40)
  pure (x.extractLsb' 0 8)

def encH (h : BitVec 8) : BitVec 48 := 0#40 ++ h

/-- Y: selector in X[15:0]. -/
def decY (x : BitVec 48) : Except DecodeError (BitVec 16) := do
  zero (x.extractLsb' 16 32)
  pure (x.extractLsb' 0 16)

def encY (sel : BitVec 16) : BitVec 48 := 0#32 ++ sel

/-- Group INT, OP 0x01 (R191). -/
def decodeInt (g : Guard) (f : Fields) : Except DecodeError Instr :=
  match f.fn.toNat with
  | 0 => do
      let d ← decS f.d
      let a ← decS f.a
      let b ← decSI f.b f.x
      zero f.m
      pure (.add g d a b)
  | 1 => do
      let d ← decS f.d
      let a ← decS f.a
      let b ← decSI f.b f.x
      zero f.m
      pure (.sub g d a b)
  | 2 => do
      let d ← decS f.d
      let a ← decS f.a
      let b ← decSI f.b f.x
      zero f.m
      pure (.mul g d a b)
  | 3 => do
      let d ← decS f.d
      let a ← decS f.a
      let b ← decSI f.b f.x
      zero f.m
      pure (.mulh g d a b)
  | 4 => do
      let d ← decS f.d
      let a ← decS f.a
      let b ← decSI f.b f.x
      zero f.m
      pure (.mulhu g d a b)
  | 5 => do
      let d ← decS f.d
      let a ← decS f.a
      let b ← decSI f.b f.x
      zero f.m
      pure (.div g d a b)
  | 6 => do
      let d ← decS f.d
      let a ← decS f.a
      let b ← decSI f.b f.x
      zero f.m
      pure (.divu g d a b)
  | 7 => do
      let d ← decS f.d
      let a ← decS f.a
      let b ← decSI f.b f.x
      zero f.m
      pure (.rem g d a b)
  | 8 => do
      let d ← decS f.d
      let a ← decS f.a
      let b ← decSI f.b f.x
      zero f.m
      pure (.remu g d a b)
  | 9 => do
      let d ← decS f.d
      let a ← decS f.a
      let b ← decSI f.b f.x
      zero f.m
      pure (.and g d a b)
  | 10 => do
      let d ← decS f.d
      let a ← decS f.a
      let b ← decSI f.b f.x
      zero f.m
      pure (.or g d a b)
  | 11 => do
      let d ← decS f.d
      let a ← decS f.a
      let b ← decSI f.b f.x
      zero f.m
      pure (.xor g d a b)
  | 12 => do
      let d ← decS f.d
      let a ← decS f.a
      let b ← decSI f.b f.x
      zero f.m
      pure (.andn g d a b)
  | 13 => do
      let d ← decS f.d
      let a ← decS f.a
      let b ← decSI f.b f.x
      zero f.m
      pure (.orn g d a b)
  | 14 => do
      let d ← decS f.d
      let a ← decS f.a
      let b ← decSI f.b f.x
      zero f.m
      pure (.shl g d a b)
  | 15 => do
      let d ← decS f.d
      let a ← decS f.a
      let b ← decSI f.b f.x
      zero f.m
      pure (.shr g d a b)
  | 16 => do
      let d ← decS f.d
      let a ← decS f.a
      let b ← decSI f.b f.x
      zero f.m
      pure (.sra g d a b)
  | 17 => do
      let d ← decS f.d
      let a ← decS f.a
      let b ← decSI f.b f.x
      zero f.m
      pure (.rotl g d a b)
  | 18 => do
      let d ← decS f.d
      let a ← decS f.a
      let b ← decSI f.b f.x
      zero f.m
      pure (.rotr g d a b)
  | 19 => do
      let d ← decS f.d
      let a ← decS f.a
      let b ← decSI f.b f.x
      zero f.m
      pure (.min g d a b)
  | 20 => do
      let d ← decS f.d
      let a ← decS f.a
      let b ← decSI f.b f.x
      zero f.m
      pure (.max g d a b)
  | 21 => do
      let d ← decS f.d
      let a ← decS f.a
      let b ← decSI f.b f.x
      zero f.m
      pure (.minu g d a b)
  | 22 => do
      let d ← decS f.d
      let a ← decS f.a
      let b ← decSI f.b f.x
      zero f.m
      pure (.maxu g d a b)
  | 23 => do
      let w ← decW0 f.m
      let d ← decS f.d
      let a ← decS f.a
      zero f.b
      zero f.x
      pure (.clz g w d a)
  | 24 => do
      let w ← decW0 f.m
      let d ← decS f.d
      let a ← decS f.a
      zero f.b
      zero f.x
      pure (.ctz g w d a)
  | 25 => do
      let w ← decW0 f.m
      let d ← decS f.d
      let a ← decS f.a
      zero f.b
      zero f.x
      pure (.popc g w d a)
  | 26 => do
      let w ← decW f.m
      let d ← decS f.d
      let a ← decS f.a
      zero f.b
      zero f.x
      pure (.brev g w d a)
  | 27 => do
      let w ← decW f.m
      let d ← decS f.d
      let a ← decS f.a
      zero f.b
      zero f.x
      pure (.bswap g w d a)
  | 28 => do
      let w ← decW f.m
      let d ← decS f.d
      let a ← decS f.a
      zero f.b
      zero f.x
      pure (.sext g w d a)
  | 29 => do
      let d ← decS f.d
      let a ← decS f.a
      let b ← decSI f.b f.x
      zero f.m
      pure (.bfx g d a b)
  | 30 => do
      let d ← decS f.d
      let a ← decS f.a
      let b ← decSI f.b f.x
      zero f.m
      pure (.bfi g d a b)
  | 31 => do
      let d ← decS f.d
      let a ← decS f.a
      let b ← decSI f.b f.x
      zero f.m
      pure (.sel g d a b)
  | 32 => do
      let d ← decS f.d
      let b ← decSI f.b f.x
      zero f.a
      zero f.m
      pure (.li g d b)
  | _ => .error .unassignedFn

/-- Group CMP, OP 0x02 (R191). -/
def decodeCmp (g : Guard) (f : Fields) : Except DecodeError Instr :=
  match f.fn.toNat with
  | 0 => do
      let c ← decCond f.m
      let d ← decP f.d
      let a ← decS f.a
      let b ← decSI f.b f.x
      pure (.cmp g c d a b)
  | 1 => do
      let d ← decP f.d
      let a ← decS f.a
      let b ← decSI f.b f.x
      zero f.m
      pure (.test g d a b)
  | 2 => do
      let d ← decP f.d
      let a ← decP f.a
      let b ← decP f.b
      zero f.m
      zero f.x
      pure (.pand g d a b)
  | 3 => do
      let d ← decP f.d
      let a ← decP f.a
      let b ← decP f.b
      zero f.m
      zero f.x
      pure (.por g d a b)
  | 4 => do
      let d ← decP f.d
      let a ← decP f.a
      let b ← decP f.b
      zero f.m
      zero f.x
      pure (.pxor g d a b)
  | 5 => do
      let d ← decP f.d
      let a ← decP f.a
      let b ← decP f.b
      zero f.m
      zero f.x
      pure (.pandn g d a b)
  | 6 => do
      let d ← decP f.d
      let b ← decSI f.b f.x
      zero f.a
      zero f.m
      pure (.pset g d b)
  | 7 => do
      let d ← decS f.d
      let a ← decP f.a
      zero f.b
      zero f.m
      zero f.x
      pure (.pget g d a)
  | _ => .error .unassignedFn

/-- Group CTRL, OP 0x03 (R191). -/
def decodeCtrl (g : Guard) (f : Fields) : Except DecodeError Instr :=
  match f.fn.toNat with
  | 0 => do
      let off ← decBr f.x
      zero f.d
      zero f.a
      zero f.b
      zero f.m
      pure (.br g off)
  | 1 => do
      let a ← decS f.a
      zero f.d
      zero f.b
      zero f.m
      zero f.x
      pure (.bri g a)
  | 2 => do
      let off ← decBr f.x
      zero f.d
      zero f.a
      zero f.b
      zero f.m
      pure (.call g off)
  | 3 => do
      let a ← decS f.a
      zero f.d
      zero f.b
      zero f.m
      zero f.x
      pure (.calli g a)
  | 4 => do
      zero f.d
      zero f.a
      zero f.b
      zero f.m
      zero f.x
      pure (.ret g)
  | 5 => do
      let d ← decS f.d
      let off ← decBr f.x
      zero f.a
      zero f.b
      zero f.m
      pure (.loop g d off)
  | 6 => do
      zero f.d
      zero f.a
      zero f.b
      zero f.m
      zero f.x
      pure (.halt g)
  | 7 => do
      zero f.d
      zero f.a
      zero f.b
      zero f.m
      zero f.x
      pure (.nop g)
  | 8 => do
      zero f.d
      zero f.a
      zero f.b
      zero f.m
      zero f.x
      pure (.ifence g)
  | 9 => do
      let d ← decS f.d
      zero f.a
      zero f.b
      zero f.m
      zero f.x
      pure (.rdclk g d)
  | 10 => do
      let d ← decS f.d
      zero f.a
      zero f.b
      zero f.m
      zero f.x
      pure (.rdid g d)
  | _ => .error .unassignedFn

/-- Group FP, OP 0x04 (R191). -/
def decodeFp (g : Guard) (f : Fields) : Except DecodeError Instr :=
  match f.fn.toNat with
  | 0 => do
      let t ← decT f.m
      let d ← decS f.d
      let a ← decS f.a
      let b ← decS f.b
      zero (xCond f.x)
      no (xSgn f.x)
      zero (xSt f.x)
      let sat := xSat f.x
      let rm ← decRm (xRm f.x)
      zero (xTopE f.x)
      pure (.fadd g t rm sat d a b)
  | 1 => do
      let t ← decT f.m
      let d ← decS f.d
      let a ← decS f.a
      let b ← decS f.b
      zero (xCond f.x)
      no (xSgn f.x)
      zero (xSt f.x)
      let sat := xSat f.x
      let rm ← decRm (xRm f.x)
      zero (xTopE f.x)
      pure (.fsub g t rm sat d a b)
  | 2 => do
      let t ← decT f.m
      let d ← decS f.d
      let a ← decS f.a
      let b ← decS f.b
      zero (xCond f.x)
      no (xSgn f.x)
      zero (xSt f.x)
      let sat := xSat f.x
      let rm ← decRm (xRm f.x)
      zero (xTopE f.x)
      pure (.fmul g t rm sat d a b)
  | 3 => do
      let t ← decT f.m
      let d ← decS f.d
      let a ← decS f.a
      let b ← decS f.b
      zero (xCond f.x)
      no (xSgn f.x)
      zero (xSt f.x)
      let sat := xSat f.x
      let rm ← decRm (xRm f.x)
      zero (xTopE f.x)
      pure (.fdiv g t rm sat d a b)
  | 4 => do
      let t ← decT f.m
      let d ← decS f.d
      let a ← decS f.a
      zero (xCond f.x)
      no (xSgn f.x)
      zero (xSt f.x)
      no (xSat f.x)
      let rm ← decRm (xRm f.x)
      zero (xTopE f.x)
      zero f.b
      pure (.fsqrt g t rm d a)
  | 5 => do
      let t ← decT f.m
      let d ← decS f.d
      let a ← decS f.a
      let b ← decS f.b
      zero (xCond f.x)
      no (xSgn f.x)
      zero (xSt f.x)
      let sat := xSat f.x
      let rm ← decRm (xRm f.x)
      zero (xTopE f.x)
      pure (.fma g t rm sat d a b)
  | 6 => do
      let t ← decT f.m
      let d ← decS f.d
      let a ← decS f.a
      let b ← decS f.b
      zero (xCond f.x)
      no (xSgn f.x)
      zero (xSt f.x)
      no (xSat f.x)
      zero (xRm f.x)
      zero (xTopE f.x)
      pure (.fmin g t d a b)
  | 7 => do
      let t ← decT f.m
      let d ← decS f.d
      let a ← decS f.a
      let b ← decS f.b
      zero (xCond f.x)
      no (xSgn f.x)
      zero (xSt f.x)
      no (xSat f.x)
      zero (xRm f.x)
      zero (xTopE f.x)
      pure (.fmax g t d a b)
  | 8 => do
      let t ← decT f.m
      let d ← decP f.d
      let a ← decS f.a
      let b ← decS f.b
      let c ← decFCond (xCond f.x)
      no (xSgn f.x)
      zero (xSt f.x)
      no (xSat f.x)
      zero (xRm f.x)
      zero (xTopE f.x)
      pure (.fcmp g t c d a b)
  | 9 => do
      let t ← decT f.m
      let d ← decS f.d
      let a ← decS f.a
      zero (xCond f.x)
      let sgn := xSgn f.x
      let st ← decT (xSt f.x)
      let sat := xSat f.x
      let rm ← decRm (xRm f.x)
      zero (xTopE f.x)
      zero f.b
      pure (.fcvt g t st sgn rm sat d a)
  | 10 => do
      let t ← decT f.m
      let d ← decS f.d
      let a ← decS f.a
      zero (xCond f.x)
      no (xSgn f.x)
      zero (xSt f.x)
      no (xSat f.x)
      zero (xRm f.x)
      zero (xTopE f.x)
      zero f.b
      pure (.fclass g t d a)
  | 11 => do
      let t ← decT f.m
      let d ← decS f.d
      let a ← decS f.a
      let b ← decS f.b
      zero (xCond f.x)
      no (xSgn f.x)
      zero (xSt f.x)
      no (xSat f.x)
      zero (xRm f.x)
      zero (xTopE f.x)
      pure (.fsgn g t d a b)
  | _ => .error .unassignedFn

/-- Group SEG, OP 0x05 (R191). -/
def decodeSeg (g : Guard) (f : Fields) : Except DecodeError Instr :=
  match f.fn.toNat with
  | 0 => do
      let d ← decSeg f.d
      let b ← decSI f.b f.x
      zero f.a
      zero f.m
      pure (.segld g d b)
  | 1 => do
      let d ← decSeg f.d
      let a ← decS f.a
      let b ← decSI f.b f.x
      zero f.m
      pure (.segnarrow g d a b)
  | 2 => do
      let d ← decS f.d
      let a ← decSeg f.a
      let b ← decSI f.b f.x
      zero f.m
      pure (.segq g d a b)
  | _ => .error .unassignedFn

/-- Group VINT, OP 0x06 (R191). -/
def decodeVint (g : Guard) (f : Fields) : Except DecodeError Instr :=
  match f.fn.toNat with
  | 0 => do
      let t ← decT f.m
      let d ← decV f.d
      let a ← decV f.a
      let b ← decVB f.b f.x
      pure (.vadd g t d a b)
  | 1 => do
      let t ← decT f.m
      let d ← decV f.d
      let a ← decV f.a
      let b ← decVB f.b f.x
      pure (.vsub g t d a b)
  | 2 => do
      let t ← decT f.m
      let d ← decV f.d
      let a ← decV f.a
      let b ← decVB f.b f.x
      pure (.vmul g t d a b)
  | 3 => do
      let t ← decT f.m
      let d ← decV f.d
      let a ← decV f.a
      let b ← decVB f.b f.x
      pure (.vmulh g t d a b)
  | 4 => do
      let t ← decT f.m
      let d ← decV f.d
      let a ← decV f.a
      let b ← decVB f.b f.x
      pure (.vand g t d a b)
  | 5 => do
      let t ← decT f.m
      let d ← decV f.d
      let a ← decV f.a
      let b ← decVB f.b f.x
      pure (.vor g t d a b)
  | 6 => do
      let t ← decT f.m
      let d ← decV f.d
      let a ← decV f.a
      let b ← decVB f.b f.x
      pure (.vxor g t d a b)
  | 7 => do
      let t ← decT f.m
      let d ← decV f.d
      let a ← decV f.a
      let b ← decVB f.b f.x
      pure (.vshl g t d a b)
  | 8 => do
      let t ← decT f.m
      let d ← decV f.d
      let a ← decV f.a
      let b ← decVB f.b f.x
      pure (.vshr g t d a b)
  | 9 => do
      let t ← decT f.m
      let d ← decV f.d
      let a ← decV f.a
      let b ← decVB f.b f.x
      pure (.vsra g t d a b)
  | 10 => do
      let t ← decT f.m
      let d ← decV f.d
      let a ← decV f.a
      let b ← decVB f.b f.x
      pure (.vmin g t d a b)
  | 11 => do
      let t ← decT f.m
      let d ← decV f.d
      let a ← decV f.a
      let b ← decVB f.b f.x
      pure (.vmax g t d a b)
  | 12 => do
      let t ← decT f.m
      let d ← decV f.d
      let a ← decV f.a
      let b ← decVB f.b f.x
      pure (.vminu g t d a b)
  | 13 => do
      let t ← decT f.m
      let d ← decV f.d
      let a ← decV f.a
      let b ← decVB f.b f.x
      pure (.vmaxu g t d a b)
  | 14 => do
      let t ← decT f.m
      let d ← decV f.d
      let a ← decV f.a
      let b ← decVB f.b f.x
      pure (.vabsd g t d a b)
  | 15 => do
      let t ← decT f.m
      let d ← decV f.d
      let a ← decV f.a
      let b ← decK f.b
      zero f.x
      pure (.vsel g t d a b)
  | 16 => do
      let t ← decT f.m
      let d ← decK f.d
      let a ← decV f.a
      let b ← decVB f.b 0
      let c ← decCond (xCond f.x)
      no (xSgn f.x)
      zero (xSt f.x)
      no (xSat f.x)
      zero (xRm f.x)
      zero (xTopE f.x)
      pure (.vcmp g t c d a b)
  | _ => .error .unassignedFn

/-- Group VFP, OP 0x07 (R191). -/
def decodeVfp (g : Guard) (f : Fields) : Except DecodeError Instr :=
  match f.fn.toNat with
  | 0 => do
      let t ← decT f.m
      let d ← decV f.d
      let a ← decV f.a
      let b ← decVB f.b 0
      zero (xCond f.x)
      no (xSgn f.x)
      zero (xSt f.x)
      let sat := xSat f.x
      let rm ← decRm (xRm f.x)
      zero (xTopE f.x)
      pure (.vfadd g t rm sat d a b)
  | 1 => do
      let t ← decT f.m
      let d ← decV f.d
      let a ← decV f.a
      let b ← decVB f.b 0
      zero (xCond f.x)
      no (xSgn f.x)
      zero (xSt f.x)
      let sat := xSat f.x
      let rm ← decRm (xRm f.x)
      zero (xTopE f.x)
      pure (.vfsub g t rm sat d a b)
  | 2 => do
      let t ← decT f.m
      let d ← decV f.d
      let a ← decV f.a
      let b ← decVB f.b 0
      zero (xCond f.x)
      no (xSgn f.x)
      zero (xSt f.x)
      let sat := xSat f.x
      let rm ← decRm (xRm f.x)
      zero (xTopE f.x)
      pure (.vfmul g t rm sat d a b)
  | 3 => do
      let t ← decT f.m
      let d ← decV f.d
      let a ← decV f.a
      let b ← decVB f.b 0
      zero (xCond f.x)
      no (xSgn f.x)
      zero (xSt f.x)
      let sat := xSat f.x
      let rm ← decRm (xRm f.x)
      zero (xTopE f.x)
      pure (.vfma g t rm sat d a b)
  | 4 => do
      let t ← decT f.m
      let d ← decV f.d
      let a ← decV f.a
      let b ← decVB f.b 0
      zero (xCond f.x)
      no (xSgn f.x)
      zero (xSt f.x)
      let sat := xSat f.x
      let rm ← decRm (xRm f.x)
      zero (xTopE f.x)
      pure (.vfms g t rm sat d a b)
  | 5 => do
      let t ← decT f.m
      let d ← decV f.d
      let a ← decV f.a
      let b ← decVB f.b 0
      zero (xCond f.x)
      no (xSgn f.x)
      zero (xSt f.x)
      let sat := xSat f.x
      let rm ← decRm (xRm f.x)
      zero (xTopE f.x)
      pure (.vfnma g t rm sat d a b)
  | 6 => do
      let t ← decT f.m
      let d ← decV f.d
      let a ← decV f.a
      let b ← decVB f.b 0
      zero (xCond f.x)
      no (xSgn f.x)
      zero (xSt f.x)
      no (xSat f.x)
      zero (xRm f.x)
      zero (xTopE f.x)
      pure (.vfmin g t d a b)
  | 7 => do
      let t ← decT f.m
      let d ← decV f.d
      let a ← decV f.a
      let b ← decVB f.b 0
      zero (xCond f.x)
      no (xSgn f.x)
      zero (xSt f.x)
      no (xSat f.x)
      zero (xRm f.x)
      zero (xTopE f.x)
      pure (.vfmax g t d a b)
  | 8 => do
      let t ← decT f.m
      let d ← decV f.d
      let a ← decV f.a
      let b ← decVB f.b 0
      zero (xCond f.x)
      no (xSgn f.x)
      zero (xSt f.x)
      let sat := xSat f.x
      let rm ← decRm (xRm f.x)
      zero (xTopE f.x)
      pure (.vfdiv g t rm sat d a b)
  | 9 => do
      let t ← decT f.m
      let d ← decV f.d
      let a ← decV f.a
      let b ← decKOpt f.b
      zero (xCond f.x)
      no (xSgn f.x)
      zero (xSt f.x)
      no (xSat f.x)
      let rm ← decRm (xRm f.x)
      zero (xTopE f.x)
      pure (.vfsqrt g t rm d a b)
  | 10 => do
      let t ← decT f.m
      let d ← decV f.d
      let a ← decV f.a
      let b ← decKOpt f.b
      zero (xCond f.x)
      no (xSgn f.x)
      zero (xSt f.x)
      no (xSat f.x)
      zero (xRm f.x)
      zero (xTopE f.x)
      pure (.vfrcp g t d a b)
  | 11 => do
      let t ← decT f.m
      let d ← decV f.d
      let a ← decV f.a
      let b ← decKOpt f.b
      zero (xCond f.x)
      no (xSgn f.x)
      zero (xSt f.x)
      no (xSat f.x)
      zero (xRm f.x)
      zero (xTopE f.x)
      pure (.vfrsq g t d a b)
  | 12 => do
      let t ← decT f.m
      let d ← decV f.d
      let a ← decV f.a
      let b ← decKOpt f.b
      zero (xCond f.x)
      no (xSgn f.x)
      zero (xSt f.x)
      let sat := xSat f.x
      zero (xRm f.x)
      zero (xTopE f.x)
      pure (.vfexp2 g t sat d a b)
  | 13 => do
      let t ← decT f.m
      let d ← decK f.d
      let a ← decV f.a
      let b ← decVB f.b 0
      let c ← decFCond (xCond f.x)
      no (xSgn f.x)
      zero (xSt f.x)
      no (xSat f.x)
      zero (xRm f.x)
      zero (xTopE f.x)
      pure (.vfcmp g t c d a b)
  | 14 => do
      let t ← decT f.m
      let d ← decV f.d
      let a ← decV f.a
      let b ← decKOpt f.b
      zero (xCond f.x)
      let sgn := xSgn f.x
      let st ← decT (xSt f.x)
      let sat := xSat f.x
      let rm ← decRm (xRm f.x)
      zero (xTopE f.x)
      pure (.vfcvt g t st sgn rm sat d a b)
  | _ => .error .unassignedFn

/-- Group VPERM, OP 0x08 (R191). -/
def decodeVperm (g : Guard) (f : Fields) : Except DecodeError Instr :=
  match f.fn.toNat with
  | 0 => do
      let t ← decT f.m
      let d ← decV f.d
      let b ← decSI f.b f.x
      zero f.a
      pure (.vbcast g t d b)
  | 1 => do
      let t ← decT f.m
      let d ← decV f.d
      let a ← decS f.a
      let b ← decSI f.b f.x
      pure (.vins g t d a b)
  | 2 => do
      let t ← decT f.m
      let d ← decS f.d
      let a ← decV f.a
      let b ← decSI f.b f.x
      pure (.vext g t d a b)
  | 3 => do
      let t ← decT f.m
      let d ← decV f.d
      let a ← decV f.a
      let b ← decVB f.b f.x
      pure (.vshuf g t d a b)
  | 4 => do
      let t ← decT f.m
      let d ← decV f.d
      let a ← decV f.a
      let b ← decSI f.b f.x
      pure (.vslide g t d a b)
  | 5 => do
      let t ← decT f.m
      let d ← decV f.d
      let a ← decV f.a
      let b ← decV f.b
      zero f.x
      pure (.vzip g t d a b)
  | 6 => do
      let t ← decT f.m
      let d ← decV f.d
      let a ← decV f.a
      let b ← decV f.b
      zero f.x
      pure (.vunzip g t d a b)
  | 7 => do
      let t ← decT f.m
      let d ← decS f.d
      let a ← decV f.a
      let b ← decK f.b
      zero f.x
      pure (.vredadd g t d a b)
  | 8 => do
      let t ← decT f.m
      let d ← decS f.d
      let a ← decV f.a
      let b ← decK f.b
      zero f.x
      pure (.vfredadd g t d a b)
  | 9 => do
      let t ← decT f.m
      let d ← decS f.d
      let a ← decV f.a
      let b ← decK f.b
      zero f.x
      pure (.vredmax g t d a b)
  | 10 => do
      let t ← decT f.m
      let d ← decS f.d
      let a ← decV f.a
      let b ← decK f.b
      zero f.x
      pure (.vredmin g t d a b)
  | 11 => do
      let t ← decT f.m
      let d ← decV f.d
      let a ← decV f.a
      let b ← decK f.b
      zero f.x
      pure (.vcompress g t d a b)
  | 12 => do
      let t ← decT f.m
      let d ← decV f.d
      let a ← decV f.a
      let b ← decK f.b
      zero f.x
      pure (.vexpand g t d a b)
  | _ => .error .unassignedFn

/-- Group VBLOCK, OP 0x09 (R191). -/
def decodeVblock (g : Guard) (f : Fields) : Except DecodeError Instr :=
  match f.fn.toNat with
  | 0 => do
      let d ← decS f.d
      let a ← decV f.a
      let b ← decV f.b
      zero (xFmta f.x)
      let sat := xSat f.x
      zero (xRm f.x)
      zero (xTopK f.x)
      zero (xMidK f.x)
      zero f.m
      pure (.bdot g sat d a b)
  | 1 => do
      let t ← decT f.m
      let d ← decV f.d
      let a ← decV f.a
      let b ← decS f.b
      zero (xFmta f.x)
      let sat := xSat f.x
      let rm ← decRm (xRm f.x)
      zero (xTopK f.x)
      zero (xMidK f.x)
      pure (.bunpk g t rm sat d a b)
  | 2 => do
      let t ← decT f.m
      let d ← decV f.d
      let a ← decV f.a
      let b ← decS f.b
      let fmta := xFmta f.x
      let sat := xSat f.x
      let rm ← decRm (xRm f.x)
      zero (xTopK f.x)
      zero (xMidK f.x)
      pure (.bpack g t fmta rm sat d a b)
  | 3 => do
      let d ← decV f.d
      let a ← decS f.a
      let b ← decS f.b
      zero (xFmta f.x)
      no (xSat f.x)
      let rm ← decRm (xRm f.x)
      zero (xTopK f.x)
      zero (xMidK f.x)
      zero f.m
      pure (.bscale g rm d a b)
  | 4 => do
      let a ← decV f.a
      zero (xFmta f.x)
      no (xSat f.x)
      zero (xRm f.x)
      zero (xTopK f.x)
      zero (xMidK f.x)
      zero f.d
      zero f.b
      zero f.m
      pure (.cbload g a)
  | 5 => do
      let t ← decT f.m
      let d ← decV f.d
      let a ← decV f.a
      let b ← decS f.b
      zero (xFmta f.x)
      no (xSat f.x)
      zero (xRm f.x)
      zero (xTopK f.x)
      zero (xMidK f.x)
      pure (.cblook g t d a b)
  | 6 => do
      let d ← decV f.d
      let a ← decV f.a
      let b ← decS f.b
      let q4 ← decQ4 (xFmta f.x)
      no (xSat f.x)
      zero (xRm f.x)
      zero (xTopK f.x)
      zero (xMidK f.x)
      is f.m 5
      pure (.qdeq g q4 d a b)
  | _ => .error .unassignedFn

/-- Group REP, OP 0x0a (R191). -/
def decodeRep (g : Guard) (f : Fields) : Except DecodeError Instr :=
  match f.fn.toNat with
  | 0 => do
      zero (xTopP f.x)
      zero f.d
      zero f.a
      zero f.b
      zero f.m
      pure (.rpt g (xStrb f.x) (xStra f.x) (xStrd f.x) (xSeqlen f.x) (xCount f.x))
  | 1 => do
      zero f.d
      zero f.a
      zero f.b
      zero f.m
      zero f.x
      pure (.rwait g)
  | 2 => do
      let d ← decS f.d
      zero f.a
      zero f.b
      zero f.m
      zero f.x
      pure (.rstop g d)
  | _ => .error .unassignedFn

/-- Group LS, OP 0x0b (R191). -/
def decodeLs (g : Guard) (f : Fields) : Except DecodeError Instr :=
  match f.fn.toNat with
  | 0 => do
      let w ← decW f.m
      let d ← decS f.d
      let m ← decL f.a f.x
      zero f.b
      pure (.ld g w d m)
  | 1 => do
      let w ← decW0 f.m
      let d ← decS f.d
      let m ← decL f.a f.x
      zero f.b
      pure (.st g w d m)
  | 2 => do
      let d ← decV f.d
      let m ← decL f.a f.x
      zero f.b
      zero f.m
      pure (.vld g d m)
  | 3 => do
      let d ← decV f.d
      let m ← decL f.a f.x
      zero f.b
      zero f.m
      pure (.vst g d m)
  | 4 => do
      let t ← decT f.m
      let d ← decV f.d
      let m ← decL f.a f.x
      let b ← decV f.b
      pure (.vgath g t d m b)
  | 5 => do
      let t ← decT f.m
      let d ← decV f.d
      let m ← decL f.a f.x
      let b ← decV f.b
      pure (.vscat g t d m b)
  | 6 => do
      let d ← decS f.d
      let m ← decL f.a f.x
      zero f.b
      zero f.m
      pure (.lsguard g d m)
  | _ => .error .unassignedFn

/-- Group GM, OP 0x0c (R191). -/
def decodeGm (g : Guard) (f : Fields) : Except DecodeError Instr :=
  match f.fn.toNat with
  | 0 => do
      let w ← decW f.m
      let d ← decS f.d
      let m ← decG f.a f.x
      zero f.b
      pure (.gld g w d m)
  | 1 => do
      let w ← decW0 f.m
      let d ← decS f.d
      let m ← decG f.a f.x
      zero f.b
      pure (.gst g w d m)
  | 2 => do
      let d ← decV f.d
      let m ← decG f.a f.x
      zero f.b
      zero f.m
      pure (.gvld g d m)
  | 3 => do
      let d ← decV f.d
      let m ← decG f.a f.x
      zero f.b
      zero f.m
      pure (.gvst g d m)
  | 4 => do
      let d ← decS f.d
      let m ← decG f.a f.x
      zero f.b
      zero f.m
      pure (.xget g d m)
  | 5 => do
      let d ← decS f.d
      let m ← decG f.a f.x
      zero f.b
      zero f.m
      pure (.xput g d m)
  | 6 => do
      let m ← decG f.a f.x
      zero f.d
      zero f.b
      zero f.m
      pure (.gpref g m)
  | _ => .error .unassignedFn

/-- Group ATOM, OP 0x0d (R191). -/
def decodeAtom (g : Guard) (f : Fields) : Except DecodeError Instr :=
  match f.fn.toNat with
  | 0 => do
      let sc ← decScope f.m
      let d ← decS f.d
      let m ← decG f.a f.x
      let b ← decS f.b
      pure (.aadd g sc d m b)
  | 1 => do
      let sc ← decScope f.m
      let d ← decS f.d
      let m ← decG f.a f.x
      let b ← decS f.b
      pure (.aand g sc d m b)
  | 2 => do
      let sc ← decScope f.m
      let d ← decS f.d
      let m ← decG f.a f.x
      let b ← decS f.b
      pure (.aor g sc d m b)
  | 3 => do
      let sc ← decScope f.m
      let d ← decS f.d
      let m ← decG f.a f.x
      let b ← decS f.b
      pure (.axor g sc d m b)
  | 4 => do
      let sc ← decScope f.m
      let d ← decS f.d
      let m ← decG f.a f.x
      let b ← decS f.b
      pure (.amin g sc d m b)
  | 5 => do
      let sc ← decScope f.m
      let d ← decS f.d
      let m ← decG f.a f.x
      let b ← decS f.b
      pure (.amax g sc d m b)
  | 6 => do
      let sc ← decScope f.m
      let d ← decS f.d
      let m ← decG f.a f.x
      let b ← decS f.b
      pure (.aminu g sc d m b)
  | 7 => do
      let sc ← decScope f.m
      let d ← decS f.d
      let m ← decG f.a f.x
      let b ← decS f.b
      pure (.amaxu g sc d m b)
  | 8 => do
      let sc ← decScope f.m
      let d ← decS f.d
      let m ← decG f.a f.x
      let b ← decS f.b
      pure (.aswap g sc d m b)
  | 9 => do
      let sc ← decScope f.m
      let d ← decS f.d
      let m ← decG f.a f.x
      let b ← decS f.b
      pure (.acas g sc d m b)
  | 10 => do
      let sc ← decScope f.m
      let d ← decS f.d
      let m ← decG f.a f.x
      let b ← decS f.b
      pure (.afadd g sc d m b)
  | 11 => do
      let sc ← decScope f.m
      let d ← decS f.d
      let m ← decG f.a f.x
      let b ← decS f.b
      pure (.afmin g sc d m b)
  | 12 => do
      let sc ← decScope f.m
      let d ← decS f.d
      let m ← decG f.a f.x
      let b ← decS f.b
      pure (.afmax g sc d m b)
  | 13 => do
      let sc ← decScope f.m
      let d ← decS f.d
      let m ← decG f.a f.x
      zero f.b
      pure (.radd g sc d m)
  | 14 => do
      let sc ← decScope f.m
      let d ← decS f.d
      let m ← decG f.a f.x
      zero f.b
      pure (.rand g sc d m)
  | 15 => do
      let sc ← decScope f.m
      let d ← decS f.d
      let m ← decG f.a f.x
      zero f.b
      pure (.ror g sc d m)
  | 16 => do
      let sc ← decScope f.m
      let d ← decS f.d
      let m ← decG f.a f.x
      zero f.b
      pure (.rxor g sc d m)
  | 17 => do
      let sc ← decScope f.m
      let d ← decS f.d
      let m ← decG f.a f.x
      zero f.b
      pure (.rmin g sc d m)
  | 18 => do
      let sc ← decScope f.m
      let d ← decS f.d
      let m ← decG f.a f.x
      zero f.b
      pure (.rmax g sc d m)
  | 19 => do
      let sc ← decScope f.m
      let d ← decS f.d
      let m ← decG f.a f.x
      zero f.b
      pure (.rminu g sc d m)
  | 20 => do
      let sc ← decScope f.m
      let d ← decS f.d
      let m ← decG f.a f.x
      zero f.b
      pure (.rmaxu g sc d m)
  | 21 => do
      let sc ← decScope f.m
      let d ← decS f.d
      let m ← decG f.a f.x
      zero f.b
      pure (.rfadd g sc d m)
  | 22 => do
      let d ← decP f.d
      let m ← decG f.a f.x
      let b ← decS f.b
      zero f.m
      pure (.mwait g d m b)
  | _ => .error .unassignedFn

/-- Group ORDER, OP 0x0e (R191). -/
def decodeOrder (g : Guard) (f : Fields) : Except DecodeError Instr :=
  match f.fn.toNat with
  | 0 => do
      let sc ← decScope f.m
      zero f.d
      zero f.a
      zero f.b
      zero f.x
      pure (.fence g sc)
  | 1 => do
      let sc ← decScope f.m
      zero f.d
      zero f.a
      zero f.b
      zero f.x
      pure (.acq g sc)
  | 2 => do
      let sc ← decScope f.m
      zero f.d
      zero f.a
      zero f.b
      zero f.x
      pure (.rel g sc)
  | 3 => do
      let sc ← decScope f.m
      let m ← decG f.a f.x
      zero f.d
      zero f.b
      pure (.rell g sc m)
  | 4 => do
      let sc ← decScope f.m
      zero f.d
      zero f.a
      zero f.b
      zero f.x
      pure (.flushp g sc)
  | 5 => do
      let sc ← decScope f.m
      let m ← decG f.a f.x
      zero f.d
      zero f.b
      pure (.cwb g sc m)
  | 6 => do
      let sc ← decScope f.m
      let m ← decG f.a f.x
      zero f.d
      zero f.b
      pure (.cinv g sc m)
  | 7 => do
      let sc ← decScope f.m
      let d ← decP f.d
      let m ← decG f.a f.x
      zero f.b
      pure (.cpin g sc d m)
  | 8 => do
      let sc ← decScope f.m
      let m ← decG f.a f.x
      zero f.d
      zero f.b
      pure (.cunpin g sc m)
  | _ => .error .unassignedFn

/-- Group LOFT, OP 0x0f (R191). -/
def decodeLoft (g : Guard) (f : Fields) : Except DecodeError Instr :=
  match f.fn.toNat with
  | 0 => do
      let d ← decS f.d
      let m ← decG f.a f.x
      zero f.b
      zero f.m
      pure (.ldisc g d m)
  | 1 => do
      let m ← decG f.a f.x
      zero f.d
      zero f.b
      zero f.m
      pure (.lback g m)
  | 2 => do
      let d ← decS f.d
      let m ← decG f.a f.x
      zero f.b
      zero f.m
      pure (.lstat g d m)
  | _ => .error .unassignedFn

/-- Group MSG, OP 0x10 (R191). -/
def decodeMsg (g : Guard) (f : Fields) : Except DecodeError Instr :=
  match f.fn.toNat with
  | 0 => do
      let d ← decS f.d
      let a ← decS f.a
      let b ← decS f.b
      let hidx ← decH f.x
      zero f.m
      pure (.amsg g d a b hidx)
  | 1 => do
      let d ← decS f.d
      let a ← decS f.a
      let b ← decS f.b
      let disp ← decQ f.x
      zero f.m
      pure (.rld g d a b disp)
  | 2 => do
      let d ← decS f.d
      let a ← decS f.a
      let b ← decS f.b
      let disp ← decQ f.x
      zero f.m
      pure (.rst g d a b disp)
  | 3 => do
      let d ← decS f.d
      let a ← decS f.a
      let b ← decS f.b
      let disp ← decQ f.x
      zero f.m
      pure (.rstn g d a b disp)
  | 4 => do
      zero f.d
      zero f.a
      zero f.b
      zero f.m
      zero f.x
      pure (.hret g)
  | 5 => do
      let d ← decS f.d
      zero f.a
      zero f.b
      zero f.m
      zero f.x
      pure (.chpoll g d)
  | 6 => do
      let b ← decSI f.b f.x
      zero f.d
      zero f.a
      zero f.m
      pure (.chlim g b)
  | _ => .error .unassignedFn

/-- Group BAR, OP 0x11 (R191). -/
def decodeBar (g : Guard) (f : Fields) : Except DecodeError Instr :=
  match f.fn.toNat with
  | 0 => do
      zero f.d
      zero f.a
      zero f.b
      zero f.m
      zero f.x
      pure (.barc g)
  | 1 => do
      zero f.d
      zero f.a
      zero f.b
      zero f.m
      zero f.x
      pure (.bara g)
  | 2 => do
      zero f.d
      zero f.a
      zero f.b
      zero f.m
      zero f.x
      pure (.barw g)
  | 3 => do
      zero f.d
      zero f.a
      zero f.b
      zero f.m
      zero f.x
      pure (.barb g)
  | _ => .error .unassignedFn

/-- Group TASK, OP 0x12 (R191). -/
def decodeTask (g : Guard) (f : Fields) : Except DecodeError Instr :=
  match f.fn.toNat with
  | 0 => do
      let d ← decP f.d
      let a ← decV f.a
      let b ← decS f.b
      zero f.m
      zero f.x
      pure (.spawn g d a b)
  | 1 => do
      let d ← decP f.d
      let m ← decG f.a f.x
      zero f.b
      zero f.m
      pure (.join g d m)
  | 2 => do
      zero f.d
      zero f.a
      zero f.b
      zero f.m
      zero f.x
      pure (.texit g)
  | 3 => do
      let d ← decS f.d
      let m ← decG f.a f.x
      zero f.b
      zero f.m
      pure (.launch g d m)
  | _ => .error .unassignedFn

/-- Group REGION, OP 0x13 (R191). -/
def decodeRegion (g : Guard) (f : Fields) : Except DecodeError Instr :=
  match f.fn.toNat with
  | 0 => do
      let d ← decS f.d
      let off ← decBr f.x
      zero f.a
      zero f.b
      zero f.m
      pure (.frb g d off)
  | 1 => do
      zero f.d
      zero f.a
      zero f.b
      zero f.m
      zero f.x
      pure (.fre g)
  | 2 => do
      zero f.d
      zero f.a
      zero f.b
      zero f.m
      zero f.x
      pure (.fra g)
  | 3 => do
      let d ← decS f.d
      zero f.a
      zero f.b
      zero f.m
      zero f.x
      pure (.frq g d)
  | _ => .error .unassignedFn

/-- Group JOB, OP 0x14 (R191). -/
def decodeJob (g : Guard) (f : Fields) : Except DecodeError Instr :=
  match f.fn.toNat with
  | 0 => do
      let d ← decS f.d
      let m ← decG f.a f.x
      zero f.b
      zero f.m
      pure (.job g d m)
  | 1 => do
      let d ← decS f.d
      let a ← decS f.a
      zero f.b
      zero f.m
      zero f.x
      pure (.jwait g d a)
  | 2 => do
      let d ← decS f.d
      let a ← decS f.a
      zero f.b
      zero f.m
      zero f.x
      pure (.jpoll g d a)
  | 3 => do
      let d ← decS f.d
      let a ← decS f.a
      zero f.b
      zero f.m
      zero f.x
      pure (.jcancel g d a)
  | _ => .error .unassignedFn

/-- Group SYS, OP 0x15 (R191). -/
def decodeSys (g : Guard) (f : Fields) : Except DecodeError Instr :=
  match f.fn.toNat with
  | 0 => do
      let sel ← decY f.x
      zero f.d
      zero f.a
      zero f.b
      zero f.m
      pure (.trap g sel)
  | 1 => do
      let sel ← decY f.x
      zero f.d
      zero f.a
      zero f.b
      zero f.m
      pure (.kret g sel)
  | 2 => do
      let d ← decX f.d
      let a ← decS f.a
      let sel ← decY f.x
      zero f.b
      zero f.m
      pure (.sread g d a sel)
  | 3 => do
      let d ← decX f.d
      let a ← decS f.a
      let sel ← decY f.x
      zero f.b
      zero f.m
      pure (.swrite g d a sel)
  | 4 => do
      let d ← decS f.d
      let a ← decS f.a
      let sel ← decY f.x
      zero f.b
      zero f.m
      pure (.sysr g d a sel)
  | 5 => do
      let d ← decS f.d
      let a ← decS f.a
      let sel ← decY f.x
      zero f.b
      zero f.m
      pure (.sysw g d a sel)
  | 6 => do
      let d ← decS f.d
      let a ← decS f.a
      let b ← decS f.b
      let sel ← decY f.x
      zero f.m
      pure (.tlbinv g d a b sel)
  | 7 => do
      let d ← decP f.d
      let a ← decS f.a
      let b ← decS f.b
      let sel ← decY f.x
      zero f.m
      pure (.lres g d a b sel)
  | 8 => do
      let d ← decS f.d
      let a ← decS f.a
      let sel ← decY f.x
      zero f.b
      zero f.m
      pure (.lmove g d a sel)
  | 9 => do
      let d ← decS f.d
      let a ← decS f.a
      zero f.b
      zero f.m
      zero f.x
      pure (.sstart g d a)
  | 10 => do
      let d ← decS f.d
      let a ← decS f.a
      zero f.b
      zero f.m
      zero f.x
      pure (.sstop g d a)
  | 11 => do
      let d ← decS f.d
      let sel ← decY f.x
      zero f.a
      zero f.b
      zero f.m
      pure (.ctrr g d sel)
  | 12 => do
      let d ← decS f.d
      let sel ← decY f.x
      zero f.a
      zero f.b
      zero f.m
      pure (.ctrw g d sel)
  | 13 => do
      let sel ← decY f.x
      zero f.d
      zero f.a
      zero f.b
      zero f.m
      pure (.mark g sel)
  | 14 => do
      let sel ← decY f.x
      zero f.d
      zero f.a
      zero f.b
      zero f.m
      pure (.hint g sel)
  | _ => .error .unassignedFn

/-- The instruction that the fields of a word name, before the admission checks of `wellFormed`. -/
def decodeFields (f : Fields) : Except DecodeError Instr :=
  let g : Guard := ⟨f.guard.toFin, f.neg⟩
  match f.op.toNat with
  | 1 => decodeInt g f
  | 2 => decodeCmp g f
  | 3 => decodeCtrl g f
  | 4 => decodeFp g f
  | 5 => decodeSeg g f
  | 6 => decodeVint g f
  | 7 => decodeVfp g f
  | 8 => decodeVperm g f
  | 9 => decodeVblock g f
  | 10 => decodeRep g f
  | 11 => decodeLs g f
  | 12 => decodeGm g f
  | 13 => decodeAtom g f
  | 14 => decodeOrder g f
  | 15 => decodeLoft g f
  | 16 => decodeMsg g f
  | 17 => decodeBar g f
  | 18 => decodeTask g f
  | 19 => decodeRegion g f
  | 20 => decodeJob g f
  | 21 => decodeSys g f
  | _ => .error .unassignedOp

/-- Decoding of one word (R192): its fields, then the limits of its form. -/
def decode (w : BitVec 96) : Except DecodeError Instr :=
  match decodeFields (Fields.ofWord w) with
  | .error e => .error e
  | .ok i => if wellFormed i then .ok i else .error .notAdmitted

/-- The 96-bit word at the head of a list of bytes, byte 0 lowest (R4, R183). -/
def wordOfBytes (l : List (BitVec 8)) : Nat :=
  l.foldr (fun b n => b.toNat + 256 * n) 0

/-- Decoding from bytes: the instruction and the bytes that follow its twelve. -/
def decodeBytes (l : List (BitVec 8)) : Except DecodeError (Instr × List (BitVec 8)) :=
  if l.length < 12 then .error .short
  else
    match decode (BitVec.ofNat 96 (wordOfBytes (l.take 12))) with
    | .error e => .error e
    | .ok i => .ok (i, l.drop 12)

/-- The fields that encode an instruction (R183 to R191); none for an event. -/
def encodeFields : Instr → Option Fields
  | .add g d a b => some ⟨1, g.enc, g.neg, 0, encS d, encS a, encSI b, 0, encSIx b⟩
  | .sub g d a b => some ⟨1, g.enc, g.neg, 1, encS d, encS a, encSI b, 0, encSIx b⟩
  | .mul g d a b => some ⟨1, g.enc, g.neg, 2, encS d, encS a, encSI b, 0, encSIx b⟩
  | .mulh g d a b => some ⟨1, g.enc, g.neg, 3, encS d, encS a, encSI b, 0, encSIx b⟩
  | .mulhu g d a b => some ⟨1, g.enc, g.neg, 4, encS d, encS a, encSI b, 0, encSIx b⟩
  | .div g d a b => some ⟨1, g.enc, g.neg, 5, encS d, encS a, encSI b, 0, encSIx b⟩
  | .divu g d a b => some ⟨1, g.enc, g.neg, 6, encS d, encS a, encSI b, 0, encSIx b⟩
  | .rem g d a b => some ⟨1, g.enc, g.neg, 7, encS d, encS a, encSI b, 0, encSIx b⟩
  | .remu g d a b => some ⟨1, g.enc, g.neg, 8, encS d, encS a, encSI b, 0, encSIx b⟩
  | .and g d a b => some ⟨1, g.enc, g.neg, 9, encS d, encS a, encSI b, 0, encSIx b⟩
  | .or g d a b => some ⟨1, g.enc, g.neg, 10, encS d, encS a, encSI b, 0, encSIx b⟩
  | .xor g d a b => some ⟨1, g.enc, g.neg, 11, encS d, encS a, encSI b, 0, encSIx b⟩
  | .andn g d a b => some ⟨1, g.enc, g.neg, 12, encS d, encS a, encSI b, 0, encSIx b⟩
  | .orn g d a b => some ⟨1, g.enc, g.neg, 13, encS d, encS a, encSI b, 0, encSIx b⟩
  | .shl g d a b => some ⟨1, g.enc, g.neg, 14, encS d, encS a, encSI b, 0, encSIx b⟩
  | .shr g d a b => some ⟨1, g.enc, g.neg, 15, encS d, encS a, encSI b, 0, encSIx b⟩
  | .sra g d a b => some ⟨1, g.enc, g.neg, 16, encS d, encS a, encSI b, 0, encSIx b⟩
  | .rotl g d a b => some ⟨1, g.enc, g.neg, 17, encS d, encS a, encSI b, 0, encSIx b⟩
  | .rotr g d a b => some ⟨1, g.enc, g.neg, 18, encS d, encS a, encSI b, 0, encSIx b⟩
  | .min g d a b => some ⟨1, g.enc, g.neg, 19, encS d, encS a, encSI b, 0, encSIx b⟩
  | .max g d a b => some ⟨1, g.enc, g.neg, 20, encS d, encS a, encSI b, 0, encSIx b⟩
  | .minu g d a b => some ⟨1, g.enc, g.neg, 21, encS d, encS a, encSI b, 0, encSIx b⟩
  | .maxu g d a b => some ⟨1, g.enc, g.neg, 22, encS d, encS a, encSI b, 0, encSIx b⟩
  | .clz g w d a => some ⟨1, g.enc, g.neg, 23, encS d, encS a, 0, encW0 w, 0⟩
  | .ctz g w d a => some ⟨1, g.enc, g.neg, 24, encS d, encS a, 0, encW0 w, 0⟩
  | .popc g w d a => some ⟨1, g.enc, g.neg, 25, encS d, encS a, 0, encW0 w, 0⟩
  | .brev g w d a => some ⟨1, g.enc, g.neg, 26, encS d, encS a, 0, encW w, 0⟩
  | .bswap g w d a => some ⟨1, g.enc, g.neg, 27, encS d, encS a, 0, encW w, 0⟩
  | .sext g w d a => some ⟨1, g.enc, g.neg, 28, encS d, encS a, 0, encW w, 0⟩
  | .bfx g d a b => some ⟨1, g.enc, g.neg, 29, encS d, encS a, encSI b, 0, encSIx b⟩
  | .bfi g d a b => some ⟨1, g.enc, g.neg, 30, encS d, encS a, encSI b, 0, encSIx b⟩
  | .sel g d a b => some ⟨1, g.enc, g.neg, 31, encS d, encS a, encSI b, 0, encSIx b⟩
  | .li g d b => some ⟨1, g.enc, g.neg, 32, encS d, 0, encSI b, 0, encSIx b⟩
  | .cmp g c d a b => some ⟨2, g.enc, g.neg, 0, encPOp d, encS a, encSI b, encCond c, encSIx b⟩
  | .test g d a b => some ⟨2, g.enc, g.neg, 1, encPOp d, encS a, encSI b, 0, encSIx b⟩
  | .pand g d a b => some ⟨2, g.enc, g.neg, 2, encPOp d, encPOp a, encPOp b, 0, 0⟩
  | .por g d a b => some ⟨2, g.enc, g.neg, 3, encPOp d, encPOp a, encPOp b, 0, 0⟩
  | .pxor g d a b => some ⟨2, g.enc, g.neg, 4, encPOp d, encPOp a, encPOp b, 0, 0⟩
  | .pandn g d a b => some ⟨2, g.enc, g.neg, 5, encPOp d, encPOp a, encPOp b, 0, 0⟩
  | .pset g d b => some ⟨2, g.enc, g.neg, 6, encPOp d, 0, encSI b, 0, encSIx b⟩
  | .pget g d a => some ⟨2, g.enc, g.neg, 7, encS d, encPOp a, 0, 0, 0⟩
  | .br g off => some ⟨3, g.enc, g.neg, 0, 0, 0, 0, 0, encBr off⟩
  | .bri g a => some ⟨3, g.enc, g.neg, 1, 0, encS a, 0, 0, 0⟩
  | .call g off => some ⟨3, g.enc, g.neg, 2, 0, 0, 0, 0, encBr off⟩
  | .calli g a => some ⟨3, g.enc, g.neg, 3, 0, encS a, 0, 0, 0⟩
  | .ret g => some ⟨3, g.enc, g.neg, 4, 0, 0, 0, 0, 0⟩
  | .loop g d off => some ⟨3, g.enc, g.neg, 5, encS d, 0, 0, 0, encBr off⟩
  | .halt g => some ⟨3, g.enc, g.neg, 6, 0, 0, 0, 0, 0⟩
  | .nop g => some ⟨3, g.enc, g.neg, 7, 0, 0, 0, 0, 0⟩
  | .ifence g => some ⟨3, g.enc, g.neg, 8, 0, 0, 0, 0, 0⟩
  | .rdclk g d => some ⟨3, g.enc, g.neg, 9, encS d, 0, 0, 0, 0⟩
  | .rdid g d => some ⟨3, g.enc, g.neg, 10, encS d, 0, 0, 0, 0⟩
  | .fadd g t rm sat d a b => some ⟨4, g.enc, g.neg, 0, encS d, encS a, encS b, encT t, encE 0 false 0 sat (encRm rm)⟩
  | .fsub g t rm sat d a b => some ⟨4, g.enc, g.neg, 1, encS d, encS a, encS b, encT t, encE 0 false 0 sat (encRm rm)⟩
  | .fmul g t rm sat d a b => some ⟨4, g.enc, g.neg, 2, encS d, encS a, encS b, encT t, encE 0 false 0 sat (encRm rm)⟩
  | .fdiv g t rm sat d a b => some ⟨4, g.enc, g.neg, 3, encS d, encS a, encS b, encT t, encE 0 false 0 sat (encRm rm)⟩
  | .fsqrt g t rm d a => some ⟨4, g.enc, g.neg, 4, encS d, encS a, 0, encT t, encE 0 false 0 false (encRm rm)⟩
  | .fma g t rm sat d a b => some ⟨4, g.enc, g.neg, 5, encS d, encS a, encS b, encT t, encE 0 false 0 sat (encRm rm)⟩
  | .fmin g t d a b => some ⟨4, g.enc, g.neg, 6, encS d, encS a, encS b, encT t, encE 0 false 0 false 0⟩
  | .fmax g t d a b => some ⟨4, g.enc, g.neg, 7, encS d, encS a, encS b, encT t, encE 0 false 0 false 0⟩
  | .fcmp g t c d a b => some ⟨4, g.enc, g.neg, 8, encPOp d, encS a, encS b, encT t, encE (encFCond c) false 0 false 0⟩
  | .fcvt g t st sgn rm sat d a => some ⟨4, g.enc, g.neg, 9, encS d, encS a, 0, encT t, encE 0 sgn (encT st) sat (encRm rm)⟩
  | .fclass g t d a => some ⟨4, g.enc, g.neg, 10, encS d, encS a, 0, encT t, encE 0 false 0 false 0⟩
  | .fsgn g t d a b => some ⟨4, g.enc, g.neg, 11, encS d, encS a, encS b, encT t, encE 0 false 0 false 0⟩
  | .segld g d b => some ⟨5, g.enc, g.neg, 0, encSeg d, 0, encSI b, 0, encSIx b⟩
  | .segnarrow g d a b => some ⟨5, g.enc, g.neg, 1, encSeg d, encS a, encSI b, 0, encSIx b⟩
  | .segq g d a b => some ⟨5, g.enc, g.neg, 2, encS d, encSeg a, encSI b, 0, encSIx b⟩
  | .vadd g t d a b => some ⟨6, g.enc, g.neg, 0, encV d, encV a, encVB b, encT t, encVBx b⟩
  | .vsub g t d a b => some ⟨6, g.enc, g.neg, 1, encV d, encV a, encVB b, encT t, encVBx b⟩
  | .vmul g t d a b => some ⟨6, g.enc, g.neg, 2, encV d, encV a, encVB b, encT t, encVBx b⟩
  | .vmulh g t d a b => some ⟨6, g.enc, g.neg, 3, encV d, encV a, encVB b, encT t, encVBx b⟩
  | .vand g t d a b => some ⟨6, g.enc, g.neg, 4, encV d, encV a, encVB b, encT t, encVBx b⟩
  | .vor g t d a b => some ⟨6, g.enc, g.neg, 5, encV d, encV a, encVB b, encT t, encVBx b⟩
  | .vxor g t d a b => some ⟨6, g.enc, g.neg, 6, encV d, encV a, encVB b, encT t, encVBx b⟩
  | .vshl g t d a b => some ⟨6, g.enc, g.neg, 7, encV d, encV a, encVB b, encT t, encVBx b⟩
  | .vshr g t d a b => some ⟨6, g.enc, g.neg, 8, encV d, encV a, encVB b, encT t, encVBx b⟩
  | .vsra g t d a b => some ⟨6, g.enc, g.neg, 9, encV d, encV a, encVB b, encT t, encVBx b⟩
  | .vmin g t d a b => some ⟨6, g.enc, g.neg, 10, encV d, encV a, encVB b, encT t, encVBx b⟩
  | .vmax g t d a b => some ⟨6, g.enc, g.neg, 11, encV d, encV a, encVB b, encT t, encVBx b⟩
  | .vminu g t d a b => some ⟨6, g.enc, g.neg, 12, encV d, encV a, encVB b, encT t, encVBx b⟩
  | .vmaxu g t d a b => some ⟨6, g.enc, g.neg, 13, encV d, encV a, encVB b, encT t, encVBx b⟩
  | .vabsd g t d a b => some ⟨6, g.enc, g.neg, 14, encV d, encV a, encVB b, encT t, encVBx b⟩
  | .vsel g t d a b => some ⟨6, g.enc, g.neg, 15, encV d, encV a, encKOp b, encT t, 0⟩
  | .vcmp g t c d a b => some ⟨6, g.enc, g.neg, 16, encKOp d, encV a, encVB b, encT t, encE (encCond c) false 0 false 0⟩
  | .vfadd g t rm sat d a b => some ⟨7, g.enc, g.neg, 0, encV d, encV a, encVB b, encT t, encE 0 false 0 sat (encRm rm)⟩
  | .vfsub g t rm sat d a b => some ⟨7, g.enc, g.neg, 1, encV d, encV a, encVB b, encT t, encE 0 false 0 sat (encRm rm)⟩
  | .vfmul g t rm sat d a b => some ⟨7, g.enc, g.neg, 2, encV d, encV a, encVB b, encT t, encE 0 false 0 sat (encRm rm)⟩
  | .vfma g t rm sat d a b => some ⟨7, g.enc, g.neg, 3, encV d, encV a, encVB b, encT t, encE 0 false 0 sat (encRm rm)⟩
  | .vfms g t rm sat d a b => some ⟨7, g.enc, g.neg, 4, encV d, encV a, encVB b, encT t, encE 0 false 0 sat (encRm rm)⟩
  | .vfnma g t rm sat d a b => some ⟨7, g.enc, g.neg, 5, encV d, encV a, encVB b, encT t, encE 0 false 0 sat (encRm rm)⟩
  | .vfmin g t d a b => some ⟨7, g.enc, g.neg, 6, encV d, encV a, encVB b, encT t, encE 0 false 0 false 0⟩
  | .vfmax g t d a b => some ⟨7, g.enc, g.neg, 7, encV d, encV a, encVB b, encT t, encE 0 false 0 false 0⟩
  | .vfdiv g t rm sat d a b => some ⟨7, g.enc, g.neg, 8, encV d, encV a, encVB b, encT t, encE 0 false 0 sat (encRm rm)⟩
  | .vfsqrt g t rm d a b => some ⟨7, g.enc, g.neg, 9, encV d, encV a, encKOpt b, encT t, encE 0 false 0 false (encRm rm)⟩
  | .vfrcp g t d a b => some ⟨7, g.enc, g.neg, 10, encV d, encV a, encKOpt b, encT t, encE 0 false 0 false 0⟩
  | .vfrsq g t d a b => some ⟨7, g.enc, g.neg, 11, encV d, encV a, encKOpt b, encT t, encE 0 false 0 false 0⟩
  | .vfexp2 g t sat d a b => some ⟨7, g.enc, g.neg, 12, encV d, encV a, encKOpt b, encT t, encE 0 false 0 sat 0⟩
  | .vfcmp g t c d a b => some ⟨7, g.enc, g.neg, 13, encKOp d, encV a, encVB b, encT t, encE (encFCond c) false 0 false 0⟩
  | .vfcvt g t st sgn rm sat d a b => some ⟨7, g.enc, g.neg, 14, encV d, encV a, encKOpt b, encT t, encE 0 sgn (encT st) sat (encRm rm)⟩
  | .vbcast g t d b => some ⟨8, g.enc, g.neg, 0, encV d, 0, encSI b, encT t, encSIx b⟩
  | .vins g t d a b => some ⟨8, g.enc, g.neg, 1, encV d, encS a, encSI b, encT t, encSIx b⟩
  | .vext g t d a b => some ⟨8, g.enc, g.neg, 2, encS d, encV a, encSI b, encT t, encSIx b⟩
  | .vshuf g t d a b => some ⟨8, g.enc, g.neg, 3, encV d, encV a, encVB b, encT t, encVBx b⟩
  | .vslide g t d a b => some ⟨8, g.enc, g.neg, 4, encV d, encV a, encSI b, encT t, encSIx b⟩
  | .vzip g t d a b => some ⟨8, g.enc, g.neg, 5, encV d, encV a, encV b, encT t, 0⟩
  | .vunzip g t d a b => some ⟨8, g.enc, g.neg, 6, encV d, encV a, encV b, encT t, 0⟩
  | .vredadd g t d a b => some ⟨8, g.enc, g.neg, 7, encS d, encV a, encKOp b, encT t, 0⟩
  | .vfredadd g t d a b => some ⟨8, g.enc, g.neg, 8, encS d, encV a, encKOp b, encT t, 0⟩
  | .vredmax g t d a b => some ⟨8, g.enc, g.neg, 9, encS d, encV a, encKOp b, encT t, 0⟩
  | .vredmin g t d a b => some ⟨8, g.enc, g.neg, 10, encS d, encV a, encKOp b, encT t, 0⟩
  | .vcompress g t d a b => some ⟨8, g.enc, g.neg, 11, encV d, encV a, encKOp b, encT t, 0⟩
  | .vexpand g t d a b => some ⟨8, g.enc, g.neg, 12, encV d, encV a, encKOp b, encT t, 0⟩
  | .bdot g sat d a b => some ⟨9, g.enc, g.neg, 0, encS d, encV a, encV b, 0, encK 0 sat 0⟩
  | .bunpk g t rm sat d a b => some ⟨9, g.enc, g.neg, 1, encV d, encV a, encS b, encT t, encK 0 sat (encRm rm)⟩
  | .bpack g t fmta rm sat d a b => some ⟨9, g.enc, g.neg, 2, encV d, encV a, encS b, encT t, encK fmta sat (encRm rm)⟩
  | .bscale g rm d a b => some ⟨9, g.enc, g.neg, 3, encV d, encS a, encS b, 0, encK 0 false (encRm rm)⟩
  | .cbload g a => some ⟨9, g.enc, g.neg, 4, 0, encV a, 0, 0, encK 0 false 0⟩
  | .cblook g t d a b => some ⟨9, g.enc, g.neg, 5, encV d, encV a, encS b, encT t, encK 0 false 0⟩
  | .qdeq g q4 d a b => some ⟨9, g.enc, g.neg, 6, encV d, encV a, encS b, 5, encK (encQ4 q4) false 0⟩
  | .rpt g strb stra strd seqlen count => some ⟨10, g.enc, g.neg, 0, 0, 0, 0, 0, encP strb stra strd seqlen count⟩
  | .rwait g => some ⟨10, g.enc, g.neg, 1, 0, 0, 0, 0, 0⟩
  | .rstop g d => some ⟨10, g.enc, g.neg, 2, encS d, 0, 0, 0, 0⟩
  | .ld g w d m => some ⟨11, g.enc, g.neg, 0, encS d, encS m.a, 0, encW w, encL m⟩
  | .st g w d m => some ⟨11, g.enc, g.neg, 1, encS d, encS m.a, 0, encW0 w, encL m⟩
  | .vld g d m => some ⟨11, g.enc, g.neg, 2, encV d, encS m.a, 0, 0, encL m⟩
  | .vst g d m => some ⟨11, g.enc, g.neg, 3, encV d, encS m.a, 0, 0, encL m⟩
  | .vgath g t d m b => some ⟨11, g.enc, g.neg, 4, encV d, encS m.a, encV b, encT t, encL m⟩
  | .vscat g t d m b => some ⟨11, g.enc, g.neg, 5, encV d, encS m.a, encV b, encT t, encL m⟩
  | .lsguard g d m => some ⟨11, g.enc, g.neg, 6, encS d, encS m.a, 0, 0, encL m⟩
  | .gld g w d m => some ⟨12, g.enc, g.neg, 0, encS d, encS m.a, 0, encW w, encG m⟩
  | .gst g w d m => some ⟨12, g.enc, g.neg, 1, encS d, encS m.a, 0, encW0 w, encG m⟩
  | .gvld g d m => some ⟨12, g.enc, g.neg, 2, encV d, encS m.a, 0, 0, encG m⟩
  | .gvst g d m => some ⟨12, g.enc, g.neg, 3, encV d, encS m.a, 0, 0, encG m⟩
  | .xget g d m => some ⟨12, g.enc, g.neg, 4, encS d, encS m.a, 0, 0, encG m⟩
  | .xput g d m => some ⟨12, g.enc, g.neg, 5, encS d, encS m.a, 0, 0, encG m⟩
  | .gpref g m => some ⟨12, g.enc, g.neg, 6, 0, encS m.a, 0, 0, encG m⟩
  | .aadd g sc d m b => some ⟨13, g.enc, g.neg, 0, encS d, encS m.a, encS b, encScope sc, encG m⟩
  | .aand g sc d m b => some ⟨13, g.enc, g.neg, 1, encS d, encS m.a, encS b, encScope sc, encG m⟩
  | .aor g sc d m b => some ⟨13, g.enc, g.neg, 2, encS d, encS m.a, encS b, encScope sc, encG m⟩
  | .axor g sc d m b => some ⟨13, g.enc, g.neg, 3, encS d, encS m.a, encS b, encScope sc, encG m⟩
  | .amin g sc d m b => some ⟨13, g.enc, g.neg, 4, encS d, encS m.a, encS b, encScope sc, encG m⟩
  | .amax g sc d m b => some ⟨13, g.enc, g.neg, 5, encS d, encS m.a, encS b, encScope sc, encG m⟩
  | .aminu g sc d m b => some ⟨13, g.enc, g.neg, 6, encS d, encS m.a, encS b, encScope sc, encG m⟩
  | .amaxu g sc d m b => some ⟨13, g.enc, g.neg, 7, encS d, encS m.a, encS b, encScope sc, encG m⟩
  | .aswap g sc d m b => some ⟨13, g.enc, g.neg, 8, encS d, encS m.a, encS b, encScope sc, encG m⟩
  | .acas g sc d m b => some ⟨13, g.enc, g.neg, 9, encS d, encS m.a, encS b, encScope sc, encG m⟩
  | .afadd g sc d m b => some ⟨13, g.enc, g.neg, 10, encS d, encS m.a, encS b, encScope sc, encG m⟩
  | .afmin g sc d m b => some ⟨13, g.enc, g.neg, 11, encS d, encS m.a, encS b, encScope sc, encG m⟩
  | .afmax g sc d m b => some ⟨13, g.enc, g.neg, 12, encS d, encS m.a, encS b, encScope sc, encG m⟩
  | .radd g sc d m => some ⟨13, g.enc, g.neg, 13, encS d, encS m.a, 0, encScope sc, encG m⟩
  | .rand g sc d m => some ⟨13, g.enc, g.neg, 14, encS d, encS m.a, 0, encScope sc, encG m⟩
  | .ror g sc d m => some ⟨13, g.enc, g.neg, 15, encS d, encS m.a, 0, encScope sc, encG m⟩
  | .rxor g sc d m => some ⟨13, g.enc, g.neg, 16, encS d, encS m.a, 0, encScope sc, encG m⟩
  | .rmin g sc d m => some ⟨13, g.enc, g.neg, 17, encS d, encS m.a, 0, encScope sc, encG m⟩
  | .rmax g sc d m => some ⟨13, g.enc, g.neg, 18, encS d, encS m.a, 0, encScope sc, encG m⟩
  | .rminu g sc d m => some ⟨13, g.enc, g.neg, 19, encS d, encS m.a, 0, encScope sc, encG m⟩
  | .rmaxu g sc d m => some ⟨13, g.enc, g.neg, 20, encS d, encS m.a, 0, encScope sc, encG m⟩
  | .rfadd g sc d m => some ⟨13, g.enc, g.neg, 21, encS d, encS m.a, 0, encScope sc, encG m⟩
  | .mwait g d m b => some ⟨13, g.enc, g.neg, 22, encPOp d, encS m.a, encS b, 0, encG m⟩
  | .fence g sc => some ⟨14, g.enc, g.neg, 0, 0, 0, 0, encScope sc, 0⟩
  | .acq g sc => some ⟨14, g.enc, g.neg, 1, 0, 0, 0, encScope sc, 0⟩
  | .rel g sc => some ⟨14, g.enc, g.neg, 2, 0, 0, 0, encScope sc, 0⟩
  | .rell g sc m => some ⟨14, g.enc, g.neg, 3, 0, encS m.a, 0, encScope sc, encG m⟩
  | .flushp g sc => some ⟨14, g.enc, g.neg, 4, 0, 0, 0, encScope sc, 0⟩
  | .cwb g sc m => some ⟨14, g.enc, g.neg, 5, 0, encS m.a, 0, encScope sc, encG m⟩
  | .cinv g sc m => some ⟨14, g.enc, g.neg, 6, 0, encS m.a, 0, encScope sc, encG m⟩
  | .cpin g sc d m => some ⟨14, g.enc, g.neg, 7, encPOp d, encS m.a, 0, encScope sc, encG m⟩
  | .cunpin g sc m => some ⟨14, g.enc, g.neg, 8, 0, encS m.a, 0, encScope sc, encG m⟩
  | .ldisc g d m => some ⟨15, g.enc, g.neg, 0, encS d, encS m.a, 0, 0, encG m⟩
  | .lback g m => some ⟨15, g.enc, g.neg, 1, 0, encS m.a, 0, 0, encG m⟩
  | .lstat g d m => some ⟨15, g.enc, g.neg, 2, encS d, encS m.a, 0, 0, encG m⟩
  | .amsg g d a b hidx => some ⟨16, g.enc, g.neg, 0, encS d, encS a, encS b, 0, encH hidx⟩
  | .rld g d a b disp => some ⟨16, g.enc, g.neg, 1, encS d, encS a, encS b, 0, encQ disp⟩
  | .rst g d a b disp => some ⟨16, g.enc, g.neg, 2, encS d, encS a, encS b, 0, encQ disp⟩
  | .rstn g d a b disp => some ⟨16, g.enc, g.neg, 3, encS d, encS a, encS b, 0, encQ disp⟩
  | .hret g => some ⟨16, g.enc, g.neg, 4, 0, 0, 0, 0, 0⟩
  | .chpoll g d => some ⟨16, g.enc, g.neg, 5, encS d, 0, 0, 0, 0⟩
  | .chlim g b => some ⟨16, g.enc, g.neg, 6, 0, 0, encSI b, 0, encSIx b⟩
  | .barc g => some ⟨17, g.enc, g.neg, 0, 0, 0, 0, 0, 0⟩
  | .bara g => some ⟨17, g.enc, g.neg, 1, 0, 0, 0, 0, 0⟩
  | .barw g => some ⟨17, g.enc, g.neg, 2, 0, 0, 0, 0, 0⟩
  | .barb g => some ⟨17, g.enc, g.neg, 3, 0, 0, 0, 0, 0⟩
  | .spawn g d a b => some ⟨18, g.enc, g.neg, 0, encPOp d, encV a, encS b, 0, 0⟩
  | .join g d m => some ⟨18, g.enc, g.neg, 1, encPOp d, encS m.a, 0, 0, encG m⟩
  | .texit g => some ⟨18, g.enc, g.neg, 2, 0, 0, 0, 0, 0⟩
  | .launch g d m => some ⟨18, g.enc, g.neg, 3, encS d, encS m.a, 0, 0, encG m⟩
  | .frb g d off => some ⟨19, g.enc, g.neg, 0, encS d, 0, 0, 0, encBr off⟩
  | .fre g => some ⟨19, g.enc, g.neg, 1, 0, 0, 0, 0, 0⟩
  | .fra g => some ⟨19, g.enc, g.neg, 2, 0, 0, 0, 0, 0⟩
  | .frq g d => some ⟨19, g.enc, g.neg, 3, encS d, 0, 0, 0, 0⟩
  | .job g d m => some ⟨20, g.enc, g.neg, 0, encS d, encS m.a, 0, 0, encG m⟩
  | .jwait g d a => some ⟨20, g.enc, g.neg, 1, encS d, encS a, 0, 0, 0⟩
  | .jpoll g d a => some ⟨20, g.enc, g.neg, 2, encS d, encS a, 0, 0, 0⟩
  | .jcancel g d a => some ⟨20, g.enc, g.neg, 3, encS d, encS a, 0, 0, 0⟩
  | .trap g sel => some ⟨21, g.enc, g.neg, 0, 0, 0, 0, 0, encY sel⟩
  | .kret g sel => some ⟨21, g.enc, g.neg, 1, 0, 0, 0, 0, encY sel⟩
  | .sread g d a sel => some ⟨21, g.enc, g.neg, 2, encX d, encS a, 0, 0, encY sel⟩
  | .swrite g d a sel => some ⟨21, g.enc, g.neg, 3, encX d, encS a, 0, 0, encY sel⟩
  | .sysr g d a sel => some ⟨21, g.enc, g.neg, 4, encS d, encS a, 0, 0, encY sel⟩
  | .sysw g d a sel => some ⟨21, g.enc, g.neg, 5, encS d, encS a, 0, 0, encY sel⟩
  | .tlbinv g d a b sel => some ⟨21, g.enc, g.neg, 6, encS d, encS a, encS b, 0, encY sel⟩
  | .lres g d a b sel => some ⟨21, g.enc, g.neg, 7, encPOp d, encS a, encS b, 0, encY sel⟩
  | .lmove g d a sel => some ⟨21, g.enc, g.neg, 8, encS d, encS a, 0, 0, encY sel⟩
  | .sstart g d a => some ⟨21, g.enc, g.neg, 9, encS d, encS a, 0, 0, 0⟩
  | .sstop g d a => some ⟨21, g.enc, g.neg, 10, encS d, encS a, 0, 0, 0⟩
  | .ctrr g d sel => some ⟨21, g.enc, g.neg, 11, encS d, 0, 0, 0, encY sel⟩
  | .ctrw g d sel => some ⟨21, g.enc, g.neg, 12, encS d, 0, 0, 0, encY sel⟩
  | .mark g sel => some ⟨21, g.enc, g.neg, 13, 0, 0, 0, 0, encY sel⟩
  | .hint g sel => some ⟨21, g.enc, g.neg, 14, 0, 0, 0, 0, encY sel⟩
  | .repeaterIssue _ => none
  | .longLatencyResult _ _ => none
  | .memoryReply _ => none
  | .injectionSlot _ _ _ _ => none
  | .agingTurn _ _ _ => none
  | .agingTenureEnd _ _ _ => none
  | .flitArrival _ _ _ _ => none
  | .flitTakenBack _ _ _ => none
  | .landedFlitAccept _ _ _ => none
  | .hbmServiceSlot _ => none
  | .reservedSlot _ => none
  | .bucketRefill _ => none
  | .homeRequest _ => none
  | .fillDataArrival _ _ => none
  | .invalidationArrival _ => none
  | .rellRecall _ _ => none
  | .combine _ _ => none
  | .frameRequest _ => none
  | .pageWalk _ _ => none
  | .tombstoneRetire _ _ => none
  | .incarnationBroadcast _ _ => none
  | .clusterReset _ => none
  | .poolpush _ _ => none
  | .keeperPreemptRequest _ => none
  | .landlordPreemptRequest _ => none
  | .controlSpaceWrite _ _ => none
  | .preemption _ => none
  | .resume _ _ => none
  | .keeperEntry _ => none
  | .landlordEntry _ => none
  | .machineCheck _ => none
  | .sidelogNotice _ => none
  | .sidelogReplay _ _ => none
  | .taskDeath _ _ _ _ => none
  | .deadFilterRetire _ _ => none
  | .deathNotice _ => none
  | .noticeRingDrain _ => none
  | .hbmUncorrectableError _ _ => none
  | .patrolScrubBurst _ _ => none
  | .scrubPassStart => none
  | .taskPop _ _ => none
  | .taskPriorityAging _ _ => none
  | .spillRefill _ => none
  | .spawnReceive _ => none
  | .stealRequest _ _ => none
  | .stealShipment _ => none
  | .stealRetryTimer _ => none
  | .poolIdleTimeout _ _ => none
  | .launchPlacement _ _ => none
  | .launchComplete _ => none
  | .migration _ _ => none
  | .messageArrival _ => none
  | .remoteLsAccess _ => none
  | .channelTransfer _ _ => none
  | .channelTimeout _ _ => none
  | .mwaitWake _ _ => none
  | .mwaitTimeout _ _ => none
  | .barrierCompletion _ _ => none
  | .bandBarrierArrival _ => none
  | .rouEdgeCheck _ => none
  | .regionHeldReadRetry _ => none
  | .regionCommit _ _ => none
  | .regionAbort _ _ _ => none
  | .jobStart _ _ => none
  | .jobUnitStep _ _ => none
  | .jobFinish _ _ => none
  | .tailWrite _ _ _ => none
  | .hostRecordTake _ => none
  | .completionEntry _ => none
  | .counterLowRead _ _ => none
  | .vfReset _ => none
  | .hostMemAccess _ _ _ => none
  | .backInvalidation _ _ => none
  | .spanRequest _ => none
  | .hostAtomic _ => none
  | .traceRecord _ => none
  | .traceWrite _ _ => none
  | .leaseSliceStart => none
  | .leaseSliceEnd => none
  | .breakHit _ _ => none
  | .powerGood _ _ _ _ => none
  | .lifeCycleChange _ => none
  | .getVersion _ => none
  | .getCapabilities _ => none
  | .negotiateAlgorithms _ => none
  | .getCertificate _ => none
  | .challenge _ => none
  | .getMeasurements _ => none
  | .moduleDescriptorRead => none
  | .powerLimitExceeded => none
  | .lastIterationRetires _ => none
  | .launchRetirement _ => none
  | .leaseRequest _ _ => none
  | .powerLimitSet _ => none
  | .drawWithinLimit => none

/-- The word of an instruction; none for an event. -/
def encode (i : Instr) : Option (BitVec 96) := (encodeFields i).map Fields.toWord

/-- The twelve bytes of a word in memory order (R4). -/
def bytesOfWord (w : BitVec 96) : List (BitVec 8) :=
  (List.range 12).map fun j => w.extractLsb' (8 * j) 8

/-- What the decoder reads from an instruction whose bits are `w`, bit 0 the least significant bit of
byte 0: the Ciurn's instruction is one 96-bit little-endian word, so the bits above `nbits` are the
higher bits of the same word. -/
def decodeTableWord (nbits w : Nat) : Option Instr :=
  match decodeBytes (bytesOfWord (BitVec.ofNat 96 (w % 2 ^ nbits))) with
  | .ok (i, _) => some i
  | .error _ => none

end Sys2Proof
end

