-- ==== Sys2Proof/Word.lean ====
section
/-! DEFINITION. The word types of the Ciurn and their plainest arithmetic. -/

namespace Sys2Proof

/-- A scalar register, a mask register or one word of a vector register (R197). -/
abbrev Word := BitVec 64
/-- A vector register (R197). -/
abbrev VReg := BitVec 512
abbrev Byte := BitVec 8
/-- A PC: bit 23 selects the space (R193). -/
abbrev Pc := BitVec 24

/-- A byte of memory or of a cache with the poison mark of its word (R86, R169). -/
structure PByte where
  v : Byte
  p : Bool
  deriving DecidableEq, Repr

/-- A word with a poison bit. -/
structure PWord where
  v : Word
  p : Bool
  deriving DecidableEq, Repr

/-- The low `8 * l.length` bits, byte 0 lowest (R4). -/
def leNat (l : List Byte) : Nat := l.foldr (fun b n => b.toNat + 256 * n) 0

/-- The `n` low bytes of `x`, byte 0 first (R4). -/
def leBytes (n x : Nat) : List Byte := (List.range n).map fun j => BitVec.ofNat 8 (x / 256 ^ j)

end Sys2Proof
end

