-- ==== Sys2Proof/Config.lean ====
section
/-! DEFINITION. What an implementation fixes and the spec does not give, and the free values.
None of these constants has a body that a proof can see. -/

namespace Sys2Proof.Config

/-- The ordering codes of R1. -/
inductive Form where
  | package
  | module
  deriving DecidableEq, Repr, Inhabited

/-- The form of this part (R1, R2; log 7). -/
opaque form : Form

/-- The power limit of the module in watts (R1). -/
def moduleLimit : Nat := 2400

/-- A byte of host memory that the device has not written (R131; log 6). -/
opaque hostByte : Nat → BitVec 8

/-- A byte of a peer's memory that this device has not written (R398; log 6). -/
opaque peerByte : Nat → BitVec 8

/-- Physical address of the root table of the landlord's own address space: no register of the spec holds
it (R162; log 12). -/
opaque landlordRoot : Nat

/-- A fresh free value: the argument is the counter that the machine advances (log 10). -/
opaque free : Nat → BitVec 64

/-- The bytes with which the side door answers an SPDM request (R410; log 11). -/
opaque spdmAnswer : List (BitVec 8) → Nat → List (BitVec 8)

/-- A firmware image in a slot of the root of trust: what is signed, its security version, its HSS signature
(R409). -/
structure Image where
  body : List (BitVec 8)
  version : Nat
  sig : List (BitVec 8)
  deriving DecidableEq, Repr, Inhabited

/-- The fuses of the root of trust: the 60-byte HSS public key and the least security version (R409). -/
structure Fuses where
  key : BitVec 480
  least : Nat
  deriving DecidableEq, Repr, Inhabited

/-- The ROM and the fuses of this part, and the images that its two slots hold (R409; log 11). -/
opaque rom : List (BitVec 8)
opaque fuses : Fuses
opaque images : Image × Image

/-- An image's signature of two LMS levels verifies under a public key (R409; log 11). -/
opaque hssVerifies : BitVec 480 → Image → Bool

/-- The bytes with which the side door answers GET_MEASUREMENTS, which cover the ROM, the firmware image, the fuses
and the life-cycle state (R410; log 11). -/
opaque measured : List (BitVec 8) → Nat → List (BitVec 8) → Option Image → Fuses → Nat → List (BitVec 8)

/-- The draw in watts that is measured in a cycle (R414; log 126). -/
opaque draw : Nat → Nat

end Sys2Proof.Config
end

