-- ==== Sys2Proof/Machine/Maps.lean ====
section
/-! DEFINITION. Finite maps with a default, as lists of pairs in rising key order, and byte memories:
lists of `Host.Cell` in canonical form (rising addresses, no zero byte: an unlisted address reads 0,
R408 step 4). -/

namespace Sys2Proof.Machine

/-- A map from naturals, rising keys. -/
abbrev SMap (α : Type) := List (Nat × α)

def mapGet? {α : Type} : SMap α → Nat → Option α
  | [], _ => none
  | (j, x) :: t, i => if j = i then some x else mapGet? t i

/-- The value at a key, or the default. -/
def mapGet {α : Type} (d : α) (m : SMap α) (i : Nat) : α := (mapGet? m i).getD d

/-- Insert or replace, keeping the keys rising. -/
def mapPut {α : Type} : SMap α → Nat → α → SMap α
  | [], i, x => [(i, x)]
  | (j, y) :: t, i, x =>
    if i < j then (i, x) :: (j, y) :: t
    else if i = j then (i, x) :: t
    else (j, y) :: mapPut t i x

def mapDel {α : Type} (m : SMap α) (i : Nat) : SMap α := m.filter fun e => e.1 != i

/-- A byte memory. -/
abbrev Mem := List Host.Cell

def memRead : Mem → Nat → Byte
  | [], _ => 0
  | (j, x) :: t, i => if j = i then x else if i < j then 0 else memRead t i

/-- A write keeps the canonical form: a zero byte removes the entry. -/
def memWrite : Mem → Nat → Byte → Mem
  | [], i, x => if x = 0 then [] else [(i, x)]
  | (j, y) :: t, i, x =>
    if i < j then (if x = 0 then (j, y) :: t else (i, x) :: (j, y) :: t)
    else if i = j then (if x = 0 then t else (i, x) :: t)
    else (j, y) :: memWrite t i x

/-- The canonical form: rising addresses above a bound, no zero byte. -/
def memWfFrom : Nat → Mem → Bool
  | _, [] => true
  | lo, (j, x) :: t => decide (lo ≤ j) && decide (x ≠ 0) && memWfFrom (j + 1) t

/-- A memory is in its canonical form. -/
def memWf (m : Mem) : Bool := memWfFrom 0 m

/-- `n` bytes from `a`. -/
def memBytes (m : Mem) (a n : Nat) : List Byte := (List.range n).map fun j => memRead m (a + j)

def memWriteList : Mem → Nat → List Byte → Mem
  | m, _, [] => m
  | m, a, b :: t => memWriteList (memWrite m a b) (a + 1) t

/-- A set of naturals, rising. -/
abbrev NSet := List Nat

def setHas (s : NSet) (i : Nat) : Bool := s.contains i

def setAdd : NSet → Nat → NSet
  | [], i => [i]
  | j :: t, i => if i < j then i :: j :: t else if i = j then j :: t else j :: setAdd t i

def setDel (s : NSet) (i : Nat) : NSet := s.filter (· != i)

/-- Replace the element at an index. -/
def listSet {α : Type} (l : List α) (i : Nat) (x : α) : List α := l.set i x

/-- Remove the element at an index. -/
def listDel {α : Type} (l : List α) (i : Nat) : List α := l.eraseIdx i

end Sys2Proof.Machine
end

