-- ==== Sys2Proof/Machine/State.lean ====
section
/-! DEFINITION. The state of the device as plain data: every piece of state the spec gives the Ciurn
(INVENTORY.md, heading State, says which rule names which). A value at reset is the wipe's zero (R408
step 2, log 1) unless a rule gives another. -/

namespace Sys2Proof.Machine

/-! Registers and strands -/

/-- A segment register: base, limit and the rights bits [124:120] as code, job, atomic, write, read,
read lowest (R78). Its reserved bits read 0 and are not held. -/
structure Seg where
  base : BitVec 56
  limit : BitVec 49
  rights : BitVec 5
  deriving DecidableEq, Repr

def Seg.zero : Seg := ⟨0, 0, 0⟩

/-- The register file of a strand or of one porter register set (R197, R46). -/
structure RegSet where
  /-- s0-s31; entry 0 is never read. -/
  s : Vector Word 32
  /-- Poison bits of s0-s31. -/
  sp : BitVec 32
  v : Vector VReg 16
  /-- Poison bits of v0-v15, one a word. -/
  vp : Vector (BitVec 8) 16
  /-- p0-p7; bit 0 is never read. -/
  p : BitVec 8
  /-- k0-k7; entry 0 is never read. -/
  k : Vector Word 8
  g : Vector Seg 8
  fs : Word
  pc : Pc
  deriving DecidableEq, Repr

/-- Every register zero (R408 step 2, R46); fs selects RNE with clear flags (R155). -/
def RegSet.zero : RegSet where
  s := Vector.replicate 32 0
  sp := 0
  v := Vector.replicate 16 0
  vp := Vector.replicate 16 0
  p := 0
  k := Vector.replicate 8 0
  g := Vector.replicate 8 Seg.zero
  fs := 0
  pc := 0

/-- The line a strand or porter executes from: its space (true: the code store), its number, and the
eight words read at entry, each with the mark of a poisoned source (R194, R195). -/
structure Line where
  code : Bool
  num : Nat
  words : List (BitVec 96 × Bool)
  deriving DecidableEq, Repr

/-- The states of R40. -/
inductive RunState where
  | idle | run | waitMem | waitMsg | trapped | stopped
  deriving DecidableEq, Repr

/-- What a party is charged with when it traps: cause, subcode, whether the upper piece failed, the
address and information words (R158, R163). -/
structure TrapInfo where
  cause : Nat
  sub : Nat := 0
  upper : Bool := false
  addr : Nat := 0
  info : Nat := 0
  deriving DecidableEq, Repr

/-- Page kinds (R83). -/
inductive PKind where
  | strong | release | unordered
  deriving DecidableEq, Repr

/-- A leaf entry as a TLB holds it, with the physical address of the entry (R83, R106). -/
structure Leaf where
  /-- Physical byte address of the page, 0 for a loft page without a frame. -/
  frame : Nat
  key : Nat
  large : Bool
  pin : Bool
  home : Nat
  loft : Bool
  kind : PKind
  atomic : Bool
  write : Bool
  read : Bool
  /-- Physical address of the entry. -/
  pte : Nat
  deriving DecidableEq, Repr

/-- The address spaces that cached bytes are keyed by: physical, or (virtual device, DVA) on loft pages
(R89, R35). -/
inductive ASpace where
  | phys
  | loft (vd : Nat)
  deriving DecidableEq, Repr

/-- Where a global load's bytes go. -/
inductive GDest where
  | scalar (d : SOp) (sgn : Bool)
  | vec (d : VOp)
  | ls (a : Nat)
  deriving DecidableEq, Repr

/-- What a global access in flight does when its pieces are translated. -/
inductive GAct where
  | load (d : GDest)
  | store
  | prefetch
  | atom (op : AOp) (sc : Scope) (d : SOp) (cmp : Word)
  | red (op : AOp) (sc : Scope)
  | mwait (d : POp)
  | join (d : Option POp)
  | launch (d : SOp)
  | job (d : SOp)
  | rell (sc : Scope)
  | cwb
  | cinv
  | cpin (d : POp)
  | cunpin
  | ldisc (d : SOp)
  | lback
  | lstat (d : SOp)
  | flushp
  /-- an ordering instruction that has acted and waits for its acknowledgement -/
  | done
  /-- RLD, or RST and RSTN without a destination -/
  | remote (d : Option SOp)
  | spawn (d : POp)
  deriving DecidableEq, Repr

/-- A piece of an access, on one page (R100): its translation when it has one, or the PAGE subcode with
which it failed. -/
structure Piece where
  dva : Nat
  len : Nat
  leaf : Option Leaf
  sub : Nat
  deriving DecidableEq, Repr

/-- A global access in flight (R43, R113). -/
structure Op where
  /-- Identity by which replies find it. -/
  id : Nat
  act : GAct
  dva : Nat
  len : Nat
  pieces : List Piece
  /-- Store data, the reduction operand or the compare value. -/
  data : List PByte
  /-- Bytes bound so far, by offset. -/
  got : SMap PByte
  /-- Replies outstanding. -/
  left : Nat
  /-- Whether the access has been sent. -/
  sent : Bool
  /-- Failing status met by a reply: 0 none, 1 POISON_SYNC, 2 LOFT_OVERFLOW. -/
  bad : Nat
  /-- The ROU slot under which the access is tracked (R355). -/
  region : Option Nat
  /-- Channel words held by source positions until every check has passed (R325): (port, words). -/
  chSrc : List (Nat × Nat)
  /-- Value gathered for the destination register, and its poison. -/
  res : Word
  resP : Bool
  /-- Cycle of issue and wait limit then (R296). -/
  since : Nat
  limit : Nat
  /-- It has been performed once, and counted (R73). -/
  begun : Bool
  deriving DecidableEq, Repr

/-- A register or flag write computed by an instruction. -/
inductive Eff where
  | s (i : Fin 32) (x : Word) (poison : Bool)
  | v (i : Fin 16) (x : VReg) (poison : BitVec 8)
  | p (i : Fin 8) (b : Bool)
  | k (i : Fin 8) (x : Word)
  | g (i : Fin 8) (x : Seg)
  | fs (x : Word)
  | flags (x : BitVec 5)
  | jump (pc : Pc)
  | chan (c : Fin 4) (ws : List Word)
  | ls (a : Nat) (bytes : List PByte)
  deriving DecidableEq, Repr

/-- What a strand or the porter out of the rotation waits for (R43). -/
inductive Wait where
  | none
  /-- a reply to the access in `op` -/
  | reply
  /-- the result of a division or square root, whose writes are held -/
  | result (effs : List Eff)
  /-- replay of its own side-log entries (R125) -/
  | sidelog
  /-- its channel condition, counted from a cycle: needs of A, B, D and of the destination, each a port
  and a number of words (R325, R326) -/
  | channel (since : Nat) (a b d dst : Option (Nat × Nat))
  /-- a claim, or the repeater (R50, R48) -/
  | claim
  | repeater
  /-- the second half of BARC, or BARW (R335) -/
  | barrier
  /-- completion of BARB (R336) -/
  | band
  /-- a watch at slice `slice`, counted from a cycle, with its limit (R296) -/
  | watch (slice since limit : Nat)
  | jwait
  /-- TLBINV: jobs whose footprints cover its page (R109) -/
  | jobs
  | fre
  /-- regions that hold words the instruction must write or drop (R361, R304), or room that is short (R94, R99) -/
  | region
  /-- a free ROU slot, a free sequencer slot, or a free queue entry -/
  | rouSlot
  | jobSlot
  | queue
  /-- the reply to RLD, RST, RSTN or SPAWN (R333, R339) -/
  | porter
  /-- a side-log entry for a piece refused with MOVED (R165), or a frame in a pool -/
  | entry
  /-- an injection-queue entry (R26) -/
  | flit
  deriving DecidableEq, Repr

/-- What holds a strand: a crew of a launch, a pool, or nothing (R53, R58). -/
inductive Member where
  | none
  | crew (launch band rank member : Nat)
  | pool (launch : Nat)
  deriving DecidableEq, Repr

/-- Why a strand is STOPPED (R317, R174, R164). -/
inductive StopBy where
  | none | sstop | preempt | machine
  deriving DecidableEq, Repr

/-- The fault record (R163) and the TRAP selector (R312). -/
structure FaultRec where
  fd0 : Word
  fd1 : Word
  fd2 : Word
  fd3 : Word
  sel : BitVec 16
  deriving DecidableEq, Repr

/-- A pending GUARD record: bank, LS address, later violations (R88). -/
structure GuardRec where
  bank : BitVec 3
  addr : BitVec 15
  more : BitVec 8
  deriving DecidableEq, Repr

/-- A strand (R40 to R77). -/
structure Strand where
  regs : RegSet
  line : Option Line
  st : RunState
  wait : Wait
  op : Option Op
  gti : BitVec 32
  parent : BitVec 32
  tag : BitVec 4
  member : Member
  /-- The join field its task record carried (R341). -/
  join : Word
  /-- CHLIM's limit (R329). -/
  limit : BitVec 32
  /-- Barrier generation bit, arrival kept, band arrival kept with its phase (R335, R336). -/
  gen : Bool
  arrived : Bool
  bandArrived : Bool
  bandPhase : Bool
  guard : Option GuardRec
  /-- Remote accesses counted (R73), the die of the last one. -/
  remote : BitVec 32
  target : Nat
  /-- HINT 2 and HINT 3 (R319). -/
  hint2 : Bool
  hint3 : Bool
  /-- ROU slot held (R351). -/
  region : Option Nat
  /-- TEXIT or HALT has performed its JOIN (R341). -/
  joined : Bool
  fault : FaultRec
  /-- A stop is pending; by whom the strand was stopped; the state it left. -/
  stopPending : Bool
  stopBy : StopBy
  left : RunState
  leftWait : Wait
  /-- The next BREAK at this PC does not fire (R159). -/
  breakDone : Bool
  /-- A record of a MIGRATED trap to raise before the first instruction (R75). -/
  migrated : Bool
  /-- The RELL word it owns: space, address (R120). -/
  rell : Option (ASpace × Nat)
  /-- Cycle since which a pool strand has been IDLE (R58). -/
  idleSince : Nat
  /-- A death that waits for room in the dead-task filter: cause and subcode (R171). -/
  dying : Option (Nat × Nat)
  /-- Cycle before which it does not issue (the model's own, R41; log 3). -/
  notBefore : Nat
  /-- PC of the last instruction that it issued (R158). -/
  last : Pc
  /-- Its next turn issues an instruction again that has waited; the cycle of its first issue (R318, R326). -/
  again : Option Nat
  /-- An abort word that it owes a channel, which it places before it issues (R327, R362). -/
  abortWord : Option (Fin 4 × Word)
  /-- The VF slot of the launch record that its task comes from (R395). -/
  host : Option (Nat × Nat)
  /-- Channel words, and room in destination buffers, that an instruction holds which waits before its access begins:
  ports and numbers of words (R325). -/
  holdSrc : List (Nat × Nat)
  holdDst : List (Nat × Nat)
  deriving DecidableEq, Repr

/-- A strand after the wipe: IDLE, with nothing (log 1, log 2). -/
def Strand.init : Strand where
  regs := RegSet.zero
  line := none
  st := .idle
  wait := .none
  op := none
  gti := 0
  parent := 0
  tag := 0
  member := .none
  join := 0
  limit := 0
  gen := false
  arrived := false
  bandArrived := false
  bandPhase := false
  guard := none
  remote := 0
  target := 0
  hint2 := false
  hint3 := false
  region := none
  joined := false
  fault := ⟨0, 0, 0, 0, 0⟩
  stopPending := false
  stopBy := .none
  left := .idle
  leftWait := .none
  breakDone := false
  migrated := false
  rell := none
  idleSince := 0
  dying := none
  notBefore := 0
  last := 0
  again := none
  abortWord := none
  host := none
  holdSrc := []
  holdDst := []

/-! The porter, the repeater and the core -/

/-- What a porter entry serves (R45, R311). -/
inductive EntryKind where
  /-- a trap of the strand at a position -/
  | trap (pos : Nat)
  /-- a side-log notice for an entry -/
  | notice (entry : Nat)
  /-- arrival of a death notice: context tag, ring index and DVA -/
  | death (tag : BitVec 4) (idx : Nat) (dva : Nat)
  /-- messages lost while the core was saved, with the context tag -/
  | lost (tag : BitVec 4) (n : Nat)
  /-- a user active message -/
  | message
  /-- the keeper or the landlord pre-emption handler -/
  | preK
  | preL
  /-- a landlord entry for a trap that keeper code raised -/
  | landlord (t : TrapInfo)
  deriving DecidableEq, Repr

/-- A handler entry of the porter: what it serves, whether it runs at level L, the context tag, and the
PC where an interrupted entry stopped. -/
structure Entry where
  kind : EntryKind
  landlord : Bool
  tag : BitVec 4
  pc : Pc
  deriving DecidableEq, Repr

/-- A message handler waiting for the porter (R331). -/
structure UserMsg where
  tag : BitVec 4
  hidx : Nat
  w0 : Word
  w1 : Word
  loc : Word
  gti : BitVec 32
  deriving DecidableEq, Repr

/-- The porter (R45, R46). -/
structure Porter where
  /-- Keeper sets by context tag. -/
  keepers : SMap RegSet
  landlord : RegSet
  cur : Option Entry
  stack : List Entry
  /-- Keeper entries waiting, oldest first: traps, notices, deaths. -/
  queue : List EntryKind
  /-- Message handlers waiting, in arrival order. -/
  msgs : List UserMsg
  st : RunState
  wait : Wait
  op : Option Op
  line : Option Line
  notBefore : Nat
  deriving DecidableEq, Repr

def Porter.init : Porter :=
  ⟨[], RegSet.zero, none, [], [], [], .run, .none, none, none, 0⟩

/-- The sequence that the repeater holds (R48 to R51, R278). -/
structure RepSeq where
  owner : Nat
  pc : Pc
  words : List (BitVec 96)
  count : Nat
  iter : Nat
  idx : Nat
  strd : Nat
  stra : Nat
  strb : Nat
  claim : BitVec 16
  /-- The owner's registers as RPT read them; only scalars and masks are used. -/
  cap : RegSet
  /-- Cycle before which it does not issue again (log 3). -/
  notBefore : Nat
  deriving DecidableEq, Repr

/-- An event counter (R318). -/
structure Counter where
  count : Word
  en : Bool
  own : Bool
  event : BitVec 8
  vd : Nat
  deriving DecidableEq, Repr

/-- A word in a channel buffer with the virtual device of its writer (R324, R325). -/
structure ChWord where
  w : Word
  vd : Nat
  deriving DecidableEq, Repr

/-- A TLB entry (R81). -/
structure TlbEntry where
  vd : Nat
  asid : Nat
  large : Bool
  /-- First DVA of the page. -/
  page : Nat
  leaf : Leaf
  used : Nat
  deriving DecidableEq, Repr

/-- A trace record before it is written (R401): kind, gti, aux, cycle. -/
structure Stamp where
  kind : Nat
  gti : BitVec 32
  aux : BitVec 16
  cycle : Nat
  deriving DecidableEq, Repr

/-- What a landlord pre-emption takes off the porter of a core that is saved already: it interrupts the keeper's
handler (R45, R177). -/
structure PorterHeld where
  cur : Option Entry
  stack : List Entry
  queue : List EntryKind
  deriving DecidableEq, Repr

/-- What pre-emption took off a core (R174 to R178): the context tag and whether the landlord saved it; the
porter's entries and the keeper entries to repost; the repeater's sequence; the messages that came meanwhile, in
order, where a held request of another core stands for itself (R333), and those lost; the 2 KiB save area of each
strand (R175); guards and codebook. The strands stand STOPPED in their positions. -/
structure SavedCore where
  tag : BitVec 4
  landlord : Bool
  cur : Option Entry
  stack : List Entry
  queue : List EntryKind
  /-- Every keeper set, as it stood at the save (R46). -/
  keepers : SMap RegSet
  rep : Option RepSeq
  msgs : List (Option UserMsg)
  lost : Nat
  areas : SMap (List PByte)
  guards : NSet
  codebook : BitVec 128
  outer : Option PorterHeld
  deriving DecidableEq, Repr

/-- A core (R16, R85 to R88, R324, R318). -/
structure Core where
  strands : SMap Strand
  porter : Porter
  rep : Option RepSeq
  ls : Mem
  /-- Poisoned local-store words, by word number. -/
  lsP : NSet
  /-- Guarded granules. -/
  guards : NSet
  /-- Input buffers of ports 0-3, head first. -/
  chans : SMap (List ChWord)
  codebook : BitVec 128
  counters : SMap Counter
  ctxbuf : Word
  preK : Bool
  preL : Bool
  /-- Context tag of the keeper that asked for pre-emption. -/
  preTag : BitVec 4
  lltab : Word
  llsave : SMap Word
  /-- Stamped trace records, and records lost. -/
  stamps : List Stamp
  stampLost : Nat
  saved : Option SavedCore
  /-- Stopped by a trap in landlord code (R164). -/
  machine : Bool
  tlb : List TlbEntry
  /-- The cycle after the last one of position 6 that a built-in handler took (R45). -/
  builtin : Nat
  deriving DecidableEq, Repr

def Core.init : Core where
  strands := []
  porter := Porter.init
  rep := none
  ls := []
  lsP := []
  guards := []
  chans := []
  codebook := 0
  counters := []
  ctxbuf := 0
  preK := false
  preL := false
  preTag := 0
  lltab := 0
  llsave := []
  stamps := []
  stampLost := 0
  saved := none
  machine := false
  tlb := []
  builtin := 0

/-! The cluster -/

/-- What identifies and fills a context: virtual device, address-space id, root, code image (its
identity and words), handler table, segment template, local-store image (R69, R419, R418). -/
structure CtxImage where
  vd : Nat
  asid : Nat
  root : Nat
  image : Nat
  code : List (BitVec 96)
  htab : Nat
  tmpl : Vector Seg 8
  lsimg : List Byte
  deriving DecidableEq, Repr

def CtxImage.none : CtxImage := ⟨0, 0, 0, 0, [], 0, Vector.replicate 8 Seg.zero, []⟩

/-- A context slot of a cluster with its registers of R313. -/
structure Ctx where
  loaded : Bool
  img : CtxImage
  /-- ctxroot as the keeper reads it. -/
  root : Word
  spillbase : Word
  spillcap : Word
  ringbase : Word
  ringsize : Word
  nbr : SMap Word
  used : Nat
  deriving DecidableEq, Repr

def Ctx.init : Ctx := ⟨false, CtxImage.none, 0, 0, 0, 0, 0, [], 0⟩

/-- The states of a cluster-cache extent (R92): clean; dirty, owed by a strand slot and possibly to a
RELL word; accrual of one operation at one width. -/
inductive CState where
  | c
  | d (slot : Nat) (owed : Option (ASpace × Nat))
  | a (op : AOp) (w : Nat)
  deriving DecidableEq, Repr

/-- A cluster-cache extent [start, start + data.length) (R89). -/
structure CExt where
  sp : ASpace
  start : Nat
  data : List PByte
  st : CState
  leaf : Leaf
  vd : Nat
  used : Nat
  deriving DecidableEq, Repr

/-- A side-log entry (R166): the operation, the piece and its data; `sub` is the PAGE subcode with which it
last failed, or 0 when its replay is due. -/
structure LogEntry where
  gti : BitVec 32
  core : Nat
  pos : Nat
  tag : BitVec 4
  /-- Logged by landlord code, under whose own translation it replays. -/
  landlord : Bool
  act : GAct
  dva : Nat
  data : List PByte
  sub : Nat
  /-- Waits for a frame of the pool of this die (R107, R167). -/
  frame : Option Nat
  /-- Order in which it was logged. -/
  seq : Nat
  deriving DecidableEq, Repr

/-- A barrier unit (R335, R336). -/
structure BarUnit where
  used : Bool
  launch : Nat
  band : Nat
  rank : Nat
  phase : Bool
  count : Nat
  live : Nat
  bandPhase : Bool
  bandCount : Nat
  deriving DecidableEq, Repr

def BarUnit.init : BarUnit := ⟨false, 0, 0, 0, false, 0, 0, false, 0⟩

/-- A task-queue entry (R60, R61): current priority and the cycle it took it, the rest of the record,
GTI, parent, enqueue time; for a spilled entry its place in the spill region. -/
structure Task where
  prio : Nat
  since : Nat
  tag : BitVec 4
  pc : Pc
  frame : Word
  join : Word
  arg : Word
  gti : BitVec 32
  parent : BitVec 32
  time : Nat
  cell : Nat := 0
  /-- The VF slot of the launch record that it comes from (R395). -/
  host : Option (Nat × Nat) := none
  deriving DecidableEq, Repr

/-- Steal state for one virtual device (R67): the neighbour to ask next, how many have answered empty in this
round, whether an answer is awaited, and the cycle before which no round begins. -/
structure Steal where
  next : Nat
  asked : Nat
  waiting : Bool
  retryAt : Option Nat
  deriving DecidableEq, Repr

def Steal.init : Steal := ⟨0, 0, false, none⟩

/-- Sequencer slot states (R371). -/
inductive JobState where
  | free | waiting | running | stopped | done | error | cancelled | predecessor
  deriving DecidableEq, Repr

/-- A sequencer slot (R369 to R371). -/
structure Job where
  st : JobState
  serial : BitVec 8
  card : List Word
  tag : BitVec 4
  vd : Nat
  gti : BitVec 32
  core : Nat
  pos : Nat
  rm : Nat
  codebook : BitVec 128
  /-- Unit steps retired; their number fixes the place in the nest. -/
  retired : Nat
  count : Nat
  exc : Nat
  status : Nat
  preds : List Nat
  delivered : Bool
  /-- DVA that failed (R384). -/
  fault : Nat
  /-- Order in which it finished. -/
  finished : Nat
  /-- Order in which it left its last edge. -/
  ready : Nat
  /-- Die of the cellar engine (R383). -/
  cellar : Option Nat
  /-- The bag's running sum, none where it is poison (R382). -/
  bag : List (Option (BitVec 32))
  /-- Completion words that have still to be written, in order (R374). -/
  cwWait : List Word
  /-- The end or stop that the last unit step brought, with its status, before it is reported. -/
  ending : Option (JobState × Nat)
  deriving DecidableEq, Repr

def Job.init : Job where
  st := .free
  serial := 0
  card := []
  tag := 0
  vd := 0
  gti := 0
  core := 0
  pos := 0
  rm := 0
  codebook := 0
  retired := 0
  count := 0
  exc := 0
  status := 0
  preds := []
  delivered := false
  fault := 0
  finished := 0
  ready := 0
  cellar := none
  bag := []
  cwWait := []
  ending := none

/-- A cluster (R37, R61, R69, R81, R89, R166, R335, R369, R179). -/
structure Cluster where
  ctxs : SMap Ctx
  cache : List CExt
  tlb : List TlbEntry
  log : SMap LogEntry
  bars : SMap BarUnit
  queue : List Task
  spill : List Task
  steal : SMap Steal
  jobs : SMap Job
  inc : BitVec 8
  /-- Homes that have not yet acknowledged the last broadcast. -/
  unacked : NSet
  /-- Destinations of ordered channels used since the last FLUSHP (R126). -/
  routes : List (Nat × Nat)
  /-- Set at which the clock that picks extents for chunks stands (R94). -/
  hand : Nat
  deriving DecidableEq, Repr

def Cluster.init : Cluster := ⟨[], [], [], [], [], [], [], [], [], 0, [], [], 0⟩

/-! Flits, homes and dies -/

/-- What a request asks of a home. -/
inductive HKind where
  | read
  /-- a read for GPREF, whose bytes only fill the cluster cache -/
  | fetch
  | write
  | atom (op : AOp) (cmp : Word)
  | red (op : AOp)
  /-- enter the cluster on the combine list of the word (R347) -/
  | accrue (op : AOp)
  | mwait (cmp : Word) (limit : Nat)
  | join
  deriving DecidableEq, Repr

/-- A request to a home for bytes of one bay: the issuer, its operation, the bytes (R98). -/
structure HReq where
  kind : HKind
  core : Nat
  pos : Nat
  op : Nat
  sp : ASpace
  addr : Nat
  len : Nat
  data : List PByte
  leaf : Leaf
  /-- Offset of the first byte within the access. -/
  off : Nat
  vd : Nat
  region : Option Nat
  /-- The bytes may be cached when they arrive: nothing has dropped them meanwhile (R94, R132, R304). -/
  keep : Bool
  deriving DecidableEq, Repr

/-- How an access was answered. -/
inductive RspStatus where
  | ok | moved | poisonSync | loftOverflow
  deriving DecidableEq, Repr

/-- Remote local-store accesses (R333). -/
inductive RemoteKind where
  | rld | rst | rstn
  deriving DecidableEq, Repr

/-- A death notice (R172): its bytes, the parent, the context it goes to and its ring. -/
structure Notice where
  bytes : List Byte
  parent : BitVec 32
  img : CtxImage
  ringbase : Word
  ringsize : Word
  deriving DecidableEq, Repr

/-- A request to an HBM controller (R31, R397): a fill of a bay for a slice, or a write-back, whose bytes stand in
the stack already. -/
structure HbmReq where
  vd : Nat
  slice : Nat
  sp : ASpace
  bay : Nat
  addr : Nat
  bursts : Nat
  write : Option (List (Nat × PByte))
  free : Bool
  served : Bool
  deriving DecidableEq, Repr

/-- Payloads of flits. -/
inductive Msg where
  | req (r : HReq)
  /-- a reply: status, value, bytes -/
  | rsp (r : HReq) (st : RspStatus) (val : Word) (bytes : List PByte)
  /-- an acknowledgement to a party's operation: value and poison, refusal, remote guard violation -/
  | ack (core pos op : Nat) (val : Word) (poison refused : Bool) (guard : Option GuardRec)
  /-- a probe of FLUSHP for an operation (R126) -/
  | probe (core pos op : Nat)
  /-- invalidation of a byte range for a home (slice) waiting for acknowledgements -/
  | inval (slice : Nat) (sp : ASpace) (addr len : Nat)
  | amsg (core hidx : Nat) (w0 w1 : Word) (loc : Word) (img : CtxImage)
  | remote (k : RemoteKind) (core : Nat) (addr : Nat) (data : Word) (score spos op : Nat) (img : CtxImage)
  | spawn (core : Nat) (task : Task) (score spos op : Nat) (img : Option CtxImage)
  | steal (victim thief vd : Nat)
  | bandArrive (launch band cluster : Nat)
  | death (n : Notice)
  | host (r : HReq)
  | span (r : HReq)
  /-- a home's request to a controller, and the data that answer a fill (R25, R98) -/
  | fetch (r : HbmReq)
  | fill (r : HbmReq)
  /-- a machine-check record of a core for its die scheduler (R164) -/
  | check (core : Nat)
  /-- 64 further bytes of the message of a flit (R20; log 112), or traffic whose effect has come about in the step
  that sent it (R25, R37; log 111) -/
  | bulk (of : Option Nat)
  deriving DecidableEq, Repr

/-- Where a flit stands on its leg (R22 to R29). -/
inductive Stage where
  | queued
  | slot (loop slot arrivals : Nat) (aging : Bool)
  | takenBack
  | landed
  | agingBuf
  | ejected
  /-- accepted at its destination and waiting there for a condition (R98, R359, R361) -/
  | held
  deriving DecidableEq, Repr

/-- A flit in flight: send order, end points, leg, channel, virtual device, GTI, source cluster and its
incarnation (R22 to R26, R179). -/
structure Flit where
  id : Nat
  sdie : Nat
  sstop : Nat
  ddie : Nat
  dstop : Nat
  /-- Die, source and destination stop of the present leg. -/
  die : Nat
  lsrc : Nat
  ldst : Nat
  vc : Nat
  vd : Nat
  gti : BitVec 32
  cluster : Nat
  inc : BitVec 8
  stage : Stage
  /-- Injection-queue age. -/
  age : Nat
  /-- Its place in the order in which the source stop of the present leg sends (R24). -/
  leg : Nat
  msg : Msg
  deriving DecidableEq, Repr

/-- The states of a home extent other than W, which region records show (R95). -/
inductive HState where
  | v | m | l
  deriving DecidableEq, Repr

/-- A home extent within one bay (R95). -/
structure HExt where
  sp : ASpace
  start : Nat
  data : List PByte
  st : HState
  pin : Bool
  sharers : BitVec 64
  leaf : Leaf
  vd : Nat
  used : Nat
  /-- Fill outstanding: these bytes are not yet data. -/
  fill : Bool
  /-- Its way in the set (R95); 16 while it has none yet. -/
  way : Nat
  deriving DecidableEq, Repr

/-- Bytes that a virtual device has pinned (R103, R302; log 92). -/
structure Pin where
  sp : ASpace
  start : Nat
  len : Nat
  vd : Nat
  deriving DecidableEq, Repr

/-- A combine list of a word: clusters that hold A bytes of it (R123). -/
structure Combine where
  sp : ASpace
  addr : Nat
  clusters : NSet
  leaf : Leaf
  deriving DecidableEq, Repr

/-- Region records of an aligned word (R355): writers in order with their bytes, readers. -/
structure RegRec where
  sp : ASpace
  addr : Nat
  vd : Nat
  leaf : Leaf
  writers : List (Nat × SMap PByte)
  readers : NSet
  deriving DecidableEq, Repr

/-- A RELL owner of a word (R120). -/
structure Owner where
  sp : ASpace
  addr : Nat
  core : Nat
  pos : Nat
  deriving DecidableEq, Repr

/-- A watch entry (R296). -/
structure Watch where
  core : Nat
  pos : Nat
  op : Nat
  sp : ASpace
  addr : Nat
  cmp : Word
  /-- A write has changed the word: the waiter wakes with this result. -/
  fired : Option Bool
  deriving DecidableEq, Repr

/-- The bays [bay, bay + n) of a purged page, as far as they are a slice's, and the flit identity that was
next at the purge (R182). -/
structure Tomb where
  sp : ASpace
  bay : Nat
  n : Nat
  born : Nat
  deriving DecidableEq, Repr

/-- A strong write whose invalidations are outstanding (R116): the request and the clusters left. -/
structure Busy where
  flit : Nat
  sp : ASpace
  addr : Nat
  len : Nat
  left : NSet
  deriving DecidableEq, Repr

/-- A fill outstanding at a home: its bytes, and the requester records that it has taken (R98). -/
structure Fill where
  sp : ASpace
  start : Nat
  len : Nat
  recs : Nat
  deriving DecidableEq, Repr

/-- A home slice (R95 to R99). -/
structure Slice where
  exts : List HExt
  combines : List Combine
  regs : List RegRec
  owners : List Owner
  watches : List Watch
  tombs : List Tomb
  busy : List Busy
  incs : SMap (BitVec 8)
  dropped : Nat
  fills : List Fill
  pins : List Pin
  deriving DecidableEq, Repr

def Slice.init : Slice := ⟨[], [], [], [], [], [], [], [], 0, [], []⟩

/-- A walk waiting or in progress (R38, R81): the party, its cluster's tag, the piece. -/
structure Walk where
  core : Nat
  pos : Nat
  op : Nat
  tag : BitVec 4
  piece : Nat
  /-- The DVA and length of a GPREF, whose strand does not wait, and whether landlord code issued it (R288). -/
  pref : Option (Nat × Nat × Bool)
  deriving DecidableEq, Repr

/-- A region slot of a ROU (R351, R362). -/
structure RegSlot where
  core : Nat
  pos : Nat
  seq : Nat
  fail : Pc
  code : SOp
  ckpt : RegSet
  depth : Nat
  fre : Bool
  committing : Bool
  deriving DecidableEq, Repr

/-- The Region Order Unit (R357). -/
structure Rou where
  slots : SMap RegSlot
  counter : Nat
  /-- Edges entered, and those among them that forward. C is their closure. -/
  e : List (Nat × Nat)
  f : List (Nat × Nat)
  /-- Edges waiting for a check: from, to, forwarding. -/
  pend : List (Nat × Nat × Bool)
  /-- Requests of FRB for a slot in the order of their arrival: core, position, GTI (R351). -/
  queue : List (Nat × Nat × BitVec 32)
  /-- Reads that wait for a producer: the flit, the producer's slot (R359). -/
  held : List (Nat × Nat)
  deriving DecidableEq, Repr

def Rou.init : Rou := ⟨[], 0, [], [], [], [], []⟩

/-- A launch record accepted into a queue (R342, R343, R394). -/
structure LRec where
  dws : List Word
  parent : BitVec 32
  img : CtxImage
  /-- The VF slot it came from. -/
  host : Option (Nat × Nat)
  /-- Launch number once placing has begun, and bands placed. -/
  launch : Option Nat
  bands : Nat
  deriving DecidableEq, Repr

/-- A band token (R54, R336). -/
structure BandTok where
  launch : Nat
  band : Nat
  clusters : NSet
  arrived : NSet
  deriving DecidableEq, Repr

/-- Injection state of a stop (R27, R28). -/
structure Stop where
  slots : Nat
  deficit : SMap Int
  rotation : Nat
  round : NSet
  deriving DecidableEq, Repr

def Stop.init : Stop := ⟨0, [], 0, []⟩

/-- The trace unit of a die and its registers (R402, R403). -/
structure Trace where
  base : Word
  size : Word
  ctl : Word
  head : Word
  vds : Word
  /-- Cycle of the last SYNC; records dropped in mode 1. -/
  sync : Option Nat
  lost : Nat
  /-- Buffer full in mode 1. -/
  full : Bool
  /-- Cycle in which tracing was last enabled (R402). -/
  began : Nat
  deriving DecidableEq, Repr

def Trace.init : Trace := ⟨0, 0, 0, 0, 0, none, 0, false, 0⟩

/-- A compute die (R10). -/
structure Die where
  hbm : List HbmReq
  /-- Virtual device last served by the reserved slot. -/
  rr : Nat
  alloc : SMap Word
  weight : SMap Word
  pool : List Nat
  miglimit : BitVec 32
  rou : Rou
  bands : SMap BandTok
  launchQ : SMap (List LRec)
  serial : SMap Nat
  /-- The dead-task filter (R171): a GTI and the flit identity that was next when it was entered. -/
  filter : List (BitVec 32 × Nat)
  /-- MSG and JOB flits that the filter has discarded. -/
  discarded : Nat
  stops : List (BitVec 32)
  trace : Trace
  leasemax : BitVec 32
  hbmerr : SMap Word
  walks : List Walk
  inj : SMap Stop
  /-- Owners of aging slots, by 64 * loop + slot, where a tenure has moved them (R29). -/
  aging : SMap Nat
  /-- Aging slots, by the same numbers, whose owners have had the turn of their tenure (R29). -/
  turned : NSet
  /-- Patrol scrub: bursts of the stack done in the pass that runs; none when no pass runs on it (R413). -/
  scrub : Option Nat
  /-- Death-notice entries for contexts that no cluster of the die holds: ring index, DVA (R172). -/
  deaths : List (CtxImage × Nat × Nat)
  /-- Cores whose machine-check record has reached the scheduler (R164). -/
  checks : List Nat
  /-- Virtual device whose job the cellar engine of the stack served last (R371). -/
  cellar : Nat
  deriving DecidableEq, Repr

def Die.init : Die where
  hbm := []
  rr := 0
  alloc := []
  weight := []
  pool := []
  miglimit := 4096
  rou := Rou.init
  bands := []
  launchQ := []
  serial := []
  filter := []
  discarded := 0
  stops := []
  trace := Trace.init
  leasemax := 0
  hbmerr := []
  walks := []
  inj := []
  aging := []
  turned := []
  scrub := none
  deaths := []
  checks := []
  cellar := 0

/-! The porch die and the device -/

/-- A virtual function's window and completion state (R393 to R395, R181). -/
structure Vf where
  slots : SMap (List Byte)
  tail : Nat
  head : Nat
  cbase : Word
  csize : BitVec 16
  ctail : Nat
  chead : Nat
  nlaunch : Word
  nburst : Word
  nidle : Word
  latch : BitVec 32
  /-- Completion entries waiting to be written. -/
  pend : List (List Byte)
  deriving DecidableEq, Repr

def Vf.init : Vf := ⟨[], 0, 0, 0, 0, 0, 0, 0, 0, 0, 0, []⟩

/-- A launch in progress (R56 to R59). -/
structure Launch where
  vd : Nat
  img : CtxImage
  parent : BitVec 32
  join : Word
  host : Option (Nat × Nat)
  pool : Bool
  idle : Nat
  /-- Bands or the pool still to be placed; strands live. -/
  toPlace : Nat
  live : Nat
  /-- Cluster and tag on which the last strand ended. -/
  lastCluster : Nat
  done : Bool
  /-- Retired by the keeper (R58). -/
  retired : Bool
  deriving DecidableEq, Repr

/-- An entry of the table of admitted ranges (R398): a range of space 0 and the virtual device charged. -/
structure Admit where
  base : Nat
  len : Nat
  vd : Nat
  deriving DecidableEq, Repr

/-- The profiling lease (R405): virtual devices waiting in order, the running slice and its end, the
cycle before which no slice begins. -/
structure Lease where
  /-- The lease register of each virtual device: slices still to run, length. -/
  words : SMap Word
  queue : List Nat
  active : Option Nat
  endAt : Nat
  notBefore : Nat
  /-- Cores that the slice's start pre-empted; and those that have still to resume after a slice. -/
  saved : NSet
  owed : NSet
  deriving DecidableEq, Repr

/-- The porch die and the device-wide parts (R10, R391 to R414). -/
structure Porch where
  anyQ : SMap (List LRec)
  vfs : SMap Vf
  hostctx : SMap Word
  brk : SMap Word
  /-- Death notices waiting for room. -/
  notices : List Notice
  route : SMap NSet
  admits : SMap Admit
  /-- Host-held 64-byte units (R130). -/
  held : NSet
  launches : SMap Launch
  nextLaunch : Nat
  lease : Lease
  lifeCycle : LifeCycle
  /-- Bring-up step completed (R408); a failed step halts bring-up. -/
  step : Nat
  halted : Bool
  /-- The root of trust: its ROM, its fuses, the two image slots, the slot whose image it runs (R409, R410). -/
  rom : List Byte
  fuses : Config.Fuses
  images : Config.Image × Config.Image
  running : Option Config.Image
  linksUp : BitVec 16
  /-- SPDM requests answered, and the last answer (R410). -/
  answered : Nat
  answer : List Byte
  /-- Side-door power limit in watts (R414; the module's own is `Porch.powerLimit`), and whether draw is above it. -/
  limit : Option Nat
  overDraw : Bool
  /-- Key version that writes use; the number of eights of cycles after which the scrub last went on (R413; log 3). -/
  keyver : BitVec 2
  scrubbed : Nat
  /-- Cores whose machine-check record has reached the side door (R164). -/
  checks : List Nat
  /-- Last value a host read returned (R130, R181), and whether it completed poisoned (R12). -/
  hostRead : List Byte
  hostPoison : Bool
  deriving DecidableEq, Repr

def Porch.init : Porch where
  anyQ := []
  vfs := []
  hostctx := []
  brk := []
  notices := []
  route := []
  admits := []
  held := []
  launches := []
  nextLaunch := 0
  lease := ⟨[], [], none, 0, 0, [], []⟩
  lifeCycle := .manufacture
  step := 0
  halted := false
  rom := Config.rom
  fuses := Config.fuses
  images := Config.images
  running := none
  linksUp := 0
  answered := 0
  answer := []
  limit := none
  overDraw := false
  keyver := 0
  scrubbed := 0
  checks := []
  hostRead := []
  hostPoison := false

/-- A party that issues: a strand position 0-5, the porter 6 or the repeater 7 of a core. -/
structure Party where
  core : Nat
  pos : Nat
  deriving DecidableEq, Repr

/-- An error of a memory array, as the read finds that meets it (R86, R169, R173): a single-bit error of a core's
local store, charged to a virtual device; an uncorrectable word of a local store, of a cluster cache, of a home
slice; a bad burst of HBM. -/
inductive Upset where
  | corrected (core vd : Nat)
  | lsWord (core word : Nat)
  | cacheWord (cl : Nat) (sp : ASpace) (addr : Nat)
  | homeWord (sl : Nat) (sp : ASpace) (addr : Nat)
  | burst (b : Nat)
  deriving DecidableEq, Repr

/-- The whole machine. -/
structure State where
  /-- Cycles since reset (R41). -/
  cycle : Nat
  /-- The party whose instruction is executing (the model's own). -/
  cur : Party
  /-- Cycle in which the instruction that executes was first issued (R326). -/
  since : Nat
  /-- A party whose channel words are there, and whose instruction takes them in this cycle (R325). -/
  due : Option Party
  /-- Events that are to happen next, in order: inputs from outside and interleavings (log 3). -/
  agenda : List Instr
  /-- Errors of the memory arrays that reads find next, in order: inputs from outside (log 33). -/
  upsets : List Upset
  cores : SMap Core
  clusters : SMap Cluster
  slices : SMap Slice
  dies : SMap Die
  porch : Porch
  /-- HBM, physical space 0 (R12); 0 where nothing is written (R408 step 4). -/
  mem : Mem
  /-- Poisoned words of HBM, by word number (R169). -/
  memP : NSet
  /-- Bursts that the running scrub pass has not reached and that writes have moved to its version (R413). -/
  rekeyed : NSet
  /-- Bursts with a bad integrity tag or an uncorrectable error (R173). -/
  badBursts : NSet
  /-- Bytes of host memory and of peers' memory that the device has written (R131). -/
  hostMem : SMap Byte
  peerMem : SMap Byte
  net : List Flit
  /-- Next flit, operation and extent-use identities (the model's own). -/
  nextId : Nat
  /-- Free values drawn so far (the model's own; log 10). -/
  free : Nat
  /-- A write of the present step found no room at its home: the slice whose die has no frame for a frameless
  victim, or none of its candidates (the model's own; nothing is short between steps). -/
  short : Option (Option Nat)
  deriving DecidableEq, Repr

/-- The machine right after reset: bring-up has not begun (R408), nothing is placed anywhere. -/
def State.reset : State where
  cycle := 0
  cur := ⟨0, 0⟩
  since := 0
  due := none
  agenda := []
  upsets := []
  cores := []
  clusters := []
  slices := []
  dies := []
  porch := Porch.init
  mem := []
  memP := []
  rekeyed := []
  badBursts := []
  hostMem := []
  peerMem := []
  net := []
  nextId := 0
  free := 0
  short := none

/-- The reasons a step stops with a fault: there is none, since every instruction and event has an effect. -/
inductive Fault where
  deriving DecidableEq, Repr

/-- The reasons a step is refused. -/
inductive Refusal where
  /-- Raised by a dispatch arm whose instruction has no meaning yet. Safe. -/
  | notModelled (mnemonic : String)
  deriving DecidableEq, Repr

/-- The outcome of an instruction or a step. -/
abbrev Result := Host.Outcome State Fault Refusal

end Sys2Proof.Machine
end

