-- ==== Sys2Proof/Machine/Ops.lean ====
section
/-! DEFINITION. The named operations over strands, porters, registers, the local store, channels and
lines; taking a trap, and the return from one. -/

namespace Sys2Proof.Machine

/-! Identifiers (R16 to R19) -/

def clusterOf (core : Nat) : Nat := core / 16
def dieOf (core : Nat) : Nat := core / 8192
def dieOfCluster (cl : Nat) : Nat := cl / 512
/-- The location word (R16). -/
def locWord (core pos : Nat) : Nat := core * 8 + pos
/-- The slot number by which a cluster knows a strand or porter of its cores (R89). -/
def slotOf (core pos : Nat) : Nat := (core % 16) * 8 + pos

/-- Mesh row and column of a core within its die (R17). -/
def meshRow (core : Nat) : Nat := 4 * (core / 16 % 512 / 16) + core % 16 / 4
def meshCol (core : Nat) : Nat := 4 * (core / 16 % 16) + core % 4

/-- The core at a mesh row and column of a die. -/
def coreAt (die row col : Nat) : Nat :=
  die * 8192 + (row / 4 * 16 + col / 4) * 16 + 4 * (row % 4) + col % 4

/-- The neighbour through port 0 chn, 1 che, 2 chs, 3 chw (R18); none at the die's edge. -/
def neighbour (core port : Nat) : Option Nat :=
  let d := dieOf core; let r := meshRow core; let c := meshCol core
  if port = 0 then (if r = 0 then none else some (coreAt d (r - 1) c))
  else if port = 1 then (if c = 63 then none else some (coreAt d r (c + 1)))
  else if port = 2 then (if r = 127 then none else some (coreAt d (r + 1) c))
  else (if c = 0 then none else some (coreAt d r (c - 1)))

/-- The port of the neighbour's buffer that this port writes (R324). -/
def oppPort (port : Nat) : Nat := (port + 2) % 4

/-! Components of the state -/

def State.core (s : State) (c : Nat) : Core := mapGet Core.init s.cores c
def State.setCore (s : State) (c : Nat) (x : Core) : State := { s with cores := mapPut s.cores c x }
def State.strand (s : State) (c p : Nat) : Strand := mapGet Strand.init (s.core c).strands p
def State.setStrand (s : State) (c p : Nat) (x : Strand) : State :=
  s.setCore c { s.core c with strands := mapPut (s.core c).strands p x }
def State.porter (s : State) (c : Nat) : Porter := (s.core c).porter
def State.setPorter (s : State) (c : Nat) (x : Porter) : State :=
  s.setCore c { s.core c with porter := x }
def State.cluster (s : State) (k : Nat) : Cluster := mapGet Cluster.init s.clusters k
def State.setCluster (s : State) (k : Nat) (x : Cluster) : State :=
  { s with clusters := mapPut s.clusters k x }
def State.ctx (s : State) (k t : Nat) : Ctx := mapGet Ctx.init (s.cluster k).ctxs t
def State.setCtx (s : State) (k t : Nat) (x : Ctx) : State :=
  s.setCluster k { s.cluster k with ctxs := mapPut (s.cluster k).ctxs t x }
def State.slice (s : State) (i : Nat) : Slice := mapGet Slice.init s.slices i
def State.setSlice (s : State) (i : Nat) (x : Slice) : State := { s with slices := mapPut s.slices i x }
def State.die (s : State) (d : Nat) : Die := mapGet Die.init s.dies d
def State.setDie (s : State) (d : Nat) (x : Die) : State := { s with dies := mapPut s.dies d x }
def State.vf (s : State) (v : Nat) : Vf := mapGet Vf.init s.porch.vfs v
def State.setVf (s : State) (v : Nat) (x : Vf) : State :=
  { s with porch := { s.porch with vfs := mapPut s.porch.vfs v x } }

/-- Draw a fresh identity. -/
def State.fresh (s : State) : Nat × State := (s.nextId, { s with nextId := s.nextId + 1 })

/-- Draw a free value (log 10). -/
def State.drawFree (s : State) : Word × State := (Config.free s.free, { s with free := s.free + 1 })

/-! The issuing party -/

/-- Privilege levels (R157). -/
inductive Level where
  | u | k | l
  deriving DecidableEq, Repr

def Level.toNat : Level → Nat
  | .u => 0
  | .k => 1
  | .l => 2

def State.isPorter (s : State) : Bool := s.cur.pos = 6

/-- Strands run at U; the porter at the level of its entry (R157). -/
def State.level (s : State) : Level :=
  if s.isPorter then
    match (s.porter s.cur.core).cur with
    | some e => if e.landlord then .l else .k
    | none => .k
  else .u

/-- The context tag of the issuing party. -/
def State.tag (s : State) : Nat :=
  if s.isPorter then
    match (s.porter s.cur.core).cur with
    | some e => e.tag.toNat
    | none => 0
  else (s.strand s.cur.core s.cur.pos).tag.toNat

def State.curCluster (s : State) : Nat := clusterOf s.cur.core
def State.curCtx (s : State) : Ctx := s.ctx s.curCluster s.tag

/-- The virtual device of landlord code, which belongs to none of the 64. -/
def landlordVd : Nat := 64

/-- The virtual device charged: the context's, or the landlord's own. -/
def State.curVd (s : State) : Nat := if s.level = .l then landlordVd else s.curCtx.img.vd

/-- The GTI charged: the strand's own, or that of the strand a porter entry serves. -/
def State.curGti (s : State) : BitVec 32 :=
  if s.isPorter then
    match (s.porter s.cur.core).cur with
    | some ⟨.trap p, _, _, _⟩ => (s.strand s.cur.core p).gti
    | _ => 0
  else (s.strand s.cur.core s.cur.pos).gti

/-- The registers of a party: a strand's own, or the porter set of its entry (R46). -/
def State.regsOf (s : State) (c p : Nat) : RegSet :=
  if p = 6 then
    let q := s.porter c
    match q.cur with
    | some e => if e.landlord then q.landlord else mapGet RegSet.zero q.keepers e.tag.toNat
    | none => mapGet RegSet.zero q.keepers 0
  else (s.strand c p).regs

def State.setRegsOf (s : State) (c p : Nat) (r : RegSet) : State :=
  if p = 6 then
    let q := s.porter c
    match q.cur with
    | some e =>
      if e.landlord then s.setPorter c { q with landlord := r }
      else s.setPorter c { q with keepers := mapPut q.keepers e.tag.toNat r }
    | none => s.setPorter c { q with keepers := mapPut q.keepers 0 r }
  else s.setStrand c p { s.strand c p with regs := r }

def State.regs (s : State) : RegSet := s.regsOf s.cur.core s.cur.pos
def State.setRegs (s : State) (r : RegSet) : State := s.setRegsOf s.cur.core s.cur.pos r
def State.pc (s : State) : Pc := s.regs.pc

/-! Registers with their fixed values (R197) -/

def RegSet.getS (r : RegSet) (i : Fin 32) : PWord :=
  if i = 0 then ⟨0, false⟩ else ⟨r.s[i], r.sp.getLsbD i⟩

/-- Set or clear a bit. -/
def bitSet {n : Nat} (x : BitVec n) (i : Nat) (b : Bool) : BitVec n :=
  if b then x ||| (1#n <<< i) else x &&& ~~~(1#n <<< i)

def RegSet.setS (r : RegSet) (i : Fin 32) (x : PWord) : RegSet :=
  if i = 0 then r else { r with s := r.s.set i x.v, sp := bitSet r.sp i x.p }

def RegSet.getP (r : RegSet) (i : Fin 8) : Bool := if i = 0 then true else r.p.getLsbD i
def RegSet.setP (r : RegSet) (i : Fin 8) (b : Bool) : RegSet :=
  if i = 0 then r else { r with p := bitSet r.p i b }
def RegSet.getK (r : RegSet) (i : Fin 8) : Word := if i = 0 then BitVec.allOnes 64 else r.k[i]
def RegSet.setK (r : RegSet) (i : Fin 8) (x : Word) : RegSet :=
  if i = 0 then r else { r with k := r.k.set i x }
def RegSet.setV (r : RegSet) (i : Fin 16) (x : VReg) (p : BitVec 8) : RegSet :=
  { r with v := r.v.set i x, vp := r.vp.set i p }

/-! Tracing and counting (R401, R318) -/

/-- Tracing is on (R404). -/
def traceOn (t : Trace) : Bool :=
  t.ctl.getLsbD 0 && t.size.extractLsb' 0 16 ≠ 0 && !t.full

/-- The record of stamps that a core has dropped (R402). -/
def lostStamp (n cycle : Nat) : Stamp := ⟨8, 0, BitVec.ofNat 16 (min n 0xFFFF), cycle⟩

/-- Stamp a record on a core: one that holds 16 drops it and counts it, and the count goes first once there is
room; a trace unit that has stopped because its buffer is full counts it when it would have written it (R402, R404). -/
def State.stamp (s : State) (c kind : Nat) (gti : BitVec 32) (aux : BitVec 16) : State :=
  let x := s.die (dieOf c)
  let t := x.trace
  if traceOn t then
    let k := s.core c
    let r : List Stamp × Nat :=
      if 0 < k.stampLost && k.stamps.length < 16 then (k.stamps ++ [lostStamp k.stampLost s.cycle], 0)
      else (k.stamps, k.stampLost)
    if r.1.length < 16 then s.setCore c { k with stamps := r.1 ++ [⟨kind, gti, aux, s.cycle⟩], stampLost := r.2 }
    else s.setCore c { k with stamps := r.1, stampLost := r.2 + 1 }
  else if t.full && t.ctl.getLsbD 0 && t.size ≠ 0 && t.vds.getLsbD (gti.extractLsb' 26 6).toNat then s.setDie (dieOf c) { x with trace := { t with lost := t.lost + 1 } }
  else s

def RunState.code : RunState → Nat
  | .idle => 0 | .run => 1 | .waitMem => 2 | .waitMsg => 3 | .trapped => 4 | .stopped => 5

/-- Put a strand into a state of R40, stamping the change (R401). -/
def State.setSt (s : State) (c p : Nat) (st : RunState) : State :=
  let x := s.strand c p
  let s := s.setStrand c p { x with st := st }
  if x.st = st then s
  else s.stamp c st.code x.gti (BitVec.ofNat 16 (p * 8192 + c % 8192))

/-- Count an event of a core, charged to a virtual device (R318). -/
def State.bump (s : State) (c event vd n : Nat) : State :=
  let k := s.core c
  if k.counters.isEmpty then s
  else s.setCore c { k with counters := k.counters.map fun e =>
    if e.2.en && e.2.event.toNat = event && (!e.2.own || e.2.vd = vd) then
      (e.1, { e.2 with count := e.2.count + BitVec.ofNat 64 n }) else e }

/-! Fetch (R193 to R195) -/

/-- The index of a PC is legal in its space, under a context (R193). -/
def legalPc (x : Ctx) (pc : Pc) : Bool :=
  if pc.getLsbD 23 then (pc.extractLsb' 0 23).toNat < x.img.code.length
  else (pc.extractLsb' 0 23).toNat ≤ 2047

/-- A byte of a local store with its word's mark (R86). -/
def lsByte (k : Core) (a : Nat) : PByte := ⟨memRead k.ls a, setHas k.lsP (a / 8)⟩

def lsBytes (k : Core) (a n : Nat) : List PByte := (List.range n).map fun j => lsByte k (a + j)

/-- One instruction word with the mark of a poisoned source. -/
def wordAt (k : Core) (x : Ctx) (code : Bool) (idx : Nat) : BitVec 96 × Bool :=
  if code then (x.img.code.getD idx 0, false)
  else
    let b := lsBytes k (12 * idx) 12
    (BitVec.ofNat 96 (leNat (b.map (·.v))), b.any (·.p))

/-- The line that holds a PC, read now (R195). -/
def readLine (k : Core) (x : Ctx) (pc : Pc) : Line :=
  let code := pc.getLsbD 23
  let n := (pc.extractLsb' 0 23).toNat / 8
  ⟨code, n, (List.range 8).map fun j => wordAt k x code (8 * n + j)⟩

def State.lineOf (s : State) (c p : Nat) : Option Line :=
  if p = 6 then (s.porter c).line else (s.strand c p).line

def State.tagOf (s : State) (c p : Nat) : Nat :=
  if p = 6 then
    match (s.porter c).cur with
    | some e => e.tag.toNat
    | none => 0
  else (s.strand c p).tag.toNat

/-- Enter the line of the party's PC (R195). -/
def State.enterLine (s : State) (c p : Nat) : State :=
  let l := readLine (s.core c) (s.ctx (clusterOf c) (s.tagOf c p)) (s.regsOf c p).pc
  if p = 6 then s.setPorter c { s.porter c with line := some l }
  else s.setStrand c p { s.strand c p with line := some l }

/-- Whether a line holds a PC. -/
def lineHolds (l : Option Line) (pc : Pc) : Bool :=
  match l with
  | some l => l.code = pc.getLsbD 23 && l.num = (pc.extractLsb' 0 23).toNat / 8
  | none => false

/-- Move a party to a PC, entering its line when it is another (R195). -/
def State.goto (s : State) (c p : Nat) (pc : Pc) : State :=
  let s := s.setRegsOf c p { s.regsOf c p with pc := pc }
  if lineHolds (s.lineOf c p) pc then s else s.enterLine c p

/-! The local store (R85 to R88) -/

/-- Whether a granule of a byte range is guarded: the first such address. -/
def guardedFirst (k : Core) (a n : Nat) : Option Nat :=
  ((List.range n).map (a + ·)).find? fun x => setHas k.guards (x / 64)

/-- Record a violation of a strand's: the first is kept, later ones counted to 255 (R88). -/
def guardNote (g : Option GuardRec) (a : Nat) : GuardRec :=
  match g with
  | none => ⟨BitVec.ofNat 3 (a / 8), BitVec.ofNat 15 a, 0⟩
  | some r => if r.more = 255 then r else { r with more := r.more + 1 }

/-- Note a touch of a byte range by a strand (R88). The porter keeps no record. -/
def State.guardTouch (s : State) (c p a n : Nat) : State :=
  match guardedFirst (s.core c) a n with
  | none => s
  | some x =>
    if p < 6 then
      let t := s.strand c p
      s.setStrand c p { t with guard := some (guardNote t.guard x) }
    else s

/-- Write bytes to a local store: bytes of guarded granules are discarded (R87); a word that is covered
whole takes the poison of its bytes, a word covered in part keeps its mark or gains one (R86, R283). -/
def lsWrite (k : Core) (a : Nat) (l : List PByte) : Core :=
  let cells := l.zipIdx.filterMap fun e =>
    if setHas k.guards ((a + e.2) / 64) then none else some (a + e.2, e.1)
  let ls := cells.foldl (fun m e => memWrite m e.1 e.2.v) k.ls
  let words := (cells.map fun e => e.1 / 8).dedup
  let marks := words.foldl (fun m w =>
    let mine := cells.filter fun e => e.1 / 8 = w
    if mine.any (fun e => e.2.p) then setAdd m w
    else if 8 ≤ mine.length then setDel m w
    else m) k.lsP
  { k with ls := ls, lsP := marks }

def State.lsStore (s : State) (c a : Nat) (l : List PByte) : State := s.setCore c (lsWrite (s.core c) a l)

/-! Channels (R324 to R327) -/

/-- Drop the head words of other virtual devices (R325). -/
def dropForeign (vd : Nat) : List ChWord → List ChWord
  | [] => []
  | x :: t => if x.vd = vd then x :: t else dropForeign vd t

/-- Words of a list that lie at a port. -/
def atPort (l : List (Nat × Nat)) (port : Nat) : Nat := ((l.filter fun x => x.1 = port).map (·.2)).sum

/-- A strand's instruction waits, or issues again after it has waited. -/
def Strand.pending (x : Strand) : Bool := x.st = .waitMem || x.st = .waitMsg || (x.st = .run && x.again.isSome)

/-- Words that operations in flight on a core, and instructions that wait to begin theirs, hold at a port (R325). -/
def heldWords (k : Core) (port : Nat) : Nat :=
  (k.strands.map fun e =>
    (match e.2.op with
    | some o => atPort o.chSrc port
    | none => 0) + (if e.2.pending then atPort e.2.holdSrc port else 0)).sum

/-- The words of a buffer that a reader of a virtual device can take, since it drops those of others as they come to
the head (R325): none while some are held. -/
def chAvail (k : Core) (vd port : Nat) : List ChWord :=
  if heldWords k port = 0 then (mapGet [] k.chans port).filter (·.vd = vd) else []

/-- What a reader of a virtual device leaves of a buffer when it takes a number of words (R325). -/
def dropWords (vd : Nat) : Nat → List ChWord → List ChWord
  | 0, l => l
  | _ + 1, [] => []
  | n + 1, x :: t => if x.vd = vd then dropWords vd n t else dropWords vd (n + 1) t

/-- The destination channel of an operation in flight, and its words. -/
def Op.chDst (o : Op) : Option (Nat × Nat) :=
  match o.act with
  | .load (.scalar (.ch c) _) => some (c.val, 1)
  | .load (.vec (.ch c)) => some (c.val, 8)
  | .atom _ _ (.ch c) _ => some (c.val, 1)
  | .mwait (.ch c) => some (c.val, 1)
  | .join (some (.ch c)) => some (c.val, 1)
  | .launch (.ch c) => some (c.val, 1)
  | .job (.ch c) => some (c.val, 1)
  | .cpin (.ch c) => some (c.val, 1)
  | .ldisc (.ch c) => some (c.val, 1)
  | .lstat (.ch c) => some (c.val, 1)
  | .remote (some (.ch c)) => some (c.val, 1)
  | .spawn (.ch c) => some (c.val, 1)
  | _ => none

/-- Words that held writes would place through a port. -/
def effRoom (l : List Eff) (port : Nat) : Nat :=
  (l.map fun e => match e with | .chan c ws => if c.val = port then ws.length else 0 | _ => 0).sum

/-- Room that operations and results in flight on a core, and instructions that wait to begin theirs, hold in the
buffer its port writes (R325). -/
def heldRoom (k : Core) (port : Nat) : Nat :=
  (k.strands.map fun e =>
    (match e.2.op with
    | some o => (match o.chDst with | some (q, n) => if q = port then n else 0 | none => 0)
    | none => 0) + (if e.2.pending then atPort e.2.holdDst port else 0) +
    (match e.2.wait with
    | .result l => effRoom l port
    | _ => 0)).sum

/-- Room in the buffer that a port of a core writes: 0 at the die's edge, and while the reader's core
is saved (R327). -/
def State.chRoom (s : State) (c port : Nat) : Nat :=
  match neighbour c port with
  | none => 0
  | some n =>
    let k := s.core n
    if k.saved.isSome then 0
    else 16 - (mapGet [] k.chans (oppPort port)).length - heldRoom (s.core c) port

/-- Words already claimed at a port by earlier source positions. -/
def needSum (l : List (Option (Nat × Nat))) (port : Nat) : Nat :=
  (l.map fun x => match x with | some (q, n) => if q = port then n else 0 | none => 0).sum

/-- The first position that is not ready, in the order A, B, D, then the destination (R326): its port,
and whether it is a write. -/
def State.chNotReady (s : State) (c vd : Nat) (a b d dst : Option (Nat × Nat)) :
    Option (Nat × Bool) :=
  let k := s.core c
  let short (x : Option (Nat × Nat)) (before : List (Option (Nat × Nat))) : Option (Nat × Bool) :=
    match x with
    | none => none
    | some (q, n) =>
      if needSum before q + n ≤ (chAvail k vd q).length && (neighbour c q).isSome then none
      else some (q, false)
  match short a [], short b [a], short d [a, b] with
  | some x, _, _ => some x
  | none, some x, _ => some x
  | none, none, some x => some x
  | none, none, none =>
    match dst with
    | none => none
    | some (q, n) => if n ≤ s.chRoom c q then none else some (q, true)

/-- The words that the positions A, B and D get. -/
def State.chPeek (s : State) (c vd : Nat) (a b d : Option (Nat × Nat)) :
    List Word × List Word × List Word :=
  let k := s.core c
  let get (x : Option (Nat × Nat)) (before : List (Option (Nat × Nat))) : List Word :=
    match x with
    | none => []
    | some (q, n) => (((chAvail k vd q).drop (needSum before q)).take n).map (·.w)
  (get a [], get b [a], get d [a, b])

/-- Take words from the head of a core's buffer. -/
def State.chTake (s : State) (c vd : Nat) (l : List (Nat × Nat)) : State :=
  l.foldl (fun s e =>
    let k := s.core c
    s.setCore c { k with
      chans := mapPut k.chans e.1 (dropWords vd e.2 (mapGet [] k.chans e.1)) }) s

/-- A waiting reader of a virtual device examines the heads of buffers, and drops the words of others that it finds
there (R325). -/
def State.chScan (s : State) (c vd : Nat) (l : List (Option (Nat × Nat))) : State :=
  l.foldl (fun s x =>
    match x with
    | none => s
    | some (q, _) =>
      let k := s.core c
      let w := mapGet [] k.chans q
      if heldWords k q = 0 && w.head?.any (·.vd ≠ vd) then
        s.setCore c { k with chans := mapPut k.chans q (dropForeign vd w) }
      else s) s

/-- A core that words go to has been saved: its buffers accept none (R327). -/
def State.chShut (s : State) (c : Nat) (l : List Eff) : Bool :=
  l.any fun e => match e with
    | .chan q ws => !ws.isEmpty && match neighbour c q with | some n => (s.core n).saved.isSome | none => false
    | _ => false

/-- Place words through a port of a core. -/
def State.chPlace (s : State) (c vd port : Nat) (ws : List Word) : State :=
  match neighbour c port with
  | none => s
  | some n =>
    let k := s.core n
    let q := oppPort port
    s.setCore n { k with chans := mapPut k.chans q (mapGet [] k.chans q ++ ws.map (⟨·, vd⟩)) }

/-! Effects and retirement -/

/-- One register or flag write of a party; a jump is applied at retirement. -/
def RegSet.eff (r : RegSet) : Eff → RegSet
  | .s i x p => r.setS i ⟨x, p⟩
  | .v i x p => r.setV i x p
  | .p i b => r.setP i b
  | .k i x => r.setK i x
  | .g i x => { r with g := r.g.set i x }
  | .fs x => { r with fs := x }
  | .flags x => { r with fs := r.fs ||| x.zeroExtend 64 }
  | .jump pc => { r with pc := pc }
  | .chan _ _ => r
  | .ls _ _ => r

def effJump (l : List Eff) : Option Pc :=
  l.findSome? fun e => match e with | .jump pc => some pc | _ => none

/-- Apply the effects of an instruction of a party: registers, then channel words and local-store
bytes. -/
def State.applyEffs (s : State) (c p : Nat) (l : List Eff) : State :=
  let s := s.setRegsOf c p (l.foldl RegSet.eff (s.regsOf c p))
  l.foldl (fun s e => match e with
    | .chan q ws => s.chPlace c (s.ctx (clusterOf c) (s.tagOf c p)).img.vd q ws
    | .ls a b => (s.guardTouch c p a b.length).lsStore c a b
    | _ => s) s

/-- Put a party back into the rotation: it issues at its first own cycle after this one (R43, R44). -/
def State.wake (s : State) (c p : Nat) : State :=
  if p = 6 then
    let q := s.porter c
    s.setPorter c { q with st := .run, wait := .none, notBefore := max q.notBefore (s.cycle + 1) }
  else
    let s := s.setSt c p .run
    let x := s.strand c p
    s.setStrand c p { x with wait := .none, notBefore := max x.notBefore (s.cycle + 1) }

/-- A breakpoint slot fires for a strand: one of its own GTI, whoever wrote it, or one of its virtual device that names
none (R406). Each virtual device has its own eight slots. -/
def State.brkHit (s : State) (c p : Nat) : Bool :=
  let x := s.strand c p
  let vd := (s.ctx (clusterOf c) x.tag.toNat).img.vd
  s.porch.brk.any fun e =>
    let g := e.2.extractLsb' 0 32
    e.2.getLsbD 63 && e.2.extractLsb' 32 24 = x.regs.pc && (g = x.gti || (g = 0 && e.1 / 8 = vd))

/-- The next instruction of a strand meets a breakpoint, which comes before a stop (R407). -/
def State.breakFirst (s : State) (c p : Nat) : Bool :=
  let x := s.strand c p
  x.stopBy = .sstop && !x.breakDone && x.again.isNone && s.brkHit c p

/-- Put a party back into the rotation, or, when a stop is pending, stop the strand where it now stands: not before
the access that it waits for is done, nor before a breakpoint there (R174, R317, R407). -/
def State.unpark (s : State) (c p : Nat) : State :=
  let x := s.strand c p
  if p < 6 && x.stopPending && x.op.isNone && !s.breakFirst c p then
    let s := s.setSt c p .stopped
    s.setStrand c p { s.strand c p with stopPending := false, left := x.st, leftWait := x.wait, wait := .none }
  else s.wake c p

/-- Put a party back into the rotation, whose instruction issues again, or stop it there (R174). -/
def State.relook (s : State) (c p : Nat) : State :=
  let x := s.strand c p
  let s := s.unpark c p
  if p < 6 && ((s.strand c p).st = .run || (s.strand c p).st = .stopped) then
    s.setStrand c p { s.strand c p with again := some (x.again.getD (x.notBefore - 1)) }
  else s

/-- Let every waiting strand and porter that a test selects look again: its instruction reissues. -/
def State.wakeWaits (s : State) (f : Nat → Wait → Bool) : State :=
  s.cores.foldl (fun s e =>
    let s := e.2.strands.foldl (fun s y =>
      if f e.1 y.2.wait && (y.2.st = .waitMem || y.2.st = .waitMsg) then s.relook e.1 y.1 else s) s
    if f e.1 e.2.porter.wait && (e.2.porter.st = .waitMem || e.2.porter.st = .waitMsg) then s.wake e.1 6
    else s) s

/-- Room has come free: those that wait for it look again (R94, R99). -/
def State.roomFreed (s : State) : State := s.wakeWaits fun _ w => w = .region

/-- What an access was short of, left aside: its bytes stand where they are written (log 97). -/
def State.anyway (s : State) : State := { s with short := none }

/-- Take a party out of the rotation (R43). -/
def State.park (s : State) (c p : Nat) (st : RunState) (w : Wait) : State :=
  if p = 6 then s.setPorter c { s.porter c with st := st, wait := w }
  else
    let s := s.setSt c p st
    s.setStrand c p { s.strand c p with wait := w }

/-- Retire the instruction of a party: its effects, and the next PC, on its line (R195). -/
def State.retireOf (s : State) (c p : Nat) (l : List Eff) : State :=
  let pc := (s.regsOf c p).pc
  let s := s.applyEffs c p (l.filter fun e => match e with | .jump _ => false | _ => true)
  match effJump l with
  | some t => s.goto c p t
  | none => s.goto c p (pc + 1)

def State.retire (s : State) (l : List Eff) : State := s.retireOf s.cur.core s.cur.pos l

/-! Taking a trap (R158 to R164) -/

/-- Words fd0 and fd1 (R163). -/
def faultWord0 (gti : BitVec 32) (seq upper imp : Bool) (t : TrapInfo) : Word :=
  BitVec.ofNat 64 (gti.toNat * 2 ^ 32 + seq.toNat * 2 ^ 18 + upper.toNat * 2 ^ 17 + imp.toNat * 2 ^ 16
    + t.sub % 256 * 256 + t.cause % 256)

def faultWord1 (c p : Nat) (pc : Pc) : Word :=
  BitVec.ofNat 64 (locWord c p * 2 ^ 24 + pc.toNat)

/-- GUARD and CONTEXT_FATAL are imprecise (R158). -/
def impCause (cause : Nat) : Bool := cause = 0x05 || cause = 0x12

/-- A strand traps: it stands TRAPPED with its fault record, and its keeper entry waits for the porter
(R161, R163). -/
def State.trapStrand (s : State) (c p : Nat) (seq : Bool) (pc : Pc) (sel : BitVec 16) (t : TrapInfo) :
    State :=
  let s := s.setSt c p .trapped
  let x := s.strand c p
  let s := s.setStrand c p { x with
    wait := .none, op := none
    fault := ⟨faultWord0 x.gti seq t.upper (impCause t.cause) t, faultWord1 c p pc,
      BitVec.ofNat 64 t.addr, BitVec.ofNat 64 t.info, sel⟩ }
  let q := s.porter c
  s.setPorter c { q with queue := q.queue ++ [.trap p] }

/-- The issuing party takes a trap: a strand goes to its keeper; keeper code waits for the landlord's
entry; landlord code waits for the machine check (R161, R164). -/
def State.takeTrapOf (s : State) (c p : Nat) (t : TrapInfo) : State :=
  if p = 6 then
    let q := s.porter c
    s.setPorter c { q with st := .trapped, wait := .none, op := none, queue := .landlord t :: q.queue }
  else s.trapStrand c p false (s.regsOf c p).pc 0 t

def State.takeTrap (s : State) (t : TrapInfo) : State := s.takeTrapOf s.cur.core s.cur.pos t

/-- The return from a strand's trap by KRET 0: the GUARD record is cleared, and the strand runs at its
pc, entering its line, or stands STOPPED when a stop is pending (R311, R317, R88). -/
def State.returnTrap (s : State) (c p : Nat) : State :=
  let x := s.strand c p
  let s := s.setStrand c p { x with
    guard := none
    breakDone := x.fault.fd0.extractLsb' 0 8 = 0x11 && x.fault.fd1.extractLsb' 0 24 = x.regs.pc
    fault := ⟨0, 0, 0, 0, 0⟩
    stopPending := false
    left := if x.stopPending then .run else x.left
    leftWait := if x.stopPending then .none else x.leftWait }
  (s.setSt c p (if x.stopPending then .stopped else .run)).enterLine c p

/-! Trap descriptions -/

def tIllegal : TrapInfo := { cause := 0x01 }
def tPriv : TrapInfo := { cause := 0x02 }
def tSegment : TrapInfo := { cause := 0x03 }
def tLsRange (a : Nat) : TrapInfo := { cause := 0x04, addr := a }
def tGuard (g : GuardRec) : TrapInfo :=
  { cause := 0x05, addr := g.addr.toNat
    info := g.addr.toNat + g.bank.toNat * 2 ^ 15 + g.more.toNat * 2 ^ 18 }
def tAlign (dva : Nat) : TrapInfo := { cause := 0x06, addr := dva }
def tPage (sub addr len cls : Nat) (upper : Bool) : TrapInfo :=
  { cause := 0x07, sub := sub, upper := upper, addr := addr, info := len - 1 + cls * 2 ^ 12 }
def tSideLogFull : TrapInfo := { cause := 0x08 }
/-- POISON with the poisoned source: 0 D, 1 A, 2 B, 3 a memory or local-store word, 4 unnamed. -/
def tPoison (src : Nat) : TrapInfo := { cause := 0x09, sub := src }
def tPoisonSync : TrapInfo := { cause := 0x0A }
def tChTimeout (port : Nat) (write : Bool) : TrapInfo :=
  { cause := 0x0B, info := port + write.toNat * 4 }
def tOverrun : TrapInfo := { cause := 0x0C }
def tLoftOverflow (slice die : Nat) : TrapInfo := { cause := 0x0D, info := slice + die * 256 }
/-- LOFT_OVERFLOW at a slice numbered over the device. -/
def tOver (sl : Nat) : TrapInfo := tLoftOverflow (sl % 96) (sl / 96)
def tJobFault (addr : Nat) : TrapInfo := { cause := 0x0E, addr := addr }
def tFormat (byte : Nat) : TrapInfo := { cause := 0x0F, info := byte }
def tBreak : TrapInfo := { cause := 0x11 }

end Sys2Proof.Machine
end

