-- ==== Sys2Proof/Machine/Operands.lean ====
section
/-! DEFINITION. Operand forms: what each operand position reads, from a register, an immediate or a
channel (R184, R185, R252), what it writes, and which channels and vector registers it names. -/

namespace Sys2Proof.Machine

/-- What an instruction sees of its party when it issues: its registers, the channel words that its
positions A, B and D take, the codebook, the clock, and the location word. -/
structure View where
  regs : RegSet
  a : List Word
  b : List Word
  d : List Word
  codebook : BitVec 128
  cycle : Nat
  loc : Nat
  tmpl : Vector Seg 8

/-- The channel words an instruction needs by position, what its destination needs, and the vector
registers it names. -/
structure Use where
  a : Option (Nat × Nat) := none
  b : Option (Nat × Nat) := none
  d : Option (Nat × Nat) := none
  dst : Option (Nat × Nat) := none
  vecs : List (Fin 16) := []

def Use.usesChan (u : Use) : Bool := u.a.isSome || u.b.isSome || u.d.isSome || u.dst.isSome

/-- Channel sources in the order A, B, D. -/
def Use.srcs (u : Use) : List (Nat × Nat) := [u.a, u.b, u.d].filterMap id

/-! Channels named by operands: one word in a scalar, mask or predicate position, eight in a vector
position (R185) -/

def chS : SOp → Option (Nat × Nat)
  | .s _ => none
  | .ch c => some (c.val, 1)
def chP : POp → Option (Nat × Nat)
  | .p _ => none
  | .ch c => some (c.val, 1)
def chK : KOp → Option (Nat × Nat)
  | .k _ => none
  | .ch c => some (c.val, 1)
def chV : VOp → Option (Nat × Nat)
  | .v _ => none
  | .ch c => some (c.val, 8)
def chI : SImm → Option (Nat × Nat)
  | .ch c => some (c.val, 1)
  | _ => none
def chKO : KOpt → Option (Nat × Nat)
  | .ch c => some (c.val, 1)
  | _ => none
/-- A channel in B of a form that admits a vector is read as a vector (R252). -/
def chB : VB → Option (Nat × Nat)
  | .ch c => some (c.val, 8)
  | _ => none
def chX (vec : Bool) : XOp → Option (Nat × Nat)
  | .ch c => some (c.val, if vec then 8 else 1)
  | _ => none

def vecV : VOp → List (Fin 16)
  | .v i => [i]
  | .ch _ => []
def vecB : VB → List (Fin 16)
  | .v i => [i]
  | _ => []
def vecX : XOp → List (Fin 16)
  | .v i => [i]
  | _ => []

/-! Reading -/

/-- A scalar position. A channel word is never poisoned (R325). -/
def View.s (w : View) (c : List Word) : SOp → PWord
  | .s i => w.regs.getS i
  | .ch _ => ⟨c.getD 0 0, false⟩

/-- sext(X[47:0]) (R184). -/
def sextImm (x : BitVec 48) : Word := x.signExtend 64

def View.i (w : View) (c : List Word) : SImm → PWord
  | .s i => w.regs.getS i
  | .ch _ => ⟨c.getD 0 0, false⟩
  | .imm x => ⟨sextImm x, false⟩

/-- A predicate position; a channel gives bit 0 of its word. -/
def View.p (w : View) (c : List Word) : POp → Bool
  | .p i => w.regs.getP i
  | .ch _ => (c.getD 0 0).getLsbD 0

def View.k (w : View) (c : List Word) : KOp → Word
  | .k i => w.regs.getK i
  | .ch _ => c.getD 0 0

/-- The 512-bit value of eight words, word 0 lowest. -/
def wordsToV (c : List Word) : VReg :=
  BitVec.ofNat 512 (c.foldr (fun w n => w.toNat + 2 ^ 64 * n) 0)

/-- The eight words of a vector value. -/
def vToWords (x : VReg) : List Word := (List.range 8).map fun j => x.extractLsb' (64 * j) 64

/-- A vector with its poison bits. -/
structure PVec where
  x : VReg
  p : BitVec 8

def View.v (w : View) (c : List Word) : VOp → PVec
  | .v i => ⟨w.regs.v[i], w.regs.vp[i]⟩
  | .ch _ => ⟨wordsToV c, 0⟩

/-- B of a unary vector form: none, or a mask (R252). -/
def View.ko (w : View) (c : List Word) : KOpt → Option Word
  | .none => none
  | .k i => some (w.regs.getK i)
  | .ch _ => some (c.getD 0 0)

/-! Writing -/

/-- A scalar result; a poisoned word is never written to a channel: POISON, charged to the position
whose source was poisoned (R168). -/
def putS (d : SOp) (x : Word) (poison : Bool) (src : Nat) : Except TrapInfo (List Eff) :=
  match d with
  | .s i => .ok [.s i x poison]
  | .ch c => if poison then .error (tPoison src) else .ok [.chan c [x]]

def putP (d : POp) (b : Bool) : List Eff :=
  match d with
  | .p i => [.p i b]
  | .ch c => [.chan c [if b then 1 else 0]]

def putK (d : KOp) (x : Word) : List Eff :=
  match d with
  | .k i => [.k i x]
  | .ch c => [.chan c [x]]

def putV (d : VOp) (r : PVec) (src : Nat) : Except TrapInfo (List Eff) :=
  match d with
  | .v i => .ok [.v i r.x r.p]
  | .ch c => if r.p ≠ 0 then .error (tPoison src) else .ok [.chan c (vToWords r.x)]

/-- The first poisoned source in the order A, B, D, by its number in fd0.sub (R163). -/
def firstPoison (a b d : Bool) : Nat := if a then 1 else if b then 2 else if d then 0 else 4

/-- POISON for the first poisoned source (R168). -/
def needClean (a b d : Bool) : Except TrapInfo Unit :=
  if a || b || d then .error (tPoison (firstPoison a b d)) else .ok ()

/-! Uses of common shapes -/

def useSSS (d a b : SOp) : Use := { a := chS a, b := chS b, dst := chS d }
def useSSI (d a : SOp) (b : SImm) : Use := { a := chS a, b := chI b, dst := chS d }
def useSS (d a : SOp) : Use := { a := chS a, dst := chS d }

end Sys2Proof.Machine
end

