-- ==== Sys2Proof/Machine/Flags.lean ====
section
/-! DEFINITION. The register fs: its flags, its rounding mode, and writes of it (R155, R156, R138). -/

namespace Sys2Proof.Machine

/-- Flags, as the low five bits of fs (R155). -/
abbrev Flags := BitVec 5

def fNV : Flags := 0b10000
def fDZ : Flags := 0b01000
def fOF : Flags := 0b00100
def fUF : Flags := 0b00010
def fNX : Flags := 0b00001
def flagIf (b : Bool) (f : Flags) : Flags := if b then f else 0

/-- Rounding modes once DYN is resolved (R138). -/
inductive Rmode where
  | rne | rtz | rup | rdn
  deriving DecidableEq, Repr

/-- The mode of a code; fs.rm never holds 4-7 (R155). -/
def rmodeOf (n : Nat) : Rmode :=
  if n = 1 then .rtz else if n = 2 then .rup else if n = 3 then .rdn else .rne

/-- fs.rm (R155). -/
def fsRm (fs : Word) : Rmode := rmodeOf (fs.extractLsb' 5 3).toNat

/-- An instruction's rounding mode, DYN reading fs at issue (R138). -/
def rmAt (rm : Rm) (fs : Word) : Rmode :=
  match rm with
  | .rne => .rne
  | .rtz => .rtz
  | .rup => .rup
  | .rdn => .rdn
  | .dyn => fsRm fs

/-- A write of fs: reserved bits are ignored, and rm is left unchanged by 4-7 (R155, R244). -/
def fsWrite (old x : Word) : Word :=
  let rm := if x.getLsbD 7 then old.extractLsb' 5 3 else x.extractLsb' 5 3
  (0#56 ++ rm) ++ x.extractLsb' 0 5

end Sys2Proof.Machine
end

