-- ==== Sys2Proof/Machine/Fp.lean ====
section
/-! DEFINITION. Floating point: the six formats, exact values, rounding, and the scalar operations on
bit patterns (R135 to R139, R149, R238 to R243, R261, R262). -/

namespace Sys2Proof.Machine

/-- A format: exponent and fraction bits, whether it has an infinity (R135). -/
structure Fmt where
  eb : Nat
  mb : Nat
  inf : Bool
  deriving DecidableEq, Repr

def fmt64 : Fmt := ⟨11, 52, true⟩
def fmt32 : Fmt := ⟨8, 23, true⟩
def fmt16 : Fmt := ⟨5, 10, true⟩
def fmtBf16 : Fmt := ⟨8, 7, true⟩
def fmtE4M3 : Fmt := ⟨4, 3, false⟩
def fmtE5M2 : Fmt := ⟨5, 2, true⟩

/-- The format of an FP element type; integer types give binary32 and are not used so. -/
def fmtOf : ETy → Fmt
  | .f64 => fmt64
  | .f16 => fmt16
  | .bf16 => fmtBf16
  | .e4m3 => fmtE4M3
  | .e5m2 => fmtE5M2
  | _ => fmt32

/-- Element width in bits (R251). -/
def tyBits : ETy → Nat
  | .b8 | .e4m3 | .e5m2 => 8
  | .b16 | .f16 | .bf16 => 16
  | .b32 | .f32 => 32
  | .b64 | .f64 => 64

def Fmt.width (f : Fmt) : Nat := 1 + f.eb + f.mb
def Fmt.bias (f : Fmt) : Nat := 2 ^ (f.eb - 1) - 1
/-- Exponent of the least subnormal. -/
def Fmt.emin (f : Fmt) : Int := 1 - f.bias - f.mb
def Fmt.expMask (f : Fmt) : Nat := 2 ^ f.eb - 1
def Fmt.signBit (f : Fmt) : Nat := 2 ^ (f.eb + f.mb)
/-- Largest finite magnitude, as bits. -/
def Fmt.maxFin (f : Fmt) : Nat :=
  if f.inf then f.expMask * 2 ^ f.mb - 1 else f.expMask * 2 ^ f.mb + (2 ^ f.mb - 2)
/-- Canonical NaN (R135). -/
def Fmt.nan (f : Fmt) : Nat :=
  if f.inf then f.expMask * 2 ^ f.mb + 2 ^ (f.mb - 1) else f.expMask * 2 ^ f.mb + (2 ^ f.mb - 1)

/-- A decoded value: NaN (signalling or not), infinity, or the exact ±m * 2^e. -/
inductive FV where
  | nan (sig : Bool)
  | inf (neg : Bool)
  | fin (neg : Bool) (m : Nat) (e : Int)
  deriving DecidableEq, Repr

/-- Decode the low bits of a pattern (R135). -/
def fpDec (f : Fmt) (x : Nat) : FV :=
  let neg := x / f.signBit % 2 = 1
  let ex := x / 2 ^ f.mb % 2 ^ f.eb
  let fr := x % 2 ^ f.mb
  if ex = f.expMask && f.inf then
    if fr = 0 then .inf neg else .nan (fr / 2 ^ (f.mb - 1) = 0)
  else if ex = f.expMask && fr = 2 ^ f.mb - 1 then .nan false
  else if ex = 0 then .fin neg fr f.emin
  else .fin neg (2 ^ f.mb + fr) (f.emin + (ex - 1 : Nat))

def FV.isNan : FV → Bool
  | .nan _ => true
  | _ => false
def FV.isSnan : FV → Bool
  | .nan s => s
  | _ => false
def FV.neg : FV → Bool
  | .nan _ => false
  | .inf n => n
  | .fin n _ _ => n

/-- Bits needed by a natural. -/
def bitLen (n : Nat) : Nat := if n = 0 then 0 else Nat.log2 n + 1

/-- Round a magnitude m * 2^e to a multiple of 2^q: the multiple and whether it was inexact. -/
def roundAt (rm : Rmode) (neg : Bool) (m : Nat) (e q : Int) : Nat × Bool :=
  if q ≤ e then (m * 2 ^ (e - q).toNat, false)
  else
    let k := (q - e).toNat
    let lo := m / 2 ^ k
    let r := m % 2 ^ k
    if r = 0 then (lo, false)
    else
      let up := match rm with
        | .rne => if 2 * r = 2 ^ k then decide (lo % 2 = 1) else decide (2 ^ k < 2 * r)
        | .rtz => false
        | .rup => !neg
        | .rdn => neg
      (if up then lo + 1 else lo, true)

def signed (f : Fmt) (neg : Bool) (mag : Nat) : Nat := if neg then f.signBit + mag else mag

/-- The result of an overflow (R139, R149). -/
def fpOver (f : Fmt) (rm : Rmode) (sat neg : Bool) : Nat × Flags :=
  let toInf := f.inf && !sat && (match rm with
    | .rne => true
    | .rtz => false
    | .rup => !neg
    | .rdn => neg)
  (signed f neg (if toInf then f.expMask * 2 ^ f.mb else f.maxFin), fOF ||| fNX)

/-- Round an exact ±m * 2^e into a format (R138, R139, R149). `sticky` says that the true magnitude lies
strictly between m * 2^e and (m + 1) * 2^e. -/
def fpRound (f : Fmt) (rm : Rmode) (sat neg : Bool) (m : Nat) (e : Int) (sticky : Bool := false) :
    Nat × Flags :=
  let m := if sticky then 2 * m + 1 else m
  let e := if sticky then e - 1 else e
  if m = 0 then (signed f neg 0, 0)
  else
    let top := e + (bitLen m : Int) - (f.mb + 1 : Nat)
    let q := max top f.emin
    let (r, nx) := roundAt rm neg m e q
    -- a carry into the next binade
    let (r, q) := if r = 2 ^ (f.mb + 1) then (2 ^ f.mb, q + 1) else (r, q)
    let (ru, _) := roundAt rm neg m e top
    let tiny := decide (top < f.emin) && !(ru = 2 ^ (f.mb + 1) && top + 1 = f.emin)
    let mag := if r < 2 ^ f.mb then r else ((q - f.emin).toNat + 1) * 2 ^ f.mb + (r - 2 ^ f.mb)
    if f.maxFin < mag then fpOver f rm sat neg
    else (signed f neg mag, flagIf nx fNX ||| flagIf (nx && tiny) fUF)

/-- An exactly infinite result (R149). -/
def fpInf (f : Fmt) (sat neg : Bool) : Nat × Flags :=
  if f.inf && !sat then (signed f neg (f.expMask * 2 ^ f.mb), 0)
  else (signed f neg f.maxFin, fOF ||| fNX)

def fpNan (f : Fmt) (fl : Flags) : Nat × Flags := (f.nan, fl)

/-- Round a decoded value into a format: conversions FP to FP (R241, R149). -/
def fpPut (f : Fmt) (rm : Rmode) (sat : Bool) : FV → Nat × Flags
  | .nan sg => fpNan f (flagIf sg fNV)
  | .inf n => fpInf f sat n
  | .fin n m e => fpRound f rm sat n m e

/-- The exact sum of two finite values; an exact zero takes the sign of R139. -/
def addFin (rm : Rmode) (n1 : Bool) (m1 : Nat) (e1 : Int) (n2 : Bool) (m2 : Nat) (e2 : Int) : FV :=
  let e := min e1 e2
  let a : Int := (m1 * 2 ^ (e1 - e).toNat : Nat)
  let b : Int := (m2 * 2 ^ (e2 - e).toNat : Nat)
  let x := (if n1 then -a else a) + (if n2 then -b else b)
  if x = 0 then .fin (if n1 = n2 then n1 else rm = .rdn) 0 e
  else .fin (x < 0) x.natAbs e

/-- The exact sum, with nv for ∞ - ∞ and signalling NaNs (R238). -/
def fvAdd (rm : Rmode) (x y : FV) : FV × Flags :=
  if x.isNan || y.isNan then (.nan false, flagIf (x.isSnan || y.isSnan) fNV)
  else match x, y with
    | .inf a, .inf b => if a = b then (.inf a, 0) else (.nan false, fNV)
    | .inf a, _ => (.inf a, 0)
    | _, .inf b => (.inf b, 0)
    | .fin a m e, .fin b m' e' => (addFin rm a m e b m' e', 0)
    | _, _ => (.nan false, 0)

def FV.isZero : FV → Bool
  | .fin _ 0 _ => true
  | _ => false

/-- The exact product, with nv for ∞ × 0 and signalling NaNs. -/
def fvMul (x y : FV) : FV × Flags :=
  if x.isNan || y.isNan then (.nan false, flagIf (x.isSnan || y.isSnan) fNV)
  else
    let n := x.neg != y.neg
    match x, y with
    | .fin _ m e, .fin _ m' e' => (.fin n (m * m') (e + e'), 0)
    | _, _ => if x.isZero || y.isZero then (.nan false, fNV) else (.inf n, 0)

def FV.negate : FV → FV
  | .nan s => .nan s
  | .inf n => .inf (!n)
  | .fin n m e => .fin (!n) m e

/-- x × y + z exactly; ∞ × 0 raises nv whatever z holds (R238). -/
def fvFma (rm : Rmode) (x y z : FV) : FV × Flags :=
  let (p, f1) := fvMul x y
  let (r, f2) := fvAdd rm p z
  (r, f1 ||| f2)

def withFlags (r : Nat × Flags) (f : Flags) : Nat × Flags := (r.1, r.2 ||| f)

def fpAdd (f : Fmt) (rm : Rmode) (sat : Bool) (a b : Nat) : Nat × Flags :=
  let (v, fl) := fvAdd rm (fpDec f a) (fpDec f b)
  withFlags (fpPut f rm sat v) fl
def fpSub (f : Fmt) (rm : Rmode) (sat : Bool) (a b : Nat) : Nat × Flags :=
  let (v, fl) := fvAdd rm (fpDec f a) (fpDec f b).negate
  withFlags (fpPut f rm sat v) fl
def fpMul (f : Fmt) (rm : Rmode) (sat : Bool) (a b : Nat) : Nat × Flags :=
  let (v, fl) := fvMul (fpDec f a) (fpDec f b)
  withFlags (fpPut f rm sat v) fl
/-- ± (a × b) ± d, each with its sign as asked. -/
def fpFma (f : Fmt) (rm : Rmode) (sat negP negD : Bool) (a b d : Nat) : Nat × Flags :=
  let x := if negP then (fpDec f a).negate else fpDec f a
  let z := if negD then (fpDec f d).negate else fpDec f d
  let (v, fl) := fvFma rm x (fpDec f b) z
  withFlags (fpPut f rm sat v) fl

/-- The quotient of two positive magnitudes to at least `p` bits: m, e, sticky. -/
def divMag (m1 : Nat) (e1 : Int) (m2 : Nat) (e2 : Int) (p : Nat) : Nat × Int × Bool :=
  let k := p + bitLen m2
  let n := m1 * 2 ^ k
  (n / m2, e1 - e2 - k, n % m2 ≠ 0)

/-- FDIV (R238). -/
def fpDiv (f : Fmt) (rm : Rmode) (sat : Bool) (a b : Nat) : Nat × Flags :=
  let x := fpDec f a
  let y := fpDec f b
  let n := x.neg != y.neg
  if x.isNan || y.isNan then fpNan f (flagIf (x.isSnan || y.isSnan) fNV)
  else match x, y with
    | .inf _, .inf _ => fpNan f fNV
    | .inf _, _ => fpInf f sat n
    | .fin _ _ _, .inf _ => (signed f n 0, 0)
    | .fin _ m e, .fin _ m' e' =>
      if m' = 0 then
        if m = 0 then fpNan f fNV else withFlags (fpInf f sat n) fDZ
      else if m = 0 then (signed f n 0, 0)
      else
        let (q, qe, st) := divMag m e m' e' (f.mb + 4)
        fpRound f rm sat n q qe st
    | _, _ => fpNan f 0

/-- Integer square root by bits, from the highest: `k` bits remain. -/
def isqrtBits : Nat → Nat → Nat → Nat
  | 0, _, r => r
  | k + 1, n, r =>
    let t := r + 2 ^ k
    isqrtBits k n (if t * t ≤ n then t else r)

/-- The integer square root. -/
def isqrt (n : Nat) : Nat := isqrtBits (bitLen n / 2 + 1) n 0

/-- The square root of m * 2^e to at least `p` bits: m, e, sticky. -/
def sqrtMag (m : Nat) (e : Int) (p : Nat) : Nat × Int × Bool :=
  let k := 2 * p + (e % 2).toNat
  let n := m * 2 ^ k
  let r := isqrt n
  (r, (e - k) / 2, r * r ≠ n)

/-- FSQRT (R238). -/
def fpSqrt (f : Fmt) (rm : Rmode) (a : Nat) : Nat × Flags :=
  match fpDec f a with
  | .nan s => fpNan f (flagIf s fNV)
  | .inf n => if n then fpNan f fNV else fpInf f false false
  | .fin n m e =>
    if m = 0 then (signed f n 0, 0)
    else if n then fpNan f fNV
    else
      let (r, re, st) := sqrtMag m e (f.mb + 4)
      fpRound f rm false false r re st

/-- Compare two values that are not NaN: -1, 0, 1. -/
def fvCmp (x y : FV) : Int :=
  match x, y with
  | .inf a, .inf b => if a = b then 0 else if a then -1 else 1
  | .inf a, _ => if a then -1 else 1
  | _, .inf b => if b then 1 else -1
  | .fin a m e, .fin b m' e' =>
    let q := min e e'
    let s : Int := (m * 2 ^ (e - q).toNat : Nat)
    let t : Int := (m' * 2 ^ (e' - q).toNat : Nat)
    let s := if a then -s else s
    let t := if b then -t else t
    if s < t then -1 else if s = t then 0 else 1
  | _, _ => 0

/-- FMIN and FMAX, -0 below +0 (R239). -/
def fpMinMax (f : Fmt) (mx : Bool) (a b : Nat) : Nat × Flags :=
  let w := 2 ^ f.width
  let a := a % w
  let b := b % w
  let x := fpDec f a
  let y := fpDec f b
  let fl := flagIf (x.isSnan || y.isSnan) fNV
  if x.isNan && y.isNan then (f.nan, fl)
  else if x.isNan then (b, fl)
  else if y.isNan then (a, fl)
  else
    let c := fvCmp x y
    let less := c < 0 || (c = 0 && x.neg && !y.neg)
    (if less != mx then a else b, fl)

/-- FCMP (R240). -/
def fpCmp (f : Fmt) (c : FCond) (a b : Nat) : Bool × Flags :=
  let x := fpDec f a
  let y := fpDec f b
  if x.isNan || y.isNan then
    let sg := x.isSnan || y.isSnan
    let ordered := c = .lt || c = .le || c = .gt || c = .ge
    (c = .ne || c = .un, flagIf (sg || ordered) fNV)
  else
    let r := fvCmp x y
    (match c with
      | .eq => decide (r = 0)
      | .ne => decide (r ≠ 0)
      | .lt => decide (r < 0)
      | .le => decide (r ≤ 0)
      | .gt => decide (0 < r)
      | .ge => decide (0 ≤ r)
      | .un => false, 0)

/-- FCLASS (R242). -/
def fpClass (f : Fmt) (a : Nat) : Nat :=
  match fpDec f a with
  | .nan s => if s then 2 ^ 8 else 2 ^ 9
  | .inf n => if n then 2 ^ 0 else 2 ^ 7
  | .fin n m _ =>
    if m = 0 then (if n then 2 ^ 3 else 2 ^ 4)
    else if m < 2 ^ f.mb then (if n then 2 ^ 2 else 2 ^ 5)
    else (if n then 2 ^ 1 else 2 ^ 6)

/-- FSGN: the sign becomes sign(A) xor sign(B) (R243). -/
def fpSgn (f : Fmt) (a b : Nat) : Nat :=
  let sa := a / f.signBit % 2
  let sb := b / f.signBit % 2
  a % f.signBit + (if sa = sb then 0 else f.signBit)

/-- An integer of `w` bits, read signed or not. -/
def intOf (w : Nat) (sgn : Bool) (x : Nat) : Int :=
  let u := x % 2 ^ w
  if sgn && 2 ^ (w - 1) ≤ u then (u : Int) - (2 ^ w : Nat) else u

/-- The low `w` bits of an integer. -/
def natOf (w : Nat) (i : Int) : Nat := (i % (2 ^ w : Nat)).toNat

/-- A finite value rounded to an integer: the integer and whether it was inexact. -/
def fvToInt (rm : Rmode) (neg : Bool) (m : Nat) (e : Int) : Int × Bool :=
  let (r, nx) := roundAt rm neg m e 0
  (if neg then -(r : Int) else r, nx)

def clampInt (lo hi x : Int) : Int := if x < lo then lo else if hi < x then hi else x

/-- FP to integer of `w` bits (R241). -/
def fpToInt (rm : Rmode) (w : Nat) (sgn : Bool) : FV → Int × Flags :=
  let lo : Int := if sgn then -(2 ^ (w - 1) : Nat) else 0
  let hi : Int := if sgn then (2 ^ (w - 1) : Nat) - 1 else (2 ^ w : Nat) - 1
  fun
  | .nan _ => (0, fNV)
  | .inf n => (if n then lo else hi, fNV)
  | .fin n m e =>
    let (r, nx) := fvToInt rm n m e
    if r < lo || hi < r then (clampInt lo hi r, fNV) else (r, flagIf nx fNX)

/-- FCVT on the low bits of A, into `wd` bits before extension (R241). -/
def fpCvt (t st : ETy) (sgn : Bool) (rm : Rmode) (sat : Bool) (a : Nat) : Nat × Flags :=
  if st.isInt then
    let i := intOf (tyBits st) sgn a
    fpRound (fmtOf t) rm sat (i < 0) i.natAbs 0
  else if t.isInt then
    let (i, fl) := fpToInt rm (tyBits t) sgn (fpDec (fmtOf st) a)
    (natOf (tyBits t) i, fl)
  else fpPut (fmtOf t) rm sat (fpDec (fmtOf st) a)

/-- Truncate a positive magnitude to 12 significant bits (R261, R262). -/
def trunc12 (m : Nat) (e : Int) : Nat × Int :=
  let l := bitLen m
  if l ≤ 12 then (m, e) else (m / 2 ^ (l - 12), e + (l - 12 : Nat))

/-- VFRCP (R261). -/
def fpRcp (f : Fmt) (a : Nat) : Nat × Flags :=
  match fpDec f a with
  | .nan s => fpNan f (flagIf s fNV)
  | .inf n => (signed f n 0, 0)
  | .fin n m e =>
    if m = 0 then withFlags (fpInf f false n) fDZ
    else
      let (q, qe, _) := divMag 1 0 m e 16
      let (t, te) := trunc12 q qe
      fpRound f .rne false n t te

/-- VFRSQ: 1 / sqrt(a) truncated to 12 bits is the square root of 1 / a so truncated (R261). -/
def fpRsq (f : Fmt) (a : Nat) : Nat × Flags :=
  match fpDec f a with
  | .nan s => fpNan f (flagIf s fNV)
  | .inf n => if n then fpNan f fNV else (0, 0)
  | .fin n m e =>
    if m = 0 then withFlags (fpInf f false n) fDZ
    else if n then fpNan f fNV
    else
      -- floor(sqrt(floor(2^j / m))) has the leading bits of 2^(j/2) / sqrt m
      let j := 2 * (bitLen m + 40) + (e % 2).toNat
      let r := isqrt (2 ^ j / m)
      let (t, te) := trunc12 r ((-e - j) / 2)
      fpRound f .rne false false t te

/-- Lower bounds of 2^(2^-k), scaled by 2^256: repeated integer square roots, k = 1 upward. -/
def exp2Roots : Nat → Nat → List Nat
  | 0, _ => []
  | k + 1, x => let r := isqrt (x * 2 ^ 256); r :: exp2Roots k r

/-- The product over the set bits of a fraction of `n` bits, top bit first, scaled by 2^256. -/
def exp2Prod : List Nat → Nat → Nat → Nat → Nat
  | [], _, _, acc => acc
  | r :: rs, n, fr, acc =>
    let hit := fr / 2 ^ (n - 1) % 2 = 1
    exp2Prod rs (n - 1) fr (if hit then acc * r / 2 ^ 256 else acc)

/-- The 12 leading bits of 2^x for 0 ≤ x < 1 given by a fraction of `n` bits, as m in [2^11, 2^12). -/
def exp2Frac (n fr : Nat) : Nat :=
  let k := min n 200
  let fr := fr / 2 ^ (n - k)
  exp2Prod (exp2Roots k (2 ^ 257)) k fr (2 ^ 256) / 2 ^ 245

/-- VFEXP2 (R262). A value above every exponent overflows and one below every exponent underflows, so
its integer part is bounded first. +∞ under sat = 1 saturates as R149 has it, where R262 gives +∞ with no flag: the
model's choice between the two (log 122). -/
def fpExp2 (f : Fmt) (sat : Bool) (a : Nat) : Nat × Flags :=
  match fpDec f a with
  | .nan s => fpNan f (flagIf s fNV)
  | .inf n => if n then (0, 0) else fpInf f sat false
  | .fin n m e =>
    let i : Int := if n then -(m : Int) else m
    if 0 ≤ e then
      let x := clampInt (-4096) 4096 (i * (2 ^ (min e.toNat 64) : Nat))
      fpRound f .rne sat false 1 x
    else
      let k := (-e).toNat
      let x := i / (2 ^ k : Nat)
      let fr := (i % (2 ^ k : Nat)).toNat
      let x := clampInt (-4096) 4096 x
      if fr = 0 then fpRound f .rne sat false 1 x
      else
        let (r, fl) := fpRound f .rne sat false (exp2Frac k fr) (x - 11)
        -- the exact power is irrational here, so the result differs from it: nx, and uf when tiny
        let tiny := decide (r % f.signBit < 2 ^ f.mb)
        (r, fl ||| fNX ||| flagIf tiny fUF)

end Sys2Proof.Machine
end

