-- ==== Sys2Proof/Machine/LoopMap.lean ====
section
/-! DEFINITION. The loop map of a die (R20): which stops belong to which loops is fixed for the part and the spec
does not print it, so a map is an opaque constant of which nothing is known but what R20 says of every map. -/

namespace Sys2Proof.Machine

/-- Loops that an agent is a stop of (R20). -/
def loopsOfStop (stop : Nat) : Nat :=
  if stop < 512 then 12
  else if stop < 608 then 48
  else if stop = 608 then 96
  else if stop < 611 then 48
  else if stop = 611 then 192
  else 24

/-- The sum of `b ^ x` over a list. -/
def powSum (b : Nat) (l : List Nat) : Nat := l.foldr (fun x n => Nat.add (Nat.pow b x) n) 0

/-- The set of a list's numbers, as bits. -/
def bitsOf (l : List Nat) : Nat := l.foldr (fun x n => Nat.lor (Nat.pow 2 x) n) 0

/-- The pairs (a, b) of stops of a loop, as the bits 616 a + b. -/
def pairBits (l : List Nat) : Nat := Nat.mul (powSum (2 ^ 616) l) (bitsOf l)

/-- The bridge and porch-link ports of a die, one for each bridge or link attached to it (R14, R20): 612 across,
613 up, 614 down, 615 to the porch die (log 13). -/
def portsOf (d : Nat) : List Nat :=
  [612] ++ (if 2 ≤ d then [613] else []) ++ (if d < 6 then [614] else []) ++ (if d < 2 then [615] else [])

/-- The stops of a die (R20). -/
def stopsOf (d : Nat) : List Nat := List.range 612 ++ portsOf d

/-- What R20 says of the 192 loops of a die with certain stops, each given as its stops in their order along it: at
most 64 stops on each, none twice; each stop on as many loops as its agent has, all of which are below 256, so that
the sums of powers of 256 count them; and every two stops together on one loop at least. -/
def goodLoops (stops : List Nat) (l : List (List Nat)) : Bool :=
  l.length = 192 &&
  l.all (fun x => x.length ≤ 64 && bitsOf x = powSum 2 x) &&
  (l.map (powSum 256)).sum = (stops.map fun i => loopsOfStop i * 256 ^ i).sum &&
  (l.foldr (fun x n => Nat.lor (pairBits x) n) 0) = pairBits stops

/-- A loop map of a die: the stops of each loop, in their order along it. -/
structure LoopMap (d : Nat) where
  loops : List (List Nat)
  ok : goodLoops (stopsOf d) loops = true

/-! Some map has these properties: 132 loops follow the lines of the affine plane of order 11, whose points
the clusters are shared out among; the other stops, from 512 on, are listed. Nothing rests on this map. -/

/-- The clusters at a point of the plane. -/
def clustersAt (x y : Nat) : List Nat :=
  let r := (x + 11 * y) * 61 % 121
  [r, r + 121, r + 242, r + 363, r + 484].filter (· < 512)

/-- The clusters on a line. -/
def clustersOn (l : Nat) : List Nat :=
  if l < 121 then (List.range 11).flatMap fun x => clustersAt x ((l / 11 * x + l % 11) % 11)
  else if l < 132 then (List.range 11).flatMap fun y => clustersAt (l - 121) y
  else []

def otherStops0 : List (List Nat) :=
  [[0, 1, 2, 3, 4, 5, 6, 7, 96, 99],
   [0, 1, 2, 3, 4, 5, 6, 7, 96, 99],
   [0, 1, 2, 3, 4, 5, 6, 7, 96, 99],
   [0, 1, 2, 3, 4, 5, 6, 7, 96, 99],
   [0, 1, 2, 3, 4, 5, 6, 7, 96, 99],
   [0, 1, 2, 3, 4, 5, 6, 7, 96, 99],
   [0, 1, 2, 3, 4, 5, 6, 7, 96, 99],
   [0, 1, 2, 3, 4, 5, 6, 7, 96, 97, 99],
   [0, 1, 2, 3, 4, 5, 6, 7, 96, 99],
   [0, 1, 2, 3, 4, 5, 6, 7, 96, 98, 99],
   [0, 1, 2, 3, 4, 5, 6, 7, 96, 99],
   [8, 9, 10, 11, 12, 13, 14, 15, 96, 97, 99],
   [6, 8, 9, 10, 11, 12, 13, 14, 15, 96, 97, 99],
   [8, 9, 10, 11, 12, 13, 14, 15, 96, 97, 99],
   [8, 9, 10, 11, 12, 13, 14, 15, 96, 97, 99],
   [2, 7, 8, 9, 10, 11, 12, 13, 14, 15, 96, 97, 99],
   [8, 9, 10, 11, 12, 13, 14, 15, 96, 97, 99],
   [4, 8, 9, 10, 11, 12, 13, 14, 15, 96, 97, 98, 99],
   [8, 9, 10, 11, 12, 13, 14, 15, 96, 97, 99],
   [1, 5, 8, 9, 10, 11, 12, 13, 14, 15, 96, 97, 99],
   [8, 9, 10, 11, 12, 13, 14, 15, 96, 97, 99],
   [0, 3, 8, 9, 10, 11, 12, 13, 14, 15, 96, 97, 99],
   [5, 16, 17, 18, 19, 20, 21, 22, 23, 96, 98, 99],
   [1, 10, 16, 17, 18, 19, 20, 21, 22, 23, 96, 98, 99]]

def otherStops1 : List (List Nat) :=
  [[7, 16, 17, 18, 19, 20, 21, 22, 23, 96, 98, 99],
   [8, 16, 17, 18, 19, 20, 21, 22, 23, 96, 97, 98, 99],
   [11, 16, 17, 18, 19, 20, 21, 22, 23, 96, 98, 99],
   [3, 14, 16, 17, 18, 19, 20, 21, 22, 23, 96, 98, 99],
   [12, 15, 16, 17, 18, 19, 20, 21, 22, 23, 96, 98, 99],
   [6, 16, 17, 18, 19, 20, 21, 22, 23, 96, 98, 99],
   [2, 9, 16, 17, 18, 19, 20, 21, 22, 23, 96, 98, 99],
   [0, 13, 16, 17, 18, 19, 20, 21, 22, 23, 96, 98, 99],
   [4, 16, 17, 18, 19, 20, 21, 22, 23, 96, 98, 99],
   [4, 17, 24, 25, 26, 27, 28, 29, 30, 31, 96, 99, 100],
   [3, 13, 15, 24, 25, 26, 27, 28, 29, 30, 31, 96, 98, 99, 100],
   [9, 14, 24, 25, 26, 27, 28, 29, 30, 31, 99, 100],
   [7, 18, 24, 25, 26, 27, 28, 29, 30, 31, 99, 100],
   [8, 20, 24, 25, 26, 27, 28, 29, 30, 31, 99, 100],
   [10, 19, 24, 25, 26, 27, 28, 29, 30, 31, 99, 100],
   [2, 5, 16, 24, 25, 26, 27, 28, 29, 30, 31, 97, 99, 100],
   [11, 22, 24, 25, 26, 27, 28, 29, 30, 31, 99, 100],
   [1, 6, 23, 24, 25, 26, 27, 28, 29, 30, 31, 99, 100],
   [24, 25, 26, 27, 28, 29, 30, 31, 96, 99, 100],
   [0, 12, 21, 24, 25, 26, 27, 28, 29, 30, 31, 99, 100],
   [18, 32, 33, 34, 35, 36, 37, 38, 39, 99, 101],
   [1, 7, 22, 31, 32, 33, 34, 35, 36, 37, 38, 39, 97, 99, 101],
   [9, 15, 32, 33, 34, 35, 36, 37, 38, 39, 99, 101],
   [6, 14, 26, 32, 33, 34, 35, 36, 37, 38, 39, 99, 101]]

def otherStops2 : List (List Nat) :=
  [[0, 11, 20, 32, 33, 34, 35, 36, 37, 38, 39, 99, 101],
   [5, 19, 25, 32, 33, 34, 35, 36, 37, 38, 39, 99, 101],
   [13, 16, 32, 33, 34, 35, 36, 37, 38, 39, 99, 101],
   [3, 10, 23, 30, 32, 33, 34, 35, 36, 37, 38, 39, 98, 99, 101],
   [21, 28, 32, 33, 34, 35, 36, 37, 38, 39, 99, 101],
   [2, 12, 24, 29, 32, 33, 34, 35, 36, 37, 38, 39, 99, 101],
   [4, 8, 17, 27, 32, 33, 34, 35, 36, 37, 38, 39, 99, 101],
   [5, 19, 32, 39, 40, 41, 42, 43, 44, 45, 46, 47, 99, 102],
   [12, 23, 27, 36, 40, 41, 42, 43, 44, 45, 46, 47, 98, 99, 102],
   [11, 16, 29, 38, 40, 41, 42, 43, 44, 45, 46, 47, 99, 102],
   [1, 10, 15, 25, 40, 41, 42, 43, 44, 45, 46, 47, 99, 102],
   [8, 14, 28, 40, 41, 42, 43, 44, 45, 46, 47, 99, 102],
   [6, 24, 35, 40, 41, 42, 43, 44, 45, 46, 47, 99, 102],
   [0, 9, 17, 30, 40, 41, 42, 43, 44, 45, 46, 47, 99, 102],
   [7, 20, 33, 40, 41, 42, 43, 44, 45, 46, 47, 99, 102],
   [13, 18, 31, 40, 41, 42, 43, 44, 45, 46, 47, 97, 99, 102],
   [3, 21, 34, 37, 40, 41, 42, 43, 44, 45, 46, 47, 99, 102],
   [2, 4, 22, 26, 40, 41, 42, 43, 44, 45, 46, 47, 99, 102],
   [6, 19, 25, 38, 48, 49, 50, 51, 52, 53, 54, 55, 99, 103],
   [0, 11, 23, 30, 40, 48, 49, 50, 51, 52, 53, 54, 55, 99, 103],
   [13, 14, 34, 43, 48, 49, 50, 51, 52, 53, 54, 55, 99, 103],
   [12, 18, 28, 36, 48, 49, 50, 51, 52, 53, 54, 55, 98, 99, 103],
   [5, 17, 32, 37, 47, 48, 49, 50, 51, 52, 53, 54, 55, 99, 103],
   [2, 7, 16, 31, 42, 48, 49, 50, 51, 52, 53, 54, 55, 99, 103]]

def otherStops3 : List (List Nat) :=
  [[10, 20, 29, 39, 48, 49, 50, 51, 52, 53, 54, 55, 99, 103],
   [9, 24, 33, 44, 48, 49, 50, 51, 52, 53, 54, 55, 97, 99, 103],
   [4, 22, 35, 45, 48, 49, 50, 51, 52, 53, 54, 55, 99, 103],
   [1, 3, 15, 27, 41, 48, 49, 50, 51, 52, 53, 54, 55, 99, 103],
   [8, 21, 26, 46, 48, 49, 50, 51, 52, 53, 54, 55, 99, 103],
   [3, 13, 23, 34, 42, 56, 57, 58, 59, 60, 61, 62, 63, 99],
   [11, 14, 32, 36, 50, 56, 57, 58, 59, 60, 61, 62, 63, 99],
   [12, 24, 30, 41, 56, 57, 58, 59, 60, 61, 62, 63, 99],
   [4, 7, 16, 28, 44, 51, 56, 57, 58, 59, 60, 61, 62, 63, 98, 99],
   [17, 25, 37, 55, 56, 57, 58, 59, 60, 61, 62, 63, 99],
   [1, 10, 15, 26, 43, 52, 56, 57, 58, 59, 60, 61, 62, 63, 99],
   [0, 6, 20, 31, 40, 53, 56, 57, 58, 59, 60, 61, 62, 63, 99],
   [21, 29, 45, 49, 56, 57, 58, 59, 60, 61, 62, 63, 99],
   [2, 9, 22, 35, 38, 48, 56, 57, 58, 59, 60, 61, 62, 63, 97, 99],
   [5, 19, 27, 46, 47, 56, 57, 58, 59, 60, 61, 62, 63, 99],
   [8, 18, 33, 39, 54, 56, 57, 58, 59, 60, 61, 62, 63, 99],
   [9, 16, 29, 44, 51, 59, 64, 65, 66, 67, 68, 69, 70, 71, 99],
   [8, 20, 26, 38, 56, 64, 65, 66, 67, 68, 69, 70, 71, 99],
   [7, 19, 28, 40, 50, 62, 64, 65, 66, 67, 68, 69, 70, 71, 99],
   [1, 10, 18, 32, 36, 47, 64, 65, 66, 67, 68, 69, 70, 71, 97, 99],
   [12, 23, 35, 46, 57, 64, 65, 66, 67, 68, 69, 70, 71, 99],
   [2, 5, 14, 27, 45, 48, 60, 64, 65, 66, 67, 68, 69, 70, 71, 99],
   [21, 33, 39, 49, 58, 64, 65, 66, 67, 68, 69, 70, 71, 99],
   [0, 11, 17, 34, 43, 55, 64, 65, 66, 67, 68, 69, 70, 71, 99]]

def otherStops4 : List (List Nat) :=
  [[6, 24, 31, 42, 53, 63, 64, 65, 66, 67, 68, 69, 70, 71, 99],
   [3, 4, 15, 30, 37, 52, 61, 64, 65, 66, 67, 68, 69, 70, 71, 98, 99],
   [13, 22, 25, 41, 54, 64, 65, 66, 67, 68, 69, 70, 71, 99],
   [5, 17, 31, 36, 57, 64, 69, 72, 73, 74, 75, 76, 77, 78, 79, 99],
   [1, 8, 21, 32, 44, 53, 68, 72, 73, 74, 75, 76, 77, 78, 79, 99],
   [9, 24, 35, 41, 56, 63, 72, 73, 74, 75, 76, 77, 78, 79, 99],
   [11, 20, 26, 39, 48, 59, 72, 73, 74, 75, 76, 77, 78, 79, 97, 99],
   [7, 15, 25, 46, 47, 60, 72, 73, 74, 75, 76, 77, 78, 79, 99],
   [4, 23, 30, 43, 49, 58, 72, 73, 74, 75, 76, 77, 78, 79, 99],
   [2, 12, 18, 33, 38, 55, 67, 72, 73, 74, 75, 76, 77, 78, 79, 99],
   [10, 14, 27, 45, 50, 66, 72, 73, 74, 75, 76, 77, 78, 79, 98, 99],
   [3, 19, 29, 37, 51, 65, 72, 73, 74, 75, 76, 77, 78, 79, 99],
   [6, 16, 34, 40, 54, 62, 71, 72, 73, 74, 75, 76, 77, 78, 79, 99],
   [0, 13, 22, 28, 42, 52, 61, 70, 72, 73, 74, 75, 76, 77, 78, 79, 99],
   [3, 6, 17, 24, 33, 39, 53, 65, 79, 80, 81, 82, 83, 84, 85, 86, 87, 99],
   [14, 18, 31, 43, 48, 67, 77, 80, 81, 82, 83, 84, 85, 86, 87, 99],
   [12, 21, 27, 42, 57, 62, 70, 80, 81, 82, 83, 84, 85, 86, 87, 99],
   [4, 9, 16, 20, 25, 45, 49, 68, 78, 80, 81, 82, 83, 84, 85, 86, 87, 99],
   [26, 40, 52, 60, 74, 80, 81, 82, 83, 84, 85, 86, 87, 99],
   [1, 7, 13, 23, 34, 36, 54, 66, 76, 80, 81, 82, 83, 84, 85, 86, 87, 97, 99],
   [35, 38, 56, 58, 69, 80, 81, 82, 83, 84, 85, 86, 87, 99],
   [2, 8, 15, 22, 28, 37, 55, 59, 71, 80, 81, 82, 83, 84, 85, 86, 87, 98, 99],
   [32, 44, 51, 61, 73, 80, 81, 82, 83, 84, 85, 86, 87, 99],
   [0, 5, 10, 11, 19, 30, 41, 47, 64, 75, 80, 81, 82, 83, 84, 85, 86, 87, 99]]

def otherStops5 : List (List Nat) :=
  [[29, 46, 50, 63, 72, 80, 81, 82, 83, 84, 85, 86, 87, 99],
   [6, 24, 33, 42, 53, 68, 76, 86, 88, 89, 90, 91, 92, 93, 94, 95, 99],
   [0, 8, 17, 26, 37, 54, 66, 78, 83, 88, 89, 90, 91, 92, 93, 94, 95, 99],
   [5, 21, 34, 45, 47, 67, 75, 85, 88, 89, 90, 91, 92, 93, 94, 95, 99],
   [11, 19, 31, 40, 52, 64, 73, 88, 89, 90, 91, 92, 93, 94, 95, 98, 99],
   [7, 20, 29, 44, 55, 60, 77, 87, 88, 89, 90, 91, 92, 93, 94, 95, 99],
   [1, 10, 18, 28, 39, 50, 62, 72, 82, 88, 89, 90, 91, 92, 93, 94, 95, 99],
   [3, 22, 30, 38, 48, 58, 71, 84, 88, 89, 90, 91, 92, 93, 94, 95, 99],
   [2, 13, 16, 32, 46, 56, 63, 69, 88, 89, 90, 91, 92, 93, 94, 95, 99],
   [4, 14, 35, 36, 51, 61, 74, 81, 88, 89, 90, 91, 92, 93, 94, 95, 99],
   [12, 23, 25, 41, 57, 59, 79, 80, 88, 89, 90, 91, 92, 93, 94, 95, 97, 99],
   [9, 15, 27, 43, 49, 65, 70, 88, 89, 90, 91, 92, 93, 94, 95, 99],
   [5, 7, 11, 12, 14, 17, 19, 21, 24, 25, 28, 30, 31, 34, 36, 38, 39, 41, 43, 46, 47, 50, 52, 54, 55, 58, 59, 60, 63,
    64, 66, 68, 69, 72, 74, 75, 76, 78, 79, 81, 82, 84, 87, 88, 90, 91, 92, 94, 96, 99, 100, 101, 102, 103],
   [1, 2, 3, 5, 7, 10, 13, 14, 16, 18, 22, 23, 26, 27, 30, 31, 33, 35, 38, 40, 43, 44, 45, 47, 49, 52, 53, 55, 57, 58,
    60, 62, 64, 65, 67, 69, 71, 73, 75, 77, 78, 79, 82, 83, 85, 87, 88, 90, 91, 92, 94, 96, 97, 99],
   [1, 2, 5, 6, 8, 10, 12, 15, 16, 19, 21, 24, 25, 28, 29, 31, 33, 36, 37, 40, 41, 43, 45, 48, 49, 50, 52, 55, 56, 59,
    61, 63, 65, 66, 68, 69, 72, 73, 74, 77, 78, 79, 82, 83, 84, 86, 88, 90, 91, 94, 95, 96, 98, 99],
   [1, 2, 3, 6, 7, 11, 12, 15, 17, 20, 22, 24, 25, 27, 30, 32, 34, 35, 37, 40, 42, 44, 45, 48, 49, 51, 54, 55, 56, 59,
    60, 62, 64, 65, 68, 70, 72, 73, 74, 76, 77, 80, 82, 83, 84, 86, 87, 90, 91, 93, 94, 96, 98, 99],
   [5, 9, 10, 13, 15, 18, 19, 21, 24, 25, 28, 30, 31, 33, 35, 37, 39, 42, 44, 46, 47, 49, 51, 53, 54, 56, 58, 60, 61,
    63, 66, 68, 69, 71, 73, 74, 76, 79, 80, 81, 84, 85, 86, 88, 89, 91, 93, 94, 96, 99, 100, 101, 102, 103],
   [0, 3, 5, 6, 8, 9, 14, 15, 16, 18, 20, 24, 26, 29, 30, 32, 34, 36, 38, 39, 41, 43, 46, 48, 50, 51, 53, 55, 57, 59,
    60, 62, 63, 66, 67, 70, 72, 74, 75, 77, 79, 80, 81, 84, 85, 86, 87, 89, 91, 94, 95, 96, 98, 99],
   [0, 1, 3, 6, 8, 9, 12, 15, 16, 18, 21, 23, 24, 28, 29, 31, 33, 36, 37, 40, 41, 44, 45, 48, 50, 51, 54, 55, 57, 59,
    61, 62, 64, 65, 67, 69, 71, 72, 74, 76, 78, 79, 81, 83, 85, 87, 88, 89, 90, 93, 95, 96, 97, 99],
   [1, 2, 3, 6, 9, 11, 12, 14, 17, 19, 21, 23, 25, 27, 30, 31, 33, 35, 37, 39, 42, 43, 45, 47, 49, 50, 53, 54, 56, 59,
    61, 62, 64, 65, 67, 70, 71, 73, 74, 75, 78, 80, 82, 83, 84, 87, 88, 90, 92, 93, 94, 96, 98, 99],
   [0, 2, 4, 7, 9, 10, 12, 15, 16, 19, 21, 22, 26, 27, 29, 31, 33, 36, 38, 40, 41, 43, 46, 47, 49, 50, 52, 56, 58, 59,
    60, 62, 64, 65, 68, 69, 71, 73, 75, 76, 78, 80, 81, 82, 85, 87, 88, 89, 91, 93, 95, 96, 98, 99],
   [5, 7, 10, 13, 16, 18, 19, 21, 23, 25, 28, 30, 31, 33, 36, 37, 40, 42, 43, 46, 48, 50, 51, 53, 55, 57, 59, 60, 62,
    64, 66, 68, 70, 71, 72, 74, 76, 78, 79, 82, 83, 85, 87, 88, 90, 91, 93, 94, 96, 99, 100, 101, 102, 103],
   [0, 1, 4, 5, 9, 10, 14, 16, 17, 18, 21, 22, 26, 28, 31, 33, 35, 36, 38, 41, 42, 44, 45, 47, 48, 51, 54, 55, 56, 59,
    60, 63, 65, 66, 68, 69, 71, 72, 74, 76, 78, 79, 81, 83, 85, 86, 88, 90, 92, 93, 94, 95, 96, 98, 99],
   [1, 3, 4, 7, 9, 11, 12, 15, 16, 19, 20, 24, 25, 27, 29, 31, 34, 37, 38, 40, 42, 43, 46, 48, 50, 51, 52, 54, 56, 59,
    60, 62, 64, 65, 68, 70, 71, 73, 74, 77, 79, 80, 82, 83, 84, 87, 89, 90, 91, 93, 95, 96, 98, 99]]

def otherStops6 : List (List Nat) :=
  [[2, 3, 5, 8, 10, 12, 16, 17, 19, 20, 23, 25, 28, 29, 33, 35, 37, 38, 40, 41, 43, 45, 47, 50, 51, 52, 55, 57, 58,
    60, 62, 65, 66, 67, 70, 71, 72, 75, 76, 78, 80, 81, 84, 85, 86, 88, 89, 91, 92, 95, 96, 97, 98, 99],
   [6, 7, 9, 14, 15, 17, 18, 20, 23, 25, 28, 29, 31, 33, 35, 37, 40, 41, 43, 46, 47, 49, 51, 53, 54, 57, 59, 61, 62,
    63, 66, 68, 69, 71, 73, 75, 76, 77, 79, 81, 82, 85, 87, 89, 90, 92, 93, 94, 96, 99, 100, 101, 102, 103],
   [1, 3, 5, 9, 10, 12, 15, 17, 19, 21, 22, 26, 28, 29, 32, 34, 35, 37, 40, 42, 44, 46, 47, 49, 51, 53, 54, 56, 59,
    60, 63, 64, 65, 67, 70, 72, 73, 75, 77, 78, 80, 82, 83, 84, 86, 89, 90, 92, 93, 95, 96, 97, 98, 99],
   [1, 2, 5, 6, 7, 11, 13, 16, 17, 18, 22, 24, 25, 27, 30, 32, 34, 35, 37, 40, 41, 43, 46, 48, 50, 51, 54, 55, 58, 59,
    61, 63, 64, 65, 68, 69, 71, 73, 74, 76, 77, 79, 82, 83, 84, 86, 89, 90, 92, 93, 94, 95, 96, 97, 99],
   [0, 2, 4, 5, 8, 10, 13, 15, 17, 19, 21, 24, 26, 27, 30, 32, 33, 37, 38, 40, 41, 43, 46, 48, 50, 52, 54, 55, 57, 59,
    60, 62, 63, 65, 67, 69, 71, 73, 75, 77, 79, 80, 81, 83, 85, 86, 88, 90, 92, 93, 95, 96, 98, 99],
   [0, 1, 4, 6, 7, 11, 14, 16, 17, 19, 22, 23, 25, 27, 29, 33, 34, 36, 38, 39, 42, 44, 45, 47, 49, 52, 53, 55, 57, 58,
    60, 61, 64, 66, 68, 69, 72, 73, 74, 77, 78, 79, 82, 83, 85, 87, 88, 89, 92, 93, 94, 96, 97, 99],
   [7, 8, 11, 13, 15, 17, 18, 21, 23, 25, 28, 29, 32, 34, 37, 38, 39, 41, 44, 45, 48, 49, 52, 53, 55, 57, 59, 61, 62,
    63, 66, 68, 70, 71, 72, 74, 76, 78, 80, 82, 83, 84, 86, 88, 90, 91, 92, 95, 96, 99, 100, 101, 102, 103],
   [1, 3, 4, 6, 8, 11, 13, 15, 17, 19, 22, 24, 25, 27, 29, 32, 33, 36, 37, 39, 41, 43, 45, 48, 49, 52, 54, 55, 56, 59,
    60, 63, 64, 66, 68, 69, 71, 73, 75, 76, 77, 79, 82, 83, 85, 86, 88, 89, 91, 93, 95, 96, 98, 99],
   [0, 2, 4, 6, 8, 10, 13, 14, 16, 18, 21, 23, 26, 27, 30, 31, 33, 36, 39, 40, 42, 43, 46, 48, 49, 52, 53, 55, 58, 59,
    60, 63, 64, 65, 67, 69, 72, 73, 74, 75, 78, 79, 82, 83, 84, 86, 88, 89, 91, 92, 94, 96, 97, 99],
   [0, 2, 3, 5, 9, 11, 14, 15, 16, 20, 21, 23, 26, 28, 30, 32, 34, 37, 39, 40, 42, 43, 45, 47, 49, 52, 53, 56, 57, 58,
    60, 61, 64, 65, 68, 69, 70, 74, 75, 77, 78, 80, 82, 83, 85, 86, 89, 90, 91, 94, 95, 96, 97, 99],
   [1, 2, 5, 7, 9, 11, 12, 15, 18, 19, 22, 24, 26, 27, 30, 32, 34, 36, 38, 40, 42, 43, 45, 47, 50, 51, 52, 56, 57, 58,
    60, 62, 65, 66, 67, 69, 70, 74, 75, 76, 77, 80, 81, 82, 84, 86, 87, 90, 91, 93, 94, 96, 97, 99],
   [5, 9, 10, 12, 15, 18, 19, 21, 23, 27, 29, 30, 32, 33, 35, 38, 40, 42, 44, 46, 47, 48, 50, 54, 56, 57, 58, 60, 62,
    64, 65, 68, 69, 70, 73, 75, 76, 78, 80, 82, 83, 85, 87, 89, 90, 91, 92, 94, 96, 99, 100, 101, 102, 103],
   [0, 1, 3, 7, 8, 9, 12, 14, 17, 20, 21, 23, 26, 27, 29, 31, 33, 35, 37, 41, 42, 44, 45, 47, 50, 51, 52, 54, 56, 59,
    61, 63, 64, 65, 67, 69, 71, 72, 75, 76, 77, 79, 81, 83, 84, 87, 88, 90, 92, 93, 94, 96, 98, 99],
   [0, 3, 5, 7, 9, 10, 13, 14, 16, 19, 22, 24, 26, 28, 29, 32, 35, 36, 38, 40, 41, 44, 45, 48, 49, 51, 52, 56, 57, 59,
    61, 63, 64, 66, 67, 69, 72, 73, 74, 76, 78, 80, 81, 83, 84, 86, 87, 89, 91, 92, 95, 96, 97, 99],
   [0, 3, 4, 5, 8, 11, 12, 15, 16, 19, 22, 24, 26, 27, 30, 33, 34, 35, 37, 40, 43, 44, 46, 48, 49, 50, 52, 54, 57, 58,
    61, 63, 64, 66, 68, 69, 70, 72, 75, 76, 78, 79, 81, 84, 85, 86, 87, 89, 91, 93, 94, 96, 97, 99],
   [7, 8, 11, 12, 15, 17, 19, 21, 23, 26, 28, 31, 32, 34, 35, 39, 40, 42, 44, 46, 48, 50, 51, 53, 54, 57, 58, 61, 62,
    64, 66, 67, 69, 72, 73, 74, 77, 78, 79, 82, 83, 84, 86, 88, 89, 91, 92, 94, 96, 99, 100, 101, 102, 103],
   [0, 2, 4, 6, 8, 11, 14, 16, 18, 20, 22, 24, 26, 28, 30, 32, 34, 36, 38, 39, 41, 44, 46, 48, 50, 52, 53, 54, 56, 58,
    61, 63, 65, 66, 68, 70, 72, 74, 75, 77, 78, 80, 81, 82, 85, 86, 87, 89, 92, 93, 94, 95, 96, 98, 99],
   [0, 3, 5, 7, 8, 11, 12, 14, 18, 20, 22, 23, 25, 28, 30, 32, 34, 36, 37, 39, 42, 44, 46, 47, 50, 51, 52, 55, 56, 58,
    60, 63, 64, 66, 67, 70, 71, 73, 74, 76, 77, 79, 81, 83, 84, 87, 89, 90, 91, 94, 95, 96, 98, 99],
   [0, 2, 4, 5, 7, 10, 12, 14, 17, 20, 21, 24, 25, 27, 31, 32, 34, 35, 37, 39, 42, 44, 45, 48, 50, 51, 52, 54, 56, 58,
    60, 62, 65, 67, 68, 69, 72, 73, 75, 76, 78, 80, 81, 83, 84, 86, 88, 89, 90, 92, 95, 96, 97, 99],
   [0, 2, 4, 5, 9, 10, 13, 15, 16, 19, 22, 23, 26, 28, 29, 32, 34, 35, 37, 39, 41, 43, 46, 48, 49, 51, 53, 55, 57, 59,
    61, 62, 64, 65, 67, 69, 71, 73, 74, 76, 77, 80, 81, 84, 85, 87, 88, 89, 91, 93, 94, 96, 97, 99],
   [7, 8, 11, 13, 14, 16, 20, 22, 24, 25, 28, 30, 32, 34, 35, 38, 40, 42, 43, 45, 47, 50, 51, 52, 55, 56, 59, 61, 62,
    64, 65, 67, 68, 71, 72, 74, 77, 79, 80, 81, 84, 85, 86, 88, 89, 90, 93, 94, 95, 96, 99, 100, 101, 102, 103],
   [0, 1, 4, 6, 8, 10, 12, 15, 16, 20, 21, 22, 26, 28, 30, 32, 34, 35, 37, 39, 41, 43, 45, 47, 48, 52, 54, 56, 58, 59,
    60, 62, 63, 67, 68, 70, 72, 73, 75, 77, 78, 79, 82, 83, 84, 86, 88, 89, 91, 92, 94, 96, 97, 99],
   [1, 3, 4, 5, 8, 10, 12, 15, 18, 19, 21, 23, 25, 27, 31, 32, 34, 36, 38, 40, 41, 44, 45, 47, 49, 51, 53, 54, 57, 58,
    60, 61, 63, 66, 67, 70, 71, 73, 75, 76, 78, 80, 81, 82, 85, 86, 87, 89, 92, 93, 94, 96, 97, 99],
   [1, 3, 4, 5, 8, 9, 12, 16, 17, 19, 20, 23, 25, 27, 30, 31, 34, 35, 38, 39, 42, 43, 45, 47, 49, 51, 53, 56, 57, 59,
    60, 62, 63, 65, 67, 70, 71, 72, 75, 76, 79, 80, 81, 83, 85, 87, 88, 90, 91, 94, 95, 96, 97, 99]]

def otherStops7 : List (List Nat) :=
  [[6, 9, 10, 13, 16, 17, 20, 21, 24, 26, 28, 29, 31, 34, 36, 38, 39, 41, 44, 46, 47, 49, 52, 53, 54, 56, 58, 60, 62,
    65, 66, 67, 70, 71, 73, 74, 76, 77, 79, 81, 83, 84, 86, 87, 90, 91, 92, 94, 96, 99, 100, 101, 102, 103],
   [1, 2, 4, 6, 8, 10, 13, 15, 17, 19, 20, 23, 26, 27, 29, 31, 34, 36, 39, 40, 42, 43, 46, 47, 49, 51, 53, 55, 58, 59,
    61, 62, 64, 66, 67, 70, 72, 73, 74, 77, 79, 80, 82, 84, 85, 87, 88, 90, 91, 93, 94, 96, 97, 99],
   [1, 3, 6, 8, 10, 13, 16, 18, 19, 21, 24, 26, 27, 29, 31, 34, 36, 37, 39, 41, 44, 45, 48, 50, 52, 53, 55, 57, 59,
    61, 63, 65, 66, 68, 70, 71, 72, 74, 76, 78, 80, 81, 82, 84, 86, 87, 90, 92, 93, 94, 95, 96, 97, 98, 99],
   [0, 2, 3, 6, 8, 11, 13, 15, 18, 20, 22, 23, 26, 27, 29, 32, 33, 36, 38, 40, 41, 44, 45, 47, 50, 51, 54, 56, 57, 58,
    60, 62, 64, 65, 67, 70, 71, 73, 75, 77, 79, 80, 82, 83, 85, 86, 88, 90, 91, 93, 95, 96, 98, 99],
   [1, 3, 4, 6, 8, 11, 13, 14, 16, 20, 21, 23, 26, 27, 29, 31, 33, 36, 37, 39, 42, 43, 46, 48, 50, 52, 54, 55, 56, 59,
    61, 63, 65, 67, 68, 69, 71, 72, 74, 75, 78, 80, 81, 82, 84, 87, 88, 89, 92, 93, 94, 96, 98, 99],
   [6, 9, 11, 12, 14, 18, 20, 21, 24, 25, 29, 30, 32, 34, 36, 37, 39, 42, 43, 45, 48, 49, 51, 53, 55, 57, 58, 60, 61,
    64, 66, 67, 68, 71, 73, 75, 76, 78, 80, 81, 83, 85, 86, 88, 89, 92, 93, 95, 96, 99, 100, 101, 102, 103],
   [1, 4, 5, 7, 10, 12, 16, 17, 19, 22, 23, 25, 27, 29, 31, 34, 35, 38, 39, 41, 44, 45, 47, 49, 50, 53, 55, 56, 59,
    61, 62, 63, 67, 68, 69, 72, 73, 74, 77, 78, 79, 81, 84, 85, 87, 89, 90, 92, 94, 95, 96, 97, 98, 99],
   [1, 2, 4, 6, 9, 10, 13, 15, 18, 19, 20, 24, 26, 28, 29, 33, 34, 35, 38, 39, 42, 44, 45, 47, 49, 51, 52, 55, 56, 58,
    60, 63, 65, 66, 67, 69, 70, 73, 75, 76, 78, 79, 81, 83, 85, 87, 88, 90, 91, 92, 94, 95, 96, 97, 99],
   [0, 1, 4, 6, 9, 11, 13, 16, 18, 20, 22, 23, 25, 28, 29, 32, 34, 36, 37, 40, 42, 43, 46, 47, 50, 52, 53, 55, 57, 59,
    60, 62, 65, 66, 67, 70, 72, 73, 75, 77, 78, 80, 81, 82, 85, 86, 88, 90, 92, 93, 94, 96, 97, 99],
   [0, 2, 4, 5, 8, 11, 12, 14, 18, 20, 21, 23, 26, 27, 30, 31, 33, 36, 38, 39, 41, 43, 45, 47, 49, 52, 53, 56, 57, 58,
    61, 63, 65, 66, 68, 69, 70, 73, 75, 77, 78, 80, 81, 82, 85, 87, 88, 90, 91, 93, 95, 96, 97, 99],
   [6, 8, 10, 13, 15, 17, 18, 21, 23, 26, 27, 30, 32, 34, 35, 37, 39, 41, 43, 45, 48, 49, 51, 53, 55, 57, 58, 60, 63,
    64, 66, 68, 69, 72, 73, 75, 77, 78, 79, 82, 83, 85, 87, 88, 90, 92, 93, 95, 96, 99, 100, 101, 102, 103],
   [0, 3, 4, 5, 8, 11, 13, 15, 17, 18, 22, 24, 25, 28, 30, 32, 34, 36, 39, 40, 42, 44, 45, 46, 49, 52, 54, 56, 57, 59,
    61, 63, 64, 66, 67, 69, 70, 72, 74, 76, 77, 79, 82, 84, 85, 86, 89, 90, 92, 93, 95, 96, 97, 99],
   [2, 3, 7, 9, 11, 13, 14, 17, 20, 22, 23, 25, 28, 30, 31, 33, 35, 37, 40, 42, 43, 45, 48, 49, 51, 53, 55, 57, 58,
    61, 62, 63, 66, 67, 69, 70, 73, 75, 76, 78, 80, 81, 83, 84, 86, 88, 89, 92, 93, 95, 96, 97, 98, 99],
   [0, 2, 3, 7, 9, 10, 12, 14, 17, 18, 22, 23, 26, 27, 29, 31, 33, 36, 38, 39, 41, 44, 46, 47, 49, 50, 54, 56, 57, 59,
    61, 62, 65, 67, 68, 69, 71, 72, 74, 76, 78, 80, 82, 83, 85, 86, 87, 89, 91, 93, 94, 96, 98, 99],
   [7, 9, 11, 13, 15, 18, 19, 22, 23, 26, 28, 30, 31, 33, 36, 38, 39, 41, 43, 46, 48, 49, 52, 53, 55, 57, 58, 60, 61,
    65, 67, 68, 69, 71, 73, 75, 76, 77, 80, 81, 84, 85, 86, 89, 90, 91, 93, 95, 96, 99, 100, 101, 102, 103],
   [1, 2, 4, 5, 9, 10, 12, 14, 17, 19, 21, 24, 25, 27, 29, 32, 33, 36, 37, 41, 42, 45, 46, 48, 49, 51, 53, 54, 56, 59,
    61, 62, 64, 66, 68, 69, 71, 72, 74, 76, 77, 79, 82, 83, 84, 86, 87, 89, 91, 92, 95, 96, 98, 99],
   [0, 2, 4, 6, 8, 11, 13, 14, 16, 18, 22, 24, 26, 27, 30, 32, 33, 35, 38, 40, 43, 44, 46, 48, 49, 51, 53, 55, 57, 59,
    60, 63, 64, 65, 68, 70, 71, 72, 74, 75, 78, 80, 82, 83, 85, 87, 88, 90, 91, 92, 95, 96, 98, 99],
   [0, 2, 3, 6, 8, 11, 12, 14, 17, 19, 22, 24, 26, 28, 30, 31, 33, 36, 37, 41, 42, 44, 46, 47, 48, 50, 54, 56, 57, 58,
    61, 62, 63, 66, 67, 69, 70, 73, 75, 76, 79, 80, 81, 84, 85, 87, 88, 90, 91, 92, 94, 95, 96, 98, 99],
   [0, 2, 4, 6, 7, 11, 13, 14, 17, 20, 21, 24, 26, 28, 31, 32, 33, 35, 39, 41, 42, 44, 46, 47, 50, 51, 53, 54, 57, 58,
    61, 63, 64, 66, 68, 70, 71, 73, 75, 77, 78, 80, 81, 84, 85, 86, 88, 89, 91, 93, 95, 96, 98, 99],
   [5, 7, 9, 13, 14, 18, 20, 22, 24, 25, 28, 30, 32, 35, 36, 38, 39, 42, 43, 46, 47, 50, 51, 54, 55, 56, 58, 61, 62,
    64, 65, 68, 70, 71, 72, 74, 77, 78, 79, 82, 83, 85, 87, 89, 90, 91, 92, 95, 96, 99, 100, 101, 102, 103],
   [0, 2, 3, 7, 9, 10, 13, 16, 18, 20, 21, 24, 25, 28, 29, 33, 35, 37, 38, 40, 42, 44, 46, 48, 50, 51, 54, 55, 57, 59,
    60, 62, 63, 65, 68, 70, 71, 72, 74, 76, 79, 80, 81, 83, 84, 86, 88, 89, 91, 93, 94, 96, 98, 99],
   [0, 1, 4, 6, 7, 10, 12, 14, 16, 20, 22, 23, 25, 27, 30, 32, 34, 35, 38, 40, 42, 44, 45, 47, 49, 52, 53, 55, 56, 58,
    61, 63, 64, 66, 67, 70, 71, 72, 75, 76, 77, 79, 81, 83, 84, 86, 88, 89, 92, 93, 94, 95, 96, 98, 99],
   [1, 3, 4, 7, 8, 10, 13, 14, 17, 19, 20, 24, 25, 28, 29, 32, 33, 35, 38, 40, 41, 44, 46, 48, 50, 52, 53, 54, 57, 58,
    61, 62, 64, 66, 67, 70, 71, 72, 74, 77, 79, 80, 81, 82, 84, 86, 87, 90, 91, 92, 95, 96, 97, 99],
   [1, 2, 3, 6, 9, 11, 12, 15, 17, 20, 22, 24, 25, 27, 29, 31, 35, 36, 38, 40, 41, 44, 45, 48, 50, 52, 53, 54, 56, 58,
    60, 62, 64, 66, 68, 69, 70, 74, 75, 76, 77, 80, 81, 82, 85, 87, 88, 89, 92, 93, 95, 96, 97, 99]]

def someLoops : List (List Nat) :=
  ((List.range 192).zip (otherStops0 ++ otherStops1 ++ otherStops2 ++ otherStops3 ++ otherStops4 ++ otherStops5 ++
    otherStops6 ++ otherStops7)).map fun e => clustersOn e.1 ++ e.2.map (512 + ·)

/-- Those loops without the ports that a die has not got. -/
def loopsFor (ports : List Nat) : List (List Nat) := someLoops.map fun x => x.filter fun i => i < 612 || ports.contains i

theorem loopsFor_good01 : goodLoops (List.range 612 ++ [612, 614, 615]) (loopsFor [612, 614, 615]) = true := by
  decide +kernel

theorem loopsFor_good25 : goodLoops (List.range 612 ++ [612, 613, 614]) (loopsFor [612, 613, 614]) = true := by
  decide +kernel

theorem loopsFor_good67 : goodLoops (List.range 612 ++ [612, 613]) (loopsFor [612, 613]) = true := by
  decide +kernel

/-- Some map of a die. -/
def someMap (d : Nat) : LoopMap d where
  loops := loopsFor (portsOf d)
  ok := by
    have h : portsOf d = [612, 614, 615] ∨ portsOf d = [612, 613, 614] ∨ portsOf d = [612, 613] := by
      simp only [portsOf]
      split <;> split <;> split <;> first | omega | simp
    unfold stopsOf
    obtain h | h | h := h <;> rw [h]
    exacts [loopsFor_good01, loopsFor_good25, loopsFor_good67]

end Sys2Proof.Machine

namespace Sys2Proof.Config

/-- The loop map of each die (R20; log 5): any that R20 allows. -/
opaque loopMaps : (d : Nat) → Machine.LoopMap d := Machine.someMap

end Sys2Proof.Config

namespace Sys2Proof.Machine

/-- The stops of a loop of a die, in their order along it (R20). -/
def loopStops (d l : Nat) : List Nat := (Config.loopMaps d).loops.getD l []

/-- A stop of a die belongs to a loop. -/
def loopMap (d stop l : Nat) : Bool := (loopStops d l).contains stop

/-- The rank of a stop along a loop (R29). -/
def loopRank (d l stop : Nat) : Nat := (loopStops d l).idxOf stop

/-- The stop of a rank along a loop. -/
def stopOfRank (d l r : Nat) : Nat := (loopStops d l).getD r 0

end Sys2Proof.Machine
end

