-- ==== Sys2Proof/Machine/Net.lean ====
section
/-! DEFINITION. Flits: sending, routes between dies, ordered channels, taking a flit (R14, R15, R20 to
R26), and the home of an address (R33 to R35). -/

namespace Sys2Proof.Machine

/-! Virtual channels (R25) -/
def vcREQ : Nat := 0
def vcRSP : Nat := 1
def vcCOH : Nat := 2
def vcMSG : Nat := 3
def vcJOB : Nat := 4
def vcSYS : Nat := 5

/-- REQ, MSG and SYS are ordered per pair (R25). -/
def vcOrdered (vc : Nat) : Bool := vc = 0 || vc = 3 || vc = 5

/-! Stops (R20). The porch die is die 8; its one stop is numbered 0. Bridge ports: 612 horizontal, 613 up,
614 down, 615 porch (log 13). -/
def stopOfCluster (cl : Nat) : Nat := cl % 512
def stopOfSlice (sl : Nat) : Nat := 512 + sl % 96
def stopHbm : Nat := 608
def stopSched : Nat := 609
def stopRou : Nat := 610
def stopWalker : Nat := 611

/-- The next die on the route from one die to another (R15): the horizontal bridge first, then
vertically; the porch die is reached through die t mod 2. -/
def nextDie (a b : Nat) : Nat :=
  if a = b then a
  else if a = 8 then b % 2
  else
    -- towards the porch die the route of the reverse trip is followed backwards
    if b = 8 then (if a < 2 then 8 else a - 2)
    else if a % 2 ≠ b % 2 then (if a % 2 = 0 then a + 1 else a - 1)
    else if a < b then a + 2 else a - 2

/-- The port of die `a` towards a neighbouring die `b`, by log 13. -/
def portTo (a b : Nat) : Nat :=
  if b = 8 || a = 8 then 615
  else if a / 2 = b / 2 then 612
  else if b < a then 613
  else 614

/-- The destination stop of a leg on die `d` for a flit to (`ddie`, `dstop`). -/
def legDst (d ddie dstop : Nat) : Nat := if d = ddie then dstop else portTo d (nextDie d ddie)

/-- Bytes of data that a message carries. -/
def Msg.size : Msg → Nat
  | .req r | .host r | .span r => r.data.length
  | .rsp _ _ _ b => b.length
  | .fetch r => match r.write with | some l => l.length | none => 0
  | .fill r => 64 * r.bursts
  | _ => 0

/-- Flits ahead of a message's own that its data take: a slot carries 64 bytes (R20; log 112). -/
def Msg.bodies (m : Msg) : Nat := (m.size + 63) / 64 - 1

/-- The traffic of one message (R20; log 112): `n` flits of 64 bytes ahead of it, in the same queue. -/
def bodyFlits (f : Flit) (u n : Nat) : List Flit :=
  (List.range n).map fun j => { f with id := u + j, age := u + j, leg := u + j, msg := .bulk (some f.id) }

/-- Send a flit (R26): it enters the injection queue of its source stop, or, from the porch die, that of the
port at which the porch link reaches the first die (R15). -/
def State.send (s : State) (sdie sstop ddie dstop vc vd : Nat) (gti : BitVec 32) (cl : Nat) (m : Msg) :
    State :=
  let i := s.nextId
  let n := m.bodies
  let last := if n = 0 then i else i + n + 1
  let (d, src) := if sdie = 8 && ddie ≠ 8 then (nextDie 8 ddie, 615) else (sdie, sstop)
  let f : Flit :=
    { id := i, sdie := sdie, sstop := sstop, ddie := ddie, dstop := dstop, die := d, lsrc := src
      ldst := legDst d ddie dstop, vc := vc, vd := vd, gti := gti, cluster := cl
      inc := (s.cluster cl).inc, stage := .queued, age := last, leg := last, msg := m }
  let s := { s with nextId := last + 1, net := s.net ++ bodyFlits f (i + 1) n ++ [f] }
  if vcOrdered vc then
    let k := s.cluster cl
    if sstop < 512 && !k.routes.contains (ddie, dstop) then
      s.setCluster cl { k with routes := k.routes ++ [(ddie, dstop)] }
    else s
  else s

/-- Traffic between two stops whose effect comes about in the step that sends it: `n` flits (R25, R37; log 111). -/
def State.sendBulk (s : State) (sdie sstop ddie dstop vc vd : Nat) (gti : BitVec 32) (cl : Nat) : Nat → State
  | 0 => s
  | n + 1 => (s.send sdie sstop ddie dstop vc vd gti cl (.bulk none)).sendBulk sdie sstop ddie dstop vc vd gti cl n

/-- Slots of 64 bytes that a number of bytes takes (R20). -/
def slotsFor (n : Nat) : Nat := (n + 63) / 64

/-- Flits that hold an injection-queue entry of a stop, or wait for one: placed or not, until they are ejected
or landed (R26). -/
def Flit.atSource (f : Flit) (d stop : Nat) : Bool :=
  f.die = d && f.lsrc = stop &&
    (match f.stage with
    | .queued | .slot _ _ _ _ | .takenBack => true
    | _ => false)

/-- A stop has an entry for a flit of a channel: four are reserved for each, and eight are shared (R26). -/
def State.entryFree (s : State) (d stop vc : Nat) : Bool :=
  let used (v : Nat) : Nat := (s.net.filter fun f => f.vc = v && f.atSource d stop).length
  used vc < 4 || ((List.range 6).map fun v => used v - 4).sum < 8

/-- A number no cluster has, for accesses from outside every cluster. -/
def noCluster : Nat := 65535

/-- Send from a cluster. -/
def State.sendFrom (s : State) (cl ddie dstop vc vd : Nat) (gti : BitVec 32) (m : Msg) : State :=
  s.send (dieOfCluster cl) (stopOfCluster cl) ddie dstop vc vd gti cl m

/-- Send to a cluster from a home slice. -/
def State.sendBack (s : State) (sl cl vc vd : Nat) (gti : BitVec 32) (m : Msg) : State :=
  s.send (sl / 96) (stopOfSlice sl) (dieOfCluster cl) (stopOfCluster cl) vc vd gti cl m

/-- A home's request to the controller of a die (R25, R34). -/
def State.askHbm (s : State) (d : Nat) (r : HbmReq) : State :=
  s.send (r.slice / 96) (stopOfSlice r.slice) d stopHbm vcREQ r.vd 0 noCluster (.fetch r)

/-- Fill data on their way from a controller to the home (R39). -/
def State.sendFill (s : State) (d : Nat) (r : HbmReq) : State :=
  s.send d stopHbm (r.slice / 96) (stopOfSlice r.slice) vcRSP r.vd 0 noCluster (.fill r)

/-- A flit carries bytes of the message of the flit with an identity. -/
def Flit.bodyOf (f : Flit) (i : Nat) : Bool := match f.msg with | .bulk (some j) => j = i | _ => false

/-- A flit can be handled: it has been ejected at its destination with all the bytes of its message, and no older
flit of its pair and ordered channel is still under way or unhandled (R24); or it waits at its destination already. -/
def ready (s : State) (f : Flit) : Bool :=
  f.die = f.ddie && (f.stage = .held || (f.stage = .ejected &&
  !(s.net.any fun g => g.bodyOf f.id || (vcOrdered f.vc &&
    g.vc = f.vc && g.sdie = f.sdie && g.sstop = f.sstop && g.ddie = f.ddie && g.dstop = f.dstop &&
    g.id < f.id && g.stage ≠ .held))))

/-- The flit with an identity, if it can be handled. -/
def State.flit? (s : State) (i : Nat) : Option Flit := s.net.find? fun f => f.id = i && ready s f

/-- Take a flit off the network. -/
def State.drop (s : State) (i : Nat) : State := { s with net := s.net.filter fun f => f.id ≠ i }

/-- A flit waits at its destination, out of the way of later ones. -/
def State.hold (s : State) (i : Nat) : State :=
  { s with net := s.net.map fun f => if f.id = i then { f with stage := .held } else f }

/-- Answer a flit: the reply goes back to its source on RSP with the incarnation that it carried (R39,
R179); the flit is done. -/
def State.answer (s : State) (f : Flit) (m : Msg) : State :=
  let n := s.nextId
  let s := (s.drop f.id).send f.ddie f.dstop f.sdie f.sstop vcRSP f.vd f.gti f.cluster m
  { s with net := s.net.map fun g => if n ≤ g.id then { g with inc := f.inc } else g }

/-- A reply that a cluster's port gives to one of its own parties: it does not leave the cluster. -/
def State.localReply (s : State) (cl vd : Nat) (gti : BitVec 32) (m : Msg) : State :=
  let (i, s) := s.fresh
  let d := dieOfCluster cl
  { s with net := s.net ++ [
    { id := i, sdie := d, sstop := stopOfCluster cl, ddie := d, dstop := stopOfCluster cl, die := d
      lsrc := stopOfCluster cl, ldst := stopOfCluster cl, vc := vcRSP, vd := vd, gti := gti, cluster := cl
      inc := (s.cluster cl).inc, stage := .ejected, age := i, leg := i, msg := m }] }

/-! Home placement (R33, R34) -/

/-- Xor of the low `k` 5-bit fields of a bay number. -/
def xorFields : Nat → Nat → Nat
  | 0, _ => 0
  | k + 1, b => (b % 32) ^^^ xorFields k (b / 32)

/-- Slice within its die of a bay. -/
def sliceOfBay (b : Nat) : Nat := 32 * (b % 3) + xorFields 8 b

/-- Set of a bay at its slice. -/
def setOfBay (b : Nat) : Nat :=
  (b / 2 ^ 9 % 512) ^^^ (b / 2 ^ 18 % 512) ^^^ (b / 2 ^ 27 % 512)

/-- Device-wide slice that homes an address on a die. -/
def homeSlice (die addr : Nat) : Nat := 96 * die + sliceOfBay (addr / 256)

/-- Cluster-cache set of an extent that starts at an address (R89). -/
def cacheSet (start : Nat) : Nat := (start / 256 % 256) ^^^ (start / 2 ^ 16 % 256)

/-! Physical spaces (R12, R131, R398, R314) -/
def paSpace (pa : Nat) : Nat := pa / 2 ^ 44

/-- A physical address of space 0 is populated HBM (R12). -/
def populated (pa : Nat) : Bool :=
  paSpace pa = 0 && pa / 2 ^ 40 % 16 = 0 && pa % 2 ^ 37 < 80 * 2 ^ 30

/-- Die whose stack holds a physical address of space 0. -/
def stackOf (pa : Nat) : Nat := pa / 2 ^ 37 % 8

end Sys2Proof.Machine
end

