-- ==== Sys2Proof/Machine/Homes.lean ====
section
/-! DEFINITION. The homes: the bytes that a home slice holds and what lies behind them, tags and chunks,
eviction, frames, watches (R89 to R109, R120, R123, R296). -/

namespace Sys2Proof.Machine

/-! Operations of the ATOM group (R294) -/

/-- The new value of a word of `w` bits from its old value `a` and the operand `b`; `cmp` is ACAS's
expected value. -/
def aopVal (op : AOp) (w a b cmp : Nat) : Nat :=
  let f := if w = 64 then fmt64 else fmt32
  let a := a % 2 ^ w
  let b := b % 2 ^ w
  match op with
  | .add => (a + b) % 2 ^ w
  | .and => a &&& b
  | .or => a ||| b
  | .xor => a ^^^ b
  | .min => if intOf w true a ≤ intOf w true b then a else b
  | .max => if intOf w true b ≤ intOf w true a then a else b
  | .minu => min a b
  | .maxu => max a b
  | .swap => b
  | .cas => if a = cmp % 2 ^ w then b else a
  | .fadd => (fpAdd f .rne false a b).1
  | .fmin => (fpMinMax f false a b).1
  | .fmax => (fpMinMax f true a b).1

def bytesNat (l : List PByte) : Nat := leNat (l.map (·.v))
def anyPoison (l : List PByte) : Bool := l.any (·.p)
def natBytes (n x : Nat) (p : Bool := false) : List PByte := (leBytes n x).map (⟨·, p⟩)

/-! HBM (R12, R169) -/

/-- A byte of HBM; one of a bad burst reads as poisoned data (R173). -/
def State.hbmByte (s : State) (pa : Nat) : PByte :=
  ⟨memRead s.mem pa, setHas s.memP (pa / 8) || setHas s.badBursts (pa / 64)⟩

/-- A burst's number within its stack. -/
def burstIdx (b : Nat) : Nat := b % 2 ^ 31

/-- Bursts are written: each has the version that writes use (R413). -/
def State.rekey (s : State) (l : List Nat) : State :=
  let late (b : Nat) : Bool := match (s.die (stackOf (64 * b))).scrub with
    | some n => n ≤ burstIdx b
    | none => false
  { s with rekeyed := (l.filter late).foldl setAdd s.rekeyed }

/-- Write bytes of HBM with their poison: a word covered whole takes it, else gains it (R169). -/
def State.hbmWrite (s : State) (l : List (Nat × PByte)) : State :=
  let words := (l.map fun e => e.1 / 8).dedup
  let s : State := { s with
    mem := l.foldl (fun m e => memWrite m e.1 e.2.v) s.mem
    memP := words.foldl (fun m w =>
      let mine := l.filter fun e => e.1 / 8 = w
      if mine.any (fun e => e.2.p) then setAdd m w
      else if 8 ≤ mine.length then setDel m w
      else m) s.memP }
  s.rekey ((l.map fun e => e.1 / 64).dedup)

/-! Ranges -/

/-- [a, a + n) and [b, b + m) share a byte. -/
def overlaps (a n b m : Nat) : Bool := a < b + m && b < a + n && 0 < n && 0 < m

/-- The parts of a run of bytes at `start` outside [a, a + n). -/
def cutRun (start : Nat) (data : List PByte) (a n : Nat) : List (Nat × List PByte) :=
  if overlaps start data.length a n then
    let lo := data.take (a - start)
    let hi := data.drop (a + n - start)
    (if start < a then [(start, lo)] else []) ++
      (if a + n < start + data.length then [(a + n, hi)] else [])
  else [(start, data)]

/-- The bytes of a run at `start` within [a, a + n): offset of the first, and the bytes. -/
def clipRun (start : Nat) (data : List PByte) (a n : Nat) : Nat × List PByte :=
  (max start a, (data.drop (a - start)).take (min (start + data.length) (a + n) - max start a))

def runByte (start : Nat) (data : List PByte) (a : Nat) : Option PByte :=
  if start ≤ a then data[a - start]? else none

/-- Cut a run of bytes where a key of the address changes. -/
def runsBy {α : Type} [DecidableEq α] (key : Nat → α) : Nat → List PByte → List (Nat × List PByte)
  | _, [] => []
  | a, b :: t =>
    match runsBy key (a + 1) t with
    | (x, l) :: r => if x = a + 1 && key a = key (a + 1) then (a, b :: l) :: r else (a, [b]) :: (x, l) :: r
    | [] => [(a, [b])]

/-! Cluster extents -/

def CExt.cut (e : CExt) (a n : Nat) : List CExt :=
  (cutRun e.start e.data a n).map fun r => { e with start := r.1, data := r.2 }

/-- The part of an extent within a range. -/
def CExt.clip (e : CExt) (a n : Nat) : CExt :=
  let c := clipRun e.start e.data a n
  { e with start := c.1, data := c.2 }

def carveC (l : List CExt) (sp : ASpace) (a n : Nat) : List CExt :=
  l.flatMap fun e => if e.sp = sp then e.cut a n else [e]

/-! Home extents -/

/-- The parts of an extent outside a range: the first keeps its way, a second is a tag without one (17: it may
take any; log 91). -/
def HExt.cut (e : HExt) (a n : Nat) : List HExt :=
  match cutRun e.start e.data a n with
  | [] => []
  | r :: t => { e with start := r.1, data := r.2 } ::
      t.map fun r => { e with start := r.1, data := r.2, way := 17 }

/-- Remove a byte range from a slice's extents. -/
def carveH (l : List HExt) (sp : ASpace) (a n : Nat) : List HExt :=
  l.flatMap fun e => if e.sp = sp then e.cut a n else [e]

def HExt.isLoft (e : HExt) : Bool := match e.sp with | .loft _ => true | .phys => false

/-- A word of the extent has a combine list (R95). -/
def hasList (cs : List Combine) (e : HExt) : Bool :=
  cs.any fun c => c.sp = e.sp && overlaps e.start e.data.length c.addr 8

/-- Two home extents may merge (R96); bytes filled for a device that allocates nothing (18) merge with none. -/
def mergeableH (cs : List Combine) (x y : HExt) : Bool :=
  x.sp = y.sp && x.start + x.data.length = y.start && x.start / 256 = y.start / 256 && x.st = y.st &&
  (!x.isLoft || x.vd = y.vd) && x.pin = y.pin && x.sharers = y.sharers &&
  !x.fill && !y.fill && !hasList cs x && !hasList cs y && x.way ≠ 18 && y.way ≠ 18

/-- Merge an extent with its lower and then its upper neighbour (R96). -/
def addH (cs : List Combine) (l : List HExt) (e : HExt) : List HExt :=
  let (e, l) := match l.find? fun x => mergeableH cs x e with
    | some x =>
      ({ x with data := x.data ++ e.data, way := min x.way e.way, used := max x.used e.used, leaf := e.leaf },
        l.erase x)
    | none => (e, l)
  let (e, l) := match l.find? fun x => mergeableH cs e x with
    | some x => ({ e with data := e.data ++ x.data, way := min x.way e.way, used := max x.used e.used }, l.erase x)
    | none => (e, l)
  l ++ [e]

/-- Merge the extents of a bay where R96 lets them. -/
def mergeBay (cs : List Combine) (l : List HExt) (sp : ASpace) (bay : Nat) : List HExt :=
  let mine (e : HExt) : Bool := e.sp = sp && e.start / 256 = bay
  (l.filter mine).foldl (addH cs) (l.filter fun e => !mine e)

/-- The extent of a list that covers a byte, a fill included. -/
def extAt (l : List HExt) (sp : ASpace) (a : Nat) : Option HExt :=
  l.find? fun e => e.sp = sp && (runByte e.start e.data a).isSome

/-- The home extent that holds a byte as data. -/
def State.hext (s : State) (sl : Nat) (sp : ASpace) (a : Nat) : Option HExt :=
  (s.slice sl).exts.find? fun e => e.sp = sp && !e.fill && (runByte e.start e.data a).isSome

/-- The extent that covers a byte, a fill included. -/
def State.hextAny (s : State) (sl : Nat) (sp : ASpace) (a : Nat) : Option HExt := extAt (s.slice sl).exts sp a

/-! Physical addresses as the hardware itself reaches them (log 14) -/

/-- A slice holds something of a bay: extents, region records, an owner, a combine list or a watch. -/
def Slice.knows (x : Slice) (sp : ASpace) (bay : Nat) : Bool :=
  x.exts.any (fun e => e.sp = sp && e.start / 256 = bay) ||
  x.regs.any (fun r => r.sp = sp && r.addr / 256 = bay) ||
  x.owners.any (fun o => o.sp = sp && o.addr / 256 = bay) ||
  x.combines.any (fun c => c.sp = sp && c.addr / 256 = bay) ||
  x.watches.any fun w => w.sp = sp && w.addr / 256 = bay

/-- The die that homes a physical address for an agent without a leaf: the one whose home holds something of its
bay, else that of its stack. -/
def State.physHome (s : State) (pa : Nat) : Nat :=
  ((List.range 8).find? fun d => (s.slice (homeSlice d pa)).knows .phys (pa / 256)).getD (stackOf pa)

/-- A strong mapping of a physical address homed on the die of its stack. -/
def physLeaf (pa : Nat) : Leaf where
  frame := pa / 2 ^ 16 * 2 ^ 16
  key := 0
  large := false
  pin := false
  home := stackOf pa
  loft := false
  kind := .strong
  atomic := true
  write := true
  read := true
  pte := 0

/-- The mapping under which the hardware itself reaches a physical address. -/
def State.leafAt (s : State) (pa : Nat) : Leaf := { physLeaf pa with home := s.physHome pa }

def State.physWord (s : State) (pa : Nat) : PWord :=
  let sl := homeSlice (s.physHome pa) pa
  let l := (List.range 8).map fun j =>
    match s.hext sl .phys (pa + j) with
    | some e => (runByte e.start e.data (pa + j)).getD ⟨0, false⟩
    | none => s.hbmByte (pa + j)
  ⟨BitVec.ofNat 64 (leNat (l.map (·.v))), l.any (·.p)⟩

/-- Where no entry stands: a loft page that is bound to it has the frame that its leaf names, and takes none. -/
def noPte : Nat := 2 ^ 60

/-- The frame of a page now: a loft page may have taken one since its translation (R106). -/
def State.frameOf (s : State) (l : Leaf) : Nat :=
  if l.loft && l.frame = 0 && l.pte ≠ noPte then ((s.physWord l.pte).v.extractLsb' 16 32).toNat * 2 ^ 16 else l.frame

/-- The physical address behind a byte; none on a loft page without a frame. -/
def State.behind (s : State) (sp : ASpace) (l : Leaf) (a : Nat) : Option Nat :=
  match sp with
  | .phys => some a
  | .loft _ => let f := s.frameOf l; if f = 0 then none else some (f + a % 2 ^ 16)

/-- A byte at its home: the extent's, else what lies behind it, else zero (R98, R104). -/
def State.homeByte (s : State) (sl : Nat) (sp : ASpace) (l : Leaf) (a : Nat) : PByte :=
  match s.hext sl sp a with
  | some e => (runByte e.start e.data a).getD ⟨0, false⟩
  | none =>
    match s.behind sp l a with
    | some pa => s.hbmByte pa
    | none => ⟨0, false⟩

/-- Bytes at their homes on the die of a leaf. -/
def State.homeBytes (s : State) (sp : ASpace) (l : Leaf) (a n : Nat) : List PByte :=
  (List.range n).map fun j => s.homeByte (homeSlice l.home (a + j)) sp l (a + j)

/-! Sharers (R97) -/

/-- The sharer bit of a cluster for homes on a die. -/
def sharerBit (die cl : Nat) : Nat :=
  let d := dieOfCluster cl
  if d = die then cl % 512 / 8 % 56
  else 56 + (if d < die then d else d - 1)

/-- The clusters that a sharer bit of homes on a die stands for; bit 63 stands for the porch die, which has
none. -/
def clustersOfBit (die i : Nat) : List Nat :=
  if i < 56 then
    let one (k : Nat) : List Nat := (List.range 8).map (512 * die + 8 * k + ·)
    if i < 8 then one i ++ one (56 + i) else one i
  else if i < 63 then
    let d := if i - 56 < die then i - 56 else i - 55
    (List.range 512).map (512 * d + ·)
  else []

/-- The clusters of a sharer vector. -/
def clustersOfVec (die : Nat) (v : BitVec 64) : List Nat :=
  (List.range 63).flatMap fun i => if v.getLsbD i then clustersOfBit die i else []

/-! Watches (R296) -/

/-- A write has performed on a word: waiting watches whose value now differs fire. -/
def fireWatches (l : List Watch) (sp : ASpace) (word : Nat) (v : Word) : List Watch :=
  l.map fun w =>
    if w.sp = sp && w.addr = word && w.fired.isNone && v ≠ w.cmp then { w with fired := some true } else w

/-- The words that [a, a + n) touches. -/
def wordsOf (a n : Nat) : List Nat :=
  if n = 0 then [] else (List.range ((a + n - 1) / 8 - a / 8 + 1)).map fun j => 8 * (a / 8 + j)

def State.homeWord (s : State) (sp : ASpace) (l : Leaf) (a : Nat) : PWord :=
  let b := s.homeBytes sp l a 8
  ⟨BitVec.ofNat 64 (leNat (b.map (·.v))), b.any (·.p)⟩

/-- Fire the watches of the words of a byte range. -/
def State.fire (s : State) (sp : ASpace) (l : Leaf) (a n : Nat) : State :=
  (wordsOf a n).foldl (fun s w =>
    let sl := homeSlice l.home w
    let x := s.slice sl
    if x.watches.isEmpty then s
    else s.setSlice sl { x with watches := fireWatches x.watches sp w (s.homeWord sp l w).v }) s

/-! Allotments, chunks and tags (R95, R98, R101 to R105) -/

/-- Allotment word of a virtual device on a die (R101). -/
def State.allot (s : State) (die vd : Nat) : Word := mapGet 0 (s.die die).alloc vd
def allotWays (w : Word) : BitVec 16 := w.extractLsb' 0 16
def allotQuota (w : Word) : Nat := min (w.extractLsb' 16 15).toNat 16384
def allotLoft (w : Word) : Nat := (w.extractLsb' 32 15).toNat

/-- Whether a virtual device may allocate at homes of a die: one without ways or quota allocates nothing (R101). -/
def State.mayAlloc (s : State) (die vd : Nat) : Bool :=
  let al := s.allot die vd
  allotWays al ≠ 0 && 0 < allotQuota al

/-- 64-byte granules that an extent touches. -/
def chunksOf (start n : Nat) : Nat := if n = 0 then 0 else (start + n - 1) / 64 - start / 64 + 1

def HExt.chunks (e : HExt) : Nat := chunksOf e.start e.data.length
def HExt.set (e : HExt) : Nat := setOfBay (e.start / 256)

/-- Loft chunks of a virtual device in a slice. -/
def loftChunks (l : List HExt) (vd : Nat) : Nat :=
  ((l.filter fun e => e.isLoft && e.vd = vd).map HExt.chunks).sum

/-- The loft extents within their reservations, given each device's loft field: in the order in which they were
entered, while the chunks of the device last and the set has fewer than eight (R105, R110; log 94). `used` and
`sets` are the chunks and the tags taken so far. -/
def reservedOf (cap : Nat → Nat) : List HExt → SMap Nat → SMap Nat → List HExt
  | [], _, _ => []
  | e :: t, used, sets =>
    if e.isLoft && mapGet 0 used e.vd + e.chunks ≤ cap e.vd && mapGet 0 sets e.set < 8 then
      e :: reservedOf cap t (mapPut used e.vd (mapGet 0 used e.vd + e.chunks))
        (mapPut sets e.set (mapGet 0 sets e.set + 1))
    else reservedOf cap t used sets

/-- Those of a list of extents of a slice. -/
def State.reservedIn (s : State) (sl : Nat) (l : List HExt) : List HExt :=
  if l.any HExt.isLoft then reservedOf (fun v => allotLoft (s.allot (sl / 96) v)) l [] [] else []

/-- A loft extent is within its reservation (R105). -/
def State.reserved (s : State) (sl : Nat) (e : HExt) : Bool := (s.reservedIn sl (s.slice sl).exts).contains e

/-- The words that regions have written, with each region's slot: W data (R95, R355). -/
def wWords (l : List RegRec) : List (Nat × ASpace × Nat × Nat) :=
  l.flatMap fun r => r.writers.map fun w => (w.1, r.sp, r.addr, r.vd)

/-- Tags that W data take in a set: neighbouring words of one region and bay share one (R96). -/
def wTags (l : List RegRec) (set : Nat) : Nat :=
  let ws := wWords l
  (ws.filter fun w => setOfBay (w.2.2.1 / 256) = set &&
    !(w.2.2.1 % 256 ≠ 0 && ws.any fun x => x.1 = w.1 && x.2.1 = w.2.1 && x.2.2.1 + 8 = w.2.2.1)).length

/-- Chunks that the W data of the devices that a test selects take. -/
def wChunks (l : List RegRec) (f : Nat → Bool) : Nat :=
  let ws := (wWords l).filter fun w => f w.2.2.2
  (ws.filter fun w =>
    !(w.2.2.1 % 64 ≠ 0 && ws.any fun x => x.1 = w.1 && x.2.1 = w.2.1 && x.2.2.1 + 8 = w.2.2.1)).length

/-- Combine lists of words that no extent covers take a tag of their own (R95). -/
def listTags (x : Slice) (set : Nat) : Nat :=
  (x.combines.filter fun c => setOfBay (c.addr / 256) = set && (extAt x.exts c.sp c.addr).isNone).length

/-- Chunks beyond a fill's own that its requester records take (R98). -/
def Fill.extra (f : Fill) : Nat := (f.recs + 6) / 7 - f.len / 64

/-- Tags in use in a set once its extents are those of a list; a fill of a device that allocates nothing takes
none (18). -/
def tagsIn (x : Slice) (l : List HExt) (set : Nat) : Nat :=
  (l.filter fun e => e.set = set && e.way ≠ 18).length + wTags x.regs set + listTags x set

/-- Chunks in use in a slice once its extents are those of a list. -/
def chunksIn (x : Slice) (l : List HExt) : Nat :=
  (l.map HExt.chunks).sum + wChunks x.regs (fun _ => true) + (x.fills.map Fill.extra).sum

/-- Chunks of an extent that hold a byte which a virtual device has pinned (R103). -/
def pinGranules (pins : List Pin) (vd : Nat) (e : HExt) : Nat :=
  ((List.range e.chunks).filter fun j =>
    let lo := max e.start (64 * (e.start / 64 + j))
    let hi := min (e.start + e.data.length) (64 * (e.start / 64 + j + 1))
    pins.any fun p => p.vd = vd && p.sp = e.sp && overlaps p.start p.len lo (hi - lo)).length

/-- Chunks of an extent that count against the quota of a virtual device: all of one of its own that no reservation
covers, else those that it has pinned (R102, R103). -/
def chargeOf (pins : List Pin) (vd : Nat) (res : Bool) (e : HExt) : Nat :=
  if e.vd = vd && !res then e.chunks else if e.pin then pinGranules pins vd e else 0

/-- Chunks of a virtual device that count against its quota (R102, R103). -/
def State.quotaIn (s : State) (sl vd : Nat) (l : List HExt) : Nat :=
  let res := s.reservedIn sl l
  let x := s.slice sl
  (l.map fun e => chargeOf x.pins vd (res.contains e) e).sum + wChunks x.regs (fun v => v = vd)

def State.quotaChunks (s : State) (sl vd : Nat) : Nat := s.quotaIn sl vd (s.slice sl).exts

/-- Chunks that data other than V, and pinned data, take outside the reservations: these may not stand in reserved
chunks (R102). -/
def State.firmIn (s : State) (sl : Nat) (l : List HExt) : Nat :=
  let res := s.reservedIn sl l
  ((l.filter fun e => (e.st ≠ .v || e.pin) && !res.contains e).map HExt.chunks).sum +
    wChunks (s.slice sl).regs (fun _ => true)

/-- Chunks of a slice of a die that reservations claim (R102). -/
def State.promised (s : State) (die : Nat) : Nat := ((s.die die).alloc.map fun e => allotLoft e.2).sum

/-- Give every extent of `rest` that has none a way of its set that no other takes: 16 is a new extent, which takes
the first that `may` lets it, 17 a part of one that was split. None when there is none. -/
def giveWays (may : HExt → Nat → Bool) : List HExt → List HExt → Option (List HExt)
  | done, [] => some done
  | done, e :: t =>
    if e.way < 16 || e.way = 18 then giveWays may (done ++ [e]) t
    else
      match (List.range 16).find? fun w =>
          (e.way = 17 || may e w) && !(done ++ t).any fun x => x.set = e.set && x.way = w with
      | some w => giveWays may (done ++ [{ e with way := w }]) t
      | none => none

/-- What an allocation lacks. -/
inductive Lack where
  | tag | quota | pool | firm
  deriving DecidableEq, Repr

/-- A slice with its extents changed to those of a list, if a virtual device may have them so: its quota, the
pool and its reserved part, the ways of the set (R95, R99, R102, R105). -/
def State.fitH (s : State) (sl vd set : Nat) (l : List HExt) : Except Lack (List HExt) :=
  let x := s.slice sl
  let res := s.reservedIn sl l
  let more : Bool := s.quotaChunks sl vd < s.quotaIn sl vd l
  if more && allotQuota (s.allot (sl / 96) vd) < s.quotaIn sl vd l then .error .quota
  else if 16384 < s.firmIn sl l + s.promised (sl / 96) && s.firmIn sl x.exts < s.firmIn sl l then .error .firm
  else if 16384 < chunksIn x l && chunksIn x x.exts < chunksIn x l then .error .pool
  else if 16 < tagsIn x l set && tagsIn x x.exts set < tagsIn x l set then .error .tag
  else
    match giveWays (fun e w => res.contains e || (allotWays (s.allot (sl / 96) e.vd)).getLsbD w) [] l with
    | some l => .ok l
    | none => .error .tag

/-! Victims and eviction (R99) -/

/-- A word of the extent has region records: it stands as W (R95). -/
def State.isW (s : State) (sl : Nat) (sp : ASpace) (a n : Nat) : Bool :=
  (s.slice sl).regs.any fun r => r.sp = sp && overlaps r.addr 8 a n && !r.writers.isEmpty

/-- An eviction candidate for an allocation of a virtual device (R99); an allocation within a reservation may also
drop the V extents that stand in its chunks (R102). -/
def State.candidate (s : State) (sl vd : Nat) (own : Bool) (e : HExt) : Bool :=
  !e.pin && !e.fill && !s.isW sl e.sp e.start e.data.length && !s.reserved sl e &&
  !(e.st = .l && s.frameOf e.leaf = 0 && e.vd ≠ vd) &&
  ((own && e.st = .v) || (allotWays (s.allot (sl / 96) vd)).getLsbD e.way)

/-- Rank of a victim: V, then backed M and L, then frameless L (R99). -/
def State.victimRank (s : State) (e : HExt) : Nat :=
  match e.st with
  | .v => 0
  | .m => 1
  | .l => if s.frameOf e.leaf = 0 then 2 else 1

/-- The victim among candidates: lowest rank, then least recently used. -/
def State.victim (s : State) (sl vd : Nat) (own : Bool) (l : List HExt) : Option HExt :=
  (l.filter (s.candidate sl vd own)).foldl (fun b e =>
    match b with
    | none => some e
    | some x =>
      if s.victimRank e < s.victimRank x || (s.victimRank e = s.victimRank x && e.used < x.used)
      then some e else some x) none

/-- A request or a reply under way whose bytes a test selects will not be cached. -/
def dropKeep (f : Nat → HReq → Bool) (x : Flit) : Flit :=
  match x.msg with
  | .rsp r st v b => if f x.cluster r then { x with msg := .rsp { r with keep := false } st v b } else x
  | .req r => if f x.cluster r then { x with msg := .req { r with keep := false } } else x
  | _ => x

/-- A reply under way whose bytes a test selects will not be cached. -/
def dropRsp (f : Nat → HReq → Bool) (x : Flit) : Flit :=
  match x.msg with
  | .rsp _ _ _ _ => dropKeep f x
  | _ => x

/-- Replies under way to clusters whose bytes a test selects will not be cached (R132, R94). -/
def State.unkeepAll (s : State) (f : Nat → HReq → Bool) : State := { s with net := s.net.map (dropRsp f) }

/-- The same of fills that are only asked for (R304). -/
def State.forgetAll (s : State) (f : Nat → HReq → Bool) : State := { s with net := s.net.map (dropKeep f) }

/-- Trim a byte range out of the C copies of a cluster that a test selects. A remainder is entered in the set of its
start bay, which the step evicts from when it is over full (R97, R322; State.refit). -/
def trimC (f : CExt → Bool) (sp : ASpace) (a n : Nat) (l : List CExt) : List CExt :=
  l.flatMap fun e => if e.sp = sp && e.st = .c && f e then e.cut a n else [e]

/-- A cluster holds C bytes of a range under a strong mapping. -/
def strongCopy (k : Cluster) (sp : ASpace) (a n : Nat) : Bool :=
  k.cache.any fun e => e.sp = sp && e.st = .c && e.leaf.kind = .strong && overlaps e.start e.data.length a n

/-- A home sends traffic of a virtual device to the clusters of a list, which comes about in its step (R25; log 111). -/
def State.cohTo (s : State) (sl vd : Nat) (ks : List Nat) : State :=
  ks.foldl (fun s k => s.sendBulk (sl / 96) (stopOfSlice sl) (dieOfCluster k) (stopOfCluster k) vcCOH vd 0 k 1) s

/-- Trim a byte range out of the C copies that clusters but one hold under a strong mapping, copies under way
included (R97, R129). -/
def State.trimSharers (s : State) (sp : ASpace) (a n : Nat) (but : Nat := noCluster) : State :=
  let l : SMap Cluster := s.clusters.map fun k =>
    (k.1, if k.1 = but then k.2 else { k.2 with cache := trimC (fun e => e.leaf.kind = .strong) sp a n k.2.cache })
  let s : State := { s with clusters := l }
  s.unkeepAll fun k r => k ≠ but && r.sp = sp && r.leaf.kind = .strong && overlaps r.addr r.len a n

/-- The home of a range sends the invalidations, and they act in its step (R25, R97; log 111). -/
def State.trimFrom (s : State) (sl vd : Nat) (sp : ASpace) (a n : Nat) (but : Nat := noCluster) : State :=
  (s.cohTo sl vd ((s.clusters.filter fun k => k.1 ≠ but && strongCopy k.2 sp a n).map (·.1))).trimSharers sp a n but

/-- Write an extent's bytes behind it (R99: under byte masks); the request that pays for it goes to the frame's
controller, which serves it without tokens (R397; log 79). -/
def State.writeBack (s : State) (sl : Nat) (e : HExt) : State :=
  match s.behind e.sp e.leaf e.start with
  | none => s
  | some pa =>
    let b := e.data.zipIdx.map fun b => (pa + b.2, b.1)
    (s.hbmWrite b).askHbm (stackOf pa)
      ⟨e.vd, sl, e.sp, e.start / 256, pa, chunksOf pa e.data.length, some b, true, false⟩

/-- Write those bytes of a run that are given behind it; the request goes to the frame's controller, which serves it
as it does a write-back (R11, R397; log 79). -/
def State.writePast (s : State) (sl vd : Nat) (sp : ASpace) (l : Leaf) (a : Nat) (data : List (Option PByte)) : State :=
  let b := data.zipIdx.filterMap fun b => b.1.bind fun x => (s.behind sp l (a + b.2)).map fun pa => (pa, x)
  match b.head? with
  | none => s
  | some (pa, _) =>
    (s.hbmWrite b).askHbm (stackOf pa)
      ⟨vd, sl, sp, a / 256, pa, (b.map fun x => x.1 / 64).dedup.length, some b, true, false⟩

/-- Write bytes in place, without an allocation and with no change of state: where an extent holds them it takes
them; those that no dirty extent holds go behind, so that a V extent stays equal to what lies there. -/
def State.pokeHome (s : State) (sl vd : Nat) (sp : ASpace) (l : Leaf) (a : Nat) (data : List PByte) : State :=
  let x := s.slice sl
  let new (e : HExt) : HExt :=
    if e.sp = sp && !e.fill && overlaps e.start e.data.length a data.length then
      { e with data := e.data.zipIdx.map fun b => (runByte a data (e.start + b.2)).getD b.1 }
    else e
  (s.setSlice sl { x with exts := x.exts.map new }).writePast sl vd sp l a
    (data.zipIdx.map fun b => if (s.hext sl sp (a + b.2)).any fun e => e.st ≠ HState.v then none else some b.1)

/-! Combine lists (R123) -/

/-- The A bytes of a word that the listed clusters hold, in ascending cluster number. -/
def State.partials (s : State) (c : Combine) : List CExt :=
  c.clusters.flatMap fun cl => ((s.cluster cl).cache.filter fun e => e.sp = c.sp &&
    (match e.st with | .a _ _ => true | _ => false) && overlaps e.start e.data.length c.addr 8).map
      fun e => e.clip c.addr 8

/-- Apply the elements of a partial to the bytes of a word at `w`; a poisoned word stays poisoned. -/
def putPartial (w : Nat) (cur : List PByte) (e : CExt) : List PByte :=
  match e.st with
  | .a op k =>
    (List.range (e.data.length / k)).foldl (fun cur j =>
      let o := e.start + k * j - w
      let old := (cur.drop o).take k
      let d := (e.data.drop (k * j)).take k
      let r := aopVal op (8 * k) (bytesNat old) (bytesNat d) 0
      cur.take o ++ natBytes k r (anyPoison cur || anyPoison d) ++ cur.drop (o + k)) cur
  | _ => cur

/-- The runs of bytes of a word that partials change, with their new values. -/
def State.combined (s : State) (c : Combine) : List (Nat × List PByte) :=
  let ps := s.partials c
  let new := ps.foldl (putPartial c.addr) (s.homeBytes c.sp c.leaf c.addr 8)
  let hit (a : Nat) : Bool := ps.any fun e => (runByte e.start e.data a).isSome
  (runsBy hit c.addr new).filter fun r => hit r.1

/-- The listed clusters give their A bytes of a word up, and the list is gone. -/
def State.unlistWord (s : State) (c : Combine) : State :=
  let s := c.clusters.foldl (fun s cl =>
    let k := s.cluster cl
    s.setCluster cl { k with cache := k.cache.flatMap fun e =>
      if e.sp = c.sp && (match e.st with | .a _ _ => true | _ => false) then e.cut c.addr 8 else [e] }) s
  let sl := homeSlice c.leaf.home c.addr
  let x := s.slice sl
  let s := s.setSlice sl { x with combines := x.combines.filter fun d => !(d.sp = c.sp && d.addr = c.addr) }
  s.unkeepAll fun k r => c.clusters.contains k && r.sp = c.sp && overlaps r.addr r.len c.addr 8

/-- Evict a victim that needs no frame: its combine lists first, which is a write (R99, R309), and the sharers that
it has under strong mappings (R97, R129). -/
def State.evictH (s : State) (sl : Nat) (e : HExt) : State :=
  let cs := (s.slice sl).combines.filter fun c => c.sp = e.sp && overlaps e.start e.data.length c.addr 8
  let s := cs.foldl (fun s c =>
    (s.combined c).foldl (fun s r => (s.pokeHome sl e.vd e.sp e.leaf r.1 r.2).fire e.sp c.leaf r.1 r.2.length)
      ((s.unlistWord c).cohTo sl e.vd c.clusters)) s
  let s := if e.sharers ≠ 0 then s.trimFrom sl e.vd e.sp e.start e.data.length else s
  match (s.slice sl).exts.find? fun x => x.sp = e.sp && x.start = e.start && !x.fill with
  | none => s
  | some x =>
    let s := if x.st = .v then s else s.writeBack sl x
    s.setSlice sl { s.slice sl with exts := (s.slice sl).exts.erase x }

/-- What an allocation finds. -/
inductive Room where
  | ok (s : State)
  /-- the request is refused and recirculates -/
  | refused
  /-- a frameless L victim needs a frame first (R106) -/
  | frame (e : HExt)

/-- Evict until a change of the extents of a slice for bytes [a, a + n) of a virtual device fits (R99, R102). `fuel`
bounds the evictions. -/
def State.roomH (s : State) (sl vd : Nat) (sp : ASpace) (a n : Nat) (loft : Bool)
    (f : List HExt → List HExt) : Nat → Room
  | 0 => .refused
  | fuel + 1 =>
    let l := (s.slice sl).exts
    let set := setOfBay (a / 256)
    match s.fitH sl vd set (f l) with
    | .ok _ => .ok s
    | .error k =>
      let own := loft && loftChunks (f l) vd ≤ allotLoft (s.allot (sl / 96) vd)
      let pool := match k with
        | .quota => l.filter fun (e : HExt) => e.vd = vd
        | .tag => l.filter fun (e : HExt) => e.set = set
        | .pool => l
        | .firm => l.filter fun (e : HExt) => e.st ≠ HState.v
      match s.victim sl vd own (pool.filter fun e => !(e.sp = sp && overlaps e.start e.data.length a n)) with
      | none => .refused
      | some e =>
        if s.victimRank e = 2 then .frame e else (s.evictH sl e).roomH sl vd sp a n loft f fuel

/-- Change the extents of a slice for bytes of a virtual device, when room has been made for it. -/
def State.changeH (s : State) (sl vd a : Nat) (f : List HExt → List HExt) : State :=
  match s.fitH sl vd (setOfBay (a / 256)) (f (s.slice sl).exts) with
  | .ok l => s.setSlice sl { s.slice sl with exts := l }
  | .error _ => s

/-! Regions and the host -/

/-- A unit that the host holds lies under a write. -/
def State.hostHeld (s : State) (sp : ASpace) (a n : Nat) : Bool :=
  sp = .phys && n ≠ 0 && s.porch.held.any fun u => overlaps (64 * u) 64 a n

/-- Whether a range holds a word with an uncommitted writer, or (for a write) writer or reader (R361), or
(for a write) touches a unit that the host holds (R130). -/
def State.blocked (s : State) (sp : ASpace) (l : Leaf) (a n : Nat) (wr : Bool) : Bool :=
  ((wordsOf a n).any fun w =>
    (s.slice (homeSlice l.home w)).regs.any fun r =>
      r.sp = sp && r.addr = w && (!r.writers.isEmpty || (wr && !r.readers.isEmpty))) ||
  (wr && s.hostHeld sp a n)

/-! Writes (R98, R101, R323) -/

/-- What a write of [a, a + data.length) makes of the extents of a slice: each run that lay in extents of one pin
bit, device and sharer vector stays so; bytes that none held are new extents when `new`. -/
def writeExts (cs : List Combine) (sp : ASpace) (l : Leaf) (vd : Nat) (new : Bool) (st : HState)
    (keepBits : BitVec 64) (u a : Nat) (data : List PByte) (exts : List HExt) : List HExt :=
  (runsBy (fun x => (extAt exts sp x).map fun e => (e.pin, e.vd, e.sharers)) a data).foldl (fun ex r =>
    match extAt ex sp r.1 with
    | some e =>
      let way := if (cutRun e.start e.data r.1 r.2.length).isEmpty then e.way else 17
      addH cs (carveH ex sp r.1 r.2.length)
        { e with
          start := r.1, data := r.2, st := st, vd := if l.loft then vd else e.vd
          sharers := e.sharers &&& keepBits, leaf := l, used := u, fill := false, way := way }
    | none => if new then addH cs ex ⟨sp, r.1, r.2, st, false, 0, l, vd, u, false, 16⟩ else ex) exts

/-! Frames (R106) -/

/-- Bytes of a run within [a, a + n) replaced by clean zeros. -/
def zeroRun (start : Nat) (data : List PByte) (a n : Nat) : List PByte :=
  data.zipIdx.map fun b => if a ≤ start + b.2 && start + b.2 < a + n then ⟨0, false⟩ else b.1

/-- A frame is zeroed, at its homes and behind them, by a request to its controller; watches on its words fire
(R11, R106, R296; log 77). -/
def State.zeroFrame (s : State) (f : Nat) : State :=
  let n : Nat := 2 ^ 16
  let s := s.trimSharers .phys f n
  let clear (e : HExt) : HExt :=
    if e.sp = .phys && overlaps e.start e.data.length f n then { e with data := zeroRun e.start e.data f n }
    else e
  let zero (x : Slice) : Slice := { x with
    exts := x.exts.map clear
    watches := x.watches.map fun w =>
      if w.sp = .phys && f ≤ w.addr && w.addr < f + n && w.fired.isNone && w.cmp ≠ 0 then { w with fired := some true }
      else w }
  let l : SMap Slice := s.slices.map fun x => (x.1, zero x.2)
  let s := { s with slices := l }
  let s : State := { s with
    mem := s.mem.filter fun c => c.1 < f || f + n ≤ c.1
    memP := s.memP.filter fun w => 8 * w < f || f + n ≤ 8 * w
    badBursts := s.badBursts.filter fun b => 64 * b < f || f + n ≤ 64 * b }
  let s := s.rekey ((List.range (n / 64)).map (f / 64 + ·))
  let d := stackOf f
  s.send d stopSched d stopHbm vcREQ landlordVd 0 noCluster
    (.fetch ⟨landlordVd, 96 * d, .phys, f / 256, f, n / 64, some [], true, false⟩)

/-- A region has words of a frame, or the host holds units of it: it cannot be zeroed now (R361, R130). -/
def State.frameBusy (s : State) (f : Nat) : Bool :=
  s.hostHeld .phys f (2 ^ 16) || s.slices.any fun x => x.2.regs.any fun r => r.sp = .phys && r.addr / 2 ^ 16 = f / 2 ^ 16

/-- What a step is short of, unless it is short of something already. -/
def State.lacks (s : State) (k : Option Nat) : State := { s with short := some (s.short.getD k) }

/-- The entry of a leaf is rewritten at its home, as a strong store of an agent that allocates nothing (R98, R101,
R106): where there is no room to split an extent the word is written in place. -/
def State.pteWrite (s : State) (x : Leaf) (pte : Nat) (data : List PByte) : State :=
  let sl := homeSlice x.home pte
  let s := s.trimFrom sl landlordVd .phys pte 8
  let f := writeExts (s.slice sl).combines .phys x landlordVd false .m 0 s.nextId pte data
  (match s.fitH sl landlordVd (setOfBay (pte / 256)) (f (s.slice sl).exts) with
  | .ok l => (s.setSlice sl { s.slice sl with exts := l }).writePast sl landlordVd .phys x pte
      (data.zipIdx.map fun (b : PByte × Nat) => if (s.hext sl .phys (pte + b.2)).isSome then none else some b.1)
  | .error _ => s.pokeHome sl landlordVd .phys x pte data).fire .phys x pte 8

/-- The die scheduler backs a loft page with the oldest frame of its pool, unless it has one: the home asks, the frame
is zeroed and its number written into the leaf at the entry's home, and the scheduler answers; none when the pool is
empty (R106). It is short while a region or the host holds the entry or the frame, or the entry is owed or accrued
in a cluster (R120, R123, R127, R130). -/
def State.backPage (s : State) (l : Leaf) : Option State :=
  if s.frameOf l ≠ 0 then some s
  else
    let d := s.die l.home
    match d.pool with
    | [] => none
    | f :: t =>
      let x := s.leafAt l.pte
      let k := s.slice (homeSlice x.home l.pte)
      let held : Bool := s.blocked .phys x l.pte 8 true || s.frameBusy f ||
        k.owners.any (fun o => o.sp = .phys && o.addr = l.pte) || k.combines.any fun c => c.sp = .phys && c.addr = l.pte
      if held then some (s.lacks none)
      else
        let s := (s.setDie l.home { d with pool := t }).zeroFrame f
        let w := (s.physWord l.pte).v ||| BitVec.ofNat 64 f
        some (s.pteWrite x l.pte (natBytes 8 w.toNat))

/-- The traffic by which a home asks its scheduler for a frame and is answered (R25, R39, R106; log 111). -/
def State.frameTraffic (s : State) (sl vd : Nat) : State :=
  let d := sl / 96
  (s.sendBulk d (stopOfSlice sl) d stopSched vcCOH vd 0 noCluster 1).sendBulk d stopSched d (stopOfSlice sl) vcRSP vd 0
    noCluster 1

/-- A change that takes the frames it needs itself; else what it is short of. -/
def State.changeFramed (s : State) (sl vd : Nat) (sp : ASpace) (a n : Nat) (loft : Bool)
    (f : List HExt → List HExt) : Nat → Except (Option Nat) State
  | 0 => .error none
  | fuel + 1 =>
    match s.roomH sl vd sp a n loft f 64 with
    | .ok t => .ok (t.changeH sl vd a f)
    | .refused => .error none
    | .frame e =>
      match s.backPage e.leaf with
      | some t => if t.short.isSome then .error none else (t.frameTraffic sl vd).changeFramed sl vd sp a n loft f fuel
      | none => .error (some sl)

/-- A partly written poisoned word stays poisoned (R169). -/
def State.wordPoison (s : State) (sl : Nat) (sp : ASpace) (l : Leaf) (a : Nat) (data : List PByte) : List PByte :=
  data.zipIdx.map fun b =>
    let w := 8 * ((a + b.2) / 8)
    if a ≤ w && w + 8 ≤ a + data.length then b.1
    else { b.1 with p := b.1.p || (s.homeByte sl sp l (a + b.2)).p }

/-- The other bytes of a word share its poison (R169). -/
def State.spreadPoison (s : State) (sl : Nat) (sp : ASpace) (l : Leaf) (a : Nat) (data : List PByte) : State :=
  if data.any (·.p) then
    (wordsOf a data.length).foldl (fun s w =>
      if (s.homeBytes sp l w 8).any (·.p) then
        let x := s.slice sl
        s.setSlice sl { x with exts := x.exts.map fun e =>
          if e.sp = sp then { e with data := e.data.zipIdx.map fun b =>
            if (e.start + b.2) / 8 * 8 = w then { b.1 with p := true } else b.1 } else e }
      else s) s
  else s

/-- An extent that stands for a tag that something of a word takes (R95). -/
def tagExt (sp : ASpace) (l : Leaf) (vd w u : Nat) : HExt :=
  ⟨sp, w, List.replicate 8 ⟨0, false⟩, .m, false, 0, l, vd, u, true, 16⟩

/-- A write of a device that allocates nothing, to bytes of a frameless loft page that no extent holds: the page must
have a frame first, since the bytes have no other place (R98, R101, R106; log 93). -/
def State.bareWrite (s : State) (sl : Nat) (sp : ASpace) (l : Leaf) (vd a n : Nat) : Bool :=
  !s.mayAlloc l.home vd && l.loft && s.frameOf l = 0 && (List.range n).any fun j => (s.hextAny sl sp (a + j)).isNone

/-- Room for a write of n bytes of one bay: what is evicted for it, or the frame that it needs (R98, R99). -/
def State.roomWrite (s : State) (sp : ASpace) (l : Leaf) (vd a n : Nat) : Room :=
  let sl := homeSlice l.home a
  if s.bareWrite sl sp l vd a n then .frame (tagExt sp l vd a s.nextId)
  else
    let keep := s.mayAlloc l.home vd
    let st : HState := if l.loft && s.frameOf l = 0 then .l else .m
    let f := writeExts (s.slice sl).combines sp l vd keep st (BitVec.allOnes 64) s.nextId a
      (List.replicate n ⟨0, false⟩)
    match s.roomH sl vd sp a n l.loft f 64 with
    | .ok t => .ok t
    | r => if keep then r else .ok s

/-- Write bytes of one bay at their home: M, or L on a loft page without a frame (R98; log 95); a device that may
not allocate there writes in place and behind (R101). Without room for it the state is marked short. Poison
follows R169; watches fire. `keepBits` are the sharer bits that stay: the writer's own copy is updated in place
(R323). -/
def State.homeWriteBay (s : State) (sp : ASpace) (l : Leaf) (vd a : Nat) (data : List PByte)
    (keepBits : BitVec 64) : State :=
  let sl := homeSlice l.home a
  let keep := s.mayAlloc l.home vd
  match (if s.bareWrite sl sp l vd a data.length then s.backPage l else some s) with
  | none => s.lacks (some sl)
  | some s =>
    let data := s.wordPoison sl sp l a data
    let st : HState := if l.loft && s.frameOf l = 0 then .l else .m
    let (u, s) := s.fresh
    let f (ex : List HExt) : List HExt := writeExts (s.slice sl).combines sp l vd keep st keepBits u a data ex
    let s := match s.changeFramed sl vd sp a data.length l.loft f 32 with
      | .ok t =>
        if keep then t
        else t.writePast sl vd sp l a
          (data.zipIdx.map fun (b : PByte × Nat) => if (t.hextAny sl sp (a + b.2)).isSome then none else some b.1)
      | .error k => let t := s.pokeHome sl vd sp l a data; if keep then t.lacks k else t
    (s.spreadPoison sl sp l a data).fire sp l a data.length

/-- Split a byte range into its bays: (address, offset, length). -/
def baysOf (a n : Nat) : List (Nat × Nat × Nat) :=
  if n = 0 then []
  else (List.range ((a + n - 1) / 256 - a / 256 + 1)).map fun j =>
    let lo := max a (256 * (a / 256 + j))
    let hi := min (a + n) (256 * (a / 256 + j + 1))
    (lo, lo - a, hi - lo)

/-- Write bytes at their homes, bay by bay. -/
def State.homeWrite (s : State) (sp : ASpace) (l : Leaf) (vd a : Nat) (data : List PByte)
    (keepBits : BitVec 64 := BitVec.allOnes 64) : State :=
  (baysOf a data.length).foldl (fun s b =>
    s.homeWriteBay sp l vd b.1 ((data.drop b.2.1).take b.2.2) keepBits) s

/-- Set a sharer bit on the extents whose bytes a home sends (R323), and merge again (R96). -/
def State.share (s : State) (sl : Nat) (sp : ASpace) (a n bit : Nat) : State :=
  let x := s.slice sl
  let hit (e : HExt) : Bool :=
    e.sp = sp && overlaps e.start e.data.length a n && !e.fill && !e.sharers.getLsbD bit
  if x.exts.any hit then
    let l := x.exts.map fun e => if hit e then { e with sharers := bitSet e.sharers bit true } else e
    s.setSlice sl { x with exts := mergeBay x.combines l sp (a / 256) }
  else s

/-! Fills (R98) -/

/-- What a fill of the bytes [lo, hi) makes of the extents of a slice: bytes that no extent covers wait for it. -/
def fillExts (sp : ASpace) (l : Leaf) (vd way u lo hi : Nat) (exts : List HExt) : List HExt :=
  (runsBy (fun z => (extAt exts sp z).isSome) lo (List.replicate (hi - lo) ⟨0, false⟩)).foldl (fun ex r =>
    if (extAt exts sp r.1).isSome then ex
    else ex ++ [⟨sp, r.1, r.2, .v, false, 0, l, vd, u, true, way⟩]) exts

/-- The granules of a range of one bay that hold bytes which no extent covers: first byte and end. -/
def State.gapOf (s : State) (sl : Nat) (sp : ASpace) (a n : Nat) : Option (Nat × Nat) :=
  let xs := ((List.range n).map (a + ·)).filter fun x => (s.hextAny sl sp x).isNone
  match xs.head?, xs.getLast? with
  | some x, some y => some (x / 64 * 64, (y / 64 + 1) * 64)
  | _, _ => none

/-- A fill made in one step meets bad bursts: its controller reports them as it does those of its queue (R173). -/
def State.noteBad (s : State) (vd : Nat) (sp : ASpace) (l : Leaf) (a n : Nat) : State :=
  if s.badBursts.isEmpty then s
  else
    let absent := ((List.range n).map (a + ·)).filter fun x => (s.hextAny (homeSlice l.home x) sp x).isNone
    let bad := ((absent.filterMap fun x => s.behind sp l x).map (· / 64)).dedup.filter (setHas s.badBursts)
    bad.foldl (fun s b =>
      let r : HbmReq := ⟨vd, homeSlice l.home a, sp, a / 256, 64 * b, 1, none, true, true⟩
      let x := s.die (stackOf (64 * b))
      if x.hbm.contains r then s else s.setDie (stackOf (64 * b)) { x with hbm := x.hbm ++ [r] }) s

/-- Count HBM bursts served for a virtual device at a die: with tokens when its bucket holds them, else in an
idle slot (R397, R393); what no device is charged for takes none. -/
def State.chargeBursts (s : State) (d vd n : Nat) : State :=
  if 64 ≤ vd then s
  else
    let x := s.die d
    let w := mapGet 0 x.weight vd
    let level := (w.extractLsb' 16 16).toNat
    let v := s.vf vd
    if n ≤ level then
      let w := (w &&& 0xFFFFFFFF0000FFFF) ||| BitVec.ofNat 64 ((level - n) * 2 ^ 16)
      (s.setDie d { x with weight := mapPut x.weight vd w }).setVf vd { v with nburst := v.nburst + BitVec.ofNat 64 n }
    else
      s.setVf vd { v with nburst := v.nburst + BitVec.ofNat 64 n, nidle := v.nidle + BitVec.ofNat 64 n }

/-- Bursts that a home takes from the frame's controller in a step that is whole: they are charged, and the request
and the data are traffic between the two (R11, R25, R34, R397; log 111). -/
def State.burstsIn (s : State) (sl : Nat) (sp : ASpace) (l : Leaf) (vd a n : Nat) : State :=
  match s.behind sp l a with
  | none => s
  | some pa =>
    let d := stackOf pa
    ((s.chargeBursts d vd n).sendBulk (sl / 96) (stopOfSlice sl) d stopHbm vcREQ vd 0 noCluster 1).sendBulk d stopHbm
      (sl / 96) (stopOfSlice sl) vcRSP vd 0 noCluster n

/-- A step that is whole fills the absent bytes of a range of one bay from what lies behind it: as V extents, for
which it takes the frames itself and is short without room; a device that allocates nothing keeps none of it (R98,
R99, R101, R302). -/
def State.fillHome (s : State) (sp : ASpace) (l : Leaf) (vd a n : Nat) : State :=
  let sl := homeSlice l.home a
  if l.loft && s.frameOf l = 0 then s
  else
    match s.gapOf sl sp a n with
    | none => s
    | some (lo, hi) =>
      let s := s.noteBad vd sp l lo (hi - lo)
      if !s.mayAlloc l.home vd then s.burstsIn sl sp l vd lo ((hi - lo) / 64)
      else
        let f := fillExts sp l vd 16 s.nextId lo hi
        match s.fresh.2.changeFramed sl vd sp lo (hi - lo) l.loft f 32 with
        | .error k => s.lacks k
        | .ok t =>
          let new := (t.slice sl).exts.filter fun e =>
            e.sp = sp && e.fill && lo ≤ e.start && e.start < hi && (s.hextAny sl sp e.start).isNone
          let data (e : HExt) : List PByte := t.homeBytes sp l e.start e.data.length
          let x := t.slice sl
          let l' := x.exts.map fun e => if new.contains e then { e with fill := false, data := data e } else e
          let t := t.setSlice sl { x with exts := mergeBay x.combines l' sp (a / 256) }
          new.foldl (fun t e => t.burstsIn sl sp l vd e.start e.chunks) t

/-- The same in every bay of a range, where the bytes of its page have homes. -/
def State.fillRange (s : State) (sp : ASpace) (l : Leaf) (vd a n : Nat) : State :=
  (baysOf a n).foldl (fun s b => s.fillHome sp l vd b.1 b.2.2) s

/-- Room for a fill of the absent bytes of a range of one bay. -/
def State.roomBay (s : State) (sp : ASpace) (l : Leaf) (vd a n : Nat) : Room :=
  let sl := homeSlice l.home a
  if !s.mayAlloc l.home vd then .ok s
  else
    match s.gapOf sl sp a n with
    | none => .ok s
    | some (lo, hi) => s.roomH sl vd sp lo (hi - lo) l.loft (fillExts sp l vd 16 s.nextId lo hi) 64

end Sys2Proof.Machine
end

