-- ==== Sys2Proof/Machine/Cache.lean ====
section
/-! DEFINITION. The cluster cache: extents, merging, eviction, write-through, accrual and combines, and
the recalls that a home makes (R89 to R94, R116 to R123, R132, R347). -/

namespace Sys2Proof.Machine

/-! Extents -/

/-- Two cluster extents may merge (R93, R90). -/
def mergeableC (x y : CExt) : Bool :=
  x.sp = y.sp && x.start + x.data.length = y.start && x.st = y.st && x.leaf.pte = y.leaf.pte &&
  x.leaf.kind = y.leaf.kind && x.leaf.home = y.leaf.home && x.data.length + y.data.length ≤ 1024 &&
  (y.start + y.data.length - 1) / 256 ≤ x.start / 256 + 3

def addC (l : List CExt) (e : CExt) : List CExt :=
  let (e, l) := match l.find? fun x => mergeableC x e with
    | some x => ({ e with start := x.start, data := x.data ++ e.data }, l.erase x)
    | none => (e, l)
  let (e, l) := match l.find? fun x => mergeableC e x with
    | some x => ({ e with data := e.data ++ x.data }, l.erase x)
    | none => (e, l)
  l ++ [e]

def CExt.set (e : CExt) : Nat := cacheSet e.start
def CExt.chunks (e : CExt) : Nat := chunksOf e.start e.data.length

/-- The extent of a cluster that holds a byte. -/
def State.cext (s : State) (cl : Nat) (sp : ASpace) (a : Nat) : Option CExt :=
  (s.cluster cl).cache.find? fun e => e.sp = sp && (runByte e.start e.data a).isSome

def State.setCache (s : State) (cl : Nat) (l : List CExt) : State :=
  s.setCluster cl { s.cluster cl with cache := l }

/-- Set probes of a lookup of [a, a + n) (R91): the bays, and the three before them on the page whose
set reaches. -/
def probes (l : List CExt) (sp : ASpace) (page a n : Nat) : Nat :=
  let first := a / 256
  let last := (a + n - 1) / 256
  let reach (b : Nat) : Nat :=
    ((l.filter fun e => e.set = cacheSet (256 * b)).map fun e =>
      (e.start + e.data.length - 1) / 256 - e.start / 256).foldl max 0
  let early := (List.range 3).filter fun j =>
    j + 1 ≤ first && page ≤ 256 * (first - (j + 1)) && j + 1 ≤ reach (first - (j + 1))
  let _ := sp
  early.length + (last - first + 1)

/-- Merge the extents of a cluster where R93 lets them, after a change of their states. -/
def State.mergeC (s : State) (cl : Nat) : State :=
  s.setCache cl (((s.cluster cl).cache.filter fun e => !e.data.isEmpty).foldl addC [])

/-- The extent owes its homes bytes that they cannot take yet. -/
def State.owesBlocked (s : State) (e : CExt) : Bool :=
  e.st ≠ .c && s.blocked e.sp e.leaf e.start e.data.length true

/-! Recalls and combines (R120, R123) -/

/-- Words with a combine list that a range touches. -/
def State.combineDue (s : State) (sp : ASpace) (l : Leaf) (a n : Nat) : Option Combine :=
  (wordsOf a n).findSome? fun w =>
    (s.slice (homeSlice l.home w)).combines.find? fun c => c.sp = sp && c.addr = w

/-- Combine a word: every listed copy, recalled over COH, in ascending cluster number, each with its own operation
(R123). -/
def State.combineWord (s : State) (c : Combine) : State :=
  let vd := match s.partials c with | e :: _ => e.vd | [] => landlordVd
  (s.combined c).foldl (fun s r => s.homeWrite c.sp c.leaf vd r.1 r.2)
    ((s.unlistWord c).cohTo (homeSlice c.leaf.home c.addr) vd c.clusters)

/-- The owner of a RELL word of another cluster that an access must recall first (R120). -/
def State.recallDue (s : State) (cl : Nat) (sp : ASpace) (l : Leaf) (a n : Nat) : Option Owner :=
  (wordsOf a n).findSome? fun w =>
    (s.slice (homeSlice l.home w)).owners.find? fun o =>
      o.sp = sp && o.addr = w && clusterOf o.core ≠ cl

/-- End a strand's ownership of its RELL word: nothing is owed to it any more (R120). -/
def State.unown (s : State) (c p : Nat) : State :=
  match (s.strand c p).rell with
  | none => s
  | some w =>
    let s := s.setStrand c p { s.strand c p with rell := none }
    let s := s.setCache (clusterOf c) ((s.cluster (clusterOf c)).cache.map fun e =>
      match e.st with
      | .d t o => if o = some w && t = slotOf c p then { e with st := .d t none } else e
      | _ => e)
    let l : SMap Slice := s.slices.map fun x =>
      (x.1, { x.2 with owners := x.2.owners.filter fun o => !(o.core = c && o.pos = p) })
    { s with slices := l }.mergeC (clusterOf c)

/-- Traffic of a cluster to the homes of a range of one page on a channel, bay by bay, which comes about in the step
that sends it (R25, R37; log 111). -/
def State.homeTraffic (s : State) (cl vd vc : Nat) (l : Leaf) (a n : Nat) : State :=
  if cl = noCluster then s
  else
    (baysOf a n).foldl (fun s b =>
      s.sendBulk (dieOfCluster cl) (stopOfCluster cl) l.home (stopOfSlice (homeSlice l.home b.1)) vc vd 0 cl
        (slotsFor b.2.2)) s

/-- The same from the homes to the cluster. -/
def State.clusterTraffic (s : State) (cl vd vc : Nat) (l : Leaf) (a n : Nat) : State :=
  if cl = noCluster then s
  else
    (baysOf a n).foldl (fun s b =>
      s.sendBulk l.home (stopOfSlice (homeSlice l.home b.1)) (dieOfCluster cl) (stopOfCluster cl) vc vd 0 cl
        (slotsFor b.2.2)) s

/-- The D extents of a cluster that a test selects. -/
def State.dirtyC (s : State) (cl : Nat) (p : CExt → Bool) : List CExt :=
  (s.cluster cl).cache.filter fun e => (match e.st with | .d _ _ => true | _ => false) && p e

/-- Bytes of a cluster that were dirty are clean: the extents that hold them change state and merge. -/
def State.cleaned (s : State) (cl : Nat) (e : CExt) : State :=
  let l := (s.cluster cl).cache
  s.setCache cl (addC (carveC l e.sp e.start e.data.length) { e with st := .c })

/-- Replies under way to a cluster that carry bytes of a range will not be cached (R94, R117). -/
def State.unkeepAt (s : State) (cl : Nat) (sp : ASpace) (a n : Nat) : State :=
  s.unkeepAll fun k r => k = cl && r.sp = sp && overlaps r.addr r.len a n

/-- The home of an owned word recalls over COH what is owed to it (R25, R120; log 111). -/
def State.recallTraffic (s : State) (o : Owner) : State :=
  match s.slices.find? fun x => x.2.owners.contains o with
  | some x => s.cohTo x.1 landlordVd [clusterOf o.core]
  | none => s

/-- Bytes of a D extent of a cluster reach their homes as a write on REQ (R25, R92), and fills of older bytes under way
to the cluster are not kept (R94, R117). -/
def State.sendHome (s : State) (cl : Nat) (e : CExt) : State :=
  (((s.homeTraffic cl e.vd vcREQ e.leaf e.start e.data.length).homeWrite e.sp e.leaf e.vd e.start e.data).unkeepAt
    cl e.sp e.start e.data.length)

/-- Everything a home does before it serves an access of a cluster to a range: it recalls what is owed to a word
that a strand of another cluster owns, and combines (R120, R123). The owner's bytes reach their homes as accesses
of its own cluster do. `fuel` bounds the words. -/
def State.settle (s : State) (cl : Nat) (sp : ASpace) (l : Leaf) (a n : Nat) : Nat → State
  | 0 => s
  | fuel + 1 =>
    match s.recallDue cl sp l a n with
    | some o =>
      let k := clusterOf o.core
      let es := s.dirtyC k fun e => e.st = .d (slotOf o.core o.pos) (some (o.sp, o.addr))
      let s := es.foldl (fun s e =>
        let s := s.settle k e.sp e.leaf e.start e.data.length fuel
        (s.sendHome k e).cleaned k e) ((s.recallTraffic o).unown o.core o.pos)
      s.settle cl sp l a n fuel
    | none =>
      match s.combineDue sp l a n with
      | some c => (s.combineWord c).settle cl sp l a n fuel
      | none => s

/-- Recall the extents owed to a word: the owner's cluster writes them through, and ownership ends (R120). -/
def State.recall (s : State) (o : Owner) : State :=
  let k := clusterOf o.core
  let es := s.dirtyC k fun e => e.st = .d (slotOf o.core o.pos) (some (o.sp, o.addr))
  es.foldl (fun s e =>
    let s := s.settle k e.sp e.leaf e.start e.data.length 64
    (s.sendHome k e).cleaned k e) ((s.recallTraffic o).unown o.core o.pos)

/-! Write-through and eviction (R92, R94) -/

/-- Write the bytes of a D extent of a cluster through to their homes, where they are a store of that cluster
(R92, R120, R123). -/
def State.throughC (s : State) (cl : Nat) (e : CExt) : State :=
  (s.settle cl e.sp e.leaf e.start e.data.length 64).sendHome cl e

/-- The A bytes of a word leave a cluster: the word is combined from every cluster that the home lists (R123). -/
def State.combineAt (s : State) (cl : Nat) (sp : ASpace) (l : Leaf) (w : Nat) : State :=
  let c := ((s.slice (homeSlice l.home w)).combines.find? fun c => c.sp = sp && c.addr = w).getD ⟨sp, w, [], l⟩
  s.combineWord { c with clusters := setAdd c.clusters cl }

/-- An accrual extent leaves a cluster: each of its words is combined (R94, R123). -/
def State.combineExt (s : State) (cl : Nat) (e : CExt) : State :=
  (wordsOf e.start e.data.length).foldl (fun s w => s.combineAt cl e.sp e.leaf w) s

/-- What an extent owes its homes when it leaves the cluster (R92, R94). -/
def State.payC (s : State) (cl : Nat) (e : CExt) : State :=
  match e.st with
  | .c => s
  | .d _ _ => s.throughC cl e
  | .a _ _ => s.combineExt cl e

/-- Evict an extent whole (R94). -/
def State.evictC (s : State) (cl : Nat) (e : CExt) : State :=
  let s := s.payC cl e
  s.setCache cl ((s.cluster cl).cache.erase e)

/-- Least recently used of a list. -/
def lruC : List CExt → Option CExt
  | [] => none
  | e :: t => match lruC t with
    | none => some e
    | some x => some (if x.used < e.used then x else e)

/-- The next of a list in the order of a clock over the sets (R94; log 96). -/
def clockC (hand : Nat) (l : List CExt) : Option CExt :=
  ((List.range 256).map fun j => (hand + j) % 256).findSome? fun x => l.find? fun e => e.set = x

/-- A set with more than eight tags. -/
def overSet (l : List CExt) : Option Nat :=
  (l.map CExt.set).find? fun x => 8 < (l.filter fun e => e.set = x).length

/-- Side-log data take chunks of the cache that are never evicted (R166). -/
def logChunks (k : Cluster) : Nat :=
  (k.log.map fun e => chunksOf e.2.dva e.2.data.length).sum

/-- Chunks of the pool that a cluster uses. -/
def usedChunks (k : Cluster) : Nat := (k.cache.map CExt.chunks).sum + logChunks k

/-- Evict until every set has at most eight tags and the pool holds, sparing the extents of one use: for a tag the
least recently used of its set, for chunks the next of the clock (R94). The state is short where that extent's
write-back or combine has to wait, or none is left. -/
def State.fitC (s : State) (cl new : Nat) : Nat → State
  | 0 => s.lacks none
  | fuel + 1 =>
    let k := s.cluster cl
    let old := k.cache.filter fun e => e.used ≠ new
    match overSet k.cache with
    | some x =>
      match lruC (old.filter fun e => e.set = x) with
      | some e => if s.owesBlocked e then s.lacks none else (s.evictC cl e).fitC cl new fuel
      | none => s.lacks none
    | none =>
      if usedChunks k ≤ 2048 then s
      else
        match clockC k.hand old with
        | some e =>
          if s.owesBlocked e then s.lacks none
          else ((s.setCluster cl { k with hand := e.set }).evictC cl e).fitC cl new fuel
        | none => s.lacks none

/-- Clusters whose sets or pool a step has left over full evict in that step (R89, R94, R322): a remainder of a split
extent takes the tag of the least recently used. What has to wait goes in a later step. -/
def State.refit (s : State) : State :=
  s.clusters.foldl (fun s k =>
    let x := s.cluster k.1
    if (overSet x.cache).isSome || 2048 < usedChunks x then
      let t := s.fitC k.1 s.nextId 64
      if t.short.isSome then s else t
    else s) s

/-- Bytes that are owed to a RELL word are written through before another write of the cluster covers them: a debt is
of the bytes as they were (R119, R120). The state is short while that has to wait. -/
def State.payOwed (s : State) (cl : Nat) (sp : ASpace) (a n : Nat) : State :=
  (s.dirtyC cl fun e => e.sp = sp && overlaps e.start e.data.length a n &&
    (match e.st with | .d _ o => o.isSome | _ => false)).foldl (fun s e =>
      let c := e.clip a n
      if s.owesBlocked c then s.lacks none else (s.throughC cl c).cleaned cl c) s

/-- Put an extent into a cluster's cache over the bytes it covers, merging and evicting. -/
def State.putC (s : State) (cl : Nat) (e : CExt) : State :=
  if e.data.isEmpty then s
  else
    let (u, s) := (s.payOwed cl e.sp e.start e.data.length).fresh
    let e := { e with used := u }
    (s.setCache cl (addC (carveC (s.cluster cl).cache e.sp e.start e.data.length) e)).fitC cl u 64

/-- A C extent of some bytes. -/
def mkC (sp : ASpace) (l : Leaf) (vd a : Nat) (data : List PByte) (st : CState) : CExt :=
  ⟨sp, a, data, st, l, vd, 0⟩

/-- Put a run of bytes of one page into a cluster's cache, cut so that every extent obeys R90. `fuel` bounds
the cuts. -/
def State.putRun (s : State) (cl : Nat) (sp : ASpace) (l : Leaf) (vd : Nat) (st : CState) :
    Nat → Nat → List PByte → State
  | 0, _, _ => s
  | fuel + 1, a, data =>
    let n := (a / 256 + 4) * 256 - a
    (s.putC cl (mkC sp l vd a (data.take n) st)).putRun cl sp l vd st fuel (a + n) (data.drop n)

/-- Touch the extents of a range for the least-recently-used order. -/
def State.touchC (s : State) (cl : Nat) (sp : ASpace) (a n : Nat) : State :=
  let (u, s) := s.fresh
  s.setCache cl ((s.cluster cl).cache.map fun e =>
    if e.sp = sp && overlaps e.start e.data.length a n then { e with used := u } else e)

/-- Combine and drop a cluster's own A bytes that overlap a range: the extents whole (R92). -/
def State.combineOwn (s : State) (cl : Nat) (sp : ASpace) (a n : Nat) : State :=
  ((s.cluster cl).cache.filter fun e => e.sp = sp && (match e.st with | .a _ _ => true | _ => false) &&
    overlaps e.start e.data.length a n).foldl (fun s e => s.evictC cl e) s

/-- Write through a cluster's own D bytes of a range; they become C (R92). -/
def State.throughRange (s : State) (cl : Nat) (sp : ASpace) (a n : Nat) : State :=
  (s.dirtyC cl fun e => e.sp = sp && overlaps e.start e.data.length a n).foldl (fun s e =>
    let c := e.clip a n
    ((s.throughC cl c).cleaned cl c).fitC cl s.nextId 64) s

/-- Drop a cluster's bytes of a range without any write-back. -/
def State.dropC (s : State) (cl : Nat) (sp : ASpace) (a n : Nat) : State :=
  (s.setCache cl (carveC (s.cluster cl).cache sp a n)).fitC cl s.nextId 64

/-- Drop a cluster's C bytes of a range. -/
def State.dropClean (s : State) (cl : Nat) (sp : ASpace) (a n : Nat) : State :=
  (s.setCache cl ((s.cluster cl).cache.flatMap fun e => if e.sp = sp && e.st = .c then e.cut a n else [e])).fitC
    cl s.nextId 64

/-- Write through the D extents of a cluster that a test selects; they become C (R92). -/
def State.throughAll (s : State) (cl : Nat) (p : CExt → Bool) : State :=
  (s.dirtyC cl p).foldl (fun s e => (s.throughC cl e).cleaned cl e) s

/-- Drop the C extents of a cluster that a test selects (R118). -/
def State.dropAll (s : State) (cl : Nat) (p : CExt → Bool) : State :=
  s.setCache cl ((s.cluster cl).cache.filter fun e => !(e.st = .c && p e))

/-! What a load finds in a cluster (R92, R114, R129) -/

/-- The byte that a cluster's cache holds as a value: C or D (R92). -/
def State.cachedByte (s : State) (cl : Nat) (sp : ASpace) (a : Nat) : Option PByte :=
  (s.cext cl sp a).bind fun e => match e.st with | .a _ _ => none | _ => runByte e.start e.data a

/-- The byte of it that a load finds under a mapping: it takes no C copy that is held under a mapping of another kind
or another write right, since what renews the one does not renew the other (R118, R129). -/
def State.hitByte (s : State) (cl : Nat) (l : Leaf) (sp : ASpace) (a : Nat) : Option PByte :=
  (s.cext cl sp a).bind fun e =>
    match e.st with
    | .a _ _ => none
    | .d _ _ => runByte e.start e.data a
    | .c => if e.leaf.kind = l.kind && e.leaf.write = l.write then runByte e.start e.data a else none

/-- A byte that the cluster has written and not yet written through. -/
def State.dirtyByte (s : State) (cl : Nat) (sp : ASpace) (a : Nat) : Option PByte :=
  (s.cext cl sp a).bind fun e => match e.st with | .d _ _ => runByte e.start e.data a | _ => none

/-- Bytes of [a, a + n) that a lookup binds: those of aligned words that are present whole within it (R114). -/
def State.bindable (s : State) (cl : Nat) (l : Leaf) (sp : ASpace) (a n x : Nat) : Bool :=
  ((List.range 8).map (x / 8 * 8 + ·)).all fun y => y < a || a + n ≤ y || (s.hitByte cl l sp y).isSome

/-- Home bytes of [lo, lo + home.length) differ from those of a run within it. -/
def staleRun (lo : Nat) (home : List PByte) (a : Nat) (data : List PByte) : Bool :=
  data.zipIdx.any fun b => (runByte lo home (a + b.2)).any (· ≠ b.1)

/-- A newer fill of a cluster supersedes older copies of its words, so that no word is put together from the values
of two moments (R114): C bytes of those words that differ from the home's now are dropped, and a reply under way
that carries other values is not kept (log 98). -/
def State.supersede (s : State) (cl : Nat) (sp : ASpace) (l : Leaf) (a n : Nat) : State :=
  if l.kind = .strong then s
  else
    let lo := a / 8 * 8
    let home := s.homeBytes sp l lo ((a + n + 7) / 8 * 8 - lo)
    let old (e : CExt) (w : Nat) : Bool :=
      e.sp = sp && e.st = .c && staleRun lo home (e.clip w 8).start (e.clip w 8).data && overlaps e.start e.data.length w 8
    let s := (wordsOf a n).foldl (fun s w =>
      if (s.cluster cl).cache.any fun e => old e w then s.dropClean cl sp w 8 else s) s
    { s with net := s.net.map fun f =>
      match f.msg with
      | .rsp r st v b =>
        if f.cluster = cl && r.sp = sp && staleRun lo home r.addr b then
          { f with msg := .rsp { r with keep := false } st v b } else f
      | _ => f }

/-- A strong write of the same bytes has invalidations outstanding (R116). -/
def State.busyAt (s : State) (sp : ASpace) (l : Leaf) (a n : Nat) : Bool :=
  (baysOf a n).any fun b =>
    (s.slice (homeSlice l.home b.1)).busy.any fun x => x.sp = sp && overlaps x.addr x.len a n

/-! Accesses made whole at their homes: engines, schedulers, porters' tables, the host (R111) -/

/-- Update the strong C copies of a writer's own cluster in place (R92, R323). -/
def State.patchOwn (s : State) (cl : Nat) (sp : ASpace) (a : Nat) (data : List PByte) : State :=
  let new (e : CExt) : CExt :=
    if e.sp = sp && e.st = .c && e.leaf.kind = .strong then
      { e with data := e.data.zipIdx.map fun b => (runByte a data (e.start + b.2)).getD b.1 }
    else e
  let s := s.setCache cl ((s.cluster cl).cache.map new)
  s.unkeepAt cl sp a data.length

/-- Bytes read at their homes for a virtual device, which fill there what they miss (R98). -/
def State.readHomes (s : State) (cl : Nat) (sp : ASpace) (l : Leaf) (a n : Nat) (vd : Nat := landlordVd) :
    List PByte × State :=
  let s := (s.settle cl sp l a n 64).fillRange sp l vd a n
  (s.homeBytes sp l a n, s)

/-- The sharer bit that a write of a cluster leaves on its own copies. -/
def ownBit (l : Leaf) (cl : Nat) : BitVec 64 :=
  if l.kind = .strong && cl ≠ noCluster then bitSet 0 (sharerBit l.home cl) true else 0

/-- A store performed at its homes; on a strong page the copies of other clusters are trimmed, and the writer's own
updated in place (R116, R124, R323). -/
def State.writeHomes (s : State) (cl : Nat) (sp : ASpace) (l : Leaf) (vd a : Nat) (data : List PByte) :
    State :=
  let s := s.settle cl sp l a data.length 64
  if l.kind = .strong then
    let s := (s.trimFrom (homeSlice l.home a) vd sp a data.length cl).homeWrite sp l vd a data (ownBit l cl)
    if cl = noCluster then s else s.patchOwn cl sp a (s.homeBytes sp l a data.length)
  else (s.homeWrite sp l vd a data).unkeepAt cl sp a data.length

/-- Older C bytes that a cluster holds of bytes that a write of its own at their home has changed are dropped, under
the kinds that a home does not trim (R115). -/
def State.staleOut (s : State) (cl : Nat) (sp : ASpace) (l : Leaf) (a n : Nat) : State :=
  if l.kind = .strong || cl = noCluster then s else (s.dropClean cl sp a n).unkeepAt cl sp a n

/-- Store at a physical address of space 0, as a strong store at its home. -/
def State.physStore (s : State) (pa : Nat) (data : List PByte) : State :=
  s.writeHomes noCluster .phys (s.leafAt pa) landlordVd pa data

/-- The parts of a cluster's extents within a range. -/
def State.heldBy (s : State) (cl : Nat) (sp : ASpace) (a n : Nat) : List CExt :=
  ((s.cluster cl).cache.filter fun e => e.sp = sp && overlaps e.start e.data.length a n).map fun e => e.clip a n

/-- Put new bytes into the copies that a cluster held of a range: they are C (R92, R124). -/
def State.refresh (s : State) (cl : Nat) (sp : ASpace) (l : Leaf) (a : Nat) (data : List PByte)
    (held : List CExt) : State :=
  held.foldl (fun s e =>
    let b := (data.drop (e.start - a)).take e.data.length
    let s := s.putC cl { e with st := .c, data := b, leaf := l }
    if l.kind = .strong then
      (baysOf e.start e.data.length).foldl (fun s y =>
        s.share (homeSlice l.home y.1) sp y.1 y.2.2 (sharerBit l.home cl)) s
    else s) s

/-- What a memory controller writes to the homes of a range, on REQ (R39; log 111). -/
def State.stackTraffic (s : State) (h vd : Nat) (l : Leaf) (a n : Nat) : State :=
  (baysOf a n).foldl (fun s b =>
    s.sendBulk h stopHbm l.home (stopOfSlice (homeSlice l.home b.1)) vcREQ vd 0 noCluster (slotsFor b.2.2)) s

/-- A store of a cluster's engine, whose bytes pass the cluster's stop on JOB, or of the cellar engine of a stack,
performed at its homes, that leaves the bytes that the cluster holds C with the new value (R37, R39, R124; log 111). -/
def State.portStore (s : State) (cl vd : Nat) (sp : ASpace) (l : Leaf) (a : Nat) (data : List PByte)
    (stack : Option Nat := none) : State :=
  let s := s.combineOwn cl sp a data.length
  let s := match stack with
    | none => s.homeTraffic cl vd vcJOB l a data.length
    | some h => s.stackTraffic h vd l a data.length
  let held := s.heldBy cl sp a data.length
  let s := s.dropC cl sp a data.length
  (s.writeHomes cl sp l vd a data).refresh cl sp l a data held

end Sys2Proof.Machine
end

