-- ==== Sys2Proof/Machine/Translate.lean ====
section
/-! DEFINITION. Segments, page tables, TLBs (R78 to R84, R100). -/

namespace Sys2Proof.Machine

/-! Segments (R78, R79) -/

/-- Rights bits, read lowest (R78, R248). -/
def rRead : Nat := 0
def rWrite : Nat := 1
def rAtomic : Nat := 2
def rJob : Nat := 3

/-- A segment from the 16 bytes of a template entry (R78). -/
def segOfWords (lo hi : Word) : Seg := ⟨lo.extractLsb' 0 56, hi.extractLsb' 0 49, hi.extractLsb' 56 5⟩

/-- The two words of a segment register (R78). -/
def segLo (g : Seg) : Word := g.base.zeroExtend 64
def segHi (g : Seg) : Word := ((0#3 ++ g.rights) ++ 0#7) ++ g.limit

/-- The check of R79, exact: the DVA, or SEGMENT. -/
def segCheck (g : Seg) (rights : List Nat) (off : Int) (n : Nat) : Except TrapInfo Nat :=
  if 2 ^ 48 < g.limit.toNat then .error tSegment
  else if rights.any fun r => !g.rights.getLsbD r then .error tSegment
  else if off < 0 || (g.limit.toNat : Int) < off + n then .error tSegment
  else
    let dva := g.base.toNat + off.toNat
    if 2 ^ 56 < dva + n then .error tSegment else .ok dva

/-- Segment rights of an access (R80). -/
def actRights : GAct → List Nat
  | .load _ | .launch _ | .job _ | .lstat _ | .cwb | .cinv | .cpin _ | .cunpin | .rell _ | .prefetch => [rRead]
  | .mwait _ => [rRead, rAtomic]
  | .store | .ldisc _ | .lback => [rWrite]
  | .flushp | .done | .remote _ | .spawn _ => []
  | .atom _ _ _ _ | .red _ _ | .join _ => [rAtomic]

/-- The class that fd3 gives: 0 load, 1 store, 2 atomic, 3 other (R163), by the classes of R80 (log 15). -/
def actClass : GAct → Nat
  | .load _ | .launch _ | .job _ | .mwait _ | .lstat _ => 0
  | .store | .ldisc _ | .lback => 1
  | .atom _ _ _ _ | .red _ _ | .join _ => 2
  | _ => 3

/-- PAGE subcode 2, 3 or 4 for the leaf right an access lacks, else 0 (R80, R84). -/
def actLeafRight (a : GAct) (l : Leaf) : Nat :=
  match a with
  | .store | .ldisc _ | .lback => if l.write then 0 else 3
  | .atom _ _ _ _ | .red _ _ | .join _ => if l.atomic then 0 else 4
  | _ => if l.read then 0 else 2

/-! Walks (R82 to R84) -/

/-- A frame number names populated HBM of space 0 other than frame 0. -/
def goodTable (frame : Nat) : Bool := frame ≠ 0 && populated (frame * 2 ^ 16)

def pkindOf (n : Nat) : PKind := if n = 0 then .strong else if n = 1 then .release else .unordered

/-- A leaf entry of a table, or MALFORMED (R83, R84). -/
def leafOf (pte : Nat) (w : Word) (large : Bool) : Except Nat Leaf :=
  let f := (w.extractLsb' 16 32).toNat
  let pa := f * 2 ^ 16
  let kind := (w.extractLsb' 4 2).toNat
  let loft := w.getLsbD 6
  if w.extractLsb' 48 16 ≠ 0 || (w.getLsbD 11 && !large) || kind = 3 || (loft && large)
      || (!loft && f = 0) || (loft && paSpace pa ≠ 0) || (large && f % 2 ^ 13 ≠ 0)
      || (paSpace pa = 0 && f ≠ 0 && !populated pa) then .error 5
  else .ok
    { frame := pa, key := (w.extractLsb' 12 4).toNat, large := large, pin := w.getLsbD 10
      home := (w.extractLsb' 7 3).toNat, loft := loft, kind := pkindOf kind, atomic := w.getLsbD 3
      write := w.getLsbD 2, read := w.getLsbD 1, pte := pte }

/-- A table pointer, or MALFORMED: its must-be-zero bits and the frame it names (R83, R84). -/
def tableOf (w : Word) : Except Nat Nat :=
  let f := (w.extractLsb' 16 32).toNat
  if w.extractLsb' 48 16 ≠ 0 || w.extractLsb' 1 15 ≠ 0 || !goodTable f then .error 5 else .ok (f * 2 ^ 16)

/-- The walk of a DVA from a root table at a physical address (R82 to R84): L3, L2, L1. Entries are read
at their homes as strong-page reads. -/
def State.walk (s : State) (root dva : Nat) : Except Nat Leaf :=
  if !goodTable (root / 2 ^ 16) then .error 5
  else
    let e3 := (s.physWord (root + 8 * (dva / 2 ^ 42))).v
    if !e3.getLsbD 0 then .error 1
    else match tableOf e3 with
      | .error n => .error n
      | .ok t2 =>
        let p2 := t2 + 8 * (dva / 2 ^ 29 % 2 ^ 13)
        let e2 := (s.physWord p2).v
        if !e2.getLsbD 0 then .error 1
        else if e2.getLsbD 11 then leafOf p2 e2 true
        else match tableOf e2 with
          | .error n => .error n
          | .ok t1 =>
            let p1 := t1 + 8 * (dva / 2 ^ 16 % 2 ^ 13)
            let e1 := (s.physWord p1).v
            if !e1.getLsbD 0 then .error 1 else leafOf p1 e1 false

/-- A word of a table read at its home as a strong page's, by the walker block of a die for a virtual device: what is
owed to it is recalled and combined first, and a miss fills it; none while a region has an uncommitted writer of it,
or a home no room (R38, R82, R98, R120, R123, R361). -/
def State.entryRead (s : State) (d vd pa : Nat) : Option State :=
  let l := s.leafAt pa
  let t := (s.settle noCluster .phys l pa 8 64).fillHome .phys l vd pa 8
  if s.blocked .phys l pa 8 false || t.short.isSome then none
  else
    let i := stopOfSlice (homeSlice l.home pa)
    some ((t.sendBulk d stopWalker l.home i vcREQ vd 0 noCluster 1).sendBulk l.home i d stopWalker vcRSP vd 0 noCluster 1)

/-- The state once a walk from a root table has read its entries; none while it must wait. -/
def State.walkReads (s : State) (d vd root dva : Nat) : Option State :=
  if !goodTable (root / 2 ^ 16) then some s
  else do
    let p3 := root + 8 * (dva / 2 ^ 42)
    let s ← s.entryRead d vd p3
    let e3 := (s.physWord p3).v
    match tableOf e3 with
    | .error _ => pure s
    | .ok t2 =>
      if !e3.getLsbD 0 then pure s
      else
        let p2 := t2 + 8 * (dva / 2 ^ 29 % 2 ^ 13)
        let s ← s.entryRead d vd p2
        let e2 := (s.physWord p2).v
        match tableOf e2 with
        | .error _ => pure s
        | .ok t1 =>
          if !e2.getLsbD 0 || e2.getLsbD 11 then pure s else s.entryRead d vd (t1 + 8 * (dva / 2 ^ 16 % 2 ^ 13))

/-- The checks on a leaf after MALFORMED, in the order of R84: rights, NOPIN, LOFT_UNRESERVED; 0 when
all pass. -/
def State.checkLeaf (s : State) (vd : Nat) (a : GAct) (l : Leaf) : Nat :=
  let r := actLeafRight a l
  if r ≠ 0 then r
  else if (match a with | .cpin _ => !l.pin | _ => false) then 7
  else if l.loft && allotLoft (s.allot l.home vd) = 0 then 6
  else 0

def pageSize (large : Bool) : Nat := if large then 2 ^ 29 else 2 ^ 16

/-! TLBs (R81) -/

def tlbFind (l : List TlbEntry) (vd asid dva : Nat) : Option Leaf :=
  (l.find? fun e => e.vd = vd && e.asid = asid && e.page ≤ dva && dva < e.page + pageSize e.large).map
    (·.leaf)

/-- Index of an entry in the cluster TLB. -/
def TlbEntry.set (e : TlbEntry) : Nat := if e.large then e.page / 2 ^ 29 % 256 else e.page / 2 ^ 16 % 256

/-- Add an entry, dropping the least recently filled of a full group of `n`. -/
def tlbAdd (l : List TlbEntry) (e : TlbEntry) (n : Nat) (group : TlbEntry → Bool) : List TlbEntry :=
  let l := l.filter fun x => !(x.vd = e.vd && x.asid = e.asid && x.page = e.page && x.large = e.large)
  let g := l.filter group
  let l := if n ≤ g.length then (match g with | x :: _ => l.erase x | [] => l) else l
  l ++ [e]

/-- The address space of a context tag on a cluster, or the landlord's: virtual device, asid, root. -/
def State.spaceOf (s : State) (cl tag : Nat) (landlord : Bool) : Nat × Nat × Nat :=
  let x := s.ctx cl tag
  if landlord then (landlordVd, 0, Config.landlordRoot)
  else (x.img.vd, x.img.asid, (x.root.extractLsb' 16 32).toNat * 2 ^ 16)

/-- The leaf that the TLBs of a core and its cluster hold for a DVA; a hit in the cluster's fills the
core's (R81). -/
def State.tlbLook (s : State) (core vd asid dva : Nat) : Option Leaf :=
  match tlbFind (s.core core).tlb vd asid dva with
  | some l => some l
  | none => tlbFind (s.cluster (clusterOf core)).tlb vd asid dva

/-- Fill both TLBs with a leaf (R81). -/
def State.tlbFill (s : State) (core vd asid dva : Nat) (l : Leaf) : State :=
  let (u, s) := s.fresh
  let e : TlbEntry := ⟨vd, asid, l.large, dva / pageSize l.large * pageSize l.large, l, u⟩
  let k := s.core core
  let s := s.setCore core { k with tlb := tlbAdd k.tlb e 128 fun _ => true }
  let x := s.cluster (clusterOf core)
  s.setCluster (clusterOf core) { x with tlb := tlbAdd x.tlb e 8 fun y => y.set = e.set }

/-- All 192 walkers of a die are busy (R38). -/
def State.walkersBusy (s : State) (d : Nat) : Bool := 192 ≤ (s.die d).walks.length

/-- Translate at once, through the TLBs and a walk, for agents whose translations are no step of their
own: engines, tables of handlers, rings (R162, R378). The state is short while all 192 walkers of the die are busy, or
a read of a table must wait (R38, R361). -/
def State.translate (s : State) (core cl tag : Nat) (landlord : Bool) (a : GAct) (dva : Nat) :
    Except Nat Leaf × State :=
  let (vd, asid, root) := s.spaceOf cl tag landlord
  match s.tlbLook core vd asid dva with
  | some l =>
    let r := s.checkLeaf vd a l
    (if r = 0 then .ok l else .error r, s)
  | none =>
    if s.walkersBusy (dieOf core) then (.error 0, s.lacks none)
    else
      match s.walkReads (dieOf core) vd root dva with
      | none => (.error 0, s.lacks none)
      | some s =>
        match s.walk root dva with
        | .error n => (.error n, s)
        | .ok l =>
          let r := s.checkLeaf vd a l
          (if r = 0 then .ok l else .error r, s.tlbFill core vd asid dva l)

/-- What a DVA on a page is keyed by, and its address there (R89, R33). -/
def keyOf (l : Leaf) (vd dva : Nat) : ASpace × Nat :=
  if l.loft then (.loft vd, dva) else (.phys, l.frame + dva % pageSize l.large)

/-- The address below which a page's keyed bytes do not reach. -/
def pageKey (l : Leaf) (dva : Nat) : Nat :=
  if l.loft then dva / 2 ^ 16 * 2 ^ 16 else l.frame

/-- A lookup of a range of one page counts its set probes (R91). -/
def State.countProbes (s : State) (c vd : Nat) (l : Leaf) (sp : ASpace) (dva a n : Nat) : State :=
  s.bump c 0x05 vd (probes (s.cluster (clusterOf c)).cache sp (pageKey l dva) a n)

/-- An access split at 64 KiB boundaries (R100): at most two pieces. -/
def splitPages (dva n : Nat) : List Piece :=
  let b := (dva / 2 ^ 16 + 1) * 2 ^ 16
  if dva + n ≤ b then [⟨dva, n, none, 0⟩]
  else [⟨dva, b - dva, none, 0⟩, ⟨b, dva + n - b, none, 0⟩]

/-- Two pieces of one large page are one piece (R83, R100). -/
def joinPieces : List Piece → List Piece
  | [p, q] =>
    match p.leaf, q.leaf with
    | some l, some m => if l.large && l.pte = m.pte then [{ p with len := p.len + q.len }] else [p, q]
    | _, _ => [p, q]
  | l => l

/-! Host memory and peers' memory as this device has left them (R131, R398) -/

def State.hostByteAt (s : State) (a : Nat) : Byte := mapGet (Config.hostByte a) s.hostMem a
def State.peerByteAt (s : State) (a : Nat) : Byte := mapGet (Config.peerByte a) s.peerMem a

def putBytes (m : SMap Byte) (a : Nat) (l : List Byte) : SMap Byte :=
  (l.zipIdx.foldl (fun m b => mapPut m (a + b.2) b.1) m)

/-- A page whose bytes have homes on the device. -/
def Leaf.near (l : Leaf) : Bool := l.loft || paSpace l.frame = 0

/-- An access at its homes must wait: for a region, the host, or the invalidations of another write (R116, R130,
R361). -/
def State.homesBusy (s : State) (sp : ASpace) (l : Leaf) (a n : Nat) (wr : Bool) : Bool :=
  s.blocked sp l a n wr || s.busyAt sp l a n

/-- Read bytes at their homes, or in host or a peer's memory, by DVA, at once, one page: poison and value; none
when translation fails, or the page lies in a space without memory (R162). The state is short while it must wait. -/
def State.readDva (s : State) (core cl tag : Nat) (landlord : Bool) (dva n : Nat) :
    Option (List PByte) × State :=
  match s.translate core cl tag landlord (.load (.ls 0)) dva with
  | (.error _, s) => (none, s)
  | (.ok l, s) =>
    let (vd, _, _) := s.spaceOf cl tag landlord
    let (sp, a) := keyOf l vd dva
    if l.near then
      if s.homesBusy sp l a n false then (none, s.lacks none)
      else
        let (b, s) := s.readHomes noCluster sp l a n vd
        (some b, (s.homeTraffic cl vd vcREQ l a 1).clusterTraffic cl vd vcRSP l a n)
    else if paSpace a = 1 then (some ((List.range n).map fun j => ⟨s.hostByteAt (a + j), false⟩), s)
    else if paSpace a = 2 then (some ((List.range n).map fun j => ⟨s.peerByteAt (a + j), false⟩), s)
    else (none, s)

/-- Store bytes there by DVA, at once, one page, as a strong store; none when it cannot (R172). The state is short
while it must wait. -/
def State.writeDva (s : State) (core cl tag : Nat) (dva : Nat) (data : List PByte) (landlord : Bool := false) :
    Option State :=
  match s.translate core cl tag landlord .store dva with
  | (.error _, t) => if t.short.isSome then some t else none
  | (.ok l, s) =>
    let (vd, _, _) := s.spaceOf cl tag landlord
    let (sp, a) := keyOf l vd dva
    if l.near then
      if s.homesBusy sp l a data.length true then some (s.lacks none)
      else some ((s.homeTraffic cl vd vcREQ l a data.length).writeHomes noCluster sp l vd a data)
    else if paSpace a = 1 then some { s with hostMem := putBytes s.hostMem a (data.map (·.v)) }
    else if paSpace a = 2 then some { s with peerMem := putBytes s.peerMem a (data.map (·.v)) }
    else none

end Sys2Proof.Machine
end

