-- ==== Sys2Proof/Machine/Areas.lean ====
section
/-! DEFINITION. The images that pre-emption makes of a core: the save area of a strand (R174, R175, R249) and the
core context buffer (R176). -/

namespace Sys2Proof.Machine

/-- A doubleword of an image. -/
def imgWord (l : List PByte) (o : Nat) : Nat := leNat (((l.drop o).take 8).map (·.v))

def imgW (l : List PByte) (o : Nat) : Word := BitVec.ofNat 64 (imgWord l o)

/-- Doublewords as bytes of an image. -/
def dwords (l : List Word) : List PByte := l.flatMap fun w => natBytes 8 w.toNat

/-! The save area (R175) -/

/-- The resume kind of R174, numbered by its rows (log 103): where a stopped strand stood when it was stopped. -/
def Strand.resumeKind (x : Strand) : Nat :=
  match (if x.st = .stopped then x.left else x.st), (if x.st = .stopped then x.leftWait else x.wait) with
  | .run, _ => 0
  | .waitMem, _ => 1
  | .waitMsg, .fre => 4
  | .waitMsg, .barrier => if x.arrived then 3 else 2
  | .waitMsg, .band => if x.bandArrived then 3 else 2
  | .waitMsg, _ => 2
  | .trapped, _ => 5
  | .idle, _ => 6
  | .stopped, _ => 0

/-- Doubleword 0x5C0: pc, resume kind, context tag. -/
def Strand.areaPc (x : Strand) : Word :=
  BitVec.ofNat 64 (x.regs.pc.toNat + x.resumeKind * 2 ^ 24 + x.tag.toNat * 2 ^ 28)

/-- Doubleword 0x5D8: p0-p7, the region slot, the arrival that is kept and its generation bit, which for BARB is
its band's phase (R335 to R337), and the channel wait limit (R329). -/
def Strand.areaP (x : Strand) : Word :=
  let ps : Nat := ((List.range 8).map fun j => (x.regs.getP (Fin.ofNat 8 j)).toNat * 2 ^ j).sum
  BitVec.ofNat 64 (ps + (x.region.getD 0) * 2 ^ 8 + x.region.isSome.toNat * 2 ^ 16
    + (x.arrived || x.bandArrived).toNat * 2 ^ 17
    + (if x.bandArrived then x.bandPhase else x.gen).toNat * 2 ^ 18 + x.limit.toNat * 2 ^ 32)

/-- Doubleword 0x5F8: the GUARD record and the remote-access count. -/
def Strand.areaGuard (x : Strand) : Word :=
  let g : Nat := match x.guard with | some g => g.addr.toNat + g.more.toNat * 2 ^ 15 + 2 ^ 23 | none => 0
  BitVec.ofNat 64 (g + x.remote.toNat * 2 ^ 32)

/-- Poison bits of eight vector registers. -/
def vpWord (x : RegSet) (o : Nat) : Word :=
  BitVec.ofNat 64 (((List.range 8).map fun j => (x.vp[Fin.ofNat 16 (o + j)]).toNat * 2 ^ (8 * j)).sum)

/-- The save area of a strand, with the 512 bytes of its task window (R175). -/
def Strand.area (x : Strand) (window : List PByte) : List PByte :=
  let r := x.regs
  dwords ((List.range 32).map fun j => (r.getS (Fin.ofNat 32 j)).v) ++
  (List.range 16).flatMap (fun j => natBytes 64 (r.v[Fin.ofNat 16 j]).toNat) ++
  dwords ((List.range 8).map fun j => r.getK (Fin.ofNat 8 j)) ++
  dwords ((List.range 8).flatMap fun j => let g := r.g[Fin.ofNat 8 j]; [segLo g, segHi g]) ++
  dwords [x.areaPc, r.fs, BitVec.ofNat 64 (x.gti.toNat + x.parent.toNat * 2 ^ 32), x.areaP,
    r.sp.zeroExtend 64, vpWord r 0, vpWord r 8, x.areaGuard] ++
  window

/-- The registers that a save area holds. -/
def regsOfArea (l : List PByte) : RegSet where
  s := Vector.ofFn fun i : Fin 32 => imgW l (8 * i.val)
  sp := (imgW l 0x5E0).extractLsb' 0 32
  v := Vector.ofFn fun i : Fin 16 => BitVec.ofNat 512 (leNat (((l.drop (0x100 + 64 * i.val)).take 64).map (·.v)))
  vp := Vector.ofFn fun i : Fin 16 => (imgW l (0x5E8 + i.val / 8 * 8)).extractLsb' (8 * (i.val % 8)) 8
  p := (imgW l 0x5D8).extractLsb' 0 8
  k := Vector.ofFn fun i : Fin 8 => imgW l (0x500 + 8 * i.val)
  g := Vector.ofFn fun i : Fin 8 => segOfWords (imgW l (0x540 + 16 * i.val)) (imgW l (0x548 + 16 * i.val))
  fs := imgW l 0x5C8
  pc := (imgW l 0x5C0).extractLsb' 0 24

/-- A strand as its save area gives it back (R175). The bank of a GUARD record is the address's own (R88). -/
def Strand.ofArea (x : Strand) (l : List PByte) : Strand :=
  let p := imgW l 0x5D8
  let g := imgW l 0x5F8
  let a := g.extractLsb' 0 15
  let gen := p.getLsbD 18
  { x with
    regs := regsOfArea l
    gti := (imgW l 0x5D0).extractLsb' 0 32
    parent := (imgW l 0x5D0).extractLsb' 32 32
    region := if p.getLsbD 16 then some (p.extractLsb' 8 8).toNat else none
    gen := if x.bandArrived then x.gen else gen
    bandPhase := if x.bandArrived then gen else x.bandPhase
    limit := p.extractLsb' 32 32
    guard := if g.getLsbD 23 then some ⟨BitVec.ofNat 3 (a.toNat / 8), a, g.extractLsb' 15 8⟩ else none
    remote := g.extractLsb' 32 32 }

/-- The save area of a strand of a core as it stands (R175): a pool strand's task window is saved with it. -/
def State.areaOf (s : State) (c p : Nat) : List PByte :=
  let x := s.strand c p
  match x.member with
  | .pool _ => x.area (lsBytes (s.core c) (0x5000 + 512 * p) 512)
  | _ => x.area (natBytes 512 0)

/-- A change reaches the saved state of a strand: its save area is formed again, but for its window. -/
def State.reArea (s : State) (c p : Nat) : State :=
  let k := s.core c
  match k.saved with
  | none => s
  | some v =>
    match mapGet? v.areas p with
    | none => s
    | some l => s.setCore c { k with saved := some { v with areas := mapPut v.areas p ((s.strand c p).area (l.drop 0x600)) } }

end Sys2Proof.Machine
end

