-- ==== Sys2Proof/Machine/Regions.lean ====
section
/-! DEFINITION. Regions: the ROU's matrices, aborts and commits (R351 to R367). -/

namespace Sys2Proof.Machine

def State.rou (s : State) (d : Nat) : Rou := (s.die d).rou
def State.setRou (s : State) (d : Nat) (r : Rou) : State := s.setDie d { s.die d with rou := r }

/-- Slots reachable from a set along edges; `fuel` bounds the steps (the closure C of R357). -/
def reach (e : List (Nat × Nat)) : Nat → NSet → NSet
  | 0, x => x
  | fuel + 1, x =>
    let y := e.foldl (fun y p => if setHas y p.1 then setAdd y p.2 else y) x
    if y = x then x else reach e fuel y

/-- C[i][j]: a path of edges runs from i to j (R357). -/
def closes (e : List (Nat × Nat)) (i j : Nat) : Bool :=
  setHas (reach e 256 ((e.filter fun p => p.1 = i).foldl (fun y p => setAdd y p.2) [])) j

/-- Remove a region's records from a slice (R362, R367). -/
def dropRegion (l : List RegRec) (slot : Nat) : List RegRec :=
  (l.map fun r => { r with
    writers := r.writers.filter fun w => w.1 ≠ slot, readers := setDel r.readers slot }).filter
    fun r => !r.writers.isEmpty || !r.readers.isEmpty

/-- Apply a change to the slices of a die. -/
def State.mapSlices (s : State) (d : Nat) (f : Slice → Slice) : State :=
  { s with slices := s.slices.map fun x => (x.1, if x.1 / 96 = d then f x.2 else x.2) }

/-- Clear a region from the ROU: rows and columns, pending edges, slot; reads that it holds wait no longer (R359). -/
def rouClear (r : Rou) (slot : Nat) : Rou :=
  let keep (p : Nat × Nat) : Bool := p.1 ≠ slot && p.2 ≠ slot
  { r with
    slots := mapDel r.slots slot, e := r.e.filter keep, f := r.f.filter keep
    pend := r.pend.filter fun p => keep (p.1, p.2.1)
    held := r.held.filter fun x => x.2 ≠ slot }

/-- The registers of a strand after an abort: the checkpoint, the abort word, the fail target (R362). -/
def abortRegs (old : RegSet) (k : RegSlot) (word : Word) : RegSet :=
  let r := { old with
    s := k.ckpt.s, sp := k.ckpt.sp, p := k.ckpt.p, k := k.ckpt.k, fs := k.ckpt.fs, pc := k.fail }
  match k.code with
  | .s i => r.setS i ⟨word, false⟩
  | .ch _ => r

/-- Redirect a strand whose region aborted (R362); an abort word for a channel goes there once the buffer has room
(R327). -/
def abortStrand (x : Strand) (k : RegSlot) (word : Word) : Strand :=
  { x with
    regs := abortRegs x.regs k word, region := none, op := none, wait := .none
    abortWord := match k.code with | .ch c => some (c, word) | .s _ => x.abortWord }

/-- A region has resolved: those that wait for a slot, or for words that regions hold, look again. -/
def State.regionFreed (s : State) : State :=
  s.wakeWaits fun _ w => match w with | .region | .rouSlot => true | _ => false

/-- The ROU of a die exchanges COH traffic with the homes that hold records of a region, and they answer on RSP (R25,
R39, R360, R362; log 111). -/
def State.rouTraffic (s : State) (d slot : Nat) : State :=
  (s.slices.filter fun x => x.1 / 96 = d && x.2.regs.any fun r =>
    r.writers.any (fun w => w.1 = slot) || r.readers.contains slot).foldl (fun s x =>
      (s.sendBulk d stopRou d (stopOfSlice x.1) vcCOH landlordVd 0 noCluster 1).sendBulk d (stopOfSlice x.1) d stopRou
        vcRSP landlordVd 0 noCluster 1) s

/-- Abort a region: its records and its row in the ROU vanish, the regions that consumed its values
abort in cascade, and its strand stands at its fail target (R362, R363). `fuel` bounds the cascade. -/
def State.abortRegion (s : State) (d slot code cause : Nat) : Nat → State
  | 0 => s
  | fuel + 1 =>
    match mapGet? (s.rou d).slots slot with
    | none => s
    | some k =>
      let next := ((s.rou d).f.filter fun p => p.1 = slot).map (·.2)
      let s := (s.rouTraffic d slot).mapSlices d fun x => { x with regs := dropRegion x.regs slot }
      let s := s.setRou d (rouClear (s.rou d) slot)
      let word : Word := BitVec.ofNat 64 (code + cause * 256)
      let x := s.strand k.core k.pos
      let s :=
        if x.region = some slot && dieOf k.core = d then
          let s := s.bump k.core 0x0E (s.ctx (clusterOf k.core) x.tag.toNat).img.vd 1
          let s := s.setStrand k.core k.pos (abortStrand x k word)
          let s := match x.st with
            | .waitMem | .waitMsg => s.unpark k.core k.pos
            | .stopped => s.setStrand k.core k.pos
                { s.strand k.core k.pos with left := .run, leftWait := .none }
            | _ => s
          (s.goto k.core k.pos k.fail).reArea k.core k.pos
        else s
      let s := s.regionFreed
      next.foldl (fun s q => s.abortRegion d q 2 slot fuel) s

/-- Abort the region of a strand with its own slot as cause. -/
def State.abortOwn (s : State) (c p code : Nat) : State :=
  match (s.strand c p).region with
  | none => s
  | some slot => s.abortRegion (dieOf c) slot code slot 256

/-- The runs of neighbouring bytes of a written word. -/
def byteRuns (l : SMap PByte) : List (Nat × List PByte) :=
  l.foldr (fun b r =>
    match r with
    | (x, y) :: t => if x = b.1 + 1 then (b.1, b.2 :: y) :: t else (b.1, [b.2]) :: (x, y) :: t
    | [] => [(b.1, [b.2])]) []

/-- The bytes of a region's entry over what lies beneath, as ordinary data of a word: the homes trim the written bytes
out of strong copies, and the region's own cluster keeps no older bytes of them (R115, R360). -/
def State.commitWord (s : State) (cl slot : Nat) (r : RegRec) : State :=
  match r.writers.find? fun w => w.1 = slot with
  | none => s
  | some w =>
    (byteRuns w.2).foldl (fun s b =>
      let a := r.addr + b.1
      if r.leaf.kind = .strong then
        (s.trimFrom (homeSlice r.leaf.home a) r.vd r.sp a b.2.length).homeWrite r.sp r.leaf r.vd a b.2 0
      else (s.homeWrite r.sp r.leaf r.vd a b.2).staleOut cl r.sp r.leaf a b.2.length) s

/-- A region of a strand of a cluster commits in one step (R360): its words become ordinary data, its readers' marks
vanish, its slot is free. -/
def State.commitRegion (s : State) (d cl slot : Nat) : State :=
  let mine := (s.slices.filter fun x => x.1 / 96 = d).flatMap fun x => x.2.regs
  let s := (s.rouTraffic d slot).mapSlices d fun x => { x with regs := dropRegion x.regs slot }
  let s := mine.foldl (fun s r => s.commitWord cl slot r) s
  (s.setRou d (rouClear (s.rou d) slot)).regionFreed

end Sys2Proof.Machine
end

