-- ==== Sys2Proof/Machine/Issue.lean ====
section
/-! DEFINITION. Issue: the checks that every instruction passes in the order of R159, the guard (R186),
the waits for claims and channels (R43, R50, R325), and the two ways a plain instruction ends. -/

namespace Sys2Proof.Machine

/-- What a form asks of its issuer: its channels and vector registers, its least privilege level, whether
only strands run it (R157), whether it reports a GUARD record (R88), whether a region tracks it (R307,
R345), whether it reads or writes fs explicitly (R156). -/
structure Form where
  use : Use := {}
  level : Nat := 0
  strandOnly : Bool := false
  reports : Bool := false
  tracked : Bool := true
  fs : Bool := false

/-- The segment template that SEGLD reads: the context's, or for landlord code the eight entries at
offset 0x100 of the core's landlord handler table (R46, R246). Where they cannot be read the segments are zero, and
the poison of their words is left aside: the model's choice, since the spec names no trap there (log 121). -/
def State.template (s : State) : Vector Seg 8 :=
  if s.level = .l then
    let c := s.cur.core
    match (s.readDva c (clusterOf c) s.tag true ((s.core c).lltab.toNat + 0x100) 128).1 with
    | some b =>
      let word (j : Nat) : Word := BitVec.ofNat 64 (leNat (((b.drop (8 * j)).take 8).map (·.v)))
      Vector.ofFn fun i => segOfWords (word (2 * i.val)) (word (2 * i.val + 1))
    | none => Vector.replicate 8 Seg.zero
  else s.curCtx.img.tmpl

/-- The view of the issuing party at this moment; its cycle is the one in which the instruction was first issued, which
is its own position's (R234, R250). -/
def State.view (s : State) (u : Use) : View :=
  let c := s.cur.core
  let (a, b, d) := s.chPeek c s.curVd u.a u.b u.d
  { regs := s.regs, a := a, b := b, d := d, codebook := (s.core c).codebook, cycle := s.since
    loc := locWord c s.cur.pos, tmpl := s.template }

/-- The value of a guard (R186). -/
def State.guardTrue (s : State) (g : Guard) : Bool := s.regs.getP g.p != g.neg

/-- The issuing party names a vector register that its own repeater sequence claims (R50). -/
def State.claimed (s : State) (l : List (Fin 16)) : Bool :=
  match (s.core s.cur.core).rep with
  | some r => r.owner = s.cur.pos && l.any fun i => r.claim.getLsbD i
  | none => false

/-- A sequence instruction that raises flags or rounds under DYN (R156). -/
def raisesFlags : Instr → Bool
  | .vfadd .. | .vfsub .. | .vfmul .. | .vfma .. | .vfms .. | .vfnma .. | .vfmin .. | .vfmax .. | .vfrcp ..
  | .vfrsq .. | .vfexp2 .. | .vfcvt .. | .bunpk .. | .bpack .. | .bscale .. | .qdeq .. => true
  | _ => false

/-- The issuing party's own repeater sequence still raises flags or rounds under DYN (R156). -/
def State.fsHeld (s : State) : Bool :=
  match (s.core s.cur.core).rep with
  | some r => r.owner = s.cur.pos && r.words.any fun w =>
      match decode w with
      | .ok i => raisesFlags i
      | .error _ => false
  | none => false

/-- The strand is inside a region. -/
def State.inRegion (s : State) : Bool := !s.isPorter && (s.strand s.cur.core s.cur.pos).region.isSome

/-- A pending GUARD record of the issuing strand (R88). -/
def State.guardPending (s : State) : Option GuardRec :=
  if s.isPorter then none else (s.strand s.cur.core s.cur.pos).guard

/-- A position's words, with a word in the place of each that has not come. -/
def padWords (need : Option (Nat × Nat)) (l : List Word) (x : Word) : List Word :=
  match need with
  | some (_, n) => l ++ List.replicate (n - l.length) x
  | none => l

/-- The view of the issuing party with a word in the place of each channel word that has not come. -/
def State.viewWith (s : State) (u : Use) (x : Word) : View :=
  let v := s.view u
  { v with a := padWords u.a v.a x, b := padWords u.b v.b x, d := padWords u.d v.d x }

/-- The words of position A have come, or it names no channel. -/
def State.aReady (s : State) (u : Use) : Bool :=
  match u.a with
  | some (_, n) => n ≤ (s.view u).a.length
  | none => true

/-- Which trap an instruction takes although a channel is not ready: a check of R159 before item 6 that fails
whatever words the missing positions bring. Position A gives addresses, indices and targets: while its words are
missing only the poison of a named register is known (log 26). -/
def State.earlyTrap {α : Type} (s : State) (u : Use) (fx : View → Except TrapInfo α) : Option TrapInfo :=
  match fx (s.viewWith u 0), fx (s.viewWith u (BitVec.allOnes 64)), fx (s.viewWith u 8) with
  | .error t, .error t1, .error t2 =>
    if t = t1 && t = t2 && (s.aReady u || (t.cause = 0x09 && t.sub ≠ 3)) then some t else none
  | _, _, _ => none

/-- An instruction waits before its access begins; one whose result is on its way has taken its words. -/
def Strand.waitsToBegin (x : Strand) : Bool :=
  (x.st = .waitMem || x.st = .waitMsg) && x.op.isNone && (match x.wait with | .result _ => false | _ => true)

/-- An instruction that names channels has left its strand in RUN waiting to begin. -/
def State.holds (s t : State) (u : Use) : Bool :=
  u.usesChan && s.cur.pos < 6 && (s.strand s.cur.core s.cur.pos).st = .run &&
    (t.strand s.cur.core s.cur.pos).waitsToBegin

/-- An instruction of the issuing strand that waits before its access begins holds its channel words and the room that
it needs (R325). -/
def State.holdChans (s t : State) (u : Use) : State :=
  if s.holds t u then
    t.setStrand s.cur.core s.cur.pos
      { t.strand s.cur.core s.cur.pos with holdSrc := u.srcs, holdDst := u.dst.toList }
  else t

/-- Issue an instruction: the checks in the order of R159, then `fx` on the view, whose failure is a
trap, and `act` on what it gives. -/
def State.issue {α : Type} (s : State) (g : Guard) (f : Form) (fx : View → Except TrapInfo α)
    (act : State → α → State) : State :=
  let c := s.cur.core
  let p := s.cur.pos
  if s.isPorter && (f.strandOnly || f.use.usesChan) then s.takeTrap tIllegal
  else if s.level.toNat < f.level then s.takeTrap tPriv
  else if !s.guardTrue g then s.retire []
  else match (if f.reports then s.guardPending else none) with
  | some r => s.takeTrap (tGuard r)
  | none =>
    if s.inRegion && (!f.tracked || f.use.usesChan) then s.abortOwn c p 5
    else if s.claimed f.use.vecs || (f.fs && s.fsHeld) then s.park c p .waitMsg .claim
    else
      match s.chNotReady c s.curVd f.use.a f.use.b f.use.d f.use.dst with
      | some _ =>
        match s.earlyTrap f.use fx with
        | some t => s.takeTrap t
        | none =>
          (s.chScan c s.curVd [f.use.a, f.use.b, f.use.d]).park c p .waitMsg
            (.channel s.since f.use.a f.use.b f.use.d f.use.dst)
      | none =>
        match fx (s.view f.use) with
        | .error t => s.takeTrap t
        | .ok x => s.holdChans (act s x) f.use

/-- Take the channel words of the sources of a form. -/
def State.takeSrcs (s : State) (u : Use) : State := s.chTake s.cur.core s.curVd u.srcs

/-- An instruction of fixed latency: its effects, and the next instruction (R42). -/
def State.plain (s : State) (g : Guard) (f : Form) (fx : View → Except TrapInfo (List Eff)) : State :=
  s.issue g f fx fun s l => (s.takeSrcs f.use).retire l

/-- A division or square root: its writes arrive later (R43). -/
def State.slow (s : State) (g : Guard) (f : Form) (fx : View → Except TrapInfo (List Eff)) : State :=
  s.issue g f fx fun s l => (s.takeSrcs f.use).park s.cur.core s.cur.pos .waitMem (.result l)

end Sys2Proof.Machine
end

