-- ==== Sys2Proof/Machine/CmpFam.lean ====
section
/-! DEFINITION. The CMP group (R228). -/

namespace Sys2Proof.Machine

/-- A condition of coding C on integers (R228). -/
def condHolds (c : Cond) (a b : Word) : Bool :=
  match c with
  | .eq => a == b
  | .ne => a != b
  | .lt => a.slt b
  | .ltu => a.ult b
  | .ge => !a.slt b
  | .geu => !a.ult b

/-- A predicate from A and B; a poisoned source raises POISON (R221). -/
def fxCmp (f : Word → Word → Bool) (d : POp) (a : SOp) (b : SImm) (w : View) :
    Except TrapInfo (List Eff) :=
  let x := w.s w.a a
  let y := w.i w.b b
  match needClean x.p y.p false with
  | .error t => .error t
  | .ok _ => .ok (putP d (f x.v y.v))

def formCmp (d : POp) (a : SOp) (b : SImm) : Form := { use := { a := chS a, b := chI b, dst := chP d } }

def cmp2 (f : Word → Word → Bool) (g : Guard) (d : POp) (a : SOp) (b : SImm) (s : State) : Result :=
  .next (s.plain g (formCmp d a b) (fxCmp f d a b))

def execCmp (g : Guard) (c : Cond) (d : POp) (a : SOp) (b : SImm) (s : State) : Result :=
  cmp2 (condHolds c) g d a b s
def execTest (g : Guard) (d : POp) (a : SOp) (b : SImm) (s : State) : Result :=
  cmp2 (fun x y => x &&& y != 0) g d a b s

def fxPred (f : Bool → Bool → Bool) (d a b : POp) (w : View) : Except TrapInfo (List Eff) :=
  .ok (putP d (f (w.p w.a a) (w.p w.b b)))

def formPred (d a b : POp) : Form := { use := { a := chP a, b := chP b, dst := chP d } }

def pred2 (f : Bool → Bool → Bool) (g : Guard) (d a b : POp) (s : State) : Result :=
  .next (s.plain g (formPred d a b) (fxPred f d a b))

def execPand (g : Guard) (d a b : POp) (s : State) : Result := pred2 (fun x y => x && y) g d a b s
def execPor (g : Guard) (d a b : POp) (s : State) : Result := pred2 (fun x y => x || y) g d a b s
def execPxor (g : Guard) (d a b : POp) (s : State) : Result := pred2 (fun x y => x != y) g d a b s
def execPandn (g : Guard) (d a b : POp) (s : State) : Result := pred2 (fun x y => x && !y) g d a b s

/-- PSET: D is bit 0 of B (R228). -/
def fxPset (d : POp) (b : SImm) (w : View) : Except TrapInfo (List Eff) :=
  let y := w.i w.b b
  match needClean false y.p false with
  | .error t => .error t
  | .ok _ => .ok (putP d (y.v.getLsbD 0))

def formPset (d : POp) (b : SImm) : Form := { use := { b := chI b, dst := chP d } }

def execPset (g : Guard) (d : POp) (b : SImm) (s : State) : Result :=
  .next (s.plain g (formPset d b) (fxPset d b))

/-- PGET: D is 1 or 0, unpoisoned (R228, R221). -/
def fxPget (d : SOp) (a : POp) (w : View) : Except TrapInfo (List Eff) :=
  putS d (if w.p w.a a then 1 else 0) false 4

def formPget (d : SOp) (a : POp) : Form := { use := { a := chP a, dst := chS d } }

def execPget (g : Guard) (d : SOp) (a : POp) (s : State) : Result :=
  .next (s.plain g (formPget d a) (fxPget d a))

end Sys2Proof.Machine
end

