-- ==== Sys2Proof/Machine/CtrlFam.lean ====
section
/-! DEFINITION. The CTRL group but for HALT (R229 to R235). -/

namespace Sys2Proof.Machine

/-- The target of BR, CALL, LOOP and FRB in the space of their own PC (R230). -/
def relTarget (pc : Pc) (off : BitVec 32) : Except TrapInfo Pc :=
  let t : Int := ((pc.extractLsb' 0 23).toNat : Int) + off.toInt
  if t < 0 || (2 : Int) ^ 23 ≤ t then .error tIllegal
  else .ok (BitVec.ofNat 24 ((if pc.getLsbD 23 then 2 ^ 23 else 0) + t.toNat))

/-- The link that the call forms write (R231). -/
def linkOf (pc : Pc) : Word :=
  BitVec.ofNat 64 ((if pc.getLsbD 23 then 2 ^ 23 else 0) + ((pc.extractLsb' 0 23).toNat + 1) % 2 ^ 23)

def toPc (x : Word) : Pc := x.extractLsb' 0 24

def fxBr (off : BitVec 32) (w : View) : Except TrapInfo (List Eff) :=
  match relTarget w.regs.pc off with
  | .error t => .error t
  | .ok t => .ok [.jump t]

def execBr (g : Guard) (off : BitVec 32) (s : State) : Result := .next (s.plain g {} (fxBr off))

def formA (a : SOp) : Form := { use := { a := chS a } }

def fxBri (a : SOp) (w : View) : Except TrapInfo (List Eff) :=
  let x := w.s w.a a
  if x.p then .error (tPoison 1) else .ok [.jump (toPc x.v)]

def execBri (g : Guard) (a : SOp) (s : State) : Result := .next (s.plain g (formA a) (fxBri a))

def fxCall (off : BitVec 32) (w : View) : Except TrapInfo (List Eff) :=
  match relTarget w.regs.pc off with
  | .error t => .error t
  | .ok t => .ok [.s 1 (linkOf w.regs.pc) false, .jump t]

def execCall (g : Guard) (off : BitVec 32) (s : State) : Result := .next (s.plain g {} (fxCall off))

def fxCalli (a : SOp) (w : View) : Except TrapInfo (List Eff) :=
  let x := w.s w.a a
  if x.p then .error (tPoison 1) else .ok [.s 1 (linkOf w.regs.pc) false, .jump (toPc x.v)]

def execCalli (g : Guard) (a : SOp) (s : State) : Result := .next (s.plain g (formA a) (fxCalli a))

def fxRet (w : View) : Except TrapInfo (List Eff) :=
  let x := w.regs.getS 1
  if x.p then .error (tPoison 4) else .ok [.jump (toPc x.v)]

def execRet (g : Guard) (s : State) : Result := .next (s.plain g {} fxRet)

/-- LOOP decrements D and branches while it is not zero (R232). -/
def fxLoop (d : SOp) (off : BitVec 32) (w : View) : Except TrapInfo (List Eff) :=
  match relTarget w.regs.pc off with
  | .error t => .error t
  | .ok t =>
    let x := w.s w.d d
    if x.p then .error (tPoison 0)
    else
      let n := x.v - 1
      match putS d n false 4 with
      | .error e => .error e
      | .ok l => .ok (if n = 0 then l else l ++ [.jump t])

def formLoop (d : SOp) : Form := { use := { d := chS d, dst := chS d } }

def execLoop (g : Guard) (d : SOp) (off : BitVec 32) (s : State) : Result :=
  .next (s.plain g (formLoop d) (fxLoop d off))

def execNop (g : Guard) (s : State) : Result := .next (s.plain g {} fun _ => .ok [])

/-- IFENCE enters its own line again, then the next instruction (R235, R195). -/
def State.ifence (s : State) : State := (s.enterLine s.cur.core s.cur.pos).retire []

def execIfence (g : Guard) (s : State) : Result :=
  .next (s.issue g {} (fun _ => .ok ()) fun s _ => s.ifence)

def formD (d : SOp) : Form := { use := { dst := chS d } }

/-- RDCLK writes the cycle count of its issue cycle (R234). -/
def fxRdclk (d : SOp) (w : View) : Except TrapInfo (List Eff) := putS d (BitVec.ofNat 64 w.cycle) false 4

def execRdclk (g : Guard) (d : SOp) (s : State) : Result := .next (s.plain g (formD d) (fxRdclk d))

/-- RDID writes the location word (R234, R16). -/
def fxRdid (d : SOp) (w : View) : Except TrapInfo (List Eff) := putS d (BitVec.ofNat 64 w.loc) false 4

def execRdid (g : Guard) (d : SOp) (s : State) : Result := .next (s.plain g (formD d) (fxRdid d))

end Sys2Proof.Machine
end

