-- ==== Sys2Proof/Machine/Blocks.lean ====
section
/-! DEFINITION. T-blocks, quad-scaled groups, block dot products and embedding rows (R140 to R153). -/

namespace Sys2Proof.Machine

/-- An element of a block or row: poison, or a value (R148). -/
inductive Elem where
  | poison
  | val (v : FV)
  deriving DecidableEq, Repr

/-- Codebook entry `j` as a signed integer (R147). -/
def cbEntry (cb : BitVec 128) (j : Nat) : Int := (cb.extractLsb' (8 * j) 8).toInt

def fvInt (i : Int) : FV := .fin (i < 0) i.natAbs 0

/-- A value times 2^s, exactly (R144). -/
def fvScale (s : Int) : FV → FV
  | .fin n m e => .fin n m (e + s)
  | x => x

/-- Magnitude bits of the quad-scaled formats 0x07, 0x08, 0x09 (R140). -/
def quadBits (code : Nat) : Nat := if code = 0x07 then 7 else if code = 0x08 then 4 else 2
def groupBits (code : Nat) : Nat := 16 + 16 * (quadBits code + 1)

/-- Elements of a block of a format, codes 0x01-0x0A (R143). -/
def blockCount (code : Nat) : Nat :=
  [0, 15, 31, 31, 62, 62, 62, 48, 80, 112, 124].getD code 0

/-- The format of an FP block code 0x01-0x05. -/
def blockFmt (code : Nat) : Fmt :=
  if code = 1 then fmt32 else if code = 2 then fmtBf16 else if code = 3 then fmt16
  else if code = 4 then fmtE4M3 else fmtE5M2

/-- The value of element `i` of a group (R141). -/
def quadVal (m : Nat) (s : Int) (g : Nat) (i : Nat) : FV :=
  let e := g % 256
  let sh := g / 2 ^ (8 + 2 * (i / 4)) % 4
  let x := g / 2 ^ (16 + (m + 1) * i)
  .fin (x / 2 ^ m % 2 = 1) (x % 2 ^ m) ((e : Int) + s - sh - 127 - (m - 1 : Nat))

/-- Whether any bit of payload bits [lo, hi) lies in a poisoned word of the block (R148). -/
def spanPoison (p : BitVec 8) (lo hi : Nat) : Bool :=
  (List.range 8).any fun j => p.getLsbD j && (2 + lo / 8) / 8 ≤ j && j ≤ (2 + (hi - 1) / 8) / 8

/-- The elements of a block of 64 bytes with the poison of its words; an error carries the offending
byte 0 (R144, R145, R148). -/
def blockElems (cb : BitVec 128) (x : VReg) (p : BitVec 8) : Except Nat (List Elem) :=
  let code := (x.extractLsb' 0 8).toNat
  let s := (x.extractLsb' 8 8).toInt
  let n := (x.extractLsb' 16 8).toNat
  let pay := x.toNat / 2 ^ 16
  let all := p.getLsbD 0
  let mk (bad : Bool) (v : FV) : Elem := if all || bad then .poison else .val v
  if code = 0x00 || code = 0xFF then
    if n = 0 || 124 < n then .error code
    else .ok (List.replicate n (mk (code = 0xFF) (.fin false 0 0)))
  else if 0x0A < code then .error code
  else
    let c := blockCount code
    .ok ((List.range c).map fun i =>
      if code ≤ 5 then
        let f := blockFmt code
        let w := f.width
        mk (spanPoison p (w * i) (w * (i + 1))) (fvScale s (fpDec f (pay / 2 ^ (w * i))))
      else if code = 6 then
        mk (spanPoison p (8 * i) (8 * (i + 1))) (fvScale s (fvInt (intOf 8 true (pay / 2 ^ (8 * i)))))
      else if code = 0x0A then
        mk (spanPoison p (4 * i) (4 * (i + 1))) (fvScale s (fvInt (cbEntry cb (pay / 2 ^ (4 * i) % 16))))
      else
        let m := quadBits code
        let gb := groupBits code
        let base := gb * (i / 16)
        let g := pay / 2 ^ base % 2 ^ gb
        let lo := base + 16 + (m + 1) * (i % 16)
        mk (g % 256 = 0xFF || spanPoison p base (base + 16) || spanPoison p lo (lo + m + 1))
          (quadVal m s g (i % 16)))

/-! Dot products (R150, R151) -/

def FV.isInf (neg : Bool) : FV → Bool
  | .inf n => n = neg
  | _ => false

/-- The exact sum of a list of values without infinities of both signs. -/
def fvSum : List FV → FV → Flags → FV × Flags
  | [], acc, fl => (acc, fl)
  | x :: t, acc, fl => let (r, f) := fvAdd .rne acc x; fvSum t r (fl ||| f)

/-- One K-group: the exact sum of the products. Infinite products of both signs raise nv whatever else is there;
else infinities of one sign win (R150). -/
def dotGroup (a b : List FV) : FV × Flags :=
  let ps := List.zipWith fvMul a b
  let fl : Flags := ps.foldl (fun f p => f ||| p.2) 0
  let vs := ps.map (·.1)
  if vs.any (FV.isInf false) && vs.any (FV.isInf true) then (.nan false, fl ||| fNV)
  else
    match vs with
    | [] => (.fin false 0 0, 0)
    | x :: t => let (v, f) := fvSum t x 0; (v, fl ||| f)

def elemVal? : Elem → Option FV
  | .poison => none
  | .val v => some v

/-- The loop of R150 over K-groups; `none` is a poison accumulator. `fuel` bounds the K-groups. -/
def dotLoop (sat : Bool) : Nat → List Elem → List Elem → Option Nat → Flags → Option Nat × Flags
  | 0, _, _, acc, fl => (acc, fl)
  | fuel + 1, a, b, acc, fl =>
    if a.isEmpty || b.isEmpty then (acc, fl)
    else match acc with
      | none => (none, fl)
      | some x =>
        let ga := a.take 16
        let gb := b.take 16
        match ga.mapM elemVal?, gb.mapM elemVal? with
        | some va, some vb =>
          let (g, f0) := dotGroup va vb
          let (gj, f1) := fpPut fmt32 .rne sat g
          let (r, f2) := fpAdd fmt32 .rne sat x gj
          dotLoop sat fuel (a.drop 16) (b.drop 16) (some r) (fl ||| f0 ||| f1 ||| f2)
        | _, _ => (none, fl)

/-- Rows of equal length `k`, from an accumulator. -/
def dot (sat : Bool) (a b : List Elem) (acc : Option Nat) : Option Nat × Flags :=
  dotLoop sat (a.length / 16 + 1) a b acc 0

/-! Packing (R142, R147, R271) -/

/-- The magnitude of a value as m * 2^e; an infinity stands above every finite value. -/
def magOf : FV → Nat × Int
  | .fin _ m e => (m, e)
  | .inf _ => (1, 40000)
  | .nan _ => (0, 0)

/-- m * 2^e < 2^k. -/
def magLt (x : Nat × Int) (k : Int) : Bool := x.1 = 0 || decide (x.2 + (bitLen x.1 : Int) ≤ k)

def magMax (a b : Nat × Int) : Nat × Int :=
  if a.1 = 0 then b else if b.1 = 0 then a
  else
    let q := min a.2 b.2
    if a.1 * 2 ^ (a.2 - q).toNat < b.1 * 2 ^ (b.2 - q).toNat then b else a

/-- One quad at shift `sg`: its magnitudes; shifts lower until every magnitude fits (R142). -/
def packQuad (r : Rmode) (m : Nat) (base : Int) (xs : List (Nat × Int)) : Nat → Nat × List (Nat × Bool)
  | 0 => (0, xs.map fun x => roundAt r false x.1 x.2 (base - (m - 1 : Nat)))
  | sg + 1 =>
    let ms := xs.map fun x => roundAt r false x.1 x.2 (base - (sg + 1 : Nat) - (m - 1 : Nat))
    if ms.all fun x => x.1 < 2 ^ m then (sg + 1, ms) else packQuad r m base xs sg

/-- The shift a quad starts from: the largest t in 3, 2, 1 with b < 2^(base - t), else 0. -/
def quadShift (base : Int) (xs : List (Nat × Int)) : Nat :=
  let b := xs.foldl magMax (0, 0)
  if magLt b (base - 3) then 3 else if magLt b (base - 2) then 2 else if magLt b (base - 1) then 1 else 0

/-- The loop of R142 on E; `fuel` bounds its repeats. Answers E, the quads, and whether E is final by
saturation. -/
def packLoop (r : Rmode) (m : Nat) (s : Int) (xs : List (Nat × Int)) :
    Nat → Int → Bool → Int × Bool × List (Nat × List (Nat × Bool))
  | 0, e, sat => (e, sat, [])
  | fuel + 1, e, sat =>
    let sat := sat || decide (254 < e)
    let e := clampInt 0 254 e
    let base := e + s - 127
    let quads := (List.range 4).map fun q =>
      let ys := (xs.drop (4 * q)).take 4
      packQuad r m base ys (quadShift base ys)
    if sat || quads.all (fun q => q.2.all fun x => x.1 < 2 ^ m) then (e, sat, quads)
    else packLoop r m s xs fuel (e + 1) false

/-- Pack sixteen values into a group of `m` magnitude bits (R142): its bits and flags. -/
def packGroup (r : Rmode) (m : Nat) (s : Int) (vs : List FV) : Nat × Flags :=
  if vs.any FV.isNan then (0xFF, fNV)
  else
    let xs := vs.map magOf
    let a := xs.foldl magMax (0, 0)
    if a.1 = 0 then (0, 0)
    else
      let e0 := a.2 + (bitLen a.1 : Int) - 1 - s + 128
      let (e, _, quads) := packLoop r m s xs 8 e0 false
      let els := (quads.map fun q => q.2).flatten
      let sig := (quads.zipIdx.map fun q => q.1.1 * 4 ^ q.2).sum
      let enc := (els.zip vs).zipIdx.map fun x =>
        let mg := min x.1.1.1 (2 ^ m - 1)
        (mg + (if x.1.2.neg && mg ≠ 0 then 2 ^ m else 0)) * 2 ^ (16 + (m + 1) * x.2)
      let clamped := els.any fun x => 2 ^ m ≤ x.1
      let nx := els.any fun x => x.2
      let uf := (els.zip xs).any fun x => x.1.1 = 0 && x.2.1 ≠ 0
      (e.toNat + 256 * sig + enc.sum,
        flagIf clamped (fOF ||| fNX) ||| flagIf nx fNX ||| flagIf uf (fUF ||| fNX))

/-- INT8: a value rounded and clamped (R147, R149). NaN is answered by none. -/
def packInt8 (r : Rmode) : FV → Option (Nat × Flags)
  | .nan _ => none
  | .inf n => some (if n then 128 else 127, fOF ||| fNX)
  | .fin n m e =>
    let (i, nx) := fvToInt r n m e
    if i < -128 || 127 < i then some (natOf 8 (clampInt (-128) 127 i), fOF ||| fNX)
    else some (natOf 8 i, flagIf nx fNX)

/-- The distance of a value from a codebook entry, as an exact fraction over 2^-q. -/
def cbDist (n : Bool) (m : Nat) (e : Int) (c : Int) : Nat :=
  let q := min e 0
  let v : Int := (m * 2 ^ (e - q).toNat : Nat)
  let v := if n then -v else v
  (v - c * (2 ^ (-q).toNat : Nat)).natAbs

/-- C4: the nearest codebook entry, ties to the lower index (R147). -/
def packC4 (cb : BitVec 128) : FV → Option (Nat × Flags)
  | .nan _ => none
  | .inf n =>
    let best := (List.range 16).foldl (fun b j =>
      if n then (if cbEntry cb j < cbEntry cb b then j else b)
      else (if cbEntry cb b < cbEntry cb j then j else b)) 0
    some (best, fOF ||| fNX)
  | .fin n m e =>
    let best := (List.range 16).foldl (fun b j =>
      if cbDist n m e (cbEntry cb j) < cbDist n m e (cbEntry cb b) then j else b) 0
    let v := FV.fin n m e
    let below := (List.range 16).all fun j => decide (fvCmp v (fvInt (cbEntry cb j)) < 0)
    let above := (List.range 16).all fun j => decide (0 < fvCmp v (fvInt (cbEntry cb j)))
    let differs := cbDist n m e (cbEntry cb best) ≠ 0
    some (best, flagIf (below || above) (fOF ||| fNX) ||| flagIf differs fNX)

/-- A poisoned block of `c` elements (R143). -/
def poisonBlock (c : Nat) : Nat := 0xFF + c * 2 ^ 16

/-- Replace bits [lo, lo + w) of a natural. -/
def putBits (x lo w v : Nat) : Nat := x - (x / 2 ^ lo % 2 ^ w) * 2 ^ lo + (v % 2 ^ w) * 2 ^ lo

/-- One element of a plain-format block: rounded (FP), INT8 or C4; none poisons the whole block. -/
def packElem (cb : BitVec 128) (code : Nat) (r : Rmode) (sat : Bool) (s : Int) (x : Elem) :
    Option (Nat × Flags) :=
  if code ≤ 5 then
    match x with
    | .poison => some ((blockFmt code).nan, 0)
    | .val v => some (fpPut (blockFmt code) r sat (fvScale (-s) v))
  else
    match x with
    | .poison => none
    | .val v => if code = 6 then packInt8 r (fvScale (-s) v) else packC4 cb (fvScale (-s) v)

/-- Bits an element of a plain-format block takes. -/
def elemBits (code : Nat) : Nat := if code ≤ 5 then (blockFmt code).width else if code = 6 then 8 else 4

/-- Encode elements `first` onward into a block of format `code` whose header is already written
(R271). Answers the block and flags. Of a quad-scaled group with a poison element no element raises a flag, of an
INT8 or C4 block with one the others raise theirs, and nv comes with a NaN: the model's choice, since no rule says what
a group or block that holds both raises (log 119). -/
def packInto (cb : BitVec 128) (code : Nat) (r : Rmode) (sat : Bool) (s : Int) (blk first : Nat)
    (xs : List Elem) : Nat × Flags :=
  let c := blockCount code
  let xs := xs.take (c - first)
  if 7 ≤ code && code ≤ 9 then
    let m := quadBits code
    let gb := groupBits code
    (List.range (xs.length / 16)).foldl (fun acc g =>
      let ys := (xs.drop (16 * g)).take 16
      let (bits, fl) := match ys.mapM elemVal? with
        | some vs => packGroup r m s vs
        | none => (0xFF, 0)
      (putBits acc.1 (16 + gb * (first / 16 + g)) gb bits, acc.2 ||| fl)) (blk, 0)
  else
    let w := elemBits code
    let rs := xs.map (packElem cb code r sat s)
    let fl : Flags := rs.foldl (fun (f : Flags) x => match x with | some y => f ||| y.2 | none => f) 0
    let nan := xs.any fun x => match x with | .val v => v.isNan | .poison => false
    if rs.any Option.isNone then (poisonBlock c, fl ||| flagIf (nan && 6 ≤ code) fNV)
    else
      ((rs.zipIdx.foldl (fun acc x =>
        putBits acc (16 + w * (first + x.2)) w ((x.1.map (·.1)).getD 0)) blk), fl)

/-- A whole block of a format from its elements, missing ones written as zero (R146, R381). -/
def packBlock (cb : BitVec 128) (code : Nat) (r : Rmode) (sat : Bool) (s : Int) (xs : List Elem) :
    Nat × Flags :=
  let c := blockCount code
  -- the elements past the last are zero; a C4 block's stay unwritten, code 0 (R146)
  let ys := if code = 0x0A then xs else xs ++ List.replicate (c - xs.length) (.val (.fin false 0 0))
  packInto cb code r sat s (code + natOf 8 s * 256) 0 ys

/-! Embedding rows (R153) -/

/-- fma(scale, code, offset) rounded once into FP32. -/
def dequant (scale offset code : Nat) : Nat × Flags :=
  let (v, fl) := fvFma .rne (fpDec fmt16 scale) (.fin false code 0) (fpDec fmt16 offset)
  withFlags (fpPut fmt32 .rne false v) fl

end Sys2Proof.Machine
end

