-- ==== Sys2Proof/Machine/Order.lean ====
section
/-! DEFINITION. Release, acquire and fence at a scope, as every instruction and event that carries one
performs them (R112, R118 to R121, R128). -/

namespace Sys2Proof.Machine

/-- Core and cluster scope act on no home (R112). -/
def scopeActs : Scope → Bool
  | .co | .cl => false
  | .die | .dev | .sys => true

/-- A scope covers the homes of a die, for an agent on a die (R112). -/
def scopeCovers (sc : Scope) (mine home : Nat) : Bool :=
  match sc with
  | .co | .cl => false
  | .die => mine = home
  | .dev | .sys => true

/-- A D extent of a strand slot on a page kind that a scope's release writes through (R118, R121). -/
def relSelects (c p : Nat) (sc : Scope) (kind : PKind) (e : CExt) : Bool :=
  match e.st with
  | .d t _ => t = slotOf c p && e.leaf.kind = kind && scopeCovers sc (dieOf c) e.leaf.home
  | _ => false

/-- A D extent of a strand slot that is owed to a RELL word (R120). -/
def owedSelects (c p : Nat) (e : CExt) : Bool :=
  match e.st with
  | .d t o => t = slotOf c p && o.isSome
  | _ => false

/-- What a release at a scope writes through: the strand's extents within the scope, and everything owed to
its RELL word (R118, R120). -/
def relAll (c p : Nat) (sc : Scope) (e : CExt) : Bool :=
  relSelects c p sc .release e || (scopeActs sc && owedSelects c p e)

/-- REL at a scope: the write-through, and the end of RELL ownership (R118, R120). -/
def State.release (s : State) (c p : Nat) (sc : Scope) : State :=
  if scopeActs sc then (s.throughAll (clusterOf c) (relAll c p sc)).unown c p else s

/-- A release would write bytes that a region holds, or a unit that the host holds, or finds no room for them at
their homes: it waits (R361, R130, R99). -/
def State.relBlocked (s : State) (c p : Nat) (sc : Scope) : Bool :=
  (s.cluster (clusterOf c)).cache.any (fun e => relAll c p sc e && s.owesBlocked e) ||
  (s.release c p sc).short = some none

/-- A release needs a frame where the pool is empty: the slice (R107). -/
def State.relOver (s : State) (c p : Nat) (sc : Scope) : Option Nat := (s.release c p sc).short.join

/-- Replies under way to a cluster whose bytes a test selects will not be cached (R132, R94, R304). -/
def State.unkeep (s : State) (cl : Nat) (f : HReq → Bool) : State := s.unkeepAll fun k r => k = cl && f r

/-- ACQ at a scope: the cluster's C extents on writable release pages within it are dropped (R118). -/
def State.acquire (s : State) (c : Nat) (sc : Scope) : State :=
  if scopeActs sc then
    let sel (l : Leaf) : Bool := l.kind = .release && l.write && scopeCovers sc (dieOf c) l.home
    (s.dropAll (clusterOf c) fun e => sel e.leaf).unkeep (clusterOf c) fun r => sel r.leaf
  else s

def fenceSelects (c p : Nat) (sc : Scope) (e : CExt) : Bool := relSelects c p sc .unordered e

/-- The four steps of a FENCE at .die or wider (R121). -/
def State.fenceActs (s : State) (c p : Nat) (sc : Scope) : State :=
  if scopeActs sc then
    let s := s.throughAll (clusterOf c) (fenceSelects c p sc)
    let s := s.release c p sc
    let sel (l : Leaf) : Bool := l.kind = .unordered && l.write && scopeCovers sc (dieOf c) l.home
    let s := (s.dropAll (clusterOf c) fun e => sel e.leaf).unkeep (clusterOf c) fun r => sel r.leaf
    s.acquire c sc
  else s

def State.fenceBlocked (s : State) (c p : Nat) (sc : Scope) : Bool :=
  (s.cluster (clusterOf c)).cache.any (fun e => (relAll c p sc e || fenceSelects c p sc e) && s.owesBlocked e) ||
  (s.fenceActs c p sc).short = some none

/-- Every D byte of a strand slot written through, whatever the page kind: what migration, pre-emption and
purge do (R120, R132). -/
def State.releaseAll (s : State) (c p : Nat) : State :=
  let s := s.throughAll (clusterOf c) fun e => match e.st with | .d t _ => t = slotOf c p | _ => false
  s.unown c p

/-- That would write bytes that a region or the host holds. -/
def State.releaseHeld (s : State) (c p : Nat) : Bool :=
  (s.cluster (clusterOf c)).cache.any fun e =>
    (match e.st with | .d t _ => t = slotOf c p | _ => false) && s.owesBlocked e

end Sys2Proof.Machine
end

