-- ==== Sys2Proof/Machine/SideLog.lean ====
section
/-! DEFINITION. Operations in flight of a party, their completion, and the cluster's side log (R113, R165 to
R167, R125). -/

namespace Sys2Proof.Machine

/-- A word of a record. -/
def word (l : List Word) (j : Nat) : Word := l.getD j 0

/-! Operations in flight -/

def State.opOf (s : State) (c p : Nat) : Option Op :=
  if p = 6 then (s.porter c).op else (s.strand c p).op

def State.setOp (s : State) (c p : Nat) (o : Option Op) : State :=
  if p = 6 then s.setPorter c { s.porter c with op := o }
  else s.setStrand c p { s.strand c p with op := o }

def State.waitOf (s : State) (c p : Nat) : Wait :=
  if p = 6 then (s.porter c).wait else (s.strand c p).wait

/-- Whether a party's entry is a landlord entry. -/
def State.isLandlord (s : State) (c p : Nat) : Bool :=
  p = 6 && match (s.porter c).cur with | some e => e.landlord | none => false

/-- The virtual device of a party. -/
def State.vdOf (s : State) (c p : Nat) : Nat :=
  if s.isLandlord c p then landlordVd else (s.ctx (clusterOf c) (s.tagOf c p)).img.vd

/-- The GTI of a party: a porter entry's is that of the strand it serves. -/
def State.gtiOf (s : State) (c p : Nat) : BitVec 32 :=
  if p = 6 then
    match (s.porter c).cur with
    | some ⟨.trap q, _, _, _⟩ => (s.strand c q).gti
    | _ => 0
  else (s.strand c p).gti

/-- The access of a party completes: its channel sources are taken, its effects are written, the next
instruction is reached, and the party re-enters the rotation (R43, R113, R325). Words for a core that is saved have
to wait: the state is short (R327). -/
def State.complete (s : State) (c p : Nat) (l : List Eff) : State :=
  if s.chShut c l then { s with short := some none }
  else
  let srcs := match s.opOf c p with | some o => o.chSrc | none => []
  let vd := s.vdOf c p
  (((s.setOp c p none).chTake c vd srcs).retireOf c p l).unpark c p

/-- The access of a party ends with a trap: it releases what it held (R325). -/
def State.failOp (s : State) (c p : Nat) (t : TrapInfo) : State := (s.setOp c p none).takeTrapOf c p t

/-- The instruction of a party waits and reissues. -/
def State.retryLater (s : State) (c p : Nat) (w : Wait) : State :=
  (s.setOp c p none).park c p .waitMem w

/-- A destination that cannot take a result raises POISON instead (R168). -/
def State.completeWith (s : State) (c p : Nat) (r : Except TrapInfo (List Eff)) : State :=
  match r with
  | .ok l => s.complete c p l
  | .error t => s.failOp c p t

/-! The side log (R166) -/

def logFree (k : Cluster) : Nat := 64 - k.log.length

def logSlot (k : Cluster) : Option Nat := (List.range 64).find? fun i => (mapGet? k.log i).isNone

/-- A strand's own entries. -/
def State.ownEntries (s : State) (c p : Nat) : List (Nat × LogEntry) :=
  (s.cluster (clusterOf c)).log.filter fun e =>
    e.2.core = c && e.2.pos = p && (p = 6 || e.2.gti = (s.strand c p).gti)

/-- A strand has an entry of its own that awaits replay (R125). -/
def State.hasEntries (s : State) (c p : Nat) : Bool := !(s.ownEntries c p).isEmpty

/-- A strand's own logged bytes overlap a range (R125). -/
def State.entriesOverlap (s : State) (c p dva n : Nat) : Bool :=
  (s.ownEntries c p).any fun e => overlaps e.2.dva e.2.data.length dva n

/-- Add an entry: the notice goes to the issuing core's porter, and the core's event counts (R166, R167,
R318). The state is unchanged when no entry is free. -/
def State.addLog (s : State) (c p : Nat) (act : GAct) (dva : Nat) (data : List PByte) (sub : Nat)
    (gti : BitVec 32) (tag : BitVec 4) (landlord : Bool) : State :=
  let cl := clusterOf c
  let k := s.cluster cl
  match logSlot k with
  | none => s
  | some i =>
    let (u, s) := s.fresh
    let e : LogEntry := ⟨gti, c, p, tag, landlord, act, dva, data, sub, none, u⟩
    let s := s.setCluster cl { k with log := mapPut k.log i e }
    let s := s.bump c 0x0B (s.ctx cl tag.toNat).img.vd 1
    let q := s.porter c
    s.setPorter c { q with queue := q.queue ++ [.notice i] }

/-- Add an entry for a piece of a party's own access. -/
def State.addOwn (s : State) (c p : Nat) (act : GAct) (dva : Nat) (data : List PByte) (sub : Nat) : State :=
  s.addLog c p act dva data sub (s.gtiOf c p) (BitVec.ofNat 4 (s.tagOf c p)) (s.isLandlord c p)

/-- A store to host memory or a peer's. -/
def State.farPut (s : State) (pa : Nat) (data : List PByte) : State :=
  if paSpace pa = 1 then { s with hostMem := putBytes s.hostMem pa (data.map (·.v)) }
  else if paSpace pa = 2 then { s with peerMem := putBytes s.peerMem pa (data.map (·.v)) }
  else s

/-! Completion words (R374) -/

/-- The value that a completion word and JWAIT, JPOLL and JCANCEL give. -/
def Job.value (j : Job) : Word :=
  let n := if (word j.card 0).extractLsb' 0 8 = 3 then j.count else j.retired
  let st := if j.st = .waiting || j.st = .running then 0 else j.status
  BitVec.ofNat 64 (min j.exc 0xFFFF * 2 ^ 48 + n % 2 ^ 32 * 2 ^ 16 + st)

/-- Write a completion word of a job, or log the write; none while it has to wait: for a free entry, for a word that a
region or the host holds, for room, or for its register in control space (R314, R374). -/
def State.cwPut (s : State) (cl i : Nat) (v : Word) : Option State :=
  let j := mapGet Job.init (s.cluster cl).jobs i
  let cw := (word j.card 1).toNat
  match s.translate j.core cl j.tag.toNat false .store cw with
  | (.ok l, s) =>
    let (sp, a) := keyOf l j.vd cw
    let b := natBytes 8 v.toNat
    if !l.near then (if paSpace a = 15 then none else some (s.farPut a b))
    else if s.blocked sp l a 8 true then none
    else
      let t := s.portStore cl j.vd sp l a b
      if t.short.isSome then none else some t
  | (.error n, s) =>
    if s.short.isSome || logFree (s.cluster cl) = 0 then none
    else some (s.addLog j.core j.pos .store cw (natBytes 8 v.toNat) n j.gti j.tag false)

/-- The completion words that a job has still to write. -/
def State.setCw (s : State) (cl i : Nat) (l : List Word) : State :=
  s.setCluster cl { s.cluster cl with
    jobs := mapPut (s.cluster cl).jobs i { mapGet Job.init (s.cluster cl).jobs i with cwWait := l } }

/-- Write the words that a job owes, in order, as far as they need not wait. -/
def State.cwDrain (s : State) (cl i : Nat) : List Word → State
  | [] => s.setCw cl i []
  | v :: t =>
    match s.cwPut cl i v with
    | some s => s.cwDrain cl i t
    | none => s.setCw cl i (v :: t)

/-- A job writes its completion word as its value stands now (R374). -/
def State.cwWrite (s : State) (cl i : Nat) : State :=
  let j := mapGet Job.init (s.cluster cl).jobs i
  if (word j.card 0).getLsbD 8 then s.cwDrain cl i (j.cwWait ++ [j.value]) else s

/-- The pieces of an operation that failed their re-translation after a MOVED refusal (R165). -/
def Op.refused (o : Op) : List Piece := o.pieces.filter fun q => q.sub ≠ 0

/-- A JOIN has its result: D, or for the JOIN of TEXIT and HALT the mark that it is done (R340, R341). -/
def State.joinDone (s : State) (c p : Nat) (d : Option POp) (b : Bool) : State :=
  match d with
  | some d => s.complete c p (putP d b)
  | none =>
    let s := s.setOp c p none
    (s.setStrand c p { s.strand c p with joined := true }).relook c p

/-- Everything of a logged access has performed or stands in the log: a JOIN writes 1 (R340). -/
def State.loggedDone (s : State) (c p : Nat) (a : GAct) : State :=
  match a with
  | .join d => s.joinDone c p d true
  | _ => s.complete c p []

/-- Log what re-translation refused of an operation, as far as entries are free; the operation completes when
nothing is left of it (R165). -/
def State.logRefused (s : State) (c p : Nat) : State :=
  match s.opOf c p with
  | none => s
  | some o =>
    let r := o.refused.foldl (fun (x : State × List Piece) q =>
      if logFree (x.1.cluster (clusterOf c)) = 0 then (x.1, x.2 ++ [q])
      else (x.1.addOwn c p o.act q.dva ((o.data.drop (q.dva - o.dva)).take q.len) q.sub, x.2)) (s, [])
    let s := r.1
    let o := { o with pieces := o.pieces.filter (fun q => q.sub = 0) ++ r.2 }
    if r.2.isEmpty && o.left = 0 then s.loggedDone c p o.act
    else if r.2.isEmpty then s.setOp c p (some o)
    else (s.setOp c p (some o)).park c p .waitMem .entry

/-- An entry of a cluster is free: instructions that wait for their own entries look again, and refused
pieces and completion words are logged (R125, R165, R374). -/
def State.logFreed (s : State) (cl : Nat) : State :=
  let s := s.wakeWaits fun c w => clusterOf c = cl && w = .sidelog
  let s := (s.cluster cl).jobs.foldl (fun s e => if e.2.cwWait.isEmpty then s else s.cwDrain cl e.1 e.2.cwWait) s
  s.cores.foldl (fun s e =>
    if clusterOf e.1 = cl then
      (List.range 7).foldl (fun s p => if s.waitOf e.1 p = .entry then s.logRefused e.1 p else s) s
    else s) s

/-- Free an entry; a notice of it that waits is withdrawn. -/
def State.freeLog (s : State) (cl i : Nat) : State :=
  let k := s.cluster cl
  match mapGet? k.log i with
  | none => s
  | some e =>
    let s := s.setCluster cl { k with log := mapDel k.log i }
    let q := s.porter e.core
    let s := s.setPorter e.core { q with queue := q.queue.filter fun x => x ≠ .notice i }
    s.logFreed cl

end Sys2Proof.Machine
end

