-- ==== Sys2Proof/Machine/Tasks.lean ====
section
/-! DEFINITION. Contexts, task queues, the start and end of strands, barrier units, join counters and launch
records (R53 to R66, R69 to R71, R335, R340, R342). -/

namespace Sys2Proof.Machine

/-! Contexts (R69, R70) -/

/-- The same virtual device, address-space id and code image (R68, R331). -/
def CtxImage.same (a b : CtxImage) : Bool := a.vd = b.vd && a.asid = b.asid && a.image = b.image

/-- The lowest tag of a cluster whose context matches. -/
def State.findCtx (s : State) (cl : Nat) (img : CtxImage) : Option Nat :=
  (List.range 16).find? fun t => (s.ctx cl t).loaded && (s.ctx cl t).img.same img

/-- The lowest tag of a cluster whose context has a virtual device and address-space id (R333). -/
def State.findSpace (s : State) (cl vd asid : Nat) : Option Nat :=
  (List.range 16).find? fun t => (s.ctx cl t).loaded && (s.ctx cl t).img.vd = vd && (s.ctx cl t).img.asid = asid

/-- The cores of a cluster. -/
def coresOf (cl : Nat) : List Nat := (List.range 16).map (16 * cl + ·)

/-- A job of a slot is unfinished (R371). -/
def Job.unfinished (j : Job) : Bool := j.st = .waiting || j.st = .running || j.st = .stopped

def EntryKind.usesTag (s : State) (c t : Nat) : EntryKind → Bool
  | .trap p => (s.strand c p).tag.toNat = t
  | .notice i => match mapGet? (s.cluster (clusterOf c)).log i with | some e => e.tag.toNat = t | none => false
  | .death g _ _ => g.toNat = t
  | .lost g _ => g.toNat = t
  | _ => false

/-- What pre-emption took off a core carries a tag (R70). -/
def SavedCore.usesTag (s : State) (c t : Nat) (v : SavedCore) : Bool :=
  let entries (cur : Option Entry) (stack : List Entry) (queue : List EntryKind) : Bool :=
    cur.any (fun e => e.tag.toNat = t) || (stack.any fun e => e.tag.toNat = t) || queue.any (EntryKind.usesTag s c t)
  v.tag.toNat = t || entries v.cur v.stack v.queue ||
  v.msgs.any (fun m => m.any fun m => m.tag.toNat = t) ||
  v.outer.any fun h => entries h.cur h.stack h.queue

/-- Some item of a cluster carries a tag (R69, R70). -/
def State.tagInUse (s : State) (cl t : Nat) : Bool :=
  let k := s.cluster cl
  (coresOf cl).any (fun c =>
    ((List.range 6).any fun p =>
      let x := s.strand c p
      x.tag.toNat = t && (x.st ≠ .idle || x.member ≠ .none)) ||
    (match (s.porter c).cur with | some e => e.tag.toNat = t | none => false) ||
    ((s.porter c).stack.any fun e => e.tag.toNat = t) ||
    ((s.porter c).queue.any (EntryKind.usesTag s c t)) ||
    ((s.porter c).msgs.any fun m => m.tag.toNat = t) ||
    (match (s.core c).saved with | some v => v.usesTag s c t | none => false)) ||
  (k.queue.any fun e => e.tag.toNat = t) || (k.spill.any fun e => e.tag.toNat = t) ||
  (k.jobs.any fun e => e.2.tag.toNat = t && e.2.unfinished) || (k.log.any fun e => e.2.tag.toNat = t)

/-- A keeper set as the loading of a context leaves it (R46). -/
def keeperSet (img : CtxImage) : RegSet := { RegSet.zero with g := img.tmpl }

/-- A context is used now (R70). -/
def State.useCtx (s : State) (cl t : Nat) : State :=
  let (u, s) := s.fresh
  s.setCtx cl t { s.ctx cl t with used := u }

/-- Fill a slot with a context: its registers, and the keeper set of every porter of the cluster, saved ones among
them (R46). -/
def State.fillCtx (s : State) (cl t : Nat) (img : CtxImage) : State :=
  let (u, s) := s.fresh
  let s := s.setCtx cl t { Ctx.init with
    loaded := true, img := img, root := BitVec.ofNat 64 img.root, used := u }
  let s := (coresOf cl).foldl (fun s c =>
    let k := s.core c
    s.setCore c { k with
      porter := { k.porter with keepers := mapPut k.porter.keepers t (keeperSet img) }
      saved := k.saved.map fun v => { v with keepers := mapPut v.keepers t (keeperSet img) } }) s
  -- notices that waited for the context on this die (R172)
  let d := s.die (dieOfCluster cl)
  let mine := d.deaths.filter fun e => e.1.same img
  let s := s.setDie (dieOfCluster cl) { d with deaths := d.deaths.filter fun e => !e.1.same img }
  let q := s.porter (16 * cl)
  s.setPorter (16 * cl)
    { q with queue := q.queue ++ mine.map fun e => .death (BitVec.ofNat 4 t) e.2.1 e.2.2 }

/-- Load a context on a cluster: its present tag, else a free slot, else that of the least recently used
context that nothing carries (R70); none when no slot qualifies. -/
def State.loadCtx (s : State) (cl : Nat) (img : CtxImage) : Option (Nat × State) :=
  match s.findCtx cl img with
  | some t => some (t, s.useCtx cl t)
  | none =>
    match (List.range 16).find? fun t => !(s.ctx cl t).loaded with
    | some t => some (t, s.fillCtx cl t img)
    | none =>
      let l := (List.range 16).filter fun t => !s.tagInUse cl t
      match l.foldl (fun (b : Option Nat) t =>
        match b with
        | none => some t
        | some x => if (s.ctx cl t).used < (s.ctx cl x).used then some t else some x) none with
      | some t => some (t, s.fillCtx cl t img)
      | none => none

/-! Identity (R71) -/

/-- The next GTI of a virtual device on a die; its counters start at 1 (log 4). -/
def State.newGti (s : State) (d vd : Nat) : BitVec 32 × State :=
  let x := s.die d
  let n := mapGet 1 x.serial vd
  (BitVec.ofNat 32 (vd % 64 * 2 ^ 26 + d * 2 ^ 23 + n),
    s.setDie d { x with serial := mapPut x.serial vd ((n + 1) % 2 ^ 23) })

/-! Task records and queues (R60 to R63) -/

/-- A queue entry from a record, with its context tag replaced (R60, R339). -/
def taskOf (l : List Word) (tag : BitVec 4) (gti parent : BitVec 32) (time : Nat) : Task where
  prio := ((word l 0).extractLsb' 60 2).toNat
  since := time
  tag := tag
  pc := (word l 0).extractLsb' 0 24
  frame := word l 1
  join := word l 2
  arg := word l 3
  gti := gti
  parent := parent
  time := time

/-- Free entries of the hardware queue, but for the four that a waiting steal reserves (R61, R67). -/
def queueRoom (k : Cluster) : Nat :=
  128 - k.queue.length - 4 * (k.steal.filter fun e => e.2.waiting).length

/-- The 64 bytes of a spilled entry (R61). -/
def spillBytes (t : Task) : List PByte :=
  let dw0 := t.prio * 2 ^ 60 + t.tag.toNat * 2 ^ 56 + t.pc.toNat
  (natBytes 8 dw0 ++ natBytes 8 t.frame.toNat ++ natBytes 8 t.join.toNat ++ natBytes 8 t.arg.toNat ++
    natBytes 4 t.gti.toNat ++ natBytes 4 t.parent.toNat ++ natBytes 8 t.time ++ natBytes 16 0)

/-- The lowest place of a tag's spill region that holds no entry (R61). -/
def freeCell (k : Cluster) (tag : BitVec 4) (cap : Nat) : Option Nat :=
  (List.range cap).find? fun i => !k.spill.any fun e => e.tag = tag && e.cell = i

/-- Place a record in a cluster's queue, or in its spill region; none when both are full (R62). A region whose base
is 0, or that does not translate, holds nothing (log 102). -/
def State.enqueue (s : State) (cl : Nat) (t : Task) : Option State :=
  let k := s.cluster cl
  if k.spill.isEmpty && 0 < queueRoom k then
    -- a record that arrives ends a steal round's wait at once (R67)
    some ((s.setCluster cl { k with
      queue := k.queue ++ [t], steal := k.steal.map fun e => (e.1, { e.2 with retryAt := none }) }).useCtx cl t.tag.toNat)
  else
    let x := s.ctx cl t.tag.toNat
    if x.spillbase = 0 then none
    else
      match freeCell k t.tag (x.spillcap.extractLsb' 0 16).toNat with
      | none => none
      | some i =>
        (s.writeDva (16 * cl) cl t.tag.toNat (x.spillbase.toNat + 64 * i) (spillBytes t)).map fun s =>
          let k := s.cluster cl
          (s.setCluster cl { k with spill := k.spill ++ [{ t with cell := i }] }).useCtx cl t.tag.toNat

/-- Whether a record could be placed now. -/
def State.canEnqueue (s : State) (cl : Nat) (t : Task) : Bool := (s.enqueue cl t).isSome

/-- Enqueue a continuation record on a cluster under a tag: a new GTI of the cluster's die, a parent (R66,
R340); none when there is no room. -/
def State.enqueueCont (s : State) (cl : Nat) (tag : BitVec 4) (parent : BitVec 32) (l : List Word)
    (host : Option (Nat × Nat) := none) : Option State :=
  let vd := (s.ctx cl tag.toNat).img.vd
  let (g, s) := s.newGti (dieOfCluster cl) vd
  s.enqueue cl { taskOf l tag g parent s.cycle with host := host }

/-- The continuation that a JOIN waiting for a queue entry holds (R340). -/
def Op.cont (o : Op) : List Word :=
  (List.range 4).map fun j => BitVec.ofNat 64 (leNat ((List.range 8).map fun b => (mapGet ⟨0, false⟩ o.got (8 * j + b)).v))

/-- A JOIN of a strand places its continuation, or waits in WAIT_MEM for an entry (R340). -/
def State.joinPlace (s : State) (c p : Nat) : State :=
  match s.opOf c p with
  | none => s
  | some o =>
    let x := s.strand c p
    match o.act with
    | .join d =>
      match s.enqueueCont (clusterOf c) x.tag x.gti o.cont with
      | some s => s.joinDone c p d true
      | none => s.park c p .waitMem .queue
    | _ => s

/-- A queue entry of a cluster is free: a JOIN that waits for one places its record. -/
def State.queueFreed (s : State) (cl : Nat) : State :=
  (coresOf cl).foldl (fun s c =>
    (List.range 6).foldl (fun s p =>
      if s.waitOf c p = .queue then
        let t := s.joinPlace c p
        if t.short.isSome then s else t
      else s) s) s

/-- The entry that a pool strand of a virtual device pops: by priority, the oldest first (R63). -/
def popChoice (ok : Task → Bool) : Nat → List Task → Option Task
  | 0, _ => none
  | n + 1, l =>
    let q := 4 - (n + 1)
    match (l.filter fun t => t.prio = q && ok t).foldl (fun (b : Option Task) t =>
      match b with
      | none => some t
      | some x => if t.time < x.time then some t else some x) none with
    | some t => some t
    | none => popChoice ok n l

/-- An entry's context is one of a virtual device. -/
def State.taskOk (s : State) (cl vd : Nat) (t : Task) : Bool :=
  (s.ctx cl t.tag.toNat).loaded && (s.ctx cl t.tag.toNat).img.vd = vd

/-! Stops by GTI (R317) -/

/-- A die's stop list names a strand: it is stopped before its first instruction. -/
def State.stopIfListed (s : State) (c p : Nat) : State :=
  let x := s.strand c p
  if (s.die (dieOf c)).stops.contains x.gti && x.st = .run then
    let s := s.setSt c p .stopped
    s.setStrand c p { s.strand c p with stopBy := .sstop, left := .run, leftWait := .none }
  else s

/-! Start and end (R55, R64, R57, R58, R65) -/

/-- Put a strand to work: its registers, and the acquire at .dev of every start (R128). -/
def State.startStrand (s : State) (c p : Nat) (x : Strand) : State :=
  let old := s.strand c p
  let s := s.setStrand c p { x with st := old.st }
  let s := (s.acquire c .dev).useCtx (clusterOf c) x.tag.toNat
  let s := s.setSt c p .run
  (s.enterLine c p).stopIfListed c p

/-- What every start leaves of a strand, but for what the start gives (R55, R64, R329, R73, R335). -/
def Strand.started (x : Strand) (regs : RegSet) (gti parent : BitVec 32) (tag : BitVec 4) (m : Member)
    (join : Word) : Strand :=
  { Strand.init with
    regs := regs, gti := gti, parent := parent, tag := tag, member := m, join := join
    notBefore := x.notBefore }

/-- Start a task on a pool strand (R64). The top of its window is the address past its last byte: the model's choice
(log 118). -/
def State.startTask (s : State) (c p : Nat) (t : Task) : State :=
  let x := s.strand c p
  let img := (s.ctx (clusterOf c) t.tag.toNat).img
  let r : RegSet := { RegSet.zero with g := img.tmpl, pc := t.pc }
  let r := r.setS 3 ⟨t.frame, false⟩
  let r := r.setS 4 ⟨t.join, false⟩
  let r := r.setS 5 ⟨t.arg, false⟩
  let r := r.setS 2 ⟨BitVec.ofNat 64 (0x5000 + 512 * p + 512), false⟩
  s.startStrand c p { x.started r t.gti t.parent t.tag x.member t.join with host := t.host }

/-- One strand of a launch has ended, on a cluster. -/
def State.launchLess (s : State) (n cl : Nat) : State :=
  match mapGet? s.porch.launches n with
  | none => s
  | some l =>
    { s with porch := { s.porch with
      launches := mapPut s.porch.launches n { l with live := l.live - 1, lastCluster := cl } } }

/-! Barrier units (R335, R336) -/

/-- The barrier unit of a crew member on its cluster. -/
def State.unitOf (s : State) (c p : Nat) : Option (Nat × BarUnit) :=
  match (s.strand c p).member with
  | .crew l b _ _ => (s.cluster (clusterOf c)).bars.find? fun e => e.2.used && e.2.launch = l && e.2.band = b
  | _ => none

def State.setUnit (s : State) (cl i : Nat) (u : BarUnit) : State :=
  s.setCluster cl { s.cluster cl with bars := mapPut (s.cluster cl).bars i u }

/-- Complete the crew phase when all live members have arrived (R335). -/
def BarUnit.settle (u : BarUnit) : BarUnit :=
  if u.count = u.live && 0 < u.live then { u with phase := !u.phase, count := 0 } else u

/-- All live members have arrived at the band phase. -/
def BarUnit.bandFull (u : BarUnit) : Bool := u.bandCount = u.live && 0 < u.live

/-- A crew member leaves its unit: what remains may complete the phase; the unit is free when its last member has
left (R335). -/
def State.leaveUnit (s : State) (c p : Nat) : State :=
  match s.unitOf c p with
  | none => s
  | some (i, u) =>
    let x := s.strand c p
    let u := { u with
      live := u.live - 1
      count := if x.gen ≠ u.phase then u.count - 1 else u.count
      bandCount := if x.bandArrived then u.bandCount - 1 else u.bandCount }
    s.setUnit (clusterOf c) i (if u.live = 0 then BarUnit.init else u.settle)

/-- Strands of a band that live. -/
def State.bandLives (s : State) (l b : Nat) : Bool :=
  s.cores.any fun e => e.2.strands.any fun y =>
    match y.2.member with
    | .crew l' b' _ _ => l' = l && b' = b
    | _ => false

/-- A die's band token is given back when the band's last strand has ended (R54). -/
def State.freeToken (s : State) (c l b : Nat) : State :=
  if s.bandLives l b then s
  else
    let d := s.die (dieOf c)
    s.setDie (dieOf c) { d with bands := d.bands.filter fun e => !(e.2.launch = l && e.2.band = b) }

/-- A strand's work ends: IDLE, and its launch counts it out when it belongs to none any more. A task of a
pool strand that stays leaves only the task (R57, R58, R65). -/
def State.endStrand (s : State) (c p : Nat) (leave : Bool) : State :=
  let x := s.strand c p
  let s := s.leaveUnit c p
  let s := s.setSt c p .idle
  let s := s.setStrand c p { s.strand c p with
    wait := .none, op := none, line := none, guard := none, region := none, stopPending := false
    stopBy := .none, fault := ⟨0, 0, 0, 0, 0⟩, bandArrived := false, dying := none
    idleSince := s.cycle, member := if leave then .none else x.member }
  match x.member with
  | .crew l b _ _ => if leave then (s.launchLess l (clusterOf c)).freeToken c l b else s
  | .pool l => if leave then s.launchLess l (clusterOf c) else s
  | .none => s

/-! Join counters (R66, R340) -/

/-- What a JOIN at a counter's home gives: count 0, poison, or the decrement and the record to enqueue. -/
inductive JoinRes where
  | zero (s : State)
  | poison (s : State)
  | done (s : State) (cont : Option (List Word))

/-- A JOIN of a cluster performed at the home of its counter, whatever the page kind; what it reads fills there (R98,
R340). -/
def State.joinAt (s : State) (cl : Nat) (sp : ASpace) (l : Leaf) (vd a : Nat) : JoinRes :=
  let s := s.fillRange sp l vd a 8
  let w := s.homeWord sp l a
  if w.p then .poison s
  else
    let n := (w.v.extractLsb' 0 32).toNat
    if n = 0 then .zero s
    else
      let (b, s) := if n = 1 then s.readHomes cl sp l (a + 8) 32 vd else ([], s)
      if anyPoison b then .poison s
      else
        let v : Word := w.v.extractLsb' 32 32 ++ BitVec.ofNat 32 (n - 1)
        let s := (s.writeHomes cl sp l vd a (natBytes 8 v.toNat)).staleOut cl sp l a 8
        .done s (if n = 1 then
          some ((List.range 4).map fun j => BitVec.ofNat 64 (bytesNat ((b.drop (8 * j)).take 8))) else none)

/-! Launch records (R342, R343) -/

def lVd (l : List Word) : Nat := ((word l 0).extractLsb' 48 6).toNat
def lNamed (l : List Word) : Bool := (word l 0).getLsbD 59
def lDie (l : List Word) : Nat := ((word l 0).extractLsb' 56 3).toNat
/-- Crews per band. -/
def lBand (l : List Word) : Nat := ((word l 0).extractLsb' 40 5).toNat + 1
def lStrands (l : List Word) : Nat := ((word l 0).extractLsb' 36 3).toNat
def lCores (l : List Word) : Nat := ((word l 0).extractLsb' 32 4).toNat + 1
def lPrio (l : List Word) : Nat := ((word l 0).extractLsb' 26 2).toNat
def lPool (l : List Word) : Bool := (word l 0).extractLsb' 24 2 = 2
def lPc (l : List Word) : Pc := (word l 0).extractLsb' 0 24
def lIdle (l : List Word) : Nat := ((word l 1).extractLsb' 32 32).toNat
def lFirst (l : List Word) : Nat := ((word l 1).extractLsb' 16 9).toNat
/-- Total crews, or a pool's clusters. -/
def lCrews (l : List Word) : Nat := ((word l 1).extractLsb' 0 12).toNat + 1
def lJoin (l : List Word) : Word := word l 2
def lArg (l : List Word) : Word := word l 3

/-- Status 2 of R343: the record is invalid. -/
def lInvalid (l : List Word) : Bool :=
  let w := word l 0
  let x := word l 1
  let kind := (w.extractLsb' 24 2).toNat
  let pool := kind = 2
  w.extractLsb' 60 4 ≠ 0 || w.extractLsb' 54 2 ≠ 0 || w.extractLsb' 45 3 ≠ 0 || w.getLsbD 39 ||
  w.extractLsb' 28 4 ≠ 0 || x.extractLsb' 25 7 ≠ 0 || x.extractLsb' 12 4 ≠ 0 ||
  (List.range 4).any (fun j => word l (4 + j) ≠ 0) || kind = 0 || kind = 3 ||
  (!pool && x.extractLsb' 16 9 ≠ 0) || lStrands l = 0 || lStrands l = 7 ||
  (!pool && lCrews l % lBand l ≠ 0) || (pool && (lBand l ≠ 1 || 512 < lFirst l + lCrews l))

/-- Put a record on the queue that applies; none when it is full (R343, R394). -/
def State.launchEnqueue (s : State) (l : List Word) (parent : BitVec 32) (img : CtxImage)
    (host : Option (Nat × Nat)) : Option State :=
  let r : LRec := ⟨l, parent, img, host, none, 0⟩
  if lNamed l then
    let d := s.die (lDie l)
    let q := mapGet [] d.launchQ (lVd l)
    if 16 ≤ q.length then none
    else some (s.setDie (lDie l) { d with launchQ := mapPut d.launchQ (lVd l) (q ++ [r]) })
  else
    let q := mapGet [] s.porch.anyQ (lVd l)
    if 16 ≤ q.length then none
    else some { s with porch := { s.porch with anyQ := mapPut s.porch.anyQ (lVd l) (q ++ [r]) } }

end Sys2Proof.Machine
end

