-- ==== Sys2Proof/Machine/JobOps.lean ====
section
/-! DEFINITION. Sequencer slots: footprints, edges, the end of a job and what follows from it (R370, R371,
R374 to R376, R385). -/

namespace Sys2Proof.Machine

def State.job (s : State) (cl i : Nat) : Job := mapGet Job.init (s.cluster cl).jobs i
def State.setJob (s : State) (cl i : Nat) (j : Job) : State :=
  s.setCluster cl { s.cluster cl with jobs := mapPut (s.cluster cl).jobs i j }

def Job.finishedSt (j : Job) : Bool :=
  j.st = .done || j.st = .error || j.st = .cancelled || j.st = .predecessor

/-- Kind of a card: 1 MATMUL, 2 COPY, 3 GATHER, 4 CELLAR (R372). -/
def cardKind (c : List Word) : Nat := ((word c 0).extractLsb' 0 8).toNat

/-- Footprint `f` of a card: base, length, read, write (R372). -/
def footprint (c : List Word) (f : Nat) : Nat × Nat × Bool × Bool :=
  let w := word c (3 + 2 * f)
  ((word c (2 + 2 * f)).toNat, (w.extractLsb' 0 40).toNat, w.getLsbD 62, w.getLsbD 63)

def footprints (c : List Word) : List (Nat × Nat × Bool × Bool) := (List.range 4).map (footprint c)

/-- Two cards conflict: footprints share a byte and one of the two writes (R376). -/
def cardsConflict (c d : List Word) : Bool :=
  (footprints c).any fun x => (footprints d).any fun y =>
    overlaps x.1 x.2.1 y.1 y.2.1 && (x.2.2.1 || x.2.2.2) && (y.2.2.1 || y.2.2.2) && (x.2.2.2 || y.2.2.2)

/-- A job of a cluster ends or stops: its completion word is written, those that wait for it look again, and
its dependants lose an edge or finish with PREDECESSOR (R374, R376, R386). `fuel` bounds the chain. -/
def State.jobEnd (s : State) (cl i : Nat) (st : JobState) (status : Nat) : Nat → State
  | 0 => s
  | fuel + 1 =>
    let j := s.job cl i
    let (u, s) := s.fresh
    let s := s.setJob cl i { j with
      st := st, status := status, ending := none, delivered := false
      finished := if st = .stopped then j.finished else u + 1 }
    let s := s.cwWrite cl i
    let s := s.wakeWaits fun c w => w = .jobs || (clusterOf c = cl && (w = .jwait || w = .jobSlot))
    if st = .stopped then s
    else
      (s.cluster cl).jobs.foldl (fun s e =>
        let k := s.job cl e.1
        if k.st = .waiting && k.preds.contains i then
          if st = .done then
            let (u, s) := s.fresh
            let l := k.preds.filter (· ≠ i)
            s.setJob cl e.1 { k with preds := l, ready := if l.isEmpty then u else k.ready }
          else s.jobEnd cl e.1 .predecessor 0x8006 fuel
        else s) s

/-- Cancel an unfinished job (R385). -/
def State.jobCancel (s : State) (cl i : Nat) : State :=
  if (s.job cl i).unfinished then s.jobEnd cl i .cancelled 0x8001 65 else s

/-- The slots of a cluster whose jobs a GTI issued and that are unfinished. -/
def State.jobsOfGti (s : State) (cl : Nat) (g : BitVec 32) : List Nat :=
  ((s.cluster cl).jobs.filter fun e => e.2.gti = g && e.2.unfinished).map (·.1)

/-- The slot that a JOB takes: the one whose job finished longest ago and whose completion word is written, else the
lowest never used (R374, R390). -/
def freeJobSlot (k : Cluster) : Option Nat :=
  match (k.jobs.filter fun e => e.2.finishedSt && e.2.cwWait.isEmpty).foldl (fun (b : Option (Nat × Job)) e =>
    match b with
    | none => some e
    | some x => if e.2.finished < x.2.finished then some e else some x) none with
  | some e => some e.1
  | none => (List.range 64).find? fun i => (mapGet Job.init k.jobs i).st = .free

/-- A handle (R370). -/
def jobHandle (cl i : Nat) (serial : BitVec 8) : Word :=
  BitVec.ofNat 64 (cl * 2 ^ 20 + serial.toNat * 2 ^ 6 + i)

/-- The slot of a current handle, for a strand of a cluster and a virtual device (R370). -/
def State.jobOfHandle (s : State) (cl vd : Nat) (h : Word) : Option Nat :=
  let i := (h.extractLsb' 0 6).toNat
  let j := s.job cl i
  if h = jobHandle cl i j.serial && j.st ≠ .free && j.vd = vd then some i else none

/-- What a stale handle gives (R374, R384). -/
def staleValue : Word := 0x8000

end Sys2Proof.Machine
end

