-- ==== Sys2Proof/Machine/Porter.lean ====
section
/-! DEFINITION. The porter: reading handler tables, entering a handler, ending one (R45, R46, R161, R162,
R331). -/

namespace Sys2Proof.Machine

/-- A doubleword of a table at a DVA: the handler PC when it is enabled (R162). -/
def handlerOf (b : Option (List PByte)) : Option Pc :=
  match b with
  | none => none
  | some b =>
    let w : Word := BitVec.ofNat 64 (bytesNat b)
    if !anyPoison b && w.getLsbD 63 then some (w.extractLsb' 0 24) else none

/-- The doubleword `i` of a context's handler table, or (from 32 on) of its message table, or of the
landlord's table of a core, as its home holds it now (R162, R331). -/
def State.handler (s : State) (c tag : Nat) (landlord : Bool) (i : Nat) : Option Pc × State :=
  let cl := clusterOf c
  let base := if landlord then (s.core c).lltab.toNat else (s.ctx cl tag).img.htab
  let (b, s) := s.readDva c cl tag landlord (base + 8 * i) 8
  (handlerOf b, s)

/-- Give the porter an entry: its set gets the entry's registers and the handler's PC, and it enters its
line (R161, R195); it issues at the first cycle of position 6 after this one (R44). -/
def State.enter (s : State) (c : Nat) (e : Entry) (l : List (Fin 32 × Word)) : State :=
  let q := s.porter c
  let s := s.setPorter c { q with
    cur := some e, st := .run, wait := .none, op := none, notBefore := max q.notBefore (s.cycle + 1) }
  let r := s.regsOf c 6
  let r := l.foldl (fun r x => r.setS x.1 ⟨x.2, false⟩) { r with pc := e.pc }
  (s.setRegsOf c 6 r).enterLine c 6

/-- Interrupt the running entry: it keeps its PC and waits below (R45, R164). -/
def State.pushEntry (s : State) (c : Nat) : State :=
  let q := s.porter c
  match q.cur with
  | none => s
  | some e =>
    let pc := (s.regsOf c 6).pc
    s.setPorter c { q with cur := none, stack := { e with pc := pc } :: q.stack }

/-- The running entry ends: the interrupted one goes on where it stopped, or the porter takes its next work
(R45, R311). -/
def State.endEntry (s : State) (c : Nat) : State :=
  let q := s.porter c
  match q.stack with
  | [] => s.setPorter c { q with cur := none, st := .run, wait := .none, op := none, line := none }
  | e :: t =>
    let s := s.setPorter c { q with
      cur := some e, stack := t, st := .run, wait := .none, op := none, line := none }
    (s.setRegsOf c 6 { s.regsOf c 6 with pc := e.pc }).enterLine c 6

/-- The porter of a core can take work of levels 3 to 5: nothing runs, and no pre-emption is asked for or
done (R45). -/
def State.porterFree (s : State) (c : Nat) : Bool :=
  let k := s.core c
  k.porter.cur.isNone && !k.preK && !k.preL && k.saved.isNone && !k.machine

/-- Post work to a porter's keeper queue. -/
def State.post (s : State) (c : Nat) (e : EntryKind) : State :=
  let q := s.porter c
  s.setPorter c { q with queue := q.queue ++ [e] }

end Sys2Proof.Machine
end

