-- ==== Sys2Proof/Machine/IntFam.lean ====
section
/-! DEFINITION. The INT group (R222 to R227). -/

namespace Sys2Proof.Machine

/-! Values (R223 to R227) -/

def shAmt (b : Word) : Nat := (b.extractLsb' 0 6).toNat

def intDiv (a b : Word) : Word :=
  if b = 0 then BitVec.allOnes 64 else BitVec.ofInt 64 (Int.tdiv a.toInt b.toInt)
def intDivu (a b : Word) : Word := if b = 0 then BitVec.allOnes 64 else BitVec.ofNat 64 (a.toNat / b.toNat)
def intRem (a b : Word) : Word := if b = 0 then a else BitVec.ofInt 64 (Int.tmod a.toInt b.toInt)
def intRemu (a b : Word) : Word := if b = 0 then a else BitVec.ofNat 64 (a.toNat % b.toNat)

def intMulh (a b : Word) : Word := BitVec.ofInt 64 (a.toInt * b.toInt / 2 ^ 64)
def intMulhu (a b : Word) : Word := BitVec.ofNat 64 (a.toNat * b.toNat / 2 ^ 64)

def intMin (a b : Word) : Word := if a.slt b then a else b
def intMax (a b : Word) : Word := if a.slt b then b else a
def intMinu (a b : Word) : Word := if a.ult b then a else b
def intMaxu (a b : Word) : Word := if a.ult b then b else a

/-- Bits of a width code (R187). -/
def widthBits (w : Fin 4) : Nat := 8 * 2 ^ w.val

/-- Extend a `w`-bit result by sign or zero (R225). -/
def extend (w : Nat) (sgn : Bool) (x : Nat) : Word :=
  let u := x % 2 ^ w
  if sgn && 2 ^ (w - 1) ≤ u then BitVec.ofNat 64 (u + (2 ^ 64 - 2 ^ w)) else BitVec.ofNat 64 u

/-- The ones among the low `w` bits. -/
def ones (w x : Nat) : Nat := ((List.range w).filter fun j => x.testBit j).length
def leadZeros (w x : Nat) : Nat := ((List.range w).find? fun j => x.testBit (w - 1 - j)).getD w
def trailZeros (w x : Nat) : Nat := ((List.range w).find? fun j => x.testBit j).getD w
def revBits (w x : Nat) : Nat := (List.range w).foldl (fun r j => 2 * r + x / 2 ^ j % 2) 0
def revBytes (w x : Nat) : Nat := (List.range (w / 8)).foldl (fun r j => 256 * r + x / 2 ^ (8 * j) % 256) 0

/-- BFX by its control word (R226). -/
def intBfx (a b : Word) : Word :=
  let l := (b.extractLsb' 8 6).toNat + 1
  extend l (b.getLsbD 16) (a.toNat / 2 ^ (b.extractLsb' 0 6).toNat)

/-- BFI by its control word (R226). -/
def intBfi (d a b : Word) : Word :=
  let m : Word := BitVec.ofNat 64 (2 ^ ((b.extractLsb' 8 6).toNat + 1) - 1)
  let p := (b.extractLsb' 0 6).toNat
  (d &&& ~~~(m <<< p)) ||| ((a &&& m) <<< p)

/-- SEL (R227). -/
def intSel (d a b : Word) : Word := (d &&& a) ||| (~~~d &&& b)

/-! Shapes -/

/-- D from A and B; poisoned by either (R221). -/
def fxInt2 (f : Word → Word → Word) (d a : SOp) (b : SImm) (w : View) : Except TrapInfo (List Eff) :=
  let x := w.s w.a a
  let y := w.i w.b b
  putS d (f x.v y.v) (x.p || y.p) (firstPoison x.p y.p false)

/-- D from A. -/
def fxInt1 (f : Word → Word) (d a : SOp) (w : View) : Except TrapInfo (List Eff) :=
  let x := w.s w.a a
  putS d (f x.v) x.p 1

/-- D from D, A and B. -/
def fxInt3 (f : Word → Word → Word → Word) (d a : SOp) (b : SImm) (w : View) :
    Except TrapInfo (List Eff) :=
  let x := w.s w.a a
  let y := w.i w.b b
  let z := w.s w.d d
  putS d (f z.v x.v y.v) (x.p || y.p || z.p) (firstPoison x.p y.p z.p)

def formSSI (d a : SOp) (b : SImm) : Form := { use := useSSI d a b }
def formSS (d a : SOp) : Form := { use := useSS d a }
/-- D is read and written. -/
def formDSI (d a : SOp) (b : SImm) : Form := { use := { useSSI d a b with d := chS d } }

def int2 (f : Word → Word → Word) (g : Guard) (d a : SOp) (b : SImm) (s : State) : Result :=
  .next (s.plain g (formSSI d a b) (fxInt2 f d a b))
def int2Slow (f : Word → Word → Word) (g : Guard) (d a : SOp) (b : SImm) (s : State) : Result :=
  .next (s.slow g (formSSI d a b) (fxInt2 f d a b))
def int1 (f : Word → Word) (g : Guard) (d a : SOp) (s : State) : Result :=
  .next (s.plain g (formSS d a) (fxInt1 f d a))
def int3 (f : Word → Word → Word → Word) (g : Guard) (d a : SOp) (b : SImm) (s : State) : Result :=
  .next (s.plain g (formDSI d a b) (fxInt3 f d a b))

/-! Meanings -/

def execAdd (g : Guard) (d a : SOp) (b : SImm) (s : State) : Result := int2 (fun x y => x + y) g d a b s
def execSub (g : Guard) (d a : SOp) (b : SImm) (s : State) : Result := int2 (fun x y => x - y) g d a b s
def execMul (g : Guard) (d a : SOp) (b : SImm) (s : State) : Result := int2 (fun x y => x * y) g d a b s
def execMulh (g : Guard) (d a : SOp) (b : SImm) (s : State) : Result := int2 intMulh g d a b s
def execMulhu (g : Guard) (d a : SOp) (b : SImm) (s : State) : Result := int2 intMulhu g d a b s
def execAnd (g : Guard) (d a : SOp) (b : SImm) (s : State) : Result := int2 (fun x y => x &&& y) g d a b s
def execOr (g : Guard) (d a : SOp) (b : SImm) (s : State) : Result := int2 (fun x y => x ||| y) g d a b s
def execXor (g : Guard) (d a : SOp) (b : SImm) (s : State) : Result := int2 (fun x y => x ^^^ y) g d a b s
def execAndn (g : Guard) (d a : SOp) (b : SImm) (s : State) : Result := int2 (fun x y => x &&& ~~~y) g d a b s
def execOrn (g : Guard) (d a : SOp) (b : SImm) (s : State) : Result := int2 (fun x y => x ||| ~~~y) g d a b s
def execShl (g : Guard) (d a : SOp) (b : SImm) (s : State) : Result := int2 (fun x y => x <<< shAmt y) g d a b s
def execShr (g : Guard) (d a : SOp) (b : SImm) (s : State) : Result := int2 (fun x y => x >>> shAmt y) g d a b s
def execSra (g : Guard) (d a : SOp) (b : SImm) (s : State) : Result := int2 (fun x y => x.sshiftRight (shAmt y)) g d a b s
def execRotl (g : Guard) (d a : SOp) (b : SImm) (s : State) : Result := int2 (fun x y => x.rotateLeft (shAmt y)) g d a b s
def execRotr (g : Guard) (d a : SOp) (b : SImm) (s : State) : Result := int2 (fun x y => x.rotateRight (shAmt y)) g d a b s
def execMin (g : Guard) (d a : SOp) (b : SImm) (s : State) : Result := int2 intMin g d a b s
def execMax (g : Guard) (d a : SOp) (b : SImm) (s : State) : Result := int2 intMax g d a b s
def execMinu (g : Guard) (d a : SOp) (b : SImm) (s : State) : Result := int2 intMinu g d a b s
def execMaxu (g : Guard) (d a : SOp) (b : SImm) (s : State) : Result := int2 intMaxu g d a b s
def execBfx (g : Guard) (d a : SOp) (b : SImm) (s : State) : Result := int2 intBfx g d a b s
def execDiv (g : Guard) (d a : SOp) (b : SImm) (s : State) : Result := int2Slow intDiv g d a b s
def execDivu (g : Guard) (d a : SOp) (b : SImm) (s : State) : Result := int2Slow intDivu g d a b s
def execRem (g : Guard) (d a : SOp) (b : SImm) (s : State) : Result := int2Slow intRem g d a b s
def execRemu (g : Guard) (d a : SOp) (b : SImm) (s : State) : Result := int2Slow intRemu g d a b s
def execClz (g : Guard) (w : Fin 4) (d a : SOp) (s : State) : Result :=
  int1 (fun x => BitVec.ofNat 64 (leadZeros (widthBits w) (x.toNat % 2 ^ widthBits w))) g d a s
def execCtz (g : Guard) (w : Fin 4) (d a : SOp) (s : State) : Result :=
  int1 (fun x => BitVec.ofNat 64 (trailZeros (widthBits w) (x.toNat % 2 ^ widthBits w))) g d a s
def execPopc (g : Guard) (w : Fin 4) (d a : SOp) (s : State) : Result :=
  int1 (fun x => BitVec.ofNat 64 (ones (widthBits w) (x.toNat % 2 ^ widthBits w))) g d a s
def execBrev (g : Guard) (w : WMod) (d a : SOp) (s : State) : Result :=
  int1 (fun x => extend (widthBits w.w) w.sgn (revBits (widthBits w.w) x.toNat)) g d a s
def execBswap (g : Guard) (w : WMod) (d a : SOp) (s : State) : Result :=
  int1 (fun x => extend (widthBits w.w) w.sgn (revBytes (widthBits w.w) x.toNat)) g d a s
def execSext (g : Guard) (w : WMod) (d a : SOp) (s : State) : Result :=
  int1 (fun x => extend (widthBits w.w) w.sgn (x.toNat)) g d a s
def execBfi (g : Guard) (d a : SOp) (b : SImm) (s : State) : Result := int3 intBfi g d a b s
def execSel (g : Guard) (d a : SOp) (b : SImm) (s : State) : Result := int3 intSel g d a b s

/-- LI writes B to D (R227). -/
def fxLi (d : SOp) (b : SImm) (w : View) : Except TrapInfo (List Eff) :=
  let y := w.i w.b b
  putS d y.v y.p 2

def formLi (d : SOp) (b : SImm) : Form := { use := { b := chI b, dst := chS d } }

def execLi (g : Guard) (d : SOp) (b : SImm) (s : State) : Result :=
  .next (s.plain g (formLi d b) (fxLi d b))

end Sys2Proof.Machine
end

