-- ==== Sys2Proof/Machine/VecCore.lean ====
section
/-! DEFINITION. Vector elements: reading, masks, poison, and the shapes of R252 (R251 to R255, R198). -/

namespace Sys2Proof.Machine

/-! Elements -/

def lanes (w : Nat) : Nat := 512 / w

/-- Element `i` of `w` bits. -/
def elem (w : Nat) (x : VReg) (i : Nat) : Nat := x.toNat / 2 ^ (w * i) % 2 ^ w

/-- The register of a list of `w`-bit elements, element 0 lowest. -/
def ofElems (w : Nat) (l : List Nat) : VReg :=
  BitVec.ofNat 512 (l.foldr (fun x n => x % 2 ^ w + 2 ^ w * n) 0)

/-- Element `i` lies in a poisoned word. -/
def elemP (w : Nat) (p : BitVec 8) (i : Nat) : Bool := p.getLsbD (w * i / 64)

/-- Poison bits of a register from the poison of its elements: a word with a poison element (R254). -/
def wordsP (w : Nat) (l : List Bool) : BitVec 8 :=
  BitVec.ofNat 8 (((List.range 8).map fun j =>
    if l.zipIdx.any fun e => e.1 && w * e.2 / 64 = j then 2 ^ j else 0).sum)

/-- Element `i` of a `w`-bit type is active under a mask (R253). -/
def active (w : Nat) (k : Word) (i : Nat) : Bool := k.getLsbD (i * w / 8)

/-! B of the forms that take several classes (R252) -/

/-- An operand by element: its value and poison, or a mask. -/
inductive BVal where
  | vec (x : PVec)
  | all (x : Word) (p : Bool)
  | mask (k : Word)

def View.vb (w : View) : VB → BVal
  | .v i => .vec ⟨w.regs.v[i], w.regs.vp[i]⟩
  | .s i => let x := w.regs.getS i; .all x.v x.p
  | .k i => .mask (w.regs.getK i)
  | .imm x => .all (sextImm x) false
  | .ch _ => .vec ⟨wordsToV w.b, 0⟩

/-- Element `i` of an operand that is not a mask. -/
def BVal.elem (b : BVal) (w i : Nat) : Nat × Bool :=
  match b with
  | .vec x => (Machine.elem w x.x i, elemP w x.p i)
  | .all x p => (x.toNat % 2 ^ w, p)
  | .mask _ => (0, false)

def BVal.isMask : BVal → Bool
  | .mask _ => true
  | _ => false

/-- Element results of a vector form: (value, poison, flags). -/
abbrev ERes := Nat × Bool × Flags

/-- Whether any source was poisoned in B or A, for a poisoned channel destination. -/
def vSrc (a : PVec) (b : BVal) : Nat :=
  firstPoison (a.p ≠ 0) (match b with | .vec x => x.p ≠ 0 | .all _ p => p | .mask _ => false) false

/-- Write a vector of element results and OR in their flags (R254, R156). -/
def putElems (d : VOp) (w : Nat) (l : List ERes) (src : Nat) : Except TrapInfo (List Eff) :=
  let fl : Flags := l.foldl (fun f e => f ||| e.2.2) 0
  match putV d ⟨ofElems w (l.map (·.1)), wordsP w (l.map (·.2.1))⟩ src with
  | .error t => .error t
  | .ok e => .ok (e ++ [.flags fl])

/-- An element of D as it stands, with the poison of its word. -/
def keep (w : Nat) (d : PVec) (i : Nat) : ERes := (elem w d.x i, elemP w d.p i, 0)

/-- D[i] ← A[i] op B[i], or masked D[i] ← D[i] op A[i] (R252). -/
def fxBin (w : Nat) (f : View → Nat → Nat → Nat × Flags) (d a : VOp) (b : VB) (v : View) :
    Except TrapInfo (List Eff) :=
  let x := v.v v.a a
  let y := v.vb b
  let z := v.v v.d d
  let l : List ERes := (List.range (lanes w)).map fun i =>
    match y with
    | .mask k =>
      if active w k i then
        let r := f v (elem w z.x i) (elem w x.x i)
        (r.1, elemP w z.p i || elemP w x.p i, r.2)
      else keep w z i
    | _ =>
      let e := y.elem w i
      let r := f v (elem w x.x i) e.1
      (r.1, elemP w x.p i || e.2, r.2)
  let src := if y.isMask then firstPoison (x.p ≠ 0) false (z.p ≠ 0) else vSrc x y
  putElems d w l src

/-- D[i] from A[i], B[i] and D[i]. -/
def fxTer (w : Nat) (f : View → Nat → Nat → Nat → Nat × Flags) (d a : VOp) (b : VB) (v : View) :
    Except TrapInfo (List Eff) :=
  let x := v.v v.a a
  let y := v.vb b
  let z := v.v v.d d
  let l : List ERes := (List.range (lanes w)).map fun i =>
    let e := y.elem w i
    let r := f v (elem w x.x i) e.1 (elem w z.x i)
    (r.1, elemP w x.p i || e.2 || elemP w z.p i, r.2)
  let s := vSrc x y
  putElems d w l (if s = 4 then 0 else s)

/-- D[i] ← op(A[i]) on active elements; every element without a mask (R252). -/
def fxUn (w : Nat) (f : View → Nat → Nat × Flags) (d a : VOp) (b : KOpt) (v : View) :
    Except TrapInfo (List Eff) :=
  let x := v.v v.a a
  let z := v.v v.d d
  let k := v.ko v.b b
  let l : List ERes := (List.range (lanes w)).map fun i =>
    if (match k with | some m => active w m i | none => true) then
      let r := f v (elem w x.x i)
      (r.1, elemP w x.p i, r.2)
    else keep w z i
  putElems d w l (firstPoison (x.p ≠ 0) false (z.p ≠ 0))

/-- A mask whose lane bits follow a test of each element (R258); poison raises POISON (R254). -/
def fxMask (w : Nat) (f : Nat → Nat → Bool × Flags) (d : KOp) (a : VOp) (b : VB) (v : View) :
    Except TrapInfo (List Eff) :=
  let x := v.v v.a a
  let y := v.vb b
  let pb := match y with | .vec z => decide (z.p ≠ 0) | .all _ p => p | .mask _ => false
  match needClean (x.p ≠ 0) pb false with
  | .error t => .error t
  | .ok _ =>
    let rs := (List.range (lanes w)).map fun i => f (elem w x.x i) (y.elem w i).1
    let fl : Flags := rs.foldl (fun f r => f ||| r.2) 0
    let n := w / 8
    let m : Nat := ((rs.zipIdx).map fun r => if r.1.1 then (2 ^ n - 1) * 2 ^ (n * r.2) else 0).sum
    .ok (putK d (BitVec.ofNat 64 m) ++ [.flags fl])

/-! Forms -/

/-- D is also read when B is a mask. -/
def vbIsMask : VB → Bool
  | .k _ => true
  | _ => false

def formVVB (d a : VOp) (b : VB) : Form :=
  { use := { a := chV a, b := chB b, d := if vbIsMask b then chV d else none, dst := chV d
             vecs := vecV d ++ vecV a ++ vecB b } }
/-- D read and written. -/
def formVVBd (d a : VOp) (b : VB) : Form :=
  { use := { a := chV a, b := chB b, d := chV d, dst := chV d, vecs := vecV d ++ vecV a ++ vecB b } }
def koIsMask : KOpt → Bool
  | .none => false
  | _ => true
def formVVK (d a : VOp) (b : KOpt) : Form :=
  { use := { a := chV a, b := chKO b, d := if koIsMask b then chV d else none, dst := chV d
             vecs := vecV d ++ vecV a } }
def formKVB (d : KOp) (a : VOp) (b : VB) : Form :=
  { use := { a := chV a, b := chB b, dst := chK d, vecs := vecV a ++ vecB b } }

end Sys2Proof.Machine
end

