-- ==== Sys2Proof/Machine/VblockFam.lean ====
section
/-! DEFINITION. The VBLOCK group (R267 to R275). -/

namespace Sys2Proof.Machine

/-! BDOT (R269) -/

def fxBdot (sat : Bool) (d : SOp) (a b : VOp) (v : View) : Except TrapInfo (List Eff) :=
  let x := v.v v.a a
  let y := v.v v.b b
  let z := v.s v.d d
  match blockElems v.codebook x.x x.p with
  | .error e => .error (tFormat e)
  | .ok xs =>
    match blockElems v.codebook y.x y.p with
    | .error e => .error (tFormat e)
    | .ok ys =>
      let k := min xs.length ys.length
      let acc := if z.p then none else some (z.v.toNat % 2 ^ 32)
      let (r, fl) := dot sat (xs.take k) (ys.take k) acc
      match putS d (BitVec.ofNat 64 (r.getD fmt32.nan)) r.isNone (firstPoison (x.p ≠ 0) (y.p ≠ 0) z.p) with
      | .error e => .error e
      | .ok l => .ok (l ++ [.flags fl])

def execBdot (g : Guard) (sat : Bool) (d : SOp) (a b : VOp) (s : State) : Result :=
  .next (s.plain g
    { use := { a := chV a, b := chV b, d := chS d, dst := chS d, vecs := vecV a ++ vecV b } }
    (fxBdot sat d a b))

/-! BUNPK (R270) -/

def fxBunpk (t : ETy) (rm : Rm) (sat : Bool) (d a : VOp) (b : SOp) (v : View) :
    Except TrapInfo (List Eff) :=
  let w := tyBits t
  let n := lanes w
  let x := v.v v.a a
  let y := v.s v.b b
  match blockElems v.codebook x.x x.p with
  | .error e => .error (tFormat e)
  | .ok xs =>
    let p := y.v.toNat % 256
    let l : List ERes := (List.range n).map fun i =>
      match xs[p * n + i]? with
      | some .poison => ((fmtOf t).nan, true, 0)
      | some (.val z) =>
        let r := fpPut (fmtOf t) (rmAt rm v.regs.fs) sat z
        (r.1, y.p, r.2)
      | none => (0, y.p, 0)
    putElems d w l (firstPoison (x.p ≠ 0) y.p false)

def execBunpk (g : Guard) (t : ETy) (rm : Rm) (sat : Bool) (d a : VOp) (b : SOp) (s : State) : Result :=
  .next (s.plain g { use := { a := chV a, b := chS b, dst := chV d, vecs := vecV d ++ vecV a } }
    (fxBunpk t rm sat d a b))

/-! BPACK (R271) -/

/-- Words of a block that hold any of bits [lo, hi). -/
def spanWords (lo hi : Nat) : BitVec 8 :=
  BitVec.ofNat 8 (((List.range 8).map fun j =>
    if lo < hi && lo / 64 ≤ j && j ≤ (hi - 1) / 64 then 2 ^ j else 0).sum)

/-- Bits of a block of format `code` that elements [i, j) occupy. -/
def elemSpan (code i j : Nat) : Nat × Nat :=
  if 7 ≤ code && code ≤ 9 then
    (16 + groupBits code * (i / 16), 16 + groupBits code * ((j + 15) / 16))
  else (16 + elemBits code * i, 16 + elemBits code * j)

/-- Words poisoned by poison elements of A, numbered from `first` (R254, R271): an INT8 or C4 block is
poison whole, a group whole. -/
def packPoison (code first : Nat) (xs : List Elem) : BitVec 8 :=
  if code = 6 || code = 10 then (if xs.any (· = .poison) then 0xFF else 0)
  else xs.zipIdx.foldl (fun m x =>
    if x.1 = .poison then
      let r := elemSpan code (first + x.2) (first + x.2 + 1)
      m ||| spanWords r.1 r.2
    else m) 0

/-- Words that keep bits of D when elements [i, j) are written. -/
def keptWords (code i j : Nat) : BitVec 8 :=
  let r := elemSpan code i j
  spanWords 0 r.1 ||| spanWords r.2 512

def fxBpack (t : ETy) (fmta : BitVec 8) (rm : Rm) (sat : Bool) (d a : VOp) (b : SOp) (v : View) :
    Except TrapInfo (List Eff) :=
  let w := tyBits t
  let n := lanes w
  let code := fmta.toNat
  let c := blockCount code
  let x := v.v v.a a
  let y := v.s v.b b
  let z := v.v v.d d
  let p := y.v.toNat % 256
  let sc := (y.v.extractLsb' 8 8).toInt
  let src := firstPoison (x.p ≠ 0) y.p (z.p ≠ 0)
  if c ≤ p * n then .error (tFormat code)
  else if p ≠ 0 && z.x.extractLsb' 0 8 = 0xFF then putV d z src
  else
    let head := code + 256 * (y.v.extractLsb' 8 8).toNat
    let base := if p = 0 then head else z.x.toNat / 2 ^ 16 * 2 ^ 16 + head
    let xs : List Elem := ((List.range n).map fun i =>
      if elemP w x.p i then Elem.poison else Elem.val (fpDec (fmtOf t) (elem w x.x i))).take (c - p * n)
    let (r, fl) := packInto v.codebook code (rmAt rm v.regs.fs) sat sc base (p * n) xs
    let kept := if p = 0 then 0 else z.p &&& keptWords code (p * n) (p * n + xs.length)
    let pb := if y.p then 0xFF else kept ||| packPoison code (p * n) xs
    match putV d ⟨BitVec.ofNat 512 r, pb⟩ src with
    | .error e => .error e
    | .ok l => .ok (l ++ [.flags fl])

def execBpack (g : Guard) (t : ETy) (fmta : BitVec 8) (rm : Rm) (sat : Bool) (d a : VOp) (b : SOp)
    (s : State) : Result :=
  .next (s.plain g
    { use := { a := chV a, b := chS b, d := chV d, dst := chV d, vecs := vecV d ++ vecV a } }
    (fxBpack t fmta rm sat d a b))

/-! BSCALE (R272) -/

def fits64 (x : Int) : Bool := -(2 ^ 63 : Int) ≤ x && x < 2 ^ 63

/-- x / 2^k rounded to an integer. -/
def rndShift (r : Rmode) (x : Int) (k : Nat) : Int × Flags :=
  let (m, nx) := roundAt r (x < 0) x.natAbs 0 k
  (if x < 0 then -(m : Int) else m, flagIf nx fNX)

/-- The merge of two sums: words 0 and 1 and the flags. -/
def bscale (r : Rmode) (w0 w1 a b : Word) : Word × Word × Flags :=
  let bad (w : Word) : Bool := w.extractLsb' 18 46 ≠ 0 || w.getLsbD 17
  if bad w1 || bad b then (0, 0x20000, 0)
  else if w1.getLsbD 16 || b.getLsbD 16 then (0, 0x10000, 0)
  else
    let qr := w0.toInt
    let qa := a.toInt
    let er := (w1.extractLsb' 0 16).toInt
    let ea := (b.extractLsb' 0 16).toInt
    let (qr, x, e, f1) : Int × Int × Int × Flags :=
      if er ≤ ea then
        let k := (ea - er).toNat
        if fits64 (qa * 2 ^ k) then (qr, qa * 2 ^ k, er, 0)
        else let (q, f) := rndShift r qr k; (q, qa, ea, f)
      else
        let k := (er - ea).toNat
        if qa % 2 ^ k = 0 then (qr, qa / 2 ^ k, er, 0)
        else if fits64 (qr * 2 ^ k) then (qr * 2 ^ k, qa, ea, 0)
        else let (y, f) := rndShift r qa k; (qr, y, er, f)
    let q := qr + x
    let (q, e, f2) : Int × Int × Flags :=
      if fits64 q then (q, e, 0) else let (y, f) := rndShift r q 1; (y, e + 1, f)
    if 32767 < e then (0, 0x10000, f1 ||| f2 ||| fOF)
    else (BitVec.ofInt 64 q, (BitVec.ofInt 16 e).zeroExtend 64, f1 ||| f2)

def fxBscale (rm : Rm) (d : VOp) (a b : SOp) (v : View) : Except TrapInfo (List Eff) :=
  let x := v.s v.a a
  let y := v.s v.b b
  let z := v.v v.d d
  let (r0, r1, fl) := bscale (rmAt rm v.regs.fs) (z.x.extractLsb' 0 64) (z.x.extractLsb' 64 64) x.v y.v
  let pz := z.p.getLsbD 0 || z.p.getLsbD 1
  let bad := x.p || y.p || pz
  let p : BitVec 8 := if bad then z.p ||| 3 else z.p &&& 0xFC
  let r : VReg := BitVec.ofNat 512
    (z.x.toNat / 2 ^ 128 * 2 ^ 128 + r1.toNat * 2 ^ 64 + r0.toNat)
  match putV d ⟨r, p⟩ (firstPoison x.p y.p (z.p ≠ 0)) with
  | .error e => .error e
  | .ok l => .ok (l ++ [.flags fl])

def execBscale (g : Guard) (rm : Rm) (d : VOp) (a b : SOp) (s : State) : Result :=
  .next (s.plain g { use := { a := chS a, b := chS b, d := chV d, dst := chV d, vecs := vecV d } }
    (fxBscale rm d a b))

/-! CBLOAD (R273) -/

def fxCbload (a : VOp) (v : View) : Except TrapInfo (BitVec 128) :=
  let x := v.v v.a a
  if x.p ≠ 0 then .error (tPoison 1) else .ok (x.x.extractLsb' 0 128)

def State.setCodebook (s : State) (c : Nat) (x : BitVec 128) : State :=
  s.setCore c { s.core c with codebook := x }

def formCbload (a : VOp) : Form := { use := { a := chV a, vecs := vecV a } }

def execCbload (g : Guard) (a : VOp) (s : State) : Result :=
  .next (s.issue g (formCbload a) (fxCbload a) fun s x =>
    ((s.takeSrcs (formCbload a).use).setCodebook s.cur.core x).retire [])

/-! CBLOOK (R274) and QDEQ (R275) -/

def fxCblook (t : ETy) (d a : VOp) (b : SOp) (v : View) : Except TrapInfo (List Eff) :=
  let w := tyBits t
  let n := lanes w
  let x := v.v v.a a
  let y := v.s v.b b
  let p := y.v.toNat % (128 / n)
  let l : List ERes := (List.range n).map fun i =>
    let j := p * n + i
    -- a poison code reads as zero (R148)
    if elemP 4 x.p j then (0, true, 0) else (natOf w (cbEntry v.codebook (elem 4 x.x j)), y.p, 0)
  putElems d w l (firstPoison (x.p ≠ 0) y.p false)

def formVVS (d a : VOp) (b : SOp) : Form :=
  { use := { a := chV a, b := chS b, dst := chV d, vecs := vecV d ++ vecV a } }

def execCblook (g : Guard) (t : ETy) (d a : VOp) (b : SOp) (s : State) : Result :=
  .next (s.plain g (formVVS d a b) (fxCblook t d a b))

def fxQdeq (q4 : Bool) (d a : VOp) (b : SOp) (v : View) : Except TrapInfo (List Eff) :=
  let x := v.v v.a a
  let y := v.s v.b b
  let scale := y.v.toNat % 2 ^ 16
  let offset := y.v.toNat / 2 ^ 16 % 2 ^ 16
  let p := y.v.toNat / 2 ^ 32 % (if q4 then 8 else 4)
  let cw := if q4 then 4 else 8
  let l : List ERes := (List.range 16).map fun i =>
    let j := 16 * p + i
    let r := dequant scale offset (elem cw x.x j)
    -- a poison code reads as the canonical NaN (R148)
    if elemP cw x.p j then
      (fmt32.nan, true, flagIf ((fpDec fmt16 scale).isSnan || (fpDec fmt16 offset).isSnan) fNV)
    else (r.1, y.p, r.2)
  putElems d 32 l (firstPoison (x.p ≠ 0) y.p false)

def execQdeq (g : Guard) (q4 : Bool) (d a : VOp) (b : SOp) (s : State) : Result :=
  .next (s.plain g (formVVS d a b) (fxQdeq q4 d a b))

end Sys2Proof.Machine
end

