-- ==== Sys2Proof/Machine/VfpFam.lean ====
section
/-! DEFINITION. The VFP group (R259 to R263). -/

namespace Sys2Proof.Machine

/-- A binary form of the group, elementwise under the rounding mode of its view (R260). -/
def fxVfp (f : Fmt → Rmode → Nat → Nat → Nat × Flags) (t : ETy) (rm : Rm) (d a : VOp) (b : VB) (v : View) :
    Except TrapInfo (List Eff) :=
  fxBin (tyBits t) (fun v x y => f (fmtOf t) (rmAt rm v.regs.fs) x y) d a b v

def vfp (f : Fmt → Rmode → Nat → Nat → Nat × Flags) (g : Guard) (t : ETy) (rm : Rm) (d a : VOp) (b : VB)
    (s : State) : Result :=
  .next (s.plain g (formVVB d a b) (fxVfp f t rm d a b))

def execVfadd (g : Guard) (t : ETy) (rm : Rm) (sat : Bool) (d a : VOp) (b : VB) (s : State) : Result :=
  vfp (fun f m => fpAdd f m sat) g t rm d a b s
def execVfsub (g : Guard) (t : ETy) (rm : Rm) (sat : Bool) (d a : VOp) (b : VB) (s : State) : Result :=
  vfp (fun f m => fpSub f m sat) g t rm d a b s
def execVfmul (g : Guard) (t : ETy) (rm : Rm) (sat : Bool) (d a : VOp) (b : VB) (s : State) : Result :=
  vfp (fun f m => fpMul f m sat) g t rm d a b s
def execVfmin (g : Guard) (t : ETy) (d a : VOp) (b : VB) (s : State) : Result :=
  vfp (fun f _ => fpMinMax f false) g t .rne d a b s
def execVfmax (g : Guard) (t : ETy) (d a : VOp) (b : VB) (s : State) : Result :=
  vfp (fun f _ => fpMinMax f true) g t .rne d a b s
def execVfdiv (g : Guard) (t : ETy) (rm : Rm) (sat : Bool) (d a : VOp) (b : VB) (s : State) : Result :=
  .next (s.slow g (formVVB d a b) (fxVfp (fun f m => fpDiv f m sat) t rm d a b))

/-- The fused forms: ± A × B ± D (R260). -/
def fxVfma (negP negD : Bool) (t : ETy) (rm : Rm) (sat : Bool) (d a : VOp) (b : VB) (v : View) :
    Except TrapInfo (List Eff) :=
  fxTer (tyBits t) (fun v x y z => fpFma (fmtOf t) (rmAt rm v.regs.fs) sat negP negD x y z) d a b v

def vfma (negP negD : Bool) (g : Guard) (t : ETy) (rm : Rm) (sat : Bool) (d a : VOp) (b : VB) (s : State) :
    Result :=
  .next (s.plain g (formVVBd d a b) (fxVfma negP negD t rm sat d a b))

def execVfma (g : Guard) (t : ETy) (rm : Rm) (sat : Bool) (d a : VOp) (b : VB) (s : State) : Result :=
  vfma false false g t rm sat d a b s
def execVfms (g : Guard) (t : ETy) (rm : Rm) (sat : Bool) (d a : VOp) (b : VB) (s : State) : Result :=
  vfma false true g t rm sat d a b s
def execVfnma (g : Guard) (t : ETy) (rm : Rm) (sat : Bool) (d a : VOp) (b : VB) (s : State) : Result :=
  vfma true false g t rm sat d a b s

/-- A unary form. -/
def fxVfu (f : Fmt → Nat → Nat × Flags) (t : ETy) (d a : VOp) (b : KOpt) (v : View) :
    Except TrapInfo (List Eff) :=
  fxUn (tyBits t) (fun _ x => f (fmtOf t) x) d a b v

def vfu (f : Fmt → Nat → Nat × Flags) (g : Guard) (t : ETy) (d a : VOp) (b : KOpt) (s : State) : Result :=
  .next (s.plain g (formVVK d a b) (fxVfu f t d a b))

def execVfsqrt (g : Guard) (t : ETy) (rm : Rm) (d a : VOp) (b : KOpt) (s : State) : Result :=
  .next (s.slow g (formVVK d a b)
    (fxUn (tyBits t) (fun v x => fpSqrt (fmtOf t) (rmAt rm v.regs.fs) x) d a b))
def execVfrcp (g : Guard) (t : ETy) (d a : VOp) (b : KOpt) (s : State) : Result := vfu fpRcp g t d a b s
def execVfrsq (g : Guard) (t : ETy) (d a : VOp) (b : KOpt) (s : State) : Result := vfu fpRsq g t d a b s
def execVfexp2 (g : Guard) (t : ETy) (sat : Bool) (d a : VOp) (b : KOpt) (s : State) : Result :=
  vfu (fun f => fpExp2 f sat) g t d a b s

/-- VFCMP (R260, R240). -/
def execVfcmp (g : Guard) (t : ETy) (c : FCond) (d : KOp) (a : VOp) (b : VB) (s : State) : Result :=
  .next (s.plain g (formKVB d a b) (fxMask (tyBits t) (fpCmp (fmtOf t) c) d a b))

/-- VFCVT: elements 0 to n - 1 at the wider width; the rest zero, or kept under a mask (R263). -/
def fxVfcvt (t st : ETy) (sgn : Bool) (rm : Rm) (sat : Bool) (d a : VOp) (b : KOpt) (v : View) :
    Except TrapInfo (List Eff) :=
  let ws := tyBits st
  let wd := tyBits t
  let n := 512 / max ws wd
  let x := v.v v.a a
  let z := v.v v.d d
  let k := v.ko v.b b
  let l : List ERes := (List.range (lanes wd)).map fun i =>
    match k with
    | some m =>
      if i < n && active wd m i then
        let r := fpCvt t st sgn (rmAt rm v.regs.fs) sat (elem ws x.x i)
        (r.1, elemP ws x.p i, r.2)
      else keep wd z i
    | none =>
      if i < n then
        let r := fpCvt t st sgn (rmAt rm v.regs.fs) sat (elem ws x.x i)
        (r.1, elemP ws x.p i, r.2)
      else (0, false, 0)
  putElems d wd l (firstPoison (x.p ≠ 0) false (z.p ≠ 0))

def execVfcvt (g : Guard) (t st : ETy) (sgn : Bool) (rm : Rm) (sat : Bool) (d a : VOp) (b : KOpt) (s : State) :
    Result :=
  .next (s.plain g (formVVK d a b) (fxVfcvt t st sgn rm sat d a b))

end Sys2Proof.Machine
end

