-- ==== Sys2Proof/Machine/VintFam.lean ====
section
/-! DEFINITION. The VINT group (R256 to R258). -/

namespace Sys2Proof.Machine

/-! Element operations on `w`-bit values (R257) -/

def vAdd (w a b : Nat) : Nat := (a + b) % 2 ^ w
def vSub (w a b : Nat) : Nat := (a + 2 ^ w - b) % 2 ^ w
def vMul (w a b : Nat) : Nat := a * b % 2 ^ w
def vMulh (w a b : Nat) : Nat := natOf w (intOf w true a * intOf w true b / (2 ^ w : Nat))
def vShl (w a b : Nat) : Nat := a * 2 ^ (b % w) % 2 ^ w
def vShr (w a b : Nat) : Nat := a / 2 ^ (b % w)
def vSra (w a b : Nat) : Nat := natOf w (intOf w true a / (2 ^ (b % w) : Nat))
def vMin (w a b : Nat) : Nat := if intOf w true a < intOf w true b then a else b
def vMax (w a b : Nat) : Nat := if intOf w true a < intOf w true b then b else a
def vAbsd (w a b : Nat) : Nat := (intOf w true a - intOf w true b).natAbs

/-- The element operation of each VINT form, by type width. -/
def fxVint (op : Nat → Nat → Nat → Nat) (t : ETy) (d a : VOp) (b : VB) (v : View) :
    Except TrapInfo (List Eff) :=
  fxBin (tyBits t) (fun _ x y => (op (tyBits t) x y, 0)) d a b v

def vint (op : Nat → Nat → Nat → Nat) (g : Guard) (t : ETy) (d a : VOp) (b : VB) (s : State) : Result :=
  .next (s.plain g (formVVB d a b) (fxVint op t d a b))

def execVadd (g : Guard) (t : ETy) (d a : VOp) (b : VB) (s : State) : Result := vint vAdd g t d a b s
def execVsub (g : Guard) (t : ETy) (d a : VOp) (b : VB) (s : State) : Result := vint vSub g t d a b s
def execVmul (g : Guard) (t : ETy) (d a : VOp) (b : VB) (s : State) : Result := vint vMul g t d a b s
def execVmulh (g : Guard) (t : ETy) (d a : VOp) (b : VB) (s : State) : Result := vint vMulh g t d a b s
def execVand (g : Guard) (t : ETy) (d a : VOp) (b : VB) (s : State) : Result := vint (fun _ x y => x &&& y) g t d a b s
def execVor (g : Guard) (t : ETy) (d a : VOp) (b : VB) (s : State) : Result := vint (fun _ x y => x ||| y) g t d a b s
def execVxor (g : Guard) (t : ETy) (d a : VOp) (b : VB) (s : State) : Result := vint (fun _ x y => x ^^^ y) g t d a b s
def execVshl (g : Guard) (t : ETy) (d a : VOp) (b : VB) (s : State) : Result := vint vShl g t d a b s
def execVshr (g : Guard) (t : ETy) (d a : VOp) (b : VB) (s : State) : Result := vint vShr g t d a b s
def execVsra (g : Guard) (t : ETy) (d a : VOp) (b : VB) (s : State) : Result := vint vSra g t d a b s
def execVmin (g : Guard) (t : ETy) (d a : VOp) (b : VB) (s : State) : Result := vint vMin g t d a b s
def execVmax (g : Guard) (t : ETy) (d a : VOp) (b : VB) (s : State) : Result := vint vMax g t d a b s
def execVminu (g : Guard) (t : ETy) (d a : VOp) (b : VB) (s : State) : Result := vint (fun _ x y => min x y) g t d a b s
def execVmaxu (g : Guard) (t : ETy) (d a : VOp) (b : VB) (s : State) : Result := vint (fun _ x y => max x y) g t d a b s
def execVabsd (g : Guard) (t : ETy) (d a : VOp) (b : VB) (s : State) : Result := vint vAbsd g t d a b s

/-- VSEL keeps D where the mask is inactive (R257). -/
def fxVsel (t : ETy) (d a : VOp) (b : KOp) (v : View) : Except TrapInfo (List Eff) :=
  let w := tyBits t
  let x := v.v v.a a
  let z := v.v v.d d
  let k := v.k v.b b
  putElems d w ((List.range (lanes w)).map fun i => if active w k i then keep w x i else keep w z i)
    (firstPoison (x.p ≠ 0) false (z.p ≠ 0))

def formVVKm (d a : VOp) (b : KOp) : Form :=
  { use := { a := chV a, b := chK b, d := chV d, dst := chV d, vecs := vecV d ++ vecV a } }

def execVsel (g : Guard) (t : ETy) (d a : VOp) (b : KOp) (s : State) : Result :=
  .next (s.plain g (formVVKm d a b) (fxVsel t d a b))

/-- VCMP (R258). -/
def fxVcmp (t : ETy) (c : Cond) (d : KOp) (a : VOp) (b : VB) (v : View) : Except TrapInfo (List Eff) :=
  let w := tyBits t
  fxMask w (fun x y => (condHolds c (extend w (c != .ltu && c != .geu) x) (extend w (c != .ltu && c != .geu) y), 0))
    d a b v

def execVcmp (g : Guard) (t : ETy) (c : Cond) (d : KOp) (a : VOp) (b : VB) (s : State) : Result :=
  .next (s.plain g (formKVB d a b) (fxVcmp t c d a b))

end Sys2Proof.Machine
end

