-- ==== Sys2Proof/Machine/VpermFam.lean ====
section
/-! DEFINITION. The VPERM group (R264 to R266). -/

namespace Sys2Proof.Machine

/-- VBCAST (R265): a poisoned B poisons every element. -/
def fxVbcast (t : ETy) (d : VOp) (b : SImm) (v : View) : Except TrapInfo (List Eff) :=
  let w := tyBits t
  let y := v.i v.b b
  putElems d w (List.replicate (lanes w) (y.v.toNat % 2 ^ w, y.p, 0)) 2

def execVbcast (g : Guard) (t : ETy) (d : VOp) (b : SImm) (s : State) : Result :=
  .next (s.plain g { use := { b := chI b, dst := chV d, vecs := vecV d } } (fxVbcast t d b))

/-- VINS (R265): the other elements keep their own poison. -/
def fxVins (t : ETy) (d : VOp) (a : SOp) (b : SImm) (v : View) : Except TrapInfo (List Eff) :=
  let w := tyBits t
  let x := v.s v.a a
  let y := v.i v.b b
  let z := v.v v.d d
  putElems d w ((List.range (lanes w)).map fun i =>
    if i = y.v.toNat % lanes w then (x.v.toNat % 2 ^ w, x.p || y.p, 0) else keep w z i)
    (firstPoison x.p y.p (z.p ≠ 0))

def execVins (g : Guard) (t : ETy) (d : VOp) (a : SOp) (b : SImm) (s : State) : Result :=
  .next (s.plain g { use := { a := chS a, b := chI b, d := chV d, dst := chV d, vecs := vecV d } }
    (fxVins t d a b))

/-- VEXT (R265). -/
def fxVext (t : ETy) (d : SOp) (a : VOp) (b : SImm) (v : View) : Except TrapInfo (List Eff) :=
  let w := tyBits t
  let x := v.v v.a a
  let y := v.i v.b b
  let i := y.v.toNat % lanes w
  putS d (BitVec.ofNat 64 (elem w x.x i)) (elemP w x.p i || y.p) (firstPoison (elemP w x.p i) y.p false)

def execVext (g : Guard) (t : ETy) (d : SOp) (a : VOp) (b : SImm) (s : State) : Result :=
  .next (s.plain g { use := { a := chV a, b := chI b, dst := chS d, vecs := vecV a } } (fxVext t d a b))

/-- VSHUF (R265). -/
def fxVshuf (t : ETy) (d a : VOp) (b : VB) (v : View) : Except TrapInfo (List Eff) :=
  let w := tyBits t
  let n := lanes w
  let x := v.v v.a a
  let y := v.vb b
  let l : List ERes := (List.range n).map fun i =>
    let j := match y with
      | .vec z => elem w z.x i % n
      | .all z _ => z.toNat % n
      | .mask _ => 0
    (elem w x.x j, elemP w x.p j || (y.elem w i).2, 0)
  putElems d w l (vSrc x y)

def execVshuf (g : Guard) (t : ETy) (d a : VOp) (b : VB) (s : State) : Result :=
  .next (s.plain g (formVVB d a b) (fxVshuf t d a b))

/-- VSLIDE (R265). -/
def fxVslide (t : ETy) (d a : VOp) (b : SImm) (v : View) : Except TrapInfo (List Eff) :=
  let w := tyBits t
  let n := lanes w
  let x := v.v v.a a
  let y := v.i v.b b
  let l : List ERes := (List.range n).map fun i =>
    let j : Int := (i : Int) + y.v.toInt
    if 0 ≤ j && j < n then (elem w x.x j.toNat, elemP w x.p j.toNat || y.p, 0) else (0, y.p, 0)
  putElems d w l (firstPoison (x.p ≠ 0) y.p false)

def execVslide (g : Guard) (t : ETy) (d a : VOp) (b : SImm) (s : State) : Result :=
  .next (s.plain g { use := { a := chV a, b := chI b, dst := chV d, vecs := vecV d ++ vecV a } }
    (fxVslide t d a b))

/-- VZIP and VUNZIP choose, for each destination element, A or B and an element of it (R265). -/
def fxVchoose (f : Nat → Nat → Bool × Nat) (t : ETy) (d a b : VOp) (v : View) :
    Except TrapInfo (List Eff) :=
  let w := tyBits t
  let n := lanes w
  let x := v.v v.a a
  let y := v.v v.b b
  putElems d w ((List.range n).map fun i => let c := f n i; if c.1 then keep w x c.2 else keep w y c.2)
    (firstPoison (x.p ≠ 0) (y.p ≠ 0) false)

def zipPick (_n i : Nat) : Bool × Nat := (i % 2 = 0, i / 2)
def unzipPick (n i : Nat) : Bool × Nat := (i < n / 2, 2 * (i % (n / 2)))

def formVVV (d a b : VOp) : Form :=
  { use := { a := chV a, b := chV b, dst := chV d, vecs := vecV d ++ vecV a ++ vecV b } }

def execVzip (g : Guard) (t : ETy) (d a b : VOp) (s : State) : Result :=
  .next (s.plain g (formVVV d a b) (fxVchoose zipPick t d a b))
def execVunzip (g : Guard) (t : ETy) (d a b : VOp) (s : State) : Result :=
  .next (s.plain g (formVVV d a b) (fxVchoose unzipPick t d a b))

/-! Reductions (R266) -/

/-- Active elements of A under the mask in B, absent ones as none. -/
def redElems (w : Nat) (x : VReg) (k : Word) : List (Option Nat) :=
  (List.range (lanes w)).map fun i => if active w k i then some (elem w x i) else none

/-- Poison of a reduction: D, or any active element (R254). -/
def redPoison (w : Nat) (x : PVec) (k : Word) : Bool :=
  (List.range (lanes w)).any fun i => active w k i && elemP w x.p i

def fxRed (f : List (Option Nat) → Word → Word × Flags) (t : ETy) (d : SOp) (a : VOp) (b : KOp) (v : View) :
    Except TrapInfo (List Eff) :=
  let w := tyBits t
  let x := v.v v.a a
  let k := v.k v.b b
  let z := v.s v.d d
  let r := f (redElems w x.x k) z.v
  let px := redPoison w x k
  match putS d r.1 (px || z.p) (firstPoison px false z.p) with
  | .error e => .error e
  | .ok l => .ok (l ++ [.flags r.2])

def sumInts (w : Nat) (l : List (Option Nat)) (d : Word) : Word × Flags :=
  (d + BitVec.ofInt 64 ((l.filterMap id).map (intOf w true)).sum, 0)

/-- The fixed tree of VFREDADD, one level; absent nodes drop out. -/
def redLevel (f : Fmt) : List (Option Nat) → List (Option Nat) × Flags
  | x :: y :: t =>
    let (r, fl) := redLevel f t
    match x, y with
    | some a, some b => let (c, g) := fpAdd f .rne false a b; (some c :: r, fl ||| g)
    | some a, none => (some a :: r, fl)
    | none, some b => (some b :: r, fl)
    | none, none => (none :: r, fl)
  | l => (l, 0)

/-- `levels` levels of the tree. -/
def redTree (f : Fmt) : Nat → List (Option Nat) → Option Nat × Flags
  | 0, l => (l.head?.join, 0)
  | n + 1, l =>
    let (r, fl) := redLevel f l
    let (t, g) := redTree f n r
    (t, fl ||| g)

def sumFps (t : ETy) (l : List (Option Nat)) (d : Word) : Word × Flags :=
  let f := fmtOf t
  let x := d.toNat % 2 ^ tyBits t
  match redTree f (Nat.log2 (lanes (tyBits t))) l with
  | (some y, fl) => let (r, g) := fpAdd f .rne false x y; (BitVec.ofNat 64 r, fl ||| g)
  | (none, fl) => (BitVec.ofNat 64 x, fl)

/-- VREDMAX and VREDMIN: integers as signed 64-bit values with D; FP at the type's width (R266). -/
def extremum (mx : Bool) (t : ETy) (l : List (Option Nat)) (d : Word) : Word × Flags :=
  let w := tyBits t
  let xs := l.filterMap id
  if t.isInt then
    (xs.foldl (fun r x => let e := extend w true x; if mx then intMax r e else intMin r e) d, 0)
  else
    let r := xs.foldl (fun (r : Nat × Flags) x =>
      let y := fpMinMax (fmtOf t) mx r.1 x
      (y.1, r.2 ||| y.2)) (d.toNat % 2 ^ w, 0)
    (BitVec.ofNat 64 r.1, r.2)

def formRed (d : SOp) (a : VOp) (b : KOp) : Form :=
  { use := { a := chV a, b := chK b, d := chS d, dst := chS d, vecs := vecV a } }

def execVredadd (g : Guard) (t : ETy) (d : SOp) (a : VOp) (b : KOp) (s : State) : Result :=
  .next (s.plain g (formRed d a b) (fxRed (sumInts (tyBits t)) t d a b))
def execVfredadd (g : Guard) (t : ETy) (d : SOp) (a : VOp) (b : KOp) (s : State) : Result :=
  .next (s.plain g (formRed d a b) (fxRed (sumFps t) t d a b))
def execVredmax (g : Guard) (t : ETy) (d : SOp) (a : VOp) (b : KOp) (s : State) : Result :=
  .next (s.plain g (formRed d a b) (fxRed (extremum true t) t d a b))
def execVredmin (g : Guard) (t : ETy) (d : SOp) (a : VOp) (b : KOp) (s : State) : Result :=
  .next (s.plain g (formRed d a b) (fxRed (extremum false t) t d a b))

/-! VCOMPRESS and VEXPAND (R265) -/

def pad (n : Nat) (l : List ERes) : List ERes := l ++ List.replicate (n - l.length) (0, false, 0)

def fxVcompress (t : ETy) (d a : VOp) (b : KOp) (v : View) : Except TrapInfo (List Eff) :=
  let w := tyBits t
  let x := v.v v.a a
  let k := v.k v.b b
  putElems d w (pad (lanes w) (((List.range (lanes w)).filter (active w k)).map (keep w x)))
    (firstPoison (x.p ≠ 0) false false)

/-- Active elements before element `i`. -/
def rankOf (w : Nat) (k : Word) (i : Nat) : Nat := ((List.range i).filter (active w k)).length

def fxVexpand (t : ETy) (d a : VOp) (b : KOp) (v : View) : Except TrapInfo (List Eff) :=
  let w := tyBits t
  let x := v.v v.a a
  let k := v.k v.b b
  putElems d w ((List.range (lanes w)).map fun i =>
    if active w k i then keep w x (rankOf w k i) else (0, false, 0))
    (firstPoison (x.p ≠ 0) false false)

def formVVKr (d a : VOp) (b : KOp) : Form :=
  { use := { a := chV a, b := chK b, dst := chV d, vecs := vecV d ++ vecV a } }

def execVcompress (g : Guard) (t : ETy) (d a : VOp) (b : KOp) (s : State) : Result :=
  .next (s.plain g (formVVKr d a b) (fxVcompress t d a b))
def execVexpand (g : Guard) (t : ETy) (d a : VOp) (b : KOp) (s : State) : Result :=
  .next (s.plain g (formVVKr d a b) (fxVexpand t d a b))

end Sys2Proof.Machine
end

