-- ==== Sys2Proof/Machine/RepFam.lean ====
section
/-! DEFINITION. The REP group and the repeater (R48 to R51, R160, R276 to R279). -/

namespace Sys2Proof.Machine

/-- The forms that a sequence may hold (R277): what each names, and its effect. -/
def seqForm : Instr → Option (Form × (View → Except TrapInfo (List Eff)))
  | .vadd _ t d a b => some (formVVB d a b, fxVint vAdd t d a b)
  | .vsub _ t d a b => some (formVVB d a b, fxVint vSub t d a b)
  | .vmul _ t d a b => some (formVVB d a b, fxVint vMul t d a b)
  | .vmulh _ t d a b => some (formVVB d a b, fxVint vMulh t d a b)
  | .vand _ t d a b => some (formVVB d a b, fxVint (fun _ x y => x &&& y) t d a b)
  | .vor _ t d a b => some (formVVB d a b, fxVint (fun _ x y => x ||| y) t d a b)
  | .vxor _ t d a b => some (formVVB d a b, fxVint (fun _ x y => x ^^^ y) t d a b)
  | .vshl _ t d a b => some (formVVB d a b, fxVint vShl t d a b)
  | .vshr _ t d a b => some (formVVB d a b, fxVint vShr t d a b)
  | .vsra _ t d a b => some (formVVB d a b, fxVint vSra t d a b)
  | .vmin _ t d a b => some (formVVB d a b, fxVint vMin t d a b)
  | .vmax _ t d a b => some (formVVB d a b, fxVint vMax t d a b)
  | .vminu _ t d a b => some (formVVB d a b, fxVint (fun _ x y => min x y) t d a b)
  | .vmaxu _ t d a b => some (formVVB d a b, fxVint (fun _ x y => max x y) t d a b)
  | .vabsd _ t d a b => some (formVVB d a b, fxVint vAbsd t d a b)
  | .vsel _ t d a b => some (formVVKm d a b, fxVsel t d a b)
  | .vfadd _ t rm sat d a b => some (formVVB d a b, fxVfp (fun f m => fpAdd f m sat) t rm d a b)
  | .vfsub _ t rm sat d a b => some (formVVB d a b, fxVfp (fun f m => fpSub f m sat) t rm d a b)
  | .vfmul _ t rm sat d a b => some (formVVB d a b, fxVfp (fun f m => fpMul f m sat) t rm d a b)
  | .vfma _ t rm sat d a b => some (formVVBd d a b, fxVfma false false t rm sat d a b)
  | .vfms _ t rm sat d a b => some (formVVBd d a b, fxVfma false true t rm sat d a b)
  | .vfnma _ t rm sat d a b => some (formVVBd d a b, fxVfma true false t rm sat d a b)
  | .vfmin _ t d a b => some (formVVB d a b, fxVfp (fun f _ => fpMinMax f false) t .rne d a b)
  | .vfmax _ t d a b => some (formVVB d a b, fxVfp (fun f _ => fpMinMax f true) t .rne d a b)
  | .vfrcp _ t d a b => some (formVVK d a b, fxVfu fpRcp t d a b)
  | .vfrsq _ t d a b => some (formVVK d a b, fxVfu fpRsq t d a b)
  | .vfexp2 _ t sat d a b => some (formVVK d a b, fxVfu (fun f => fpExp2 f sat) t d a b)
  | .vfcvt _ t st sgn rm sat d a b => some (formVVK d a b, fxVfcvt t st sgn rm sat d a b)
  | .vbcast _ t d b => some ({ use := { b := chI b, dst := chV d, vecs := vecV d } }, fxVbcast t d b)
  | .vins _ t d a b => some ({ use := { a := chS a, b := chI b, d := chV d, dst := chV d, vecs := vecV d } }, fxVins t d a b)
  | .vshuf _ t d a b => some (formVVB d a b, fxVshuf t d a b)
  | .vslide _ t d a b => some ({ use := { a := chV a, b := chI b, dst := chV d, vecs := vecV d ++ vecV a } }, fxVslide t d a b)
  | .vzip _ t d a b => some (formVVV d a b, fxVchoose zipPick t d a b)
  | .vunzip _ t d a b => some (formVVV d a b, fxVchoose unzipPick t d a b)
  | .vcompress _ t d a b => some (formVVKr d a b, fxVcompress t d a b)
  | .vexpand _ t d a b => some (formVVKr d a b, fxVexpand t d a b)
  | .bunpk _ t rm sat d a b => some (formVVS d a b, fxBunpk t rm sat d a b)
  | .bpack _ t f rm sat d a b => some ({ use := { a := chV a, b := chS b, d := chV d, dst := chV d, vecs := vecV d ++ vecV a } }, fxBpack t f rm sat d a b)
  | .bscale _ rm d a b => some ({ use := { a := chS a, b := chS b, d := chV d, dst := chV d, vecs := vecV d } }, fxBscale rm d a b)
  | .cblook _ t d a b => some (formVVS d a b, fxCblook t d a b)
  | .qdeq _ q d a b => some (formVVS d a b, fxQdeq q d a b)
  | _ => none

def finAdd (i : Fin 16) (n : Nat) : Fin 16 := Fin.ofNat 16 (i.val + n)
def vopAdd : VOp → Nat → VOp
  | .v i, n => .v (finAdd i n)
  | .ch c, _ => .ch c
def vbAdd : VB → Nat → VB
  | .v i, n => .v (finAdd i n)
  | b, _ => b

/-- A sequence instruction with its vector registers moved on by position D, A and B (R278). -/
def strided (i : Instr) (nd na nb : Nat) : Instr :=
  match i with
  | .vadd g t d a b => .vadd g t (vopAdd d nd) (vopAdd a na) (vbAdd b nb)
  | .vsub g t d a b => .vsub g t (vopAdd d nd) (vopAdd a na) (vbAdd b nb)
  | .vmul g t d a b => .vmul g t (vopAdd d nd) (vopAdd a na) (vbAdd b nb)
  | .vmulh g t d a b => .vmulh g t (vopAdd d nd) (vopAdd a na) (vbAdd b nb)
  | .vand g t d a b => .vand g t (vopAdd d nd) (vopAdd a na) (vbAdd b nb)
  | .vor g t d a b => .vor g t (vopAdd d nd) (vopAdd a na) (vbAdd b nb)
  | .vxor g t d a b => .vxor g t (vopAdd d nd) (vopAdd a na) (vbAdd b nb)
  | .vshl g t d a b => .vshl g t (vopAdd d nd) (vopAdd a na) (vbAdd b nb)
  | .vshr g t d a b => .vshr g t (vopAdd d nd) (vopAdd a na) (vbAdd b nb)
  | .vsra g t d a b => .vsra g t (vopAdd d nd) (vopAdd a na) (vbAdd b nb)
  | .vmin g t d a b => .vmin g t (vopAdd d nd) (vopAdd a na) (vbAdd b nb)
  | .vmax g t d a b => .vmax g t (vopAdd d nd) (vopAdd a na) (vbAdd b nb)
  | .vminu g t d a b => .vminu g t (vopAdd d nd) (vopAdd a na) (vbAdd b nb)
  | .vmaxu g t d a b => .vmaxu g t (vopAdd d nd) (vopAdd a na) (vbAdd b nb)
  | .vabsd g t d a b => .vabsd g t (vopAdd d nd) (vopAdd a na) (vbAdd b nb)
  | .vsel g t d a b => .vsel g t (vopAdd d nd) (vopAdd a na) b
  | .vfadd g t rm sat d a b => .vfadd g t rm sat (vopAdd d nd) (vopAdd a na) (vbAdd b nb)
  | .vfsub g t rm sat d a b => .vfsub g t rm sat (vopAdd d nd) (vopAdd a na) (vbAdd b nb)
  | .vfmul g t rm sat d a b => .vfmul g t rm sat (vopAdd d nd) (vopAdd a na) (vbAdd b nb)
  | .vfma g t rm sat d a b => .vfma g t rm sat (vopAdd d nd) (vopAdd a na) (vbAdd b nb)
  | .vfms g t rm sat d a b => .vfms g t rm sat (vopAdd d nd) (vopAdd a na) (vbAdd b nb)
  | .vfnma g t rm sat d a b => .vfnma g t rm sat (vopAdd d nd) (vopAdd a na) (vbAdd b nb)
  | .vfmin g t d a b => .vfmin g t (vopAdd d nd) (vopAdd a na) (vbAdd b nb)
  | .vfmax g t d a b => .vfmax g t (vopAdd d nd) (vopAdd a na) (vbAdd b nb)
  | .vfrcp g t d a b => .vfrcp g t (vopAdd d nd) (vopAdd a na) b
  | .vfrsq g t d a b => .vfrsq g t (vopAdd d nd) (vopAdd a na) b
  | .vfexp2 g t sat d a b => .vfexp2 g t sat (vopAdd d nd) (vopAdd a na) b
  | .vfcvt g t st sgn rm sat d a b => .vfcvt g t st sgn rm sat (vopAdd d nd) (vopAdd a na) b
  | .vbcast g t d b => .vbcast g t (vopAdd d nd) b
  | .vins g t d a b => .vins g t (vopAdd d nd) a b
  | .vshuf g t d a b => .vshuf g t (vopAdd d nd) (vopAdd a na) (vbAdd b nb)
  | .vslide g t d a b => .vslide g t (vopAdd d nd) (vopAdd a na) b
  | .vzip g t d a b => .vzip g t (vopAdd d nd) (vopAdd a na) (vopAdd b nb)
  | .vunzip g t d a b => .vunzip g t (vopAdd d nd) (vopAdd a na) (vopAdd b nb)
  | .vcompress g t d a b => .vcompress g t (vopAdd d nd) (vopAdd a na) b
  | .vexpand g t d a b => .vexpand g t (vopAdd d nd) (vopAdd a na) b
  | .bunpk g t rm sat d a b => .bunpk g t rm sat (vopAdd d nd) (vopAdd a na) b
  | .bpack g t f rm sat d a b => .bpack g t f rm sat (vopAdd d nd) (vopAdd a na) b
  | .bscale g rm d a b => .bscale g rm (vopAdd d nd) a b
  | .cblook g t d a b => .cblook g t (vopAdd d nd) (vopAdd a na) b
  | .qdeq g q d a b => .qdeq g q (vopAdd d nd) (vopAdd a na) b
  | i => i

def guardOf : Instr → Guard
  | .vadd g _ _ _ _ => g
  | .vsub g _ _ _ _ => g
  | .vmul g _ _ _ _ => g
  | .vmulh g _ _ _ _ => g
  | .vand g _ _ _ _ => g
  | .vor g _ _ _ _ => g
  | .vxor g _ _ _ _ => g
  | .vshl g _ _ _ _ => g
  | .vshr g _ _ _ _ => g
  | .vsra g _ _ _ _ => g
  | .vmin g _ _ _ _ => g
  | .vmax g _ _ _ _ => g
  | .vminu g _ _ _ _ => g
  | .vmaxu g _ _ _ _ => g
  | .vabsd g _ _ _ _ => g
  | .vsel g _ _ _ _ => g
  | .vfadd g _ _ _ _ _ _ => g
  | .vfsub g _ _ _ _ _ _ => g
  | .vfmul g _ _ _ _ _ _ => g
  | .vfma g _ _ _ _ _ _ => g
  | .vfms g _ _ _ _ _ _ => g
  | .vfnma g _ _ _ _ _ _ => g
  | .vfmin g _ _ _ _ => g
  | .vfmax g _ _ _ _ => g
  | .vfrcp g _ _ _ _ => g
  | .vfrsq g _ _ _ _ => g
  | .vfexp2 g _ _ _ _ _ => g
  | .vfcvt g _ _ _ _ _ _ _ _ => g
  | .vbcast g _ _ _ => g
  | .vins g _ _ _ _ => g
  | .vshuf g _ _ _ _ => g
  | .vslide g _ _ _ _ => g
  | .vzip g _ _ _ _ => g
  | .vunzip g _ _ _ _ => g
  | .vcompress g _ _ _ _ => g
  | .vexpand g _ _ _ _ => g
  | .bunpk g _ _ _ _ _ _ => g
  | .bpack g _ _ _ _ _ _ _ => g
  | .bscale g _ _ _ _ => g
  | .cblook g _ _ _ _ => g
  | .qdeq g _ _ _ _ => g
  | _ => ⟨0, true⟩

/-- A word may stand in a sequence: an instruction of an admitted form, guard 0000, no channel (R277). -/
def seqOk (w : BitVec 96) : Bool :=
  match decode w with
  | .error _ => false
  | .ok i =>
    match seqForm i with
    | some (f, _) => guardOf i = ⟨0, false⟩ && !f.use.usesChan
    | none => false

/-- The sequence instruction `j` of iteration `k`: its form and effect. -/
def RepSeq.instr (r : RepSeq) (j k : Nat) : Option (Form × (View → Except TrapInfo (List Eff))) :=
  match decode (r.words.getD j 0) with
  | .error _ => none
  | .ok i => seqForm (strided i (k * r.strd) (k * r.stra) (k * r.strb))

/-- The vector registers that a sequence names in any iteration (R50). -/
def claimOf (r : RepSeq) : BitVec 16 :=
  (List.range (min r.count 16)).foldl (fun m k =>
    (List.range r.words.length).foldl (fun m j =>
      match r.instr j k with
      | some (f, _) => f.use.vecs.foldl (fun m i => bitSet m i true) m
      | none => m) m) 0

/-! RPT -/

/-- The words that follow RPT (R276): POISON with sub 3 for a poisoned one, else ILLEGAL unless every
one may stand in a sequence (R277). -/
def seqWords (k : Core) (x : Ctx) (pc : Pc) (n : Nat) : Except TrapInfo (List (BitVec 96)) :=
  let idx := (List.range n).map fun j => pc + 1 + BitVec.ofNat 24 j
  let ws := idx.map fun p => (legalPc x p, wordAt k x (p.getLsbD 23) (p.extractLsb' 0 23).toNat)
  if ws.any fun w => w.1 && w.2.2 then .error (tPoison 3)
  else if ws.any fun w => !w.1 || !seqOk w.2.1 then .error tIllegal
  else .ok (ws.map fun w => w.2.1)

/-- The PC after RPT and its sequence (R276). -/
def afterSeq (pc : Pc) (seqlen : Fin 8) : Pc := pc + BitVec.ofNat 24 (seqlen.val + 2)

def State.setRep (s : State) (c : Nat) (r : Option RepSeq) : State := s.setCore c { s.core c with rep := r }

/-- RPT: loads a sequence, waits while one is held, and does nothing under a false guard (R48, R276). -/
def State.rpt (s : State) (g : Guard) (strb stra strd : BitVec 4) (seqlen : Fin 8) (count : BitVec 13) :
    State :=
  let c := s.cur.core
  let p := s.cur.pos
  let r := s.regs
  if s.isPorter then s.takeTrap tIllegal
  else if !s.guardTrue g then s.retire [.jump (afterSeq r.pc seqlen)]
  else if (s.core c).rep.isSome then s.park c p .waitMsg .repeater
  else
    match seqWords (s.core c) s.curCtx r.pc (seqlen.val + 1) with
    | .error t => s.takeTrap t
    | .ok ws =>
      let q : RepSeq :=
        { owner := p, pc := r.pc, words := ws, count := count.toNat, iter := 0, idx := 0
          strd := strd.toNat, stra := stra.toNat, strb := strb.toNat, claim := 0, cap := r
          notBefore := s.cycle + 1 }
      (s.setRep c (some { q with claim := claimOf q })).retire [.jump (afterSeq r.pc seqlen)]

def execRpt (g : Guard) (strb stra strd : BitVec 4) (seqlen : Fin 8) (count : BitVec 13) (s : State) :
    Result := .next (s.rpt g strb stra strd seqlen count)

/-! Release -/

/-- The repeater holds nothing more: its owner's claim waits and every repeater wait of the core end. -/
def State.releaseRep (s : State) (c : Nat) : State :=
  match (s.core c).rep with
  | none => s
  | some r =>
    let s := s.setRep c none
    let s := (List.range 6).foldl (fun s p =>
      let x := s.strand c p
      if x.st = .waitMsg && (x.wait = .repeater || (x.wait = .claim && r.owner = p)) then s.relook c p
      else s) s
    if (s.porter c).wait = .claim then s.wake c 6 else s

/-- The issuing strand holds the repeater's sequence. -/
def State.ownsRep (s : State) : Option RepSeq :=
  match (s.core s.cur.core).rep with
  | some r => if r.owner = s.cur.pos then some r else none
  | none => none

def execRwait (g : Guard) (s : State) : Result :=
  .next (s.issue g { strandOnly := true } (fun _ => .ok ()) fun s _ =>
    if s.ownsRep.isSome then s.park s.cur.core s.cur.pos .waitMsg .repeater else s.retire [])

/-- Sequence instructions issued so far (R279). -/
def RepSeq.issued (r : RepSeq) : Nat := r.iter * r.words.length + r.idx

def fxRstop (n : Nat) (d : SOp) (_v : View) : Except TrapInfo (List Eff) :=
  putS d (BitVec.ofNat 64 n) false 4

/-- RSTOP ends the strand's own sequence and writes how many of its instructions issued (R279). -/
def execRstop (g : Guard) (d : SOp) (s : State) : Result :=
  let n := match s.ownsRep with | some r => r.issued | none => 0
  .next (s.issue g { use := { dst := chS d }, strandOnly := true } (fxRstop n d) fun s l =>
    (if s.ownsRep.isSome then s.releaseRep s.cur.core else s).retire l)

/-! The repeater's own events -/

/-- The view of a sequence instruction: captured scalars and masks, the owner's vectors and fs (R49). -/
def State.repView (s : State) (c : Nat) (r : RepSeq) : View :=
  let x := s.strand c r.owner
  { regs := { x.regs with s := r.cap.s, sp := r.cap.sp, p := r.cap.p, k := r.cap.k }
    a := [], b := [], d := [], codebook := (s.core c).codebook, cycle := s.cycle
    loc := locWord c r.owner, tmpl := Vector.replicate 8 Seg.zero }

/-- What the next sequence instruction does. -/
def State.repNext (s : State) (c : Nat) (r : RepSeq) : Except TrapInfo (List Eff) :=
  match r.instr r.idx r.iter with
  | some (_, fx) => fx (s.repView c r)
  | none => .ok []

/-- A trap of a sequence can be charged now: the owner is between instructions, or waits for the claim or
the repeater (R160). -/
def ownerOpen (x : Strand) : Bool :=
  x.st = .run || (x.st = .waitMsg && (x.wait = .claim || x.wait = .repeater))

/-- The fault record of a sequence trap names the iteration and the instruction (R163). -/
def repTrap (r : RepSeq) (t : TrapInfo) : TrapInfo := { t with info := r.iter + r.idx * 2 ^ 13, addr := 0 }

/-- One sequence instruction issues (R49); a trap is charged to the owner and stops the sequence. -/
def State.repeaterIssue (s : State) (c : Nat) : State :=
  match (s.core c).rep with
  | none => s
  | some r =>
    if r.count ≤ r.iter then s
    else
      let x := s.strand c r.owner
      let vd := (s.ctx (clusterOf c) x.tag.toNat).img.vd
      match s.repNext c r with
      | .error t =>
        if ownerOpen x then
          ((s.bump c 0x03 vd 1).trapStrand c r.owner true r.pc 0 (repTrap r t)).releaseRep c
        else s
      | .ok l =>
        let s := s.bump c 0x03 vd 1
        let s := s.setStrand c r.owner { s.strand c r.owner with regs := l.foldl RegSet.eff x.regs }
        let last := r.words.length ≤ r.idx + 1
        s.setRep c (some { r with
          idx := if last then 0 else r.idx + 1, iter := if last then r.iter + 1 else r.iter
          notBefore := s.cycle + 1 })

def execRepeaterIssue (core : Nat) (s : State) : Result := .next (s.repeaterIssue core)

/-- The last iteration has retired: the claim is released whole (R50). -/
def execLastIterationRetires (core : Nat) (s : State) : Result :=
  .next (match (s.core core).rep with
    | some r => if r.count ≤ r.iter then s.releaseRep core else s
    | none => s)

/-- The repeater of a core has an instruction that it can issue now. -/
def State.repReady (s : State) (c : Nat) : Bool :=
  match (s.core c).rep with
  | none => false
  | some r =>
    r.iter < r.count &&
    (match s.repNext c r with
     | .error _ => ownerOpen (s.strand c r.owner)
     | .ok _ => true)

end Sys2Proof.Machine
end

