-- ==== Sys2Proof/Machine/Death.lean ====
section
/-! DEFINITION. The death of a task and of a band (R170 to R173, R132, R180). -/

namespace Sys2Proof.Machine

def byteList (n x : Nat) : List Byte := leBytes n x

/-- The PC that a death reports: for CONTEXT_FATAL that of the last instruction issued (R158). -/
def Strand.deathPc (x : Strand) (cause : Nat) : Nat := (if cause = 0x12 then x.last else x.regs.pc).toNat

/-- The 32 bytes of a death notice (R172). -/
def noticeBytes (x : Strand) (c p cause sub bytes : Nat) : List Byte :=
  byteList 4 x.gti.toNat ++ byteList 4 x.parent.toNat ++ [BitVec.ofNat 8 cause, BitVec.ofNat 8 sub, 0, 0] ++
  byteList 4 (locWord c p) ++ byteList 4 (x.deathPc cause) ++ byteList 4 bytes ++ byteList 8 x.join.toNat

/-- The 32 bytes of a completion entry (R395). -/
def completionBytes (gti slot kind code loc pc bytes : Nat) : List Byte :=
  byteList 4 gti ++ byteList 4 slot ++ [BitVec.ofNat 8 kind, BitVec.ofNat 8 code, 0, 0] ++
  byteList 4 loc ++ byteList 4 pc ++ byteList 4 bytes ++ byteList 8 0

/-- A completion entry of a VF waits for its ring (R395). -/
def State.complete? (s : State) (vf : Nat) (b : List Byte) : State :=
  s.setVf vf { s.vf vf with pend := (s.vf vf).pend ++ [b] }

/-- The launch that a strand belongs to. -/
def State.launchOf (s : State) (x : Strand) : Option Launch :=
  match x.member with
  | .crew l _ _ _ => mapGet? s.porch.launches l
  | .pool l => mapGet? s.porch.launches l
  | .none => none

/-- The report of a death: to the launch queue's completion record when the parent is 0, else a notice on
SYS to the parent's die (R172, R395). -/
def State.reportDeath (s : State) (x : Strand) (c p cause sub bytes : Nat) : State :=
  let cl := clusterOf c
  let y := s.ctx cl x.tag.toNat
  if x.parent = 0 then
    let (vf, slot) := x.host.getD (y.img.vd, 0)
    s.complete? vf (completionBytes x.gti.toNat slot 2 cause (locWord c p) (x.deathPc cause) bytes)
  else
    let n : Notice := ⟨noticeBytes x c p cause sub bytes, x.parent, y.img, y.ringbase, y.ringsize⟩
    s.sendFrom cl (x.parent.extractLsb' 23 3).toNat stopSched vcSYS y.img.vd x.gti (.death n)

/-- The keeper entry for a strand's trap is withdrawn, waiting, running or saved (R180). -/
def State.withdraw (s : State) (c p : Nat) : State :=
  let q := s.porter c
  let keep (e : EntryKind) : Bool := e ≠ .trap p
  let s := s.setPorter c { q with
    queue := q.queue.filter keep, stack := q.stack.filter fun e => keep e.kind }
  let k := s.core c
  let s := match k.saved with
    | some v => s.setCore c { k with saved := some { v with
        queue := v.queue.filter keep, stack := v.stack.filter fun e => keep e.kind
        cur := v.cur.filter fun e => keep e.kind
        outer := v.outer.map fun h => ⟨h.cur.filter fun e => keep e.kind, h.stack.filter fun e => keep e.kind,
          h.queue.filter keep⟩ } }
    | none => s
  match q.cur with
  | some e => if e.kind = .trap p then s.endEntry c else s
  | none => s

/-- Discard what is still under way for a party's operation: its walks and watches. Replies find no
operation any more (R170 step 5). -/
def State.abandon (s : State) (c p : Nat) : State :=
  let d := s.die (dieOf c)
  let s := s.setDie (dieOf c) { d with walks := d.walks.filter fun w => !(w.core = c && w.pos = p) }
  let s := { s with slices := s.slices.map fun x =>
    (x.1, { x.2 with watches := x.2.watches.filter fun w => !(w.core = c && w.pos = p) }) }
  if p = 6 then s else s.setStrand c p { s.strand c p with op := none, wait := .none }

/-- The purge of a strand, once its GTI stands in the filter (R170, R171). -/
def State.purge (s : State) (c p cause sub : Nat) : State :=
  let x := s.strand c p
  let cl := clusterOf c
  let d := s.die (dieOf c)
  let s := s.setDie (dieOf c) { d with filter := d.filter ++ [(x.gti, s.nextId)] }
  -- 1, 2: it stops issuing, and its sequence stops
  let s := (s.setSt c p .idle).withdraw c p
  let s := match (s.core c).rep with
    | some r => if r.owner = p then s.releaseRep c else s
    | none => s
  let s := match (s.core c).saved with
    | some v => s.setCore c { s.core c with saved := some { v with
        rep := v.rep.filter fun r => r.owner ≠ p, areas := mapDel v.areas p } }
    | none => s
  -- 3: its region aborts
  let s := s.abortOwn c p 8
  -- 4: its jobs are cancelled
  let s := (s.jobsOfGti cl x.gti).foldl (fun s i => s.jobCancel cl i) s
  -- 5: its replies are discarded
  let s := s.abandon c p
  -- 6: its entries are freed and counted
  let l := s.ownEntries c p
  let bytes := (l.map fun e => e.2.data.length).sum
  let s := l.foldl (fun s e => s.freeLog cl e.1) s
  -- 7: its bytes are written through
  let s := (s.releaseAll c p).anyway
  let s := s.reportDeath x c p cause sub bytes
  s.endStrand c p (match x.member with | .crew _ _ _ _ => true | _ => false)

/-- A death waits: for room in the filter (R171), or while another region or the host holds bytes that the strand must
write through (R361, R130). -/
def State.purgeHeld (s : State) (c p : Nat) : Bool :=
  64 ≤ (s.die (dieOf c)).filter.length || (s.abortOwn c p 8).releaseHeld c p

/-- A strand dies: at once, or when the filter has room (R171) and neither another region nor the host holds bytes
that it must write through (R361, R130). -/
def State.killOne (s : State) (c p cause sub : Nat) : State :=
  let x := s.strand c p
  if x.st = .idle then s
  else if s.purgeHeld c p then
    let s := s.setSt c p .stopped
    let y := s.strand c p
    (s.setStrand c p { y with dying := some (cause, sub), stopBy := .machine, wait := .none, op := none }).withdraw c p
  else s.purge c p cause sub

/-- The strands of a band. -/
def State.bandOf (s : State) (l b : Nat) : List (Nat × Nat) :=
  s.cores.flatMap fun e => (e.2.strands.filter fun y =>
    match y.2.member with
    | .crew l' b' _ _ => l' = l && b' = b
    | _ => false).map fun y => (e.1, y.1)

/-- A task dies; the death of a crew strand kills its whole band (R170). -/
def State.kill (s : State) (c p cause sub : Nat) : State :=
  match (s.strand c p).member with
  | .crew l b _ _ => (s.bandOf l b).foldl (fun s q => s.killOne q.1 q.2 cause sub) s
  | _ => s.killOne c p cause sub

/-- A launch record is gone: nothing of its launch is placed any more. -/
def State.launchDrop (s : State) (r : LRec) : State :=
  match r.launch with
  | none => s
  | some n =>
    match mapGet? s.porch.launches n with
    | none => s
    | some l => { s with porch := { s.porch with launches := mapPut s.porch.launches n { l with toPlace := 0 } } }

/-- Everything of a virtual device dies with CONTEXT_FATAL, on every die: strands, queued records, jobs
(R173). -/
def State.killVd (s : State) (vd : Nat) : State :=
  let l := s.cores.flatMap fun e => (e.2.strands.filter fun y =>
    y.2.st ≠ .idle && (s.ctx (clusterOf e.1) y.2.tag.toNat).img.vd = vd).map fun y => (e.1, y.1)
  let s := l.foldl (fun s q => s.killOne q.1 q.2 0x12 0) s
  let s := (List.range 8).foldl (fun s d =>
    let x := s.die d
    (mapGet [] x.launchQ vd).foldl State.launchDrop (s.setDie d { x with launchQ := mapDel x.launchQ vd })) s
  let q := mapGet [] s.porch.anyQ vd
  let s := q.foldl State.launchDrop { s with porch := { s.porch with anyQ := mapDel s.porch.anyQ vd } }
  s.clusters.foldl (fun s k =>
    let mine (t : Task) : Bool := (s.ctx k.1 t.tag.toNat).img.vd = vd
    let k' := s.cluster k.1
    let dead := (k'.queue ++ k'.spill).filter mine
    let s := s.setCluster k.1 { k' with
      queue := k'.queue.filter fun t => !mine t, spill := k'.spill.filter fun t => !mine t }
    -- a queued record reports as a task that has not begun
    let s := dead.foldl (fun s t =>
      s.reportDeath { Strand.init with
        gti := t.gti, parent := t.parent, tag := t.tag, join := t.join, host := t.host
        regs := { RegSet.zero with pc := t.pc }, last := t.pc } (16 * k.1) 0 0x12 0 0) s
    let s := s.queueFreed k.1
    ((s.cluster k.1).jobs.filter fun e => e.2.vd = vd && e.2.unfinished).foldl
      (fun s e => s.jobCancel k.1 e.1) s) s

end Sys2Proof.Machine
end

