-- ==== Sys2Proof/Machine/Regs.lean ====
section
/-! DEFINITION. System registers and control space (R313, R314, R396, R403, R405). -/

namespace Sys2Proof.Machine

/-! Levels and indices -/

/-- Read level of a register: 0 U, 1 K, 2 L, 3 none (R313, R403). -/
def sysReadLevel (n : Nat) : Nat :=
  if n = 0 then 0
  else if [0x10, 0x11, 0x12, 0x13, 0x14, 0x15, 0x20, 0x21, 0x30, 0x40, 0x41, 0x42, 0x70, 0x73, 0x74,
      0x75, 0x76, 0x77, 0x800].contains n then 1
  else if [0x32, 0x50, 0x51, 0x60, 0x71, 0x72, 0xF00].contains n then 2
  else 3

/-- Write level of a register. -/
def sysWriteLevel (n : Nat) : Nat :=
  if n = 0 then 0
  else if [0x10, 0x11, 0x12, 0x13, 0x14, 0x15, 0x20, 0x21, 0x42, 0x70, 0x76].contains n then 1
  else if [0x30, 0x31, 0x40, 0x41, 0x50, 0x51, 0x60, 0x71, 0x72, 0x73, 0x74, 0x75, 0x77, 0xF00].contains n
    then 2
  else 3

/-- How many values the index of a register takes; none: the register has no index. -/
def sysRange (n : Nat) : Option Nat :=
  if [0x10, 0x11, 0x12, 0x13, 0x14].contains n then some 16
  else if n = 0x15 then some 128
  else if n = 0x40 then some 512
  else if [0x41, 0x42, 0x51, 0x76, 0xF00].contains n then some 64
  else if n = 0x60 then some 4096
  else if n = 0x70 then some 8
  else if n = 0x800 then some (4 * 616)
  else none

/-- The index is in the register's range (R313); of loopmap's four words a stop, w is 0 to 2. -/
def sysIndexOk (n : Nat) (a : Word) : Bool :=
  match sysRange n with
  | some k => a.toNat < k && !(n = 0x800 && a.toNat % 4 = 3)
  | none => true

/-- An index names the context or virtual device of a keeper's own (R313). -/
def sysOwnIndex (n tag vd : Nat) (a : Word) : Bool :=
  if [0x10, 0x11, 0x12, 0x13, 0x14].contains n then a.toNat = tag
  else if n = 0x15 then a.toNat / 8 = tag
  else if n = 0x40 then a.toNat / 8 = vd
  else if [0x41, 0x42, 0x76].contains n then a.toNat = vd
  else true

/-- A frame-number register: bits [47:16]. -/
def frameField (v : Word) : Word := v &&& 0x0000FFFFFFFF0000

/-- Default entry `k` of a cluster's neighbour list (R67). -/
def defaultNbr (cl k : Nat) : Nat :=
  let x := cl % 16
  let y := cl % 512 / 16
  let d := k / 4 + 1
  if k % 4 = 0 then (y * 16 + (x + d) % 16)
  else if k % 4 = 1 then ((y + d) % 32 * 16 + x)
  else if k % 4 = 2 then (y * 16 + (x + 16 - d) % 16)
  else ((y + 32 - d) % 32 * 16 + x)

/-- Entry `k` of the neighbour list of a context. -/
def State.nbr (s : State) (cl tag k : Nat) : Word :=
  match mapGet? (s.ctx cl tag).nbr k with
  | some w => w
  | none => BitVec.ofNat 64 (2 ^ 15 + defaultNbr cl k)

/-! The landlord's error record (R173, R313) -/

/-- Record an address and a virtual device in the first entry that is not valid. -/
def State.logError (s : State) (d addr vd : Nat) : State :=
  let x := s.die d
  match (List.range 64).find? fun i => !(mapGet 0 x.hbmerr i).getLsbD 63 with
  | none => s
  | some i =>
    let w : Word := frameField (BitVec.ofNat 64 addr) ||| BitVec.ofNat 64 (2 ^ 63 + vd % 64 * 2 ^ 48)
    s.setDie d { x with hbmerr := mapPut x.hbmerr i w }

/-! Die scope -/

/-- Bits of loops 64w to 64w + 63 at a stop (R20, R313). -/
def loopWord (d stop w : Nat) : Word :=
  BitVec.ofNat 64 (((List.range 64).map fun j =>
    if loopMap d stop (64 * w + j) then 2 ^ j else 0).sum)

def State.leaseRead (s : State) (vd : Nat) : Word :=
  mapGet 0 s.porch.lease.words vd ||| (if s.porch.lease.active = some vd then 2 ^ 32 else 0)

/-- A register of die scope (R314); anything else reads zero. -/
def State.dieRead (s : State) (d n i : Nat) : Word :=
  let x := s.die d
  if n = 0x30 then x.miglimit.zeroExtend 64
  else if n = 0x32 then BitVec.ofNat 64 x.pool.length
  else if n = 0x40 then mapGet 0 (s.die (i % 8)).alloc (i / 8)
  else if n = 0x41 then mapGet 0 x.weight i
  else if n = 0x60 then (s.cluster (512 * d + i)).inc.zeroExtend 64
  else if n = 0x71 then x.trace.base
  else if n = 0x72 then x.trace.size
  else if n = 0x73 then x.trace.ctl
  else if n = 0x74 then x.trace.head
  else if n = 0x75 then x.trace.vds
  else if n = 0x76 then s.leaseRead i
  else if n = 0x77 then x.leasemax.zeroExtend 64
  else if n = 0x800 then loopWord d (i / 4) (i % 4)
  else if n = 0xF00 then mapGet 0 x.hbmerr i
  else 0

/-- A keeper's write of lease queues a request (R405). -/
def State.leaseWrite (s : State) (d vd : Nat) (v : Word) : State :=
  let l := s.porch.lease
  let len := min (v.extractLsb' 0 32).toNat (s.die d).leasemax.toNat
  let slices := (v.extractLsb' 48 16).toNat
  let q := l.queue.filter (· ≠ vd)
  let l := { l with
    words := mapPut l.words vd (BitVec.ofNat 64 (slices * 2 ^ 48 + len))
    queue := if slices = 0 || len = 0 then q else if l.queue.contains vd then l.queue else q ++ [vd] }
  { s with porch := { s.porch with lease := l } }

/-- A frame joins a die's pool, and replays that wait for one are due again; none when the frame is refused
(R12, R106, R167). -/
def State.poolPush (s : State) (d : Nat) (v : Word) : Option State :=
  let f := (frameField v).toNat
  if f = 0 || !populated f then none
  else
    let x := s.die d
    let s := s.setDie d { x with pool := x.pool ++ [f] }
    some { s with clusters := s.clusters.map fun k =>
      (k.1, { k.2 with log := k.2.log.map fun e =>
        (e.1, if e.2.frame = some d then { e.2 with frame := none, sub := 0 } else e.2) }) }

/-- The landlord resets a cluster that it has declared dead (R179): what it held is gone, its strands, jobs
and records die, its number goes up, and every home is to hear of it. Not again before all have. What the notice of
a death that waits (R171) needs stays: the strand's side-log entries, which it counts (R180), and its context. -/
def State.clusterReset (s : State) (cl : Nat) : State :=
  let k := s.cluster cl
  if !k.unacked.isEmpty then s
  else
    let s := s.setCache cl []
    let l := (coresOf cl).flatMap fun c => (List.range 6).map fun p => (c, p)
    let s := l.foldl (fun s q => if (s.strand q.1 q.2).st = .idle then s else s.kill q.1 q.2 0x12 0) s
    let s := ((s.cluster cl).jobs.filter fun e => e.2.unfinished).foldl (fun s e => s.jobCancel cl e.1) s
    let k := s.cluster cl
    let s := (k.queue ++ k.spill).foldl (fun s t =>
      s.reportDeath { Strand.init with
        gti := t.gti, parent := t.parent, tag := t.tag, join := t.join, host := t.host
        regs := { RegSet.zero with pc := t.pc }, last := t.pc } (16 * cl) 0 0x12 0 0) s
    let s := (coresOf cl).foldl (fun s c =>
      s.setCore c { s.core c with porter := Porter.init, rep := none, saved := none, preK := false, preL := false }) s
    let waits (f : Strand → Bool) : Bool := l.any fun q => (s.strand q.1 q.2).dying.isSome && f (s.strand q.1 q.2)
    s.setCluster cl { Cluster.init with
      inc := k.inc + 1, jobs := k.jobs, unacked := (List.range 768)
      log := k.log.filter fun e => waits fun x => x.gti = e.2.gti
      ctxs := k.ctxs.filter fun e => waits fun x => x.tag.toNat = e.1 }

/-- Tracing begins when its enable and a buffer come together: a SYNC of this cycle comes before the first record
(R402). -/
def Trace.renew (old t : Trace) (cycle : Nat) : Trace :=
  let on (t : Trace) : Bool := t.ctl.getLsbD 0 && t.size ≠ 0
  if on t && !on old then { t with sync := none, began := cycle } else t

/-- Records that dropped stamps stand for: those that would be written, and those that a LOST record counts (R404). -/
def Trace.lostBy (t : Trace) (l : List Stamp) : Nat :=
  (l.map fun x => if x.kind = 8 then x.aux.toNat else (t.vds.getLsbD (x.gti.extractLsb' 26 6).toNat).toNat).sum

/-- The trace unit of a die gets another buffer size: what its cores have stamped before is counted lost (R407). -/
def State.traceSize (s : State) (d : Nat) (v : Word) : State :=
  let x := s.die d
  let t := { x.trace with size := v }
  let s := s.setDie d { x with trace := x.trace.renew t s.cycle }
  { s with cores := s.cores.map fun e =>
    if dieOf e.1 = d then
      (e.1, { e.2 with stamps := [], stampLost := e.2.stampLost + x.trace.lostBy e.2.stamps })
    else e }

/-- Write a register of die scope; none when the write is refused (R313). -/
def State.dieWrite (s : State) (d n i : Nat) (v : Word) : Option State :=
  let x := s.die d
  if n = 0x30 then some (s.setDie d { x with miglimit := v.extractLsb' 0 32 })
  else if n = 0x31 then s.poolPush d v
  else if n = 0x40 then
    let y := s.die (i % 8)
    let old := mapGet 0 y.alloc (i / 8)
    let w := (old &&& 0x00007FFF00000000) ||| (v &&& 0x000000007FFFFFFF)
    some (s.setDie (i % 8) { y with alloc := mapPut y.alloc (i / 8) w })
  else if n = 0x41 then
    let old := mapGet 0 x.weight i
    let depth := (v.extractLsb' 48 16).toNat
    let level := min (old.extractLsb' 16 16).toNat depth
    let w := (v &&& 0xFFFFFFFF000000FF) ||| BitVec.ofNat 64 (level * 2 ^ 16)
    some (s.setDie d { x with weight := mapPut x.weight i w })
  else if n = 0x60 then some (if v.getLsbD 8 then s.clusterReset (512 * d + i) else s)
  else if n = 0x71 then some (s.setDie d { x with trace := { x.trace with base := frameField v } })
  else if n = 0x72 then some (s.traceSize d (v &&& 0xFFFF))
  else if n = 0x73 then
    let t := { x.trace with ctl := v &&& 0x0000000300000001 }
    some (s.setDie d { x with trace := x.trace.renew t s.cycle })
  else if n = 0x74 then
    some (s.setDie d { x with trace := { x.trace with head := v &&& (~~~7), full := false } })
  else if n = 0x75 then some (s.setDie d { x with trace := { x.trace with vds := v } })
  else if n = 0x76 then some (s.leaseWrite d i v)
  else if n = 0x77 then some (s.setDie d { x with leasemax := v.extractLsb' 0 32 })
  else if n = 0xF00 then
    let old := mapGet 0 x.hbmerr i
    -- the fields are written, and valid is cleared by a one
    let w := (v &&& 0x003FFFFFFFFF0000) ||| (old &&& ~~~v &&& 0x8000000000000000)
    some (s.setDie d { x with hbmerr := mapPut x.hbmerr i w })
  else some s

/-! Control space (R314) -/

def ctlDie (pa : Nat) : Nat := pa / 2 ^ 40 % 16
def ctlNum (pa : Nat) : Nat := pa / 2 ^ 24 % 2 ^ 16
def ctlIndex (pa : Nat) : Nat := pa / 8 % 2 ^ 21

/-- Die-scope registers. -/
def dieScope (n : Nat) : Bool :=
  [0x30, 0x31, 0x32, 0x40, 0x41, 0x60, 0x71, 0x72, 0x73, 0x74, 0x75, 0x76, 0x77, 0x800, 0xF00].contains n

/-- A doubleword of control space names a register. -/
def ctlKnown (pa : Nat) : Bool :=
  let n := ctlNum pa
  let i := BitVec.ofNat 64 (ctlIndex pa)
  if n = 0x42 then ctlDie pa = 8 && sysIndexOk n i
  else if n = 0x60 then ctlDie pa < 8 && ctlIndex pa < 512
  else ctlDie pa < 8 && dieScope n && sysIndexOk n i && ((sysRange n).isSome || ctlIndex pa = 0)

/-- hostctx holds a physical address of space 0, 64-byte aligned (R313). -/
def hostctxField (v : Word) : Word := v &&& 0x00000FFFFFFFFFC0

/-- The doubleword of control space that holds an address. -/
def State.ctlReadWord (s : State) (pa : Nat) : Word :=
  if !ctlKnown pa then 0
  else if ctlNum pa = 0x42 then mapGet 0 s.porch.hostctx (ctlIndex pa)
  else s.dieRead (ctlDie pa) (ctlNum pa) (ctlIndex pa)

/-- Write a doubleword of control space: other addresses, and what the register refuses, are ignored. -/
def State.ctlWriteWord (s : State) (pa : Nat) (v : Word) : State :=
  if !ctlKnown pa then s
  else if ctlNum pa = 0x42 then
    { s with porch := { s.porch with hostctx := mapPut s.porch.hostctx (ctlIndex pa) (hostctxField v) } }
  else (s.dieWrite (ctlDie pa) (ctlNum pa) (ctlIndex pa) v).getD s

def State.ctlBytes (s : State) (pa n : Nat) : List PByte :=
  (List.range n).map fun j =>
    ⟨(s.ctlReadWord ((pa + j) / 8 * 8)).extractLsb' (8 * ((pa + j) % 8)) 8, false⟩

/-- A store to control space: a doubleword written in part keeps its other bytes as they read. -/
def State.ctlStore (s : State) (pa : Nat) (data : List PByte) : State :=
  (wordsOf pa data.length).foldl (fun s w =>
    let old := s.ctlReadWord w
    let v := (List.range 8).foldl (fun (v : Word) j =>
      match runByte pa data (w + j) with
      | some b => (v &&& ~~~((0xFF : Word) <<< (8 * j))) ||| (b.v.zeroExtend 64 <<< (8 * j))
      | none => v) old
    s.ctlWriteWord w v) s

/-! Registers of a core, its cluster and its die, as SYSR and SYSW reach them (R313) -/

/-- SYSR of a register other than fs by the porter or a strand of a core; `vd` is the issuer's. -/
def State.sysRead (s : State) (c vd n i : Nat) : Word :=
  let cl := clusterOf c
  let k := s.core c
  if n = 0x10 then (s.ctx cl i).root
  else if n = 0x11 then (s.ctx cl i).spillbase
  else if n = 0x12 then (s.ctx cl i).spillcap
  else if n = 0x13 then (s.ctx cl i).ringbase
  else if n = 0x14 then (s.ctx cl i).ringsize
  else if n = 0x15 then s.nbr cl (i / 8) (i % 8)
  else if n = 0x20 then k.ctxbuf
  else if n = 0x21 then BitVec.ofNat 64 (k.preK.toNat + 2 * k.preL.toNat)
  else if n = 0x42 then mapGet 0 s.porch.hostctx i
  else if n = 0x50 then k.lltab
  else if n = 0x51 then mapGet 0 k.llsave i
  else if n = 0x60 then s.dieRead (i / 512) n (i % 512)
  else if n = 0x70 then mapGet 0 s.porch.brk (8 * vd + i)
  else s.dieRead (dieOf c) n i

/-- A DVA register aligned to a power of two: the bits above and below its field are not held, which is the model's
choice (log 116). -/
def dvaField (v : Word) (align : Nat) : Word := BitVec.ofNat 64 (v.toNat % 2 ^ 56 / align * align)

/-- SYSW of a register other than fs; none when the write raises ILLEGAL. Bits that a register's line does not list are
not held (log 116), and bit 1 of preempt does nothing below level L (log 123): the model's choices. -/
def State.sysWrite (s : State) (c vd n i : Nat) (landlord : Bool) (tag : Nat) (v : Word) : Option State :=
  let cl := clusterOf c
  let k := s.core c
  let x := s.ctx cl i
  if n = 0x10 then
    if v.getLsbD 16 then none else some (s.setCtx cl i { x with root := frameField v })
  else if n = 0x11 then some (s.setCtx cl i { x with spillbase := dvaField v 64 })
  else if n = 0x12 then some (s.setCtx cl i { x with spillcap := v &&& 0xFFFF })
  else if n = 0x13 then some (s.setCtx cl i { x with ringbase := dvaField v 64 })
  else if n = 0x14 then some (s.setCtx cl i { x with ringsize := v &&& 0xFFFF })
  else if n = 0x15 then
    let y := s.ctx cl (i / 8)
    some (s.setCtx cl (i / 8) { y with nbr := mapPut y.nbr (i % 8) (v &&& 0x81FF) })
  else if n = 0x20 then some (s.setCore c { k with ctxbuf := dvaField v 65536 })
  else if n = 0x21 then
    some (s.setCore c { k with
      preK := k.preK || v.getLsbD 0, preL := k.preL || (landlord && v.getLsbD 1)
      preTag := if v.getLsbD 0 && !k.preK then BitVec.ofNat 4 tag else k.preTag })
  else if n = 0x42 then
    some { s with porch := { s.porch with hostctx := mapPut s.porch.hostctx i (hostctxField v) } }
  else if n = 0x50 then some (s.setCore c { k with lltab := dvaField v 256 })
  else if n = 0x51 then some (s.setCore c { k with llsave := mapPut k.llsave i v })
  else if n = 0x60 then s.dieWrite (i / 512) n (i % 512) v
  else if n = 0x70 then
    some { s with porch := { s.porch with
      brk := mapPut s.porch.brk (8 * vd + i) (v &&& 0x80FFFFFFFFFFFFFF) } }
  else s.dieWrite (dieOf c) n i v

end Sys2Proof.Machine
end

