-- ==== Sys2Proof/Machine/Frames.lean ====
section
/-! DEFINITION. Room at homes for agents that take their frames themselves, and the spaces other than device memory
(R99, R106, R107, R131, R314, R398). -/

namespace Sys2Proof.Machine

/-! Room (R98, R99, R106) -/

/-- What an agent that takes its frames itself finds. -/
inductive Space where
  | ok (s : State)
  | wait
  /-- the pool is empty: the slice and its die -/
  | empty (slice : Nat)

/-- Room for a write in one bay, taking frames for frameless victims as they are needed (R106, R107). -/
def State.spaceBay (s : State) (sp : ASpace) (l : Leaf) (vd a n : Nat) : Nat → Space
  | 0 => .wait
  | fuel + 1 =>
    match s.roomWrite sp l vd a n with
    | .ok s => .ok s
    | .refused => .wait
    | .frame e =>
      match s.backPage e.leaf with
      | some t => if t.short.isSome then .wait else t.spaceBay sp l vd a n fuel
      | none => .empty (homeSlice l.home a)

/-- Room in every bay of a range. -/
def State.space (s : State) (sp : ASpace) (l : Leaf) (vd a n : Nat) : Space :=
  (baysOf a n).foldl (fun r b =>
    match r with
    | .ok s => s.spaceBay sp l vd b.1 b.2.2 32
    | r => r) (.ok s)

/-! Host memory, peers, control space (R131, R314, R398) -/

/-- Bytes that no home of the device holds, by physical address: host memory, a peer's memory, control space;
a free value for each byte in the other spaces, which the spec does not give. -/
def State.farRead (s : State) (pa n : Nat) : List PByte × State :=
  let l := List.range n
  if paSpace pa = 1 then (l.map fun j => ⟨s.hostByteAt (pa + j), false⟩, s)
  else if paSpace pa = 2 then (l.map fun j => ⟨s.peerByteAt (pa + j), false⟩, s)
  else if paSpace pa = 15 then (s.ctlBytes pa n, s)
  else
    (l.map fun j => ⟨(Config.free (s.free + j)).extractLsb' 0 8, false⟩, { s with free := s.free + n })

/-- A store there; in the spaces that the spec does not give it has no effect. -/
def State.farWrite (s : State) (pa : Nat) (data : List PByte) : State :=
  if paSpace pa = 1 then { s with hostMem := putBytes s.hostMem pa (data.map (·.v)) }
  else if paSpace pa = 2 then { s with peerMem := putBytes s.peerMem pa (data.map (·.v)) }
  else if paSpace pa = 15 then s.ctlStore pa data
  else s

end Sys2Proof.Machine
end

