-- ==== Sys2Proof/Machine/LsFam.lean ====
section
/-! DEFINITION. The LS group (R282 to R286). -/

namespace Sys2Proof.Machine

/-- The LS address of an operand: A unsigned plus the displacement, exactly (R283). -/
def lsAddr (m : LMem) (v : View) : Except TrapInfo Nat :=
  let x := v.s v.a m.a
  if x.p then .error (tPoison 1) else .ok (x.v.toNat + m.disp.toNat)

/-- The range check of an access of `n` bytes (R85). -/
def lsCheck (a n : Nat) : Except TrapInfo Unit := if 0x5FFF < a + n - 1 then .error (tLsRange a) else .ok ()

/-- What a local-store form does: the ranges it reads, for the guards, and its effects. -/
structure LsDo where
  reads : List (Nat × Nat)
  effs : List Eff

/-- Issue a local-store form: its reads touch guards (R88), then its effects. -/
def State.lsIssue (s : State) (g : Guard) (f : Form) (fx : Core → View → Except TrapInfo LsDo) : State :=
  s.issue g f (fx (s.core s.cur.core)) fun s r =>
    let s := s.takeSrcs f.use
    let s := r.reads.foldl (fun s x => s.guardTouch s.cur.core s.cur.pos x.1 x.2) s
    s.retire r.effs

def bytesVal (l : List PByte) : Nat := leNat (l.map (·.v))
def bytesP (l : List PByte) : Bool := l.any (·.p)

/-- A vector and its poison from 64 bytes or fewer, missing lanes zero. -/
def vecOfBytes (l : List PByte) : PVec :=
  ⟨BitVec.ofNat 512 (bytesVal l), wordsP 8 (l.map (·.p))⟩

/-- The bytes of a vector, each with the poison of its word. -/
def bytesOfVec (x : PVec) : List PByte :=
  (List.range 64).map fun j => ⟨x.x.extractLsb' (8 * j) 8, x.p.getLsbD (j / 8)⟩

/-- The low `n` bytes of a scalar. -/
def bytesOfScalar (n : Nat) (x : PWord) : List PByte := (leBytes n x.v.toNat).map (⟨·, x.p⟩)

def formLd (d : SOp) (m : LMem) : Form := { use := { a := chS m.a, dst := chS d } }

def fxLd (w : WMod) (d : SOp) (m : LMem) (k : Core) (v : View) : Except TrapInfo LsDo := do
  let a ← lsAddr m v
  let n := 2 ^ w.w.val
  lsCheck a n
  let b := lsBytes k a n
  let l ← putS d (extend (8 * n) w.sgn (bytesVal b)) (bytesP b) 3
  pure ⟨[(a, n)], l⟩

def execLd (g : Guard) (w : WMod) (d : SOp) (m : LMem) (s : State) : Result :=
  .next (s.lsIssue g (formLd d m) (fxLd w d m))

def formSt (d : SOp) (m : LMem) : Form := { use := { a := chS m.a, d := chS d } }

def fxSt (w : Fin 4) (d : SOp) (m : LMem) (_k : Core) (v : View) : Except TrapInfo LsDo := do
  let a ← lsAddr m v
  let n := 2 ^ w.val
  lsCheck a n
  pure ⟨[], [.ls a (bytesOfScalar n (v.s v.d d))]⟩

def execSt (g : Guard) (w : Fin 4) (d : SOp) (m : LMem) (s : State) : Result :=
  .next (s.lsIssue g (formSt d m) (fxSt w d m))

def fxVld (d : VOp) (m : LMem) (k : Core) (v : View) : Except TrapInfo LsDo := do
  let a ← lsAddr m v
  lsCheck a 64
  let l ← putV d (vecOfBytes (lsBytes k a 64)) 3
  pure ⟨[(a, 64)], l⟩

def execVld (g : Guard) (d : VOp) (m : LMem) (s : State) : Result :=
  .next (s.lsIssue g { use := { a := chS m.a, dst := chV d, vecs := vecV d } } (fxVld d m))

def fxVst (d : VOp) (m : LMem) (_k : Core) (v : View) : Except TrapInfo LsDo := do
  let a ← lsAddr m v
  lsCheck a 64
  pure ⟨[], [.ls a (bytesOfVec (v.v v.d d))]⟩

def execVst (g : Guard) (d : VOp) (m : LMem) (s : State) : Result :=
  .next (s.lsIssue g { use := { a := chS m.a, d := chV d, vecs := vecV d } } (fxVst d m))

/-- The addresses of the elements of VGATH and VSCAT: POISON for a poisoned index, then LS_RANGE of the
lowest-numbered failing element (R284, R159, R163). -/
def elemAddrs (w a : Nat) (x : PVec) : Except TrapInfo (List Nat) :=
  let l := (List.range (lanes w)).map fun i => a + elem w x.x i * (w / 8)
  if x.p ≠ 0 then .error (tPoison 2)
  else match l.find? fun y => decide (0x5FFF < y + w / 8 - 1) with
    | some y => .error (tLsRange y)
    | none => .ok l

def fxVgath (t : ETy) (d : VOp) (m : LMem) (b : VOp) (k : Core) (v : View) : Except TrapInfo LsDo := do
  let a ← lsAddr m v
  let w := tyBits t
  let l ← elemAddrs w a (v.v v.b b)
  let els : List ERes := l.map fun y => let x := lsBytes k y (w / 8); (bytesVal x, bytesP x, 0)
  let e ← putElems d w els 3
  pure ⟨l.map fun y => (y, w / 8), e⟩

def execVgath (g : Guard) (t : ETy) (d : VOp) (m : LMem) (b : VOp) (s : State) : Result :=
  .next (s.lsIssue g
    { use := { a := chS m.a, b := chV b, dst := chV d, vecs := vecV d ++ vecV b } } (fxVgath t d m b))

def fxVscat (t : ETy) (d : VOp) (m : LMem) (b : VOp) (_k : Core) (v : View) : Except TrapInfo LsDo := do
  let a ← lsAddr m v
  let w := tyBits t
  let l ← elemAddrs w a (v.v v.b b)
  let x := v.v v.d d
  pure ⟨[], l.zipIdx.map fun y =>
    .ls y.1 ((leBytes (w / 8) (elem w x.x y.2)).map (⟨·, elemP w x.p y.2⟩))⟩

def execVscat (g : Guard) (t : ETy) (d : VOp) (m : LMem) (b : VOp) (s : State) : Result :=
  .next (s.lsIssue g
    { use := { a := chS m.a, b := chV b, d := chV d, vecs := vecV d ++ vecV b } } (fxVscat t d m b))

/-- The granules that LSGUARD changes and the value they take (R285). -/
def fxLsguard (d : SOp) (m : LMem) (v : View) : Except TrapInfo (Nat × Nat × Bool) :=
  let z := v.s v.d d
  match lsAddr m v with
  | .error t => .error t
  | .ok a =>
    if z.p then .error (tPoison 0)
    else
      let n := (z.v.extractLsb' 0 9).toNat
      if 384 < a / 64 + n then .error (tLsRange a) else .ok (a / 64, n, z.v.getLsbD 16)

/-- Set or clear granules. -/
def setGuards (k : Core) (i n : Nat) (b : Bool) : Core :=
  let l := (List.range n).map (i + ·)
  { k with guards := l.foldl (fun g j => if b then setAdd g j else setDel g j) k.guards }

def formLsguard (d : SOp) (m : LMem) : Form := { use := { a := chS m.a, d := chS d } }

def execLsguard (g : Guard) (d : SOp) (m : LMem) (s : State) : Result :=
  .next (s.issue g (formLsguard d m) (fxLsguard d m) fun s r =>
    let s := s.takeSrcs (formLsguard d m).use
    (s.setCore s.cur.core (setGuards (s.core s.cur.core) r.1 r.2.1 r.2.2)).retire [])

end Sys2Proof.Machine
end

