-- ==== Sys2Proof/Machine/Engine.lean ====
section
/-! DEFINITION. Engine accesses and the unit steps of the four kinds of job (R124, R377 to R383). -/

namespace Sys2Proof.Machine

/-! The cluster's port, for an agent of the cluster that completes in one step (R92, R124) -/

/-- The parts of a gap that a cluster caches as C when its bytes come from their home: those that it holds as
neither D nor A. -/
def State.keepRead (s : State) (cl vd : Nat) (sp : ASpace) (l : Leaf) (a : Nat) (b : List PByte) : State :=
  (runsBy (fun x => (s.cext cl sp x).all fun e => e.st = .c) a b).foldl (fun s r =>
    if (s.cext cl sp r.1).all fun e => e.st = .c then s.putRun cl sp l vd .c 6 r.1 r.2 else s) s

/-- A load of a range of one page through a cluster's cache: A bytes are combined first, the words that are not
there whole come from their homes, on JOB, and stay as C (R37, R92, R94, R114; log 111). -/
def State.portLoad (s : State) (cl vd : Nat) (sp : ASpace) (l : Leaf) (a n : Nat) : List PByte × State :=
  let s := s.combineOwn cl sp a n
  let runs := runsBy (s.bindable cl l sp a n) a (List.replicate n ⟨0, false⟩)
  let gaps := (runs.filter fun r => !s.bindable cl l sp a n r.1).flatMap fun r =>
    (baysOf r.1 r.2.length).map fun b => (b.1, b.2.2)
  let s := gaps.foldl (fun s r => s.settle cl sp l r.1 r.2 64) s
  let gap (x : Nat) : Bool := gaps.any fun r => r.1 ≤ x && x < r.1 + r.2
  let out := (List.range n).map fun j =>
    let x := a + j
    let home := s.homeByte (homeSlice l.home x) sp l x
    if gap x then (s.dirtyByte cl sp x).getD home else (s.hitByte cl l sp x).getD home
  let s := gaps.foldl (fun s r =>
    let sl := homeSlice l.home r.1
    let s := ((s.fillHome sp l vd r.1 r.2).clusterTraffic cl vd vcJOB l r.1 r.2).supersede cl sp l r.1 r.2
    let there := (List.range r.2).all fun j => (s.hext sl sp (r.1 + j)).any fun e => e.way ≠ 18
    if l.kind ≠ .strong then s.keepRead cl vd sp l r.1 (s.homeBytes sp l r.1 r.2)
    else if there then
      (s.share sl sp r.1 r.2 (sharerBit l.home cl)).keepRead cl vd sp l r.1 (s.homeBytes sp l r.1 r.2)
    else s) s
  (out, s)

/-! Engine accesses (R378) -/

/-- Why a unit step has no effect: the job ends or stops with a status, or it waits. -/
inductive EngErr where
  | stop (st : JobState) (status addr : Nat)
  | wait
  deriving Repr

/-- A unit step under way. -/
abbrev Eng := StateT State (Except EngErr)

def engFail {α : Type} (status : Nat) : Eng α := throw (.stop .error status 0)

/-- A job with the cluster that runs it. -/
structure Run where
  cl : Nat
  job : Job

/-- Bytes [a, e) lie in footprints of a card with a mode, footprint by footprint. `fuel` bounds them. -/
def cardHolds (c : List Word) (wr : Bool) : Nat → Nat → Nat → Bool
  | 0, a, e => e ≤ a
  | fuel + 1, a, e =>
    e ≤ a ||
    (let top := ((footprints c).map fun x =>
      if (if wr then x.2.2.2 else x.2.2.1) && x.1 ≤ a then x.1 + x.2.1 else 0).foldl max 0
    a < top && cardHolds c wr fuel top e)

/-- [a, a + n) cut at page boundaries. -/
def pagesOf (a n : Nat) : List (Nat × Nat) :=
  if n = 0 then []
  else (List.range ((a + n - 1) / 2 ^ 16 - a / 2 ^ 16 + 1)).map fun j =>
    let lo := max a (2 ^ 16 * (a / 2 ^ 16 + j))
    let hi := min (a + n) (2 ^ 16 * (a / 2 ^ 16 + j + 1))
    (lo, hi - lo)

/-- The footprint check and the translation of every page of an access: (DVA, length, leaf). -/
def engPages (r : Run) (a : Int) (n : Nat) (wr : Bool) : Eng (List (Nat × Nat × Leaf)) := do
  if a < 0 || (2 : Int) ^ 56 < a + n || !cardHolds r.job.card wr 5 a.toNat (a.toNat + n) then
    engFail 0x8003
  else
    (pagesOf a.toNat n).mapM fun p => do
      let s ← get
      match s.translate r.job.core r.cl r.job.tag.toNat false (if wr then .store else .load (.ls 0)) p.1 with
      | (.ok l, s) => set s; pure (p.1, p.2, l)
      | (.error k, t) => if t.short.isSome then throw .wait else throw (.stop .stopped (0x8010 + k) p.1)

/-- Go on in a state that an access to a DVA brought about, unless it was short of room: then the step waits, or
the job stops for want of a frame (R107). -/
def engRoom (t : State) (dva : Nat) : Eng Unit :=
  match t.short with
  | none => set t
  | some none => throw .wait
  | some (some _) => throw (.stop .stopped 0x8007 dva)

/-- An engine read through the issuing cluster. -/
def engRead (r : Run) (a : Int) (n : Nat) : Eng (List PByte) := do
  let ps ← engPages r a n false
  let bs ← ps.mapM fun p => do
    let s ← get
    let (sp, ad) := keyOf p.2.2 r.job.vd p.1
    if !p.2.2.near then
      let (b, s) := s.farRead ad p.2.1
      set s
      pure b
    else if s.blocked sp p.2.2 ad p.2.1 false || s.busyAt sp p.2.2 ad p.2.1 then throw .wait
    else
      let s := s.countProbes r.job.core r.job.vd p.2.2 sp p.1 ad p.2.1
      let (b, t) := s.portLoad r.cl r.job.vd sp p.2.2 ad p.2.1
      engRoom t p.1
      pure b
  pure bs.flatten

/-- An engine write: every page is translated before any byte is written, and nothing is written when some home has
no room. -/
def engWrite (r : Run) (a : Int) (data : List PByte) : Eng Unit := do
  let ps ← engPages r a data.length true
  for p in ps do
    let s ← get
    let (sp, ad) := keyOf p.2.2 r.job.vd p.1
    let b := (data.drop (p.1 - a.toNat)).take p.2.1
    if !p.2.2.near then set (s.farWrite ad b)
    else if s.blocked sp p.2.2 ad p.2.1 true || s.busyAt sp p.2.2 ad p.2.1 then throw .wait
    else
      let s := s.countProbes r.job.core r.job.vd p.2.2 sp p.1 ad p.2.1
      engRoom (s.portStore r.cl r.job.vd sp p.2.2 ad b (if cardKind r.job.card = 4 then r.job.cellar else none)) p.1

/-- A read of W by the cellar engine of die `h`: straight from its stack (R383). -/
def engCellar (r : Run) (h : Nat) (a : Int) (n : Nat) : Eng (List PByte) := do
  let ps ← engPages r a n false
  let bs ← ps.mapM fun p => do
    let l := p.2.2
    if l.write || !l.near || l.loft || l.home ≠ h || stackOf l.frame ≠ h then engFail 0x8005
    else
      let s ← get
      let (_, ad) := keyOf l r.job.vd p.1
      pure ((List.range p.2.1).map fun j => s.hbmByte (ad + j))
  pure bs.flatten

/-! Rows (R146, R153) -/

/-- A run of T-blocks that holds `k` elements, at most `blocks` of them when a stride bounds it. `fuel`
bounds the blocks. -/
def engRow (rd : Int → Eng (List PByte)) (cb : BitVec 128) : Nat → Nat → Option Nat → Int → Eng (List Elem)
  | 0, _, _, _ => pure []
  | fuel + 1, k, blocks, a => do
    if k = 0 then pure []
    else if blocks = some 0 then engFail 0x8004
    else
      let b ← rd a
      let v := vecOfBytes b
      match blockElems cb v.x v.p with
      | .error _ => engFail 0x8004
      | .ok es =>
        let rest ← engRow rd cb fuel (k - es.length) (blocks.map (· - 1)) (a + 64)
        pure (es.take k ++ rest)

/-- A row of `k` elements of T-blocks through the cluster. -/
def engBlocks (r : Run) (cb : BitVec 128) (k : Nat) (blocks : Option Nat) (a : Int) : Eng (List Elem) :=
  engRow (fun x => engRead r x 64) cb k k blocks a

/-- Format of a plain FP code (R152). -/
def plainFmt (code : Nat) : Fmt := if code = 0x21 then fmt16 else if code = 0x22 then fmtBf16 else fmt32
def plainSize (code : Nat) : Nat := if code = 0x20 || code = 0x23 then 4 else 2

/-- The elements of a plain array. -/
def plainElems (code k : Nat) (b : List PByte) : List Elem :=
  let e := plainSize code
  (List.range k).map fun i =>
    let x := (b.drop (e * i)).take e
    if bytesP x then .poison
    else if code = 0x23 then .val (fvInt (intOf 32 true (bytesVal x)))
    else .val (fpDec (plainFmt code) (bytesVal x))

/-- Bytes of an embedding row. -/
def embedSize (code k : Nat) : Nat := 4 + (if code = 0x10 then k else (k + 1) / 2)

/-- The elements of an embedding row, dequantised (R153). -/
def embedElems (code k : Nat) (b : List PByte) : List Elem :=
  let byte (j : Nat) : PByte := b.getD j ⟨0, false⟩
  let bad := bytesP (b.take 4)
  let scale := bytesVal (b.take 2)
  let offset := bytesVal ((b.drop 2).take 2)
  (List.range k).map fun i =>
    let x := if code = 0x10 then byte (4 + i) else byte (4 + i / 2)
    let q := if code = 0x10 then x.v.toNat else x.v.toNat / 16 ^ (i % 2) % 16
    if bad || x.p then .poison else .val (fpDec fmt32 (dequant scale offset q).1)

/-- A row of any input format at an address. -/
def engElems (r : Run) (code k : Nat) (blocks : Option Nat) (a : Int) : Eng (List Elem) := do
  if code ≤ 0x0A then engBlocks r r.job.codebook k blocks a
  else if code ≤ 0x11 then
    let b ← engRead r a (embedSize code k)
    pure (embedElems code k b)
  else
    let b ← engRead r a (k * plainSize code)
    pure (plainElems code k b)

/-! Results (R148, R149, R374) -/

/-- A result's bits count in exc: a NaN, an infinity, or a saturated value. -/
def excOf (f : Fmt) (sat : Bool) (x : Nat) (fl : Flags) : Bool :=
  (match fpDec f x with | .fin _ _ _ => false | _ => true) || (sat && fl &&& fOF ≠ 0)

/-- A value written in a plain FP format: its bits, and whether it counts. -/
def putPlain (code : Nat) (rm : Rmode) (sat : Bool) : Elem → Nat × Bool
  | .poison => ((plainFmt code).nan, true)
  | .val v => let (x, fl) := fpPut (plainFmt code) rm sat v; (x, excOf (plainFmt code) sat x fl)

/-- The saturated elements of a quad-scaled group. -/
def groupClamped (rm : Rmode) (m : Nat) (sc : Int) (vs : List FV) : Nat :=
  let xs := vs.map magOf
  let a := xs.foldl magMax (0, 0)
  if a.1 = 0 then 0
  else
    let e0 := a.2 + (bitLen a.1 : Int) - 1 - sc + 128
    let (_, _, quads) := packLoop rm m sc xs 8 e0 false
    (((quads.map fun q => q.2).flatten).filter fun x => decide (2 ^ m ≤ x.1)).length

/-- The elements of one written T-block that count in exc. -/
def blockExc (cb : BitVec 128) (code : Nat) (rm : Rmode) (sat : Bool) (sc : Int) (xs : List Elem) : Nat :=
  if code ≤ 5 then
    (xs.filter fun x => match packElem cb code rm sat sc x with
      | some (y, fl) => excOf (blockFmt code) (sat || code = 4) y fl
      | none => true).length
  else if 7 ≤ code && code ≤ 9 then
    ((List.range ((xs.length + 15) / 16)).map fun g =>
      let ys := (xs.drop (16 * g)).take 16
      match ys.mapM elemVal? with
      | some vs => if vs.any FV.isNan then ys.length else groupClamped rm (quadBits code) sc vs
      | none => ys.length).sum
  else
    let rs := xs.map (packElem cb code rm sat sc)
    if rs.any Option.isNone then xs.length
    else (rs.filter fun x => match x with | some y => y.2 &&& fOF ≠ 0 | none => true).length

/-- A list of naturals as bytes of `e` each. -/
def packBytes (e : Nat) (l : List Nat) : List PByte := l.flatMap fun x => natBytes e x

/-! The unit steps -/

/-- What a unit step adds to its job: exceptions, indices dropped, the bag. -/
structure StepRes where
  exc : Nat
  dropped : Nat := 0
  bag : List (Option (BitVec 32)) := []

/-- Count of loop level L, and its signed strides of A, B and C (R372). -/
def nestN (c : List Word) (l : Nat) : Nat := ((word c 13).extractLsb' (12 * l) 12).toNat
def nestDepth (c : List Word) : Nat := ((word c 0).extractLsb' 16 3).toNat
def nestStride (c : List Word) (l k : Nat) : Int := ((word c (14 + l)).extractLsb' (21 * k) 21).toInt
def nestTotal (c : List Word) : Nat := ((List.range (nestDepth c)).map (nestN c)).foldl (· * ·) 1

/-- Indices of the nest at step `k`, innermost first (R377). -/
def nestIdx (c : List Word) (k : Nat) : List Nat :=
  ((List.range (nestDepth c)).foldl (fun (x : Nat × List Nat) l =>
    let n := max 1 (nestN c l)
    (x.1 / n, x.2 ++ [x.1 % n])) (k, [])).2

/-- The address of operand 0 A, 1 B, 2 C at a point of the nest (R377). -/
def nestAddr (c : List Word) (idx : List Nat) (op : Nat) : Int :=
  ((word c (10 + op)).toNat : Int) +
    64 * ((idx.zipIdx.map fun x => (x.1 : Int) * nestStride c x.2 op).foldl (· + ·) 0)

def cardFmtA (c : List Word) : Nat := ((word c 0).extractLsb' 24 8).toNat
def cardFmtB (c : List Word) : Nat := ((word c 0).extractLsb' 32 8).toNat
def cardFmtC (c : List Word) : Nat := ((word c 0).extractLsb' 40 8).toNat
def cardSat (c : List Word) : Bool := (word c 0).getLsbD 10
def cardZeroc (c : List Word) : Bool := (word c 0).getLsbD 9
def cardBag (c : List Word) : Bool := (word c 0).getLsbD 11

/-- The starting accumulators of `n` C elements (R379, R383). -/
def engInit (r : Run) (a : Int) (n code : Nat) : Eng (List (Option Nat)) := do
  if cardZeroc r.job.card then pure (List.replicate n (some 0))
  else
    let b ← engRead r a (n * plainSize code)
    pure ((plainElems code n b).map fun x =>
      match x with
      | .poison => none
      | .val v => some (fpPut fmt32 .rne false v).1)

/-- One result of a dot product, converted to a plain format: its bits, and whether it counts. -/
def dotOut (code : Nat) (rm : Rmode) (sat : Bool) (x : Option Nat × Flags) : Nat × Bool :=
  match x.1 with
  | none => ((plainFmt code).nan, true)
  | some acc =>
    let (y, fl) := fpPut (plainFmt code) rm sat (fpDec fmt32 acc)
    (y, excOf (plainFmt code) sat y (fl ||| x.2))

/-- MATMUL: one C tile (R379). -/
def matmulStep (r : Run) (idx : List Nat) : Eng StepRes := do
  let c := r.job.card
  let a := nestAddr c idx 0
  let b := nestAddr c idx 1
  let t := nestAddr c idx 2
  let w := word c 21
  let k := (w.extractLsb' 0 24).toNat
  let ar := (w.extractLsb' 24 20).toNat
  let br := (w.extractLsb' 44 20).toNat
  let cb : BitVec 128 := word c 23 ++ word c 22
  let sat := cardSat c
  let code := cardFmtC c
  let rows ← (List.range 16).mapM fun i => engBlocks r cb k (some ar) (a + 64 * ar * i)
  let cols ← (List.range 16).mapM fun i => engBlocks r cb k (some br) (b + 64 * br * i)
  let acc ← engInit r t 256 code
  let out := (rows.zipIdx.flatMap fun x => cols.zipIdx.map fun y =>
    dotOut code (rmodeOf r.job.rm) sat (dot sat x.1 y.1 (acc.getD (16 * x.2 + y.2) (some 0))))
  engWrite r t (packBytes (plainSize code) (out.map (·.1)))
  pure { exc := (out.filter (·.2)).length }

/-- COPY: bytes as they stand, or one row converted (R381). -/
def copyStep (r : Run) (idx : List Nat) : Eng StepRes := do
  let c := r.job.card
  let a := nestAddr c idx 0
  let t := nestAddr c idx 2
  let k := ((word c 21).extractLsb' 0 32).toNat
  let fa := cardFmtA c
  let fc := cardFmtC c
  let rm := rmodeOf r.job.rm
  let sat := cardSat c
  if fa = fc then
    let b ← engRead r a k
    engWrite r t b
    pure { exc := 0 }
  else
    let es ← engElems r fa k none a
    if fc ≤ 0x0A then
      let n := blockCount fc
      let sc := ((word c 22).extractLsb' 0 8).toInt
      let parts := (List.range ((k + n - 1) / n)).map fun j => (es.drop (n * j)).take n
      let data := parts.flatMap fun x => natBytes 64 (packBlock r.job.codebook fc rm sat sc x).1
      engWrite r t data
      pure { exc := (parts.map (blockExc r.job.codebook fc rm sat sc)).sum }
    else if fc = 0x23 then
      -- the value of a poison element is open in an INT32 array
      let s ← get
      let out := es.zipIdx.map fun x =>
        match x.1 with
        | .poison => ((Config.free (s.free + x.2)).toNat % 2 ^ 32, true)
        | .val v => let (i, fl) := fpToInt rm 32 true v; (natOf 32 i, fl &&& fNV ≠ 0)
      set { s with free := s.free + es.length }
      engWrite r t (packBytes 4 (out.map (·.1)))
      pure { exc := (out.filter (·.2)).length }
    else
      let out := es.map (putPlain fc rm sat)
      engWrite r t (packBytes (plainSize fc) (out.map (·.1)))
      pure { exc := (out.filter (·.2)).length }

/-- An element rounded into FP32, none where it is poison (R382). -/
def gatherElem : Elem → Option Nat
  | .poison => none
  | .val v => some (fpPut fmt32 .rne false v).1

/-- An FP32 value or poison as an element. -/
def elemOf32 (x : Option Nat) : Elem := match x with | none => .poison | some x => .val (fpDec fmt32 x)

/-- GATHER: one index (R382). -/
def gatherStep (r : Run) (idx : List Nat) : Eng StepRes := do
  let c := r.job.card
  let a := nestAddr c idx 0
  let b := nestAddr c idx 1
  let t := nestAddr c idx 2
  let n := ((word c 21).extractLsb' 0 32).toNat
  let stride := ((word c 22).extractLsb' 0 40).toNat
  let rows := ((word c 23).extractLsb' 0 32).toNat
  let fb := cardFmtB c
  let fc := cardFmtC c
  let rm := rmodeOf r.job.rm
  let sat := cardSat c
  let i := idx.getD 0 0
  let xb ← engRead r (a + 4 * i) 4
  let x := bytesVal xb
  let bad := bytesP xb
  let drop := !bad && (x = 0xFFFFFFFF || rows ≤ x)
  let row : List (Option Nat) ←
    if bad then pure (List.replicate n none)
    else if drop then pure (List.replicate n (some 0))
    else do
      let es ← engElems r fb n (if fb ≤ 0x0A then some (stride / 64) else none) (b + (x * stride : Nat))
      pure (es.map gatherElem)
  let d := if drop then 1 else 0
  if !cardBag c then
    let out := row.map fun y => putPlain fc rm sat (elemOf32 y)
    engWrite r (t + (i * n * plainSize fc : Nat)) (packBytes (plainSize fc) (out.map (·.1)))
    pure { exc := (out.filter (·.2)).length, dropped := d }
  else
    let sum : List (Option Nat) :=
      if i = 0 then row
      else List.zipWith (fun (p : Option (BitVec 32)) q =>
        match p, q with
        | some p, some q => some (fpAdd fmt32 .rne false p.toNat q).1
        | _, _ => none) r.job.bag row
    if i + 1 = nestN c 0 then
      let out := sum.map fun y => putPlain fc rm sat (elemOf32 y)
      engWrite r t (packBytes (plainSize fc) (out.map (·.1)))
      pure { exc := (out.filter (·.2)).length, dropped := d }
    else pure { exc := 0, dropped := d, bag := sum.map fun y => y.map (BitVec.ofNat 32) }

/-- CELLAR: one output element (R383). -/
def cellarStep (r : Run) (idx : List Nat) : Eng StepRes := do
  let c := r.job.card
  let i := idx.getD 0 0
  let w := word c 21
  let k := (w.extractLsb' 0 24).toNat
  let ws := (w.extractLsb' 24 20).toNat
  let sat := cardSat c
  let a := nestAddr c idx 0
  let b := nestAddr c idx 1
  let t := nestAddr c idx 2 + 4 * i
  let h := r.job.cellar.getD 0
  let rw ← engRow (fun x => engCellar r h x 64) r.job.codebook k k (some ws) (b + 64 * ws * i)
  let rx ← engBlocks r r.job.codebook k none a
  -- x goes from the cluster to the stack (R124; log 111)
  modify fun s => s.sendBulk (dieOfCluster r.cl) (stopOfCluster r.cl) h stopHbm vcJOB r.job.vd 0 r.cl
    (slotsFor (4 * rx.length))
  let acc ← engInit r t 1 0x20
  let out := dotOut 0x20 (rmodeOf r.job.rm) sat (dot sat rw rx (acc.getD 0 (some 0)))
  engWrite r t (packBytes 4 [out.1])
  pure { exc := if out.2 then 1 else 0 }

/-- The unit step of a job at its place in the nest. -/
def unitStep (r : Run) : Eng StepRes :=
  let idx := nestIdx r.job.card r.job.retired
  match cardKind r.job.card with
  | 1 => matmulStep r idx
  | 2 => copyStep r idx
  | 3 => gatherStep r idx
  | _ => cellarStep r idx

end Sys2Proof.Machine
end

