-- ==== Sys2Proof/Machine/JobCard.lean ====
section
/-! DEFINITION. The checks on a job card and its acceptance (R369, R372, R373, R376, R390). -/

namespace Sys2Proof.Machine

/-- Bytes [a, a + n) lie in a segment that has the rights. -/
def segHolds (g : Seg) (rights : List Nat) (a n : Nat) : Bool :=
  g.limit.toNat ≤ 2 ^ 48 && rights.all (fun r => g.rights.getLsbD r) &&
  g.base.toNat ≤ a && a + n ≤ g.base.toNat + g.limit.toNat && a + n ≤ 2 ^ 56

def anySeg (gs : Vector Seg 8) (rights : List Nat) (a n : Nat) : Bool :=
  gs.toList.any fun g => segHolds g rights a n

def isBlockFmt (x : Nat) : Bool := x ≤ 0x0A
def isFixedFmt (x : Nat) : Bool := 1 ≤ x && x ≤ 0x0A
def isPlainFp (x : Nat) : Bool := 0x20 ≤ x && x ≤ 0x22
def isPlain (x : Nat) : Bool := 0x20 ≤ x && x ≤ 0x23

/-- The least bytes a table row of `n` elements takes (R382). -/
def tableRow (code n : Nat) : Nat :=
  if code ≤ 0x0A then 64 * ((n + (if code = 0 then 124 else blockCount code) - 1) / (if code = 0 then 124 else blockCount code))
  else if code ≤ 0x11 then embedSize code n
  else n * plainSize code

/-- A kind's formats and fields keep its limits (R379, R381, R382, R383). -/
def kindOk (c : List Word) : Bool :=
  let fa := cardFmtA c
  let fb := cardFmtB c
  let fc := cardFmtC c
  let w21 := word c 21
  let w22 := word c 22
  let w23 := word c 23
  let k24 := (w21.extractLsb' 0 24).toNat
  let k32 := (w21.extractLsb' 0 32).toNat
  let still (o : Nat) : Bool := nestStride c 0 o = 0
  match cardKind c with
  | 1 => isBlockFmt fa && isBlockFmt fb && isPlainFp fc && k24 ≠ 0 &&
      (w21.extractLsb' 24 20) ≠ 0 && (w21.extractLsb' 44 20) ≠ 0
  | 2 =>
    k32 ≠ 0 && k32 ≤ 2 ^ 24 && w21.extractLsb' 32 32 = 0 && w23 = 0 &&
    (if fa = fc then (isFixedFmt fa || isPlain fa) && w22 = 0
     else (isBlockFmt fa || fa = 0x10 || fa = 0x11 || isPlain fa) && (isFixedFmt fc || isPlain fc) &&
      w22.extractLsb' 8 56 = 0 && (isFixedFmt fc || w22.extractLsb' 0 8 = 0))
  | 3 =>
    let stride := (w22.extractLsb' 0 40).toNat
    fa = 0x23 && (isBlockFmt fb || fb = 0x10 || fb = 0x11 || isPlainFp fb) && isPlainFp fc &&
    k32 ≠ 0 && k32 ≤ 65536 && tableRow fb k32 ≤ stride && (!isBlockFmt fb || stride % 64 = 0) &&
    w23.extractLsb' 32 32 = 0 && (List.range 5).all (fun l => nestStride c l 1 = 0) && still 0 && still 2
  | 4 => isBlockFmt fa && isBlockFmt fb && fc = 0x20 && w21.extractLsb' 24 20 ≠ 0 &&
      w21.extractLsb' 44 20 = 0 && w22 = 0 && w23 = 0 && still 0 && still 1 && still 2
  | _ => false

/-- The completion word of a card lies where it may (R373). -/
def cwOk (c : List Word) (gs : Vector Seg 8) : Bool :=
  let cw := (word c 1).toNat
  if (word c 0).getLsbD 8 then cw % 8 = 0 && anySeg gs [rWrite] cw 8 else cw = 0

/-- A card passes R373 but for its footprints' segments. -/
def cardOk (c : List Word) (gs : Vector Seg 8) : Bool :=
  let w := word c 0
  let d := nestDepth c
  let rm := (w.extractLsb' 48 8).toNat
  w.extractLsb' 56 8 = 0 && w.extractLsb' 19 5 = 0 && w.extractLsb' 12 4 = 0 &&
  (List.range 4).all (fun f =>
    let x := word c (3 + 2 * f)
    let len := x.extractLsb' 0 40
    x.extractLsb' 40 22 = 0 &&
    (if x.extractLsb' 62 2 = 0 then word c (2 + 2 * f) = 0 && len = 0 else len ≠ 0)) &&
  (word c 13).extractLsb' 60 4 = 0 && (List.range 5).all (fun l => !(word c (14 + l)).getLsbD 63) &&
  word c 19 = 0 && word c 20 = 0 &&
  1 ≤ d && d ≤ 5 && (rm ≤ 3 || rm = 7) && (!cardBag c || cardKind c = 3) &&
  (List.range 5).all (fun l =>
    if l < d then nestN c l ≠ 0
    else nestN c l = 0 && (List.range 3).all fun o => nestStride c l o = 0) &&
  nestTotal c ≤ 2 ^ 32 - 1 && cwOk c gs && kindOk c

/-- Every active footprint lies in one segment with the job right and its modes' rights (R373). -/
def footOk (c : List Word) (gs : Vector Seg 8) : Bool :=
  (footprints c).all fun x =>
    (!x.2.2.1 && !x.2.2.2) ||
    anySeg gs ([rJob] ++ (if x.2.2.1 then [rRead] else []) ++ (if x.2.2.2 then [rWrite] else [])) x.1 x.2.1

/-- The unfinished jobs of a virtual device with which a new card conflicts (R376). -/
def conflicts (k : Cluster) (i vd : Nat) (c : List Word) : List Nat :=
  (k.jobs.filter fun e => e.1 ≠ i && e.2.unfinished && e.2.vd = vd && cardsConflict e.2.card c).map (·.1)

/-- A card whose completion word may not be written is kept without its done bit (R373). -/
def cardKept (c : List Word) (gs : Vector Seg 8) : List Word :=
  if cwOk c gs then c else listSet c 0 (word c 0 &&& ~~~(0x100 : Word))

/-- The sequencer of a cluster takes a card of a strand into a free slot: its handle and the state, none when no
slot is free (R369). `poison` says that a card word was poisoned. The codebook is copied here, with the card (R147,
R369; log 109). -/
def State.acceptJob (s : State) (c p : Nat) (card : List Word) (poison : Bool) : Option (Word × State) :=
  let cl := clusterOf c
  match freeJobSlot (s.cluster cl) with
  | none => none
  | some i =>
    let x := s.strand c p
    let old := s.job cl i
    let vd := (s.ctx cl x.tag.toNat).img.vd
    let rm := ((word card 0).extractLsb' 48 8).toNat
    let (u, s) := s.fresh
    let edges := conflicts (s.cluster cl) i vd card
    let j : Job := { Job.init with
      st := .waiting, serial := old.serial + 1, card := cardKept card x.regs.g, tag := x.tag, vd := vd
      gti := x.gti, core := c, pos := p
      rm := if rm = 7 then (x.regs.fs.extractLsb' 5 3).toNat else rm
      codebook := (s.core c).codebook, preds := edges, ready := u }
    let s := s.setJob cl i j
    let h := jobHandle cl i j.serial
    if poison || !cardOk card x.regs.g then
      let s := s.setJob cl i { j with preds := [] }
      some (h, s.jobEnd cl i .error 0x8002 65)
    else if !footOk card x.regs.g then
      let s := s.setJob cl i { j with preds := [] }
      some (h, s.jobEnd cl i .error 0x8003 65)
    else some (h, s)

end Sys2Proof.Machine
end

