-- ==== Sys2Proof/Machine/Access.lean ====
section
/-! DEFINITION. Global accesses from issue to completion, as their cluster's port sees them: translation,
the side log, what hits and what goes to a home, and what the last reply brings (R100, R113, R165, R288 to
R309). -/

namespace Sys2Proof.Machine

/-! Classes of access -/

/-- Accesses that a region tracks (R355). -/
def trackedAct : GAct → Bool
  | .load _ | .store | .atom _ _ _ _ | .red _ _ => true
  | _ => false

/-- Accesses whose failing pieces are logged (R165, R340). -/
def loggedAct : GAct → Bool
  | .store | .red _ _ | .join _ => true
  | _ => false

/-- Accesses that wait for the strand's own logged bytes that they overlap (R125, R301, R304). -/
def waitsOverlap : GAct → Bool
  | .load _ | .launch _ | .job _ | .mwait _ | .cwb | .cinv | .ldisc _ => true
  | _ => false

/-- Accesses that count toward migration (R73). -/
def countedAct : GAct → Bool
  | .load _ | .store | .atom _ _ _ _ | .red _ _ => true
  | _ => false

/-- The state in which a party waits for an access (R43). -/
def waitSt : GAct → RunState
  | .mwait _ => .waitMsg
  | _ => .waitMem

/-! Operations -/

/-- Change the operation of a party. -/
def State.modOp (s : State) (c p : Nat) (f : Op → Op) : State :=
  match s.opOf c p with
  | some o => s.setOp c p (some (f o))
  | none => s

/-- One more reply is expected. -/
def State.expect (s : State) (c p n : Nat) : State := s.modOp c p fun o => { o with left := o.left + n }

/-- An acknowledgement that the cluster's own port gives to a party's operation. -/
def State.ackLocal (s : State) (c p : Nat) (val : Word) : State :=
  match s.opOf c p with
  | some o => (s.localReply (clusterOf c) (s.vdOf c p) (s.gtiOf c p) (.ack c p o.id val false false none)).expect c p 1
  | none => s

/-- Send the requests of a range of one page to its homes, bay by bay (R95, R98). -/
def State.sendReqs (s : State) (c p : Nat) (kind : HKind) (l : Leaf) (sp : ASpace) (a n off : Nat)
    (data : List PByte) : State :=
  match s.opOf c p with
  | none => s
  | some o =>
    let cl := clusterOf c
    let vd := s.vdOf c p
    let g := s.gtiOf c p
    let bays := baysOf a n
    let s := bays.foldl (fun s b =>
      let r : HReq := ⟨kind, c, p, o.id, sp, b.1, b.2.2, (data.drop b.2.1).take b.2.2, l, off + b.2.1, vd,
        o.region, true⟩
      s.sendFrom cl l.home (stopOfSlice (homeSlice l.home b.1)) vcREQ vd g (.req r)) s
    -- a lookup of the cluster cache that goes to a home (R318): MWAIT and the accesses of a region look nothing up
    let looked : Bool := o.region.isNone && (match kind with | .mwait _ _ => false | _ => true)
    (if looked then s.bump c 0x06 vd 1 else s).expect c p bays.length

/-! Completion -/

/-- The bytes that an operation has bound, in order. -/
def Op.bytes (o : Op) : List PByte := (List.range o.len).map fun j => mapGet ⟨0, false⟩ o.got j

/-- Accesses that bind bytes. -/
def bindsAct : GAct → Bool
  | .load _ | .launch _ | .job _ => true
  | _ => false

/-- Offsets of an operation that nothing has bound. -/
def Op.missing (o : Op) : List Nat := (List.range o.len).filter fun j => (mapGet? o.got j).isNone

/-- A piece of an operation has still to be performed: of an access that binds bytes, one with a byte unbound. -/
def Op.lacks (o : Op) (q : Piece) : Bool :=
  !bindsAct o.act || o.missing.any fun j => q.dva ≤ o.dva + j && o.dva + j < q.dva + q.len

/-- Bind bytes from an offset. -/
def Op.bind (o : Op) (off : Nat) (l : List PByte) : Op :=
  { o with got := l.zipIdx.foldl (fun m b => mapPut m (off + b.2) b.1) o.got }

/-- What a load writes (R289, R290). -/
def loadEffs (d : GDest) (b : List PByte) : Except TrapInfo (List Eff) :=
  match d with
  | .scalar d sgn => putS d (extend (8 * b.length) sgn (bytesVal b)) (bytesP b) 3
  | .vec d => putV d (vecOfBytes b) 3
  | .ls a => .ok [.ls a b]

/-- A poisoned 64-byte launch descriptor or 192-byte card gives its words. -/
def wordsOfBytes (b : List PByte) : List Word :=
  (List.range (b.length / 8)).map fun j => BitVec.ofNat 64 (bytesVal ((b.drop (8 * j)).take 8))

/-- LAUNCH with its descriptor: the release, which may have to wait, the checks, the queue (R343, R361). -/
def State.launchNow (s : State) (c p : Nat) (d : SOp) (l : List Word) : State :=
  let x := s.strand c p
  let img := (s.ctx (clusterOf c) x.tag.toNat).img
  if s.relBlocked c p .dev then { s with short := some none }
  else
  let s := s.release c p .dev
  if lInvalid l then s.completeWith c p (putS d 2 false 4)
  else if lVd l ≠ img.vd then s.completeWith c p (putS d 3 false 4)
  else
    match s.launchEnqueue l x.gti img none with
    | some s => s.completeWith c p (putS d 0 false 4)
    | none => s.completeWith c p (putS d 1 false 4)

/-- JOB with its card: the release, and a slot or a wait for one (R369). -/
def State.jobNow (s : State) (c p : Nat) (d : SOp) (b : List PByte) : State :=
  let s := s.release c p .cl
  match s.acceptJob c p (wordsOfBytes b) (bytesP b) with
  | some (h, s) => s.completeWith c p (putS d h false 4)
  | none => s.park c p .waitMem .jobSlot

/-- The cluster-copy form of an atomic or reduction: the word is in the cluster or has just arrived (R122,
R293). -/
def State.clusterAtomic (s : State) (c p : Nat) (o : Op) (op : AOp) (cmp : Word) : Option (Word × State) :=
  match o.pieces with
  | [q] =>
    match q.leaf with
    | some l =>
      let vd := s.vdOf c p
      let (sp, a) := keyOf l vd q.dva
      let old := o.bytes
      if anyPoison old then none
      else
        let x := bytesNat old
        let r := aopVal op (8 * o.len) x (bytesNat o.data) cmp.toNat
        some (BitVec.ofNat 64 x,
          (s.unkeepAt (clusterOf c) sp a o.len).putRun (clusterOf c) sp l vd (.d (slotOf c p) none) 5 a
            (natBytes o.len r))
    | none => none
  | _ => none

/-- Every reply has come: what the access of a party does (R113, R295). -/
def State.finishOp (s : State) (c p : Nat) : State :=
  match s.opOf c p with
  | none => s
  | some o =>
    if o.bad = 1 then s.failOp c p tPoisonSync
    else if o.bad = 2 then s.failOp c p (tOver o.res.toNat)
    else
      match o.act with
      | .load d => s.completeWith c p (loadEffs d o.bytes)
      | .atom op sc d cmp =>
        if o.sent then
          match s.clusterAtomic c p o op cmp with
          | some (x, s) => s.completeWith c p (putS d x false 3)
          | none => s.failOp c p tPoisonSync
        else
          let _ := sc
          s.completeWith c p (putS d o.res false 3)
      | .red op _ =>
        if o.sent then
          match s.clusterAtomic c p o op 0 with
          | some (_, s) => s.complete c p []
          | none => s.failOp c p tPoisonSync
        else s.complete c p []
      | .mwait d => s.complete c p (putP d (o.res ≠ 0))
      | .join d =>
        if o.res = 2 then s.joinPlace c p
        else s.joinDone c p d (o.res ≠ 0)
      | .launch d => if bytesP o.bytes then s.failOp c p tPoisonSync else s.launchNow c p d (wordsOfBytes o.bytes)
      | .job d => s.jobNow c p d o.bytes
      | .cpin d => s.complete c p (putP d (o.res ≠ 0))
      | .ldisc d | .lstat d => s.completeWith c p (putS d o.res false 4)
      | .remote (some d) => s.completeWith c p (putS d o.res o.resP 3)
      | .remote none => s.complete c p []
      | .spawn d => s.complete c p (putP d (o.res ≠ 0))
      | .store | .prefetch | .rell _ | .cwb | .cinv | .cunpin | .lback | .flushp | .done => s.complete c p []

/-! Pieces that hit or miss in the cluster -/

/-- The hull of the bytes of a range that the lookup finds absent: first byte and length (R94). -/
def State.hull (s : State) (cl : Nat) (l : Leaf) (sp : ASpace) (a n : Nat) (bound : Nat → Bool) : Option (Nat × Nat) :=
  let xs := ((List.range n).map (a + ·)).filter fun x => !bound x && (s.hitByte cl l sp x).isNone
  match xs.head?, xs.getLast? with
  | some x, some y => some (x, y + 1 - x)
  | _, _ => none

/-- A load of a piece: A bytes are combined, bytes of whole words present are bound, and the hull of what is
absent is asked of the homes (R92, R94, R114). -/
def State.loadPiece (s : State) (c p : Nat) (l : Leaf) (sp : ASpace) (a n off : Nat) : State :=
  let cl := clusterOf c
  let s := (s.combineOwn cl sp a n).touchC cl sp a n
  match s.opOf c p with
  | none => s
  | some o =>
    let had (x : Nat) : Bool := (mapGet? o.got (off + (x - a))).isSome
    let now := ((List.range n).filter fun j => !had (a + j) && s.bindable cl l sp a n (a + j)).filterMap fun j =>
      (s.hitByte cl l sp (a + j)).map fun b => (off + j, b)
    let s := s.setOp c p (some { o with got := now.foldl (fun m b => mapPut m b.1 b.2) o.got })
    match s.hull cl l sp a n had with
    | none => s
    | some (x, k) => s.sendReqs c p .read l sp x k (off + (x - a)) []

/-- Bytes of a store over a cluster's copies: a word written in part keeps the poison it has there (R169). -/
def State.storeMarks (s : State) (cl : Nat) (sp : ASpace) (a : Nat) (data : List PByte) : List PByte :=
  data.zipIdx.map fun b =>
    let w := (a + b.2) / 8 * 8
    if a ≤ w && w + 8 ≤ a + data.length then b.1
    else
      let old := ((List.range 8).map (w + ·)).any fun x =>
        match s.cachedByte cl sp x with | some y => y.p | none => false
      { b.1 with p := b.1.p || old }

/-- A store kept in the cluster as D bytes of a strand slot (R92, R113). -/
def State.putStore (s : State) (c p : Nat) (l : Leaf) (sp : ASpace) (vd a : Nat) (data : List PByte) : State :=
  let cl := clusterOf c
  let s := s.combineOwn cl sp a data.length
  let data := s.storeMarks cl sp a data
  (s.unkeepAt cl sp a data.length).putRun cl sp l vd (.d (slotOf c p) none) 6 a data

/-- An accrual extent of an operation and width of a cluster that holds a word (R92). -/
def State.accrued (s : State) (cl : Nat) (sp : ASpace) (op : AOp) (a w : Nat) : Option CExt :=
  (s.cluster cl).cache.find? fun e =>
    e.sp = sp && e.st = .a op w && e.start ≤ a && a + w ≤ e.start + e.data.length

/-- Add a delta to an accrual extent of the cluster, or start one (R123, R347). -/
def State.accrue (s : State) (cl vd : Nat) (l : Leaf) (sp : ASpace) (op : AOp) (a : Nat) (data : List PByte) :
    State :=
  let w := data.length
  match s.accrued cl sp op a w with
  | some e =>
    let old := (e.data.drop (a - e.start)).take w
    s.putC cl (mkC sp l vd a (natBytes w (aopVal op (8 * w) (bytesNat old) (bytesNat data) 0)) (.a op w))
  | none =>
    let s := (s.throughRange cl sp a w).combineOwn cl sp a w
    s.putC cl (mkC sp l vd a data (.a op w))

/-- Write through and drop a cluster's own bytes of a word, and combine its A bytes (R122, R340). -/
def State.giveUp (s : State) (cl : Nat) (sp : ASpace) (a n : Nat) : State :=
  ((s.throughRange cl sp a n).combineOwn cl sp a n).dropC cl sp a n

/-- No chunk of a cluster's cache is free (R113). -/
def State.cacheFull (s : State) (cl : Nat) : Bool := 2048 ≤ usedChunks (s.cluster cl)

/-- A reduction gathered in the cluster: a delta on A bytes that it holds, else the home enters the cluster on
the word's list (R123, R347); with no chunk free it is performed at the home (R113). -/
def State.redPiece (s : State) (c p : Nat) (op : AOp) (l : Leaf) (sp : ASpace) (a off : Nat)
    (data : List PByte) : State :=
  let cl := clusterOf c
  match s.accrued cl sp op a data.length with
  | some _ => s.accrue cl (s.vdOf c p) l sp op a data
  | none =>
    let s := s.giveUp cl sp a data.length
    s.sendReqs c p (if s.cacheFull cl then .red op else .accrue op) l sp a data.length off data

/-- Own bytes that an access must first write through or combine are held by a region or by the host: the
access waits (R361, R130). -/
def State.ownBlocked (s : State) (cl : Nat) (sp : ASpace) (a n : Nat) (dirty : Bool) : Bool :=
  (s.cluster cl).cache.any fun e => e.sp = sp && overlaps e.start e.data.length a n && s.owesBlocked e &&
    (match e.st with | .a _ _ => true | .d _ _ => dirty | .c => false)

/-! Spaces without homes (R131, R314, R392, R398) -/

/-- The value atomics, reductions and JOINs of those spaces that complete at once: control space reads and
writes its register; elsewhere the result is open. -/
def State.farAtomic (s : State) (pa n : Nat) (op : AOp) (data : List PByte) (cmp : Word) : Word × State :=
  let (b, s) := s.farRead pa n
  let x := bytesNat b
  (BitVec.ofNat 64 x, s.farWrite pa (natBytes n (aopVal op (8 * n) x (bytesNat data) cmp.toNat)))

/-- A request to the porch die for host memory or a peer. -/
def State.sendPorch (s : State) (c p : Nat) (kind : HKind) (l : Leaf) (pa n off : Nat) (data : List PByte) :
    State :=
  match s.opOf c p with
  | none => s
  | some o =>
    let vd := s.vdOf c p
    let r : HReq := ⟨kind, c, p, o.id, .phys, pa, n, data, l, off, vd, none, false⟩
    (s.sendFrom (clusterOf c) 8 0 vcREQ vd (s.gtiOf c p)
      (if paSpace pa = 2 then .span r else .host r)).expect c p 1

/-- The home's request of an access to a far page. -/
def farKind (act : GAct) (data : List PByte) : HKind :=
  match act with
  | .store => .write
  | .atom op _ _ cmp => .atom op cmp
  | .red op _ => .red op
  | .mwait _ => .mwait (BitVec.ofNat 64 (bytesNat data)) 0
  | .join _ => .join
  | _ => .read

/-- A JOIN on a counter that no home of the device holds: the word and the record at once. -/
def State.farJoin (s : State) (c p pa : Nat) : State :=
  let (b, s) := s.farRead pa 40
  let n := (bytesNat (b.take 4))
  if anyPoison (b.take 8) || (n = 1 && anyPoison b) then s.modOp c p fun o => { o with bad := 1 }
  else if n = 0 then s
  else
    let s := s.farWrite pa (natBytes 4 (n - 1))
    s.modOp c p fun o =>
      if n = 1 then { o.bind 0 (b.drop 8) with res := 2 } else { o with res := 1 }

/-- A piece on a page of another space: uncached, in order. -/
def State.farPiece (s : State) (c p : Nat) (o : Op) (l : Leaf) (pa n off : Nat) : State :=
  let data := (o.data.drop off).take n
  let sp := paSpace pa
  match o.act with
  | .load _ | .launch _ | .job _ =>
    if sp = 2 then s.sendPorch c p .read l pa n off data
    else
      let (b, s) := s.farRead pa n
      s.modOp c p fun o => o.bind off b
  | .store => if sp = 2 then s.sendPorch c p .write l pa n off data else s.farWrite pa data
  | .atom op _ _ cmp =>
    if sp = 1 || sp = 2 then s.sendPorch c p (farKind o.act data) l pa n off data
    else
      let (x, s) := s.farAtomic pa n op data cmp
      s.modOp c p fun o => { o with res := x }
  | .red op _ =>
    if sp = 1 || sp = 2 then s.sendPorch c p (farKind o.act data) l pa n off data
    else (s.farAtomic pa n op data 0).2
  | .mwait _ =>
    if sp = 2 then s.sendPorch c p .read l pa n off data
    else
      let (b, s) := s.farRead pa n
      s.modOp c p fun o => { o with res := if bytesNat b ≠ bytesNat o.data then 1 else 0 }
  | .join _ => s.farJoin c p pa
  | .rell sc => s.release c p sc
  | .cpin _ => s.modOp c p fun o => { o with res := 1 }
  | _ => s

/-! Cache control at the port (R301, R307) -/

/-- A region slot has written a word and not committed it: the word is W (R95). -/
def State.wordW (s : State) (sp : ASpace) (l : Leaf) (w : Nat) : Bool := s.blocked sp l w 8 false

/-- The slot of the region that a strand is in. -/
def State.slotIn (s : State) (c p : Nat) : Option Nat := if p < 6 then (s.strand c p).region else none

/-- The parts of a range in words that the cache-control and loft forms act on: outside a region all of it, inside
one the words that are not W (R307). -/
def State.actWords (s : State) (inside : Bool) (sp : ASpace) (l : Leaf) (a n : Nat) : List (Nat × Nat) :=
  ((wordsOf a n).filter fun w => !(inside && s.wordW sp l w)).map fun w => (max a w, min (a + n) (w + 8) - max a w)

/-- The cluster holds D or A bytes of a range. -/
def State.owesAt (s : State) (cl : Nat) (sp : ASpace) (a n : Nat) : Bool :=
  (s.cluster cl).cache.any fun e => e.sp = sp && e.st ≠ .c && overlaps e.start e.data.length a n

/-- D or A bytes of a word cannot go to their home now: outside a region a region or the host holds the word; inside
one the readers of its own region do not count, and a W word is skipped (R301, R307, R361, R130). -/
def State.backHeld (s : State) (cl : Nat) (slot : Option Nat) (sp : ASpace) (l : Leaf) (r : Nat × Nat) : Bool :=
  s.owesAt cl sp r.1 r.2 &&
  match slot with
  | none => s.blocked sp l r.1 r.2 true
  | some i =>
    s.hostHeld sp r.1 r.2 || (s.slice (homeSlice l.home r.1)).regs.any fun x =>
      x.sp = sp && overlaps x.addr 8 r.1 r.2 && x.readers.any (· ≠ i)

/-- A word's A bytes of a cluster are sent as a combine and dropped (R301, R123). -/
def State.combineWordOwn (s : State) (cl : Nat) (sp : ASpace) (l : Leaf) (a n : Nat) : State :=
  if (s.cluster cl).cache.any fun e => e.sp = sp && (match e.st with | .a _ _ => true | _ => false) &&
      overlaps e.start e.data.length a n then s.combineAt cl sp l (a / 8 * 8) else s

/-- CWB, and CINV when `drop`, over one piece. -/
def State.cacheBack (s : State) (cl : Nat) (inside : Bool) (sp : ASpace) (l : Leaf) (a n : Nat) (drop : Bool) :
    State :=
  (s.actWords inside sp l a n).foldl (fun s r =>
    let s := (s.throughRange cl sp r.1 r.2).combineWordOwn cl sp l r.1 r.2
    if drop then (s.dropC cl sp r.1 r.2).unkeepAt cl sp r.1 r.2 else s) s

/-! RELL (R120, R299) -/

/-- Own a word: another owner is recalled first; the strand's extents in scope become owed to it. -/
def State.rellNow (s : State) (c p : Nat) (sc : Scope) (sp : ASpace) (l : Leaf) (a : Nat) : State :=
  let cl := clusterOf c
  let sl := homeSlice l.home a
  -- RELL on another word first writes through what is owed to the last one
  let s := match (s.strand c p).rell with
    | some w => if w = (sp, a) then s else (s.throughAll cl (owedSelects c p)).unown c p
    | none => s
  let others := (s.slice sl).owners.filter fun o => o.sp = sp && o.addr = a && !(o.core = c && o.pos = p)
  let s := others.foldl (fun s o => s.recall o) s
  let x := s.slice sl
  let mine := x.owners.filter fun o => !(o.core = c && o.pos = p)
  let s := s.setSlice sl { x with owners := mine ++ [⟨sp, a, c, p⟩] }
  let s := s.setStrand c p { s.strand c p with rell := some (sp, a) }
  let mark (e : CExt) : CExt :=
    if relSelects c p sc .release e then { e with st := .d (slotOf c p) (some (sp, a)) } else e
  (s.setCache cl ((s.cluster cl).cache.map mark)).mergeC cl

/-- What RELL would write through or recall is held by a region or by the host. -/
def State.rellBlocked (s : State) (c p : Nat) (sp : ASpace) (l : Leaf) (a : Nat) : Bool :=
  let others := (s.slice (homeSlice l.home a)).owners.filter fun o => o.sp = sp && o.addr = a
  (s.cluster (clusterOf c)).cache.any (fun e => owedSelects c p e && s.owesBlocked e) ||
  others.any fun o => (s.cluster (clusterOf o.core)).cache.any fun e =>
    owedSelects o.core o.pos e && s.owesBlocked e

/-! Pins (R103, R302; log 92) -/

/-- Records without the parts of a range in those that a test selects. -/
def cutPins (f : Pin → Bool) (sp : ASpace) (a n : Nat) (l : List Pin) : List Pin :=
  l.flatMap fun p =>
    if p.sp = sp && f p && overlaps p.start p.len a n then
      (if p.start < a then [{ p with len := a - p.start }] else []) ++
        (if a + n < p.start + p.len then [{ p with start := a + n, len := p.start + p.len - (a + n) }] else [])
    else [p]

/-- A record covers a byte. -/
def pinnedAt (l : List Pin) (sp : ASpace) (a : Nat) : Bool :=
  l.any fun p => p.sp = sp && p.start ≤ a && a < p.start + p.len

/-- The extents that touch a range of one bay, split where the pin records begin and end and merged again (R96,
R302). -/
def pinExts (cs : List Combine) (l : List Pin) (sp : ASpace) (a n : Nat) (exts : List HExt) : List HExt :=
  let hit (e : HExt) : Bool := e.sp = sp && !e.fill && overlaps e.start e.data.length a n
  let parts (e : HExt) : List HExt := (runsBy (pinnedAt l sp) e.start e.data).map fun r =>
    { e with start := r.1, data := r.2, pin := pinnedAt l sp r.1, way := if r.1 = e.start then e.way else 17 }
  ((exts.filter hit).flatMap parts).foldl (addH cs) (exts.filter fun e => !hit e)

/-- The records of a slice change in a range of one bay, and its extents follow, with room for their splits. -/
def State.repin (s : State) (sp : ASpace) (l : Leaf) (vd a n : Nat) (pins : List Pin) : State :=
  let sl := homeSlice l.home a
  let s := s.setSlice sl { s.slice sl with pins := pins }
  match s.changeFramed sl vd sp a n l.loft (pinExts (s.slice sl).combines pins sp a n) 32 with
  | .ok t => t
  | .error k => s.lacks k

/-- The pins of a virtual device in a slice and in a set of it are within R103. -/
def State.pinsFit (s : State) (sl vd set : Nat) : Bool :=
  let al := s.allot (sl / 96) vd
  let x := s.slice sl
  let pinned := (x.exts.filter (·.pin)).map fun e => (e.set, pinGranules x.pins vd e)
  let ways := ((List.range 16).filter fun w => (allotWays al).getLsbD w).length
  (pinned.map (·.2)).sum ≤ allotQuota al / 2 && (pinned.filter fun e => e.1 = set && e.2 ≠ 0).length ≤ ways - 1

/-- Bring the absent bytes of a range of one bay into their home: V from behind, or L zeros (R302). -/
def State.bringBay (s : State) (sp : ASpace) (l : Leaf) (vd a n : Nat) : State :=
  let sl := homeSlice l.home a
  if l.loft && s.frameOf l = 0 then
    (runsBy (fun x => (s.hextAny sl sp x).isSome) a (List.replicate n ⟨0, false⟩)).foldl (fun s r =>
      if (s.hextAny sl sp r.1).isSome then s else s.homeWrite sp l vd r.1 r.2) s
  else s.fillHome sp l vd a n

/-- CPIN at one bay of a range: whether it is pinned whole (R302, R103). A bay that would pass a limit keeps its
pins as they were (log 99). A fill under way, or room that is short, makes it wait. -/
def State.pinOne (s : State) (sp : ASpace) (l : Leaf) (vd a n : Nat) : Bool × State :=
  let sl := homeSlice l.home a
  if !s.mayAlloc l.home vd then (false, s)
  else if (s.slice sl).exts.any fun e => e.sp = sp && e.fill && overlaps e.start e.data.length a n then
    (true, s.lacks none)
  else
    let s := s.bringBay sp l vd a n
    let old := (s.slice sl).pins
    let t := s.repin sp l vd a n (cutPins (fun p => p.vd = vd) sp a n old ++ [⟨sp, a, n, vd⟩])
    if t.short.isSome || t.pinsFit sl vd (setOfBay (a / 256)) then (true, t) else (false, s)

/-- CUNPIN at one bay of a range: the pins of its virtual device (R302). -/
def State.unpinOne (s : State) (sp : ASpace) (l : Leaf) (vd a n : Nat) : State :=
  s.repin sp l vd a n (cutPins (fun p => p.vd = vd) sp a n (s.slice (homeSlice l.home a)).pins)

/-- The bays of the parts of a range on which the cache-control and loft forms act, neighbouring parts as one. -/
def State.actBays (s : State) (inside : Bool) (sp : ASpace) (l : Leaf) (a n : Nat) : List (Nat × Nat) :=
  if inside then
    ((runsBy (fun x => s.wordW sp l (x / 8 * 8)) a (List.replicate n ⟨0, false⟩)).filter fun r =>
      !s.wordW sp l (r.1 / 8 * 8)).flatMap fun r => (baysOf r.1 r.2.length).map fun b => (b.1, b.2.2)
  else (baysOf a n).map fun b => (b.1, b.2.2)

/-- CPIN over one piece: whether every bay was pinned whole (R302, R103). -/
def State.pinPiece (s : State) (inside : Bool) (sp : ASpace) (l : Leaf) (vd a n : Nat) : Bool × State :=
  (s.actBays inside sp l a n).foldl (fun r b =>
    let (ok, s) := r.2.pinOne sp l vd b.1 b.2
    (r.1 && ok, s)) (true, s)

/-! Loft instructions (R304, R305, R306) -/

/-- The bytes of a range that are dirty at their home or in some cluster (R304). -/
def State.dirtyBytes (s : State) (sp : ASpace) (l : Leaf) (a n : Nat) : Nat :=
  ((List.range n).filter fun j =>
    (match s.hext (homeSlice l.home (a + j)) sp (a + j) with
      | some e => e.st ≠ .v
      | none => false) ||
    s.clusters.any fun k => k.2.cache.any fun e =>
      e.sp = sp && e.st ≠ .c && (runByte e.start e.data (a + j)).isSome).length

/-- Drop every copy of a range of a loft page, without any write-back, and the pins of its bytes (R304, R108). -/
def State.discard (s : State) (sp : ASpace) (l : Leaf) (vd a n : Nat) : State :=
  let s := (baysOf a n).foldl (fun s b =>
    let sl := homeSlice l.home b.1
    let x := s.slice sl
    let s := s.setSlice sl { x with pins := cutPins (fun _ => true) sp b.1 b.2.2 x.pins }
    -- what is left of an extent that the range splits needs a tag (R95)
    match s.changeFramed sl vd sp b.1 b.2.2 l.loft (fun ex => carveH ex sp b.1 b.2.2) 32 with
    | .ok t => t.cohTo sl vd ((s.clusters.map (·.1)).filter fun k => !(s.heldBy k sp b.1 b.2.2).isEmpty)
    | .error k => s.lacks k) s
  let lc : SMap Cluster := s.clusters.map fun k => (k.1, { k.2 with cache := carveC k.2.cache sp a n })
  let s : State := { s with clusters := lc }
  let s := s.forgetAll fun _ r => r.sp = sp && overlaps r.addr r.len a n
  -- clusters that hold no A byte of a word any more leave its list
  (wordsOf a n).foldl (fun s w =>
    let sl := homeSlice l.home w
    let x := s.slice sl
    let holds (cl : Nat) : Bool := (s.cluster cl).cache.any fun e =>
      e.sp = sp && (match e.st with | .a _ _ => true | _ => false) && overlaps e.start e.data.length w 8
    let cs := x.combines.map fun (y : Combine) =>
      if y.sp = sp && y.addr = w then { y with clusters := y.clusters.filter holds } else y
    s.setSlice sl { x with combines := cs.filter fun y => !y.clusters.isEmpty }) s

/-- A word at an edge of a range has an accrual element that the range cuts: it is combined first (log 100). -/
def State.cutsElement (s : State) (sp : ASpace) (a n w : Nat) : Bool :=
  (w < a || a + n < w + 8) && s.clusters.any fun k => k.2.cache.any fun e =>
    match e.st with
    | .a _ z => e.sp = sp && overlaps e.start e.data.length w 8 &&
        ((w < a && a % z ≠ 0) || (a + n < w + 8 && (a + n) % z ≠ 0))
    | _ => false

/-- LDISC over one piece: the bytes discarded that were dirty. In a region W words are skipped (R307). -/
def State.discPiece (s : State) (inside : Bool) (sp : ASpace) (l : Leaf) (vd a n : Nat) : Nat × State :=
  if !l.loft then (0, s)
  else
    (s.actWords inside sp l a n).foldl (fun r x =>
      let w := x.1 / 8 * 8
      let s := if r.2.cutsElement sp a n w then
        match r.2.combineDue sp l w 8 with | some c => r.2.combineWord c | none => r.2
        else r.2
      (r.1 + s.dirtyBytes sp l x.1 x.2, s.discard sp l vd x.1 x.2)) (0, s)

/-- LSTAT over one piece: resident bytes, dirty bytes, pinned, W (R306). Bytes of a W word are resident and in
state W; in a region W words are skipped, but for the mark (R307; log 110). -/
def State.statPiece (s : State) (inside : Bool) (sp : ASpace) (l : Leaf) (a n : Nat) : Nat × Nat × Bool × Bool :=
  let w (j : Nat) : Bool := s.wordW sp l ((a + j) / 8 * 8)
  let at' (j : Nat) : Option HExt := s.hext (homeSlice l.home (a + j)) sp (a + j)
  let js := (List.range n).filter fun j => !(inside && w j)
  ((js.filter fun j => w j || (at' j).isSome).length,
   (js.filter fun j => !w j && match at' j with | some e => e.st ≠ .v | none => false).length,
   js.any (fun j => match at' j with | some e => e.pin | none => false),
   (List.range n).any w)

/-- The page of a piece has a frame, or is no loft page. -/
def State.backed (s : State) (l : Leaf) : Bool := !l.loft || s.frameOf l ≠ 0

/-- The residency word of an access (R306). -/
def State.statWord (s : State) (inside : Bool) (vd : Nat) (ps : List Piece) : Word :=
  let each := ps.filterMap fun q => q.leaf.map fun l =>
    let (sp, a) := keyOf l vd q.dva
    if l.near then s.statPiece inside sp l a q.len else (0, 0, false, false)
  let bit (b : Bool) (i : Nat) : Nat := if b then 2 ^ i else 0
  let page (q : Option Piece) (i : Nat) : Nat :=
    match q.bind (·.leaf) with
    | some l => bit l.loft i + bit (s.backed l) (i + 1)
    | none => 0
  BitVec.ofNat 64 ((each.map (·.1)).sum + (each.map (·.2.1)).sum * 2 ^ 11 +
    page ps[0]? 22 + bit (1 < ps.length) 24 + page ps[1]? 25 +
    bit (each.any (·.2.2.1)) 27 + bit (each.any (·.2.2.2)) 28)

/-! Performing an access whose pieces have all been translated -/

/-- Accesses that look the cluster's cache up (R91). -/
def looksUp : GAct → Bool
  | .load _ | .launch _ | .job _ | .store | .atom _ _ _ _ | .red _ _ | .join _ | .cwb | .cinv => true
  | _ => false

/-- One piece of an access. -/
def State.performPiece (s : State) (c p : Nat) (q : Piece) : State :=
  match s.opOf c p, q.leaf with
  | some o, some l =>
    let cl := clusterOf c
    let vd := s.vdOf c p
    let (sp, a) := keyOf l vd q.dva
    let off := q.dva - o.dva
    let n := q.len
    let data := (o.data.drop off).take n
    let inside := (s.slotIn c p).isSome
    let s := if l.near && o.region.isNone && looksUp o.act then s.countProbes c vd l sp q.dva a n else s
    if !l.near then s.farPiece c p o l a n off
    else if o.region.isSome then
      match o.act with
      | .load _ => s.sendReqs c p .read l sp a n off []
      | .store => s.sendReqs c p .write l sp a n off data
      | .atom op _ _ cmp => s.sendReqs c p (.atom op cmp) l sp a n off data
      | .red op _ => s.sendReqs c p (.red op) l sp a n off data
      | _ => s
    else
      match o.act with
      | .load _ | .launch _ | .job _ => s.loadPiece c p l sp a n off
      | .store =>
        if l.kind = .strong then (s.combineOwn cl sp a n).sendReqs c p .write l sp a n off data
        else s.putStore c p l sp vd a data
      | .atom op sc _ cmp =>
        if l.kind = .strong then (s.combineOwn cl sp a n).sendReqs c p (.atom op cmp) l sp a n off data
        else if scopeActs sc then (s.giveUp cl sp a n).sendReqs c p (.atom op cmp) l sp a n off data
        else (s.loadPiece c p l sp a n off).modOp c p fun o => { o with sent := true }
      | .red op sc =>
        if l.kind = .strong then (s.combineOwn cl sp a n).sendReqs c p (.red op) l sp a n off data
        else
          match sc with
          | .co | .cl => (s.loadPiece c p l sp a n off).modOp c p fun o => { o with sent := true }
          | .die | .dev => s.redPiece c p op l sp a off data
          | .sys => (s.giveUp cl sp a n).sendReqs c p (.red op) l sp a n off data
      | .mwait _ =>
        s.sendReqs c p (.mwait (BitVec.ofNat 64 (bytesNat data)) o.limit) l sp a n off data
      | .join _ => (s.giveUp cl sp a n).sendReqs c p .join l sp a n off []
      | .rell sc => if scopeActs sc then s.rellNow c p sc sp l a else s
      | .cwb => s.cacheBack cl inside sp l a n false
      | .cinv => s.cacheBack cl inside sp l a n true
      | .cpin _ =>
        let (ok, s) := s.pinPiece inside sp l vd a n
        s.modOp c p fun o => { o with res := if ok then o.res else 0 }
      | .cunpin => (s.actBays inside sp l a n).foldl (fun s b => s.unpinOne sp l vd b.1 b.2) s
      | .ldisc _ =>
        let (k, s) := s.discPiece inside sp l vd a n
        s.modOp c p fun o => { o with res := o.res + BitVec.ofNat 64 k }
      | .lback =>
        if !l.loft then s
        else
          match s.backPage l with
          | some s => s
          | none => s.lacks (some (homeSlice l.home a))
      | _ => s
  | _, _ => s

/-- The access waits: bytes that it must write through, combine or drop are held by a region or by the host
(R361, R304, R127). Inside a region the cache-control and loft forms skip W words instead (R307). -/
def State.heldUp (s : State) (c p : Nat) (o : Op) (q : Piece) : Bool :=
  match q.leaf with
  | none => false
  | some l =>
    let vd := s.vdOf c p
    let (sp, a) := keyOf l vd q.dva
    let slot := s.slotIn c p
    let own (d : Bool) : Bool := s.ownBlocked (clusterOf c) sp a q.len d
    if o.region.isSome then false
    else if !l.near then
      match o.act with
      | .rell sc => scopeActs sc && s.relBlocked c p sc
      | _ => false
    else
      match o.act with
      | .load _ | .launch _ | .job _ | .store => own false
      | .atom _ _ _ _ | .red _ _ | .join _ => own true
      | .cwb | .cinv => (s.actWords slot.isSome sp l a q.len).any (s.backHeld (clusterOf c) slot sp l)
      | .cpin _ | .cunpin => slot.isNone && s.blocked sp l a q.len false
      | .ldisc _ => l.loft && ((slot.isNone && s.blocked sp l a q.len false) ||
          (s.actWords slot.isSome sp l a q.len).any fun x =>
            s.cutsElement sp a q.len (x.1 / 8 * 8) && s.blocked sp l (x.1 / 8 * 8) 8 true)
      | .rell sc => scopeActs sc && s.rellBlocked c p sp l a
      | _ => false

/-- A tracked access of a region whose page is not homed on the die of its ROU (R358). -/
def State.foreign (c : Nat) (o : Op) : Bool :=
  o.region.isSome && o.pieces.any fun q =>
    match q.leaf with | some l => !l.near || l.home ≠ dieOf c | none => false

/-- Count an access to a home on another die (R73, R318). -/
def State.countRemote (s : State) (c p : Nat) (o : Op) : State :=
  let d := dieOf c
  match o.pieces.find? fun q => match q.leaf with | some l => l.near && l.home ≠ d | none => false with
  | none => s
  | some q =>
    let s := s.bump c 0x0C (s.vdOf c p) 1
    if p < 6 && countedAct o.act then
      let x := s.strand c p
      match x.member with
      | .pool _ =>
        let lim := (s.die d).miglimit
        let home := match q.leaf with | some l => l.home | none => d
        let n := if x.remote = BitVec.allOnes 32 then x.remote else x.remote + 1
        let n := if x.hint2 && lim ≠ 0 && n ≤ lim then (if lim = BitVec.allOnes 32 then lim else lim + 1) else n
        s.setStrand c p { x with
          remote := n, hint2 := false, target := if x.remote ≤ lim then home else x.target }
      | _ => s
    else s

/-- Perform pieces of an access: the state is short when one is held up, or finds no room for what it must
write (R361, R130, R94, R99, R107). -/
def State.perform (s : State) (c p : Nat) (l : List Piece) : State :=
  match s.opOf c p with
  | none => s
  | some o =>
    if l.any (s.heldUp c p o) then s.lacks none
    else l.foldl (fun s q => s.performPiece c p q) s

/-- An access of a party waits with what it holds, and goes on when it is woken (R43, R290). -/
def State.holdOp (s : State) (c p : Nat) (w : Wait) : State := s.park c p .waitMem w

/-- A step of an access in flight of a party is whole: where it was short of something, nothing of it has
happened, and it waits, or raises LOFT_OVERFLOW (R107). -/
def State.settled (s : State) (c p : Nat) (t : State) : State :=
  match t.short with
  | none => t
  | some none => s.holdOp c p .region
  | some (some k) => s.failOp c p (tOver k)

/-- What stays of an access that is short: the frame that the lower page of LBACK has taken (R305). -/
def State.keepsOf (s t : State) (o : Op) : State := match o.act with | .lback => t.anyway | _ => s

/-- Perform an access. -/
def State.performOp (s : State) (c p : Nat) : State :=
  match s.opOf c p with
  | none => s
  | some o =>
    let mustLog := match o.act with | .rell _ | .launch _ | .job _ => true | _ => false
    if mustLog && s.hasEntries c p then s.holdOp c p .sidelog
    else if State.foreign c o then s.abortOwn c p 4
    else
      let t := if o.begun then s else (s.countRemote c p o).modOp c p fun o => { o with begun := true }
      let t := match o.act with
        | .cpin _ => t.modOp c p fun o => { o with res := 1 }
        | .lstat _ => t.modOp c p fun o =>
          { o with res := t.statWord (t.slotIn c p).isSome (t.vdOf c p) o.pieces }
        | .ldisc _ => t.modOp c p fun o => { o with res := 0 }
        | _ => t
      let t := t.perform c p (o.pieces.filter o.lacks)
      (s.keepsOf t o).settled c p (match t.short, t.opOf c p with
        | none, some o => if o.left = 0 then t.ackLocal c p o.res else t
        | _, _ => t)

/-- Every piece of an access has been decided: it performs, or what failed is logged or trapped (R100, R159,
R165). -/
def State.dispatchOp (s : State) (c p : Nat) : State :=
  match s.opOf c p with
  | none => s
  | some o =>
    let o := { o with pieces := joinPieces o.pieces }
    let s := s.setOp c p (some o)
    let bad := o.pieces.filter fun q => q.sub ≠ 0
    match bad with
    | [] => s.performOp c p
    | q :: _ =>
      if o.region.isSome || !loggedAct o.act then
        s.failOp c p (tPage q.sub q.dva o.len (actClass o.act) (q.dva ≠ o.dva))
      else if logFree (s.cluster (clusterOf c)) < bad.length then s.failOp c p tSideLogFull
      else
        let t := bad.foldl (fun s q =>
          s.addOwn c p o.act q.dva ((o.data.drop (q.dva - o.dva)).take q.len) q.sub) s
        let rest := o.pieces.filter fun q => q.sub = 0
        if rest.isEmpty then s.settled c p (t.loggedDone c p o.act)
        else (t.setOp c p (some { o with pieces := rest })).performOp c p

/-! Translation (R81, R84) -/

def Piece.decided (q : Piece) : Bool := q.leaf.isSome || q.sub ≠ 0

/-- The pieces of a party's operation that the TLBs translate, and walks for the others. -/
def State.translateOp (s : State) (c p : Nat) : State :=
  match s.opOf c p with
  | none => s
  | some o =>
    let t := s.tagOf c p
    let (vd, asid, _) := s.spaceOf (clusterOf c) t (s.isLandlord c p)
    let ps := o.pieces.map fun q =>
      if q.decided then q
      else
        match s.tlbLook c vd asid q.dva with
        | some l => { q with leaf := some l, sub := s.checkLeaf vd o.act l }
        | none => q
    let s := s.setOp c p (some { o with pieces := ps })
    let need := ps.zipIdx.filter fun q => !q.1.decided
    if need.isEmpty then s.dispatchOp c p
    else
      let d := s.die (dieOf c)
      s.setDie (dieOf c) { d with
        walks := d.walks ++ need.map fun q => ⟨c, p, o.id, BitVec.ofNat 4 t, q.2, none⟩ }

/-- Ask the homes for the bytes of a piece of a GPREF that no extent of the cluster holds, as C (R288, R291). The
requests carry the DVA where those of other accesses carry their operation. -/
def State.prefetchSend (s : State) (c p vd : Nat) (l : Leaf) (dva n : Nat) : State :=
  if !l.near then s
  else
    let cl := clusterOf c
    let (sp, a) := keyOf l vd dva
    let s := s.countProbes c vd l sp dva a n
    let xs := ((List.range n).map (a + ·)).filter fun x => (s.cext cl sp x).isNone
    match xs.head?, xs.getLast? with
    | some x, some y =>
      (baysOf x (y + 1 - x)).foldl (fun s b =>
        let r : HReq := ⟨.fetch, c, p, dva + (b.1 - a), sp, b.1, b.2.2, [], l, 0, vd, none, true⟩
        s.sendFrom cl l.home (stopOfSlice (homeSlice l.home b.1)) vcREQ vd (s.gtiOf c p) (.req r)) (s.bump c 0x06 vd 1)
    | _, _ => s

/-- A piece of a GPREF takes its translation from the TLBs, or a walk finds it; the strand does not wait. -/
def State.prefetch (s : State) (c p dva n : Nat) : State :=
  let t := s.tagOf c p
  let ll := s.isLandlord c p
  let (vd, asid, _) := s.spaceOf (clusterOf c) t ll
  match s.tlbLook c vd asid dva with
  | some l => if s.checkLeaf vd .prefetch l = 0 then s.prefetchSend c p vd l dva n else s
  | none =>
    let d := s.die (dieOf c)
    s.setDie (dieOf c) { d with walks := d.walks ++ [⟨c, p, 0, BitVec.ofNat 4 t, 0, some (dva, n, ll)⟩] }

/-- The walk of a DVA in an address space by the walkers of a die, once its entries have been read: its leaf, or the
PAGE subcode; none while a read must wait (R38, R82, R84). -/
def State.walkSpace (s : State) (d vd root : Nat) (a : GAct) (dva : Nat) : Option (Except Nat Leaf × State) :=
  (s.walkReads d vd root dva).map fun s =>
    match s.walk root dva with
    | .error n => (.error n, s)
    | .ok l => let n := s.checkLeaf vd a l; (if n = 0 then .ok l else .error n, s)

/-- The same in the address space of a party. -/
def State.walkFor (s : State) (cl tag : Nat) (landlord : Bool) (a : GAct) (dva : Nat) :
    Option (Except Nat Leaf × State) :=
  let (vd, _, root) := s.spaceOf cl tag landlord
  s.walkSpace (dieOfCluster cl) vd root a dva

/-- A walk has decided a piece of an operation: its leaf, or the PAGE subcode; or it has found a GPREF's leaf. -/
def State.walkDone (s : State) (w : Walk) : Option State :=
  let cl := clusterOf w.core
  match w.pref with
  | some (dva, n, ll) =>
    let (vd, asid, _) := s.spaceOf cl w.tag.toNat ll
    (s.walkFor cl w.tag.toNat ll .prefetch dva).map fun x =>
      match x.1 with
      | .error _ => x.2
      | .ok l => (x.2.tlbFill w.core vd asid dva l).prefetchSend w.core w.pos vd l dva n
  | none =>
    match s.opOf w.core w.pos with
    | none => some s
    | some o =>
      if o.id ≠ w.op then some s
      else
        match o.pieces[w.piece]? with
        | none => some s
        | some q =>
          let ll := s.isLandlord w.core w.pos
          let (vd, asid, _) := s.spaceOf cl w.tag.toNat ll
          (s.walkFor cl w.tag.toNat ll o.act q.dva).map fun x =>
            let (q, s) := match x.1 with
              | .error n => ({ q with sub := n }, x.2)
              | .ok l => ({ q with leaf := some l }, x.2.tlbFill w.core vd asid q.dva l)
            let ps := o.pieces.set w.piece q
            let s := s.setOp w.core w.pos (some { o with pieces := ps })
            if ps.all Piece.decided then s.dispatchOp w.core w.pos else s

/-- A JOB has read its card, and waits for a slot. -/
def Op.carded (o : Op) : Bool := match o.act with | .job _ => o.got.length = o.len | _ => false

/-- An access that has waited is translated again, page by page, and goes on; a card is read once (R369). -/
def State.resumeOp (s : State) (c p : Nat) (o : Op) : State :=
  if o.carded then s.settled c p (s.finishOp c p)
  else
  let o := { o with pieces := o.pieces.flatMap fun q => splitPages q.dva q.len, got := [], left := 0, sent := false }
  ((s.setOp c p (some o)).park c p (waitSt o.act) .reply).translateOp c p

/-! Issue -/

/-- An operation of the issuing party, before anything of it is done. -/
def State.newOp (s : State) (u : Use) (act : GAct) (dva n : Nat) (data : List PByte) : Op × State :=
  let c := s.cur.core
  let p := s.cur.pos
  let (i, s) := s.fresh
  let x := s.strand c p
  ({ id := i, act := act, dva := dva, len := n, pieces := if n = 0 then [] else splitPages dva n
     data := data, got := [], left := 0, sent := false, bad := 0
     region := if p < 6 && trackedAct act then x.region else none
     chSrc := u.srcs, res := 0, resP := false, since := s.cycle
     limit := if p < 6 then x.limit.toNat else 0, begun := false }, s)

/-- Start a global access of the issuing party (R43, R125, R288). -/
def State.startOp (s : State) (u : Use) (act : GAct) (dva n : Nat) (data : List PByte) : State :=
  let c := s.cur.core
  let p := s.cur.pos
  let join := match act with | .join _ => true | _ => false
  if (waitsOverlap act && s.entriesOverlap c p dva n) || (join && s.hasEntries c p) then
    s.park c p .waitMem .sidelog
  else
    let (o, s) := s.newOp u act dva n data
    let s := (s.setOp c p (some o)).park c p (waitSt act) .reply
    s.translateOp c p

/-- Start an operation of the issuing party that names no address: it waits for acknowledgements that are
sent next. -/
def State.startPlain (s : State) (u : Use) (act : GAct) : State :=
  let (o, s) := s.newOp u act 0 0 []
  (s.setOp s.cur.core s.cur.pos (some o)).park s.cur.core s.cur.pos .waitMem .reply

/-- An instruction that has acted and only waits for its acknowledgement. -/
def State.actAndWait (s : State) (u : Use) : State :=
  (s.startPlain u .done).ackLocal s.cur.core s.cur.pos 0

end Sys2Proof.Machine
end

