-- ==== Sys2Proof/Machine/Reply.lean ====
section
/-! DEFINITION. What a reply brings to a cluster: cached bytes, a bound value, a refusal and what follows
from it (R43, R94, R113, R114, R165, R179). -/

namespace Sys2Proof.Machine

/-! Bytes that a reply brings -/

/-- Cache the bytes that the cluster does not hold as D or A, as C (R94). -/
def State.cacheReply (s : State) (cl : Nat) (r : HReq) (b : List PByte) : State :=
  if r.keep && r.region.isNone && r.leaf.near then s.keepRead cl r.vd r.sp r.leaf r.addr b else s

/-- The bytes of a reply, with those that the cluster has written and holds as D in their place (R94). -/
def State.overLocal (s : State) (cl : Nat) (r : HReq) (b : List PByte) : List PByte :=
  if r.region.isSome || !r.leaf.near then b
  else b.zipIdx.map fun x => (s.dirtyByte cl r.sp (r.addr + x.2)).getD x.1

/-- The bytes of a reply bind: but for those that the cluster has dropped or written meanwhile on a release or
unordered page, which are read again (R117, R132). -/
def HReq.binds (r : HReq) : Bool := r.keep || r.leaf.kind = .strong || r.region.isSome || !r.leaf.near

/-- The bytes of a word of an access of n bytes that a reply does not carry are the cluster's to give: D bytes, or, with
a reply that may be cached, C bytes as old as its own (R94, R114). -/
def State.wordThere (s : State) (r : HReq) (n w : Nat) : Bool :=
  let cl := clusterOf r.core
  ((List.range 8).map (w + ·)).all fun x =>
    x + r.off < r.addr || r.addr + n ≤ x + r.off || (r.addr ≤ x && x < r.addr + r.len) ||
    (s.dirtyByte cl r.sp x).isSome || (r.keep && (s.hitByte cl r.leaf r.sp x).isSome)

/-- The bytes of an access, by offset, that a reply binds: the words that it makes whole (R114). -/
def State.boundBy (s : State) (r : HReq) (n : Nat) (b : List PByte) : List (Nat × PByte) :=
  let cl := clusterOf r.core
  let b := s.overLocal cl r b
  if r.region.isSome || !r.leaf.near then b.zipIdx.map fun x => (r.off + x.2, x.1)
  else
    ((wordsOf r.addr r.len).filter (s.wordThere r n)).flatMap fun w =>
      (((List.range 8).map (w + ·)).filter fun x => r.addr ≤ x + r.off && x + r.off < r.addr + n).filterMap fun x =>
        (if r.addr ≤ x && x < r.addr + r.len then b[x - r.addr]? else s.cachedByte cl r.sp x).map fun y =>
          (x + r.off - r.addr, y)

/-- Bind the bytes of a reply. -/
def State.bindReply (s : State) (r : HReq) (b : List PByte) : State :=
  if r.binds then
    s.modOp r.core r.pos fun o =>
      { o with got := (s.boundBy r o.len b).foldl (fun m x => mapPut m x.1 x.2) o.got }
  else s

/-! Completion -/

/-- The word of a cluster-copy atomic as the cluster holds it now. -/
def State.copyNow (s : State) (c p : Nat) (o : Op) : Option (List PByte) :=
  match o.pieces with
  | [q] =>
    match q.leaf with
    | some l =>
      let (sp, a) := keyOf l (s.vdOf c p) q.dva
      ((List.range o.len).map (a + ·)).mapM fun x => s.cachedByte (clusterOf c) sp x
    | none => none
  | _ => none

/-- What is still absent of an access is asked for again, under the translation that its page has now (R182). -/
def State.again (s : State) (c p : Nat) : State :=
  (s.modOp c p fun o => { o with
    pieces := o.pieces.flatMap fun q => if o.lacks q then splitPages q.dva q.len else [q] }).translateOp c p

/-- No reply to an operation is outstanding (R113). -/
def State.replied (s : State) (c p : Nat) : State :=
  match s.opOf c p with
  | none => s
  | some o =>
    if o.bad ≠ 0 then s.finishOp c p
    else if !o.refused.isEmpty then s.logRefused c p
    else if o.sent then
      match s.copyNow c p o with
      | some b => (s.modOp c p fun o => o.bind 0 b).finishOp c p
      | none => (s.modOp c p fun o => { o with got := [] }).again c p
    else if bindsAct o.act && !o.missing.isEmpty then s.again c p
    else s.finishOp c p

/-- One reply has come. -/
def State.countDown (s : State) (c p : Nat) : State :=
  let s := s.modOp c p fun o => { o with left := o.left - 1 }
  match s.opOf c p with
  | some o => if o.left = 0 then s.replied c p else s
  | none => s

/-! MOVED (R110, R165, R182) -/

/-- Replace the leaf of the piece that holds a DVA. -/
def newLeaf (l : List Piece) (dva : Nat) (x : Leaf) : List Piece :=
  l.map fun q => if q.dva ≤ dva && dva < q.dva + q.len then { q with leaf := some x } else q

/-- Perform pieces of an operation, and go on when no reply is outstanding. -/
def State.goOn (s : State) (c p : Nat) (l : List Piece) : State :=
  let s := s.perform c p l
  match s.opOf c p with
  | some o => if o.left = 0 then s.replied c p else s
  | none => s

/-- A home has refused bytes of an access with MOVED: they are translated again and performed once at the new
home, or the access traps, or they are logged. While the walk must wait, the state is short. -/
def State.moved (s : State) (r : HReq) : State :=
  let c := r.core
  let p := r.pos
  match s.opOf c p with
  | none => s
  | some o =>
    let dva := o.dva + r.off
    let cl := clusterOf c
    let ll := s.isLandlord c p
    let (vd, asid, _) := s.spaceOf cl (s.tagOf c p) ll
    let s := s.bump c 0x0F vd 1
    match s.walkFor cl (s.tagOf c p) ll o.act dva with
    | none => s.lacks none
    | some (.ok l, s) =>
      let s := s.tlbFill c vd asid dva l
      let o := { o with pieces := newLeaf o.pieces dva l, left := o.left - 1 }
      let s := s.setOp c p (some o)
      if State.foreign c o then s.abortOwn c p 4 else s.goOn c p [⟨dva, r.len, some l, 0⟩]
    | some (.error n, s) =>
      if o.region.isSome || !loggedAct o.act then
        s.failOp c p (tPage n dva o.len (actClass o.act) (dva / 2 ^ 16 ≠ o.dva / 2 ^ 16))
      else
        let o := { o with pieces := o.pieces ++ [⟨dva, r.len, none, n⟩], left := o.left - 1 }
        (s.setOp c p (some o)).logRefused c p

/-! The event (R43, R113, R179) -/

/-- A violation of a guard that a reply reports enters the sender's record (R333, R88). -/
def noteGuard (g : Option GuardRec) (x : GuardRec) : GuardRec :=
  match g with
  | none => x
  | some r => if r.more = 255 then r else { r with more := r.more + 1 }

/-- A home has refused a GPREF's bytes with MOVED: they are translated by a walk and asked for once at the new home,
while a context of their virtual device is the party's (R288). -/
def State.refetch (s : State) (r : HReq) : State :=
  let ll : Bool := r.vd = landlordVd
  let s := s.bump r.core 0x0F r.vd 1
  if (s.spaceOf (clusterOf r.core) (s.tagOf r.core r.pos) ll).1 ≠ r.vd then s
  else
    let d := s.die (dieOf r.core)
    s.setDie (dieOf r.core) { d with walks := d.walks ++
      [⟨r.core, r.pos, 0, BitVec.ofNat 4 (s.tagOf r.core r.pos), 0, some (r.op, r.len, ll)⟩] }

/-- A reply to a request reaches its party. -/
def State.takeReply (s : State) (cl : Nat) (r : HReq) (st : RspStatus) (val : Word) (b : List PByte) : State :=
  match r.kind with
  | .fetch =>
    if st = .ok then s.cacheReply cl r b
    else if st = .moved then s.refetch r
    else s
  | _ =>
    match s.opOf r.core r.pos with
    | none => s
    | some o =>
      if o.id ≠ r.op then s
      else
        match st with
        | .moved => s.moved r
        | .poisonSync => (s.modOp r.core r.pos fun o => { o with bad := max o.bad 1 }).countDown r.core r.pos
        | .loftOverflow =>
          (s.modOp r.core r.pos fun o => { o with bad := 2, res := val }).countDown r.core r.pos
        | .ok =>
          let s := match r.kind with
            | .read => if bindsAct o.act || o.sent then (s.bindReply r b).cacheReply cl r b
              -- MWAIT to a span window reads once (R296)
              else s.modOp r.core r.pos fun o =>
                { o with res := if bytesNat b ≠ bytesNat o.data then 1 else 0 }
            | .join => s.modOp r.core r.pos fun o =>
              if val = 2 then { o.bind 0 b with res := 2 } else { o with res := val }
            | _ => s.modOp r.core r.pos fun o => { o with res := val }
          s.countDown r.core r.pos

/-- An acknowledgement reaches its party. -/
def State.takeAck (s : State) (c p op : Nat) (val : Word) (poison refused : Bool) (g : Option GuardRec) :
    State :=
  match s.opOf c p with
  | none => s
  | some o =>
    if o.id ≠ op then s
    else if refused then s.failOp c p tPriv
    else
      let s := match g with
        | some x => if p < 6 then s.setStrand c p { s.strand c p with guard := some (noteGuard (s.strand c p).guard x) } else s
        | none => s
      (s.modOp c p fun o => { o with res := val, resP := poison }).countDown c p

/-- A probe of FLUSHP has returned. -/
def State.takeProbe (s : State) (c p op : Nat) : State :=
  match s.opOf c p with
  | none => s
  | some o => if o.id ≠ op then s else s.countDown c p

/-- A reply has been taken, unless what followed from it was short: then the reply waits, or the access raises
LOFT_OVERFLOW (R94, R99, R107). -/
def State.taken (s : State) (c p : Nat) (t : State) : Option State :=
  match t.short with
  | none => some t
  | some none => none
  | some (some k) => some (s.failOp c p (tOver k))

/-- MEMORY_REPLY: a reply in flight reaches its cluster; one that carries an older incarnation is dropped
(R179). -/
def State.memoryReply (s : State) (i : Nat) : Option State :=
  match s.flit? i with
  | none => none
  | some f =>
    let cl := 512 * f.ddie + f.dstop
    let s' := s.drop i
    let old := f.inc ≠ (s.cluster cl).inc
    match f.msg with
    | .rsp r st v b => if old then some s' else s'.taken r.core r.pos (s'.takeReply cl r st v b)
    | .ack c p op v po re g => if old then some s' else s'.taken c p (s'.takeAck c p op v po re g)
    -- a probe returns from its destination at once
    | .probe c p op =>
      some (if f.inc ≠ (s.cluster f.cluster).inc then s' else s'.takeProbe c p op)
    | _ => none

def execMemoryReply (i : Nat) (s : State) : Result := .next ((s.memoryReply i).getD s)

end Sys2Proof.Machine
end

