-- ==== Sys2Proof/Machine/HomeFam.lean ====
section
/-! DEFINITION. What a home does with a request, and the events around it: fills, invalidations, recalls,
combines, frames, tombstones, incarnations, watches (R97, R98, R101, R106, R107, R116, R120, R123, R179,
R182, R296, R340). -/

namespace Sys2Proof.Machine

/-- What a home finds when it handles a request. -/
inductive HomeRes where
  /-- it has acted -/
  | done (s : State)
  /-- the request waits at the home -/
  | hold
  /-- the request is refused and recirculates -/
  | refuse
  /-- an extent needs a frame before the request can have room (R106) -/
  | frame (e : HExt)

/-- The slice to which a flit goes. -/
def Flit.slice (f : Flit) : Nat := 96 * f.ddie + (f.dstop - 512)

/-! Bytes that a request needs (R98) -/

/-- Bytes of a range that no extent holds, an outstanding fill among them or not, and that lie on a page with a
frame. -/
def State.absentAt (s : State) (sl : Nat) (sp : ASpace) (l : Leaf) (a n : Nat) : List Nat :=
  ((List.range n).map (a + ·)).filter fun x => (s.hext sl sp x).isNone && (s.behind sp l x).isSome

/-- A byte is part of an outstanding fill. -/
def State.filling (s : State) (sl : Nat) (sp : ASpace) (a : Nat) : Bool :=
  (s.slice sl).exts.any fun e => e.sp = sp && e.fill && (runByte e.start e.data a).isSome

/-- Requests that a home already holds for a bay. -/
def State.heldAt (s : State) (sl : Nat) (sp : ASpace) (bay : Nat) : Nat :=
  (s.net.filter fun f => f.stage = .held && f.slice = sl && 512 ≤ f.dstop && f.dstop < 608 &&
    match f.msg with
    | .req r => r.sp = sp && r.addr / 256 = bay
    | _ => false).length

/-- The outstanding fill within which a range lies whole (R98). -/
def State.fillOf (s : State) (sl : Nat) (sp : ASpace) (a n : Nat) : Option Fill :=
  (s.slice sl).fills.find? fun x => x.sp = sp && x.start ≤ a && a + n ≤ x.start + x.len

/-- Start the fill of the granules of a range that hold bytes which no extent covers: their extents, the record of
the requester, and the request to the frame's controller (R98). A device that may not allocate there takes no
tag for it (R101). -/
def State.startFill (s : State) (sl : Nat) (sp : ASpace) (l : Leaf) (vd a n : Nat) : State :=
  match s.gapOf sl sp a n with
  | none => s
  | some (lo, hi) =>
    let (u, s) := s.fresh
    let may := s.mayAlloc l.home vd
    let f := fillExts sp l vd (if may then 16 else 18) u lo hi
    let s := if may then s.changeH sl vd lo f else s.setSlice sl { s.slice sl with exts := f (s.slice sl).exts }
    let k := s.slice sl
    let s := s.setSlice sl { k with fills := k.fills ++ [⟨sp, lo, hi - lo, 1⟩] }
    match s.behind sp l lo with
    | some pa => s.askHbm (stackOf pa) ⟨vd, sl, sp, lo / 256, pa, (hi - lo) / 64, none, false, false⟩
    | none => s

/-- A request that lies within an outstanding fill is recorded there, at most 28 of them, in chunks that hold seven
records each; else it is refused (R98). -/
def State.joinFill (s : State) (f : Flit) (x : Fill) : HomeRes :=
  if f.stage = .held then .hold
  else
    let sl := f.slice
    let k := s.slice sl
    let y := { x with recs := x.recs + 1 }
    if 28 ≤ x.recs || 16384 < chunksIn k k.exts + (y.extra - x.extra) then .refuse
    else .done ((s.setSlice sl { k with fills := k.fills.map fun z => if z = x then y else z }).hold f.id)

/-- The bytes that a request needs are absent: start their fill, or wait for it, or refuse (R98). `none` when
nothing is absent. -/
def State.needBytes (s : State) (f : Flit) (sp : ASpace) (l : Leaf) (vd a n : Nat) : Option HomeRes :=
  let sl := f.slice
  match s.absentAt sl sp l a n with
  | [] => none
  | xs =>
    if xs.any (s.filling sl sp) then
      match s.fillOf sl sp a n with
      | some x => some (s.joinFill f x)
      | none => some .refuse
    else
      match s.roomBay sp l vd a n with
      | .ok s => some (.done ((s.startFill sl sp l vd a n).hold f.id))
      | .refused => some .refuse
      | .frame e => some (.frame e)

/-- Room for what a write adds to its home. -/
def State.needRoom (s : State) (sp : ASpace) (l : Leaf) (vd a n : Nat) : Except HomeRes State :=
  match s.roomWrite sp l vd a n with
  | .ok s => .ok s
  | .refused => .error .refuse
  | .frame e => .error (.frame e)

/-- Room for a tag of a word that no extent gives it: a combine list, or W data (R95). -/
def State.needTag (s : State) (sp : ASpace) (l : Leaf) (vd w : Nat) : Except HomeRes State :=
  let sl := homeSlice l.home w
  if !s.mayAlloc l.home vd then .ok s
  else
    match s.roomH sl vd sp w 8 l.loft (fun ex => ex ++ [tagExt sp l vd w s.nextId]) 64 with
    | .ok s => .ok s
    | .refused => .error .refuse
    | .frame e => .error (.frame e)

/-- What was filled for devices that may not allocate is not kept once its last request is served (R101). -/
def State.unkept (s : State) (sl : Nat) (sp : ASpace) (a n : Nat) : State :=
  if 1 < s.heldAt sl sp (a / 256) then s
  else
    let k := s.slice sl
    s.setSlice sl { k with exts := k.exts.filter fun e =>
      !(e.sp = sp && e.way = 18 && !e.fill && e.st = .v && overlaps e.start e.data.length a n) }

/-- Extents of a range are used now. -/
def State.touchH (s : State) (sl : Nat) (sp : ASpace) (a n : Nat) : State :=
  let (u, s) := s.fresh
  let k := s.slice sl
  let use (e : HExt) : HExt :=
    if e.sp = sp && overlaps e.start e.data.length a n then { e with used := u } else e
  s.setSlice sl { k with exts := k.exts.map use }

/-! Strong writes (R97, R116) -/

/-- The sharers of a range at its home, by the bits of its extents: the clusters to which an invalidation goes, but
for the writer's own (R97). -/
def State.sharersOf (s : State) (cl : Nat) (sp : ASpace) (l : Leaf) (a n : Nat) : NSet :=
  let v := ((s.slice (homeSlice l.home a)).exts.filter fun e => e.sp = sp && overlaps e.start e.data.length a n).foldl
    (fun v e => v ||| e.sharers) (0 : BitVec 64)
  ((clustersOfVec l.home v).filter (· ≠ cl)).dedup

/-- Trim a range out of the strong C copies of one cluster, and keep nothing that is on its way (R97, R132). -/
def State.trimCluster (s : State) (cl : Nat) (sp : ASpace) (a n : Nat) : State :=
  let s := s.setCache cl (trimC (fun e => e.leaf.kind = .strong) sp a n (s.cluster cl).cache)
  s.unkeepAll fun k r => k = cl && r.sp = sp && r.leaf.kind = .strong && overlaps r.addr r.len a n

/-- The invalidations that a strong write still needs: none, or the home sends them and waits, or it waits
already. -/
def State.needTrims (s : State) (f : Flit) (cl : Nat) (sp : ASpace) (l : Leaf) (a n : Nat) : Option HomeRes :=
  if l.kind ≠ .strong then none
  else
    let sl := f.slice
    match (s.slice sl).busy.find? fun b => b.flit = f.id with
    | some b => if b.left.isEmpty then none else some .hold
    | none =>
      match s.sharersOf cl sp l a n with
      | [] => none
      | ks =>
        let k := s.slice sl
        let s := s.setSlice sl { k with busy := k.busy ++ [⟨f.id, sp, a, n, ks⟩] }
        let s := ks.foldl (fun s k => s.sendBack sl k vcCOH f.vd f.gti (.inval sl sp a n)) s
        some (.done (s.hold f.id))

/-- A write of one bay performs at its home: the bytes, the writer's own copies, the watches (R98, R116). Older C
bytes of its own cluster under other kinds are dropped (R115). -/
def State.performWrite (s : State) (f : Flit) (cl : Nat) (sp : ASpace) (l : Leaf) (vd a : Nat)
    (data : List PByte) : State :=
  let sl := f.slice
  let k := s.slice sl
  let s := s.setSlice sl { k with busy := k.busy.filter fun b => b.flit ≠ f.id }
  if l.kind = .strong then
    let s := s.homeWriteBay sp l vd a data (ownBit l cl)
    s.patchOwn cl sp a (s.homeBytes sp l a data.length)
  else ((s.homeWriteBay sp l vd a data (BitVec.allOnes 64)).dropClean cl sp a data.length).unkeepAt cl sp a data.length

/-! Requests from outside a region -/

/-- Whether a request writes its bytes. -/
def HKind.writes : HKind → Bool
  | .write | .atom _ _ | .red _ | .accrue _ | .join => true
  | .read | .fetch | .mwait _ _ => false

/-- Whether a request needs the value of its bytes. -/
def HKind.reads : HKind → Bool
  | .write | .accrue _ => false
  | _ => true

/-- The combine list that a request must first have combined; an accrual of the same operation and width joins
it (R123). -/
def State.combineFor (s : State) (r : HReq) : Option Combine :=
  match s.combineDue r.sp r.leaf r.addr r.len with
  | none => none
  | some c =>
    match r.kind with
    | .accrue op =>
      let same (cl : Nat) : Bool := ((s.cluster cl).cache.filter fun e =>
        e.sp = r.sp && overlaps e.start e.data.length c.addr 8 &&
        (match e.st with | .a _ _ => true | _ => false)).all fun e => e.st = .a op r.len
      if c.clusters.all same then none else some c
    | _ => some c

/-- What a request waits for before it is served: a recall, a combine, a region, the host, or invalidations of
another write. -/
def State.mustWait (s : State) (f : Flit) (r : HReq) : Bool :=
  (s.recallDue f.cluster r.sp r.leaf r.addr r.len).isSome || (s.combineFor r).isSome ||
  s.blocked r.sp r.leaf r.addr r.len r.kind.writes ||
  (r.kind = .join && s.blocked r.sp r.leaf (r.addr + 8) 32 false) ||
  (s.slice f.slice).busy.any fun b => b.flit ≠ f.id && b.sp = r.sp && overlaps b.addr b.len r.addr r.len

/-- A reply with the bytes that a home holds now; on a strong page the cluster becomes a sharer, where extents that
stay hold them all: else it keeps no copy (R97, R101, R116, R323). -/
def State.serveRead (s : State) (f : Flit) (r : HReq) : State :=
  let sl := f.slice
  let b := s.homeBytes r.sp r.leaf r.addr r.len
  let s := s.touchH sl r.sp r.addr r.len
  let strong : Bool := r.leaf.kind = .strong && r.region.isNone
  let there := (List.range r.len).all fun j => (s.hext sl r.sp (r.addr + j)).any fun e => e.way ≠ 18
  let s :=
    if strong then (if there then s.share sl r.sp r.addr r.len (sharerBit r.leaf.home f.cluster) else s)
    else if r.region.isNone then s.supersede f.cluster r.sp r.leaf r.addr r.len else s
  (s.unkept sl r.sp r.addr r.len).answer f (.rsp { r with keep := r.keep && (!strong || there) } .ok 0 b)

/-- A poisoned word answers POISON_SYNC, unless its write would first raise LOFT_OVERFLOW (R159). -/
def State.poisoned (s : State) (f : Flit) (r : HReq) : HomeRes :=
  match s.needRoom r.sp r.leaf r.vd r.addr (min r.len 8) with
  | .error (.frame e) => .frame e
  | _ => .done (s.answer f (.rsp r .poisonSync 0 []))

/-- An atomic or a reduction at the home. -/
def State.serveAtomic (s : State) (f : Flit) (r : HReq) (op : AOp) (cmp : Word) : HomeRes :=
  let old := s.homeBytes r.sp r.leaf r.addr r.len
  if (s.homeWord r.sp r.leaf (r.addr / 8 * 8)).p then s.poisoned f r
  else
    match s.needTrims f f.cluster r.sp r.leaf r.addr r.len with
    | some x => x
    | none =>
      match s.needRoom r.sp r.leaf r.vd r.addr r.len with
      | .error x => x
      | .ok s =>
        let x := bytesNat old
        let y := aopVal op (8 * r.len) x (bytesNat r.data) cmp.toNat
        let s := s.performWrite f f.cluster r.sp r.leaf r.vd r.addr (natBytes r.len y)
        .done (s.answer f (.rsp r .ok (BitVec.ofNat 64 x) []))

/-- MWAIT at the home: the value, or a watch (R296). -/
def State.serveWatch (s : State) (f : Flit) (r : HReq) (cmp : Word) : State :=
  let sl := f.slice
  let w := s.homeWord r.sp r.leaf r.addr
  let s := s.unkept sl r.sp r.addr r.len
  if w.p then s.answer f (.rsp r .poisonSync 0 [])
  else if w.v ≠ cmp then s.answer f (.rsp r .ok 1 [])
  else
    let k := s.slice sl
    if 64 ≤ k.watches.length then s.answer f (.rsp r .ok 0 [])
    else
      (s.setSlice sl { k with watches := k.watches ++ [⟨r.core, r.pos, r.op, r.sp, r.addr, cmp, none⟩] }).drop f.id

/-- JOIN at the home of its counter (R340); an unmapping of the page that waits for it looks again (R77). -/
def State.serveJoin (s : State) (f : Flit) (r : HReq) : HomeRes :=
  match s.joinAt f.cluster r.sp r.leaf r.vd r.addr with
  | .zero s => .done (s.answer f (.rsp r .ok 0 []))
  | .poison s => s.poisoned f r
  | .done s none => .done (s.answer f (.rsp r .ok 1 [])).roomFreed
  | .done s (some l) => .done (s.answer f (.rsp r .ok 2 (l.flatMap fun w => natBytes 8 w.toNat))).roomFreed

/-- Enter a cluster on the combine list of a word and place its delta (R123, R347); with no chunk free in its cache
the reduction performs here (R113). -/
def State.serveAccrue (s : State) (f : Flit) (r : HReq) (op : AOp) : HomeRes :=
  let sl := f.slice
  let w := r.addr / 8 * 8
  if (s.accrued f.cluster r.sp op r.addr r.len).isNone && s.cacheFull f.cluster then
    let s := match s.combineDue r.sp r.leaf r.addr r.len with
      | some c => s.combineWord c
      | none => s
    match s.needBytes f r.sp r.leaf r.vd r.addr r.len with
    | some x => x
    | none => s.serveAtomic f r op 0
  else
    let listed := (s.slice sl).combines.any fun c => c.sp = r.sp && c.addr = w
    match (if listed || (s.hextAny sl r.sp w).isSome then .ok s else s.needTag r.sp r.leaf r.vd w) with
    | .error x => x
    | .ok s =>
      let s := s.accrue f.cluster r.vd r.leaf r.sp op r.addr r.data
      let k := s.slice sl
      let l := match k.combines.find? fun c => c.sp = r.sp && c.addr = w with
        | some c => k.combines.map fun d => if d = c then { d with clusters := setAdd d.clusters f.cluster } else d
        | none => k.combines ++ [⟨r.sp, w, [f.cluster], r.leaf⟩]
      .done ((s.setSlice sl { k with combines := l }).answer f (.rsp r .ok 0 []))

/-- A request from outside a region, once nothing holds it. -/
def State.serve (s : State) (f : Flit) (r : HReq) : HomeRes :=
  match (if r.kind.reads then s.needBytes f r.sp r.leaf r.vd r.addr r.len else none) with
  | some x => x
  | none =>
    match r.kind with
    | .read | .fetch => .done (s.serveRead f r)
    | .write =>
      match s.needTrims f f.cluster r.sp r.leaf r.addr r.len with
      | some x => x
      | none =>
        match s.needRoom r.sp r.leaf r.vd r.addr r.len with
        | .error x => x
        | .ok s =>
          let s := s.performWrite f f.cluster r.sp r.leaf r.vd r.addr r.data
          .done (s.answer f (.rsp r .ok 0 []))
    | .atom op cmp => s.serveAtomic f r op cmp
    | .red op => s.serveAtomic f r op 0
    | .accrue op => s.serveAccrue f r op
    | .mwait cmp _ => .done (s.serveWatch f r cmp)
    | .join => s.serveJoin f r

/-! Requests of a region (R355 to R359) -/

/-- The record of a word. -/
def State.regRec (s : State) (sp : ASpace) (l : Leaf) (w : Nat) : Option RegRec :=
  (s.slice (homeSlice l.home w)).regs.find? fun r => r.sp = sp && r.addr = w

/-- The last writer of a word. -/
def lastWriter (r : Option RegRec) : Option Nat := (r.bind fun x => x.writers.getLast?).map (·.1)

/-- Granules in which a region holds records on a die. -/
def State.regChunks (s : State) (d slot : Nat) : List (ASpace × Nat) :=
  ((s.slices.filter fun x => x.1 / 96 = d).flatMap fun x =>
    (x.2.regs.filter fun r => r.writers.any (fun w => w.1 = slot) || r.readers.contains slot).map
      fun r => (r.sp, r.addr / 64)).dedup

/-- The granules that a request adds to them. -/
def State.newChunks (s : State) (d slot : Nat) (r : HReq) : Nat :=
  let l := s.regChunks d slot
  (((wordsOf r.addr r.len).map fun w => (r.sp, w / 64)).dedup.filter fun x => !l.contains x).length

def slotDepth (r : Rou) (i : Nat) : Nat := match mapGet? r.slots i with | some k => k.depth | none => 0

/-- The longest forwarding chain that starts at a region; `fuel` bounds it. -/
def chainFrom (f : List (Nat × Nat)) : Nat → Nat → Nat
  | 0, _ => 0
  | fuel + 1, i => ((f.filter fun e => e.1 = i).map fun e => chainFrom f fuel e.2 + 1).foldl max 0

/-- A forwarding edge would make a chain longer than four, by what precedes its producer and what follows its consumer
(R356, R359; log 124). -/
def chainLong (r : Rou) (i j : Nat) : Bool := 4 < slotDepth r i + 1 + chainFrom r.f 5 j

/-- A region's depth, and those of the regions that it forwards to, are at least so much (R356; log 124). -/
def deepen (f : List (Nat × Nat)) : Nat → Nat → Nat → SMap RegSlot → SMap RegSlot
  | 0, _, _, l => l
  | fuel + 1, i, n, l =>
    let l := match mapGet? l i with
      | some k => mapPut l i { k with depth := max k.depth n }
      | none => l
    (f.filter fun e => e.1 = i).foldl (fun l e => deepen f fuel e.2 (n + 1) l) l

/-- A read of a region that must wait for its producer, because the chain would be longer than four (R356). -/
def State.tooDeep (s : State) (d slot : Nat) (r : HReq) : Option Nat :=
  if !r.kind.reads then none
  else (wordsOf r.addr r.len).findSome? fun w =>
    match lastWriter (s.regRec r.sp r.leaf w) with
    | some p => if p ≠ slot && !(s.rou d).f.contains (p, slot) && chainLong (s.rou d) p slot then some p else none
    | none => none

/-- The edges that an access of a region raises: from, to, forwarding (R356). -/
def State.edgesOf (s : State) (slot : Nat) (r : HReq) : List (Nat × Nat × Bool) :=
  (wordsOf r.addr r.len).flatMap fun w =>
    let k := s.regRec r.sp r.leaf w
    (if r.kind.reads then
      match lastWriter k with
      | some p => if p = slot then [] else [(p, slot, true)]
      | none => []
     else []) ++
    (if r.kind.writes then
      match k with
      | some x => ((x.readers ++ x.writers.map (·.1)).filter (· ≠ slot)).map fun q => (q, slot, false)
      | none => []
     else [])

/-- An edge that the matrices do not yet hold. -/
def edgeMissing (r : Rou) (e : Nat × Nat × Bool) : Bool :=
  if e.2.2 then !r.f.contains (e.1, e.2.1) else !r.e.contains (e.1, e.2.1)

/-- Edges wait for their check at the ROU, and the access with them (R357); the home asks it over COH (R25; log 111). -/
def State.raiseEdges (s : State) (d : Nat) (f : Flit) (l : List (Nat × Nat × Bool)) : HomeRes :=
  let r := s.rou d
  let new := (l.filter fun e => !r.pend.contains e).dedup
  if new.isEmpty then .hold
  else
    let s := s.setRou d { r with pend := r.pend ++ new }
    .done ((s.sendBulk d f.dstop d stopRou vcCOH f.vd f.gti noCluster 1).hold f.id)

/-- The bytes of a word as a region sees it: the last uncommitted writer of each byte over the committed value
(R355, R356). -/
def State.regWord (s : State) (sp : ASpace) (l : Leaf) (w : Nat) : List PByte :=
  let k := s.regRec sp l w
  let ws := match k with | some x => x.writers.reverse | none => []
  (List.range 8).map fun j =>
    (ws.findSome? fun y => mapGet? y.2 j).getD (s.homeByte (homeSlice l.home w) sp l (w + j))

/-- The bytes of a range as a region sees them; a poisoned byte poisons its word. -/
def State.regBytes (s : State) (sp : ASpace) (l : Leaf) (a n : Nat) : List PByte :=
  (List.range n).map fun j =>
    let x := a + j
    let b := s.regWord sp l (x / 8 * 8)
    ⟨(b.getD (x % 8) ⟨0, false⟩).v, b.any (·.p)⟩

/-- Change the record of a word, adding one where there is none. -/
def State.modReg (s : State) (r : HReq) (w : Nat) (f : RegRec → RegRec) : State :=
  let sl := homeSlice r.leaf.home w
  let k := s.slice sl
  match k.regs.find? fun x => x.sp = r.sp && x.addr = w with
  | some x => s.setSlice sl { k with regs := k.regs.map fun y => if y = x then f y else y }
  | none => s.setSlice sl { k with regs := k.regs ++ [f ⟨r.sp, w, r.vd, r.leaf, [], []⟩] }

/-- A region writes bytes of a word: its entry takes them and moves to the end of the list. -/
def RegRec.write (x : RegRec) (slot : Nat) (bs : List (Nat × PByte)) : RegRec :=
  let old := match x.writers.find? fun w => w.1 = slot with | some w => w.2 | none => []
  let new := bs.foldl (fun m b => mapPut m b.1 b.2) old
  { x with writers := x.writers.filter (fun w => w.1 ≠ slot) ++ [(slot, new)] }

/-- The effect of a region's access on the records: it reads its words, writes `data` over them, or both. -/
def State.regPerform (s : State) (slot : Nat) (r : HReq) (data : List PByte) : State :=
  (wordsOf r.addr r.len).foldl (fun s w =>
    let s := if r.kind.reads then s.modReg r w fun x => { x with readers := setAdd x.readers slot } else s
    if r.kind.writes then
      let bs := (List.range 8).filterMap fun j => (runByte r.addr data (w + j)).map fun b => (j, b)
      s.modReg r w fun x => x.write slot bs
    else s) s

/-- Room for the W words that a request adds to those that its region holds: words that lie beside none of its own
take a tag and a chunk (R95, R355). -/
def State.needW (s : State) (slot : Nat) (r : HReq) : Except HomeRes State :=
  if !r.kind.writes then .ok s
  else
    let mine (s : State) (w : Nat) : Bool := (s.slice (homeSlice r.leaf.home w)).regs.any fun x =>
      x.sp = r.sp && x.addr = w && x.writers.any fun y => y.1 = slot
    (wordsOf r.addr r.len).foldl (fun a w =>
      match a with
      | .error x => .error x
      | .ok s =>
        if mine s w || (w ≠ r.addr / 8 * 8 && w % 64 ≠ 0) || (w % 64 ≠ 0 && mine s (w - 8)) then .ok s
        else s.needTag r.sp r.leaf r.vd w) (.ok s)

/-- The access of a region, once its edges stand. -/
def State.regServe (s : State) (slot : Nat) (f : Flit) (r : HReq) : HomeRes :=
  match (if r.kind.reads then s.needBytes f r.sp r.leaf r.vd r.addr r.len else none) with
  | some x => x
  | none =>
    match s.needW slot r with
    | .error x => x
    | .ok s =>
    let old := s.regBytes r.sp r.leaf r.addr r.len
    let atomic (op : AOp) (cmp : Word) : HomeRes :=
      if anyPoison old then .done (s.answer f (.rsp r .poisonSync 0 []))
      else
        let x := bytesNat old
        let y := aopVal op (8 * r.len) x (bytesNat r.data) cmp.toNat
        .done ((s.regPerform slot r (natBytes r.len y)).answer f (.rsp r .ok (BitVec.ofNat 64 x) []))
    match r.kind with
    | .write => .done ((s.regPerform slot r r.data).answer f (.rsp r .ok 0 []))
    | .atom op cmp => atomic op cmp
    | .red op => atomic op 0
    | _ =>
      if anyPoison old then .done (s.answer f (.rsp r .poisonSync 0 []))
      else .done ((s.regPerform slot r []).answer f (.rsp r .ok 0 old))

/-- A read of a region waits for its producer: the ROU notes it, and checks the edge as if it were recorded (R359). -/
def State.holdRead (s : State) (d slot p : Nat) (f : Flit) : HomeRes :=
  let r := s.rou d
  let s := s.setRou d { r with held := r.held.filter (fun x => x.1 ≠ f.id) ++ [(f.id, p)] }
  if edgeMissing r (p, slot, false) then s.raiseEdges d f [(p, slot, false)] else .done (s.hold f.id)

/-- A request of a region: dropped when its region or its access is gone (R362). -/
def State.regTry (s : State) (f : Flit) (r : HReq) (slot : Nat) : HomeRes :=
  let d := f.ddie
  let mine := match mapGet? (s.rou d).slots slot, s.opOf r.core r.pos with
    | some k, some o => k.core = r.core && k.pos = r.pos && o.id = r.op
    | _, _ => false
  if !mine then .done (s.drop f.id)
  else if (s.recallDue f.cluster r.sp r.leaf r.addr r.len).isSome ||
      (s.combineDue r.sp r.leaf r.addr r.len).isSome || (r.kind.writes && s.hostHeld r.sp r.addr r.len) ||
      (s.slice f.slice).busy.any (fun b => b.sp = r.sp && overlaps b.addr b.len r.addr r.len) then .hold
  else if (s.rou d).held.any fun x => x.1 = f.id then .hold
  else if 64 < (s.regChunks d slot).length + s.newChunks d slot r then .done (s.abortRegion d slot 3 slot 256)
  else
    match s.tooDeep d slot r with
    | some p => s.holdRead d slot p f
    | none =>
      match (s.edgesOf slot r).filter (edgeMissing (s.rou d)) with
      | [] => s.regServe slot f r
      | l => s.raiseEdges d f l

/-! The event -/

/-- A number that a home has not heard of is newer; one that it has passed is older (R179). -/
def staleInc (known got : BitVec 8) : Bool :=
  let n := (known - got).toNat
  1 ≤ n && n ≤ 127

/-- An access needs a frame that no pool gives it: it performs nothing and is answered so (R107); a GPREF is dropped. -/
def State.overAnswer (s : State) (f : Flit) (r : HReq) (sl : Nat) : State :=
  match r.kind with
  | .fetch => s.drop f.id
  | _ => s.answer f (.rsp r .loftOverflow (BitVec.ofNat 64 sl) [])

/-- What a home has done for a request stands, unless it was short of room (R99, R107). -/
def State.orShort (s : State) (f : Flit) (r : HReq) (x : HomeRes) : HomeRes :=
  match x with
  | .done t =>
    match t.short with
    | none => .done t
    | some none => .refuse
    | some (some k) => .done (s.overAnswer f r k)
  | x => x

/-- What the home must first have written to it for an access needs a frame that no pool gives: the slice. -/
def State.settleOver (s : State) (f : Flit) (r : HReq) : Option Nat :=
  if (s.recallDue f.cluster r.sp r.leaf r.addr r.len).isNone && (s.combineFor r).isNone then none
  else (s.settle f.cluster r.sp r.leaf r.addr r.len 64).short.join

/-- What a home does with a request. -/
def State.homeTry (s : State) (f : Flit) (r : HReq) : HomeRes :=
  let sl := f.slice
  let k := s.slice sl
  if staleInc (mapGet 0 k.incs f.cluster) f.inc then
    .done ((s.setSlice sl { k with dropped := k.dropped + 1 }).drop f.id)
  else if k.tombs.any fun t => t.sp = r.sp && t.bay ≤ r.addr / 256 && r.addr / 256 < t.bay + t.n then
    .done ((s.setSlice sl { k with busy := k.busy.filter fun b => b.flit ≠ f.id }).answer f (.rsp r .moved 0 []))
  else
    match r.region with
    | some slot => s.orShort f r (s.regTry f r slot)
    | none =>
      if s.mustWait f r then
        match s.settleOver f r with
        | some k => .done (s.overAnswer f r k)
        | none => .hold
      else s.orShort f r (s.serve f r)

/-- A flit in flight that carries a request, when its home can handle it. -/
def State.reqFlit (s : State) (i : Nat) : Option (Flit × HReq) :=
  match s.flit? i with
  | some f => (match f.msg with | .req r => some (f, r) | _ => none)
  | none => none

/-- A request was refused by its home and recirculates (R98, R318). -/
def State.countRefusal (s : State) (r : HReq) : State := s.bump r.core 0x07 r.vd 1

/-- HOME_REQUEST: a home handles a request, or lets it wait. -/
def State.homeRequest (s : State) (i : Nat) : State :=
  match s.reqFlit i with
  | none => s
  | some (f, r) =>
    match s.homeTry f r with
    | .done t => t
    | .hold | .frame _ => s.hold i
    | .refuse => s.countRefusal r

def execHomeRequest (i : Nat) (s : State) : Result := .next (s.homeRequest i)

/-- The read of a region waits at its home for a producer (R359). -/
def State.heldRead (s : State) (i : Nat) : Bool :=
  match s.reqFlit i with
  | some (f, r) => f.stage = .held && r.region.isSome && r.kind.reads
  | none => false

/-- REGION_HELD_READ_RETRY: the read repeats from the start of R356. -/
def execRegionHeldReadRetry (i : Nat) (s : State) : Result :=
  .next (if s.heldRead i then s.homeRequest i else s)

/-- A step of a home that found room for all it wrote; else it waits. -/
def State.whole (s : State) : Option State := if s.short.isSome then none else some s

/-! Frames (R106, R107) -/

/-- FRAME_REQUEST: the die scheduler backs the page of the frameless extent that a request must evict, once nothing is
owed to or accrued in its entry (R120, R123); with an empty pool the access raises LOFT_OVERFLOW. -/
def State.frameRequest (s : State) (i : Nat) : Option State :=
  match s.reqFlit i with
  | none => none
  | some (f, r) =>
    match s.homeTry f r with
    | .frame e =>
      match (s.settle noCluster .phys (s.leafAt e.leaf.pte) e.leaf.pte 8 64).backPage e.leaf with
      | some t => (t.frameTraffic f.slice r.vd).whole
      | none => some (s.overAnswer f r f.slice)
    | _ => none

def execFrameRequest (i : Nat) (s : State) : Result := .next ((s.frameRequest i).getD s)

/-! HBM (R31, R98, R397) -/

/-- A request has its tokens now, or needs none (R397). -/
def tokened (x : Die) (r : HbmReq) : Bool :=
  r.free || r.bursts ≤ ((mapGet 0 x.weight r.vd).extractLsb' 16 16).toNat

/-- The request that an ordinary service slot serves: the oldest tokened one, else the oldest (R397). -/
def hbmChoice (x : Die) : Option Nat :=
  let l := x.hbm.zipIdx.filter fun e => !e.1.served
  match l.find? fun e => tokened x e.1 with
  | some e => some e.2
  | none => l.head?.map (·.2)

/-- Serve a request of a controller's queue (R98, R397). -/
def State.hbmServe (s : State) (d k : Nat) : State :=
  let x := s.die d
  match x.hbm[k]? with
  | none => s
  | some r =>
    -- a write-back is done with; the data of a fill leave for their home
    let s := if r.write.isSome then s.setDie d { x with hbm := listDel x.hbm k }
      else
        let r := { r with served := true }
        (s.setDie d { x with hbm := listSet x.hbm k r }).sendFill d r
    if r.free then s else s.chargeBursts d r.vd r.bursts

/-- HBM_SERVICE_SLOT. -/
def State.hbmSlot (s : State) (d : Nat) : Option State := (hbmChoice (s.die d)).map (s.hbmServe d)

def execHbmServiceSlot (d : Nat) (s : State) : Result := .next ((s.hbmSlot d).getD s)

/-- The virtual device that the reserved slot serves next: round robin over those with token-less requests
(R31). -/
def reservedVd (x : Die) : Option Nat :=
  ((List.range 64).map fun j => (x.rr + 1 + j) % 64).find? fun v =>
    x.hbm.any fun r => !r.served && !tokened x r && r.vd = v

/-- RESERVED_SLOT. -/
def State.reservedServe (s : State) (d : Nat) : Option State :=
  let x := s.die d
  match reservedVd x with
  | none => none
  | some v =>
    match x.hbm.zipIdx.find? fun e => !e.1.served && !tokened x e.1 && e.1.vd = v with
    | none => none
    | some e => some ((s.setDie d { x with rr := v }).hbmServe d e.2)

def execReservedSlot (d : Nat) (s : State) : Result := .next ((s.reservedServe d).getD s)

/-- A bucket after a refill (R397). -/
def refilled (w : Word) : Word :=
  let level := (w.extractLsb' 16 16).toNat
  let rate := (w.extractLsb' 32 16).toNat
  let depth := (w.extractLsb' 48 16).toNat
  (w &&& 0xFFFFFFFF0000FFFF) ||| BitVec.ofNat 64 (min depth (level + rate) * 2 ^ 16)

/-- BUCKET_REFILL. -/
def execBucketRefill (d : Nat) (s : State) : Result :=
  .next (s.setDie d { s.die d with weight := (s.die d).weight.map fun e => (e.1, refilled e.2) })

/-- The bursts that a request reads. -/
def HbmReq.burstsOf (r : HbmReq) : List Nat := (List.range r.bursts).map (r.addr / 64 + ·)

/-- Fill data reach a home: the bytes that nothing has written since; the requester list is gone (R98). -/
def State.fillArrive (s : State) (r : HbmReq) : State :=
  let k := s.slice r.slice
  let n := 64 * r.bursts
  let a := r.bay * 256 + r.addr % 256
  let put (e : HExt) : HExt :=
    if e.sp = r.sp && e.fill && a ≤ e.start && e.start + e.data.length ≤ a + n then
      { e with
        fill := false
        data := (List.range e.data.length).map fun j => s.hbmByte (r.addr + (e.start + j - a)) }
    else e
  (s.setSlice r.slice { k with
    exts := mergeBay k.combines (k.exts.map put) r.sp r.bay
    fills := k.fills.filter fun x => !(x.sp = r.sp && x.start = a && x.len = n) }).roomFreed

/-- The flit that carries the data of a request of a controller's queue, at its home. -/
def State.fillFlit (s : State) (d : Nat) (r : HbmReq) : Option Flit :=
  s.net.find? fun f => f.sdie = d && ready s f && match f.msg with | .fill q => q = r | _ => false

/-- FILL_DATA_ARRIVAL: the data of a served request of a controller, whose bursts are sound, reach its home. -/
def State.fillData (s : State) (d k : Nat) : Option State :=
  let x := s.die d
  match x.hbm[k]? with
  | none => none
  | some r =>
    if !r.served || r.burstsOf.any (setHas s.badBursts) then none
    else (s.fillFlit d r).map fun f => ((s.drop f.id).setDie d { x with hbm := listDel x.hbm k }).fillArrive r

def execFillDataArrival (d k : Nat) (s : State) : Result := .next ((s.fillData d k).getD s)

/-! Invalidations (R97, R116) -/

/-- INVALIDATION_ARRIVAL: a cluster trims the range out of its strong copies and acknowledges. -/
def State.invalArrive (s : State) (i : Nat) : Option State :=
  match s.flit? i with
  | none => none
  | some f =>
    match f.msg with
    | .inval sl sp a n =>
      let cl := 512 * f.ddie + f.dstop
      let s := (s.drop i).trimCluster cl sp a n
      let k := s.slice sl
      let ack (b : Busy) : Busy :=
        if b.sp = sp && b.addr = a && b.len = n then { b with left := setDel b.left cl } else b
      some (s.setSlice sl { k with busy := k.busy.map ack })
    | _ => none

def execInvalidationArrival (i : Nat) (s : State) : Result := .next ((s.invalArrive i).getD s)

/-! Recalls and combines (R120, R123) -/

/-- A request of another cluster has reached the home of a word of a slice. -/
def State.wordWanted (s : State) (sl : Nat) (sp : ASpace) (w : Nat) (f : Flit → HReq → Bool) : Bool :=
  s.net.any fun x => x.slice = sl && 512 ≤ x.dstop && x.dstop < 608 && ready s x &&
    match x.msg with
    | .req r => r.sp = sp && overlaps r.addr r.len w 8 && f x r
    | _ => false

/-- RELL_RECALL: an access from another cluster has reached an owned word (R120). -/
def State.rellRecall (s : State) (sl j : Nat) : Option State :=
  match (s.slice sl).owners[j]? with
  | none => none
  | some o =>
    if !(s.wordWanted sl o.sp o.addr fun f _ => f.cluster ≠ clusterOf o.core) then none
    else if (s.cluster (clusterOf o.core)).cache.any fun e => owedSelects o.core o.pos e && s.owesBlocked e then none
    else (s.recall o).whole

def execRellRecall (sl j : Nat) (s : State) : Result := .next ((s.rellRecall sl j).getD s)

/-- COMBINE: an access has reached a word that clusters hold A bytes of (R123). -/
def State.combineEvent (s : State) (sl j : Nat) : Option State :=
  match (s.slice sl).combines[j]? with
  | none => none
  | some c =>
    if (s.wordWanted sl c.sp c.addr fun _ r => s.combineFor r = some c || r.region.isSome) &&
        !s.blocked c.sp c.leaf c.addr 8 true then
      (s.combineWord c).whole
    else none

def execCombine (sl j : Nat) (s : State) : Result := .next ((s.combineEvent sl j).getD s)

/-! Walks, tombstones, incarnations -/

/-- PAGE_WALK: walk `k` of a die's walker ends (R38, R84); it waits while a read of a table must wait. -/
def State.pageWalk (s : State) (d k : Nat) : Option State :=
  let x := s.die d
  if 192 ≤ k then none
  else
    match x.walks[k]? with
    | none => none
    | some w =>
      -- a walker comes free for those that wait for one
      (((s.setDie d { x with walks := listDel x.walks k }).walkDone w).bind State.whole).map fun t =>
        if s.walkersBusy d then t.roomFreed else t

def execPageWalk (d k : Nat) (s : State) : Result := .next ((s.pageWalk d k).getD s)

/-- TOMBSTONE_RETIRE: no request is under way to the home that was sent before the purge (R182). -/
def State.tombRetire (s : State) (sl j : Nat) : Option State :=
  let k := s.slice sl
  match k.tombs[j]? with
  | none => none
  | some t =>
    if s.net.any fun f => f.slice = sl && f.ddie = sl / 96 && 512 ≤ f.dstop && f.dstop < 608 && vcOrdered f.vc &&
        f.id < t.born then none
    else some (s.setSlice sl { k with tombs := listDel k.tombs j })

def execTombstoneRetire (sl j : Nat) (s : State) : Result := .next ((s.tombRetire sl j).getD s)

/-- INCARNATION_BROADCAST: a home hears of a cluster's new number and acknowledges (R179). -/
def State.incBroadcast (s : State) (sl cl : Nat) : Option State :=
  let k := s.cluster cl
  if setHas k.unacked sl then
    let s := s.setCluster cl { k with unacked := setDel k.unacked sl }
    let x := s.slice sl
    some (s.setSlice sl { x with incs := mapPut x.incs cl k.inc })
  else none

def execIncarnationBroadcast (sl cl : Nat) (s : State) : Result := .next ((s.incBroadcast sl cl).getD s)

/-! Watches (R296) -/

/-- The answer to a strand that watches. -/
def State.watchReply (s : State) (sl : Nat) (w : Watch) (b : Bool) : State :=
  let vd := s.vdOf w.core w.pos
  s.sendBack sl (clusterOf w.core) vcRSP vd (s.gtiOf w.core w.pos)
    (.ack w.core w.pos w.op (if b then 1 else 0) false false none)

/-- MWAIT_WAKE: a write has changed a watched word, or its page was purged. The word is served to its reader
now, so an owner in another cluster is recalled first (R120). -/
def State.mwaitWake (s : State) (sl j : Nat) : Option State :=
  let k := s.slice sl
  match k.watches[j]? with
  | none => none
  | some w =>
    match w.fired with
    | none => none
    | some b =>
      let answer (s : State) : State :=
        (s.setSlice sl { s.slice sl with watches := (s.slice sl).watches.filter (· ≠ w) }).watchReply sl w b
      match k.owners.find? fun o => b && o.sp = w.sp && o.addr = w.addr && clusterOf o.core ≠ clusterOf w.core with
      | none => some (answer s)
      | some o =>
        if (s.cluster (clusterOf o.core)).cache.any fun e => owedSelects o.core o.pos e && s.owesBlocked e then none
        else (s.recall o).whole.map answer

def execMwaitWake (sl j : Nat) (s : State) : Result := .next ((s.mwaitWake sl j).getD s)

/-- MWAIT_TIMEOUT: the wait limit has passed since the issue. -/
def State.mwaitTimeout (s : State) (c p : Nat) : Option State :=
  match s.opOf c p with
  | none => none
  | some o =>
    match o.act with
    | .mwait _ =>
      if o.limit = 0 || s.cycle < o.since + o.limit then none
      else
        match s.slices.find? fun x => x.2.watches.any fun w => w.core = c && w.pos = p && w.op = o.id && w.fired.isNone with
        | none => none
        | some x =>
          match x.2.watches.find? fun w => w.core = c && w.pos = p && w.op = o.id with
          | none => none
          | some w =>
            let k := s.slice x.1
            some ((s.setSlice x.1 { k with watches := k.watches.filter (· ≠ w) }).watchReply x.1 w false)
    | _ => none

def execMwaitTimeout (c p : Nat) (s : State) : Result := .next ((s.mwaitTimeout c p).getD s)

/-! The ROU (R357, R360) -/

/-- The regions of a cycle that an edge would close. -/
def cycleOf (e : List (Nat × Nat)) (i j : Nat) : List Nat :=
  ([i, j] ++ (List.range 256).filter fun k => closes e j k && closes e k i).dedup

/-- The member with the largest seq. -/
def youngest (r : Rou) (l : List Nat) : Option Nat :=
  l.foldl (fun b i =>
    match mapGet? r.slots i, b with
    | none, b => b
    | some _, none => some i
    | some k, some x =>
      match mapGet? r.slots x with
      | some y => if y.seq < k.seq then some i else some x
      | none => some i) none

/-- The ROU answers the homes at which accesses of a region wait (R39; log 111). -/
def State.edgeAnswer (s : State) (d slot : Nat) : State :=
  ((s.net.filter fun f => f.stage = .held && f.ddie = d && match f.msg with | .req r => r.region = some slot | _ => false).map
    (·.dstop)).dedup.foldl (fun s i => s.sendBulk d stopRou d i vcRSP landlordVd 0 noCluster 1) s

/-- ROU_EDGE_CHECK: the oldest edge that waits is entered, or the youngest region of its cycle aborts (R357). An edge
forwards when its chain is not too long by now; else its read is held (R359; log 124). -/
def State.edgeCheck (s : State) (d : Nat) : Option State :=
  let r := s.rou d
  match r.pend with
  | [] => none
  | (i, j, fwd) :: t =>
    let r := { r with pend := t }
    let s := (s.setRou d r).edgeAnswer d j
    if (mapGet? r.slots i).isNone || (mapGet? r.slots j).isNone then some s
    else if closes r.e j i then
      match youngest r (cycleOf r.e i j) with
      | some y => some (s.abortRegion d y 1 j 256)
      | none => some s
    else
      let fwd := fwd && !chainLong r i j
      some (s.setRou d { r with
        e := if r.e.contains (i, j) then r.e else r.e ++ [(i, j)]
        f := if fwd && !r.f.contains (i, j) then r.f ++ [(i, j)] else r.f
        slots := if fwd then deepen r.f 6 j (slotDepth r i + 1) r.slots else r.slots })

def execRouEdgeCheck (d : Nat) (s : State) : Result := .next ((s.edgeCheck d).getD s)

/-- FRE has its commit: ACQ at .dev and the next instruction (R352). -/
def State.freDone (s : State) (c p : Nat) : State :=
  let x := s.strand c p
  let s := s.setStrand c p { x with region := none }
  let s := s.acquire c .dev
  if x.wait = .fre then (s.retireOf c p []).unpark c p else s

/-- The host holds a unit under a word that a region's commit writes (R130). -/
def State.commitHeld (s : State) (d slot : Nat) : Bool :=
  s.slices.any fun x => x.1 / 96 = d && x.2.regs.any fun r =>
    r.writers.any (fun w => w.1 = slot) && s.hostHeld r.sp r.addr 8

/-- REGION_COMMIT: a region whose strand has issued FRE and that no uncommitted region precedes (R360). -/
def State.regionCommit (s : State) (d slot : Nat) : Option State :=
  let r := s.rou d
  match mapGet? r.slots slot with
  | none => none
  | some k =>
    if k.fre && !r.e.any (fun e => e.2 = slot) && !s.commitHeld d slot then
      ((s.commitRegion d (clusterOf k.core) slot).whole).map fun s => s.freDone k.core k.pos
    else none

def execRegionCommit (d slot : Nat) (s : State) : Result := .next ((s.regionCommit d slot).getD s)

end Sys2Proof.Machine
end

