-- ==== Sys2Proof/Machine/GmFam.lean ====
section
/-! DEFINITION. The GM and ATOM groups (R287 to R296, R307). -/

namespace Sys2Proof.Machine

/-! Addresses (R288) -/

/-- Bytes of a global operand's access. -/
def gLen (m : GMem) : Nat := m.len.toNat + 1

/-- The DVA of a global operand, under segment rights (R288, R79). -/
def gDva (rights : List Nat) (m : GMem) (v : View) : Except TrapInfo Nat :=
  segCheck v.regs.g[m.seg] rights ((v.s v.a m.a).v.toInt + m.disp.toInt) (gLen m)

/-- The DVA after the poison check of the sources: A, and what the form reads in B and D (R159, R168). -/
def gAddr (rights : List Nat) (m : GMem) (b d : Bool) (v : View) : Except TrapInfo Nat := do
  needClean (v.s v.a m.a).p b d
  gDva rights m v

/-- The natural alignment of an atomic (R293). -/
def alignTo (n dva : Nat) : Except TrapInfo Nat := if dva % n = 0 then .ok dva else .error (tAlign dva)

/-- Start an access whose address and data a form has computed. -/
def State.access (s : State) (g : Guard) (f : Form) (act : GAct) (n : Nat)
    (fx : View → Except TrapInfo (Nat × List PByte)) : State :=
  s.issue g f fx fun s r => s.startOp f.use act r.1 n r.2

/-! Loads and stores (R289, R290) -/

def fxLoad (m : GMem) (v : View) : Except TrapInfo (Nat × List PByte) := do
  let a ← gAddr [rRead] m false false v
  pure (a, [])

def formGld (d : SOp) (m : GMem) : Form := { use := { a := chS m.a, dst := chS d } }

def execGld (g : Guard) (w : WMod) (d : SOp) (m : GMem) (s : State) : Result :=
  .next (s.access g (formGld d m) (.load (.scalar d w.sgn)) (gLen m) (fxLoad m))

def formGst (d : SOp) (m : GMem) : Form := { use := { a := chS m.a, d := chS d } }

def fxGst (d : SOp) (m : GMem) (v : View) : Except TrapInfo (Nat × List PByte) := do
  let z := v.s v.d d
  let a ← gAddr [rWrite] m false z.p v
  pure (a, bytesOfScalar (gLen m) z)

def execGst (g : Guard) (_w : Fin 4) (d : SOp) (m : GMem) (s : State) : Result :=
  .next (s.access g (formGst d m) .store (gLen m) (fxGst d m))

def formGvld (d : VOp) (m : GMem) : Form := { use := { a := chS m.a, dst := chV d, vecs := vecV d } }

def execGvld (g : Guard) (d : VOp) (m : GMem) (s : State) : Result :=
  .next (s.access g (formGvld d m) (.load (.vec d)) (gLen m) (fxLoad m))

def formGvst (d : VOp) (m : GMem) : Form := { use := { a := chS m.a, d := chV d, vecs := vecV d } }

/-- GVST raises POISON when a register word that holds a stored lane is poisoned (R289). -/
def fxGvst (d : VOp) (m : GMem) (v : View) : Except TrapInfo (Nat × List PByte) := do
  let b := (bytesOfVec (v.v v.d d)).take (gLen m)
  let a ← gAddr [rWrite] m false (bytesP b) v
  pure (a, b)

def execGvst (g : Guard) (d : VOp) (m : GMem) (s : State) : Result :=
  .next (s.access g (formGvst d m) .store (gLen m) (fxGvst d m))

/-- XGET: LS_RANGE before the segment check (R290). -/
def fxXget (d : SOp) (m : GMem) (v : View) : Except TrapInfo (Nat × Nat) := do
  let z := v.s v.d d
  needClean (v.s v.a m.a).p false z.p
  lsCheck z.v.toNat (gLen m)
  let a ← gDva [rRead] m v
  pure (a, z.v.toNat)

def execXget (g : Guard) (d : SOp) (m : GMem) (s : State) : Result :=
  .next (s.issue g (formGst d m) (fxXget d m) fun s r =>
    s.startOp (formGst d m).use (.load (.ls r.2)) r.1 (gLen m) [])

/-- XPUT: the local-store bytes at issue; a poisoned word among them raises POISON (R290). -/
def fxXput (d : SOp) (m : GMem) (k : Core) (v : View) : Except TrapInfo (Nat × Nat × List PByte) := do
  let z := v.s v.d d
  needClean (v.s v.a m.a).p false z.p
  lsCheck z.v.toNat (gLen m)
  let b := lsBytes k z.v.toNat (gLen m)
  if bytesP b then .error (tPoison 3)
  else
    let a ← gDva [rWrite] m v
    pure (a, z.v.toNat, b)

def execXput (g : Guard) (d : SOp) (m : GMem) (s : State) : Result :=
  .next (s.issue g (formGst d m) (fxXput d m (s.core s.cur.core)) fun s r =>
    (s.guardTouch s.cur.core s.cur.pos r.2.1 (gLen m)).startOp (formGst d m).use .store r.1 (gLen m) r.2.2)

/-! GPREF (R291) -/

/-- The DVA to prefetch; none when a segment check drops it. A poisoned A raises POISON (R288). -/
def fxGpref (m : GMem) (v : View) : Except TrapInfo (Option Nat) := do
  needClean (v.s v.a m.a).p false false
  match gDva [rRead] m v with
  | .ok a => pure (some a)
  | .error _ => pure none

def formG (m : GMem) : Form := { use := { a := chS m.a } }

def execGpref (g : Guard) (m : GMem) (s : State) : Result :=
  .next (s.issue g (formG m) (fxGpref m) fun s r =>
    if r.isSome && !s.inRegion && !s.entryFree (dieOf s.cur.core) (stopOfCluster s.curCluster) vcREQ then
      s.park s.cur.core s.cur.pos .waitMem .flit
    else
    let s := s.takeSrcs (formG m).use
    match r with
    | none => s.retire []
    | some a =>
      if s.inRegion then s.retire []
      else
        ((splitPages a (gLen m)).foldl (fun s q => s.prefetch s.cur.core s.cur.pos q.dva q.len) s).retire [])

/-! Value atomics and reductions (R292 to R295) -/

def formAtom (d : SOp) (m : GMem) (b : SOp) (cas : Bool) : Form :=
  { use := { a := chS m.a, b := chS b, d := if cas then chS d else none, dst := chS d } }

/-- A value atomic: its word's DVA, the operand, and the value that ACAS expects. -/
def fxAtom (d : SOp) (m : GMem) (b : SOp) (cas : Bool) (v : View) :
    Except TrapInfo (Nat × List PByte × Word) := do
  let y := v.s v.b b
  let z : PWord := if cas then v.s v.d d else ⟨0, false⟩
  let a ← gAddr [rAtomic] m y.p z.p v
  let a ← alignTo (gLen m) a
  pure (a, bytesOfScalar (gLen m) y, z.v)

/-- Issue a value atomic. -/
def State.atomic (s : State) (g : Guard) (op : AOp) (sc : Scope) (d : SOp) (m : GMem) (b : SOp) : State :=
  let cas := op = .cas
  let f := formAtom d m b cas
  s.issue g f (fxAtom d m b cas) fun s r => s.startOp f.use (.atom op sc d r.2.2) r.1 (gLen m) r.2.1

def execAadd (g : Guard) (sc : Scope) (d : SOp) (m : GMem) (b : SOp) (s : State) : Result :=
  .next (s.atomic g .add sc d m b)

def execAand (g : Guard) (sc : Scope) (d : SOp) (m : GMem) (b : SOp) (s : State) : Result :=
  .next (s.atomic g .and sc d m b)

def execAor (g : Guard) (sc : Scope) (d : SOp) (m : GMem) (b : SOp) (s : State) : Result :=
  .next (s.atomic g .or sc d m b)

def execAxor (g : Guard) (sc : Scope) (d : SOp) (m : GMem) (b : SOp) (s : State) : Result :=
  .next (s.atomic g .xor sc d m b)

def execAmin (g : Guard) (sc : Scope) (d : SOp) (m : GMem) (b : SOp) (s : State) : Result :=
  .next (s.atomic g .min sc d m b)

def execAmax (g : Guard) (sc : Scope) (d : SOp) (m : GMem) (b : SOp) (s : State) : Result :=
  .next (s.atomic g .max sc d m b)

def execAminu (g : Guard) (sc : Scope) (d : SOp) (m : GMem) (b : SOp) (s : State) : Result :=
  .next (s.atomic g .minu sc d m b)

def execAmaxu (g : Guard) (sc : Scope) (d : SOp) (m : GMem) (b : SOp) (s : State) : Result :=
  .next (s.atomic g .maxu sc d m b)

def execAswap (g : Guard) (sc : Scope) (d : SOp) (m : GMem) (b : SOp) (s : State) : Result :=
  .next (s.atomic g .swap sc d m b)

def execAcas (g : Guard) (sc : Scope) (d : SOp) (m : GMem) (b : SOp) (s : State) : Result :=
  .next (s.atomic g .cas sc d m b)

def execAfadd (g : Guard) (sc : Scope) (d : SOp) (m : GMem) (b : SOp) (s : State) : Result :=
  .next (s.atomic g .fadd sc d m b)

def execAfmin (g : Guard) (sc : Scope) (d : SOp) (m : GMem) (b : SOp) (s : State) : Result :=
  .next (s.atomic g .fmin sc d m b)

def execAfmax (g : Guard) (sc : Scope) (d : SOp) (m : GMem) (b : SOp) (s : State) : Result :=
  .next (s.atomic g .fmax sc d m b)

/-- A reduction: its word's DVA and the delta. -/
def fxGred (d : SOp) (m : GMem) (v : View) : Except TrapInfo (Nat × List PByte) := do
  let z := v.s v.d d
  let a ← gAddr [rAtomic] m false z.p v
  let a ← alignTo (gLen m) a
  pure (a, bytesOfScalar (gLen m) z)

/-- Issue a reduction. -/
def State.reduce (s : State) (g : Guard) (op : AOp) (sc : Scope) (d : SOp) (m : GMem) : State :=
  s.access g (formGst d m) (.red op sc) (gLen m) (fxGred d m)

def execRadd (g : Guard) (sc : Scope) (d : SOp) (m : GMem) (s : State) : Result :=
  .next (s.reduce g .add sc d m)

def execRand (g : Guard) (sc : Scope) (d : SOp) (m : GMem) (s : State) : Result :=
  .next (s.reduce g .and sc d m)

def execRor (g : Guard) (sc : Scope) (d : SOp) (m : GMem) (s : State) : Result :=
  .next (s.reduce g .or sc d m)

def execRxor (g : Guard) (sc : Scope) (d : SOp) (m : GMem) (s : State) : Result :=
  .next (s.reduce g .xor sc d m)

def execRmin (g : Guard) (sc : Scope) (d : SOp) (m : GMem) (s : State) : Result :=
  .next (s.reduce g .min sc d m)

def execRmax (g : Guard) (sc : Scope) (d : SOp) (m : GMem) (s : State) : Result :=
  .next (s.reduce g .max sc d m)

def execRminu (g : Guard) (sc : Scope) (d : SOp) (m : GMem) (s : State) : Result :=
  .next (s.reduce g .minu sc d m)

def execRmaxu (g : Guard) (sc : Scope) (d : SOp) (m : GMem) (s : State) : Result :=
  .next (s.reduce g .maxu sc d m)

def execRfadd (g : Guard) (sc : Scope) (d : SOp) (m : GMem) (s : State) : Result :=
  .next (s.reduce g .fadd sc d m)

/-! MWAIT (R296) -/

def formMwait (d : POp) (m : GMem) (b : SOp) : Form :=
  { use := { a := chS m.a, b := chS b, dst := chP d }, tracked := false }

def fxMwait (m : GMem) (b : SOp) (v : View) : Except TrapInfo (Nat × List PByte) := do
  let y := v.s v.b b
  let a ← gAddr [rRead, rAtomic] m y.p false v
  let a ← alignTo 8 a
  pure (a, bytesOfScalar 8 y)

def execMwait (g : Guard) (d : POp) (m : GMem) (b : SOp) (s : State) : Result :=
  .next (s.access g (formMwait d m b) (.mwait d) (gLen m) (fxMwait m b))

end Sys2Proof.Machine
end

