-- ==== Sys2Proof/Machine/OrderFam.lean ====
section
/-! DEFINITION. The ORDER and LOFT groups (R297 to R307). -/

namespace Sys2Proof.Machine

/-! FENCE, ACQ, REL (R298) -/

/-- The issuing party has entries of its own in the side log. -/
def State.curEntries (s : State) : Bool := s.hasEntries s.cur.core s.cur.pos

/-- Wait for the party's own side-log entries (R125). -/
def State.parkLog (s : State) : State := s.park s.cur.core s.cur.pos .waitMem .sidelog

/-- Wait for regions or the host to let go of bytes that must be written through (R361, R130). -/
def State.parkRegion (s : State) : State := s.park s.cur.core s.cur.pos .waitMem .region

/-- An ordering instruction of layout Z: nothing is checked, then it acts. -/
def State.orderZ (s : State) (g : Guard) (act : State → State) : State :=
  s.issue g {} (fun _ => .ok ()) fun s _ => act s

/-- FENCE waits for the side log at every scope, then acts (R121). -/
def State.fenceNow (s : State) (sc : Scope) : State :=
  let c := s.cur.core
  let p := s.cur.pos
  if s.curEntries then s.parkLog
  else if scopeActs sc && s.fenceBlocked c p sc then s.parkRegion
  else
    match (s.fenceActs c p sc).short.join with
    | some k => s.takeTrap (tOver k)
    | none => (s.fenceActs c p sc).actAndWait {}

def execFence (g : Guard) (sc : Scope) (s : State) : Result := .next (s.orderZ g fun s => s.fenceNow sc)

/-- ACQ does not wait for the side log. -/
def execAcq (g : Guard) (sc : Scope) (s : State) : Result :=
  .next (s.orderZ g fun s => (s.acquire s.cur.core sc).actAndWait {})

/-- REL (R118, R120). -/
def State.relNow (s : State) (sc : Scope) : State :=
  let c := s.cur.core
  let p := s.cur.pos
  if s.curEntries then s.parkLog
  else if scopeActs sc && s.relBlocked c p sc then s.parkRegion
  else
    match s.relOver c p sc with
    | some k => s.takeTrap (tOver k)
    | none => (s.release c p sc).actAndWait {}

def execRel (g : Guard) (sc : Scope) (s : State) : Result := .next (s.orderZ g fun s => s.relNow sc)

/-- RELL (R120, R299). -/
def fxRell (m : GMem) (v : View) : Except TrapInfo (Nat × List PByte) := do
  let a ← gAddr [rRead] m false false v
  let a ← alignTo 8 a
  pure (a, [])

def execRell (g : Guard) (sc : Scope) (m : GMem) (s : State) : Result :=
  .next (s.access g (formG m) (.rell sc) (gLen m) (fxRell m))

/-! FLUSHP (R126, R300) -/

/-- Send a probe along every ordered channel and route that the cluster has used, and forget the routes. -/
def State.flushNow (s : State) : State :=
  let c := s.cur.core
  let p := s.cur.pos
  let cl := clusterOf c
  let s := s.startPlain {} .flushp
  match s.opOf c p with
  | none => s
  | some o =>
    let rs := (s.cluster cl).routes
    if rs.isEmpty then s.ackLocal c p 0
    else
      let vd := s.vdOf c p
      let g := s.gtiOf c p
      let s := rs.foldl (fun s r =>
        [vcREQ, vcMSG, vcSYS].foldl (fun s vc => s.sendFrom cl r.1 r.2 vc vd g (.probe c p o.id)) s) s
      (s.setCluster cl { s.cluster cl with routes := [] }).expect c p (3 * rs.length)

def execFlushp (g : Guard) (_sc : Scope) (s : State) : Result := .next (s.orderZ g State.flushNow)

/-! Cache control (R301, R302) -/

def execCwb (g : Guard) (_sc : Scope) (m : GMem) (s : State) : Result :=
  .next (s.access g (formG m) .cwb (gLen m) (fxLoad m))

def execCinv (g : Guard) (_sc : Scope) (m : GMem) (s : State) : Result :=
  .next (s.access g (formG m) .cinv (gLen m) (fxLoad m))

def formCpin (d : POp) (m : GMem) : Form := { use := { a := chS m.a, dst := chP d } }

def execCpin (g : Guard) (_sc : Scope) (d : POp) (m : GMem) (s : State) : Result :=
  .next (s.access g (formCpin d m) (.cpin d) (gLen m) (fxLoad m))

def execCunpin (g : Guard) (_sc : Scope) (m : GMem) (s : State) : Result :=
  .next (s.access g (formG m) .cunpin (gLen m) (fxLoad m))

/-! The LOFT group (R303 to R306) -/

/-- The address of a loft form that needs the write right. -/
def fxLoft (m : GMem) (v : View) : Except TrapInfo (Nat × List PByte) := do
  let a ← gAddr [rWrite] m false false v
  pure (a, [])

def execLdisc (g : Guard) (d : SOp) (m : GMem) (s : State) : Result :=
  .next (s.access g (formGld d m) (.ldisc d) (gLen m) (fxLoft m))

def execLback (g : Guard) (m : GMem) (s : State) : Result :=
  .next (s.access g (formG m) .lback (gLen m) (fxLoft m))

def execLstat (g : Guard) (d : SOp) (m : GMem) (s : State) : Result :=
  .next (s.access g (formGld d m) (.lstat d) (gLen m) (fxLoad m))

end Sys2Proof.Machine
end

