-- ==== Sys2Proof/Machine/MsgFam.lean ====
section
/-! DEFINITION. The MSG and BAR groups and the events of their barriers (R328 to R337). -/

namespace Sys2Proof.Machine

/-! Messages (R330, R333) -/

/-- A destination core: bits [15:0] (R328). -/
def destCore (x : Word) : Nat := (x.extractLsb' 0 16).toNat

/-- Send a message of the issuing party to a core. -/
def State.sendMsg (s : State) (core : Nat) (m : Msg) : State :=
  let c := s.cur.core
  let p := s.cur.pos
  s.sendFrom (clusterOf c) (dieOf core) (stopOfCluster (clusterOf core)) vcMSG (s.vdOf c p) (s.gtiOf c p) m

def formAmsg (d a b : SOp) : Form := { use := { a := chS a, b := chS b, d := chS d }, tracked := false }

/-- AMSG: the destination and the two payload words (R330). -/
def fxAmsg (d a b : SOp) (v : View) : Except TrapInfo (Nat × Word × Word) := do
  let x := v.s v.a a
  let y := v.s v.b b
  let z := v.s v.d d
  needClean x.p y.p z.p
  pure (destCore z.v, x.v, y.v)

def execAmsg (g : Guard) (d a b : SOp) (hidx : BitVec 8) (s : State) : Result :=
  .next (s.issue g (formAmsg d a b) (fxAmsg d a b) fun s r =>
    if !s.entryFree (dieOf s.cur.core) (stopOfCluster s.curCluster) vcMSG then
      s.park s.cur.core s.cur.pos .waitMem .flit
    else
    let s := s.takeSrcs (formAmsg d a b).use
    let loc := BitVec.ofNat 64 (locWord s.cur.core s.cur.pos)
    (s.sendMsg r.1 (.amsg r.1 hidx.toNat r.2.1 r.2.2 loc s.curCtx.img)).retire [])

/-- Send a remote access and wait for its reply (R333). -/
def State.remote (s : State) (u : Use) (k : RemoteKind) (d : Option SOp) (core a : Nat) (data : Word) : State :=
  let c := s.cur.core
  let p := s.cur.pos
  let s := s.startPlain u (.remote d)
  match s.opOf c p with
  | none => s
  | some o => (s.sendMsg core (.remote k core a data c p o.id s.curCtx.img)).expect c p 1

/-- The address of RLD and RST (R333). -/
def fxRemote (a b : SOp) (d : Option SOp) (disp : BitVec 15) (v : View) :
    Except TrapInfo (Nat × Nat × Word) := do
  let x := v.s v.a a
  let y := v.s v.b b
  let z : PWord := match d with | some d => v.s v.d d | none => ⟨0, false⟩
  needClean x.p y.p z.p
  let k := x.v.toNat + disp.toNat
  lsCheck k 8
  pure (destCore y.v, k, z.v)

def formRld (d a b : SOp) : Form := { use := { a := chS a, b := chS b, dst := chS d } }

def execRld (g : Guard) (d a b : SOp) (disp : BitVec 15) (s : State) : Result :=
  .next (s.issue g (formRld d a b) (fxRemote a b none disp) fun s r =>
    s.remote (formRld d a b).use .rld (some d) r.1 r.2.1 0)

def formRst (d a b : SOp) : Form := { use := { a := chS a, b := chS b, d := chS d } }

def execRst (g : Guard) (d a b : SOp) (disp : BitVec 15) (s : State) : Result :=
  .next (s.issue g (formRst d a b) (fxRemote a b (some d) disp) fun s r =>
    s.remote (formRst d a b).use .rst none r.1 r.2.1 r.2.2)

/-- RSTN: the nibble address (R333). -/
def fxRstn (d a b : SOp) (disp : BitVec 15) (v : View) : Except TrapInfo (Nat × Nat × Word) := do
  let x := v.s v.a a
  let y := v.s v.b b
  let z := v.s v.d d
  needClean x.p y.p z.p
  let k := x.v.toNat + disp.toNat
  lsCheck (k / 2) 1
  pure (destCore y.v, k, z.v)

def execRstn (g : Guard) (d a b : SOp) (disp : BitVec 15) (s : State) : Result :=
  .next (s.issue g (formRst d a b) (fxRstn d a b disp) fun s r =>
    s.remote (formRst d a b).use .rstn none r.1 r.2.1 r.2.2)

/-- The running entry of the issuing porter is a message handler. -/
def State.inMessage (s : State) : Bool :=
  match (s.porter s.cur.core).cur with
  | some e => e.kind = .message
  | none => false

/-- HRET ends a message handler; in any other entry it raises ILLEGAL (R332). -/
def execHret (g : Guard) (s : State) : Result :=
  let ok := s.inMessage
  .next (s.issue g { level := 1 } (fun _ => if ok then .ok () else .error tIllegal) fun s _ =>
    s.endEntry s.cur.core)

/-! Ports (R329) -/

/-- What CHPOLL reports of a port. -/
def State.portWord (s : State) (c p : Nat) : Nat :=
  if (neighbour c p).isNone then 2 ^ (8 * p + 7)
  else (mapGet [] (s.core c).chans p).length * 2 ^ (8 * p) + s.chRoom c p * 2 ^ (32 + 8 * p)

def State.chState (s : State) : Word :=
  BitVec.ofNat 64 (((List.range 4).map (s.portWord s.cur.core)).sum)

def execChpoll (g : Guard) (d : SOp) (s : State) : Result :=
  let x := s.chState
  .next (s.plain g { use := { dst := chS d }, strandOnly := true } fun _ => putS d x false 4)

def formChlim (b : SImm) : Form := { use := { b := chI b }, strandOnly := true }

def fxChlim (b : SImm) (v : View) : Except TrapInfo (BitVec 32) :=
  let y := v.i v.b b
  if y.p then .error (tPoison 2) else .ok (y.v.extractLsb' 0 32)

def execChlim (g : Guard) (b : SImm) (s : State) : Result :=
  .next (s.issue g (formChlim b) (fxChlim b) fun s r =>
    let s := s.takeSrcs (formChlim b).use
    let x := s.strand s.cur.core s.cur.pos
    (s.setStrand s.cur.core s.cur.pos { x with limit := r }).retire [])

/-! Crew barriers (R335, R337) -/

/-- Issue a form of the BAR group. -/
def State.barForm (s : State) (g : Guard) (act : State → Nat → Nat → State) : State :=
  s.issue g { strandOnly := true, reports := true, tracked := false } (fun _ => .ok ())
    fun s _ => act s s.cur.core s.cur.pos

/-- The wait half of BARC, and BARW: P = g completes it. -/
def State.barWait (s : State) (c p : Nat) (kept : Bool) : State :=
  let x := s.strand c p
  match s.unitOf c p with
  | none => s.retireOf c p []
  | some (_, u) =>
    if u.phase = x.gen then
      ((s.setStrand c p { x with arrived := false }).acquire c .cl).retireOf c p []
    else (s.setStrand c p { x with arrived := kept }).park c p .waitMsg .barrier

/-- The arrival of a member: the phase it completes is done at once (R335). -/
def State.arriveAt (s : State) (c p i : Nat) (u : BarUnit) : State :=
  let x := s.strand c p
  (s.setStrand c p { x with gen := !x.gen }).setUnit (clusterOf c) i { u with count := u.count + 1 }.settle

/-- BARA and the first half of BARC: the side log, the release at .cl, the arrival; `after` goes on. -/
def State.barArrive (s : State) (c p : Nat) (after : State → State) : State :=
  if s.hasEntries c p then s.park c p .waitMem .sidelog
  else
    let s := s.release c p .cl
    match s.unitOf c p with
    | none => s.retireOf c p []
    | some (i, u) =>
      if (s.strand c p).gen ≠ u.phase then s.takeTrap tOverrun
      else after (s.arriveAt c p i u)

def execBarc (g : Guard) (s : State) : Result :=
  .next (s.barForm g fun s c p =>
    if (s.strand c p).arrived then s.barWait c p true
    else s.barArrive c p fun s => s.barWait c p true)

def execBara (g : Guard) (s : State) : Result :=
  .next (s.barForm g fun s c p => s.barArrive c p fun s => s.retireOf c p [])

/-- BARW; for a party alone it waits for the side log as every form of the group (R337). -/
def execBarw (g : Guard) (s : State) : Result :=
  .next (s.barForm g fun s c p =>
    if (s.unitOf c p).isNone && s.hasEntries c p then s.park c p .waitMem .sidelog
    else s.barWait c p false)

/-! Band barriers (R336) -/

/-- The crews of the band of a strand. -/
def State.bandSize (s : State) (c p : Nat) : Nat :=
  match (s.strand c p).member with
  | .crew l b _ _ =>
    match (s.die (dieOf c)).bands.find? fun e => e.2.launch = l && e.2.band = b with
    | some e => e.2.clusters.length
    | none => 1
  | _ => 1

/-- Send a crew's arrival to the die scheduler. -/
def State.sendBand (s : State) (c p : Nat) : State :=
  match (s.strand c p).member with
  | .crew l b _ _ =>
    s.sendFrom (clusterOf c) (dieOf c) stopSched vcSYS (s.vdOf c p) (s.gtiOf c p) (.bandArrive l b (clusterOf c))
  | _ => s

/-- BARB has its completion. -/
def State.bandDone (s : State) (c p : Nat) : State :=
  let x := s.strand c p
  ((s.setStrand c p { x with bandArrived := false }).acquire c .die).retireOf c p []

/-- The wait of BARB: the unit's band phase has left the one at which the strand arrived; a strand without a
unit keeps the completion itself. -/
def State.bandWait (s : State) (c p : Nat) : State :=
  let x := s.strand c p
  let done : Bool := match s.unitOf c p with
    | some (_, u) => u.bandPhase ≠ x.bandPhase
    | none => x.bandPhase
  if done then s.bandDone c p else s.park c p .waitMsg .band

/-- The crew's phase at the band is full: it completes at once in a band of one crew, else its arrival goes to
the die scheduler. -/
def State.bandFlow (s : State) (c p i : Nat) : State :=
  let cl := clusterOf c
  let u := mapGet BarUnit.init (s.cluster cl).bars i
  if u.bandFull then
    if s.bandSize c p < 2 then s.setUnit cl i { u with bandPhase := !u.bandPhase, bandCount := 0 }
    else (s.setUnit cl i { u with bandCount := 0 }).sendBand c p
  else s

/-- BARB's arrival (R336, R337). -/
def State.bandArrive (s : State) (c p : Nat) : State :=
  if s.hasEntries c p then s.park c p .waitMem .sidelog
  else if s.relBlocked c p .die then s.park c p .waitMem .region
  else
    match s.relOver c p .die with
    | some k => s.takeTrapOf c p (tOver k)
    | none =>
    let s := s.release c p .die
    let x := s.strand c p
    match s.unitOf c p with
    | some (i, u) =>
      let s := s.setStrand c p { x with bandArrived := true, bandPhase := u.bandPhase }
      ((s.setUnit (clusterOf c) i { u with bandCount := u.bandCount + 1 }).bandFlow c p i).bandWait c p
    | none =>
      if s.bandSize c p < 2 then s.bandDone c p
      else
        let s := s.setStrand c p { x with bandArrived := true, bandPhase := false }
        (s.sendBand c p).bandWait c p

def execBarb (g : Guard) (s : State) : Result :=
  .next (s.barForm g fun s c p => if (s.strand c p).bandArrived then s.bandWait c p else s.bandArrive c p)

/-! The events -/

/-- The members of a unit. -/
def State.unitMembers (s : State) (cl : Nat) (u : BarUnit) : List (Nat × Nat) :=
  (coresOf cl).flatMap fun c => ((List.range 6).filter fun p =>
    match (s.strand c p).member with
    | .crew l b _ _ => l = u.launch && b = u.band
    | _ => false).map fun p => (c, p)

/-- Let a waiting member go on when its wait is over. -/
def State.barGo (s : State) (c p : Nat) (u : BarUnit) : State :=
  let x := s.strand c p
  if x.wait = .barrier && u.phase = x.gen then (s.barWait c p false).unpark c p
  else if x.wait = .band && u.bandPhase ≠ x.bandPhase then (s.bandDone c p).unpark c p
  else s

/-- A member of a unit can go on. -/
def State.barReady (s : State) (q : Nat × Nat) (u : BarUnit) : Bool :=
  let x := s.strand q.1 q.2
  (x.wait = .barrier && u.phase = x.gen) || (x.wait = .band && u.bandPhase ≠ x.bandPhase)

/-- BARRIER_COMPLETION: what remains of a crew has all arrived, or members wait for a phase that is over
(R335, R336). -/
def State.barComplete (s : State) (cl i : Nat) : Option State :=
  let u := mapGet BarUnit.init (s.cluster cl).bars i
  let l := s.unitMembers cl u
  if !u.used then none
  else if u.settle ≠ u || u.bandFull || l.any (fun q => s.barReady q u) then
    let s := s.setUnit cl i u.settle
    let s := match l with | q :: _ => s.bandFlow q.1 q.2 i | [] => s
    let u := mapGet BarUnit.init (s.cluster cl).bars i
    some (l.foldl (fun s q => s.barGo q.1 q.2 u) s)
  else none

def execBarrierCompletion (cl i : Nat) (s : State) : Result := .next ((s.barComplete cl i).getD s)

/-- Completion reaches a crew of a band (R336, R337). -/
def State.bandOver (s : State) (l b cl : Nat) : State :=
  match (s.cluster cl).bars.find? fun e => e.2.used && e.2.launch = l && e.2.band = b with
  | some e =>
    let u := { e.2 with bandPhase := !e.2.bandPhase }
    let s := s.setUnit cl e.1 u
    (s.unitMembers cl u).foldl (fun s q => s.barGo q.1 q.2 u) s
  | none =>
    (s.unitMembers cl { BarUnit.init with launch := l, band := b }).foldl (fun s q =>
      let x := s.strand q.1 q.2
      if x.wait = .band then (s.bandDone q.1 q.2).unpark q.1 q.2
      else if x.bandArrived then (s.setStrand q.1 q.2 { x with bandPhase := true }).reArea q.1 q.2
      else s) s

/-- BAND_BARRIER_ARRIVAL: a crew's arrival reaches the die scheduler; the last one completes the phase, which the
scheduler tells every cluster of the band on RSP (R39; log 111). -/
def State.bandArrival (s : State) (i : Nat) : Option State :=
  match s.flit? i with
  | none => none
  | some f =>
    match f.msg with
    | .bandArrive l b cl =>
      let s := s.drop i
      let d := s.die f.ddie
      match d.bands.find? fun e => e.2.launch = l && e.2.band = b with
      | none => some s
      | some e =>
        let t := { e.2 with arrived := setAdd e.2.arrived cl }
        if t.clusters.all (setHas t.arrived) then
          let s := s.setDie f.ddie { d with bands := mapPut d.bands e.1 { t with arrived := [] } }
          some (t.clusters.foldl (fun s k =>
            (s.sendBulk f.ddie stopSched f.ddie (stopOfCluster k) vcRSP f.vd 0 noCluster 1).bandOver l b k) s)
        else some (s.setDie f.ddie { d with bands := mapPut d.bands e.1 t })
    | _ => none

def execBandBarrierArrival (i : Nat) (s : State) : Result := .next ((s.bandArrival i).getD s)

end Sys2Proof.Machine
end

