-- ==== Sys2Proof/Machine/TaskFam.lean ====
section
/-! DEFINITION. HALT, the TASK, REGION and JOB groups (R233, R338 to R343, R350 to R354, R368, R369, R384,
R385). -/

namespace Sys2Proof.Machine

/-- A form that only strands run and that no region tracks. -/
def untracked (u : Use) : Form := { use := u, strandOnly := true, tracked := false }

/-- What every event that carries a release at .dev waits for first: the side log, then regions and the host;
then the release (R125, R128). -/
def State.afterRelease (s : State) (act : State → State) : State :=
  let c := s.cur.core
  let p := s.cur.pos
  if s.curEntries then s.parkLog
  else if s.relBlocked c p .dev then s.parkRegion
  else
    match s.relOver c p .dev with
    | some k => s.takeTrap (tOver k)
    | none => act (s.release c p .dev)

/-- What FRB waits for and does first: as before every release at .dev, but it writes through what the strand holds
dirty on unordered pages too, since the loads of its region read at their homes and never give it less than its own
last write (R115, R127, R351; log 125). -/
def State.beforeRegion (s : State) (act : State → State) : State :=
  let c := s.cur.core
  let p := s.cur.pos
  let t := s.releaseAll c p
  if s.curEntries then s.parkLog
  else if s.releaseHeld c p || t.short = some none then s.parkRegion
  else
    match t.short.join with
    | some k => s.takeTrap (tOver k)
    | none => act t

/-! SPAWN (R339) -/

def formSpawn (d : POp) (a : VOp) (b : SOp) : Form :=
  untracked { a := chV a, b := chS b, dst := chP d, vecs := vecV a }

/-- The four doublewords of the record, and the destination core. -/
def fxSpawn (a : VOp) (b : SOp) (v : View) : Except TrapInfo (List Word × Nat) := do
  let x := v.v v.a a
  let y := v.s v.b b
  needClean ((x.p.extractLsb' 0 4) ≠ 0) y.p false
  pure ((vToWords x.x).take 4, destCore y.v)

/-- Send the record with the identity of the context that it names, and wait for the answer: every check is passed,
and the sources are taken (R325). -/
def State.spawnNow (s : State) (u : Use) (d : POp) (l : List Word) (core : Nat) : State :=
  let c := s.cur.core
  let p := s.cur.pos
  let t := ((word l 0).extractLsb' 56 4)
  let x := s.ctx (clusterOf c) t.toNat
  let img := if x.loaded && x.img.vd = s.curVd then some x.img else none
  let s := (s.takeSrcs u).startPlain {} (.spawn d)
  match s.opOf c p with
  | none => s
  | some o =>
    (s.sendMsg core (.spawn core (taskOf l t 0 (s.gtiOf c p) 0) c p o.id img)).expect c p 1

def execSpawn (g : Guard) (d : POp) (a : VOp) (b : SOp) (s : State) : Result :=
  .next (s.issue g (formSpawn d a b) (fxSpawn a b) fun s r =>
    s.afterRelease fun s => s.spawnNow (formSpawn d a b).use d r.1 r.2)

/-! JOIN and LAUNCH (R340, R343) -/

def formJoin (d : POp) (m : GMem) : Form := untracked { a := chS m.a, dst := chP d }

def fxJoin (m : GMem) (v : View) : Except TrapInfo Nat := do
  let a ← gAddr [rAtomic] m false false v
  alignTo 8 a

def execJoin (g : Guard) (d : POp) (m : GMem) (s : State) : Result :=
  .next (s.issue g (formJoin d m) (fxJoin m) fun s a =>
    s.afterRelease fun s => s.startOp (formJoin d m).use (.join (some d)) a (gLen m) [])

def formCard (d : SOp) (m : GMem) : Form := untracked { a := chS m.a, dst := chS d }

def execLaunch (g : Guard) (d : SOp) (m : GMem) (s : State) : Result :=
  .next (s.access g (formCard d m) (.launch d) (gLen m) (fxLoad m))

/-! TEXIT and HALT (R341, R233, R65) -/

/-- The strand owns a repeater sequence that has not retired. -/
def State.repBusy (s : State) (c p : Nat) : Bool :=
  match (s.core c).rep with
  | some r => r.owner = p
  | none => false

/-- The end of a task or of a strand: the sequence, the JOIN of a pool strand's task, the side log, the release
at .dev. `leave` says that a pool strand leaves its pool. -/
def State.finish (s : State) (leave : Bool) : State :=
  let c := s.cur.core
  let p := s.cur.pos
  let x := s.strand c p
  let crew := match x.member with | .crew _ _ _ _ => true | _ => false
  if s.inRegion then s.abortOwn c p 6
  else if s.repBusy c p then s.park c p .waitMsg .repeater
  else if !crew && x.join ≠ 0 && !x.joined then
    let a := x.join.toNat % 2 ^ 56
    if a % 8 ≠ 0 then s.takeTrap (tAlign a)
    else s.afterRelease fun s => s.startOp {} (.join none) a 8 []
  else s.afterRelease fun s => s.endStrand c p (crew || leave)

/-- A form that ends its task or strand. -/
def State.endForm (s : State) (g : Guard) (leave : Bool) : State :=
  s.issue g { strandOnly := true, reports := true } (fun _ => .ok ()) fun s _ => s.finish leave

def execTexit (g : Guard) (s : State) : Result := .next (s.endForm g false)

def execHalt (g : Guard) (s : State) : Result := .next (s.endForm g true)

/-! Regions (R350 to R354) -/

/-- FRB: the fail target, with the target checked as a branch's (R350, R230). -/
def fxFrb (open' : Bool) (off : BitVec 32) (v : View) : Except TrapInfo Pc :=
  if open' then .error tIllegal else relTarget v.regs.pc off

/-- The lowest free slot of a ROU. -/
def freeSlot (r : Rou) : Option Nat := (List.range 256).find? fun i => (mapGet? r.slots i).isNone

/-- The requests for a slot of a ROU that stand, in the order of their arrival: their strands still wait, or are about
to ask again (R351). -/
def State.slotQueue (s : State) (d : Nat) (me : Nat × Nat × BitVec 32) : List (Nat × Nat × BitVec 32) :=
  let l := (s.rou d).queue.filter fun q =>
    let x := s.strand q.1 q.2.1
    q = me || (x.gti = q.2.2 && (x.wait = .rouSlot || (x.st = .run && x.again.isSome)))
  if l.contains me then l else l ++ [me]

/-- Open a region in a free slot, or wait for one behind the requests that came before (R351). -/
def State.openRegion (s : State) (d : SOp) (fail : Pc) : State :=
  let c := s.cur.core
  let p := s.cur.pos
  let x := s.strand c p
  let r := s.rou (dieOf c)
  let me := (c, p, x.gti)
  let l := s.slotQueue (dieOf c) me
  match (if l.idxOf me < 256 - r.slots.length then freeSlot r else none) with
  | none => (s.setRou (dieOf c) { r with queue := l }).park c p .waitMem .rouSlot
  | some i =>
    let k : RegSlot := ⟨c, p, r.counter, fail, d, x.regs, 0, false, false⟩
    let s := s.setRou (dieOf c) { r with slots := mapPut r.slots i k, counter := r.counter + 1, queue := l.erase me }
    (s.setStrand c p { x with region := some i }).retire []

def execFrb (g : Guard) (d : SOp) (off : BitVec 32) (s : State) : Result :=
  let o := s.inRegion
  .next (s.issue g { strandOnly := true } (fxFrb o off) fun s t =>
    s.beforeRegion fun s => s.openRegion d t)

/-- FRE and FRA outside a region raise ILLEGAL (R352, R353). -/
def fxInside (inside : Bool) (_v : View) : Except TrapInfo Unit := if inside then .ok () else .error tIllegal

/-- FRE: the ROU may commit the region, and the strand waits (R352). -/
def State.freNow (s : State) : State :=
  let c := s.cur.core
  let p := s.cur.pos
  match (s.strand c p).region with
  | none => s
  | some i =>
    let r := s.rou (dieOf c)
    let s := match mapGet? r.slots i with
      | some k => s.setRou (dieOf c) { r with slots := mapPut r.slots i { k with fre := true } }
      | none => s
    s.park c p .waitMsg .fre

def execFre (g : Guard) (s : State) : Result :=
  let o := s.inRegion
  .next (s.issue g { strandOnly := true } (fxInside o) fun s _ => s.freNow)

def execFra (g : Guard) (s : State) : Result :=
  let o := s.inRegion
  .next (s.issue g { strandOnly := true } (fxInside o) fun s _ => s.abortOwn s.cur.core s.cur.pos 6)

/-- The state of the strand's region (R354). -/
def State.regionWord (s : State) : Word :=
  let c := s.cur.core
  let d := dieOf c
  match (s.strand c s.cur.pos).region with
  | none => 0
  | some i =>
    let r := s.rou d
    let preds := (r.e.filter fun e => e.2 = i).length
    BitVec.ofNat 64 (min 255 preds * 2 ^ 32 + min 64 (s.regChunks d i).length * 2 ^ 24 +
      slotDepth r i * 2 ^ 16 + i * 2 ^ 8 + 1)

def execFrq (g : Guard) (d : SOp) (s : State) : Result :=
  let x := s.regionWord
  .next (s.plain g { use := { dst := chS d }, strandOnly := true } fun _ => putS d x false 4)

/-- REGION_ABORT: a region's context is loaded on its cluster no longer, or its strand runs elsewhere: FORCED
(R363). The other codes arise where R357 to R362 raise them. -/
def State.regionForced (s : State) (d slot : Nat) (code : Nat) : Option State :=
  match mapGet? (s.rou d).slots slot with
  | none => none
  | some k =>
    let x := s.strand k.core k.pos
    let gone := x.region ≠ some slot || !(s.ctx (clusterOf k.core) x.tag.toNat).loaded || x.st = .idle
    if code = 8 && gone then some (s.abortRegion d slot 8 slot 256) else none

def execRegionAbort (d slot : Nat) (code : BitVec 8) (s : State) : Result :=
  .next ((s.regionForced d slot code.toNat).getD s)

/-! Jobs (R369, R384, R385) -/

/-- JOB: the card's address, aligned to 64 bytes. -/
def fxJob (m : GMem) (v : View) : Except TrapInfo (Nat × List PByte) := do
  let a ← gAddr [rRead] m false false v
  let a ← alignTo 64 a
  pure (a, [])

def execJob (g : Guard) (d : SOp) (m : GMem) (s : State) : Result :=
  .next (s.access g (formCard d m) (.job d) (gLen m) (fxJob m))

def formHandle (d a : SOp) : Form := untracked { a := chS a, dst := chS d }

def fxHandle (a : SOp) (v : View) : Except TrapInfo Word :=
  let x := v.s v.a a
  if x.p then .error (tPoison 1) else .ok x.v

/-- The slot of the issuing strand's handle. -/
def State.slotOfHandle (s : State) (h : Word) : Option Nat := s.jobOfHandle s.curCluster s.curVd h

/-- Retire with a value in D. -/
def State.retireS (s : State) (u : Use) (d : SOp) (x : Word) : State :=
  match putS d x false 4 with
  | .ok l => (s.takeSrcs u).retire l
  | .error t => s.takeTrap t

/-- JWAIT (R384): it waits, restarts a stopped job whose error has been delivered, or gives the value, with
JOB_FAULT for an error that has not been delivered. -/
def State.jwaitNow (s : State) (u : Use) (d : SOp) (h : Word) : State :=
  let c := s.cur.core
  let p := s.cur.pos
  let cl := clusterOf c
  match s.slotOfHandle h with
  | none => s.retireS u d staleValue
  | some i =>
    let j := s.job cl i
    if j.st = .waiting || j.st = .running then s.park c p .waitMsg .jwait
    else if j.st = .stopped && j.delivered then
      (s.setJob cl i { j with st := .running }).park c p .waitMsg .jwait
    else
      let s := if j.finishedSt then s.acquire c .dev else s
      let silent := j.status = 1 || j.status = 0x8001 || j.status = 0x8006
      if silent || j.delivered then s.retireS u d j.value
      else
        let s := s.setJob cl i { j with delivered := true }
        let s := match putS d j.value false 4 with
          | .ok l => s.applyEffs c p l
          | .error _ => s
        s.takeTrap (tJobFault j.fault)

def execJwait (g : Guard) (d a : SOp) (s : State) : Result :=
  .next (s.issue g (formHandle d a) (fxHandle a) fun s h => s.jwaitNow (formHandle d a).use d h)

/-- JPOLL never waits (R384). -/
def State.jpollNow (s : State) (u : Use) (d : SOp) (h : Word) : State :=
  match s.slotOfHandle h with
  | none => s.retireS u d staleValue
  | some i =>
    let j := s.job s.curCluster i
    let s := if j.finishedSt then s.acquire s.cur.core .dev else s
    s.retireS u d j.value

def execJpoll (g : Guard) (d a : SOp) (s : State) : Result :=
  .next (s.issue g (formHandle d a) (fxHandle a) fun s h => s.jpollNow (formHandle d a).use d h)

/-- JCANCEL (R385): an end that the engine has already reached stands. -/
def State.jcancelNow (s : State) (u : Use) (d : SOp) (h : Word) : State :=
  let cl := s.curCluster
  match s.slotOfHandle h with
  | none => s.retireS u d staleValue
  | some i =>
    let s := match (s.job cl i).ending with
      | some (st, n) => s.jobEnd cl i st n 65
      | none => s
    let s := (s.jobCancel cl i).acquire s.cur.core .dev
    s.retireS u d (s.job cl i).value

def execJcancel (g : Guard) (d a : SOp) (s : State) : Result :=
  .next (s.issue g (formHandle d a) (fxHandle a) fun s h => s.jcancelNow (formHandle d a).use d h)

end Sys2Proof.Machine
end

