-- ==== Sys2Proof/Machine/SysFam.lean ====
section
/-! DEFINITION. The SYS group (R310 to R319). -/

namespace Sys2Proof.Machine

/-! TRAP and KRET (R311) -/

/-- TRAP is complete: its party stands at the next instruction and raises SOFTWARE (R158, R311). -/
def State.trapNow (s : State) (sel : BitVec 16) : State :=
  let c := s.cur.core
  let p := s.cur.pos
  let pc := s.pc
  let s := s.goto c p (s.pc + 1)
  if p = 6 then s.takeTrap { cause := 0x10 } else s.trapStrand c p false pc sel { cause := 0x10 }

def execTrap (g : Guard) (sel : BitVec 16) (s : State) : Result :=
  .next (s.issue g {} (fun _ => .ok ()) fun s _ => s.trapNow sel)

/-- Every entry of a cluster's side log is due for replay (R167). -/
def State.replayAll (s : State) (cl : Nat) : State :=
  let k := s.cluster cl
  s.setCluster cl { k with log := k.log.map fun e => (e.1, { e.2 with sub := 0, frame := none }) }

/-- The death cause that a strand's fault record holds. -/
def Strand.deathCause (x : Strand) : Nat × Nat :=
  ((x.fault.fd0.extractLsb' 0 8).toNat, (x.fault.fd0.extractLsb' 8 8).toNat)

/-- The task that an entry serves dies; the entry ends with it (R170). -/
def State.killServed (s : State) (c p : Nat) (e : Entry) : State :=
  let (cause, sub) := (s.strand c p).deathCause
  let s := s.kill c p cause sub
  if (s.porter c).cur = some e then s.endEntry c else s

/-- KRET in an entry: what it does, or ILLEGAL (R311). -/
def State.kretNow (s : State) (sel : BitVec 16) : Option State :=
  let c := s.cur.core
  match (s.porter c).cur with
  | none => none
  | some e =>
    match e.kind with
    | .message => none
    | .trap p =>
      if sel = 0 then some ((s.returnTrap c p).endEntry c) else some (s.killServed c p e)
    | .notice _ => if sel = 0 then some ((s.replayAll (clusterOf c)).endEntry c) else none
    | .death _ _ _ | .lost _ _ | .preK | .preL => if sel = 0 then some (s.endEntry c) else none
    | .landlord _ =>
      if sel = 0 then some (s.endEntry c)
      else
        -- the interrupted keeper entry serves a strand, whose task dies
        match (s.porter c).stack with
        | b :: _ =>
          match b.kind with
          | .trap p => some ((s.endEntry c).killServed c p b)
          | _ => none
        | [] => none

def execKret (g : Guard) (sel : BitVec 16) (s : State) : Result :=
  let r := s.kretNow sel
  .next (s.issue g { level := 1 } (fun _ => match r with | some t => .ok t | none => .error tIllegal)
    fun _ t => t)

/-! SREAD and SWRITE (R312) -/

/-- The strand that a position names, when it stands TRAPPED or STOPPED. -/
def State.target (s : State) (a : Word) : Option Nat :=
  let p := (a.extractLsb' 0 3).toNat
  let x := s.strand s.cur.core p
  if p < 6 && (x.st = .trapped || x.st = .stopped) then some p else none

/-- The 64 poison bits of vector registers from `n` on. -/
def poisonWord (r : RegSet) (n : Nat) : Word :=
  BitVec.ofNat 64 (((List.range 8).map fun j => (r.vp.toList.getD (n + j) 0).toNat * 2 ^ (8 * j)).sum)

/-- The state that a scalar selector names (R312). -/
def Strand.sel (x : Strand) (n : Nat) : PWord :=
  let r := x.regs
  if n < 0x20 then r.getS (Fin.ofNat 32 n)
  else
    let w : Word :=
      if 0x30 ≤ n && n < 0x38 then (if r.getP (Fin.ofNat 8 n) then 1 else 0)
      else if 0x38 ≤ n && n < 0x40 then r.getK (Fin.ofNat 8 n)
      else if 0x40 ≤ n && n < 0x50 then
        let g := r.g[Fin.ofNat 8 ((n - 0x40) / 2)]
        if n % 2 = 0 then segLo g else segHi g
      else if n = 0x50 then r.fs
      else if n = 0x51 then r.pc.zeroExtend 64
      else if n = 0x52 then x.gti.zeroExtend 64
      else if n = 0x53 then r.sp.zeroExtend 64
      else if n = 0x54 then poisonWord r 0
      else if n = 0x55 then poisonWord r 8
      else if n = 0x60 then x.fault.fd0
      else if n = 0x61 then x.fault.fd1
      else if n = 0x62 then x.fault.fd2
      else if n = 0x63 then x.fault.fd3
      else if n = 0x64 then x.fault.sel.zeroExtend 64
      else if n = 0x70 then x.limit.zeroExtend 64
      else 0
    ⟨w, false⟩

def isVecSel (n : Nat) : Bool := 0x20 ≤ n && n < 0x30

def chXOp (vec : Bool) (d : XOp) : Option (Nat × Nat) := chX vec d

def formSread (d : XOp) (a : SOp) (sel : BitVec 16) : Form :=
  { use := { a := chS a, dst := chX (isVecSel sel.toNat) d, vecs := vecX d }, level := 1 }

/-- The target of SREAD and SWRITE: POISON for the position, then ILLEGAL. -/
def fxTarget (s : State) (a : SOp) (v : View) : Except TrapInfo Nat :=
  let x := v.s v.a a
  if x.p then .error (tPoison 1)
  else match s.target x.v with
    | some p => .ok p
    | none => .error tIllegal

/-- The target, and what D gets. -/
def fxSread (s : State) (d : XOp) (a : SOp) (sel : BitVec 16) (v : View) : Except TrapInfo (Nat × List Eff) := do
  let p ← fxTarget s a v
  let x := s.strand s.cur.core p
  match d with
  | .s i => let y := x.sel sel.toNat; pure (p, [.s i y.v y.p])
  | .v i =>
    let j := Fin.ofNat 16 sel.toNat
    pure (p, [.v i x.regs.v[j] x.regs.vp[j]])
  | .ch _ => .error tIllegal

/-- The repeater claims the vector register that a selector names of the strand at a position (R281). -/
def State.selClaimed (s : State) (p : Nat) (sel : BitVec 16) : Bool :=
  isVecSel sel.toNat && match (s.core s.cur.core).rep with
    | some q => q.owner = p && q.claim.getLsbD (Fin.ofNat 16 sel.toNat).val
    | none => false

def execSread (g : Guard) (d : XOp) (a : SOp) (sel : BitVec 16) (s : State) : Result :=
  .next (s.issue g (formSread d a sel) (fxSread s d a sel) fun s r =>
    if s.selClaimed r.1 sel then s.park s.cur.core s.cur.pos .waitMsg .claim
    else (s.takeSrcs (formSread d a sel).use).retire r.2)

/-- Replace eight poison bytes from vector register `n` on. -/
def setPoisonWord (r : RegSet) (n : Nat) (w : Word) : RegSet :=
  { r with vp := (List.range 8).foldl (fun p j => p.set (Fin.ofNat 16 (n + j)) (w.extractLsb' (8 * j) 8)) r.vp }

/-- A segment register with one half written; its reserved bits are ignored (R78). -/
def segWrite (g : Seg) (hi : Bool) (w : Word) : Seg :=
  if hi then { g with limit := w.extractLsb' 0 49, rights := w.extractLsb' 56 5 }
  else { g with base := w.extractLsb' 0 56 }

/-- Write the state that a scalar selector names. -/
def Strand.setSel (x : Strand) (n : Nat) (w : PWord) : Strand :=
  let r := x.regs
  if n < 0x20 then { x with regs := r.setS (Fin.ofNat 32 n) w }
  else if 0x30 ≤ n && n < 0x38 then { x with regs := r.setP (Fin.ofNat 8 n) (w.v.getLsbD 0) }
  else if 0x38 ≤ n && n < 0x40 then { x with regs := r.setK (Fin.ofNat 8 n) w.v }
  else if 0x40 ≤ n && n < 0x50 then
    let i := Fin.ofNat 8 ((n - 0x40) / 2)
    { x with regs := { r with g := r.g.set i (segWrite r.g[i] (n % 2 = 1) w.v) } }
  else if n = 0x50 then { x with regs := { r with fs := fsWrite r.fs w.v } }
  else if n = 0x51 then { x with regs := { r with pc := w.v.extractLsb' 0 24 }, breakDone := false }
  else if n = 0x53 then { x with regs := { r with sp := (w.v.extractLsb' 0 32) &&& ~~~1 } }
  else if n = 0x54 then { x with regs := setPoisonWord r 0 w.v }
  else if n = 0x55 then { x with regs := setPoisonWord r 8 w.v }
  else if n = 0x70 then { x with limit := w.v.extractLsb' 0 32 }
  else x

def formSwrite (d : XOp) (a : SOp) (sel : BitVec 16) : Form :=
  { use := { a := chS a, d := chX (isVecSel sel.toNat) d, vecs := vecX d }, level := 1 }

/-- The target of SWRITE and what is written: a scalar, or a vector. -/
def fxSwrite (s : State) (d : XOp) (a : SOp) (sel : BitVec 16) (v : View) :
    Except TrapInfo (Nat × PWord × PVec) := do
  let p ← fxTarget s a v
  match d with
  | .s i =>
    let x := v.regs.getS i
    if 0x20 ≤ sel.toNat && x.p then .error (tPoison 0) else pure (p, x, ⟨0, 0⟩)
  | .v i => pure (p, ⟨0, false⟩, ⟨v.regs.v[i], v.regs.vp[i]⟩)
  | .ch _ => .error tIllegal

/-- The write reaches the target; a vector register that the repeater claims is waited for (R281). -/
def State.swriteNow (s : State) (sel : BitVec 16) (r : Nat × PWord × PVec) : State :=
  let c := s.cur.core
  let x := s.strand c r.1
  if s.selClaimed r.1 sel then s.park c s.cur.pos .waitMsg .claim
  else if isVecSel sel.toNat then
    ((s.setStrand c r.1 { x with regs := x.regs.setV (Fin.ofNat 16 sel.toNat) r.2.2.x r.2.2.p }).reArea c r.1).retire []
  else ((s.setStrand c r.1 (x.setSel sel.toNat r.2.1)).reArea c r.1).retire []

def execSwrite (g : Guard) (d : XOp) (a : SOp) (sel : BitVec 16) (s : State) : Result :=
  .next (s.issue g (formSwrite d a sel) (fxSwrite s d a sel) fun s r => s.swriteNow sel r)

/-! SYSR and SYSW (R313) -/

/-- The index of a register: its range, and at K the keeper's own context and virtual device. A poisoned one raises
POISON (log 123). -/
def fxIndex (s : State) (n : Nat) (a : SOp) (v : View) : Except TrapInfo Nat :=
  let x := v.s v.a a
  if (sysRange n).isNone then .ok 0
  else if x.p then .error (tPoison 1)
  else if !sysIndexOk n x.v then .error tIllegal
  else if s.level = .k && !sysOwnIndex n s.tag s.curVd x.v then .error tPriv
  else .ok x.v.toNat

def formSysr (n : Nat) (d a : SOp) : Form :=
  { use := { a := chS a, dst := chS d }, level := sysReadLevel n, fs := decide (n = 0) }

def fxSysr (s : State) (n : Nat) (d a : SOp) (v : View) : Except TrapInfo (List Eff) := do
  let i ← fxIndex s n a v
  let w := s.sysRead s.cur.core s.curVd n i
  -- bit 1 of preempt reads at L (R313)
  putS d (if n = 0 then v.regs.fs else if n = 0x21 && s.level ≠ .l then w &&& ~~~2 else w) false 4

def execSysr (g : Guard) (d a : SOp) (sel : BitVec 16) (s : State) : Result :=
  .next (s.plain g (formSysr sel.toNat d a) (fxSysr s sel.toNat d a))

def formSysw (n : Nat) (d a : SOp) : Form :=
  { use := { a := chS a, d := chS d }, level := sysWriteLevel n, fs := decide (n = 0) }

/-- SYSW: the index and the value. A value that the register refuses raises ILLEGAL; a poisoned index or value raises
POISON before that, the model's choice where R168 lists neither (log 123). -/
def fxSysw (s : State) (n : Nat) (d a : SOp) (v : View) : Except TrapInfo (Nat × Word) := do
  let i ← fxIndex s n a v
  let x := v.s v.d d
  if x.p then .error (tPoison 0)
  else if n = 0 then pure (0, x.v)
  else match s.sysWrite s.cur.core s.curVd n i (s.level = .l) s.tag x.v with
    | some _ => pure (i, x.v)
    | none => .error tIllegal

/-- The write itself. -/
def State.syswNow (s : State) (u : Use) (n : Nat) (r : Nat × Word) : State :=
  let s := s.takeSrcs u
  if n = 0 then s.retire [.fs (fsWrite s.regs.fs r.2)]
  else
    let t := (s.sysWrite s.cur.core s.curVd n r.1 (s.level = .l) s.tag r.2).getD s
    t.retire []

def execSysw (g : Guard) (d a : SOp) (sel : BitVec 16) (s : State) : Result :=
  .next (s.issue g (formSysw sel.toNat d a) (fxSysw s sel.toNat d a) fun s r =>
    s.syswNow (formSysw sel.toNat d a).use sel.toNat r)

/-! Purges (R109, R315) -/

/-- An extent's place in a page: the space and the first address, with the page's size. -/
structure PageKey where
  sp : ASpace
  start : Nat
  size : Nat

/-- The page that a leaf maps at a DVA, for a virtual device. -/
def pageOf (l : Leaf) (vd dva : Nat) : PageKey :=
  let n := pageSize l.large
  let (sp, a) := keyOf l vd (dva / n * n)
  ⟨sp, a, n⟩

def PageKey.holds (k : PageKey) (sp : ASpace) (a n : Nat) : Bool := sp = k.sp && overlaps k.start k.size a n

/-- Clusters give up every copy of a page: D written back, A combined, C dropped, and nothing on its way is kept
(R109). -/
def State.purgeClusters (s : State) (k : PageKey) : State :=
  let s := s.clusters.foldl (fun s c =>
    ((s.cluster c.1).cache.filter fun e => k.holds e.sp e.start e.data.length).foldl
      (fun s e => s.evictC c.1 e) s) s
  s.forgetAll fun _ r => k.holds r.sp r.addr r.len

/-- A slice holds nothing of a page any more; tombstones stand for its bays (R182). -/
def State.leaveTomb (s : State) (sl : Nat) (k : PageKey) : State :=
  let x := s.slice sl
  s.setSlice sl { x with
    exts := x.exts.filter fun e => !k.holds e.sp e.start e.data.length
    fills := x.fills.filter fun f => !k.holds f.sp f.start f.len
    combines := x.combines.filter fun c => !k.holds c.sp c.addr 8
    pins := cutPins (fun _ => true) k.sp k.start k.size x.pins
    tombs := x.tombs ++ [⟨k.sp, k.start / 256, k.size / 256, s.nextId⟩] }

/-- A slice gives up a page: the bytes of frameless extents that are lost, and the state. -/
def State.purgeSlice (s : State) (sl : Nat) (k : PageKey) : Nat × State :=
  let mine := (s.slice sl).exts.filter fun e => k.holds e.sp e.start e.data.length
  let lost := ((mine.filter fun e => e.st = .l && (s.behind e.sp e.leaf e.start).isNone).map
    fun e => e.data.length).sum
  let s := mine.foldl (fun s e => if e.st = .v || e.fill then s else s.writeBack sl e) s
  (lost, s.leaveTomb sl k)

/-- The watches of a page end with 0 (R309, R315). -/
def State.endWatches (s : State) (f : Watch → Bool) : State :=
  let stop (w : Watch) : Watch := if w.fired.isNone && f w then { w with fired := some false } else w
  let l : SMap Slice := s.slices.map fun x => (x.1, { x.2 with watches := x.2.watches.map stop })
  { s with slices := l }

/-- The RELL words of a page are recalled before the page goes. -/
def State.recallPage (s : State) (k : PageKey) : State :=
  (s.slices.flatMap fun x => x.2.owners.filter fun o => k.holds o.sp o.addr 8).foldl (fun s o => s.recall o) s

/-- What is held of a loft page goes to the frame that the old leaf names, whatever its entry holds now (R315). -/
def State.bindFrame (s : State) (k : PageKey) (frame : Nat) : State :=
  let bind (l : Leaf) : Leaf := { l with frame := frame, pte := noPte }
  let cx (e : CExt) : CExt := if k.holds e.sp e.start e.data.length then { e with leaf := bind e.leaf } else e
  let hx (e : HExt) : HExt := if k.holds e.sp e.start e.data.length then { e with leaf := bind e.leaf } else e
  let co (c : Combine) : Combine := if k.holds c.sp c.addr 8 then { c with leaf := bind c.leaf } else c
  let cl : SMap Cluster := s.clusters.map fun x => (x.1, { x.2 with cache := x.2.cache.map cx })
  let sl : SMap Slice := s.slices.map fun x =>
    (x.1, { x.2 with exts := x.2.exts.map hx, combines := x.2.combines.map co })
  { s with clusters := cl, slices := sl }

/-- The bytes of a page that are dirty anywhere: at homes, or as D or A in a cluster. -/
def State.dirtyIn (s : State) (k : PageKey) : Nat :=
  let home := s.slices.flatMap fun x => (x.2.exts.filter fun e => e.st ≠ .v && !e.fill && k.holds e.sp e.start e.data.length).map
    fun e => (e.start, e.data.length)
  let near := s.clusters.flatMap fun x => (x.2.cache.filter fun e => e.st ≠ .c && k.holds e.sp e.start e.data.length).map
    fun e => (e.start, e.data.length)
  ((home ++ near).flatMap fun r => (List.range r.2).map (r.1 + ·)).dedup.length

/-- A frameless loft page goes: its bytes have no place but its homes and clusters, where they are discarded and counted
(R109). -/
def State.dropPage (s : State) (l : Leaf) (k : PageKey) : Nat × State :=
  let n := s.dirtyIn k
  let cl : SMap Cluster := s.clusters.map fun x =>
    (x.1, { x.2 with cache := x.2.cache.filter fun e => !k.holds e.sp e.start e.data.length })
  let s := ({ s with clusters := cl } : State).forgetAll fun _ r => k.holds r.sp r.addr r.len
  let s := ((List.range 96).map (96 * l.home + ·)).foldl (fun s sl => s.leaveTomb sl k) s
  (n, s.recallPage k)

/-- Purge a page, of which `l` is the leaf before the change, from every cluster and from its homes, leaving
tombstones: the bytes lost, and the state. -/
def State.purgePage (s : State) (l : Leaf) (k : PageKey) : Nat × State :=
  if l.loft && l.frame = 0 then s.dropPage l k
  else
    let s := if l.loft then s.bindFrame k l.frame else s
    let s := (s.recallPage k).purgeClusters k
    ((List.range 96).map (96 * l.home + ·)).foldl (fun r sl =>
      let (n, s) := r.2.purgeSlice sl k
      (r.1 + n, s)) (0, s)

/-- A strand that owns a word of a page owes bytes that a region or the host holds. -/
def State.recallHeld (s : State) (k : PageKey) : Bool :=
  s.slices.any fun x => x.2.owners.any fun o => k.holds o.sp o.addr 8 &&
    (s.cluster (clusterOf o.core)).cache.any fun e => owedSelects o.core o.pos e && s.owesBlocked e

/-- Some region holds records on a page (R365), or the bytes that clusters owe it cannot go home yet (R130). -/
def State.pageHeld (s : State) (k : PageKey) : Bool :=
  s.slices.any (fun x => x.2.regs.any fun r => k.holds r.sp r.addr 8) ||
  s.clusters.any (fun x => x.2.cache.any fun e => k.holds e.sp e.start e.data.length && s.owesBlocked e) ||
  s.recallHeld k

/-- A JOIN is under way to a counter of a page: its unmapping waits for it (R77). -/
def State.pageJoins (s : State) (k : PageKey) : Bool :=
  s.net.any fun f => match f.msg with | .req r => r.kind = .join && k.holds r.sp r.addr r.len | _ => false

/-- A running or waiting job of an address space has a footprint on a range of DVAs (R109). -/
def State.pageJobs (s : State) (vd asid a n : Nat) : Bool :=
  s.clusters.any fun k => k.2.jobs.any fun e =>
    (e.2.st = .waiting || e.2.st = .running) && e.2.vd = vd &&
    (s.ctx k.1 e.2.tag.toNat).img.asid = asid &&
    (footprints e.2.card).any fun x => overlaps x.1 x.2.1 a n

/-- Drop TLB entries everywhere. -/
def State.tlbDrop (s : State) (f : TlbEntry → Bool) : State :=
  let a : SMap Core := s.cores.map fun x => (x.1, { x.2 with tlb := x.2.tlb.filter fun e => !f e })
  let b : SMap Cluster := s.clusters.map fun x => (x.1, { x.2 with tlb := x.2.tlb.filter fun e => !f e })
  { s with cores := a, clusters := b }

/-- The address space of the issuing party. -/
def State.curSpace (s : State) : Nat × Nat × Nat := s.spaceOf s.curCluster s.tag (s.level = .l)

/-- The leaf that B of TLBINV holds; none when it is not valid. -/
def oldLeaf (w : Word) : Option Leaf :=
  if w.getLsbD 0 then (match leafOf 0 w (w.getLsbD 11) with | .ok l => some l | .error _ => none) else none

def formTlbinv (d a b : SOp) : Form := { use := { a := chS a, b := chS b, dst := chS d }, level := 1 }

/-- A and B of TLBINV: POISON for a poisoned one, A in every mode, is the model's choice where R168 lists neither (log
123). -/
def fxTlbinv (a b : SOp) (v : View) : Except TrapInfo (Word × Word) := do
  let x := v.s v.a a
  let y := v.s v.b b
  needClean x.p y.p false
  pure (x.v, y.v)

/-- The watches that a TLBINV ends: those of parties of the address space on the page, or on any; and those of others
on the page that B names (R315, R309). -/
def State.dyingWatch (s : State) (all : Bool) (vd asid dva : Nat) (k : Option PageKey) (w : Watch) : Bool :=
  let (v, i, _) := s.spaceOf (clusterOf w.core) (s.tagOf w.core w.pos) (s.isLandlord w.core w.pos)
  let here : Bool := match s.opOf w.core w.pos with
    | some o => o.id = w.op && o.pieces.any fun q =>
        let n := pageSize (q.leaf.any (·.large))
        q.dva / n = dva / n
    | none => false
  (v = vd && i = asid && (all || here)) || (!all && k.any fun k => k.holds w.sp w.addr 8)

/-- TLBINV (R315). -/
def State.tlbinvNow (s : State) (u : Use) (d : SOp) (mode : Nat) (a b : Word) : State :=
  let c := s.cur.core
  let p := s.cur.pos
  let (vd, asid, _) := s.curSpace
  let dva := a.toNat % 2 ^ 56
  let k := (oldLeaf b).map fun l => (l, pageOf l vd dva)
  let size := match k with | some x => x.2.size | none => 2 ^ 16
  let purge := mode = 1 && k.isSome
  if purge && s.pageJobs vd asid (dva / size * size) size then s.park c p .waitMem .jobs
  else if purge && k.any (fun x => s.pageHeld x.2 || s.pageJoins x.2) then s.park c p .waitMem .region
  else
    let t := s.tlbDrop fun e => e.vd = vd && e.asid = asid &&
      (mode = 2 || (e.page ≤ dva && dva < e.page + pageSize e.large))
    let t := t.endWatches (s.dyingWatch (mode = 2) vd asid dva (k.map (·.2)))
    let (n, t) := match purge, k with
      | true, some x => t.purgePage x.1 x.2
      | _, _ => (0, t)
    if t.short = some none then s.park c p .waitMem .region
    else t.anyway.retireS u d (BitVec.ofNat 64 n)

def execTlbinv (g : Guard) (d a b : SOp) (sel : BitVec 16) (s : State) : Result :=
  .next (s.issue g (formTlbinv d a b) (fxTlbinv a b) fun s r =>
    s.tlbinvNow (formTlbinv d a b).use d sel.toNat r.1 r.2)

/-! LRES and LMOVE (R316) -/

/-- Chunks that all virtual devices reserve in each slice of a die, but for one device. -/
def State.otherLoft (s : State) (die vd : Nat) : Nat :=
  (((s.die die).alloc.filter fun e => e.1 ≠ vd).map fun e => allotLoft e.2).sum

def formLres (d : POp) (a b : SOp) : Form := { use := { a := chS a, b := chS b, dst := chP d }, level := 1 }

/-- LRES: a device other than the keeper's own raises PRIV, one that is none of the 64 ILLEGAL. -/
def fxLres (s : State) (a b : SOp) (v : View) : Except TrapInfo (Nat × Word) := do
  let x := v.s v.a a
  let y := v.s v.b b
  needClean x.p y.p false
  if 64 ≤ x.v.toNat then .error tIllegal
  else if s.level = .k && x.v.toNat ≠ s.curVd then .error tPriv
  else pure (x.v.toNat, y.v)

/-- Set the reservation of a virtual device on a die, unless it is refused. -/
def State.reserve (s : State) (die vd n : Nat) : Bool × State :=
  if 8192 < n || 8192 < s.otherLoft die vd + n then (false, s)
  else
    let x := s.die die
    let w := (mapGet 0 x.alloc vd &&& 0xFFFF8000FFFFFFFF) ||| BitVec.ofNat 64 (n * 2 ^ 32)
    (true, s.setDie die { x with alloc := mapPut x.alloc vd w })

def execLres (g : Guard) (d : POp) (a b : SOp) (sel : BitVec 16) (s : State) : Result :=
  .next (s.issue g (formLres d a b) (fxLres s a b) fun s r =>
    let (ok, s) := s.reserve sel.toNat r.1 r.2.toNat
    (s.takeSrcs (formLres d a b).use).retire (putP d ok))

def formLmove (d a : SOp) : Form := { use := { a := chS a, dst := chS d }, level := 1 }

/-- LMOVE: the DVA in A. -/
def fxLmove (a : SOp) (v : View) : Except TrapInfo Nat := do
  let x := v.s v.a a
  needClean x.p false false
  pure (x.v.toNat % 2 ^ 56)

/-- A home of a page sends an extent to the home of its bay on another die, with its pins; the state is short when it
finds no room there. -/
def State.moveExt (s : State) (sl new : Nat) (e : HExt) : State :=
  let t := homeSlice new e.start
  let e := { e with leaf := { e.leaf with home := new }, sharers := 0, way := 16 }
  let s := s.sendBulk (sl / 96) (stopOfSlice sl) new (stopOfSlice t) vcREQ e.vd 0 noCluster (slotsFor e.data.length)
  match s.changeFramed t e.vd e.sp e.start e.data.length true (fun l => addH (s.slice t).combines l e) 32 with
  | .ok s => s
  | .error k => s.lacks k

/-- Move the home extents of a page to another die over the bridges, with their states and pins. -/
def State.moveExts (s : State) (k : PageKey) (old new : Nat) : State :=
  ((List.range 96).map (96 * old + ·)).foldl (fun s sl =>
    let x := s.slice sl
    let mine := x.exts.filter fun e => k.holds e.sp e.start e.data.length && !e.fill
    let s := (x.pins.filter fun p => k.holds p.sp p.start p.len).foldl (fun s p =>
      let t := homeSlice new p.start
      s.setSlice t { s.slice t with pins := (s.slice t).pins ++ [p] }) s
    mine.foldl (fun s e => s.moveExt sl new e) (s.leaveTomb sl k)) s

/-- LMOVE's move (R316): combine and recall first; the extents; the leaf; the translations; the copies that
clusters hold now go home to the new die. -/
def State.lmovePage (s : State) (vd dva new : Nat) (l : Leaf) : State :=
  let k := pageOf l vd dva
  let s := s.recallPage k
  let cs := s.slices.flatMap fun x => x.2.combines.filter fun c => k.holds c.sp c.addr 8
  let s := cs.foldl (fun s c => s.combineWord c) s
  let s := s.trimSharers k.sp k.start k.size
  let s := s.moveExts k l.home new
  let w : Word := ((s.physWord l.pte).v &&& ~~~(7 <<< 7 : Word)) ||| BitVec.ofNat 64 (new * 2 ^ 7)
  let s := s.physStore l.pte (natBytes 8 w.toNat)
  let s := s.tlbDrop fun e => e.leaf.pte = l.pte
  let s := s.endWatches fun w => k.holds w.sp w.addr 8
  let move (e : CExt) : CExt :=
    if k.holds e.sp e.start e.data.length then { e with leaf := { e.leaf with home := new } } else e
  let cl : SMap Cluster := s.clusters.map fun x => (x.1, { x.2 with cache := x.2.cache.map move })
  let s : State := { s with clusters := cl }
  s.forgetAll fun _ r => k.holds r.sp r.addr r.len

/-- LMOVE of a page with a leaf. -/
def State.lmoveLeaf (s : State) (u : Use) (d : SOp) (new dva : Nat) (l : Leaf) : State :=
  let c := s.cur.core
  let p := s.cur.pos
  let (vd, _, _) := s.curSpace
  let k := pageOf l vd dva
  if !l.loft then s.retireS u d 2
  else if l.home = new then s.retireS u d 3
  else if allotLoft (s.allot new vd) = 0 then s.retireS u d 1
  else if s.slices.any (fun x => x.2.regs.any fun r => k.holds r.sp r.addr 8) || s.recallHeld k ||
      s.blocked .phys (s.leafAt l.pte) l.pte 8 true then s.park c p .waitMem .region
  else
    let t := s.lmovePage vd dva new l
    match t.short with
    | none => t.retireS u d 0
    | some none => s.park c p .waitMem .region
    | some (some k) => s.takeTrap (tOver k)

/-- LMOVE: a walk finds the leaf of the page that holds A, or raises PAGE; it waits while the walkers are busy or a read
of a table must wait (R38, R82, R316). -/
def State.lmoveNow (s : State) (u : Use) (d : SOp) (new dva : Nat) : State :=
  let c := s.cur.core
  let (vd, _, root) := s.curSpace
  match (if s.walkersBusy (dieOf c) then none else s.walkReads (dieOf c) vd root dva) with
  | none => s.park c s.cur.pos .waitMem .region
  | some t =>
    match t.walk root dva with
    | .error n => t.takeTrap (tPage n dva 1 3 false)
    | .ok l => t.lmoveLeaf u d new dva l

def execLmove (g : Guard) (d a : SOp) (sel : BitVec 16) (s : State) : Result :=
  .next (s.issue g (formLmove d a) (fxLmove a) fun s dva => s.lmoveNow (formLmove d a).use d sel.toNat dva)

/-! SSTART and SSTOP (R317) -/

/-- Stop a strand as soon as R174 and R317 let it be stopped: an access that waits is done first, and a breakpoint at
its next instruction is taken first (R407). A waiting instruction that names no reply reissues when the strand runs
again. -/
def State.stopStrand (s : State) (c p : Nat) (b : StopBy) : State :=
  let x := s.strand c p
  let later := s.setStrand c p { x with stopPending := true, stopBy := b }
  let now : State :=
    let s := s.abandon c p
    let s := s.setSt c p .stopped
    s.setStrand c p { s.strand c p with
      stopPending := false, stopBy := b, left := x.st, leftWait := x.wait, wait := .none }
  match x.st with
  | .run => if x.op.isSome || later.breakFirst c p then later else now
  | .waitMsg => if x.wait = .fre then later else now
  | .waitMem | .trapped => later
  | .idle | .stopped => s

/-- Strands that carry a GTI. -/
def State.strandsOf (s : State) (g : BitVec 32) : List (Nat × Nat) :=
  s.cores.flatMap fun e => (e.2.strands.filter fun y => y.2.st ≠ .idle && y.2.gti = g).map fun y => (e.1, y.1)

def formGti (d a : SOp) : Form := { use := { a := chS a, dst := chS d }, level := 1 }

/-- The GTI in A; at K its virtual device must be the keeper's own. -/
def fxGti (s : State) (a : SOp) (v : View) : Except TrapInfo (BitVec 32) := do
  let x := v.s v.a a
  needClean x.p false false
  if s.level = .k && (x.v.extractLsb' 26 6).toNat ≠ s.curVd then .error tPriv
  else pure (x.v.extractLsb' 0 32)

/-- Each die keeps the GTI in its list. -/
def State.listStop (s : State) (g : BitVec 32) : State :=
  (List.range 8).foldl (fun s d =>
    let x := s.die d
    if x.stops.contains g then s else s.setDie d { x with stops := x.stops ++ [g] }) s

/-- SSTOP. -/
def State.sstopNow (s : State) (u : Use) (d : SOp) (g : BitVec 32) : State :=
  if (List.range 8).any fun k => 64 ≤ (s.die k).stops.length && !(s.die k).stops.contains g then
    s.retireS u d (BitVec.allOnes 64)
  else
    let s := (s.strandsOf g).foldl (fun s q => s.stopStrand q.1 q.2 .sstop) (s.listStop g)
    let n := ((s.strandsOf g).filter fun q => (s.strand q.1 q.2).st = .stopped).length
    s.retireS u d (BitVec.ofNat 64 n)

def execSstop (g : Guard) (d a : SOp) (s : State) : Result :=
  .next (s.issue g (formGti d a) (fxGti s a) fun s r => s.sstopNow (formGti d a).use d r)

/-- A strand that stood STOPPED returns to the state that it left (R317): a wait on a channel or a barrier goes on as it
was, another instruction that waited issues again, and a strand that ran runs. -/
def State.goBack (s : State) (c p : Nat) : State :=
  let x := s.strand c p
  let s := s.setStrand c p { x with stopBy := .none, left := .idle, leftWait := .none }
  if x.left = .waitMsg then
    let s := s.setSt c p .waitMsg
    let s := s.setStrand c p { s.strand c p with wait := x.leftWait }
    match x.leftWait with
    | .channel _ _ _ _ _ | .barrier | .band => s
    | _ => s.relook c p
  else s.wake c p

/-- Let a strand that SSTOP stopped go on; a pending stop of its is dropped, and one whose core has been saved since
stays stopped by that. -/
def State.startAgain (s : State) (c p : Nat) : State :=
  let x := s.strand c p
  if x.stopBy ≠ .sstop then s
  else if x.st ≠ .stopped then s.setStrand c p { x with stopBy := .none, stopPending := false }
  else if (s.core c).saved.isSome then s.setStrand c p { x with stopBy := .preempt }
  else s.goBack c p

/-- SSTART. -/
def State.sstartNow (s : State) (u : Use) (d : SOp) (g : BitVec 32) : State :=
  let listed := (List.range 8).any fun k => (s.die k).stops.contains g
  let s := (List.range 8).foldl (fun s k =>
    let x := s.die k
    s.setDie k { x with stops := x.stops.filter (· ≠ g) }) s
  let l := (s.strandsOf g).filter fun q => (s.strand q.1 q.2).stopBy = .sstop
  if !listed then s.retireS u d 0
  else
    let s := l.foldl (fun s q => s.startAgain q.1 q.2) s
    s.retireS u d (BitVec.ofNat 64 l.length)

def execSstart (g : Guard) (d a : SOp) (s : State) : Result :=
  .next (s.issue g (formGti d a) (fxGti s a) fun s r => s.sstartNow (formGti d a).use d r)

/-! Counters, markers, hints (R318, R319) -/

def ctrlWord (k : Counter) : Word :=
  BitVec.ofNat 64 (k.en.toNat * 2 ^ 15 + k.own.toNat * 2 ^ 14 + k.event.toNat)

def Counter.zero : Counter := ⟨0, false, false, 0, 0⟩

/-- Counter `sel[2:0]` of a core. -/
def counterAt (k : Core) (sel : BitVec 16) : Counter := mapGet Counter.zero k.counters (sel.toNat % 8)

def fxCtrr (k : Core) (d : SOp) (sel : BitVec 16) (_v : View) : Except TrapInfo (List Eff) :=
  let x := counterAt k sel
  putS d (if sel.getLsbD 3 then ctrlWord x else x.count) false 4

def execCtrr (g : Guard) (d : SOp) (sel : BitVec 16) (s : State) : Result :=
  .next (s.plain g (formD d) (fxCtrr (s.core s.cur.core) d sel))

def formCtrw (d : SOp) : Form := { use := { d := chS d }, level := 1 }

def fxCtrw (d : SOp) (v : View) : Except TrapInfo Word :=
  let x := v.s v.d d
  if x.p then .error (tPoison 0) else .ok x.v

/-- A counter after a write of its control: a reserved event is written as 0, and own is 1 at K. -/
def Counter.control (k : Counter) (w : Word) (keeper : Bool) (vd : Nat) : Counter :=
  let e := w.extractLsb' 0 8
  { k with
    en := w.getLsbD 15, own := keeper || w.getLsbD 14, event := if 0x0F < e.toNat then 0 else e, vd := vd }

def State.ctrwNow (s : State) (u : Use) (sel : BitVec 16) (w : Word) : State :=
  let s := s.takeSrcs u
  let c := s.cur.core
  let k := s.core c
  let x := counterAt k sel
  let y := if sel.getLsbD 3 then x.control w (s.level = .k) s.curVd else { x with count := w }
  (s.setCore c { k with counters := mapPut k.counters (sel.toNat % 8) y }).retire []

def execCtrw (g : Guard) (d : SOp) (sel : BitVec 16) (s : State) : Result :=
  .next (s.issue g (formCtrw d) (fxCtrw d) fun s w => s.ctrwNow (formCtrw d).use sel w)

/-- MARK stamps a marker (R401). -/
def execMark (g : Guard) (sel : BitVec 16) (s : State) : Result :=
  .next (s.issue g {} (fun _ => .ok ()) fun s _ => (s.stamp s.cur.core 6 s.curGti sel).retire [])

/-- HINT: a vacant cycle, an early migration, none (R319). -/
def State.hintNow (s : State) (sel : BitVec 16) : State :=
  if s.isPorter then s
  else
    let c := s.cur.core
    let p := s.cur.pos
    let x := s.strand c p
    if sel = 1 then s.setStrand c p { x with notBefore := x.notBefore + 8 }
    else if sel = 2 then s.setStrand c p { x with hint2 := true }
    else if sel = 3 then s.setStrand c p { x with hint3 := true }
    else s

def execHint (g : Guard) (sel : BitVec 16) (s : State) : Result :=
  .next (s.issue g {} (fun _ => .ok ()) fun s _ => (s.hintNow sel).retire [])

end Sys2Proof.Machine
end

