-- ==== Sys2Proof/Machine/CorrFam.lean ====
section
/-! DEFINITION. The corridors: placing flits, their rides and their ends, leg by leg (R20 to R29), the
dead-task filter at the stops (R171), and the result of a long-latency instruction (R43). -/

namespace Sys2Proof.Machine

/-! LONG_LATENCY_RESULT (R43) -/

/-- The result of a division or square root is written, and its party re-enters the rotation; words for a core that
is saved wait (R327). -/
def State.longResult (s : State) (c p : Nat) : Option State :=
  match s.waitOf c p with
  | .result l => if s.chShut c l then none else some ((s.retireOf c p l).unpark c p)
  | _ => none

def execLongLatencyResult (c p : Nat) (s : State) : Result := .next ((s.longResult c p).getD s)

/-! Loops (R20, R21) -/

/-- The lowest loop that two stops of a die share; every two share one. -/
def pairLoop (d a b : Nat) : Option Nat :=
  (List.range 192).find? fun l => loopMap d a l && loopMap d b l

/-- A flit may use a loop: its pair loop on an ordered channel, else any that its stops share. -/
def Flit.mayUse (f : Flit) (l : Nat) : Bool :=
  if vcOrdered f.vc then pairLoop f.die f.lsrc f.ldst = some l
  else loopMap f.die f.lsrc l && loopMap f.die f.ldst l

/-- The flits of a stop that hold entries, the oldest first: four entries are reserved for each channel and
eight are shared (R26). -/
def entryHolders : List Flit → (Nat → Nat) → Nat → List Flit
  | [], _, _ => []
  | f :: t, own, shared =>
    if own f.vc < 4 then f :: entryHolders t (fun v => if v = f.vc then own v + 1 else own v) shared
    else if shared < 8 then f :: entryHolders t own (shared + 1)
    else entryHolders t own shared

/-- Insert by age. -/
def ageInsert (f : Flit) : List Flit → List Flit
  | [] => [f]
  | g :: t => if f.age ≤ g.age then f :: g :: t else g :: ageInsert f t

def byAge (l : List Flit) : List Flit := l.foldr ageInsert []

def State.entriesOf (s : State) (d stop : Nat) : List Flit :=
  entryHolders (byAge (s.net.filter fun f => f.atSource d stop)) (fun _ => 0) 0

/-- A flit that the source stop of a leg sends earlier in the same flow of an ordered channel (R24). -/
def Flit.before (g f : Flit) : Bool :=
  vcOrdered f.vc && g.vc = f.vc && g.die = f.die && g.lsrc = f.lsrc && g.ldst = f.ldst && g.leg < f.leg

/-- A flit waits to be placed in an injection slot of a loop, and no earlier flit of its flow still does, whatever its
virtual device: the model's choice, since R27 and R28 set no such order between devices and R24 keeps what a stop sends
in order (log 113). -/
def State.placeable (s : State) (l : Nat) (f : Flit) : Bool :=
  f.stage = .queued && f.mayUse l &&
    !(s.net.any fun g => g.before f && g.atSource f.die f.lsrc && g.stage = .queued)

/-- A slot of a loop carries nothing. -/
def State.slotEmpty (s : State) (d l slot : Nat) : Bool :=
  !s.net.any fun f => f.die = d && (match f.stage with | .slot l' p _ _ => l' = l && p = slot | _ => false)

/-- Replace the flit with an identity. -/
def State.setFlit (s : State) (f : Flit) : State :=
  { s with net := s.net.map fun g => if g.id = f.id then f else g }

/-! INJECTION_SLOT (R27, R28) -/

def oldest (l : List Flit) : Option Flit := (byAge l).head?

def State.weightOf (s : State) (d vd : Nat) : Nat := (mapGet 0 (s.die d).weight vd).toNat % 256

/-- Channels that the deficit round robin serves, from a place in their rotation on. -/
def drrOrder (r : Nat) : List Nat := (([0, 3, 4] : List Nat).drop (r % 3)) ++ ([0, 3, 4] : List Nat).take (r % 3)

def isDrr (vc : Nat) : Bool := vc = 0 || vc = 3 || vc = 4

/-- The flits of a stop that wait to be placed, in an injection slot or by an aging turn. -/
def State.waitingAt (s : State) (d stop : Nat) : List Flit :=
  (s.entriesOf d stop).filter fun f => f.stage = .queued || f.stage = .takenBack

/-- The count of a device that has nothing left waiting is zero (R28). -/
def State.clearCounts (s : State) (d stop : Nat) : State :=
  let x := s.die d
  match mapGet? x.inj stop with
  | none => s
  | some st =>
    let l := (s.waitingAt d stop).filter fun f => isDrr f.vc
    let st := { st with deficit := st.deficit.filter fun e => l.any fun f => f.vd = e.1 }
    s.setDie d { x with inj := mapPut x.inj stop st }

/-- A new round when the present one is over: each device that waits gets its weight (R28). -/
def State.drrRound (s : State) (d : Nat) (st : Stop) (waiting : List Flit) : Stop :=
  let vds := (waiting.map (·.vd)).foldl setAdd []
  if st.round.any fun v => (waiting.any fun f => f.vd = v && f.stage = .queued) && 0 < mapGet 0 st.deficit v then st
  else
    { st with
      deficit := vds.foldl (fun m v => mapPut m v (mapGet 0 m v + (s.weightOf d v : Int))) st.deficit
      round := vds }

/-- The flit that the deficit round robin sends, and what it leaves: the first device of the round with a
positive count and a flit that may use the slot. -/
def drrPick (st : Stop) (can : List Flit) : Option (Flit × Stop) :=
  st.round.findSome? fun v =>
    if 0 < mapGet 0 st.deficit v then
      (drrOrder st.rotation).findSome? fun vc =>
        match oldest (can.filter fun f => f.vd = v && f.vc = vc) with
        | some f =>
          let r := ([0, 3, 4] : List Nat).idxOf vc + 1
          some (f, { st with deficit := mapPut st.deficit v (mapGet 0 st.deficit v - 1), rotation := r % 3 })
        | none => none
    else none

/-- The flit that takes an injection slot, and the stop's state after it. -/
def State.inject (s : State) (d : Nat) (st : Stop) (can waiting : List Flit) : Option Flit × Stop :=
  if st.slots % 16 = 15 then (oldest can, st)
  else
    match ([vcSYS, vcCOH, vcRSP] : List Nat).findSome? fun vc => oldest (can.filter (·.vc = vc)) with
    | some f => (some f, st)
    | none =>
      let st := s.drrRound d st (waiting.filter fun f => isDrr f.vc)
      match drrPick st (can.filter fun f => isDrr f.vc) with
      | some (f, st) => (some f, st)
      | none => (none, st)

/-- INJECTION_SLOT: an empty slot that a waiting flit may use passes a stop. -/
def State.injectionSlot (s : State) (d stop l slot : Nat) : Option State :=
  let waiting := s.waitingAt d stop
  let can := waiting.filter (s.placeable l)
  if slot % 16 = 0 || 64 ≤ slot || !s.slotEmpty d l slot || can.isEmpty then none
  else
    let x := s.die d
    let r := s.inject d (mapGet Stop.init x.inj stop) can waiting
    let s := s.setDie d { x with inj := mapPut x.inj stop { r.2 with slots := r.2.slots + 1 } }
    match r.1 with
    | some f => some ((s.setFlit { f with stage := .slot l slot 0 false }).clearCounts d stop)
    | none => some s

def execInjectionSlot (d stop l slot : Nat) (s : State) : Result := .next ((s.injectionSlot d stop l slot).getD s)

/-! AGING_TURN, AGING_TENURE_END (R29) -/

/-- The owner of an aging slot: at reset, of slots 0, 16, 32 and 48 of a loop of k stops, those of rank 0, k/4,
k/2 and 3k/4. -/
def State.agingOwner (s : State) (d l slot : Nat) : Nat :=
  mapGet (stopOfRank d l ((loopStops d l).length * (slot / 16) / 4)) (s.die d).aging (64 * l + slot)

/-- AGING_TURN: once in its tenure the owner fills the empty slot with its oldest flit that may use the loop (log
106). -/
def State.agingTurn (s : State) (d l slot : Nat) : Option State :=
  if slot % 16 ≠ 0 || 64 ≤ slot || !s.slotEmpty d l slot || setHas (s.die d).turned (64 * l + slot) then none
  else
    let o := s.agingOwner d l slot
    match oldest ((s.waitingAt d o).filter (·.mayUse l)) with
    | some f =>
      let s := s.setFlit { f with stage := .slot l slot 0 true }
      let x := s.die d
      some ((s.setDie d { x with turned := setAdd x.turned (64 * l + slot) }).clearCounts d o)
    | none => none

def execAgingTurn (d l slot : Nat) (s : State) : Result := .next ((s.agingTurn d l slot).getD s)

/-- AGING_TENURE_END: the next stop along the loop owns the slot, and has its turn before it. -/
def State.agingTenureEnd (s : State) (d l slot : Nat) : Option State :=
  if slot % 16 ≠ 0 || 64 ≤ slot || !s.slotEmpty d l slot then none
  else
    let k := (loopStops d l).length
    let n := stopOfRank d l ((loopRank d l (s.agingOwner d l slot) + 1) % k)
    let x := s.die d
    some (s.setDie d { x with
      aging := mapPut x.aging (64 * l + slot) n, turned := setDel x.turned (64 * l + slot) })

def execAgingTenureEnd (d l slot : Nat) (s : State) : Result := .next ((s.agingTenureEnd d l slot).getD s)

/-! The end of a leg -/

/-- Entries have come free: parties that hold a flit for which there was none look again (R26). -/
def State.entriesFreed (s : State) : State :=
  s.wakeWaits fun c w => w = .flit &&
    (s.entryFree (dieOf c) (stopOfCluster (clusterOf c)) vcREQ || s.entryFree (dieOf c) (stopOfCluster (clusterOf c)) vcMSG)

/-- The filter of a die discards MSG and JOB flits of a dead task (R171). -/
def State.filtered (s : State) (f : Flit) : Bool :=
  (f.vc = vcMSG || f.vc = 4) && f.die < 8 && ((s.die f.die).filter.any fun e => e.1 = f.gti)

/-- A filtered flit is discarded and counted. -/
def State.discardFlit (s : State) (f : Flit) : State :=
  let x := s.die f.die
  ((s.drop f.id).setDie f.die { x with discarded := x.discarded + 1 }).entriesFreed

/-- A flit is at its destination: a controller takes a request into its queue (R31), a scheduler a machine-check
record (R164); what else comes waits there for its event. -/
def State.eject (s : State) (f : Flit) : State :=
  match f.msg with
  | .fetch r =>
    let s := s.drop f.id
    let x := s.die f.ddie
    s.setDie f.ddie { x with hbm := x.hbm ++ [r] }
  | .check c =>
    let s := s.drop f.id
    let x := s.die f.ddie
    s.setDie f.ddie { x with checks := x.checks ++ [c] }
  -- bytes for another flit, or traffic that has had its effect (log 111, log 112)
  | .bulk _ => s.drop f.id
  | _ => s.setFlit { f with stage := .ejected }

/-- A flit has been taken at the end of its leg: it is at its destination, or in the injection queue of the
port by which it enters the next die; a crossing to the porch die ends there (R15). -/
def State.legDone (s : State) (f : Flit) : State :=
  (if f.die = f.ddie then s.eject f
  else
    let n := nextDie f.die f.ddie
    if n = 8 then
      match f.msg with
      | .bulk _ => s.drop f.id
      | _ => s.setFlit { f with die := 8, lsrc := 0, ldst := 0, stage := .ejected }
    else
      let (u, s) := s.fresh
      s.setFlit { f with
        die := n, lsrc := portTo n f.die, ldst := legDst n f.ddie f.dstop, stage := .queued, age := u
        leg := u }).entriesFreed

/-- The core that sent a flit (R318). -/
def Msg.core? : Msg → Option Nat
  | .req r | .host r | .span r => some r.core
  | .amsg _ _ _ _ loc _ => some (loc.toNat / 8)
  | .remote _ _ _ _ c _ _ _ | .spawn _ _ c _ _ _ | .probe c _ _ | .check c => some c
  | _ => none

/-- The same of a flit, which may carry bytes of the message of another (R20). -/
def State.flitCore (s : State) (f : Flit) : Option Nat :=
  match f.msg with
  | .bulk (some i) => (s.net.find? fun g => g.id = i).bind (·.msg.core?)
  | m => m.core?

/-- A flit has landed (R22, R318). -/
def State.landed (s : State) (f : Flit) (u : Nat) : State :=
  let s := (s.setFlit { f with stage := .landed, age := u }).entriesFreed
  match s.flitCore f with
  | some c => s.bump c 0x0D f.vd 1
  | none => s

/-- An earlier flit of the flow has been refused and is neither ejected nor landed (R24). -/
def State.flowHeld (s : State) (f : Flit) : Bool :=
  s.net.any fun g => g.before f && g.atSource f.die f.lsrc

/-- Flits of a channel in the landing buffers or aging buffers of a stop. -/
def State.landedAt (s : State) (d stop vc : Nat) (st : Stage) : List Flit :=
  s.net.filter fun f => f.die = d && f.ldst = stop && f.vc = vc && f.stage = st

/-- FLIT_ARRIVAL: a flit reaches the destination of its leg. It is ejected when the destination accepts it and
nothing of its channel waits in a buffer; else an aging flit lands at once, another rides on, and lands at its
fourth arrival when a landing buffer is free and its flow is not held (R22 to R24). DESIGN CHOICE: of an aging flit
whose flow is held R24 says that it is not landed and R29 that it is; it lands, and stays in the aging buffer until
the flow's earlier flits are gone (log 107). -/
def State.flitArrival (s : State) (d l slot : Nat) (accept : Bool) : Option State :=
  match s.net.find? fun f => f.die = d && (match f.stage with
      | .slot l' p n _ => l' = l && p = slot && n < 4
      | _ => false) with
  | none => none
  | some f =>
    match f.stage with
    | .slot _ _ n aging =>
      if s.filtered f then some (s.discardFlit f)
      else
        let ok := accept && !s.flowHeld f && (s.landedAt d f.ldst f.vc .landed).isEmpty &&
          (s.landedAt d f.ldst f.vc .agingBuf).isEmpty
        if ok then some (s.legDone f)
        else
          let (u, s) := s.fresh
          if aging then some (s.setFlit { f with stage := .agingBuf, age := u }).entriesFreed
          else if n + 1 < 4 then some (s.setFlit { f with stage := .slot l slot (n + 1) false })
          else if (s.landedAt d f.ldst f.vc .landed).length < 2 && !s.flowHeld f then
            some (s.landed f u)
          else some (s.setFlit { f with stage := .slot l slot 4 false })
    | _ => none

def execFlitArrival (d l slot : Nat) (accept : Bool) (s : State) : Result :=
  .next ((s.flitArrival d l slot accept).getD s)

/-- FLIT_TAKEN_BACK: a flit that found no landing buffer at its fourth arrival is back at its source, with its
age (R22). -/
def State.flitTakenBack (s : State) (d l slot : Nat) : Option State :=
  match s.net.find? fun f => f.die = d && f.stage = .slot l slot 4 false with
  | none => none
  | some f => some (s.setFlit { f with stage := .takenBack })

def execFlitTakenBack (d l slot : Nat) (s : State) : Result := .next ((s.flitTakenBack d l slot).getD s)

/-- LANDED_FLIT_ACCEPT: a stop takes the oldest flit of a channel from its aging buffers, whose flow stays in order, else
the one that landed first (R23, R24; log 107). -/
def State.landedAccept (s : State) (d stop vc : Nat) : Option State :=
  let free (f : Flit) : Bool := !(s.net.any fun g => g.before f &&
    (g.atSource f.die f.lsrc || g.stage = .landed || g.stage = .agingBuf))
  match byAge ((s.landedAt d stop vc .agingBuf).filter free) ++ byAge (s.landedAt d stop vc .landed) with
  | f :: _ => if s.filtered f then some (s.discardFlit f) else some (s.legDone f)
  | [] => none

def execLandedFlitAccept (d stop vc : Nat) (s : State) : Result := .next ((s.landedAccept d stop vc).getD s)

/-! The default order (log 3) -/

/-- A flit crosses its leg: placed in the first slot that passes, and ejected at its first arrival. -/
def State.carry (s : State) (f : Flit) : State :=
  (if s.filtered f then s.discardFlit f else s.legDone f).clearCounts f.die f.lsrc

/-- The oldest flit on a leg, if any. -/
def State.travelling (s : State) : Option Flit := s.net.find? fun f =>
  match f.stage with
  | .ejected | .held => false
  | _ => true

end Sys2Proof.Machine
end

