-- ==== Sys2Proof/Machine/FaultFam.lean ====
section
/-! DEFINITION. The events of faults: keeper and landlord entries, machine checks, the side log, deaths and
their notices, memory errors and the patrol scrub (R45, R161 to R173, R413). -/

namespace Sys2Proof.Machine

/-! Keeper entries (R45, R161, R167, R172) -/

/-- The context tag that a keeper entry serves. -/
def State.entryTag (s : State) (c : Nat) : EntryKind → BitVec 4
  | .trap p => (s.strand c p).tag
  | .notice i => match mapGet? (s.cluster (clusterOf c)).log i with | some e => e.tag | none => 0
  | .death t _ _ => t
  | .lost t _ => t
  | .message | .preK | .preL | .landlord _ => 0

/-- The doubleword of the handler table that a keeper entry uses (R162). -/
def State.entryWord (s : State) (c : Nat) : EntryKind → Nat
  | .trap p => (s.strand c p).deathCause.1
  | .notice _ => 0x18
  | .death _ _ _ | .lost _ _ => 0x19
  | .message | .preK | .preL | .landlord _ => 0

/-- The registers s3 and s4 that an entry loads (R161, R167, R172, R176). -/
def State.entryRegs (s : State) (c : Nat) : EntryKind → List (Fin 32 × Word)
  | .trap p => [(3, BitVec.ofNat 64 p), (4, (s.strand c p).fault.fd0)]
  | .notice i =>
    let sub := match mapGet? (s.cluster (clusterOf c)).log i with | some e => e.sub | none => 0
    [(3, BitVec.ofNat 64 i), (4, BitVec.ofNat 64 sub)]
  | .death _ i dva => [(3, BitVec.ofNat 64 i), (4, BitVec.ofNat 64 dva)]
  | .lost _ n => [(3, BitVec.ofNat 64 n), (4, 0)]
  | .message | .preK | .preL | .landlord _ => []

/-- The keeper queue without its head. -/
def State.popEntry (s : State) (c : Nat) : State :=
  let q := s.porter c
  s.setPorter c { q with queue := q.queue.drop 1 }

/-- Take the head of a porter's keeper queue: whether its doubleword is enabled, and then the entry. -/
def State.takeEntry (s : State) (c : Nat) (k : EntryKind) : Bool × State :=
  let tag := s.entryTag c k
  let (h, s) := s.handler c tag.toNat false (s.entryWord c k)
  match h with
  | some pc => (true, (s.popEntry c).enter c ⟨k, false, tag, pc⟩ (s.entryRegs c k))
  | none => (false, s.popEntry c)

/-- The oldest message that waits gets the porter, or is discarded when its entry is not enabled (R331). -/
def State.takeMsg (s : State) (c : Nat) (m : UserMsg) (t : List UserMsg) : State :=
  let q := s.porter c
  let s := s.setPorter c { q with msgs := t }
  let (h, s) := s.handler c m.tag.toNat false (32 + m.hidx)
  match h with
  | some pc => s.enter c ⟨.message, false, m.tag, pc⟩
      [(3, m.w0), (4, m.w1), (5, m.loc), (6, m.gti.zeroExtend 64)]
  | none => s

/-- A request of another core, or a SPAWN, has come for the porter, which serves it before any message (R45). -/
def State.builtinWaits (s : State) (c : Nat) : Bool :=
  s.net.any fun f => ready s f &&
    match f.msg with
    | .remote _ d _ _ _ _ _ _ | .spawn d _ _ _ _ _ => d = c
    | _ => false

/-- KEEPER_ENTRY: a free porter takes its next work: a trap, whose task dies when its handler is not enabled, a
death notice, or a message (R45, R161). A death notice or a count of lost messages whose doubleword 0x19 is not enabled
is dropped: the model's choice, since no rule says what happens (log 120). It waits while a read of the table must. -/
def State.keeperEntry (s : State) (c : Nat) : Option State :=
  if !s.porterFree c then none
  else
    match (s.porter c).queue with
    | .trap p :: _ =>
      let (cause, sub) := (s.strand c p).deathCause
      let r := s.takeEntry c (.trap p)
      if r.2.short.isSome then none else some (if r.1 then r.2 else r.2.kill c p cause sub)
    | .death t i d :: _ => (s.takeEntry c (.death t i d)).2.whole
    | .lost t n :: _ => (s.takeEntry c (.lost t n)).2.whole
    | _ :: _ => none
    | [] =>
      match (s.porter c).msgs with
      | m :: t => if s.builtinWaits c then none else (s.takeMsg c m t).whole
      | [] => none

def execKeeperEntry (c : Nat) (s : State) : Result := .next ((s.keeperEntry c).getD s)

/-- The strand of a core that owns a side-log entry. -/
def State.ownerOf (s : State) (e : LogEntry) : Option Nat :=
  (List.range 6).find? fun p => (s.strand e.core p).gti = e.gti && (s.strand e.core p).st ≠ .idle

/-- SIDELOG_NOTICE: a free porter takes a notice; when its handler is not enabled, the owner dies with PAGE, and its
entries are freed as its purge counts them (R167, R170). -/
def State.sidelogNotice (s : State) (c : Nat) : Option State :=
  if !s.porterFree c then none
  else
    match (s.porter c).queue with
    | .notice i :: _ =>
      match mapGet? (s.cluster (clusterOf c)).log i with
      | none => some (s.popEntry c)
      | some e =>
        let r := s.takeEntry c (.notice i)
        if r.2.short.isSome then none
        else some (if r.1 then r.2
          else
            match r.2.ownerOf e with
            | some p => r.2.kill c p 0x07 e.sub
            | none => r.2.freeLog (clusterOf c) i)
    | _ => none

def execSidelogNotice (c : Nat) (s : State) : Result := .next ((s.sidelogNotice c).getD s)

/-! Traps of the porter (R164) -/

/-- LANDLORD_ENTRY: a trap of keeper code; the keeper entry waits below. -/
def State.landlordEntry (s : State) (c : Nat) : Option State :=
  let q := s.porter c
  match q.queue, q.cur with
  | .landlord t :: _, some e =>
    if e.landlord then none
    else
      let g := s.gtiOf c 6
      let (h, s) := s.handler c e.tag.toNat true t.cause
      match h with
      | some pc => (((s.popEntry c).pushEntry c).enter c ⟨.landlord t, true, e.tag, pc⟩
          [(3, 6), (4, faultWord0 g false t.upper (impCause t.cause) t)]).whole
      | none => none
  | _, _ => none

def execLandlordEntry (c : Nat) (s : State) : Result := .next ((s.landlordEntry c).getD s)

/-- MACHINE_CHECK: a trap of landlord code stops the core, and its record goes on SYS to the die scheduler and to the
side door. A TRAPPED strand stands STOPPED too, and would go back to its trap. -/
def State.machineCheck (s : State) (c : Nat) : Option State :=
  let q := s.porter c
  match q.queue, q.cur with
  | .landlord _ :: _, some e =>
    if e.landlord then
      let s := s.popEntry c
      let s := (List.range 6).foldl (fun s p =>
        if (s.strand c p).st = .trapped then
          let s := s.setSt c p .stopped
          s.setStrand c p { s.strand c p with stopBy := .machine, left := .trapped }
        else s.stopStrand c p .machine) s
      let s := s.setCore c { s.core c with machine := true }
      let s := s.sendFrom (clusterOf c) (dieOf c) stopSched vcSYS landlordVd 0 (.check c)
      some { s with porch := { s.porch with checks := s.porch.checks ++ [c] } }
    else none
  | _, _ => none

def execMachineCheck (c : Nat) (s : State) : Result := .next ((s.machineCheck c).getD s)

/-! Replay (R165 to R167, R107) -/

/-- An entry is due: it has not failed since the last KRET of a notice, and no older entry of its strand is due. -/
def State.replayDue (s : State) (cl i : Nat) : Option LogEntry :=
  match mapGet? (s.cluster cl).log i with
  | none => none
  | some e =>
    let due (x : LogEntry) : Bool := x.sub = 0 && x.frame.isNone
    if due e && !((s.cluster cl).log.any fun x =>
        due x.2 && x.2.core = e.core && x.2.pos = e.pos && x.2.gti = e.gti && x.2.seq < e.seq) then some e
    else none

/-- The piece still faults: a new notice. -/
def State.replayFails (s : State) (cl i : Nat) (e : LogEntry) (sub : Nat) : State :=
  let k := s.cluster cl
  (s.setCluster cl { k with log := mapPut k.log i { e with sub := sub } }).post e.core (.notice i)

/-- The piece met an empty pool: the entry waits for a frame without a notice. -/
def State.replayWaits (s : State) (cl i die : Nat) (e : LogEntry) : State :=
  let k := s.cluster cl
  s.setCluster cl { k with log := mapPut k.log i { e with frame := some die } }

/-- Bytes of a replayed access that go to their homes. -/
def State.replayHome (s : State) (cl i : Nat) (e : LogEntry) (sp : ASpace) (l : Leaf) (vd a : Nat)
    (data : State → List PByte) : Option State :=
  match s.space sp l vd a e.data.length with
  | .wait => none
  | .empty sl => some (s.replayWaits cl i (sl / 96) e)
  | .ok s =>
    let s := s.settle cl sp l a e.data.length 64
    some (((s.writeHomes cl sp l vd a (data s)).staleOut cl sp l a e.data.length).freeLog cl i)

/-- The result of a reduction on a memory word; a poisoned word stays as it is. -/
def redBytes (op : AOp) (old data : List PByte) : List PByte :=
  if anyPoison old then old
  else natBytes data.length (aopVal op (8 * data.length) (bytesNat old) (bytesNat data) 0)

/-- Enter a cluster on the combine list of a word (R347). -/
def State.listCombine (s : State) (cl : Nat) (sp : ASpace) (l : Leaf) (a : Nat) : State :=
  let w := a / 8 * 8
  let sl := homeSlice l.home w
  let k := s.slice sl
  let m := match k.combines.find? fun c => c.sp = sp && c.addr = w with
    | some c => k.combines.map fun d => if d = c then { d with clusters := setAdd d.clusters cl } else d
    | none => k.combines ++ [⟨sp, w, [cl], l⟩]
  s.setSlice sl { k with combines := m }

/-- A replayed reduction outside a strong page (R347, R113). -/
def State.replayRed (s : State) (cl i : Nat) (e : LogEntry) (op : AOp) (sc : Scope) (sp : ASpace) (l : Leaf)
    (vd a : Nat) : Option State :=
  let n := e.data.length
  match sc with
  | .sys => (s.giveUp cl sp a n).replayHome cl i e sp l vd a fun s => redBytes op (s.homeBytes sp l a n) e.data
  | .die | .dev =>
    match s.accrued cl sp op a n with
    | some _ => some ((s.accrue cl vd l sp op a e.data).freeLog cl i)
    | none =>
      let s := s.giveUp cl sp a n
      if s.cacheFull cl then s.replayHome cl i e sp l vd a fun s => redBytes op (s.homeBytes sp l a n) e.data
      else
      let s := s.settle cl sp l a n 64
      some (((s.accrue cl vd l sp op a e.data).listCombine cl sp l a).freeLog cl i)
  | .co | .cl =>
    let (b, s) := s.portLoad cl vd sp l a n
    some ((s.putRun cl sp l vd (.d (slotOf e.core e.pos) none) 5 a (redBytes op b e.data)).freeLog cl i)

/-- A replayed JOIN: the continuation is enqueued on the entry's cluster (R340). -/
def State.replayJoin (s : State) (cl i : Nat) (e : LogEntry) (sp : ASpace) (l : Leaf) (vd a : Nat) : Option State :=
  match (s.giveUp cl sp a 8).joinAt cl sp l vd a with
  | .zero s | .poison s => some (s.freeLog cl i)
  | .done s none => some (s.freeLog cl i)
  | .done s (some r) => (s.enqueueCont cl e.tag e.gti r).map fun s => s.freeLog cl i

/-- A replayed JOIN on a page outside space 0 (R340). -/
def State.replayFarJoin (s : State) (cl i : Nat) (e : LogEntry) (pa : Nat) : Option State :=
  let (b, s) := s.farRead pa 40
  let n := bytesNat (b.take 4)
  if anyPoison (b.take 8) || n = 0 || (n = 1 && anyPoison b) then some (s.freeLog cl i)
  else
    let s := s.farWrite pa (natBytes 4 (n - 1))
    if n = 1 then (s.enqueueCont cl e.tag e.gti (wordsOfBytes (b.drop 8))).map fun s => s.freeLog cl i
    else some (s.freeLog cl i)

/-- Perform an entry whose piece translates. -/
def State.replayPerform (s : State) (cl i : Nat) (e : LogEntry) (l : Leaf) (vd : Nat) : Option State :=
  let (sp, a) := keyOf l vd e.dva
  let n := e.data.length
  if !l.near then
    match e.act with
    | .red op _ => some ((s.farAtomic a n op e.data 0).2.freeLog cl i)
    | .join _ => s.replayFarJoin cl i e a
    | _ => some ((s.farWrite a e.data).freeLog cl i)
  else if s.blocked sp l a n true || s.busyAt sp l a n then none
  else
    let s := s.countProbes e.core vd l sp e.dva a n
    match e.act with
    | .red op sc =>
      if l.kind = .strong then
        (s.combineOwn cl sp a n).replayHome cl i e sp l vd a fun s => redBytes op (s.homeBytes sp l a n) e.data
      else s.replayRed cl i e op sc sp l vd a
    | .join _ => s.replayJoin cl i e sp l vd a
    | _ =>
      if l.kind = .strong then (s.combineOwn cl sp a n).replayHome cl i e sp l vd a fun _ => e.data
      else some ((s.putStore e.core e.pos l sp vd a e.data).freeLog cl i)

/-- SIDELOG_REPLAY: an entry that is due is translated again, and performs, or stays. -/
def State.sidelogReplay (s : State) (cl i : Nat) : Option State :=
  match s.replayDue cl i with
  | none => none
  | some e =>
    let (vd, _, _) := s.spaceOf cl e.tag.toNat e.landlord
    match s.translate e.core cl e.tag.toNat e.landlord e.act e.dva with
    | (.error n, s) => if s.short.isSome then none else some (s.replayFails cl i e n)
    | (.ok l, t) =>
      match t.replayPerform cl i e l vd with
      | none => none
      | some u =>
        match u.short with
        | none => some u
        | some none => none
        | some (some k) => some (s.replayWaits cl i (k / 96) e)

def execSidelogReplay (cl i : Nat) (s : State) : Result := .next ((s.sidelogReplay cl i).getD s)

/-! Deaths (R170, R171) -/

/-- TASK_DEATH: a death that waited for room in the filter, or a trap whose handler is not enabled. -/
def State.taskDeath (s : State) (c p cause sub : Nat) : Option State :=
  let x := s.strand c p
  if x.dying = some (cause, sub) then
    if s.purgeHeld c p then none else some (s.purge c p cause sub)
  else if x.st = .trapped && s.porterFree c && (s.porter c).queue.head? = some (.trap p) &&
      x.deathCause = (cause, sub) then
    let r := s.takeEntry c (.trap p)
    if r.1 || r.2.short.isSome then none else some (r.2.kill c p cause sub)
  else none

def execTaskDeath (c p : Nat) (cause sub : BitVec 8) (s : State) : Result :=
  .next ((s.taskDeath c p cause.toNat sub.toNat).getD s)

/-- Flits of the ordered channels on routes of a die that were sent before a moment. -/
def State.draining (s : State) (d t : Nat) : Bool :=
  s.net.any fun f => vcOrdered f.vc && f.stage ≠ .held && f.id < t && (f.die = d || f.sdie = d || f.ddie = d)

/-- DEAD_FILTER_RETIRE: the ordered routes of the die are drained of what was sent before the entry (R171). -/
def State.filterRetire (s : State) (d j : Nat) : Option State :=
  let x := s.die d
  match x.filter[j]? with
  | none => none
  | some e => if s.draining d e.2 then none else some (s.setDie d { x with filter := listDel x.filter j })

def execDeadFilterRetire (d j : Nat) (s : State) : Result := .next ((s.filterRetire d j).getD s)

/-! Death notices (R172) -/

/-- A place of a notice's ring: the context's registers on the lowest cluster of the die that holds it, else
those it was sent with. -/
structure Ring where
  core : Option (Nat × BitVec 4)
  root : Nat
  base : Nat
  size : Nat

def State.ringOf (s : State) (d : Nat) (n : Notice) : Ring :=
  match (List.range 512).find? fun k => (s.findCtx (512 * d + k) n.img).isSome with
  | some k =>
    let cl := 512 * d + k
    let t := (s.findCtx cl n.img).getD 0
    let x := s.ctx cl t
    ⟨some (16 * cl, BitVec.ofNat 4 t), x.root.toNat, x.ringbase.toNat, (x.ringsize.extractLsb' 0 16).toNat⟩
  | none => ⟨none, n.img.root, n.ringbase.toNat, (n.ringsize.extractLsb' 0 16).toNat⟩

/-- The leaf of a doubleword or an entry of a ring, by DVA, for a strong access of its virtual device by the scheduler
of a die; the state is short while the walk must wait (R38, R82). -/
def State.ringLeaf (s : State) (d : Nat) (r : Ring) (vd : Nat) (act : GAct) (dva : Nat) : Option Leaf × State :=
  match (if s.walkersBusy d then none else s.walkSpace d vd r.root act dva) with
  | none => (none, s.lacks none)
  | some (.ok l, s) => (if l.near then some l else none, s)
  | some (.error _, s) => (none, s)

/-- The scheduler's traffic to a home of a ring and the reply (R39; log 111). -/
def State.ringTraffic (s : State) (d vd : Nat) (l : Leaf) (a : Nat) : State :=
  let i := stopOfSlice (homeSlice l.home a)
  (s.sendBulk d stopSched l.home i vcCOH vd 0 noCluster 1).sendBulk l.home i d stopSched vcRSP vd 0 noCluster 1

/-- A doubleword of a ring; none when it cannot be reached. The state is short while it must wait (R361). -/
def State.ringRead (s : State) (d : Nat) (r : Ring) (vd dva : Nat) : Option (Nat × State) :=
  match s.ringLeaf d r vd (.load (.ls 0)) dva with
  | (some l, s) =>
    let (sp, a) := keyOf l vd dva
    if s.homesBusy sp l a 8 false then some (0, s.lacks none)
    else
      let (b, s) := (s.ringTraffic d vd l a).readHomes noCluster sp l a 8 vd
      some (bytesNat b, s)
  | (none, s) => if s.short.isSome then some (0, s) else none

def State.ringWrite (s : State) (d : Nat) (r : Ring) (vd dva : Nat) (b : List PByte) : Option State :=
  match s.ringLeaf d r vd .store dva with
  | (some l, s) =>
    let (sp, a) := keyOf l vd dva
    some (if s.homesBusy sp l a b.length true then s.lacks none
      else (s.ringTraffic d vd l a).writeHomes noCluster sp l vd a b)
  | (none, s) => if s.short.isSome then some s else none

/-- The notice is written into its ring, the producer index advances, and the keeper entry is posted; none when
the ring has no room or cannot be reached. The state is short while an access must wait. -/
def State.ringPut (s : State) (d : Nat) (n : Notice) : Option State := do
  let r := s.ringOf d n
  if r.base = 0 || r.size < 2 then none
  else
    let vd := n.img.vd
    let (x, s) ← s.ringRead d r vd r.base
    let (y, s) ← s.ringRead d r vd (r.base + 8)
    let prod := x % 65536
    if s.short.isSome then some s
    else if (prod + 1) % r.size = y % 65536 then none
    else
      let dva := r.base + 64 + 32 * prod
      let s ← s.ringWrite d r vd dva (n.bytes.map (⟨·, false⟩))
      let s ← s.ringWrite d r vd r.base (natBytes 8 ((prod + 1) % r.size))
      match r.core with
      | some (c, t) => some (s.post c (.death t prod dva))
      | none =>
        let x := s.die d
        some (s.setDie d { x with deaths := x.deaths ++ [(n.img, prod, dva)] })

/-- Die to which a notice goes. -/
def Notice.die (n : Notice) : Nat := (n.parent.extractLsb' 23 3).toNat

/-- Two notices go to one ring. -/
def Notice.sameRing (n m : Notice) : Bool := n.die = m.die && n.img.same m.img

/-- The header of a ring gets the count of notices that wait for it. -/
def State.ringCount (s : State) (n : Notice) : State :=
  let r := s.ringOf n.die n
  let k := (s.porch.notices.filter n.sameRing).length
  if r.base = 0 then s else (s.ringWrite n.die r n.img.vd (r.base + 16) (natBytes 8 k)).getD s

/-- DEATH_NOTICE: a notice reaches the die of its parent; it waits while its ring's accesses must. -/
def State.deathNotice (s : State) (i : Nat) : Option State :=
  match s.flit? i with
  | none => none
  | some f =>
    match f.msg with
    | .death n =>
      let s := s.drop i
      match (if s.porch.notices.any n.sameRing then none else s.ringPut f.ddie n) with
      | some t => t.whole
      | none => ({ s with porch := { s.porch with notices := s.porch.notices ++ [n] } }.ringCount n).whole
    | _ => none

def execDeathNotice (i : Nat) (s : State) : Result := .next ((s.deathNotice i).getD s)

/-- NOTICE_RING_DRAIN: the oldest notice that waits for a ring is written once there is room. -/
def State.ringDrain (s : State) (j : Nat) : Option State :=
  match s.porch.notices[j]? with
  | none => none
  | some n =>
    if (s.porch.notices.take j).any n.sameRing then none
    else (s.ringPut n.die n).bind fun s =>
      ({ s with porch := { s.porch with notices := listDel s.porch.notices j } }.ringCount n).whole

def execNoticeRingDrain (j : Nat) (s : State) : Result := .next ((s.ringDrain j).getD s)

/-! Memory errors and the patrol scrub (R169, R173, R412, R413) -/

/-- A burst is rewritten as a marked one: it reads back as poisoned data. -/
def State.markBurst (s : State) (b : Nat) : State :=
  { s with
    memP := (List.range 8).foldl (fun m j => setAdd m (8 * b + j)) s.memP
    badBursts := setDel s.badBursts b }.rekey [b]

/-- HBM_UNCORRECTABLE_ERROR: a fill meets bursts that it cannot correct or whose tag fails, its first burst when
none is known: they are marked and logged, everything of the virtual device dies, and the fill goes on (R173). -/
def State.hbmError (s : State) (d k : Nat) : Option State :=
  match (s.die d).hbm[k]? with
  | none => none
  | some r =>
    if !r.served then none
    else
      let bad := r.burstsOf.filter (setHas s.badBursts)
      let bad := if bad.isEmpty then r.burstsOf.take 1 else bad
      let s := bad.foldl (fun s b => s.markBurst b) s
      let s := (s.logError d r.addr r.vd).killVd r.vd
      -- a fill that was made in one step waits for nothing
      if s.net.any fun f => (match f.msg with | .fill q => q = r | _ => false) then some s
      else
        let x := s.die d
        some (s.setDie d { x with hbm := x.hbm.filter (· ≠ r) })

def execHbmUncorrectableError (d k : Nat) (s : State) : Result := .next ((s.hbmError d k).getD s)

/-- Poison the word of an address in a run of bytes. -/
def poisonRun (start : Nat) (data : List PByte) (w : Nat) : List PByte :=
  data.zipIdx.map fun b => if (start + b.2) / 8 = w / 8 then { b.1 with p := true } else b.1

/-- A read finds an error of a memory array (R86, R169, R173): a single-bit error of a local store is corrected and
counted; an uncorrectable word is marked poisoned, but for C and V bytes, which are fetched again; a bad burst stands
for the next fill that reads it. -/
def State.strike (s : State) (u : Upset) : State :=
  match u with
  | .corrected c vd => s.bump c 0x0A vd 1
  | .lsWord c w => s.setCore c { s.core c with lsP := setAdd (s.core c).lsP w }
  | .cacheWord cl sp a =>
    let w := a / 8 * 8
    let k := s.cluster cl
    s.setCache cl (k.cache.flatMap fun e =>
      if e.sp ≠ sp then [e]
      else if e.st = .c then e.cut w 8
      else [{ e with data := poisonRun e.start e.data w }])
  | .homeWord sl sp a =>
    let x := s.slice sl
    s.setSlice sl { x with
      exts := x.exts.map fun e =>
        if e.sp = sp && e.st ≠ .v && !e.fill then { e with data := poisonRun e.start e.data a } else e
      regs := x.regs.map fun r =>
        if r.sp = sp && r.addr = a / 8 * 8 then
          { r with writers := r.writers.map fun w => (w.1, w.2.map fun b => (b.1, { b.2 with p := true })) }
        else r }
  | .burst b => { s with badBursts := setAdd s.badBursts b }

/-- Populated bursts of a stack (R12). -/
def stackBursts : Nat := 80 * 2 ^ 30 / 64

/-- PATROL_SCRUB_BURST: the scrub of a stack comes to its next burst: it skips one that a write has moved to the
pass's version; else it checks the tag and re-encrypts, or marks and logs the burst. -/
def State.scrubBurst (s : State) (d : Nat) (ok : Bool) : Option State :=
  let x := s.die d
  match x.scrub with
  | none => none
  | some n =>
    let b := d * 2 ^ 31 + n
    let s := s.setDie d { x with scrub := if n + 1 < stackBursts then some (n + 1) else none }
    if setHas s.rekeyed b then some { s with rekeyed := setDel s.rekeyed b }
    else if ok && !setHas s.badBursts b then some s
    else some ((s.markBurst b).logError d (64 * b) 0)

def execPatrolScrubBurst (d : Nat) (tagOk : Bool) (s : State) : Result := .next ((s.scrubBurst d tagOk).getD s)

/-- SCRUB_PASS_START: the last pass has completed on all eight stacks; from now on writes use the next version. -/
def State.scrubStart (s : State) : Option State :=
  if (List.range 8).any fun d => (s.die d).scrub.isSome then none
  else
    let s := (List.range 8).foldl (fun s d => s.setDie d { s.die d with scrub := some 0 }) s
    some { s with rekeyed := [], porch := { s.porch with keyver := s.porch.keyver + 1 } }

/-- The scrub runs continuously: on every stack it comes to its next burst in each eight cycles, and a pass follows the
last one at once (R413; log 3). -/
def State.scrubOn (s : State) : Option State :=
  if s.porch.scrubbed = s.cycle / 8 then none
  else
    let s : State := { s with porch := { s.porch with scrubbed := s.cycle / 8 } }
    some (s.scrubStart.getD ((List.range 8).foldl (fun s d => (s.scrubBurst d true).getD s) s))

def execScrubPassStart (s : State) : Result := .next (s.scrubStart.getD s)

end Sys2Proof.Machine
end

