-- ==== Sys2Proof/Machine/PreemptFam.lean ====
section
/-! DEFINITION. Pre-emption and resumption of a core, the profiling lease, and register writes that reach the
machine as events of their own (R174 to R178, R313, R314, R405). -/

namespace Sys2Proof.Machine

/-! Register writes as events (R313, R314, R405) -/

/-- The context tag of a core's first strand that holds work. -/
def State.firstTag (s : State) (c : Nat) : BitVec 4 :=
  match (List.range 6).find? fun p => (s.strand c p).st ≠ .idle with
  | some p => (s.strand c p).tag
  | none => 0

/-- POOLPUSH (R313, R106). -/
def execPoolpush (d : Nat) (v : BitVec 64) (s : State) : Result := .next ((s.poolPush d v).getD s)

/-- CLUSTER_RESET (R179). -/
def execClusterReset (cl : Nat) (s : State) : Result := .next (s.clusterReset cl)

/-- KEEPER_PREEMPT_REQUEST: bit 0 of preempt (R313). -/
def execKeeperPreemptRequest (c : Nat) (s : State) : Result :=
  .next ((s.sysWrite c 0 0x21 0 false (s.firstTag c).toNat 1).getD s)

/-- LANDLORD_PREEMPT_REQUEST: bit 1 of preempt (R313). -/
def execLandlordPreemptRequest (c : Nat) (s : State) : Result :=
  .next ((s.sysWrite c 0 0x21 0 true (s.firstTag c).toNat 2).getD s)

/-- A word of a peer's admit entry: 0 the base, 1 the length in bytes, 2 the virtual device charged (log 115). -/
def Admit.put (x : Admit) (w : Nat) (v : Word) : Admit :=
  if w = 0 then { x with base := v.toNat % 2 ^ 40 }
  else if w = 1 then { x with len := v.toNat % 2 ^ 41 }
  else if w = 2 then { x with vd := v.toNat % 64 }
  else x

/-- The landlord's write through the PF window of the route table, number 0x398, indexed by peer, or of the admit
table, number 0x399, with four words a peer, both under die 8 (R398): the numbers and the layout are the model's choice
(log 115). -/
def State.spanTables (s : State) (pa : Nat) (v : Word) : Option State :=
  let i := ctlIndex pa
  if paSpace pa ≠ 15 || ctlDie pa ≠ 8 then none
  else if ctlNum pa = 0x398 && i < 16 then
    some { s with porch := { s.porch with
      route := mapPut s.porch.route i ((List.range 16).filter fun k => v.getLsbD k) } }
  else if ctlNum pa = 0x399 && i < 64 then
    some { s with porch := { s.porch with
      admits := mapPut s.porch.admits (i / 4) ((mapGet ⟨0, 0, 0⟩ s.porch.admits (i / 4)).put (i % 4) v) } }
  else none

/-- CONTROL_SPACE_WRITE: a doubleword written through the PF window or by a store to space 15 (R314, R393, R398). -/
def execControlSpaceWrite (pa : BitVec 48) (v : BitVec 64) (s : State) : Result :=
  .next ((s.spanTables (pa.toNat / 8 * 8) v).getD (s.ctlWriteWord (pa.toNat / 8 * 8) v))

/-- LEASE_REQUEST: a write of lease for a virtual device (R405). -/
def execLeaseRequest (vd : Nat) (v : BitVec 64) (s : State) : Result := .next (s.leaseWrite 0 vd v)

/-! PREEMPTION (R174 to R177, R54) -/

/-- What a step found no frame for is left aside (log 97); what must wait stays short. -/
def State.ease (s : State) : State := if s.short = some none then s else s.anyway

/-- A strand's trap is being served on its core, now or below an entry that interrupted it. -/
def State.served (s : State) (c p : Nat) : Bool :=
  let q := s.porter c
  (match q.cur with | some e => e.kind = .trap p | none => false) || q.stack.any fun e => e.kind = .trap p

/-- A strand stands still for a pre-emption: keeper pre-emption lets a served trap end first (R180); the landlord
stops keeper code where it stands (R177). -/
def State.still (s : State) (c p : Nat) (landlord : Bool) : Bool :=
  match (s.strand c p).st with
  | .idle | .stopped => true
  | .trapped => landlord || !s.served c p
  | _ => false

/-- Stop a strand for a pre-emption. -/
def State.preemptStrand (s : State) (c p : Nat) (landlord : Bool) : State :=
  let x := s.strand c p
  match x.st with
  | .idle | .stopped => s
  | .trapped =>
    if !landlord && s.served c p then s.setStrand c p { x with stopPending := true, stopBy := .preempt } else s
  | _ => s.stopStrand c p .preempt

/-- The cores on which the bands of a core's crews have strands: they are pre-empted whole (R54, R174). -/
def State.bandCores (s : State) (c : Nat) : List Nat :=
  ((List.range 6).flatMap fun p =>
    match (s.strand c p).member with
    | .crew l b _ _ => (s.bandOf l b).map (·.1)
    | _ => []).dedup.filter (· ≠ c)

/-- Cores, and those that share a band with one of them, directly or through others. -/
def State.bandClose (s : State) : Nat → List Nat → List Nat
  | 0, l => l
  | fuel + 1, l =>
    match ((l.flatMap s.bandCores).filter fun c => !l.contains c).dedup with
    | [] => l
    | m => s.bandClose fuel (l ++ m)

/-- The other cores of the bands of a core's crews, of their other bands, and so on: they resume whole (R54, R76). -/
def State.peersOf (s : State) (c : Nat) : List Nat := (s.bandClose (s.cores.length + 1) [c]).filter (· ≠ c)

/-- Ask for the pre-emption of a core that stands under none, or, by the landlord, of one that its keeper has
pre-empted (R45). -/
def State.askPreempt (s : State) (c : Nat) (landlord : Bool) : State :=
  let k := s.core c
  if landlord then (if k.saved.any (·.landlord) then s else s.setCore c { k with preL := true })
  else if k.saved.isSome then s
  else s.setCore c { k with preK := true, preTag := if k.preK then k.preTag else s.firstTag c }

/-! The core context buffer (R176, R273) -/

/-- Undelivered messages that the buffer holds: 64 bytes each from 0x6440 on (R176). -/
def bufferRoom : Nat := (0x10000 - 0x6440) / 64

/-- What a sequence captured for an operand specifier of one of its words: a scalar or a mask (R49, R184). -/
def capRead (r : RegSet) (o : BitVec 8) : PWord :=
  if o.extractLsb' 5 3 = 0 then r.getS (Fin.ofNat 32 o.toNat)
  else if o.extractLsb' 5 3 = 3 then ⟨r.getK (Fin.ofNat 8 o.toNat), false⟩
  else ⟨0, false⟩

def capWrite (r : RegSet) (o : BitVec 8) (x : PWord) : RegSet :=
  if o.extractLsb' 5 3 = 0 then r.setS (Fin.ofNat 32 o.toNat) x
  else if o.extractLsb' 5 3 = 3 then r.setK (Fin.ofNat 8 o.toNat) x.v
  else r

/-- The operand specifiers of eight sequence words that can name a scalar or a mask: A and B of each. -/
def capOps (l : List (BitVec 96)) : List (BitVec 8) :=
  (List.range 8).flatMap fun j => let f := Fields.ofWord (l.getD j 0); [f.a, f.b]

/-- The repeater's state at 0x6000: a doubleword with owner, instruction, length, pc and claim, one with count,
iteration, strides and the poison bits of the captured operands, eight words of twelve bytes, and the captured
operands, A and B of each word (R176, log 104). -/
def repImage (r : Option RepSeq) : List PByte :=
  match r with
  | none => natBytes 240 0
  | some r =>
    let l := (capOps r.words).map (capRead r.cap)
    let marks := (l.zipIdx.map fun x => x.1.p.toNat * 2 ^ x.2).sum
    dwords [BitVec.ofNat 64 (r.owner + r.idx * 2 ^ 3 + r.words.length * 2 ^ 6 + r.pc.toNat * 2 ^ 16 +
        r.claim.toNat * 2 ^ 40),
      BitVec.ofNat 64 (r.count + r.iter * 2 ^ 16 + r.strd * 2 ^ 32 + r.stra * 2 ^ 36 + r.strb * 2 ^ 40 +
        marks * 2 ^ 48)] ++
      (List.range 8).flatMap (fun j => natBytes 12 (r.words.getD j 0).toNat) ++ dwords (l.map (·.v))

/-- The repeater's sequence as the image gives it back; none where it has no words. -/
def repOfImage (old : Option RepSeq) (b : List PByte) : Option RepSeq :=
  let w := imgWord b 0
  let d := imgWord b 8
  let n := w / 2 ^ 6 % 16
  if n = 0 then none
  else
    let words := (List.range n).map fun j =>
      BitVec.ofNat 96 (leNat (((b.drop (16 + 12 * j)).take 12).map (·.v)))
    some {
      owner := w % 8, pc := BitVec.ofNat 24 (w / 2 ^ 16), words := words
      count := d % 2 ^ 13, iter := d / 2 ^ 16 % 2 ^ 13, idx := w / 2 ^ 3 % 8
      strd := d / 2 ^ 32 % 16, stra := d / 2 ^ 36 % 16, strb := d / 2 ^ 40 % 16
      claim := BitVec.ofNat 16 (w / 2 ^ 40)
      cap := (capOps words).zipIdx.foldl (fun r o =>
        capWrite r o.1 ⟨imgW b (112 + 8 * o.2), d.testBit (48 + o.2)⟩) RegSet.zero
      notBefore := match old with | some r => r.notBefore | none => 0 }

/-- A channel port: the count, then the words in order, in 0xC0 bytes. -/
def portImage (l : List ChWord) : List PByte :=
  let b := dwords (BitVec.ofNat 64 l.length :: l.map (·.w))
  b ++ natBytes (0xC0 - b.length) 0

/-- A message, or a held request of another core, in its 64 bytes (log 104). -/
def slotImage (m : Option UserMsg) : List PByte :=
  let l : List Word := match m with
    | some m => [m.w0, m.w1, m.loc,
        BitVec.ofNat 64 (m.gti.toNat + m.hidx % 256 * 2 ^ 32 + m.tag.toNat * 2 ^ 40 + 2 ^ 44)]
    | none => [0, 0, 0, BitVec.ofNat 64 (2 ^ 45)]
  dwords l ++ natBytes 32 0

/-- The header: message count, messages lost. -/
def headImage (v : SavedCore) : List PByte :=
  dwords [BitVec.ofNat 64 v.msgs.length, BitVec.ofNat 64 v.lost] ++ natBytes 48 0

/-- The whole buffer as R176 lays it out. -/
def bufferImage (k : Core) (v : SavedCore) : List PByte :=
  lsBytes k 0 0x6000 ++ repImage v.rep ++ natBytes 16 v.codebook.toNat ++
  (List.range 4).flatMap (fun p => portImage (mapGet [] k.chans p)) ++ headImage v ++ v.msgs.flatMap slotImage

/-- Write bytes of a core's context buffer, in the address space of the context that was pre-empted; without a
buffer that can be written they stand with the core (log 104). The state is short while the write must wait. -/
def State.bufferWrite (s : State) (c : Nat) (v : SavedCore) (o : Nat) (l : List PByte) : State :=
  if (s.core c).ctxbuf = 0 then s
  else ((s.writeDva c (clusterOf c) v.tag.toNat ((s.core c).ctxbuf.toNat + o) l).map State.ease).getD s

/-- A message for a saved core is spilled to its context buffer, behind those that are there already, or dropped
and counted; a held request of another core takes a place too (R176, R333). -/
def State.spillMsg (s : State) (c : Nat) (v : SavedCore) (m : Option UserMsg) : State :=
  let o := 0x6440 + 64 * v.msgs.length
  let full : Bool := bufferRoom ≤ v.msgs.length
  let v := if full then { v with lost := v.lost + m.isSome.toNat } else { v with msgs := v.msgs ++ [m] }
  let s := s.setCore c { s.core c with saved := some v }
  let s := s.bufferWrite c v 0x6400 (headImage v)
  if full then s else s.bufferWrite c v o (slotImage m)

/-- The message that a slot of the buffer holds. -/
def slotMsg (b : List PByte) (o : Nat) : UserMsg :=
  let w := imgW b (o + 24)
  { tag := w.extractLsb' 40 4, hidx := (w.extractLsb' 32 8).toNat, w0 := imgW b o, w1 := imgW b (o + 8)
    loc := imgW b (o + 16), gti := w.extractLsb' 0 32 }

/-- Write bytes to a local store, guarded or not. -/
def lsRaw (k : Core) (a : Nat) (l : List PByte) : Core :=
  { lsWrite { k with guards := [] } a l with guards := k.guards }

/-- A port's words as the buffer gives them back; the device that wrote each stands beside it (R324). -/
def portOfImage (old : List ChWord) (vd : Nat) (b : List PByte) (o : Nat) : List ChWord :=
  (List.range (min 16 (imgWord b o))).map fun j =>
    ⟨imgW b (o + 8 + 8 * j), match old[j]? with | some w => w.vd | none => vd⟩

/-- A core with what its buffer holds (R176). -/
def Core.ofBuffer (k : Core) (v : SavedCore) (vd : Nat) (b : List PByte) : Core :=
  let k := lsRaw { k with ls := [], lsP := [] } 0 (b.take 0x6000)
  { k with
    chans := (List.range 4).map fun p => (p, portOfImage (mapGet [] k.chans p) vd b (0x6100 + 0xC0 * p))
    saved := some { v with
      rep := repOfImage v.rep (b.drop 0x6000)
      codebook := BitVec.ofNat 128 (leNat (((b.drop 0x60F0).take 16).map (·.v)))
      lost := imgWord b 0x6408
      msgs := v.msgs.zipIdx.map fun m => m.1.map fun _ => slotMsg b (0x6440 + 64 * m.2) } }

/-! The landlord save area (R177) -/

/-- A keeper entry in a doubleword: its kind, the position, entry or tag it names, its level, tag and pc (log 104). -/
def kindImage : EntryKind → Nat
  | .trap p => 1 + p * 2 ^ 4
  | .notice i => 2 + i * 2 ^ 4
  | .death t _ _ => 3 + t.toNat * 2 ^ 4
  | .lost t _ => 4 + t.toNat * 2 ^ 4
  | .message => 5
  | .preK => 6
  | .preL => 7
  | .landlord t => 8 + t.cause * 2 ^ 4

def entryImage (e : Entry) : Word :=
  BitVec.ofNat 64 (kindImage e.kind + e.landlord.toNat * 2 ^ 27 + e.tag.toNat * 2 ^ 28 + e.pc.toNat * 2 ^ 32)

/-- The area: the keeper registers in the layout of R175, then the number of entries and the entries, the current
one first (log 104). -/
def llsaveImage (r : RegSet) (tag : BitVec 4) (h : PorterHeld) : List PByte :=
  let es : List Word := (h.cur.map entryImage).toList ++ h.stack.map entryImage ++
    h.queue.map fun k => BitVec.ofNat 64 (kindImage k)
  ({ Strand.init with regs := r, tag := tag, st := .run } : Strand).area (natBytes 512 0) ++
    dwords (BitVec.ofNat 64 es.length :: es)

/-- Save the running keeper's registers and the porter's entries for the landlord. -/
def State.saveKeeper (s : State) (c : Nat) (tag : BitVec 4) (h : PorterHeld) : State :=
  let t := (h.cur.map (·.tag)).getD tag
  let d := mapGet 0 (s.core c).llsave (s.ctx (clusterOf c) t.toNat).img.vd
  if d = 0 then s
  else ((s.writeDva c (clusterOf c) t.toNat d.toNat
    (llsaveImage (mapGet RegSet.zero (s.porter c).keepers t.toNat) t h) true).map State.ease).getD s

/-- The keeper's registers as the landlord's save area of a core holds them at the resume. -/
def State.loadKeeper (s : State) (c : Nat) (tag : BitVec 4) (h : PorterHeld) (keepers : SMap RegSet) :
    SMap RegSet × State :=
  let t := (h.cur.map (·.tag)).getD tag
  let d := mapGet 0 (s.core c).llsave (s.ctx (clusterOf c) t.toNat).img.vd
  if d = 0 then (keepers, s)
  else
    match s.readDva c (clusterOf c) t.toNat true d.toNat 0x800 with
    | (some b, s) => (mapPut keepers t.toNat (regsOfArea b), s)
    | (none, s) => (keepers, s)

/-- Read a saved core's buffer back, and the running keeper's set from where the landlord saved it. -/
def State.reload (s : State) (c : Nat) : State :=
  let k := s.core c
  match k.saved with
  | none => s
  | some v =>
    let s :=
      if k.ctxbuf = 0 then s
      else
        match s.readDva c (clusterOf c) v.tag.toNat false k.ctxbuf.toNat 0x10000 with
        | (some b, s) => s.setCore c ((s.core c).ofBuffer v (s.ctx (clusterOf c) v.tag.toNat).img.vd b)
        | (none, s) => s
    match (s.core c).saved with
    | some v =>
      if v.landlord then
        let (keepers, s) := s.loadKeeper c v.tag ⟨v.cur, v.stack, v.queue⟩ v.keepers
        s.setCore c { s.core c with saved := some { v with keepers := keepers } }
      else s
    | none => s

/-! Saving (R174 to R178, R128) -/

/-- The release of every strand of a core that holds work. -/
def State.saveReleases (s : State) (c : Nat) : State :=
  (List.range 6).foldl (fun s p => if (s.strand c p).st = .idle then s else s.releaseAll c p) s

/-- What the strands owe cannot go home yet. -/
def State.saveHeld (s : State) (c : Nat) : Bool :=
  (List.range 6).any (fun p => (s.strand c p).st ≠ .idle && s.releaseHeld c p)

/-- The core's state is saved: the release of every strand, the save areas, the context buffer, the porter's entries
and keeper sets (R174 to R178). The state is short while a release or a write of them must wait. -/
def State.saveCore (s : State) (c : Nat) (landlord : Bool) (tag : BitVec 4) : State :=
  let s := (s.saveReleases c).ease
  let k := s.core c
  let q := k.porter
  let cur := q.cur.map fun e => { e with pc := (s.regsOf c 6).pc }
  let areas : SMap (List PByte) :=
    ((List.range 6).filter fun p => (s.strand c p).st ≠ .idle).map fun p => (p, s.areaOf c p)
  let v : SavedCore :=
    { tag := tag, landlord := landlord, cur := cur, stack := q.stack, queue := q.queue, keepers := q.keepers
      rep := k.rep, msgs := (q.msgs.take bufferRoom).map some, lost := q.msgs.length - bufferRoom
      areas := areas, guards := k.guards, codebook := k.codebook, outer := none }
  let s := s.bufferWrite c v 0 (bufferImage k v)
  let s := if landlord then s.saveKeeper c tag ⟨cur, q.stack, q.queue⟩ else s
  let k := s.core c
  let q := { k.porter with
    cur := none, stack := [], queue := [], msgs := [], st := .run, wait := .none, line := none }
  s.setCore c { k with
    saved := some v, rep := none, porter := q
    preK := if landlord then k.preK else false, preL := if landlord then false else k.preL }

/-- The landlord takes a core whose keeper has pre-empted it: the keeper's handler stops where it stands. -/
def State.saveOuter (s : State) (c : Nat) (v : SavedCore) : State :=
  let q := s.porter c
  let h : PorterHeld := ⟨q.cur.map fun e => { e with pc := (s.regsOf c 6).pc }, q.stack, q.queue⟩
  let s := s.saveKeeper c v.tag h
  let k := s.core c
  let q := { k.porter with cur := none, stack := [], queue := [], st := .run, wait := .none, line := none }
  s.setCore c { k with saved := some { v with landlord := true, outer := some h }, porter := q, preL := false }

/-- The porter enters the pre-emption handler, doubleword 0 of its table, when it is enabled. When it is not, the core is
saved and no handler runs: the model's choice, since no rule says what happens (log 120). -/
def State.enterPreempt (s : State) (c : Nat) (landlord : Bool) (tag : BitVec 4) : State :=
  let (h, s) := s.handler c tag.toNat landlord 0
  match h with
  | some pc => s.enter c ⟨if landlord then .preL else .preK, landlord, tag, pc⟩ []
  | none => s

/-- The lease's slice has asked for the pre-emption of a core (R405). -/
def State.forLease (s : State) (c : Nat) : Bool := setHas s.porch.lease.saved c

/-- Cores whose pre-emption the lease's slice asks for. -/
def State.leaseAsk (s : State) (l : List Nat) : State :=
  let s := l.foldl (fun s c => s.askPreempt c true) s
  { s with porch := { s.porch with lease := { s.porch.lease with saved := l.foldl setAdd s.porch.lease.saved } } }

/-- A strand of a core that nobody has saved is TRAPPED. -/
def State.anyTrapped (s : State) (c : Nat) : Bool :=
  (s.core c).saved.isNone && (List.range 6).any fun p => (s.strand c p).st = .trapped

/-- PREEMPTION: the strands of the core are stopped, and those of the cores that share a band with it; once all
stand still the core is saved and the handler entered. On a core that its keeper has pre-empted, the landlord's
interrupts the keeper's (R45). A lease's slice lets the keeper entry of a TRAPPED strand complete first, and asks again
(R407). -/
def State.preempt (s : State) (c : Nat) : Option State :=
  let k := s.core c
  let busy : Bool := k.porter.op.isSome || k.porter.wait ≠ .none
  if k.machine then none
  else
    match k.saved with
    | some v =>
      if !k.preL || v.landlord || busy then none
      else ((s.saveOuter c v).enterPreempt c true v.tag).ease.whole
    | none =>
      if !(k.preK || k.preL) then none
      else if k.preL && s.forLease c && s.anyTrapped c then some (s.setCore c { k with preL := false })
      else
        let ll := k.preL
        let tag := if ll then s.firstTag c else k.preTag
        let s := if ll && s.forLease c then s.leaseAsk (s.bandCores c)
          else (s.bandCores c).foldl (fun s d => s.askPreempt d ll) s
        if (List.range 6).all fun p => s.still c p ll then
          if busy || s.saveHeld c then none else ((s.saveCore c ll tag).enterPreempt c ll tag).ease.whole
        else some ((List.range 6).foldl (fun s p => s.preemptStrand c p ll) s)

def execPreemption (c : Nat) (s : State) : Result := .next ((s.preempt c).getD s)

/-! RESUME (R54, R174, R178) -/

/-- A saved strand acquires at .dev and enters its line again (R195), and one that pre-emption stopped goes back to the
state that R174 gives. -/
def State.resumeStrand (s : State) (c p : Nat) : State :=
  let x := s.strand c p
  if x.st = .idle then s
  else
    let s := (s.acquire c .dev).enterLine c p
    if x.st = .stopped && x.stopBy = .preempt then
      let s := s.setStrand c p { s.strand c p with
        stopBy := .none, stopPending := false, left := .idle, leftWait := .none, again := none }
      (s.setSt c p .run).stopIfListed c p
    else s

/-- The tags that a saved core's contents carry (R46). -/
def State.carried (s : State) (c : Nat) (v : SavedCore) (t : Nat) : Bool :=
  v.usesTag s c t || (List.range 6).any fun p => (s.strand c p).st ≠ .idle && (s.strand c p).tag.toNat = t

/-- Whether a core can take what another saved: nothing stands on it, and its cluster holds the context. -/
def State.mayMove (s : State) (src c : Nat) : Bool :=
  let k := s.core c
  k.saved.isNone && k.porter.cur.isNone && k.porter.queue.isEmpty && k.porter.msgs.isEmpty && k.rep.isNone &&
  ((List.range 6).all fun p => (s.strand c p).st = .idle && (s.strand c p).member = .none) &&
  ((List.range 6).all fun p =>
    let x := s.strand src p
    x.st = .idle ||
      ((s.findCtx (clusterOf c) (s.ctx (clusterOf src) x.tag.toNat).img).isSome && !s.hasEntries src p &&
        (match x.member with | .crew _ _ _ _ => clusterOf src = clusterOf c | _ => true)))

/-- Held requests of a core go with it to another (R333). -/
def State.moveHeld (s : State) (src c : Nat) : State :=
  let aim (f : Flit) (m : Msg) : Flit :=
    { f with ddie := dieOf c, dstop := stopOfCluster (clusterOf c), die := dieOf c, msg := m }
  { s with net := s.net.map fun f =>
    if f.stage = .held then
      match f.msg with
      | .remote k d a x sc sp o img => if d = src then aim f (.remote k c a x sc sp o img) else f
      | .spawn d t sc sp o img => if d = src then aim f (.spawn c t sc sp o img) else f
      | _ => f
    else f }

/-- A strand's state changes as its core's contents come or go: the change is stamped (R401). -/
def State.movedSt (s : State) (c p : Nat) (x : Strand) : State :=
  (s.setStrand c p { x with st := .idle }).setSt c p x.st

/-- The ROU's records of a core's regions follow it to another core of its die (R174, R357). -/
def Rou.moveCore (r : Rou) (src c : Nat) : Rou :=
  { r with
    slots := r.slots.map fun e => if e.2.core = src then (e.1, { e.2 with core := c }) else e
    queue := r.queue.map fun q => if q.1 = src then (c, q.2) else q }

/-- Move what a core has saved to another core: strands and save areas, local store, guards, channels, the keeper
sets of the contexts that move, held requests, and the regions of its die. Regions of strands that leave their die abort
with MOVED. -/
def State.moveCore (s : State) (src c : Nat) : State :=
  let s := if dieOf src = dieOf c then s.setRou (dieOf c) ((s.rou (dieOf c)).moveCore src c)
    else (List.range 6).foldl (fun s p => s.abortOwn src p 7) s
  let k := s.core src
  let retag (t : BitVec 4) : BitVec 4 :=
    BitVec.ofNat 4 ((s.findCtx (clusterOf c) (s.ctx (clusterOf src) t.toNat).img).getD t.toNat)
  let kind (e : EntryKind) : EntryKind := match e with
    | .death t i a => .death (retag t) i a
    | .lost t n => .lost (retag t) n
    | e => e
  let entry (e : Entry) : Entry := { e with tag := retag e.tag, kind := kind e.kind }
  let v := k.saved.map fun v => { v with
    tag := retag v.tag
    cur := v.cur.map entry, stack := v.stack.map entry, queue := v.queue.map kind
    keepers := (v.keepers.filter fun e => s.carried src v e.1).foldl (fun m e =>
      mapPut m (retag (BitVec.ofNat 4 e.1)).toNat e.2) (s.porter c).keepers
    msgs := v.msgs.map fun m => m.map fun m => { m with tag := retag m.tag } }
  let s := s.setCore c { s.core c with ls := k.ls, lsP := k.lsP, guards := k.guards, chans := k.chans, saved := v }
  let s := k.strands.foldl (fun s e =>
    (s.setSt src e.1 .idle).movedSt c e.1 { e.2 with tag := retag e.2.tag }) s
  let s := s.setCore src { s.core src with strands := [], chans := [], saved := none }
  (List.range 6).foldl (fun s p => s.reArea c p) (s.moveHeld src c)

/-- The strands of a saved core as their save areas give them back, with the task windows (R175). -/
def State.loadAreas (s : State) (c : Nat) (v : SavedCore) : State :=
  v.areas.foldl (fun s e =>
    let x := s.strand c e.1
    let s := s.setStrand c e.1 (x.ofArea e.2)
    match x.member with
    | .pool _ => s.setCore c (lsRaw (s.core c) (0x5000 + 512 * e.1) (e.2.drop 0x600))
    | _ => s) s

/-- Restore a saved core in place. -/
def State.restoreCore (s : State) (c : Nat) : State :=
  match (s.core c).saved with
  | none => s
  | some v =>
    let k := s.core c
    let q := k.porter
    let lost : List EntryKind := if v.lost = 0 then [] else [.lost v.tag v.lost]
    let trapped : Bool := match v.queue with | .landlord _ :: _ => true | _ => false
    let q := { q with
      keepers := v.keepers, cur := v.cur, stack := v.stack, queue := v.queue ++ lost ++ q.queue
      msgs := v.msgs.filterMap id ++ q.msgs, st := if trapped then .trapped else .run, wait := .none, line := none }
    let s := s.setCore c { k with
      porter := q, rep := v.rep, saved := none, guards := v.guards, codebook := v.codebook }
    let s := s.loadAreas c v
    let s := match v.cur with
      | some e => (s.setRegsOf c 6 { s.regsOf c 6 with pc := e.pc }).enterLine c 6
      | none => s
    -- its buffers accept words again
    let s := s.roomFreed
    let s := (List.range 4).foldl (fun s p =>
      match neighbour c p with
      | some n => s.queueFreed (clusterOf n)
      | none => s) s
    (List.range 6).foldl (fun s p => s.resumeStrand c p) s

/-- The keeper's handler that the landlord interrupted goes on at the instruction where it stopped (R177). -/
def State.restoreOuter (s : State) (c : Nat) (v : SavedCore) (h : PorterHeld) : State :=
  let (keepers, s) := s.loadKeeper c v.tag h (s.porter c).keepers
  let k := s.core c
  let trapped : Bool := match h.queue with | .landlord _ :: _ => true | _ => false
  let q := { k.porter with
    keepers := keepers, cur := h.cur, stack := h.stack, queue := h.queue ++ k.porter.queue
    st := if trapped then .trapped else .run, wait := .none, line := none }
  let s := s.setCore c { k with porter := q, saved := some { v with landlord := false, outer := none } }
  match h.cur with
  | some e => (s.setRegsOf c 6 { s.regsOf c 6 with pc := e.pc }).enterLine c 6
  | none => s

/-- A core of the same bands is ready to resume with another: it is saved, and its handler has ended. -/
def State.peerReady (s : State) (d : Nat) : Bool :=
  let k := s.core d
  match k.saved with
  | some v => v.outer.isNone && k.porter.cur.isNone
  | none => !k.preK && !k.preL

/-- A core holds strands of devices other than one, the idle strands of their pools among them. -/
def State.holdsOthers (s : State) (c vd : Nat) : Bool :=
  (List.range 6).any fun p =>
    let x := s.strand c p
    (x.st ≠ .idle && (s.ctx (clusterOf c) x.tag.toNat).img.vd ≠ vd) ||
      (match s.launchOf x with | some l => l.vd ≠ vd | none => false)

/-- A slice runs, and a core holds strands of other devices: none of their work runs until it ends (R405). -/
def State.leaseBars (s : State) (c : Nat) : Bool :=
  match s.porch.lease.active with
  | some vd => s.holdsOthers c vd
  | none => false

/-- RESUME: what was saved on a core resumes, there or on another core, and with it the other saved cores of its
crews and bands, which resume whole (R54); the handlers have ended. While a slice runs, other devices' cores stay
saved. -/
def State.resume (s : State) (c src : Nat) : Option State :=
  match (s.core src).saved with
  | none => none
  | some v =>
    let peers := s.peersOf src
    if (s.porter src).cur.isSome || s.leaseBars src then none
    else
      match v.outer with
      | some h => if c = src then (s.restoreOuter c v h).ease.whole else none
      | none =>
        if !peers.all s.peerReady then none
        else
          let t := s.reload src
          let back : Option State :=
            if c = src then some (t.restoreCore c)
            else if s.mayMove src c then some ((t.moveCore src c).restoreCore c)
            else none
          back.bind fun t => (peers.foldl (fun t d => (t.reload d).restoreCore d) t).ease.whole

def execResume (c src : Nat) (s : State) : Result := .next ((s.resume c src).getD s)

/-! The profiling lease (R405) -/

/-- Cores that a slice of a device has still to pre-empt; one that a machine check has stopped runs nothing. -/
def State.leaseCores (s : State) (vd : Nat) : List Nat :=
  (s.cores.map (·.1)).filter fun c =>
    s.holdsOthers c vd && !(s.core c).machine && !(s.core c).saved.any (·.landlord)

/-- Requests of other devices are in flight. -/
def State.othersInFlight (s : State) (vd : Nat) : Bool :=
  s.net.any (fun f => f.vd ≠ vd && f.vd < 64) ||
    (List.range 8).any fun d => (s.die d).hbm.any fun r => r.vd ≠ vd && r.vd < 64 && !r.free

/-- LEASE_SLICE_START: cores with strands of other devices are pre-empted, those with a TRAPPED strand after its keeper
entry (R407); when they all are, and what they had in flight has completed, the slice begins. -/
def State.leaseStart (s : State) : Option State :=
  let l := s.porch.lease
  match l.active, l.queue with
  | none, vd :: _ =>
    let w := mapGet 0 l.words vd
    let len := (w.extractLsb' 0 32).toNat
    let slices := (w.extractLsb' 48 16).toNat
    if slices = 0 || len = 0 || s.cycle < l.notBefore || !l.owed.isEmpty then none
    else
      match (s.leaseCores vd).filter fun c => !(s.core c).preL && !s.anyTrapped c with
      | c :: t => some (s.leaseAsk (c :: t))
      | [] =>
        if !(s.leaseCores vd).isEmpty || s.othersInFlight vd then none
        else
          let w : Word := BitVec.ofNat 64 ((slices - 1) * 2 ^ 48 + len)
          let l := { l with words := mapPut l.words vd w, active := some vd, endAt := s.cycle + len }
          some { s with porch := { s.porch with lease := l } }
  | _, _ => none

def execLeaseSliceStart (s : State) : Result := .next (s.leaseStart.getD s)

/-- The cores that a slice pre-empted resume as their handlers end; one whose pre-emption is still under way waits for
its end. -/
def State.resumeOwed (s : State) : State :=
  s.porch.lease.owed.foldl (fun s c =>
    let done (s : State) : State :=
      { s with porch := { s.porch with lease := { s.porch.lease with owed := setDel s.porch.lease.owed c } } }
    if (s.core c).saved.any (·.landlord) then
      match s.resume c c with
      | some t => done t
      | none => s
    else if (s.core c).preL then s
    else done s) s

/-- LEASE_SLICE_END: the slice's cycles have passed; the other devices' cores that its start pre-empted resume, for as
long at least. -/
def State.leaseEnd (s : State) : Option State :=
  let l := s.porch.lease
  match l.active with
  | none =>
    let t := s.resumeOwed
    if t.porch.lease.owed = l.owed then none else some t
  | some vd =>
    if s.cycle < l.endAt then none
    else
      let w := mapGet 0 l.words vd
      let len := (w.extractLsb' 0 32).toNat
      let done : Bool := w.extractLsb' 48 16 = 0
      let l := { l with
        active := none, notBefore := s.cycle + len, saved := [], owed := l.saved
        queue := if done then l.queue.filter (· ≠ vd) else l.queue }
      some ({ s with porch := { s.porch with lease := l } }).resumeOwed

def execLeaseSliceEnd (s : State) : Result := .next (s.leaseEnd.getD s)

end Sys2Proof.Machine
end

