-- ==== Sys2Proof/Machine/SchedFam.lean ====
section
/-! DEFINITION. Task queues, steals, pools, launches and migration (R53 to R75, R339, R342 to R349, R418,
R419). -/

namespace Sys2Proof.Machine

/-- While a lease slice runs, work of other devices is not placed (R405). -/
def State.leaseAllows (s : State) (vd : Nat) : Bool :=
  match s.porch.lease.active with
  | some v => v = vd
  | none => true

/-- A core takes part in scheduling: it is not saved, stopped, or about to be pre-empted. -/
def State.coreOpen (s : State) (c : Nat) : Bool :=
  let k := s.core c
  k.saved.isNone && !k.machine && !k.preK && !k.preL

/-! Queues (R61 to R65) -/

/-- A strand is an idle member of a pool: the pool's launch and its virtual device. -/
def State.idlePool (s : State) (c p : Nat) : Option (Nat × Launch) :=
  let x := s.strand c p
  match x.member with
  | .pool l =>
    if x.st = .idle && s.coreOpen c then (mapGet? s.porch.launches l).map fun y => (l, y) else none
  | _ => none

/-- TASK_POP: an idle pool strand takes a record (R63, R64). A record whose tag names no loaded context dies with
CONTEXT_FATAL. -/
def State.taskPop (s : State) (c p : Nat) : Option State :=
  match s.idlePool c p with
  | none => none
  | some (_, l) =>
    if l.retired || !s.leaseAllows l.vd then none
    else
      let cl := clusterOf c
      let k := s.cluster cl
      let loaded (t : Task) : Bool := (s.ctx cl t.tag.toNat).loaded
      match popChoice (fun t => !loaded t || s.taskOk cl l.vd t) 4 k.queue with
      | none => none
      | some t =>
        let live := loaded t
        let s := s.setCluster cl { k with queue := k.queue.erase t }
        let s := if live then s.startTask c p t
          else s.reportDeath { Strand.init with
            gti := t.gti, parent := t.parent, tag := t.tag, join := t.join, host := t.host
            regs := { RegSet.zero with pc := t.pc }, last := t.pc } c p 0x12 0 0
        some (s.queueFreed cl)

def execTaskPop (c p : Nat) (s : State) : Result := .next ((s.taskPop c p).getD s)

/-- TASK_PRIORITY_AGING: an entry of the hardware queue has waited 65,536 cycles at its priority (R63); a spilled one
does not age (log 101). -/
def State.taskAging (s : State) (cl j : Nat) : Option State :=
  let k := s.cluster cl
  match k.queue[j]? with
  | none => none
  | some t =>
    if t.prio = 0 || s.cycle < t.since + 65536 then none
    else some (s.setCluster cl { k with queue := listSet k.queue j { t with prio := t.prio - 1, since := s.cycle } })

def execTaskPriorityAging (cl j : Nat) (s : State) : Result := .next ((s.taskAging cl j).getD s)

/-- SPILL_REFILL: the oldest spilled entry moves into a free entry of the queue (R62). -/
def State.spillRefill (s : State) (cl : Nat) : Option State :=
  let k := s.cluster cl
  match k.spill with
  | [] => none
  | t :: r =>
    if queueRoom k = 0 then none
    else some ((s.setCluster cl { k with queue := k.queue ++ [{ t with cell := 0 }], spill := r }).queueFreed cl)

def execSpillRefill (cl : Nat) (s : State) : Result := .next ((s.spillRefill cl).getD s)

/-! Built-in handlers (R45, R339) -/

/-- The porter of a core can serve a built-in handler: no keeper entry waits. -/
def State.builtinReady (s : State) (c : Nat) : Bool := s.porterFree c && (s.porter c).queue.isEmpty

/-- The present cycle is one of position 6 that neither the porter, the repeater nor a built-in handler has used: a
built-in handler takes one (R44, R45). -/
def State.free6 (s : State) (c : Nat) : Bool :=
  let k := s.core c
  s.cycle % 8 = 6 && k.builtin ≤ s.cycle && k.porter.notBefore ≤ s.cycle && k.rep.all fun r => r.notBefore ≤ s.cycle

/-- A built-in handler has taken the porter's cycle: the repeater does not issue in it (R44). -/
def State.tookSix (s : State) (c : Nat) : State :=
  let k := s.core c
  s.setCore c { k with
    builtin := s.cycle + 1, rep := k.rep.map fun r => { r with notBefore := max r.notBefore (s.cycle + 1) } }

/-- A record that arrives: refused, or enqueued with the matching tag and a new GTI (R339). -/
def State.spawnAt (s : State) (cl : Nat) (t : Task) (img : Option CtxImage) : Option State :=
  match img with
  | none => none
  | some x =>
    match s.findCtx cl x with
    | none => none
    | some tag =>
      let (g, s) := s.newGti (dieOfCluster cl) x.vd
      s.enqueue cl { t with tag := BitVec.ofNat 4 tag, gti := g, time := s.cycle, since := s.cycle }

/-- SPAWN_RECEIVE: the destination's porter places a spawned record in a cycle of its own, or refuses it; the answer
goes back. A saved core holds it until it resumes (R333). -/
def State.spawnReceive (s : State) (i : Nat) : Option State :=
  match s.flit? i with
  | none => none
  | some f =>
    match f.msg with
    | .spawn core t score spos op img =>
      if !s.builtinReady core then
        match (s.core core).saved, f.stage with
        | some v, .ejected => ((s.hold i).spillMsg core v none).ease.whole
        | _, _ => none
      else if !s.free6 core then none
      else
        match s.spawnAt (clusterOf core) t img with
        | some s => ((s.tookSix core).answer f (.ack score spos op 1 false false none)).ease.whole
        | none => some ((s.tookSix core).answer f (.ack score spos op 0 false false none))
    | _ => none

def execSpawnReceive (i : Nat) (s : State) : Result := .next ((s.spawnReceive i).getD s)

/-! Steals (R67, R68) -/

/-- The neighbours of a cluster for a virtual device: the valid entries of a context's list; of several contexts of the
device, the one with the lowest tag, which is the model's choice (log 117). -/
def State.neighbours (s : State) (cl vd : Nat) : List Nat :=
  match (List.range 16).find? fun t => (s.ctx cl t).loaded && (s.ctx cl t).img.vd = vd with
  | none => []
  | some t => ((List.range 8).map (s.nbr cl t)).filterMap fun w =>
      if w.getLsbD 15 then some (512 * dieOfCluster cl + (w.extractLsb' 0 9).toNat) else none

/-- A cluster has an idle pool strand of a virtual device. -/
def State.hungry (s : State) (cl vd : Nat) : Bool :=
  (coresOf cl).any fun c => (List.range 6).any fun p =>
    match s.idlePool c p with
    | some (_, l) => l.vd = vd && !l.retired
    | none => false

/-- STEAL_REQUEST: a cluster with nothing to run asks the next cluster of its list, the one after the last that it
asked (log 101), reserving four entries. -/
def State.stealRequest (s : State) (cl vd : Nat) : Option State :=
  let k := s.cluster cl
  let x := mapGet Steal.init k.steal vd
  let l := s.neighbours cl vd
  if !k.queue.isEmpty || !k.spill.isEmpty || x.waiting || x.retryAt.isSome || queueRoom k < 4 ||
      !s.hungry cl vd || !s.leaseAllows vd then none
  else
    match l[x.next % l.length]? with
    | none => none
    | some v =>
      let s := s.setCluster cl { k with steal := mapPut k.steal vd { x with waiting := true } }
      some (s.sendFrom cl (dieOfCluster v) (stopOfCluster v) vcMSG vd 0 (.steal v cl vd))

def execStealRequest (cl vd : Nat) (s : State) : Result := .next ((s.stealRequest cl vd).getD s)

/-- Entries by priority, the oldest first. -/
def taskInsert (t : Task) : List Task → List Task
  | [] => [t]
  | x :: r => if t.prio < x.prio || (t.prio = x.prio && t.time ≤ x.time) then t :: x :: r else x :: taskInsert t r

def byPriority (l : List Task) : List Task := l.foldr taskInsert []

/-- The entries that a victim ships: of its hardware queue, whose records alone are counted (log 101). -/
def State.shipment (s : State) (victim thief vd : Nat) : List Task :=
  let ok (t : Task) : Bool := s.taskOk victim vd t && (s.findCtx thief (s.ctx victim t.tag.toNat).img).isSome
  let l := (s.cluster victim).queue.filter ok
  (byPriority l).take (min 4 ((l.length + 1) / 2))

/-- STEAL_SHIPMENT: the victim answers: records into the reserved entries, their tags rewritten, or empty; when
every neighbour has answered empty the thief waits 1,024 cycles. -/
def State.stealShipment (s : State) (i : Nat) : Option State :=
  match s.flit? i with
  | none => none
  | some f =>
    match f.msg with
    | .steal victim thief vd =>
      let l := s.shipment victim thief vd
      let moved := l.map fun t =>
        { t with tag := BitVec.ofNat 4 ((s.findCtx thief (s.ctx victim t.tag.toNat).img).getD 0) }
      let n := (s.neighbours thief vd).length
      let s := s.drop i
      let v := s.cluster victim
      let s := s.setCluster victim { v with queue := l.foldl (fun q t => q.erase t) v.queue }
      let k := s.cluster thief
      let x := mapGet Steal.init k.steal vd
      let next := if n = 0 then 0 else (x.next + 1) % n
      let x : Steal :=
        if !l.isEmpty then ⟨next, 0, false, none⟩
        else if x.asked + 1 < n then ⟨next, x.asked + 1, false, none⟩
        else ⟨next, 0, false, some (s.cycle + 1024)⟩
      let s := s.setCluster thief { k with queue := k.queue ++ moved, steal := mapPut k.steal vd x }
      let s := moved.foldl (fun s t => s.useCtx thief t.tag.toNat) s
      some (s.queueFreed victim)
    | _ => none

def execStealShipment (i : Nat) (s : State) : Result := .next ((s.stealShipment i).getD s)

/-- STEAL_RETRY_TIMER: the wait after a round of empty answers is over. -/
def State.stealRetry (s : State) (cl : Nat) : Option State :=
  let k := s.cluster cl
  let over' (x : Steal) : Bool := match x.retryAt with | some t => t ≤ s.cycle | none => false
  if k.steal.any fun e => over' e.2 then
    some (s.setCluster cl { k with
      steal := k.steal.map fun e => (e.1, if over' e.2 then { e.2 with retryAt := none } else e.2) })
  else none

def execStealRetryTimer (cl : Nat) (s : State) : Result := .next ((s.stealRetry cl).getD s)

/-! Pools (R58) -/

/-- POOL_IDLE_TIMEOUT: a pool strand has been idle for its launch's limit, and leaves. -/
def State.poolTimeout (s : State) (c p : Nat) : Option State :=
  match s.idlePool c p with
  | none => none
  | some (_, l) =>
    if l.idle = 0 || s.cycle < (s.strand c p).idleSince + l.idle then none else some (s.endStrand c p true)

def execPoolIdleTimeout (c p : Nat) (s : State) : Result := .next ((s.poolTimeout c p).getD s)

/-- Idle strands of a launch's pool. -/
def State.idleOf (s : State) (n : Nat) : List (Nat × Nat) :=
  s.cores.flatMap fun e => ((List.range 6).filter fun p =>
    match s.idlePool e.1 p with
    | some (l, _) => l = n
    | none => false).map fun p => (e.1, p)

/-- LAUNCH_RETIREMENT: the keeper retires a pool launch: its idle strands leave, the others once they are idle. -/
def State.retireLaunch (s : State) (n : Nat) : Option State :=
  match mapGet? s.porch.launches n with
  | none => none
  | some l =>
    if !l.pool then none
    else
      let s := { s with porch := { s.porch with launches := mapPut s.porch.launches n { l with retired := true } } }
      some ((s.idleOf n).foldl (fun s q => s.endStrand q.1 q.2 true) s)

def execLaunchRetirement (n : Nat) (s : State) : Result := .next ((s.retireLaunch n).getD s)

/-! Host-launch contexts (R419) -/

/-- Bytes by DVA under a root, page by page; none when a page does not translate. -/
def State.readImage (s : State) (vd root dva n : Nat) : Option (List Byte) :=
  (splitPages dva n).foldl (fun r q =>
    match r, s.walk root q.dva with
    | some l, .ok x =>
      if s.checkLeaf vd (.load (.ls 0)) x ≠ 0 || !x.near then none
      else
        let (sp, a) := keyOf x vd q.dva
        some (l ++ ((s.homeBytes sp x a q.len).map (·.v)))
    | _, _ => none) (some [])

/-- The DVA ranges of a page at a time. -/
def pageCuts : Nat → Nat → Nat → List (Nat × Nat)
  | 0, _, _ => []
  | fuel + 1, a, n =>
    if n = 0 then []
    else
      let k := min n (2 ^ 16 - a % 2 ^ 16)
      (a, k) :: pageCuts fuel (a + k) (n - k)

def State.readLong (s : State) (vd root dva n : Nat) : Option (List Byte) :=
  (pageCuts 4 dva n).foldl (fun r q =>
    match r, s.readImage vd root q.1 q.2 with
    | some l, some m => some (l ++ m)
    | _, _ => none) (some [])

/-- Words of bytes, eight at a time. -/
def dwordsOf (b : List Byte) (n : Nat) : List Word :=
  (List.range n).map fun j => BitVec.ofNat 64 (leNat ((b.drop (8 * j)).take 8))

/-- The context that a 64-byte context record describes; none when the record fails R419 or what it names does
not translate. -/
def State.ctxOfRecord (s : State) (vd pa : Nat) : Option CtxImage :=
  let b := (s.homeBytes .phys (s.leafAt pa) pa 64).map (·.v)
  let w := dwordsOf b 8
  let d (j : Nat) : Word := word w j
  let len := (d 3).toNat
  let lslen := (d 7).toNat
  if (d 0).extractLsb' 16 48 ≠ 0 || (d 1) &&& (~~~0x0000FFFFFFFE0000) ≠ 0 || len = 0 || 8192 < len || 0x6000 < lslen
  then none
  else
    let root := (d 1).toNat
    match s.readLong vd root (d 2).toNat (12 * len), s.readLong vd root (d 5).toNat 128,
        (if (d 6) = 0 then some [] else s.readLong vd root (d 6).toNat lslen) with
    | some code, some t, some ls =>
      let tw := dwordsOf t 16
      some { vd := vd, asid := (d 0).toNat, root := root, image := (d 2).toNat
             code := (List.range len).map fun j => BitVec.ofNat 96 (leNat ((code.drop (12 * j)).take 12))
             htab := (d 4).toNat
             tmpl := Vector.ofFn fun j : Fin 8 => segOfWords (word tw (2 * j.val)) (word tw (2 * j.val + 1))
             lsimg := ls }
    | _, _, _ => none

/-- The host-launch context of a virtual device. -/
def State.hostImage (s : State) (vd : Nat) : Option CtxImage :=
  let pa := (mapGet 0 s.porch.hostctx vd).toNat
  if pa = 0 || !populated pa then none else s.ctxOfRecord vd pa

/-! Placement (R53 to R58, R70, R348, R349, R418) -/

/-- Idle positions of a core that no launch holds, saved or not (R53); a machine check has stopped a core for good
(R164). -/
def State.freePos (s : State) (c : Nat) : List Nat :=
  if (s.core c).machine then []
  else (List.range 6).filter fun p => (s.strand c p).st = .idle && (s.strand c p).member = .none

/-- A core can take `n` strands of a context (R53, R418). -/
def State.coreFits (s : State) (c n : Nat) (img : CtxImage) : Bool :=
  let l := s.freePos c
  n ≤ l.length && (img.lsimg.isEmpty || l.length = 6)

/-- The cores of a cluster that a crew takes: the lowest that qualify. -/
def State.crewCores (s : State) (cl cores n : Nat) (img : CtxImage) : Option (List Nat) :=
  let l := ((coresOf cl).filter fun c => s.coreFits c n img).take cores
  if l.length = cores then some l else none

/-- A free barrier unit of a cluster. -/
def State.freeUnit (s : State) (cl : Nat) : Option Nat :=
  (List.range 8).find? fun i => !(mapGet BarUnit.init (s.cluster cl).bars i).used

/-- A crew fits on a cluster. -/
def State.crewFits (s : State) (cl cores n : Nat) (img : CtxImage) : Bool :=
  (s.crewCores cl cores n img).isSome && (cores * n < 2 || (s.freeUnit cl).isSome)

/-- The clusters of a die, the lowest first. -/
def clustersOf (d : Nat) : List Nat := (List.range 512).map (512 * d + ·)

def State.freeBand (s : State) (d : Nat) : Option Nat :=
  (List.range 64).find? fun i => (mapGet? (s.die d).bands i).isNone

/-- The clusters on which a band goes (R54, R348). -/
def State.bandPlace (s : State) (d : Nat) (r : LRec) (img : CtxImage) : Option (List Nat) :=
  let b := lBand r.dws
  let l := ((clustersOf d).filter fun k => s.crewFits k (lCores r.dws) (lStrands r.dws) img).take b
  if l.length = b && (b < 2 || (s.freeBand d).isSome) then some l else none

/-- The clusters that a pool takes. -/
def poolClusters (d : Nat) (l : List Word) : List Nat := (List.range (lCrews l)).map (512 * d + lFirst l + ·)

/-- A pool's whole reservation fits on a die. -/
def State.poolFits (s : State) (d : Nat) (r : LRec) (img : CtxImage) : Bool :=
  (poolClusters d r.dws).all fun k => (s.crewCores k (lCores r.dws) (lStrands r.dws) img).isSome

/-- Every cluster on which a record goes has a slot for its context; else the launch waits (R70). -/
def State.slotsFor (s : State) (d : Nat) (r : LRec) (img : CtxImage) : Bool :=
  ((if lPool r.dws then some (poolClusters d r.dws) else s.bandPlace d r img).getD []).all fun k =>
    (s.loadCtx k img).isSome

/-- Idle strands of a die that no pool reserves (R56). -/
def State.idleCount (s : State) (d : Nat) : Nat :=
  49152 - (s.cores.map fun e =>
    if dieOf e.1 = d then
      (e.2.strands.filter fun y => y.2.st ≠ .idle || (match y.2.member with | .pool _ => true | _ => false)).length
    else 0).sum

/-- The die that a record goes to now. -/
def State.dieFor (s : State) (q : Nat) (r : LRec) (img : CtxImage) : Option Nat :=
  let fits (d : Nat) : Bool := if lPool r.dws then s.poolFits d r img else (s.bandPlace d r img).isSome
  if q < 8 then (if fits q then some q else none)
  else ((List.range 8).filter fits).foldl (fun b d =>
    match b with
    | none => some d
    | some x => if s.idleCount x < s.idleCount d then some d else some x) none

/-- The local-store image is written into a core (R418). -/
def State.writeLsImage (s : State) (c : Nat) (img : List Byte) : State :=
  let k := s.core c
  s.setCore c { k with
    ls := memWriteList k.ls 0 img, lsP := k.lsP.filter fun w => (img.length + 7) / 8 ≤ w }

/-- A core is made ready for a crew: an idle core's input buffers are emptied (R349), the image is written. -/
def State.readyCore (s : State) (c : Nat) (img : CtxImage) (crew : Bool) : State :=
  let idle : Bool := (List.range 6).all fun p => (s.strand c p).st = .idle
  let s := if crew && idle then s.setCore c { s.core c with chans := [] } else s
  if img.lsimg.isEmpty then s else s.writeLsImage c img.lsimg

/-- The registers of a crew strand (R55). -/
def crewRegs (r : LRec) (img : CtxImage) (m rank : Nat) : RegSet :=
  let n (x : Nat) : PWord := ⟨BitVec.ofNat 64 x, false⟩
  let x : RegSet := { RegSet.zero with g := img.tmpl, pc := lPc r.dws }
  ((((x.setS 3 ⟨lArg r.dws, false⟩).setS 4 (n m)).setS 5 (n rank)).setS 6
    (n (lCores r.dws * 256 + lStrands r.dws))).setS 7 (n (lBand r.dws))

/-- Start the strands of a crew on a cluster. -/
def State.placeCrew (s : State) (r : LRec) (img : CtxImage) (launch cl rank : Nat) : State :=
  match s.loadCtx cl img, s.crewCores cl (lCores r.dws) (lStrands r.dws) img with
  | some (tag, s), some cores =>
    let n := lStrands r.dws
    let live := lCores r.dws * n
    let s := if live < 2 then s else
      match s.freeUnit cl with
      | some i => s.setUnit cl i { BarUnit.init with
          used := true, launch := launch, band := r.bands, rank := rank, live := live }
      | none => s
    let places := cores.zipIdx.flatMap fun c => ((s.freePos c.1).take n).zipIdx.map fun p => (c.1, p.1, c.2 * n + p.2)
    let s := cores.foldl (fun s c => s.readyCore c img true) s
    places.foldl (fun s q =>
      let (g, s) := s.newGti (dieOfCluster cl) img.vd
      let x := s.strand q.1 q.2.1
      s.startStrand q.1 q.2.1 { x.started (crewRegs r img q.2.2 rank) g r.parent (BitVec.ofNat 4 tag)
        (.crew launch r.bands rank q.2.2) 0 with host := r.host }) s
  | _, _ => s

/-- Replace or remove the head of a launch queue. -/
def State.setHead (s : State) (q vd : Nat) (r : Option LRec) : State :=
  let upd (l : List LRec) : List LRec := match r with | some x => x :: l.drop 1 | none => l.drop 1
  if q < 8 then
    let x := s.die q
    s.setDie q { x with launchQ := mapPut x.launchQ vd (upd (mapGet [] x.launchQ vd)) }
  else { s with porch := { s.porch with anyQ := mapPut s.porch.anyQ vd (upd (mapGet [] s.porch.anyQ vd)) } }

def State.queueHead (s : State) (q vd : Nat) : Option LRec :=
  (if q < 8 then mapGet [] (s.die q).launchQ vd else mapGet [] s.porch.anyQ vd).head?

/-- The launch of a record, begun with its first band or its pool. -/
def State.beginLaunch (s : State) (r : LRec) (img : CtxImage) (bands : Nat) : Nat × State :=
  match r.launch with
  | some n => (n, s)
  | none =>
    let n := s.porch.nextLaunch
    let l : Launch :=
      { vd := img.vd, img := img, parent := r.parent, join := lJoin r.dws, host := r.host, pool := lPool r.dws
        idle := lIdle r.dws, toPlace := bands, live := 0, lastCluster := 0, done := false, retired := false }
    (n, { s with porch := { s.porch with launches := mapPut s.porch.launches n l, nextLaunch := n + 1 } })

/-- A launch has strands placed. -/
def State.launchMore (s : State) (n placed strands : Nat) : State :=
  match mapGet? s.porch.launches n with
  | none => s
  | some l => { s with porch := { s.porch with
      launches := mapPut s.porch.launches n { l with toPlace := l.toPlace - placed, live := l.live + strands } } }

/-- Place the next band of a record on a die. -/
def State.placeBand (s : State) (q vd d : Nat) (r : LRec) (img : CtxImage) : State :=
  match s.bandPlace d r img with
  | none => s
  | some cls =>
    let bands := lCrews r.dws / lBand r.dws
    let (n, s) := s.beginLaunch r img bands
    let s := s.launchMore n 1 (cls.length * lCores r.dws * lStrands r.dws)
    let s := if cls.length < 2 then s else
      match s.freeBand d with
      | some i =>
        let x := s.die d
        s.setDie d { x with bands := mapPut x.bands i ⟨n, r.bands, cls, []⟩ }
      | none => s
    let s := cls.zipIdx.foldl (fun s k => s.placeCrew r img n k.1 k.2) s
    s.setHead q vd (if r.bands + 1 < bands then some { r with launch := some n, bands := r.bands + 1 } else none)

/-- Reserve the strands of a pool on a die and enqueue its first record (R58, R342). -/
def State.placePool (s : State) (q vd d : Nat) (r : LRec) (img : CtxImage) : Option State :=
  let cls := poolClusters d r.dws
  let (n, s) := s.beginLaunch r img 1
  let s := cls.foldl (fun s k =>
    match s.loadCtx k img, s.crewCores k (lCores r.dws) (lStrands r.dws) img with
    | some (tag, s), some cores =>
      cores.foldl (fun s c =>
        let ps := (s.freePos c).take (lStrands r.dws)
        let s := s.readyCore c img false
        ps.foldl (fun s p =>
          s.setStrand c p { Strand.init with
            member := .pool n, tag := BitVec.ofNat 4 tag, idleSince := s.cycle
            notBefore := (s.strand c p).notBefore }) s) s
    | _, _ => s) s
  let s := s.launchMore n 1 (cls.length * lCores r.dws * lStrands r.dws)
  match cls.head?.bind fun k => (s.findCtx k img).map fun t => (k, t) with
  | none => none
  | some (k, t) =>
    let (g, s) := s.newGti d img.vd
    let rec' : Task :=
      { prio := lPrio r.dws, since := s.cycle, tag := BitVec.ofNat 4 t, pc := lPc r.dws, frame := 0, join := 0
        arg := lArg r.dws, gti := g, parent := r.parent, time := s.cycle, host := r.host }
    (s.enqueue k rec').bind fun s => (s.setHead q vd none).ease.whole

/-- A host record whose context record fails at placement is reported as refused. -/
def State.refuseHost (s : State) (r : LRec) (status : Nat) : State :=
  match r.host with
  | some (vf, slot) => s.complete? vf (completionBytes 0 slot 3 status 0 0 0)
  | none => s

/-- LAUNCH_PLACEMENT: the scheduler of a queue places what fits of the record at its head. -/
def State.launchPlacement (s : State) (q vd : Nat) : Option State :=
  match s.queueHead q vd with
  | none => none
  | some r =>
    if !s.leaseAllows vd then none
    else
      match (if r.host.isSome && r.launch.isNone then s.hostImage vd else some r.img) with
      | none => some ((s.refuseHost r 2).setHead q vd none)
      | some img =>
        let r := { r with img := img }
        match s.dieFor q r img with
        | none => none
        | some d =>
          if !s.slotsFor d r img then none
          else if lPool r.dws then s.placePool q vd d r img else some (s.placeBand q vd d r img)

def execLaunchPlacement (q vd : Nat) (s : State) : Result := .next ((s.launchPlacement q vd).getD s)

/-! LAUNCH_COMPLETE (R57 to R59, R395) -/

/-- A launch is over: its device counts it (R393), the host gets its entry, and its record is gone. -/
def State.closeLaunch (s : State) (n : Nat) (l : Launch) : State :=
  let s := { s with porch := { s.porch with launches := mapDel s.porch.launches n } }
  let s := s.setVf l.vd { s.vf l.vd with nlaunch := (s.vf l.vd).nlaunch + 1 }
  match l.host with
  | some (vf, slot) => s.complete? vf (completionBytes 0 slot 1 0 0 0 0)
  | none => s

/-- The JOIN of a launch's counter by a die scheduler, at device scope; one that does not translate is logged
as a store is. -/
def State.launchJoin (s : State) (l : Launch) : Option State :=
  let cl := l.lastCluster
  match s.loadCtx cl l.img with
  | none => none
  | some (t, s) =>
    let tag := BitVec.ofNat 4 t
    let dva := l.join.toNat % 2 ^ 56
    match s.translate (16 * cl) cl t false (.join none) dva with
    | (.error sub, s) =>
      if s.short.isSome || logFree (s.cluster cl) = 0 then none
      else some (s.addLog (16 * cl) 7 (.join none) dva (natBytes 8 0) sub l.parent tag false)
    | (.ok x, s) =>
      let (sp, a) := keyOf x l.vd dva
      if !x.near then
        let (b, s) := s.farRead a 40
        let k := bytesNat (b.take 4)
        if k = 0 then some s
        else
          let s := s.farWrite a (natBytes 4 (k - 1))
          if k = 1 then s.enqueueCont cl tag l.parent (wordsOfBytes (b.drop 8)) l.host else some s
      else if s.blocked sp x a 8 true || s.busyAt sp x a 8 then none
      else
        match (s.settle noCluster sp x a 40 64).joinAt noCluster sp x l.vd a with
        | .zero s | .poison s => some s
        | .done s none => some s
        | .done s (some c) => s.enqueueCont cl tag l.parent c l.host

/-- LAUNCH_COMPLETE: the last strand of the last band has halted, or the last pool strand has left. -/
def State.launchComplete (s : State) (n : Nat) : Option State :=
  match mapGet? s.porch.launches n with
  | none => none
  | some l =>
    if l.toPlace ≠ 0 || l.live ≠ 0 then none
    else if l.join = 0 then some (s.closeLaunch n l)
    else (s.launchJoin l).bind fun s => (s.closeLaunch n l).ease.whole

def execLaunchComplete (n : Nat) (s : State) : Result := .next ((s.launchComplete n).getD s)

/-! MIGRATION (R73 to R75) -/

/-- A strand is eligible to migrate, where its count has passed the limit or HINT 2 has set it to all ones; HINT 3 keeps
it where it is (R319). -/
def State.mayMigrate (s : State) (c p : Nat) : Bool :=
  let x := s.strand c p
  let lim := (s.die (dieOf c)).miglimit.toNat
  x.st = .run && (match x.member with | .pool _ => true | _ => false) && lim ≠ 0 &&
  (lim < x.remote.toNat || x.remote = BitVec.allOnes 32) && !x.hint3 && x.op.isNone && !s.repBusy c p && x.region.isNone && (s.jobsOfGti (clusterOf c) x.gti).isEmpty &&
  !s.hasEntries c p && !x.stopPending && s.coreOpen c

/-- An idle pool strand of the same virtual device on a cluster of a die with a matching context: the lowest core's,
there the lowest position's (log 101). -/
def State.migrationTarget (s : State) (d vd : Nat) (img : CtxImage) : Option (Nat × Nat × Nat) :=
  (s.cores.filter fun e => dieOf e.1 = d).findSome? fun e =>
    match s.findCtx (clusterOf e.1) img with
    | none => none
    | some t => ((List.range 6).find? fun p =>
        match s.idlePool e.1 p with
        | some (_, l) => l.vd = vd && !l.retired
        | none => false).map fun p => (e.1, p, t)

/-- MIGRATION: the strand moves to the reserved strand with its save area and its task window (R75, R175), or its
count is reset. -/
def State.migrate (s : State) (c p : Nat) : Option State :=
  let x := s.strand c p
  if !s.mayMigrate c p then none
  else
    let img := (s.ctx (clusterOf c) x.tag.toNat).img
    match s.migrationTarget x.target img.vd img with
    | none => some (s.setStrand c p { x with remote := 0 })
    | some (d, q, t) =>
      if s.releaseHeld c p then none
      else
        let s := (s.releaseAll c p).ease
        let area := s.areaOf c p
        let y := s.strand d q
        let s := s.setCore d (lsRaw (s.core d) (0x5000 + 512 * q) (area.drop 0x600))
        let s := s.endStrand c p false
        let (h, s) := s.handler d t false 0x13
        (s.startStrand d q { x.ofArea area with
          tag := BitVec.ofNat 4 t, member := y.member, remote := 0, line := none, wait := .none
          migrated := h.isSome, notBefore := y.notBefore, breakDone := false, again := none }).ease.whole

def execMigration (c p : Nat) (s : State) : Result := .next ((s.migrate c p).getD s)

end Sys2Proof.Machine
end

