-- ==== Sys2Proof/Machine/Fetch.lean ====
section
/-! DEFINITION. Who issues next, in which cycle, and the instruction it fetches (R40 to R44, R193 to
R195, R406). The order in which parties of different cores issue is the model's (log 3). -/

namespace Sys2Proof.Machine

/-! Time (R41) -/

/-- The first cycle from `t` on that position `p` owns (R41). -/
def ownCycle (t p : Nat) : Nat := t + (p + 8 - t % 8) % 8

/-- Count an event on every enabled counter of a core, whatever device it is charged to. -/
def bumpAny (k : Core) (event n : Nat) : Core :=
  { k with counters := k.counters.map fun e =>
    if e.2.en && e.2.event.toNat = event then
      (e.1, { e.2 with count := e.2.count + BitVec.ofNat 64 n }) else e }

/-- The time-dependent events of a core over `n` cycles, `used` of which something issued in (R318). -/
def State.tick (s : State) (c n used : Nat) : State :=
  let k := s.core c
  if k.counters.isEmpty then s
  else
    let s := s.setCore c (bumpAny (bumpAny k 0x01 n) 0x04 (n - used))
    k.strands.foldl (fun s e =>
      let vd := (s.ctx (clusterOf c) e.2.tag.toNat).img.vd
      match e.2.st with
      | .waitMem => s.bump c 0x08 vd n
      | .waitMsg => s.bump c 0x09 vd n
      | _ => s) s

/-- Let time pass to a cycle; the core `c` issues in it. -/
def State.advance (s : State) (t : Nat) (c : Option Nat) : State :=
  let n := t - s.cycle
  let s := s.cores.foldl (fun s e => s.tick e.1 n (if c = some e.1 then 1 else 0)) s
  { s with cycle := max s.cycle t }

/-! Who can issue -/

/-- A strand that owes a channel an abort word does not issue before there is room for it (R327, R362). -/
def State.canPlaceAbort (s : State) (c p : Nat) : Bool := (s.strand c p).abortWord.all fun w => 1 ≤ s.chRoom c w.1

/-- A party can issue: a strand in RUN, a porter whose handler is in the rotation, a repeater that holds
a sequence, and, as position 8, the built-in handlers of the porter; nothing on a core that a machine check has
stopped. -/
def State.canIssue (s : State) (q : Party) : Bool :=
  let k := s.core q.core
  !k.machine &&
  (if q.pos < 6 then (s.strand q.core q.pos).st = .run && s.canPlaceAbort q.core q.pos
   else if q.pos = 6 then k.porter.cur.isSome && k.porter.st = .run
   else if q.pos = 7 then s.repReady q.core
   else q.pos = 8 && s.builtinReady q.core && s.builtinWaits q.core)

/-- Position `p` of a core is vacant in the cycle it would own (R44); a built-in handler takes one of position 6
(R45). -/
def State.vacant (s : State) (c p cycle : Nat) : Bool :=
  if p = 7 then true
  else if p = 6 then !s.canIssue ⟨c, 6⟩ && !(s.canIssue ⟨c, 8⟩ && (s.core c).builtin ≤ cycle)
  else !(s.canIssue ⟨c, p⟩) || cycle < (s.strand c p).notBefore

/-- The cycle in which a party would issue. -/
def State.turn (s : State) (q : Party) : Nat :=
  let k := s.core q.core
  let rep := match k.rep with | some r => r.notBefore | none => 0
  if q.pos < 6 then ownCycle (max s.cycle (s.strand q.core q.pos).notBefore) q.pos
  else if q.pos = 6 then ownCycle (max s.cycle k.porter.notBefore) 6
  else if q.pos = 8 then ownCycle (max (max s.cycle k.builtin) (max k.porter.notBefore rep)) 6
  else
    let from' := max s.cycle rep
    ((List.range 8).map (from' + ·)).find? (fun t => s.vacant q.core (t % 8) t) |>.getD (ownCycle from' 7)

/-- The parties that can issue. -/
def State.parties (s : State) : List Party :=
  s.cores.flatMap fun e => ((List.range 9).map (Party.mk e.1)).filter s.canIssue

/-- The party whose turn comes first. -/
def State.pick (s : State) : Option Party :=
  s.parties.foldl (fun b q =>
    match b with
    | none => some q
    | some x => if s.turn q < s.turn x then some q else some x) none

/-! Fetch -/

/-- What a party finds at its PC: the instruction, or the trap that the word raises (R159, R192, R193). -/
def State.fetch (s : State) (c p : Nat) : Except TrapInfo Instr :=
  let pc := (s.regsOf c p).pc
  if !legalPc (s.ctx (clusterOf c) (s.tagOf c p)) pc then .error tIllegal
  else
    match s.lineOf c p with
    | none => .error tIllegal
    | some l =>
      let w := l.words.getD (pc.toNat % 8) (0, false)
      if w.2 then .error (tPoison 3)
      else match decode w.1 with
        | .ok i => .ok i
        | .error _ => .error tIllegal

/-- A cycle in which another party of its core issues is not the repeater's (R44). -/
def State.passRep (s : State) (c t : Nat) : State :=
  let k := s.core c
  match k.rep with
  | some r => s.setCore c { k with rep := some { r with notBefore := max r.notBefore (t + 1) } }
  | none => s

/-- A strand places the abort word that it owes a channel. -/
def State.placeAbort (s : State) (c p : Nat) : State :=
  match (s.strand c p).abortWord with
  | some (q, w) => (s.setStrand c p { s.strand c p with abortWord := none }).chPlace c (s.vdOf c p) q [w]
  | none => s

/-- A party's turn begins: time passes to its cycle, and it is not due before its next one. A party whose channel
words are there takes them now, in whatever cycle this is (R325). What a strand that waited held for its instruction is
its own again. -/
def State.begin (s : State) (q : Party) : State :=
  let t := if s.due = some q then s.cycle else s.turn q
  let s := { s.advance t (some q.core) with cur := q, due := if s.due = some q then none else s.due, since := t }
  if q.pos < 6 then
    let x := s.strand q.core q.pos
    let s : State := { s with since := x.again.getD t }
    let s := s.setStrand q.core q.pos { x with notBefore := t + 1, again := none, holdSrc := [], holdDst := [] }
    let s := s.placeAbort q.core q.pos
    if lineHolds x.line x.regs.pc then s else s.enterLine q.core q.pos
  else if q.pos = 6 then
    let x := s.porter q.core
    let s := s.setPorter q.core { x with notBefore := t + 1 }
    if lineHolds x.line s.pc then s else s.enterLine q.core 6
  else s

/-- A turn that leaves its cycle vacant: the party waits for a claim, the repeater or a channel before it issues
(R43, R44). -/
def leavesCycle : Wait → Bool
  | .claim | .repeater | .channel _ _ _ _ _ => true
  | _ => false

/-- What remains of a turn in the rotation: the cycle is not the repeater's, unless it was left vacant or was none of
the party's own (R44, R49). -/
def State.spent (s : State) (q : Party) (due : Bool) : State :=
  let st := if q.pos = 6 then (s.porter q.core).st else (s.strand q.core q.pos).st
  if due || (st ≠ .run && leavesCycle (s.waitOf q.core q.pos)) then s else s.passRep q.core s.cycle

/-- A strand issues the instruction at its PC: what it issued last is known, and a first issue counts (R158,
R318). -/
def State.issued (s : State) (q : Party) (first : Bool) : State :=
  if q.pos < 6 then
    let s := s.setStrand q.core q.pos { s.strand q.core q.pos with last := s.pc, breakDone := false }
    if first then s.bump q.core 0x02 s.curVd 1 else s
  else s

/-- BREAK is taken before a strand's instruction issues (R406, R159). -/
def State.breakAt (s : State) (c p : Nat) : State := s.takeTrapOf c p tBreak

/-- What a party does in its turn: an instruction, or a trap taken before any issues. -/
inductive Turn where
  | done (s : State)
  | run (s : State) (i : Instr)

/-- The trap of a word that is no instruction: a pending GUARD record comes before the poison of a word, which is
not decoded (R159). -/
def State.fetchTrap (s : State) (t : TrapInfo) : State :=
  match (if t.cause = 0x09 then s.guardPending else none) with
  | some r => s.takeTrap (tGuard r)
  | none => s.takeTrap t

/-- The turn of a strand or a porter that can issue. An instruction that has waited with what it holds goes on; one
that issues again after a wait meets no BREAK. -/
def State.turnOf (s : State) (q : Party) : Turn :=
  let x := s.strand q.core q.pos
  let s := s.begin q
  let first := q.pos < 6 && x.again.isNone
  match s.opOf q.core q.pos with
  | some o => .done (s.resumeOp q.core q.pos o)
  | none =>
    if first && x.migrated then
      .done ((s.setStrand q.core q.pos { s.strand q.core q.pos with migrated := false }).takeTrap { cause := 0x13 })
    else if first && !x.breakDone && s.brkHit q.core q.pos then .done (s.breakAt q.core q.pos)
    else
      let s := s.issued q first
      match s.fetch q.core q.pos with
      | .error t => .done (s.fetchTrap t)
      | .ok i => .run s i

end Sys2Proof.Machine
end

