-- ==== Sys2Proof/Machine/MailFam.lean ====
section
/-! DEFINITION. Arrivals at a porter, channel waits and breakpoints (R325, R326, R331, R333, R406). -/

namespace Sys2Proof.Machine

/-! Active messages (R331, R176) -/

/-- A message reaches its core: spilled, taken by a free porter that can read its table now, or waiting in arrival
order. The state is short while a spill must wait. -/
def State.deliver (s : State) (c : Nat) (m : UserMsg) : State :=
  match (s.core c).saved with
  | some v => s.spillMsg c v (some m)
  | none =>
    let q := s.porter c
    let wait := s.setPorter c { q with msgs := q.msgs ++ [m] }
    if s.builtinReady c && q.msgs.isEmpty && !s.builtinWaits c then
      let t := s.takeMsg c m []
      if t.short.isSome then wait else t
    else wait

/-- MESSAGE_ARRIVAL: discarded without a matching context or when the sender's task is in the filter. -/
def State.messageArrival (s : State) (i : Nat) : Option State :=
  match s.flit? i with
  | none => none
  | some f =>
    match f.msg with
    | .amsg c hidx w0 w1 loc img =>
      let s := s.drop i
      if (s.die (dieOf c)).filter.any fun e => e.1 = f.gti then
        let x := s.die (dieOf c)
        some (s.setDie (dieOf c) { x with discarded := x.discarded + 1 })
      else
        match s.findCtx (clusterOf c) img with
        | none => some s
        | some t =>
          ((s.useCtx (clusterOf c) t).deliver c ⟨BitVec.ofNat 4 t, hidx, w0, w1, loc, f.gti⟩).ease.whole
    | _ => none

def execMessageArrival (i : Nat) (s : State) : Result := .next ((s.messageArrival i).getD s)

/-! Remote local-store accesses (R333) -/

/-- The violation that a byte range of a core's local store is. -/
def State.remoteGuard (s : State) (c a n : Nat) : Option GuardRec :=
  (guardedFirst (s.core c) a n).map fun x => guardNote none x

/-- The byte of RSTN with one nibble replaced. -/
def nibbleByte (old : Byte) (high : Bool) (d : Word) : Byte :=
  let n := (d.extractLsb' 0 4).toNat
  if high then BitVec.ofNat 8 (old.toNat % 16 + 16 * n) else BitVec.ofNat 8 (old.toNat / 16 * 16 + n)

/-- What the destination's porter does, and its answer: value and poison. -/
def State.remoteDo (s : State) (k : RemoteKind) (c a : Nat) (data : Word) : Word × Bool × Option GuardRec × State :=
  match k with
  | .rld =>
    let b := lsBytes (s.core c) a 8
    (BitVec.ofNat 64 (bytesNat b), anyPoison b, s.remoteGuard c a 8, s)
  | .rst => (0, false, s.remoteGuard c a 8, s.lsStore c a (natBytes 8 data.toNat))
  | .rstn =>
    let old := memRead (s.core c).ls (a / 2)
    (0, false, s.remoteGuard c (a / 2) 1, s.lsStore c (a / 2) [⟨nibbleByte old (a % 2 = 1) data, false⟩])

/-- REMOTE_LS_ACCESS: served by the destination's porter as a built-in handler, in a cycle of its own; refused without a
context of the sender's virtual device and address space. A saved core holds it, out of the way of later flits, until
it resumes. -/
def State.remoteAccess (s : State) (i : Nat) : Option State :=
  match s.flit? i with
  | none => none
  | some f =>
    match f.msg with
    | .remote k c a data score spos op img =>
      if !s.builtinReady c then
        match (s.core c).saved, f.stage with
        | some v, .ejected => ((s.hold i).spillMsg c v none).ease.whole
        | _, _ => none
      else if !s.free6 c then none
      else
        let s := s.tookSix c
        match s.findSpace (clusterOf c) img.vd img.asid with
        | none => some (s.answer f (.ack score spos op 0 false true none))
        | some _ =>
          let (v, po, g, s) := s.remoteDo k c a data
          some (s.answer f (.ack score spos op v po false g))
    | _ => none

/-- What waits for a built-in handler of a core: the oldest of the requests that have come (R45). -/
def State.builtinTurn (s : State) (c : Nat) : State :=
  let mine (f : Flit) : Bool := ready s f &&
    match f.msg with
    | .remote _ d _ _ _ _ _ _ | .spawn d _ _ _ _ _ => d = c
    | _ => false
  match s.net.find? mine with
  | some f => ((s.remoteAccess f.id).or (s.spawnReceive f.id)).getD (s.tookSix c)
  | none => s.tookSix c

def execRemoteLsAccess (i : Nat) (s : State) : Result := .next ((s.remoteAccess i).getD s)

/-! Channels (R325, R326) -/

/-- The condition of a strand's channel wait: the first position that is not ready. -/
def State.channelWait (s : State) (c p : Nat) : Option (Nat × Option (Nat × Bool)) :=
  let x := s.strand c p
  match x.wait with
  | .channel since a b d dst =>
    if x.st = .waitMsg then some (since, s.chNotReady c (s.vdOf c p) a b d dst) else none
  | _ => none

/-- A waiting reader drops the words of other devices that have come to the head (R325). -/
def State.channelScan (s : State) (c p : Nat) : State :=
  match (s.strand c p).wait with
  | .channel _ a b d _ => s.chScan c (s.vdOf c p) [a, b, d]
  | _ => s

/-- CHANNEL_TRANSFER: the condition holds: the strand's instruction takes and places its words in this cycle. Before
that, words of other devices that stand before its own are dropped. -/
def State.channelTransfer (s : State) (c p : Nat) : Option State :=
  match s.channelWait c p with
  | some (_, none) => some { s.relook c p with due := some ⟨c, p⟩ }
  | some _ =>
    let t := s.channelScan c p
    if t = s then none else some t
  | none => none

def execChannelTransfer (c p : Nat) (s : State) : Result := .next ((s.channelTransfer c p).getD s)

/-- CHANNEL_TIMEOUT: the wait has passed the strand's limit and the condition does not hold. -/
def State.channelTimeout (s : State) (c p : Nat) : Option State :=
  match s.channelWait c p with
  | some (since, some (port, wr)) =>
    let lim := (s.strand c p).limit.toNat
    if lim = 0 || s.cycle ≤ since + lim then none else some (s.takeTrapOf c p (tChTimeout port wr))
  | _ => none

def execChannelTimeout (c p : Nat) (s : State) : Result := .next ((s.channelTimeout c p).getD s)

/-! BREAK (R406) -/

/-- BREAK: a slot matches a strand that is about to issue. -/
def State.breakEvent (s : State) (c p : Nat) : Option State :=
  let x := s.strand c p
  if p < 6 && x.st = .run && !x.breakDone && s.brkHit c p then some (s.breakAt c p) else none

def execBreakHit (c p : Nat) (s : State) : Result := .next ((s.breakEvent c p).getD s)

end Sys2Proof.Machine
end

