-- ==== Sys2Proof/Machine/JobFam.lean ====
section
/-! DEFINITION. The engines' events: taking a job, a unit step, the end of a job (R371, R374, R377, R383,
R386). -/

namespace Sys2Proof.Machine

/-- The engine of a job: its cluster's matrix, copy or gather engine, or the cellar engine of a die. -/
def Job.engine (j : Job) : Nat := cardKind j.card

/-- Jobs of a cluster's engine in a state. -/
def State.engineJobs (s : State) (cl kind : Nat) (st : JobState) : List (Nat × Job) :=
  (s.cluster cl).jobs.filter fun e => e.2.engine = kind && e.2.st = st

/-- The job that left its last edge first. -/
def firstReady (l : List (Nat × Job)) : Option Nat :=
  (l.foldl (fun (b : Option (Nat × Job)) e =>
    match b with
    | none => some e
    | some x => if e.2.ready < x.2.ready then some e else some x) none).map (·.1)

/-- The die of a cellar job, from the page of its B base; a failed translation stops the job (R383). -/
def State.takeCellar (s : State) (cl i : Nat) : State :=
  let j := s.job cl i
  let dva := (word j.card 11).toNat
  match s.translate j.core cl j.tag.toNat false (.load (.ls 0)) dva with
  | (.ok l, s) => s.setJob cl i { s.job cl i with cellar := some l.home }
  | (.error n, s) =>
    s.setJob cl i { s.job cl i with ending := some (.stopped, 0x8010 + n), fault := dva }

/-- JOB_START: a job with no unfinished predecessor is taken by its engine when it is the engine's next; a cellar
engine serves all that wait for it. -/
def State.jobStart (s : State) (cl i : Nat) : Option State :=
  let j := s.job cl i
  if j.st ≠ .waiting || !j.preds.isEmpty || !s.leaseAllows j.vd then none
  else if j.engine = 4 then some ((s.setJob cl i { j with st := .running }).takeCellar cl i)
  else
    let waiting := (s.engineJobs cl j.engine .waiting).filter fun e => e.2.preds.isEmpty
    if (s.engineJobs cl j.engine .running).isEmpty && firstReady waiting = some i then
      some (s.setJob cl i { j with st := .running })
    else none

def execJobStart (cl i : Nat) (s : State) : Result := .next ((s.jobStart cl i).getD s)

/-- The jobs that a cellar engine of a die can serve now. -/
def State.cellarJobs (s : State) (h : Option Nat) : List Job :=
  s.clusters.flatMap fun k => ((s.cluster k.1).jobs.map (·.2)).filter fun e =>
    e.engine = 4 && e.st = .running && e.ending.isNone && e.cellar = h && s.leaseAllows e.vd

/-- The virtual device whose turn a cellar engine comes to next: the first with a job after the one served last. -/
def State.cellarVd (s : State) (h : Nat) : Option Nat :=
  let l := s.cellarJobs (some h)
  ((List.range 64).map fun k => ((s.die h).cellar + 1 + k) % 64).find? fun v => l.any fun e => e.vd = v

/-- A cellar job has the turn on its die's engine: its virtual device has, and no job of that has arrived before it
(R371). -/
def State.cellarTurn (s : State) (j : Job) : Bool :=
  match j.cellar with
  | none => true
  | some h => s.cellarVd h = some j.vd && !(s.cellarJobs (some h)).any fun e => e.vd = j.vd && e.ready < j.ready

/-- The cellar engine of a job's die has served its virtual device. -/
def State.cellarServed (s : State) (j : Job) : State :=
  match j.cellar with
  | some h => if j.engine = 4 then s.setDie h { s.die h with cellar := j.vd } else s
  | none => s

/-- The engine of a running job may take its next unit step. -/
def State.jobTurn (s : State) (cl i : Nat) : Bool :=
  let j := s.job cl i
  j.st = .running && j.ending.isNone && s.leaseAllows j.vd &&
    (if j.engine = 4 then s.cellarTurn j else firstReady (s.engineJobs cl j.engine .running) = some i)

/-- A unit step retires: its place in the nest, its counts, and the end of the job after the last. -/
def Job.stepDone (j : Job) (r : StepRes) : Job :=
  { j with
    retired := j.retired + 1, exc := j.exc + r.exc, count := j.count + r.dropped, bag := r.bag
    ending := if j.retired + 1 = nestTotal j.card then some (.done, 1) else none }

/-- JOB_UNIT_STEP: the step has its whole effect, or none and the job stops or ends. -/
def State.jobStep (s : State) (cl i : Nat) : Option State :=
  let j := s.job cl i
  if !s.jobTurn cl i then none
  else if j.engine = 4 && j.cellar.isNone then some (s.takeCellar cl i)
  else
    match (unitStep ⟨cl, j⟩).run s with
    | .ok (r, t) =>
      if t.short.isSome then none else some ((t.setJob cl i ((t.job cl i).stepDone r)).cellarServed j)
    | .error .wait => none
    | .error (.stop st status addr) =>
      some ((s.setJob cl i { j with ending := some (st, status), fault := addr }).cellarServed j)

def execJobUnitStep (cl i : Nat) (s : State) : Result := .next ((s.jobStep cl i).getD s)

/-- A completion word whose page is a register of control space is written there (R314, R374). -/
def State.cwFar (s : State) (cl i : Nat) (j : Job) : Option State :=
  match j.cwWait with
  | [] => none
  | v :: t =>
    match s.translate j.core cl j.tag.toNat false .store (word j.card 1).toNat with
    | (.ok l, s) =>
      let a := (keyOf l j.vd (word j.card 1).toNat).2
      if !l.near && paSpace a = 15 then some ((s.farWrite a (natBytes 8 v.toNat)).setCw cl i t) else none
    | _ => none

/-- JOB_FINISH: the end or stop that the last unit step brought is reported (R374, R376, R386); or completion words
that had to wait are written. -/
def State.jobReport (s : State) (cl i : Nat) : Option State :=
  let j := s.job cl i
  match j.ending with
  | some (st, n) => if j.st = .running then some (s.jobEnd cl i st n 65) else none
  | none =>
    if j.cwWait.isEmpty then none
    else
      let t := (s.cwFar cl i j).getD (s.cwDrain cl i j.cwWait)
      if (t.job cl i).cwWait = j.cwWait then none else some t

def execJobFinish (cl i : Nat) (s : State) : Result := .next ((s.jobReport cl i).getD s)

end Sys2Proof.Machine
end

