-- ==== Sys2Proof/Machine/HostFam.lean ====
section
/-! DEFINITION. The host, its virtual functions, host memory and the span links (R130, R181, R391 to R400,
R419). -/

namespace Sys2Proof.Machine

/-! The window of a virtual function (R181, R393, R394) -/

/-- Write a doubleword of a VF's window; other offsets are ignored. -/
def Vf.write (x : Vf) (off : Nat) (v : Word) : Vf :=
  if off < 0x1000 then
    let i := off / 64
    let old := mapGet (List.replicate 64 0) x.slots i
    let k := off / 8 % 8
    { x with slots := mapPut x.slots i (old.take (8 * k) ++ leBytes 8 v.toNat ++ old.drop (8 * k + 8)) }
  else if off = 0x1000 then { x with tail := v.toNat % 64 }
  else if off = 0x1010 then { x with cbase := BitVec.ofNat 64 (v.toNat / 32 * 32) }
  else if off = 0x1018 then { x with csize := v.extractLsb' 0 16 }
  else if off = 0x1028 then { x with chead := v.toNat % 65536 }
  else x

/-- TAIL_WRITE: the host writes a doubleword of a VF's window (R393). -/
def execTailWrite (vf off : Nat) (v : BitVec 64) (s : State) : Result :=
  .next (if vf < 64 && off % 8 = 0 then s.setVf vf ((s.vf vf).write off v) else s)

/-- The counters that are read through the latch. -/
def Vf.counter (x : Vf) (off : Nat) : Word :=
  if off = 0x1100 then x.nlaunch else if off = 0x1108 then x.nburst else x.nidle

/-- The doubleword at an offset of a VF's window. -/
def Vf.read (x : Vf) (off : Nat) : Nat :=
  if off = 0x1000 then x.tail
  else if off = 0x1008 then x.head
  else if off = 0x1010 then x.cbase.toNat
  else if off = 0x1018 then x.csize.toNat
  else if off = 0x1020 then x.ctail
  else if off = 0x1028 then x.chead
  else 0

def isCounter (off : Nat) : Bool := off = 0x1100 || off = 0x1108 || off = 0x1110

/-- A 32-bit half of a VF's window: the low half of a counter fills the latch, a high half returns it. -/
def Vf.readHalf (x : Vf) (off : Nat) : Nat × Vf :=
  if isCounter off then
    let v := x.counter off
    ((v.extractLsb' 0 32).toNat, { x with latch := v.extractLsb' 32 32 })
  else if off % 8 = 4 && isCounter (off - 4) then (x.latch.toNat, x)
  else (x.read (off / 8 * 8) / 2 ^ (8 * (off % 8)) % 2 ^ 32, x)

def State.setRead (s : State) (b : List Byte) (poison : Bool := false) : State :=
  { s with porch := { s.porch with hostRead := b, hostPoison := poison } }

/-- The PF's window: the bytes of control space from its base on (R314, R393). -/
def pfWindow : Nat := 0xF00000000000

/-- COUNTER_LOW_READ: the host reads a 32-bit half of a VF's window, or, through the PF, which counts as window 64,
of control space (R393; log 105). -/
def execCounterLowRead (vf off : Nat) (s : State) : Result :=
  .next (if vf < 64 && off % 4 = 0 then
    let (n, x) := (s.vf vf).readHalf off
    (s.setVf vf x).setRead (leBytes 4 n)
  else if vf = 64 && off % 4 = 0 && off < 2 ^ 44 then
    s.setRead (leBytes 4 ((s.ctlReadWord (pfWindow + off / 8 * 8)).toNat / 2 ^ (8 * (off % 8)) % 2 ^ 32))
  else s)

/-- The status with which a host record is refused (R343, R394, R419). -/
def State.hostStatus (s : State) (vf : Nat) (l : List Word) : Nat :=
  if lInvalid l then 2
  else if lVd l ≠ vf then 3
  else if (s.hostImage vf).isNone then 2
  else 0

/-- HOST_RECORD_TAKE: the porch die takes the next slot, refuses its record, or sends it to its queue. -/
def State.recordTake (s : State) (vf : Nat) : Option State :=
  let x := s.vf vf
  if x.head = x.tail || 64 ≤ vf || s.porch.step < 7 then none
  else
    let l := dwordsOf (mapGet (List.replicate 64 0) x.slots x.head) 8
    let next (s : State) : State := s.setVf vf { s.vf vf with head := (x.head + 1) % 64 }
    let n := s.hostStatus vf l
    if n ≠ 0 then some (next (s.complete? vf (completionBytes 0 x.head 3 n 0 0 0)))
    else
      match s.hostImage vf with
      | some img => (s.launchEnqueue l 0 img (some (vf, x.head))).map next
      | none => none

def execHostRecordTake (vf : Nat) (s : State) : Result := .next ((s.recordTake vf).getD s)

/-- COMPLETION_ENTRY: the oldest entry that waits is written at ctail when the ring has room; with cbase 0 it is
not written (R395). -/
def State.completionEntry (s : State) (vf : Nat) : Option State :=
  let x := s.vf vf
  match x.pend with
  | [] => none
  | b :: t =>
    if x.cbase = 0 then some (s.setVf vf { x with pend := t })
    else
      let n := x.csize.toNat
      if n = 0 || (x.ctail + 1) % n = x.chead then none
      else
        let pa := 2 ^ 44 + (x.cbase.toNat + 32 * x.ctail) % 2 ^ 44
        let s := { s with hostMem := putBytes s.hostMem pa b }
        some (s.setVf vf { x with pend := t, ctail := (x.ctail + 1) % n })

def execCompletionEntry (vf : Nat) (s : State) : Result := .next ((s.completionEntry vf).getD s)

/-- VF_RESET: slots not yet taken are discarded and reported (R400). -/
def State.vfReset (s : State) (vf : Nat) : State :=
  let x := s.vf vf
  let l := (List.range ((x.tail + 64 - x.head) % 64)).map fun j => (x.head + j) % 64
  let s := l.foldl (fun s i => s.complete? vf (completionBytes 0 i 3 2 0 0 0)) s
  s.setVf vf { s.vf vf with head := x.tail }

def execVfReset (vf : Nat) (s : State) : Result := .next (if vf < 64 then s.vfReset vf else s)

/-! CXL.mem (R12, R130, R408) -/

/-- Bytes whose value the CXL specification leaves: poisoned data, or inactive memory (log 10). -/
def State.openBytes (s : State) (n : Nat) : List Byte × State :=
  ((List.range n).map fun j => (Config.free (s.free + j)).extractLsb' 0 8, { s with free := s.free + n })

/-- The 64-byte units of a range. -/
def unitsOf (a n : Nat) : List Nat :=
  if n = 0 then [] else (List.range ((a + n - 1) / 64 - a / 64 + 1)).map (a / 64 + ·)

/-- A word of a range is held by an uncommitted region, as an access of the host meets it. -/
def State.hostWaits (s : State) (a n : Nat) (wr : Bool) : Bool :=
  let t : State := { s with porch := { s.porch with held := [] } }
  t.blocked .phys (s.leafAt a) a n wr || s.busyAt .phys (s.leafAt a) a n

/-- A host read at the homes; the porch die is a sharer of what it read, and the host holds its units. -/
def State.hostRead (s : State) (a n : Nat) : Option State :=
  if s.hostWaits a n false then none
  else
    let l := s.leafAt a
    let (b, s) := s.readHomes noCluster .phys l a n
    if s.short.isSome then none
    else
      let s := (baysOf a n).foldl (fun s x => s.share (homeSlice l.home x.1) .phys x.1 x.2.2 63) s
      let s : State := { s with porch := { s.porch with held := (unitsOf a n).foldl setAdd s.porch.held } }
      some (s.setRead (b.map (·.v)) (anyPoison b))

/-- A host write at the homes, as a strong store. -/
def State.hostWrite (s : State) (a : Nat) (b : List Byte) : Option State :=
  let n := b.length
  if s.hostWaits a n true then none
  else
    let s := s.physStore a (b.map (⟨·, false⟩))
    if s.short.isSome then none
    else some { s with porch := { s.porch with held := s.porch.held.filter fun u => !(unitsOf a n).contains u } }

/-- HOST_MEM_ACCESS: a host access to the HDM range. An access to unpopulated memory is logged, a read of it completes
poisoned (R12); before bring-up is done it reaches no stack. -/
def State.hostAccess (s : State) (a n : Nat) (wr : Option (List Byte)) : Option State :=
  if s.porch.step < 7 then
    match wr with
    | some _ => some s
    | none => let (b, s) := s.openBytes n; some (s.setRead b)
  else if !(unitsOf a n).all fun u => populated (64 * u) then
    let s := s.logError (stackOf a) a 0
    match wr with
    | some _ => some s
    | none => let (b, s) := s.openBytes n; some (s.setRead b true)
  else
    match wr with
    | some b => s.hostWrite a b
    | none => s.hostRead a n

def execHostMemAccess (addr : BitVec 40) (len : Nat) (wr : Option (List (BitVec 8))) (s : State) : Result :=
  .next ((s.hostAccess addr.toNat len wr).getD s)

/-- BACK_INVALIDATION: the host gives a unit back with the bytes that it holds of it; what waited for it goes
on. -/
def State.backInvalidate (s : State) (u : Nat) (b : List Byte) : Option State :=
  if !setHas s.porch.held u then none
  else
    let s : State := { s with porch := { s.porch with held := setDel s.porch.held u } }
    let s := s.physStore (64 * u) ((b.take 64).map (⟨·, false⟩))
    some s.anyway.regionFreed

def execBackInvalidation (u : Nat) (bytes : List (BitVec 8)) (s : State) : Result :=
  .next ((s.backInvalidate u bytes).getD s)

/-! Host atomics and span requests (R392, R398, R399) -/

/-- Perform a request of the device outside its own memory; its answer: value and bytes. -/
def State.farServe (s : State) (r : HReq) : Word × List PByte × State :=
  match r.kind with
  | .write => (0, [], s.farWrite r.addr r.data)
  | .atom op cmp => let (x, s) := s.farAtomic r.addr r.len op r.data cmp; (x, [], s)
  | .red op | .accrue op => (0, [], (s.farAtomic r.addr r.len op r.data 0).2)
  | .mwait cmp _ =>
    let (b, s) := s.farRead r.addr r.len
    (if bytesNat b ≠ cmp.toNat then 1 else 0, b, s)
  | .read | .fetch | .join => let (b, s) := s.farRead r.addr r.len; (0, b, s)

/-- HOST_ATOMIC: the porch die performs an access to host memory. -/
def State.hostAtomic (s : State) (i : Nat) : Option State :=
  match s.flit? i with
  | none => none
  | some f =>
    match f.msg with
    | .host r =>
      let (x, b, s) := s.farServe r
      some (s.answer f (.rsp r .ok x b))
    | _ => none

def execHostAtomic (i : Nat) (s : State) : Result := .next ((s.hostAtomic i).getD s)

/-- The span link that a cluster's traffic to a peer uses: the one at its number, modulo how many there are, among the
links of the peer's route that are up (R398, R399, R408); a route that the landlord has not set has none. -/
def State.spanLink (s : State) (peer cl : Nat) : Option Nat :=
  let l := (mapGet [] s.porch.route peer).filter fun k => s.porch.linksUp.getLsbD k
  l[cl % 512 % l.length]?

/-- A request to a peer goes after those that its cluster has sent there before (R399). -/
def State.spanFirst (s : State) (f : Flit) (peer : Nat) : Bool :=
  !s.net.any fun g => g.id < f.id && g.cluster = f.cluster &&
    match g.msg with
    | .span r => r.addr / 2 ^ 40 % 16 = peer
    | _ => false

/-- A refused request of this device: a load returns zero; a store or atomic is dropped, and the value that an
atomic would have returned is open. It is logged, on the requester's die (log 115). -/
def State.spanRefused (s : State) (f : Flit) (r : HReq) : State :=
  let s := s.logError (dieOf r.core) r.addr r.vd
  match r.kind with
  | .atom _ _ | .mwait _ _ => let (x, s) := s.drawFree; s.answer f (.rsp r .ok x [])
  | _ => s.answer f (.rsp r .ok 0 (List.replicate r.len ⟨0, false⟩))

/-- The virtual device that a peer's request within the range that it is admitted to is charged to (R398). -/
def State.admitted (s : State) (peer a n : Nat) : Option Nat :=
  match mapGet? s.porch.admits peer with
  | some x =>
    if x.base ≤ a && a + n ≤ x.base + x.len && (unitsOf a n).all fun u => populated (64 * u) then some x.vd else none
  | none => none

/-- A peer's request within the range that it is admitted to, performed at the home under strong rules; one
outside is refused and logged. None comes in while every link is down (R408). -/
def State.inbound (s : State) (peer a n : Nat) (wr : Option (List Byte)) : Option State :=
  let n := match wr with | some b => b.length | none => n
  let l := s.leafAt a
  if s.porch.linksUp = 0 then none
  else
    match s.admitted peer a n, wr with
    | none, some _ => some (s.logError (stackOf a) a 0)
    | none, none => some ((s.logError (stackOf a) a 0).setRead (List.replicate n 0))
    | some vd, some b =>
      if s.homesBusy .phys l a n true then none
      else (s.writeHomes noCluster .phys l vd a (b.map (⟨·, false⟩))).whole
    | some vd, none =>
      if s.homesBusy .phys l a n false then none
      else
        let (b, s) := s.readHomes noCluster .phys l a n vd
        (s.setRead (b.map (·.v)) (anyPoison b)).whole

/-- A peer's atomic within the range that it is admitted to, performed at the home at system scope (R131, R399); a
poisoned word stays as it is. One outside is refused and logged, and what it returns is open. -/
def State.inboundAtom (s : State) (peer a n : Nat) (op : AOp) (v cmp : Word) : Option State :=
  let l := s.leafAt a
  if s.porch.linksUp = 0 then none
  else
    match s.admitted peer a n with
    | none =>
      let (b, s) := (s.logError (stackOf a) a 0).openBytes n
      some (s.setRead b)
    | some vd =>
      if s.homesBusy .phys l a n true then none
      else
        let (b, s) := s.readHomes noCluster .phys l a n vd
        let s := s.setRead (b.map (·.v)) (anyPoison b)
        if anyPoison b then s.whole
        else (s.writeHomes noCluster .phys l vd a
          (natBytes n (aopVal op (8 * n) (bytesNat b) v.toNat cmp.toNat))).whole

/-- SPAN_REQUEST: the owning peer answers a request of this device, or this device one of a peer. -/
def State.spanEvent (s : State) (q : SpanReq) : Option State :=
  match q with
  | .outbound i granted =>
    match s.flit? i with
    | none => none
    | some f =>
      match f.msg with
      | .span r =>
        let peer := r.addr / 2 ^ 40 % 16
        if !s.spanFirst f peer then none
        else if granted && (s.spanLink peer f.cluster).isSome then
          let (x, b, s) := s.farServe r
          some (s.answer f (.rsp r .ok x b))
        else some (s.spanRefused f r)
      | _ => none
  | .inbound peer addr len wr => s.inbound peer.toNat addr.toNat len wr
  | .inboundAtom peer addr len op v cmp => s.inboundAtom peer.toNat addr.toNat len op v cmp

def execSpanRequest (r : SpanReq) (s : State) : Result := .next ((s.spanEvent r).getD s)

end Sys2Proof.Machine
end

