-- ==== Sys2Proof/Machine/DebugFam.lean ====
section
/-! DEFINITION. Trace records, bring-up, life cycle, the side door and power (R401 to R404, R408 to R414). -/

namespace Sys2Proof.Machine

/-! Trace (R401 to R404) -/

/-- TRACE_RECORD: a core that has dropped stamps has room again and stamps their count. The stamps of state
changes and markers are made in the steps that bring them about. -/
def State.traceRecord (s : State) (c : Nat) : Option State :=
  let k := s.core c
  if 0 < k.stampLost && k.stamps.length < 16 then
    some (s.setCore c { k with stamps := k.stamps ++ [lostStamp k.stampLost s.cycle], stampLost := 0 })
  else none

def execTraceRecord (c : Nat) (s : State) : Result := .next ((s.traceRecord c).getD s)

/-- A record of 8 bytes (R401). -/
def recordWord (gti aux kind delta : Nat) : Nat := gti * 2 ^ 32 + aux * 2 ^ 16 + kind * 2 ^ 12 + delta

/-- The SYNC record of a cycle. -/
def syncWord (cycle : Nat) : Nat := recordWord (cycle / 2 ^ 16 % 2 ^ 32) (cycle % 2 ^ 16) 7 0

/-- A trace unit whose next record would lie at or past the end of its buffer goes back to the start, or stops (R404). -/
def Trace.wrap (t : Trace) : Trace :=
  if t.head.toNat < (t.size.extractLsb' 0 16).toNat * 65536 then t
  else if t.ctl.extractLsb' 32 2 = 0 then { t with head := 0 }
  else { t with full := true }

/-- Write a record at the head, as a strong store at its home, and advance the head; whether it was written. Once the
buffer is full in mode 1, the records that it stands for are counted (R404). -/
def State.putRecord (s : State) (d w n : Nat) : Bool × State :=
  let t := (s.die d).trace.wrap
  if t.full then (false, s.setDie d { s.die d with trace := { t with lost := t.lost + n } })
  else
    let pa := t.base.toNat + t.head.toNat
    let b := natBytes 8 w
    let s := if paSpace pa = 0 then s.physStore pa b else s.farWrite pa b
    (true, s.setDie d { s.die d with trace := ({ t with head := t.head + 8 } : Trace).wrap })

/-- Records that the unit dropped while its buffer was full, reported first (R404). -/
def State.putLost (s : State) (d : Nat) : State :=
  let t := (s.die d).trace
  if t.lost = 0 || t.full then s
  else
    let s := s.setDie d { s.die d with trace := { t with lost := 0 } }
    (s.putRecord d (recordWord 0 (min t.lost 0xFFFF) 8 0) t.lost).2

/-- Write a SYNC; one that finds no place stands for no record. -/
def State.writeSync (s : State) (d cycle : Nat) : State :=
  let (ok, s) := s.putRecord d (syncWord cycle) 0
  if ok then s.setDie d { s.die d with trace := { (s.die d).trace with sync := some cycle } } else s

/-- A SYNC of the cycle in which tracing began before the first record, and one of a record's own cycle when its stamp
lies outside the reach of the last (R402). -/
def State.putSync (s : State) (d cycle : Nat) : State :=
  let t := (s.die d).trace
  let s := if t.sync.isNone then s.writeSync d t.began else s
  match (s.die d).trace.sync with
  | some c => if c ≤ cycle && cycle ≤ c + 4095 then s else s.writeSync d cycle
  | none => s

/-- A region or the host holds a word of the trace buffer that the next records go to: at most four of them
(R127, R130). -/
def State.traceHeld (s : State) (d : Nat) : Bool :=
  let t := (s.die d).trace
  let size := (t.size.extractLsb' 0 16).toNat * 65536
  let h := if t.head.toNat < size then t.head.toNat else 0
  (List.range 4).any fun j =>
    let pa := t.base.toNat + (h + 8 * j) % size
    paSpace pa = 0 && s.blocked .phys (s.leafAt pa) pa 8 true

/-- TRACE_WRITE: the oldest record of a core reaches its die's unit; it waits while its place is held. -/
def State.traceWrite (s : State) (d c : Nat) : Option State :=
  let k := s.core c
  match k.stamps with
  | [] => none
  | x :: r =>
    if dieOf c ≠ d || s.traceHeld d then none
    else
      let s := s.setCore c { k with stamps := r }
      let t := (s.die d).trace
      let on : Bool := t.ctl.getLsbD 0 && t.size.extractLsb' 0 16 ≠ 0
      if !on || !(x.kind = 8 || t.vds.getLsbD (x.gti.extractLsb' 26 6).toNat) then some s
      else
        let s := (s.putSync d x.cycle).putLost d
        let c0 := (s.die d).trace.sync.getD x.cycle
        let delta := if x.kind = 8 then 0 else x.cycle - c0
        let n := if x.kind = 8 then x.aux.toNat else 1
        (s.putRecord d (recordWord x.gti.toNat x.aux.toNat x.kind delta) n).2.ease.whole

def execTraceWrite (d c : Nat) (s : State) : Result := .next ((s.traceWrite d c).getD s)

/-! Bring-up and life cycle (R408, R409, R411) -/

/-- Everything on the dies wiped: what reset leaves, but for what does not lie in the device's on-die memories (R408 step
2, R411). -/
def State.wiped (s : State) : State :=
  { State.reset with
    cycle := s.cycle, agenda := s.agenda, upsets := s.upsets, hostMem := s.hostMem, peerMem := s.peerMem, free := s.free
    nextId := s.nextId, mem := s.mem, memP := s.memP, rekeyed := s.rekeyed, badBursts := s.badBursts
    porch := { Porch.init with
      lifeCycle := s.porch.lifeCycle, limit := s.porch.limit, overDraw := s.porch.overDraw
      rom := s.porch.rom, fuses := s.porch.fuses, images := s.porch.images
      keyver := s.porch.keyver, scrubbed := s.porch.scrubbed, answered := s.porch.answered, answer := s.porch.answer } }

/-- The stacks zeroed under the current key version (R408 step 4). -/
def State.zeroed (s : State) : State := { s with mem := [], memP := [], rekeyed := [], badBursts := [] }

/-- The root of trust accepts an image: its signature, of its one size, verifies under the fused key, and its security
version is at least the fused least (R409). -/
def Porch.accepts (x : Porch) (i : Config.Image) : Bool :=
  Config.hssVerifies x.fuses.key i && i.sig.length = 5396 && x.fuses.least ≤ i.version

/-- The image that the root of trust runs: the first slot's, else, tried once, the alternate slot's (R409); `img0` and
`img1` say whether the slot can be read (log 67). -/
def Porch.accepted (x : Porch) (img0 img1 : Bool) : Option Config.Image :=
  if img0 && x.accepts x.images.1 then some x.images.1
  else if img1 && x.accepts x.images.2 then some x.images.2 else none

/-- POWER_GOOD: bring-up, from the start, whatever the part did before. Neither firmware image is accepted, or a step
fails: the part halts there, with the steps before it done; step 6 never fails it. -/
def State.powerGood (s : State) (img0 img1 : Bool) (failStep : Nat) (links : BitVec 16) : State :=
  let img := s.porch.accepted img0 img1
  let fail := if failStep = 1 || img.isNone then 1 else if failStep = 6 || 7 < failStep then 0 else failStep
  let done : Nat := if fail = 0 then 7 else fail - 1
  let s := if 2 ≤ done then s.wiped else s
  let s := if 4 ≤ done then s.zeroed else s
  { s with porch := { s.porch with
    step := done, halted := fail ≠ 0, running := if 1 ≤ done then img else none, linksUp := if done = 7 then links else 0 } }

def execPowerGood (img0 img1 : Bool) (failStep : Nat) (linksUp : BitVec 16) (s : State) : Result :=
  .next (s.powerGood img0 img1 failStep linksUp)

def lifeRank : LifeCycle → Nat
  | .manufacture => 0
  | .secured => 1
  | .returned => 2

/-- LIFE_CYCLE_CHANGE: only forward; everything stops, the on-die memories are wiped, HBM once its interfaces are
trained, and bring-up starts again. A key is a function of what no register shows (log 114). -/
def State.lifeChange (s : State) (x : LifeCycle) : Option State :=
  if lifeRank x ≤ lifeRank s.porch.lifeCycle then none
  else
    let s := s.wiped
    some { s with porch := { s.porch with lifeCycle := x } }

def execLifeCycleChange (stage : LifeCycle) (s : State) : Result := .next ((s.lifeChange stage).getD s)

/-! The side door (R410) -/

/-- An SPDM responder answers a request. -/
def State.spdm (s : State) (req : List Byte) : State :=
  { s with porch := { s.porch with
    answer := Config.spdmAnswer req s.porch.answered, answered := s.porch.answered + 1 } }

def execGetVersion (req : List (BitVec 8)) (s : State) : Result := .next (s.spdm req)
def execGetCapabilities (req : List (BitVec 8)) (s : State) : Result := .next (s.spdm req)
def execNegotiateAlgorithms (req : List (BitVec 8)) (s : State) : Result := .next (s.spdm req)
def execGetCertificate (req : List (BitVec 8)) (s : State) : Result := .next (s.spdm req)
def execChallenge (req : List (BitVec 8)) (s : State) : Result := .next (s.spdm req)

/-- GET_MEASUREMENTS: what the answer covers is the ROM, the firmware image, the fuses and the life-cycle state. -/
def execGetMeasurements (req : List (BitVec 8)) (s : State) : Result :=
  let x := s.porch
  .next { s with porch := { x with
    answer := Config.measured req x.answered x.rom x.running x.fuses (lifeRank x.lifeCycle)
    answered := x.answered + 1 } }

/-- The ordering code's number, which the spec does not give: 0 the module, 1 the package (R1; log 108). -/
def formCode : Config.Form → Nat
  | .module => 0
  | .package => 1

/-- MODULE_DESCRIPTOR_READ: the ordering code, the life-cycle state and the bring-up step reached (R410), and of a part
that has halted the step that failed (R408); that each is a byte, in this order, is the model's choice (log 108). -/
def execModuleDescriptorRead (s : State) : Result :=
  .next { s with porch := { s.porch with
    answer := ([formCode Config.form, lifeRank s.porch.lifeCycle, s.porch.step] ++
      if s.porch.halted then [s.porch.step + 1] else []).map (BitVec.ofNat 8)
    answered := s.porch.answered + 1 } }

/-! Power (R414) -/

/-- The power limit in watts: the module's own 2,400, or the package's, once its board maker has set one (R1, R414). -/
def Porch.powerLimit (x : Porch) : Option Nat :=
  match Config.form with
  | .module => some Config.moduleLimit
  | .package => x.limit

/-- The measured draw is above the limit; without a limit it never is (log 126). -/
def State.exceeds (s : State) : Bool :=
  match s.porch.powerLimit with
  | some l => l < Config.draw s.cycle
  | none => false

/-- POWER_LIMIT_EXCEEDED: the draw measured is above the limit: placements and unit steps are delayed until it is within
it. -/
def execPowerLimitExceeded (s : State) : Result :=
  .next { s with porch := { s.porch with overDraw := s.porch.overDraw || s.exceeds } }

def execDrawWithinLimit (s : State) : Result :=
  .next { s with porch := { s.porch with overDraw := s.porch.overDraw && s.exceeds } }

/-- POWER_LIMIT_SET: for the package, the board maker sets the limit; the module's stays 2,400 W. -/
def execPowerLimitSet (watts : Nat) (s : State) : Result :=
  .next (match Config.form with
    | .package => { s with porch := { s.porch with limit := some watts } }
    | .module => s)

end Sys2Proof.Machine
end

