-- ==== Sys2Proof/Machine/FpFam.lean ====
section
/-! DEFINITION. The FP group (R236 to R243). -/

namespace Sys2Proof.Machine

/-- A result of a scalar FP form: the word and the flags, unless POISON meets a channel. -/
def putFp (d : SOp) (r : Nat × Flags) (poison : Bool) (src : Nat) : Except TrapInfo (List Eff) :=
  match putS d (BitVec.ofNat 64 r.1) poison src with
  | .error t => .error t
  | .ok l => .ok (l ++ [.flags r.2])

def formSSS (d a b : SOp) : Form := { use := useSSS d a b }

/-- D from A and B at the width of T; bits above it are zero (R237). -/
def fxFp2 (f : Rmode → Nat → Nat → Nat × Flags) (rm : Rm) (d a b : SOp) (w : View) :
    Except TrapInfo (List Eff) :=
  let x := w.s w.a a
  let y := w.s w.b b
  putFp d (f (rmAt rm w.regs.fs) x.v.toNat y.v.toNat) (x.p || y.p) (firstPoison x.p y.p false)

def fxFp1 (f : Rmode → Nat → Nat × Flags) (rm : Rm) (d a : SOp) (w : View) :
    Except TrapInfo (List Eff) :=
  let x := w.s w.a a
  putFp d (f (rmAt rm w.regs.fs) x.v.toNat) x.p 1

def fp2 (f : Rmode → Nat → Nat → Nat × Flags) (g : Guard) (rm : Rm) (d a b : SOp) (s : State) : Result :=
  .next (s.plain g (formSSS d a b) (fxFp2 f rm d a b))

def execFadd (g : Guard) (t : ETy) (rm : Rm) (sat : Bool) (d a b : SOp) (s : State) : Result :=
  fp2 (fun m => fpAdd (fmtOf t) m sat) g rm d a b s
def execFsub (g : Guard) (t : ETy) (rm : Rm) (sat : Bool) (d a b : SOp) (s : State) : Result :=
  fp2 (fun m => fpSub (fmtOf t) m sat) g rm d a b s
def execFmul (g : Guard) (t : ETy) (rm : Rm) (sat : Bool) (d a b : SOp) (s : State) : Result :=
  fp2 (fun m => fpMul (fmtOf t) m sat) g rm d a b s
def execFdiv (g : Guard) (t : ETy) (rm : Rm) (sat : Bool) (d a b : SOp) (s : State) : Result :=
  .next (s.slow g (formSSS d a b) (fxFp2 (fun m => fpDiv (fmtOf t) m sat) rm d a b))
def execFsqrt (g : Guard) (t : ETy) (rm : Rm) (d a : SOp) (s : State) : Result :=
  .next (s.slow g { use := useSS d a } (fxFp1 (fun m => fpSqrt (fmtOf t) m) rm d a))
def execFmin (g : Guard) (t : ETy) (d a b : SOp) (s : State) : Result :=
  fp2 (fun _ => fpMinMax (fmtOf t) false) g .rne d a b s
def execFmax (g : Guard) (t : ETy) (d a b : SOp) (s : State) : Result :=
  fp2 (fun _ => fpMinMax (fmtOf t) true) g .rne d a b s

/-- FMA forms A × B + D with one rounding (R238). -/
def fxFma (t : ETy) (rm : Rm) (sat : Bool) (d a b : SOp) (w : View) : Except TrapInfo (List Eff) :=
  let x := w.s w.a a
  let y := w.s w.b b
  let z := w.s w.d d
  putFp d (fpFma (fmtOf t) (rmAt rm w.regs.fs) sat false false x.v.toNat y.v.toNat z.v.toNat)
    (x.p || y.p || z.p) (firstPoison x.p y.p z.p)

def execFma (g : Guard) (t : ETy) (rm : Rm) (sat : Bool) (d a b : SOp) (s : State) : Result :=
  .next (s.plain g { use := { useSSS d a b with d := chS d } } (fxFma t rm sat d a b))

/-- FCMP writes a predicate; a poisoned source raises POISON (R240, R221). -/
def fxFcmp (t : ETy) (c : FCond) (d : POp) (a b : SOp) (w : View) : Except TrapInfo (List Eff) :=
  let x := w.s w.a a
  let y := w.s w.b b
  match needClean x.p y.p false with
  | .error e => .error e
  | .ok _ =>
    let r := fpCmp (fmtOf t) c x.v.toNat y.v.toNat
    .ok (putP d r.1 ++ [.flags r.2])

def execFcmp (g : Guard) (t : ETy) (c : FCond) (d : POp) (a b : SOp) (s : State) : Result :=
  .next (s.plain g { use := { a := chS a, b := chS b, dst := chP d } } (fxFcmp t c d a b))

/-- An integer result is extended to 64 bits (R241). -/
def cvtExtend (t : ETy) (sgn : Bool) (r : Nat × Flags) : Nat × Flags :=
  if t.isInt then (natOf 64 (intOf (tyBits t) sgn r.1), r.2) else r

def execFcvt (g : Guard) (t st : ETy) (sgn : Bool) (rm : Rm) (sat : Bool) (d a : SOp) (s : State) :
    Result :=
  .next (s.plain g { use := useSS d a }
    (fxFp1 (fun m x => cvtExtend t sgn (fpCvt t st sgn m sat x)) rm d a))
def execFclass (g : Guard) (t : ETy) (d a : SOp) (s : State) : Result :=
  .next (s.plain g { use := useSS d a } (fxFp1 (fun _ x => (fpClass (fmtOf t) x, 0)) .rne d a))
def execFsgn (g : Guard) (t : ETy) (d a b : SOp) (s : State) : Result :=
  fp2 (fun _ x y => (fpSgn (fmtOf t) x y, 0)) g .rne d a b s

end Sys2Proof.Machine
end

