-- ==== Sys2Proof/Machine/SegFam.lean ====
section
/-! DEFINITION. The SEG group (R245 to R249). -/

namespace Sys2Proof.Machine

/-- SEGLD: a template entry, or another segment register (R246). -/
def fxSegld (d : Fin 8) (b : SImm) (w : View) : Except TrapInfo (List Eff) :=
  let y := w.i w.b b
  if y.p then .error (tPoison 2)
  else if h : y.v.toNat < 8 then .ok [.g d w.tmpl[y.v.toNat]]
  else if h : y.v.toNat < 16 then .ok [.g d w.regs.g[y.v.toNat - 8]]
  else .error tSegment

def execSegld (g : Guard) (d : Fin 8) (b : SImm) (s : State) : Result :=
  .next (s.plain g { use := { b := chI b } } (fxSegld d b))

/-- The narrowed segment, or SEGMENT (R247). -/
def narrow (seg : Seg) (a b : Word) : Except TrapInfo Seg :=
  let lim := (b.extractLsb' 0 49).toNat
  if b.extractLsb' 49 10 ≠ 0 || 2 ^ 48 < lim || 2 ^ 48 < seg.limit.toNat then .error tSegment
  else if seg.limit.toNat < a.toNat + lim then .error tSegment
  else if 2 ^ 56 ≤ seg.base.toNat + a.toNat then .error tSegment
  else .ok ⟨BitVec.ofNat 56 (seg.base.toNat + a.toNat), b.extractLsb' 0 49,
    seg.rights &&& ~~~(b.extractLsb' 59 5)⟩

def fxSegnarrow (d : Fin 8) (a : SOp) (b : SImm) (w : View) : Except TrapInfo (List Eff) :=
  let x := w.s w.a a
  let y := w.i w.b b
  match needClean x.p y.p false with
  | .error t => .error t
  | .ok _ =>
    match narrow w.regs.g[d] x.v y.v with
    | .error t => .error t
    | .ok s => .ok [.g d s]

def execSegnarrow (g : Guard) (d : Fin 8) (a : SOp) (b : SImm) (s : State) : Result :=
  .next (s.plain g { use := { a := chS a, b := chI b } } (fxSegnarrow d a b))

/-- A field of a segment register (R248). -/
def segField (s : Seg) (b : Word) : Word :=
  if b = 0 then s.base.zeroExtend 64
  else if b = 1 then s.limit.zeroExtend 64
  else if b = 2 then s.rights.zeroExtend 64
  else 0

def fxSegq (d : SOp) (a : Fin 8) (b : SImm) (w : View) : Except TrapInfo (List Eff) :=
  let y := w.i w.b b
  if y.p then .error (tPoison 2) else putS d (segField w.regs.g[a] y.v) false 4

def execSegq (g : Guard) (d : SOp) (a : Fin 8) (b : SImm) (s : State) : Result :=
  .next (s.plain g { use := { b := chI b, dst := chS d } } (fxSegq d a b))

end Sys2Proof.Machine
end

