-- ==== Sys2Proof/Machine/Dispatch.lean ====
section
/-! DEFINITION. The dispatch: one arm for each constructor of Instr. -/

namespace Sys2Proof.Machine

def exec (i : Instr) (s : State) : Host.Outcome State Fault Refusal :=
  match i with
  | .add g d a b => Sys2Proof.Machine.execAdd g d a b s
  | .sub g d a b => Sys2Proof.Machine.execSub g d a b s
  | .mul g d a b => Sys2Proof.Machine.execMul g d a b s
  | .mulh g d a b => Sys2Proof.Machine.execMulh g d a b s
  | .mulhu g d a b => Sys2Proof.Machine.execMulhu g d a b s
  | .div g d a b => Sys2Proof.Machine.execDiv g d a b s
  | .divu g d a b => Sys2Proof.Machine.execDivu g d a b s
  | .rem g d a b => Sys2Proof.Machine.execRem g d a b s
  | .remu g d a b => Sys2Proof.Machine.execRemu g d a b s
  | .and g d a b => Sys2Proof.Machine.execAnd g d a b s
  | .or g d a b => Sys2Proof.Machine.execOr g d a b s
  | .xor g d a b => Sys2Proof.Machine.execXor g d a b s
  | .andn g d a b => Sys2Proof.Machine.execAndn g d a b s
  | .orn g d a b => Sys2Proof.Machine.execOrn g d a b s
  | .shl g d a b => Sys2Proof.Machine.execShl g d a b s
  | .shr g d a b => Sys2Proof.Machine.execShr g d a b s
  | .sra g d a b => Sys2Proof.Machine.execSra g d a b s
  | .rotl g d a b => Sys2Proof.Machine.execRotl g d a b s
  | .rotr g d a b => Sys2Proof.Machine.execRotr g d a b s
  | .min g d a b => Sys2Proof.Machine.execMin g d a b s
  | .max g d a b => Sys2Proof.Machine.execMax g d a b s
  | .minu g d a b => Sys2Proof.Machine.execMinu g d a b s
  | .maxu g d a b => Sys2Proof.Machine.execMaxu g d a b s
  | .clz g w d a => Sys2Proof.Machine.execClz g w d a s
  | .ctz g w d a => Sys2Proof.Machine.execCtz g w d a s
  | .popc g w d a => Sys2Proof.Machine.execPopc g w d a s
  | .brev g w d a => Sys2Proof.Machine.execBrev g w d a s
  | .bswap g w d a => Sys2Proof.Machine.execBswap g w d a s
  | .sext g w d a => Sys2Proof.Machine.execSext g w d a s
  | .bfx g d a b => Sys2Proof.Machine.execBfx g d a b s
  | .bfi g d a b => Sys2Proof.Machine.execBfi g d a b s
  | .sel g d a b => Sys2Proof.Machine.execSel g d a b s
  | .li g d b => Sys2Proof.Machine.execLi g d b s
  | .cmp g c d a b => Sys2Proof.Machine.execCmp g c d a b s
  | .test g d a b => Sys2Proof.Machine.execTest g d a b s
  | .pand g d a b => Sys2Proof.Machine.execPand g d a b s
  | .por g d a b => Sys2Proof.Machine.execPor g d a b s
  | .pxor g d a b => Sys2Proof.Machine.execPxor g d a b s
  | .pandn g d a b => Sys2Proof.Machine.execPandn g d a b s
  | .pset g d b => Sys2Proof.Machine.execPset g d b s
  | .pget g d a => Sys2Proof.Machine.execPget g d a s
  | .br g off => Sys2Proof.Machine.execBr g off s
  | .bri g a => Sys2Proof.Machine.execBri g a s
  | .call g off => Sys2Proof.Machine.execCall g off s
  | .calli g a => Sys2Proof.Machine.execCalli g a s
  | .ret g => Sys2Proof.Machine.execRet g s
  | .loop g d off => Sys2Proof.Machine.execLoop g d off s
  | .halt g => Sys2Proof.Machine.execHalt g s
  | .nop g => Sys2Proof.Machine.execNop g s
  | .ifence g => Sys2Proof.Machine.execIfence g s
  | .rdclk g d => Sys2Proof.Machine.execRdclk g d s
  | .rdid g d => Sys2Proof.Machine.execRdid g d s
  | .fadd g t rm sat d a b => Sys2Proof.Machine.execFadd g t rm sat d a b s
  | .fsub g t rm sat d a b => Sys2Proof.Machine.execFsub g t rm sat d a b s
  | .fmul g t rm sat d a b => Sys2Proof.Machine.execFmul g t rm sat d a b s
  | .fdiv g t rm sat d a b => Sys2Proof.Machine.execFdiv g t rm sat d a b s
  | .fsqrt g t rm d a => Sys2Proof.Machine.execFsqrt g t rm d a s
  | .fma g t rm sat d a b => Sys2Proof.Machine.execFma g t rm sat d a b s
  | .fmin g t d a b => Sys2Proof.Machine.execFmin g t d a b s
  | .fmax g t d a b => Sys2Proof.Machine.execFmax g t d a b s
  | .fcmp g t c d a b => Sys2Proof.Machine.execFcmp g t c d a b s
  | .fcvt g t st sgn rm sat d a => Sys2Proof.Machine.execFcvt g t st sgn rm sat d a s
  | .fclass g t d a => Sys2Proof.Machine.execFclass g t d a s
  | .fsgn g t d a b => Sys2Proof.Machine.execFsgn g t d a b s
  | .segld g d b => Sys2Proof.Machine.execSegld g d b s
  | .segnarrow g d a b => Sys2Proof.Machine.execSegnarrow g d a b s
  | .segq g d a b => Sys2Proof.Machine.execSegq g d a b s
  | .vadd g t d a b => Sys2Proof.Machine.execVadd g t d a b s
  | .vsub g t d a b => Sys2Proof.Machine.execVsub g t d a b s
  | .vmul g t d a b => Sys2Proof.Machine.execVmul g t d a b s
  | .vmulh g t d a b => Sys2Proof.Machine.execVmulh g t d a b s
  | .vand g t d a b => Sys2Proof.Machine.execVand g t d a b s
  | .vor g t d a b => Sys2Proof.Machine.execVor g t d a b s
  | .vxor g t d a b => Sys2Proof.Machine.execVxor g t d a b s
  | .vshl g t d a b => Sys2Proof.Machine.execVshl g t d a b s
  | .vshr g t d a b => Sys2Proof.Machine.execVshr g t d a b s
  | .vsra g t d a b => Sys2Proof.Machine.execVsra g t d a b s
  | .vmin g t d a b => Sys2Proof.Machine.execVmin g t d a b s
  | .vmax g t d a b => Sys2Proof.Machine.execVmax g t d a b s
  | .vminu g t d a b => Sys2Proof.Machine.execVminu g t d a b s
  | .vmaxu g t d a b => Sys2Proof.Machine.execVmaxu g t d a b s
  | .vabsd g t d a b => Sys2Proof.Machine.execVabsd g t d a b s
  | .vsel g t d a b => Sys2Proof.Machine.execVsel g t d a b s
  | .vcmp g t c d a b => Sys2Proof.Machine.execVcmp g t c d a b s
  | .vfadd g t rm sat d a b => Sys2Proof.Machine.execVfadd g t rm sat d a b s
  | .vfsub g t rm sat d a b => Sys2Proof.Machine.execVfsub g t rm sat d a b s
  | .vfmul g t rm sat d a b => Sys2Proof.Machine.execVfmul g t rm sat d a b s
  | .vfma g t rm sat d a b => Sys2Proof.Machine.execVfma g t rm sat d a b s
  | .vfms g t rm sat d a b => Sys2Proof.Machine.execVfms g t rm sat d a b s
  | .vfnma g t rm sat d a b => Sys2Proof.Machine.execVfnma g t rm sat d a b s
  | .vfmin g t d a b => Sys2Proof.Machine.execVfmin g t d a b s
  | .vfmax g t d a b => Sys2Proof.Machine.execVfmax g t d a b s
  | .vfdiv g t rm sat d a b => Sys2Proof.Machine.execVfdiv g t rm sat d a b s
  | .vfsqrt g t rm d a b => Sys2Proof.Machine.execVfsqrt g t rm d a b s
  | .vfrcp g t d a b => Sys2Proof.Machine.execVfrcp g t d a b s
  | .vfrsq g t d a b => Sys2Proof.Machine.execVfrsq g t d a b s
  | .vfexp2 g t sat d a b => Sys2Proof.Machine.execVfexp2 g t sat d a b s
  | .vfcmp g t c d a b => Sys2Proof.Machine.execVfcmp g t c d a b s
  | .vfcvt g t st sgn rm sat d a b => Sys2Proof.Machine.execVfcvt g t st sgn rm sat d a b s
  | .vbcast g t d b => Sys2Proof.Machine.execVbcast g t d b s
  | .vins g t d a b => Sys2Proof.Machine.execVins g t d a b s
  | .vext g t d a b => Sys2Proof.Machine.execVext g t d a b s
  | .vshuf g t d a b => Sys2Proof.Machine.execVshuf g t d a b s
  | .vslide g t d a b => Sys2Proof.Machine.execVslide g t d a b s
  | .vzip g t d a b => Sys2Proof.Machine.execVzip g t d a b s
  | .vunzip g t d a b => Sys2Proof.Machine.execVunzip g t d a b s
  | .vredadd g t d a b => Sys2Proof.Machine.execVredadd g t d a b s
  | .vfredadd g t d a b => Sys2Proof.Machine.execVfredadd g t d a b s
  | .vredmax g t d a b => Sys2Proof.Machine.execVredmax g t d a b s
  | .vredmin g t d a b => Sys2Proof.Machine.execVredmin g t d a b s
  | .vcompress g t d a b => Sys2Proof.Machine.execVcompress g t d a b s
  | .vexpand g t d a b => Sys2Proof.Machine.execVexpand g t d a b s
  | .bdot g sat d a b => Sys2Proof.Machine.execBdot g sat d a b s
  | .bunpk g t rm sat d a b => Sys2Proof.Machine.execBunpk g t rm sat d a b s
  | .bpack g t fmta rm sat d a b => Sys2Proof.Machine.execBpack g t fmta rm sat d a b s
  | .bscale g rm d a b => Sys2Proof.Machine.execBscale g rm d a b s
  | .cbload g a => Sys2Proof.Machine.execCbload g a s
  | .cblook g t d a b => Sys2Proof.Machine.execCblook g t d a b s
  | .qdeq g q4 d a b => Sys2Proof.Machine.execQdeq g q4 d a b s
  | .rpt g strb stra strd seqlen count => Sys2Proof.Machine.execRpt g strb stra strd seqlen count s
  | .rwait g => Sys2Proof.Machine.execRwait g s
  | .rstop g d => Sys2Proof.Machine.execRstop g d s
  | .ld g w d m => Sys2Proof.Machine.execLd g w d m s
  | .st g w d m => Sys2Proof.Machine.execSt g w d m s
  | .vld g d m => Sys2Proof.Machine.execVld g d m s
  | .vst g d m => Sys2Proof.Machine.execVst g d m s
  | .vgath g t d m b => Sys2Proof.Machine.execVgath g t d m b s
  | .vscat g t d m b => Sys2Proof.Machine.execVscat g t d m b s
  | .lsguard g d m => Sys2Proof.Machine.execLsguard g d m s
  | .gld g w d m => Sys2Proof.Machine.execGld g w d m s
  | .gst g w d m => Sys2Proof.Machine.execGst g w d m s
  | .gvld g d m => Sys2Proof.Machine.execGvld g d m s
  | .gvst g d m => Sys2Proof.Machine.execGvst g d m s
  | .xget g d m => Sys2Proof.Machine.execXget g d m s
  | .xput g d m => Sys2Proof.Machine.execXput g d m s
  | .gpref g m => Sys2Proof.Machine.execGpref g m s
  | .aadd g sc d m b => Sys2Proof.Machine.execAadd g sc d m b s
  | .aand g sc d m b => Sys2Proof.Machine.execAand g sc d m b s
  | .aor g sc d m b => Sys2Proof.Machine.execAor g sc d m b s
  | .axor g sc d m b => Sys2Proof.Machine.execAxor g sc d m b s
  | .amin g sc d m b => Sys2Proof.Machine.execAmin g sc d m b s
  | .amax g sc d m b => Sys2Proof.Machine.execAmax g sc d m b s
  | .aminu g sc d m b => Sys2Proof.Machine.execAminu g sc d m b s
  | .amaxu g sc d m b => Sys2Proof.Machine.execAmaxu g sc d m b s
  | .aswap g sc d m b => Sys2Proof.Machine.execAswap g sc d m b s
  | .acas g sc d m b => Sys2Proof.Machine.execAcas g sc d m b s
  | .afadd g sc d m b => Sys2Proof.Machine.execAfadd g sc d m b s
  | .afmin g sc d m b => Sys2Proof.Machine.execAfmin g sc d m b s
  | .afmax g sc d m b => Sys2Proof.Machine.execAfmax g sc d m b s
  | .radd g sc d m => Sys2Proof.Machine.execRadd g sc d m s
  | .rand g sc d m => Sys2Proof.Machine.execRand g sc d m s
  | .ror g sc d m => Sys2Proof.Machine.execRor g sc d m s
  | .rxor g sc d m => Sys2Proof.Machine.execRxor g sc d m s
  | .rmin g sc d m => Sys2Proof.Machine.execRmin g sc d m s
  | .rmax g sc d m => Sys2Proof.Machine.execRmax g sc d m s
  | .rminu g sc d m => Sys2Proof.Machine.execRminu g sc d m s
  | .rmaxu g sc d m => Sys2Proof.Machine.execRmaxu g sc d m s
  | .rfadd g sc d m => Sys2Proof.Machine.execRfadd g sc d m s
  | .mwait g d m b => Sys2Proof.Machine.execMwait g d m b s
  | .fence g sc => Sys2Proof.Machine.execFence g sc s
  | .acq g sc => Sys2Proof.Machine.execAcq g sc s
  | .rel g sc => Sys2Proof.Machine.execRel g sc s
  | .rell g sc m => Sys2Proof.Machine.execRell g sc m s
  | .flushp g sc => Sys2Proof.Machine.execFlushp g sc s
  | .cwb g sc m => Sys2Proof.Machine.execCwb g sc m s
  | .cinv g sc m => Sys2Proof.Machine.execCinv g sc m s
  | .cpin g sc d m => Sys2Proof.Machine.execCpin g sc d m s
  | .cunpin g sc m => Sys2Proof.Machine.execCunpin g sc m s
  | .ldisc g d m => Sys2Proof.Machine.execLdisc g d m s
  | .lback g m => Sys2Proof.Machine.execLback g m s
  | .lstat g d m => Sys2Proof.Machine.execLstat g d m s
  | .amsg g d a b hidx => Sys2Proof.Machine.execAmsg g d a b hidx s
  | .rld g d a b disp => Sys2Proof.Machine.execRld g d a b disp s
  | .rst g d a b disp => Sys2Proof.Machine.execRst g d a b disp s
  | .rstn g d a b disp => Sys2Proof.Machine.execRstn g d a b disp s
  | .hret g => Sys2Proof.Machine.execHret g s
  | .chpoll g d => Sys2Proof.Machine.execChpoll g d s
  | .chlim g b => Sys2Proof.Machine.execChlim g b s
  | .barc g => Sys2Proof.Machine.execBarc g s
  | .bara g => Sys2Proof.Machine.execBara g s
  | .barw g => Sys2Proof.Machine.execBarw g s
  | .barb g => Sys2Proof.Machine.execBarb g s
  | .spawn g d a b => Sys2Proof.Machine.execSpawn g d a b s
  | .join g d m => Sys2Proof.Machine.execJoin g d m s
  | .texit g => Sys2Proof.Machine.execTexit g s
  | .launch g d m => Sys2Proof.Machine.execLaunch g d m s
  | .frb g d off => Sys2Proof.Machine.execFrb g d off s
  | .fre g => Sys2Proof.Machine.execFre g s
  | .fra g => Sys2Proof.Machine.execFra g s
  | .frq g d => Sys2Proof.Machine.execFrq g d s
  | .job g d m => Sys2Proof.Machine.execJob g d m s
  | .jwait g d a => Sys2Proof.Machine.execJwait g d a s
  | .jpoll g d a => Sys2Proof.Machine.execJpoll g d a s
  | .jcancel g d a => Sys2Proof.Machine.execJcancel g d a s
  | .trap g sel => Sys2Proof.Machine.execTrap g sel s
  | .kret g sel => Sys2Proof.Machine.execKret g sel s
  | .sread g d a sel => Sys2Proof.Machine.execSread g d a sel s
  | .swrite g d a sel => Sys2Proof.Machine.execSwrite g d a sel s
  | .sysr g d a sel => Sys2Proof.Machine.execSysr g d a sel s
  | .sysw g d a sel => Sys2Proof.Machine.execSysw g d a sel s
  | .tlbinv g d a b sel => Sys2Proof.Machine.execTlbinv g d a b sel s
  | .lres g d a b sel => Sys2Proof.Machine.execLres g d a b sel s
  | .lmove g d a sel => Sys2Proof.Machine.execLmove g d a sel s
  | .sstart g d a => Sys2Proof.Machine.execSstart g d a s
  | .sstop g d a => Sys2Proof.Machine.execSstop g d a s
  | .ctrr g d sel => Sys2Proof.Machine.execCtrr g d sel s
  | .ctrw g d sel => Sys2Proof.Machine.execCtrw g d sel s
  | .mark g sel => Sys2Proof.Machine.execMark g sel s
  | .hint g sel => Sys2Proof.Machine.execHint g sel s
  | .repeaterIssue core => Sys2Proof.Machine.execRepeaterIssue core s
  | .longLatencyResult core pos => Sys2Proof.Machine.execLongLatencyResult core pos s
  | .memoryReply idx => Sys2Proof.Machine.execMemoryReply idx s
  | .injectionSlot die stop loop slot => Sys2Proof.Machine.execInjectionSlot die stop loop slot s
  | .agingTurn die loop slot => Sys2Proof.Machine.execAgingTurn die loop slot s
  | .agingTenureEnd die loop slot => Sys2Proof.Machine.execAgingTenureEnd die loop slot s
  | .flitArrival die loop slot accept => Sys2Proof.Machine.execFlitArrival die loop slot accept s
  | .flitTakenBack die loop slot => Sys2Proof.Machine.execFlitTakenBack die loop slot s
  | .landedFlitAccept die stop vc => Sys2Proof.Machine.execLandedFlitAccept die stop vc s
  | .hbmServiceSlot die => Sys2Proof.Machine.execHbmServiceSlot die s
  | .reservedSlot die => Sys2Proof.Machine.execReservedSlot die s
  | .bucketRefill die => Sys2Proof.Machine.execBucketRefill die s
  | .homeRequest idx => Sys2Proof.Machine.execHomeRequest idx s
  | .fillDataArrival die k => Sys2Proof.Machine.execFillDataArrival die k s
  | .invalidationArrival idx => Sys2Proof.Machine.execInvalidationArrival idx s
  | .rellRecall slice j => Sys2Proof.Machine.execRellRecall slice j s
  | .combine slice j => Sys2Proof.Machine.execCombine slice j s
  | .frameRequest idx => Sys2Proof.Machine.execFrameRequest idx s
  | .pageWalk die k => Sys2Proof.Machine.execPageWalk die k s
  | .tombstoneRetire slice j => Sys2Proof.Machine.execTombstoneRetire slice j s
  | .incarnationBroadcast slice cluster => Sys2Proof.Machine.execIncarnationBroadcast slice cluster s
  | .clusterReset cluster => Sys2Proof.Machine.execClusterReset cluster s
  | .poolpush die v => Sys2Proof.Machine.execPoolpush die v s
  | .keeperPreemptRequest core => Sys2Proof.Machine.execKeeperPreemptRequest core s
  | .landlordPreemptRequest core => Sys2Proof.Machine.execLandlordPreemptRequest core s
  | .controlSpaceWrite pa v => Sys2Proof.Machine.execControlSpaceWrite pa v s
  | .preemption core => Sys2Proof.Machine.execPreemption core s
  | .resume core src => Sys2Proof.Machine.execResume core src s
  | .keeperEntry core => Sys2Proof.Machine.execKeeperEntry core s
  | .landlordEntry core => Sys2Proof.Machine.execLandlordEntry core s
  | .machineCheck core => Sys2Proof.Machine.execMachineCheck core s
  | .sidelogNotice core => Sys2Proof.Machine.execSidelogNotice core s
  | .sidelogReplay cluster entry => Sys2Proof.Machine.execSidelogReplay cluster entry s
  | .taskDeath core pos cause sub => Sys2Proof.Machine.execTaskDeath core pos cause sub s
  | .deadFilterRetire die j => Sys2Proof.Machine.execDeadFilterRetire die j s
  | .deathNotice idx => Sys2Proof.Machine.execDeathNotice idx s
  | .noticeRingDrain j => Sys2Proof.Machine.execNoticeRingDrain j s
  | .hbmUncorrectableError die k => Sys2Proof.Machine.execHbmUncorrectableError die k s
  | .patrolScrubBurst die tagOk => Sys2Proof.Machine.execPatrolScrubBurst die tagOk s
  | .scrubPassStart => Sys2Proof.Machine.execScrubPassStart s
  | .taskPop core pos => Sys2Proof.Machine.execTaskPop core pos s
  | .taskPriorityAging cluster j => Sys2Proof.Machine.execTaskPriorityAging cluster j s
  | .spillRefill cluster => Sys2Proof.Machine.execSpillRefill cluster s
  | .spawnReceive idx => Sys2Proof.Machine.execSpawnReceive idx s
  | .stealRequest cluster vd => Sys2Proof.Machine.execStealRequest cluster vd s
  | .stealShipment idx => Sys2Proof.Machine.execStealShipment idx s
  | .stealRetryTimer cluster => Sys2Proof.Machine.execStealRetryTimer cluster s
  | .poolIdleTimeout core pos => Sys2Proof.Machine.execPoolIdleTimeout core pos s
  | .launchPlacement q vd => Sys2Proof.Machine.execLaunchPlacement q vd s
  | .launchComplete launch => Sys2Proof.Machine.execLaunchComplete launch s
  | .migration core pos => Sys2Proof.Machine.execMigration core pos s
  | .messageArrival idx => Sys2Proof.Machine.execMessageArrival idx s
  | .remoteLsAccess idx => Sys2Proof.Machine.execRemoteLsAccess idx s
  | .channelTransfer core pos => Sys2Proof.Machine.execChannelTransfer core pos s
  | .channelTimeout core pos => Sys2Proof.Machine.execChannelTimeout core pos s
  | .mwaitWake slice j => Sys2Proof.Machine.execMwaitWake slice j s
  | .mwaitTimeout core pos => Sys2Proof.Machine.execMwaitTimeout core pos s
  | .barrierCompletion cluster unit => Sys2Proof.Machine.execBarrierCompletion cluster unit s
  | .bandBarrierArrival idx => Sys2Proof.Machine.execBandBarrierArrival idx s
  | .rouEdgeCheck die => Sys2Proof.Machine.execRouEdgeCheck die s
  | .regionHeldReadRetry idx => Sys2Proof.Machine.execRegionHeldReadRetry idx s
  | .regionCommit die slot => Sys2Proof.Machine.execRegionCommit die slot s
  | .regionAbort die slot code => Sys2Proof.Machine.execRegionAbort die slot code s
  | .jobStart cluster slot => Sys2Proof.Machine.execJobStart cluster slot s
  | .jobUnitStep cluster slot => Sys2Proof.Machine.execJobUnitStep cluster slot s
  | .jobFinish cluster slot => Sys2Proof.Machine.execJobFinish cluster slot s
  | .tailWrite vf off v => Sys2Proof.Machine.execTailWrite vf off v s
  | .hostRecordTake vf => Sys2Proof.Machine.execHostRecordTake vf s
  | .completionEntry vf => Sys2Proof.Machine.execCompletionEntry vf s
  | .counterLowRead vf off => Sys2Proof.Machine.execCounterLowRead vf off s
  | .vfReset vf => Sys2Proof.Machine.execVfReset vf s
  | .hostMemAccess addr len wr => Sys2Proof.Machine.execHostMemAccess addr len wr s
  | .backInvalidation unit bytes => Sys2Proof.Machine.execBackInvalidation unit bytes s
  | .spanRequest r => Sys2Proof.Machine.execSpanRequest r s
  | .hostAtomic idx => Sys2Proof.Machine.execHostAtomic idx s
  | .traceRecord core => Sys2Proof.Machine.execTraceRecord core s
  | .traceWrite die core => Sys2Proof.Machine.execTraceWrite die core s
  | .leaseSliceStart => Sys2Proof.Machine.execLeaseSliceStart s
  | .leaseSliceEnd => Sys2Proof.Machine.execLeaseSliceEnd s
  | .breakHit core pos => Sys2Proof.Machine.execBreakHit core pos s
  | .powerGood img0 img1 failStep linksUp => Sys2Proof.Machine.execPowerGood img0 img1 failStep linksUp s
  | .lifeCycleChange stage => Sys2Proof.Machine.execLifeCycleChange stage s
  | .getVersion req => Sys2Proof.Machine.execGetVersion req s
  | .getCapabilities req => Sys2Proof.Machine.execGetCapabilities req s
  | .negotiateAlgorithms req => Sys2Proof.Machine.execNegotiateAlgorithms req s
  | .getCertificate req => Sys2Proof.Machine.execGetCertificate req s
  | .challenge req => Sys2Proof.Machine.execChallenge req s
  | .getMeasurements req => Sys2Proof.Machine.execGetMeasurements req s
  | .moduleDescriptorRead => Sys2Proof.Machine.execModuleDescriptorRead s
  | .powerLimitExceeded => Sys2Proof.Machine.execPowerLimitExceeded s
  | .lastIterationRetires core => Sys2Proof.Machine.execLastIterationRetires core s
  | .launchRetirement launch => Sys2Proof.Machine.execLaunchRetirement launch s
  | .leaseRequest vd v => Sys2Proof.Machine.execLeaseRequest vd v s
  | .powerLimitSet watts => Sys2Proof.Machine.execPowerLimitSet watts s
  | .drawWithinLimit => Sys2Proof.Machine.execDrawWithinLimit s

end Sys2Proof.Machine
end

