-- ==== Sys2Proof/Machine/Sched.lean ====
section
/-! DEFINITION. The default order of the device's own events (log 3). The spec leaves their interleaving open;
an agenda fixes any other. -/

namespace Sys2Proof.Machine

/-- Keep an event only if it changes something, so that the parties are not held up by one that waits. -/
def changed (s : State) (t : Option State) : Option State :=
  match t with
  | some t => if t = s then none else some t
  | none => none

/-- What a flit at its destination brings about. A request that waits, or that its home refuses, brings nothing
about by itself. -/
def State.flitEvent (s : State) (f : Flit) : Option State :=
  match f.msg with
  | .req r =>
    if !ready s f then none
    else
      match s.homeTry f r with
      | .done t => some t
      | .frame _ => s.frameRequest f.id
      | .hold => if f.stage = .held then none else some (s.hold f.id)
      | .refuse => none
  | .rsp _ _ _ _ | .ack _ _ _ _ _ _ _ | .probe _ _ _ => s.memoryReply f.id
  | .inval _ _ _ _ => s.invalArrive f.id
  | .amsg _ _ _ _ _ _ => s.messageArrival f.id
  -- a porter serves these in a turn of its own; a saved core holds them
  | .remote _ c _ _ _ _ _ _ => if (s.core c).saved.isSome then s.remoteAccess f.id else none
  | .spawn c _ _ _ _ _ => if (s.core c).saved.isSome then s.spawnReceive f.id else none
  | .steal _ _ _ => s.stealShipment f.id
  | .bandArrive _ _ _ => s.bandArrival f.id
  | .death _ => s.deathNotice f.id
  | .host _ => s.hostAtomic f.id
  -- a controller takes its requests, a home its fill data, a scheduler its records where they arrive
  | .fetch _ | .fill _ | .check _ | .bulk _ => none
  | .span _ => s.spanEvent (.outbound f.id true)

/-- Events of the network: a flit crosses its leg, or is handled. -/
def State.netEvent (s : State) : Option State :=
  match s.travelling with
  | some f => some (s.carry f)
  | none => s.net.findSome? s.flitEvent

/-- Events of a home slice. -/
def State.sliceEvent (s : State) (e : Nat × Slice) : Option State :=
  let idx (n : Nat) (f : Nat → Option State) : Option State := (List.range n).findSome? f
  (idx e.2.tombs.length (s.tombRetire e.1)).or
  ((idx e.2.owners.length (s.rellRecall e.1)).or
  ((idx e.2.combines.length (s.combineEvent e.1)).or
  (idx e.2.watches.length (s.mwaitWake e.1))))

/-- Events of a memory controller: what it has served arrives, or it serves the next request. -/
def State.hbmEvent (s : State) (d : Nat) : Option State :=
  ((List.range (s.die d).hbm.length).findSome? fun k =>
    match (s.die d).hbm[k]? with
    | some r =>
      if !r.served then none
      else if r.burstsOf.any (setHas s.badBursts) then s.hbmError d k
      else s.fillData d k
    | none => none).or (s.hbmSlot d)

/-- Events of a die. -/
def State.dieEvent (s : State) (e : Nat × Die) : Option State :=
  let d := e.1
  (s.hbmEvent d).or
  ((s.pageWalk d 0).or
  ((s.edgeCheck d).or
  ((e.2.rou.slots.findSome? fun x => (s.regionForced d x.1 8).or (s.regionCommit d x.1)).or
  (((List.range e.2.filter.length).findSome? (s.filterRetire d)).or
  (if s.porch.overDraw then none
   else e.2.launchQ.findSome? fun x => s.launchPlacement d x.1)))))

/-- Events of a strand. -/
def State.strandEvent (s : State) (c : Nat) (e : Nat × Strand) : Option State :=
  let p := e.1
  (s.longResult c p).or
  ((match e.2.dying with | some (cause, sub) => s.taskDeath c p cause sub | none => none).or
  ((s.channelTransfer c p).or
  ((s.channelTimeout c p).or
  ((s.mwaitTimeout c p).or
  ((s.migrate c p).or
  ((s.taskPop c p).or
  (s.poolTimeout c p)))))))

/-- The sequence of a repeater has issued its last iteration. -/
def State.lastRetires (s : State) (c : Nat) : Option State :=
  match (s.core c).rep with
  | some r => if r.count ≤ r.iter then some (s.releaseRep c) else none
  | none => none

/-- Events of a core. -/
def State.coreEvent (s : State) (e : Nat × Core) : Option State :=
  let c := e.1
  (s.lastRetires c).or
  ((s.longResult c 6).or
  ((e.2.strands.findSome? (s.strandEvent c)).or
  ((changed s (s.preempt c)).or
  ((s.machineCheck c).or
  ((s.landlordEntry c).or
  ((s.sidelogNotice c).or
  ((s.keeperEntry c).or
  ((s.traceRecord c).or
  (s.traceWrite (dieOf c) c)))))))))

/-- Events of a job slot. -/
def State.jobEvent (s : State) (cl : Nat) (e : Nat × Job) : Option State :=
  (s.jobReport cl e.1).or ((s.jobStep cl e.1).or (s.jobStart cl e.1))

/-- Virtual devices of which a cluster holds a context. -/
def vdsOf (k : Cluster) : NSet := (k.ctxs.filter (·.2.loaded)).foldl (fun l e => setAdd l e.2.img.vd) []

/-- Events of a cluster. -/
def State.clusterEvent (s : State) (e : Nat × Cluster) : Option State :=
  let cl := e.1
  (e.2.log.findSome? fun x => s.sidelogReplay cl x.1).or
  ((e.2.bars.findSome? fun x => s.barComplete cl x.1).or
  ((e.2.unacked.findSome? fun x => s.incBroadcast x cl).or
  ((e.2.jobs.findSome? (s.jobEvent cl)).or
  ((s.spillRefill cl).or
  (((List.range e.2.queue.length).findSome? (s.taskAging cl)).or
  ((s.stealRetry cl).or
  ((vdsOf e.2).findSome? (s.stealRequest cl))))))))

/-- A retired launch has idle strands. -/
def State.retireIdle (s : State) (n : Nat) (l : Launch) : Option State :=
  if l.retired && !(s.idleOf n).isEmpty then s.retireLaunch n else none

/-- Events of the porch die. -/
def State.porchEvent (s : State) : Option State :=
  (s.porch.launches.findSome? fun x => (s.retireIdle x.1 x.2).or (s.launchComplete x.1)).or
  (((List.range s.porch.notices.length).findSome? s.ringDrain).or
  ((s.porch.vfs.findSome? fun x => (s.completionEntry x.1).or (s.recordTake x.1)).or
  ((if s.porch.overDraw then none else s.porch.anyQ.findSome? fun x => s.launchPlacement 8 x.1).or
  (s.leaseEnd.or (changed s s.leaseStart)))))

/-- The event that the device makes next by itself, if one is due: bring-up first, then the network, the homes,
the dies, the cores, the clusters and the porch die. -/
def State.nextState (s : State) : Option State :=
  if s.porch.step < 7 then some (s.powerGood true true 0 0xFFFF)
  else
    s.netEvent.or
    ((s.slices.findSome? s.sliceEvent).or
    ((s.dies.findSome? s.dieEvent).or
    ((s.cores.findSome? s.coreEvent).or
    ((s.clusters.findSome? s.clusterEvent).or (s.porchEvent.or s.scrubOn)))))

/-- The outcome of that event. -/
def State.nextEvent (s : State) : Option Result := s.nextState.map .next

/-- What a part that has halted still meets: the rows that the side door serves, whatever the state of the part, and
power-good, which starts bring-up again (R408, R410). -/
def isSideDoor : Instr → Bool
  | .getVersion _ | .getCapabilities _ | .negotiateAlgorithms _ | .getCertificate _ | .challenge _
  | .getMeasurements _ | .moduleDescriptorRead | .powerLimitSet _ | .powerGood _ _ _ _ => true
  | _ => false

/-- An outcome with nothing short (log 97), and no cluster's cache over full (R94). -/
def calm (o : Host.Outcome State Fault Refusal) : Host.Outcome State Fault Refusal :=
  match o with
  | .next t => .next t.anyway.refit
  | .fault f => .fault f
  | .refused r => .refused r

end Sys2Proof.Machine
end

