-- ==== Sys2Proof/Machine/Step.lean ====
section
/-! DEFINITION. One step of the machine: an event of the agenda, an error that a memory array shows, an event of the
device, or the turn of a party (log 3, log 33); a part whose bring-up has halted serves only the side door and a new
power-good (R408). -/

namespace Sys2Proof.Machine

/-- A turn's outcome, with what remains of it. -/
def spentIn (q : Party) (due : Bool) (o : Host.Outcome State Fault Refusal) : Host.Outcome State Fault Refusal :=
  match o with
  | .next t => .next (t.spent q due)
  | .fault f => .fault f
  | .refused r => .refused r

/-- The turn of a party: the repeater, the porter's built-in handlers, or a strand or porter with an instruction. -/
def runTurn (s : State) (q : Party) : Host.Outcome State Fault Refusal :=
  if q.pos = 7 then execRepeaterIssue q.core (s.begin q)
  else if q.pos = 8 then .next ((s.begin q).builtinTurn q.core)
  else
    match s.turnOf q with
    | .done t => .next (t.spent q (s.due = some q))
    | .run t i => spentIn q (s.due = some q) (exec i t)

/-- What a step does, before what it was short of is left aside. -/
def eventOrTurn (s : State) : Host.Outcome State Fault Refusal :=
  if s.porch.halted then
    match s.agenda with
    | e :: t => if isSideDoor e then exec e { s with agenda := t } else .next { s with agenda := t }
    | [] => .next (s.advance (s.cycle + 1) none)
  else
    match s.agenda with
    | e :: t => if isEvent e then exec e { s with agenda := t } else .next { s with agenda := t }
    | [] =>
      match s.upsets with
      | u :: t => .next ({ s with upsets := t }.strike u)
      | [] =>
        match s.due with
        | some q => if s.canIssue q then runTurn s q else .next { s with due := none }
        | none =>
          match s.nextEvent with
          | some r => r
          | none =>
            match s.pick with
            | some q => runTurn s q
            | none => .next (s.advance (s.cycle + 1) none)

/-- One step: nothing is short between steps (log 97). -/
def step (s : State) : Host.Outcome State Fault Refusal := calm (eventOrTurn s)

/-- A state whose next step issues the strand at position 0 of core 0 with a word at its PC, in the local
store: bring-up is past, nothing else is pending, and the strand runs. It stands for a load of the program
from outside the machine (log 16). -/
def State.withFetchWord (s : State) (nbits w : Nat) : State :=
  let x := s.strand 0 0
  let pc : Pc := if x.regs.pc.toNat ≤ 2047 then x.regs.pc else 0
  let word : BitVec 96 := BitVec.ofNat 96 (w % 2 ^ nbits)
  let k := s.core 0
  let k := { k with
    machine := false
    ls := memWriteList k.ls (12 * pc.toNat) (bytesOfWord word)
    lsP := k.lsP.filter fun n => n < 12 * pc.toNat / 8 || (12 * pc.toNat + 11) / 8 < n }
  let x := { x with
    regs := { x.regs with pc := pc }, st := .run, wait := .none, op := none, breakDone := true, abortWord := none
    migrated := false, again := none, line := some (readLine k (s.ctx 0 x.tag.toNat) pc) }
  { s with
    cores := mapPut s.cores 0 { k with strands := mapPut k.strands 0 x }
    agenda := [], upsets := [], due := some ⟨0, 0⟩, short := none, porch := { s.porch with step := 7, halted := false } }

end Sys2Proof.Machine
end

