-- ==== Sys2Proof/Safety.lean ====
section
/-! DEFINITION. What counts as a safe run, in the terms that claims use. -/

namespace Sys2Proof.Safety

open Sys2Proof.Machine

/-- Every byte memory of a state is in its canonical form: HBM and every local store. -/
def MemOk (s : State) : Prop := memWf s.mem = true ∧ ∀ e ∈ s.cores, memWf e.2.ls = true

/-- A step neither stops nor is refused. -/
def StepsOn (s : State) : Prop := ∃ t, step s = .next t

/-- A core and a party of it stand in the state once, as in every state that a run reaches. -/
def Once (s : State) (c p : Nat) : Prop :=
  (∀ e ∈ s.cores, e.1 = c → e.2 = s.core c) ∧ ∀ y ∈ (s.core c).strands, y.1 = p → y.2 = s.strand c p

/-! Issue -/

/-- A form passes every check of R159 that does not read its operands: the class of its issuer and its level
(R157), its guard (R186), a pending GUARD record when it reports one (R88), the rules of regions (R345), the
claims of the repeater (R50), and its channels are ready (R325). -/
structure Clear (s : State) (g : Guard) (f : Form) : Prop where
  issuer : s.isPorter = true → f.strandOnly = false ∧ f.use.usesChan = false
  level : f.level ≤ s.level.toNat
  guard : s.guardTrue g = true
  record : f.reports = true → s.guardPending = none
  region : s.inRegion = true → f.tracked = true ∧ f.use.usesChan = false
  claim : (s.claimed f.use.vecs || (f.fs && s.fsHeld)) = false
  ready : s.chNotReady s.cur.core s.curVd f.use.a f.use.b f.use.d f.use.dst = none

/-- The issuing party is a strand. -/
def OnStrand (s : State) : Prop := s.cur.pos < 6

/-! Levels (R157, R310, R313) -/

/-- The lowest level that executes an instruction: 0 U, 1 K, 2 L. -/
def levelOf : Instr → Nat
  | .kret .. | .sread .. | .swrite .. | .tlbinv .. | .lres .. | .lmove .. | .sstart .. | .sstop .. | .ctrw .. | .hret .. => 1
  | .sysr _ _ _ n =>
    match n.toNat with
    | 0 => 0
    | 0x32 | 0x50 | 0x51 | 0x60 | 0x71 | 0x72 | 0xF00 => 2
    | _ => 1
  | .sysw _ _ _ n =>
    match n.toNat with
    | 0 => 0
    | 0x10 | 0x11 | 0x12 | 0x13 | 0x14 | 0x15 | 0x20 | 0x21 | 0x42 | 0x70 | 0x76 => 1
    | _ => 2
  | _ => 0

/-- The forms that only strands run: HALT, CHPOLL, CHLIM and the BAR, TASK, REGION, JOB and REP groups. -/
def strandOnly : Instr → Bool
  | .halt .. | .chpoll .. | .chlim .. | .barc .. | .bara .. | .barw .. | .barb .. | .spawn .. | .join .. | .texit ..
  | .launch .. | .frb .. | .fre .. | .fra .. | .frq .. | .job .. | .jwait .. | .jpoll .. | .jcancel .. | .rpt ..
  | .rwait .. | .rstop .. => true
  | _ => false

/-- The fields of an instruction name a channel (R184, R185). -/
def namesChan (f : Fields) : Bool := [f.d, f.a, f.b].any fun x => x.extractLsb' 5 3 = 4

/-! Results -/

/-- A scalar destination can take a result: a poisoned one goes to no channel (R168). -/
def takesS (d : SOp) (poison : Bool) : Prop := ∀ c, d = .ch c → poison = false

/-- The effect of a scalar result. -/
def effS (d : SOp) (x : Word) (poison : Bool) : Eff :=
  match d with
  | .s i => .s i x poison
  | .ch c => .chan c [x]

def effP (d : POp) (b : Bool) : Eff :=
  match d with
  | .p i => .p i b
  | .ch c => .chan c [if b then 1 else 0]

def effK (d : KOp) (x : Word) : Eff :=
  match d with
  | .k i => .k i x
  | .ch c => .chan c [x]

/-- A vector destination can take a result. -/
def takesV (d : VOp) (poison : BitVec 8) : Prop := ∀ c, d = .ch c → poison = 0

def effV (d : VOp) (x : VReg) (poison : BitVec 8) : Eff :=
  match d with
  | .v i => .v i x poison
  | .ch c => .chan c (vToWords x)

/-- An effect on a local store. -/
def isLs : Eff → Bool
  | .ls _ _ => true
  | _ => false

/-! What a retired instruction leaves -/

/-- The words of buffer `q` of core `c` after an instruction of `s.cur` has taken the words of its sources and
placed those of its effects (R324, R325). -/
def chanAfter (s : State) (u : Use) (l : List Eff) (c q : Nat) : List ChWord :=
  let old := mapGet [] (s.core c).chans q
  let left := if c = s.cur.core then
      (u.srcs.filter fun e => e.1 = q).foldl (fun w e => dropWords s.curVd e.2 w) old
    else old
  let vd := (s.ctx (clusterOf s.cur.core) (s.tagOf s.cur.core s.cur.pos)).img.vd
  left ++ (l.map fun e =>
    match e with
    | .chan p ws => if neighbour s.cur.core p.val = some c ∧ oppPort p.val = q then ws.map (⟨·, vd⟩) else []
    | _ => []).flatten

/-- Nothing outside the cores has changed. -/
def OnlyCores (s t : State) : Prop := { t with cores := s.cores } = s

/-- The registers of the other parties of the issuing core: other strands stand as they were; so does the porter
of a strand, and of the porter's sets every one but that of its entry (R46). -/
structure OthersKept (s t : State) : Prop where
  strands : ∀ p, p ≠ s.cur.pos → t.strand s.cur.core p = s.strand s.cur.core p
  porter : s.cur.pos ≠ 6 → t.porter s.cur.core = s.porter s.cur.core
  own : s.cur.pos = 6 → ({ t.porter s.cur.core with
      keepers := (s.porter s.cur.core).keepers, landlord := (s.porter s.cur.core).landlord
      line := (s.porter s.cur.core).line } : Porter) = s.porter s.cur.core
  sets : ∀ n, ¬ (s.cur.pos = 6 ∧ s.level ≠ .l ∧ n = s.tag) →
    mapGet RegSet.zero (t.porter s.cur.core).keepers n = mapGet RegSet.zero (s.porter s.cur.core).keepers n
  landlord : ¬ (s.cur.pos = 6 ∧ s.level = .l) → (t.porter s.cur.core).landlord = (s.porter s.cur.core).landlord

/-- An instruction of `s.cur` has changed nothing but its own party's registers and line, and words of channels. -/
structure OwnOnly (s t : State) : Prop where
  rest : OnlyCores s t
  cores : ∀ c, c ≠ s.cur.core → ({ t.core c with chans := (s.core c).chans } : Core) = s.core c
  core : ({ t.core s.cur.core with
      strands := (s.core s.cur.core).strands, porter := (s.core s.cur.core).porter
      chans := (s.core s.cur.core).chans } : Core) = s.core s.cur.core
  strand : s.cur.pos ≠ 6 → ({ t.strand s.cur.core s.cur.pos with
      regs := (s.strand s.cur.core s.cur.pos).regs
      line := (s.strand s.cur.core s.cur.pos).line } : Strand) = s.strand s.cur.core s.cur.pos
  others : OthersKept s t

/-- The state after an instruction of `s.cur` that uses `u` has retired with effects `l`: the registers, the
channel words, and what stands as it was. -/
structure Settled (s t : State) (u : Use) (l : List Eff) : Prop where
  regs : t.regs = ({ l.foldl RegSet.eff s.regs with pc := (effJump l).getD (s.pc + 1) } : RegSet)
  chans : ∀ c q, mapGet [] (t.core c).chans q = chanAfter s u l c q
  own : OwnOnly s t

/-- The instruction answers the state in which it has retired with effects `l`. -/
def Retires (i : Instr) (s : State) (u : Use) (l : List Eff) : Prop :=
  ∃ t, exec i s = .next t ∧ Settled s t u l

/-- What has a vector of `w`-bit elements with the poison of its words and the flags of its element operations:
element `j` is `e j` (R251, R254, R156). -/
structure ElemsAre (w : Nat) (e : Nat → Nat × Bool × Flags) (x : VReg) (p : BitVec 8) (f : Flags) : Prop where
  val : ∀ j < 512 / w, elem w x j = (e j).1 % 2 ^ w
  poison : ∀ n < 8, p.getLsbD n = true ↔ ∃ j < 512 / w, (e j).2.1 = true ∧ w * j / 64 = n
  flags : ∀ n < 5, f.getLsbD n = true ↔ ∃ j < 512 / w, (e j).2.2.getLsbD n = true

/-! Local stores -/

/-- The issuing party has touched byte ranges of its local store (R88). -/
def touched (s : State) (l : List (Nat × Nat)) : State :=
  l.foldl (fun s x => s.guardTouch s.cur.core s.cur.pos x.1 x.2) s

/-- The issuing party has stored bytes to its local store, one range after another (R87, R283). -/
def stored (s : State) (l : List (Nat × List PByte)) : State :=
  l.foldl (fun s x => (s.guardTouch s.cur.core s.cur.pos x.1 x.2.length).lsStore s.cur.core x.1 x.2) s

/-- The instruction answers the state in which it has retired with effects `l` from `b`, a state that differs from `s`
in what the instruction has done besides. -/
def RetiresFrom (i : Instr) (s b : State) (u : Use) (l : List Eff) : Prop :=
  ∃ t, exec i s = .next t ∧ Settled b t u l

/-! What a party that stays at its instruction leaves -/

/-- What a party has changed lies in itself: outside it only channel words, and the trace records of its core with
the count of those that its die has lost (R401, R404). -/
structure Confined (c p : Nat) (s t : State) : Prop where
  rest : { t with cores := s.cores, dies := s.dies } = s
  dies : ∀ d, ({ t.die d with trace := (s.die d).trace } : Die) = s.die d
  cores : ∀ e, e ≠ c → ({ t.core e with chans := (s.core e).chans } : Core) = s.core e
  core : ({ t.core c with
      strands := (s.core c).strands, porter := (s.core c).porter, chans := (s.core c).chans
      stamps := (s.core c).stamps, stampLost := (s.core c).stampLost } : Core) = s.core c
  strands : ∀ q, q ≠ p → t.strand c q = s.strand c q
  porter : p ≠ 6 → ({ t.porter c with queue := (s.porter c).queue } : Porter) = s.porter c

/-- The run state of a party (R40). -/
def stOf (s : State) (c p : Nat) : RunState := if p = 6 then (s.porter c).st else (s.strand c p).st

/-- A party has left the rotation and waits; its registers stand (R43). What its instruction holds of its channels is
noted with it (R325). -/
structure Parked (c p : Nat) (s t : State) (st : RunState) (w : Wait) : Prop where
  own : Confined c p s t
  strand : p ≠ 6 → ({ t.strand c p with
      st := (s.strand c p).st, wait := (s.strand c p).wait
      holdSrc := (s.strand c p).holdSrc, holdDst := (s.strand c p).holdDst } : Strand) = s.strand c p
  porter : t.porter c = if p = 6 then { s.porter c with st := st, wait := w } else s.porter c
  st : stOf t c p = st
  wait : t.waitOf c p = w
  chans : ∀ e q, mapGet [] (t.core e).chans q = mapGet [] (s.core e).chans q

/-- The instruction answers a state in which its party waits at it. -/
def Waits (i : Instr) (s : State) (st : RunState) (w : Wait) : Prop :=
  ∃ t, exec i s = .next t ∧ Parked s.cur.core s.cur.pos s t st w

/-- A long operation: the party leaves the rotation with effects `l` held, which LONG_LATENCY_RESULT writes (R43). -/
def Holds (i : Instr) (s : State) (u : Use) (l : List Eff) : Prop :=
  ∃ t, exec i s = .next t ∧ Parked s.cur.core s.cur.pos (s.takeSrcs u) t .waitMem (.result l)

/-! Traps -/

/-- The fields of fault word 0 (R163). -/
structure Fault0 (w : Word) (gti : BitVec 32) (seq upper imp : Bool) (sub cause : Nat) : Prop where
  gti : w.extractLsb' 32 32 = gti
  zero : w.extractLsb' 19 13 = 0
  seq : w.getLsbD 18 = seq
  upper : w.getLsbD 17 = upper
  imp : w.getLsbD 16 = imp
  sub : (w.extractLsb' 8 8).toNat = sub % 256
  cause : (w.extractLsb' 0 8).toNat = cause % 256

/-- A strand has taken a trap: it stands TRAPPED at its instruction with the fault record, its registers as they
were, and its keeper entry stands last in the porter's queue (R161, R163). -/
structure Trapped (c p : Nat) (s t : State) (i : TrapInfo) : Prop where
  own : Confined c p s t
  strand : ({ t.strand c p with
      st := (s.strand c p).st, wait := (s.strand c p).wait, op := (s.strand c p).op
      fault := (s.strand c p).fault } : Strand) = s.strand c p
  st : (t.strand c p).st = .trapped
  wait : (t.strand c p).wait = .none
  op : (t.strand c p).op = none
  fd0 : Fault0 (t.strand c p).fault.fd0 (s.strand c p).gti false i.upper (impCause i.cause) i.sub i.cause
  fd1 : (t.strand c p).fault.fd1.toNat = locWord c p % 2 ^ 40 * 2 ^ 24 + (s.strand c p).regs.pc.toNat
  fd2 : (t.strand c p).fault.fd2 = BitVec.ofNat 64 i.addr
  fd3 : (t.strand c p).fault.fd3 = BitVec.ofNat 64 i.info
  queue : (t.porter c).queue = (s.porter c).queue ++ [.trap p]
  chans : ∀ e q, mapGet [] (t.core e).chans q = mapGet [] (s.core e).chans q

/-- The instruction answers a state in which its party has taken a trap: a strand waits for its keeper; code of the
porter for its landlord's entry (R161, R164). `b` is what the instruction has left before the trap. -/
def TrapsFrom (i : Instr) (s b : State) (e : TrapInfo) : Prop :=
  ∃ t, exec i s = .next t ∧
    (s.cur.pos ≠ 6 → Trapped s.cur.core s.cur.pos b t e) ∧
    (s.cur.pos = 6 → t.porter s.cur.core = { b.porter s.cur.core with
      st := .trapped, wait := .none, op := none
      queue := .landlord e :: (b.porter s.cur.core).queue } ∧ OnlyCores b t)

/-- The instruction answers a state in which its party has taken a trap and nothing else has changed. -/
def Traps (i : Instr) (s : State) (e : TrapInfo) : Prop := TrapsFrom i s s e

/-! Global accesses -/

/-- The check of R79: an access of `n` bytes at offset `off` lies in a segment that has the rights. -/
def InSegment (g : Seg) (rights : List Nat) (off : Int) (n : Nat) : Prop :=
  g.limit.toNat ≤ 2 ^ 48 ∧ (∀ r ∈ rights, g.rights.getLsbD r = true) ∧ 0 ≤ off ∧ off + n ≤ g.limit.toNat ∧
    g.base.toNat + off.toNat + n ≤ 2 ^ 56

def isJoin : GAct → Bool
  | .join _ => true
  | _ => false

/-- An access first waits for side-log entries of its own strand (R125, R301, R304, R340). -/
def drains (s : State) (act : GAct) (a n : Nat) : Bool :=
  (waitsOverlap act && s.entriesOverlap s.cur.core s.cur.pos a n) ||
    (isJoin act && s.hasEntries s.cur.core s.cur.pos)

/-- The access of the issuing party that its instruction has started: nothing of it is done yet, and its party waits
for the last reply (R43, R288). -/
structure InFlight (s b : State) (u : Use) (act : GAct) (a n : Nat) (data : List PByte) : Prop where
  own : Confined s.cur.core s.cur.pos { s with nextId := s.nextId + 1 } b
  regs : b.regsOf s.cur.core s.cur.pos = s.regs
  chans : ∀ e q, mapGet [] (b.core e).chans q = mapGet [] (s.core e).chans q
  st : stOf b s.cur.core s.cur.pos = waitSt act
  wait : b.waitOf s.cur.core s.cur.pos = .reply
  op : ∃ o, b.opOf s.cur.core s.cur.pos = some o ∧ o.id = s.nextId ∧ o.act = act ∧ o.dva = a ∧ o.len = n ∧
    o.pieces = (if n = 0 then [] else splitPages a n) ∧ o.data = data ∧ o.got = [] ∧ o.left = 0 ∧ o.sent = false ∧
    o.bad = 0 ∧ o.chSrc = u.srcs ∧ o.since = s.cycle ∧
    o.region = (if s.cur.pos < 6 ∧ trackedAct act then (s.strand s.cur.core s.cur.pos).region else none)

/-- The instruction starts an access at device-virtual address `a` of `n` bytes from state `b`: it waits for its own
logged bytes, or the answer is the state in which its pieces are translated (R81, R100); what it names of channels is
held while it waits to begin (R325). -/
def StartsFrom (i : Instr) (s b : State) (u : Use) (act : GAct) (a n : Nat) (data : List PByte) : Prop :=
  if drains b act a n then ∃ t, exec i s = .next t ∧ Parked s.cur.core s.cur.pos b t .waitMem .sidelog
  else ∃ x, InFlight b x u act a n data ∧ exec i s = .next (s.holdChans (x.translateOp s.cur.core s.cur.pos) u)

/-- The instruction has acted, which left state `b`, and its party waits only for its acknowledgement, which is under
way (R121, R113). -/
def ActsAndWaits (i : Instr) (s b : State) (u : Use) : Prop :=
  ∃ x, InFlight b x u .done 0 0 [] ∧ exec i s = .next (x.ackLocal s.cur.core s.cur.pos 0)

/-- A form of a global access (R288): `poison` is the number of its first poisoned source, `align` its natural
alignment, `data` what it carries. -/
def GlobalForm (i : Instr) (s : State) (u : Use) (m : GMem) (rights : List Nat) (act : GAct) (poison : Option Nat)
    (align : Nat) (data : List PByte) : Prop :=
  let off : Int := ((s.view u).s (s.view u).a m.a).v.toInt + m.disp.toInt
  let n := m.len.toNat + 1
  let g := s.regs.g[m.seg]
  let a := g.base.toNat + off.toNat
  match poison with
  | some k => Traps i s { cause := 0x09, sub := k }
  | none =>
    (¬ InSegment g rights off n → Traps i s { cause := 0x03 }) ∧
    (InSegment g rights off n → a % align ≠ 0 → Traps i s { cause := 0x06, addr := a }) ∧
    (InSegment g rights off n → a % align = 0 → StartsFrom i s s u act a n data)

/-- The low `n` bytes of a scalar, lowest first. -/
def lowBytes (n : Nat) (x : PWord) : List PByte := (List.range n).map fun j => ⟨x.v.extractLsb' (8 * j) 8, x.p⟩

/-- The number of the first poisoned source of A, B and D (R163). -/
def poisoned (a b d : Bool) : Option Nat := if a then some 1 else if b then some 2 else if d then some 0 else none

/-- The side log of the party, and bytes that a region or the host holds or that find no room, come first; a release
that needs a frame of an empty pool raises LOFT_OVERFLOW; then the release at .dev has been performed, and the party goes
on (R107, R125, R128). -/
def AfterRelease (i : Instr) (s : State) (go : State → Prop) : Prop :=
  if s.hasEntries s.cur.core s.cur.pos then Waits i s .waitMem .sidelog
  else if s.relBlocked s.cur.core s.cur.pos .dev then Waits i s .waitMem .region
  else match s.relOver s.cur.core s.cur.pos .dev with
    | some n => Traps i s { cause := 0x0D, info := n % 96 + n / 96 * 256 }
    | none => go (s.release s.cur.core s.cur.pos .dev)

/-- Event `e` completes the access of a party with effects `l`: its registers and the next instruction, no operation
left, and the party back in the rotation unless a stop waits for it (R43, R113). -/
def Ends (e : Instr) (s : State) (c p : Nat) (l : List Eff) : Prop :=
  ∃ t, exec e s = .next t ∧
    t.regsOf c p = ({ l.foldl RegSet.eff (s.regsOf c p) with pc := (s.regsOf c p).pc + 1 } : RegSet) ∧
    t.opOf c p = none ∧ ((s.strand c p).stopPending = false → stOf t c p = .run ∧ t.waitOf c p = .none)

/-- Event `e` ends the access of a strand with a trap; its registers stand (R158, R163). -/
def TrapsAt (e : Instr) (s : State) (c p : Nat) (i : TrapInfo) : Prop :=
  ∃ b t, exec e s = .next t ∧ Trapped c p b t i ∧ b.regsOf c p = s.regsOf c p ∧ (b.strand c p).gti = (s.strand c p).gti

/-- Flit `f` has been answered with `m`: the answer goes back to its source on RSP under the incarnation that it
carried (R39, R179). -/
def Answered (s t : State) (f : Flit) (m : Msg) : Prop :=
  ∃ g ∈ t.net, g.id = s.nextId ∧ g.msg = m ∧ g.vc = vcRSP ∧ g.ddie = f.sdie ∧ g.dstop = f.sstop ∧ g.inc = f.inc ∧
    g.gti = f.gti

/-! The porter -/

/-- The porter of core `c` has taken entry `e` in state `x`: the entry's set with its PC and the registers `l`, and
nothing of another set or of a strand (R45, R46, R161). -/
structure Entered (x t : State) (c : Nat) (e : Entry) (l : List (Fin 32 × Word)) : Prop where
  cur : (t.porter c).cur = some e
  st : (t.porter c).st = .run
  wait : (t.porter c).wait = .none
  regs : t.regsOf c 6 = l.foldl (fun r y => r.setS y.1 ⟨y.2, false⟩)
    ({ (if e.landlord then (x.porter c).landlord
        else mapGet RegSet.zero (x.porter c).keepers e.tag.toNat) with pc := e.pc } : RegSet)
  sets : ∀ n, ¬ (e.landlord = false ∧ n = e.tag.toNat) →
    mapGet RegSet.zero (t.porter c).keepers n = mapGet RegSet.zero (x.porter c).keepers n
  landlord : e.landlord = false → (t.porter c).landlord = (x.porter c).landlord
  strands : ∀ k p, t.strand k p = x.strand k p

/-! Exact results (R135, R138, R139, R149) -/

/-- The number that a finite value stands for. -/
def worth (n : Bool) (m : Nat) (e : Int) : ℚ := (if n then -1 else 1) * m * (2 : ℚ) ^ e

/-- The multiple n · 2^q that a mode gives for a magnitude (R138). -/
structure Nearest (rm : Rmode) (neg : Bool) (x : ℝ) (q : ℤ) (n : ℕ) : Prop where
  close : |x - n * (2 : ℝ) ^ q| < (2 : ℝ) ^ q
  rtz : rm = .rtz → n * (2 : ℝ) ^ q ≤ x
  rup : rm = .rup → if neg then n * (2 : ℝ) ^ q ≤ x else x ≤ n * (2 : ℝ) ^ q
  rdn : rm = .rdn → if neg then x ≤ n * (2 : ℝ) ^ q else n * (2 : ℝ) ^ q ≤ x
  rne : rm = .rne → |x - n * (2 : ℝ) ^ q| ≤ (2 : ℝ) ^ q / 2 ∧ (|x - n * (2 : ℝ) ^ q| = (2 : ℝ) ^ q / 2 → n % 2 = 0)

/-- The largest finite number of a format (R135). -/
def largest (f : Fmt) : ℚ :=
  if f.inf then (2 ^ (f.mb + 1) - 1) * (2 : ℚ) ^ (f.emin + 2 ^ f.eb - 3)
  else (2 ^ (f.mb + 1) - 2) * (2 : ℚ) ^ (f.emin + 2 ^ f.eb - 2)

/-- The bits of an infinity, or of the largest finite number where the format has none or the instruction saturates, and
its flags (R149). -/
def infinite (f : Fmt) (sat neg : Bool) : Nat × Flags :=
  if f.inf && !sat then (signed f neg (f.expMask * 2 ^ f.mb), 0) else (signed f neg f.maxFin, fOF ||| fNX)

/-- What a positive magnitude beyond the range gives (R139, R149). -/
def overflowed (f : Fmt) (rm : Rmode) (sat neg : Bool) : Nat × Flags :=
  let away : Bool := rm = .rne || (rm = .rup && !neg) || (rm = .rdn && neg)
  (if away then (infinite f sat neg).1 else signed f neg f.maxFin, fOF ||| fNX)

/-- A positive magnitude rounded once into a format. The unit of its last place is that of its binade, or of the
subnormals; the result is tiny when the magnitude, rounded as if the exponent had no bound, lies below the smallest
normal (R136, R138, R139). -/
def Rounded (f : Fmt) (rm : Rmode) (sat neg : Bool) (x : ℝ) (r : Nat × Flags) : Prop :=
  let unit : ℤ := Int.log 2 x - f.mb
  ∃ n k : ℕ, Nearest rm neg x (max unit f.emin) n ∧ Nearest rm neg x unit k ∧
    let y : ℝ := n * (2 : ℝ) ^ max unit f.emin
    ((largest f : ℝ) < y → r = overflowed f rm sat neg) ∧
    (y ≤ (largest f : ℝ) → r.1 < 2 ^ f.width ∧ (∃ m e, fpDec f r.1 = .fin neg m e ∧ m * (2 : ℝ) ^ e = y) ∧
      (r.2.getLsbD 0 = true ↔ x ≠ y) ∧
      (r.2.getLsbD 1 = true ↔ x ≠ y ∧ k * (2 : ℝ) ^ unit < (2 : ℝ) ^ (f.emin + f.mb)) ∧ r.2.extractLsb' 2 3 = 0)

/-- An exact real number rounded once into a format; an exact zero has the sign `z` and raises nothing. -/
def Exact (f : Fmt) (rm : Rmode) (sat : Bool) (x : ℝ) (z : Bool) (r : Nat × Flags) : Prop :=
  (x = 0 → r = (signed f z 0, 0)) ∧ (x < 0 → Rounded f rm sat true (-x) r) ∧ (0 < x → Rounded f rm sat false x r)

/-- A value converted into a format: a NaN is the canonical one, with nv when it signals (R137, R149, R241). -/
def Converted (f : Fmt) (rm : Rmode) (sat : Bool) (v : FV) (r : Nat × Flags) : Prop :=
  match v with
  | .nan sg => r = (f.nan, if sg then fNV else 0)
  | .inf n => r = infinite f sat n
  | .fin n m e => Exact f rm sat ((worth n m e : ℚ) : ℝ) n r

/-- A value rounded to an integer and confined to a range. -/
def Confines (rm : Rmode) (lo hi : ℤ) (n : Bool) (x : ℝ) (i : ℤ) (clamped inexact : Bool) : Prop :=
  ∃ k : ℕ, Nearest rm n |x| 0 k ∧
    let y : ℤ := if n then -k else k
    (y < lo → i = lo ∧ clamped = true) ∧ (hi < y → i = hi ∧ clamped = true) ∧
      (lo ≤ y → y ≤ hi → i = y ∧ clamped = false ∧ (inexact = true ↔ |x| ≠ k))

/-- An element that an engine writes in a plain FP format, and whether exc counts it: poison, a NaN, an infinity, or a
value that saturated (R148, R149, R374). `fl` are flags that were raised before. -/
def WritesPlain (code : Nat) (rm : Rmode) (sat : Bool) (fl : Flags) (x : Elem) (o : Nat × Bool) : Prop :=
  let f := plainFmt code
  match x with
  | .poison => o = (f.nan, true)
  | .val v => ∃ r, Converted f rm sat v r ∧ o.1 = r.1 ∧
      (o.2 = true ↔ (∀ n m e, fpDec f r.1 ≠ .fin n m e) ∨ (sat = true ∧ (r.2 ||| fl).getLsbD 2 = true))

/-- A positive number truncated to twelve significant bits (R261, R262). -/
def Truncated (x t : ℝ) : Prop :=
  ∃ n : ℕ, t = n * (2 : ℝ) ^ (Int.log 2 x - 11) ∧ t ≤ x ∧ x < (n + 1) * (2 : ℝ) ^ (Int.log 2 x - 11)

/-! Vectors -/

/-- An instruction gives the vector destination `d` the elements `e j` and raises their flags; a poisoned result for a
channel raises POISON (R254, R168). `R` says how it ends: `Retires` or `Holds`. -/
def GivesV (R : Instr → State → Use → List Eff → Prop) (i : Instr) (s : State) (u : Use) (d : VOp) (w : Nat)
    (e : Nat → Nat × Bool × Flags) : Prop :=
  ∃ x p f, ElemsAre w e x p f ∧ (takesV d p → R i s u [effV d x p, .flags f]) ∧
    (¬ takesV d p → ∃ n, Traps i s { cause := 0x09, sub := n })

/-- A binary form: D[j] ← A[j] op B[j], or under a mask D[j] ← D[j] op A[j] where element j is active (R252). -/
def BinaryV (R : Instr → State → Use → List Eff → Prop) (i : Instr) (s : State) (d a : VOp) (b : VB) (w : Nat)
    (op : Nat → Nat → Nat × Flags) : Prop :=
  let u := (formVVB d a b).use
  let v := s.view u
  let x := v.v v.a a
  let z := v.v v.d d
  GivesV R i s u d w fun j =>
    match v.vb b with
    | .mask k =>
      if k.getLsbD (j * w / 8) then
        let r := op (elem w z.x j) (elem w x.x j)
        (r.1, elemP w z.p j || elemP w x.p j, r.2)
      else (elem w z.x j, elemP w z.p j, 0)
    | .vec y =>
      let r := op (elem w x.x j) (elem w y.x j)
      (r.1, elemP w x.p j || elemP w y.p j, r.2)
    | .all y p =>
      let r := op (elem w x.x j) (y.toNat % 2 ^ w)
      (r.1, elemP w x.p j || p, r.2)

/-- A unary form: D[j] ← op(A[j]) on active elements, every element with no mask (R252). -/
def UnaryV (R : Instr → State → Use → List Eff → Prop) (i : Instr) (s : State) (d a : VOp) (b : KOpt) (w : Nat)
    (op : Nat → Nat × Flags) : Prop :=
  let u := (formVVK d a b).use
  let v := s.view u
  let x := v.v v.a a
  let z := v.v v.d d
  GivesV R i s u d w fun j =>
    if (v.ko v.b b).all fun k => k.getLsbD (j * w / 8) then
      let r := op (elem w x.x j)
      (r.1, elemP w x.p j, r.2)
    else (elem w z.x j, elemP w z.p j, 0)

/-- Some word of an operand B is poisoned. -/
def bPoison : BVal → Bool
  | .vec y => decide (y.p ≠ 0)
  | .all _ p => p
  | .mask _ => false

/-- A mask destination: the w/8 byte-lane bits of element j are its test; a poisoned source raises POISON (R258,
R254). -/
def MaskV (i : Instr) (s : State) (d : KOp) (a : VOp) (b : VB) (w : Nat) (test : Nat → Nat → Bool × Flags) : Prop :=
  let u := (formKVB d a b).use
  let v := s.view u
  let x := v.v v.a a
  let y := v.vb b
  let r (j : Nat) := test (elem w x.x j) (y.elem w j).1
  if x.p ≠ 0 then Traps i s { cause := 0x09, sub := 1 }
  else if bPoison y then Traps i s { cause := 0x09, sub := 2 }
  else ∃ k f, Retires i s u [effK d k, .flags f] ∧ (∀ n < 64, k.getLsbD n = (r (8 * n / w)).1) ∧
    ∀ n < 5, f.getLsbD n = true ↔ ∃ j < 512 / w, (r j).2.getLsbD n = true

/-- Node `j` of level `l` of the tree of VFREDADD over the elements present (R266). -/
def redNode (f : Fmt) (x : Nat → Option Nat) : Nat → Nat → Option Nat
  | 0, j => x j
  | l + 1, j =>
    match redNode f x l (2 * j), redNode f x l (2 * j + 1) with
    | some a, some b => some (fpAdd f .rne false a b).1
    | some a, none => some a
    | none, b => b

/-- The flags of the additions of that tree up to node `j` of level `l`. -/
def redFlags (f : Fmt) (x : Nat → Option Nat) : Nat → Nat → Flags
  | 0, _ => 0
  | l + 1, j =>
    redFlags f x l (2 * j) ||| redFlags f x l (2 * j + 1) |||
      match redNode f x l (2 * j), redNode f x l (2 * j + 1) with
      | some a, some b => (fpAdd f .rne false a b).2
      | _, _ => 0

end Sys2Proof.Safety
end

