-- ==== Sys2Proof/Certificates/Slice0/Obligations.lean ====
section
/-! DEFINITION. The statements about this model. A statement that has several parts joins the claims that stand
before it. `Clear`, `Retires`, `Holds`, `Waits`, `Traps` and the other terms are those of Sys2Proof/Safety.lean. -/

open Sys2Proof Sys2Proof.Machine Sys2Proof.Safety

/-- Decode and encode agree: every instruction has a word, and a well-formed one is what its word decodes to, with every
operand at every value the encoding admits (R183 to R192). -/
def Obligations.DecodeOfEncode : Prop :=
  ∀ i : Instr, (isEvent i = false → (encode i).isSome = true) ∧
    (wellFormed i = true → ∀ w, encode i = some w → decode w = .ok i)

/-- A word that decodes is a well-formed instruction and the only word of it; unassigned major opcodes and functions,
guard 000 with negate 1 and operand classes 101 and 110 decode to nothing (R183, R191, R192). -/
def Obligations.EncodeOfDecode : Prop :=
  ∀ w : BitVec 96,
    let op := (w.extractLsb' 88 8).toNat
    let fn := (w.extractLsb' 76 8).toNat
    let refused : Prop := ∃ e, decode w = .error e
    (∀ i, decode w = .ok i → wellFormed i = true ∧ isEvent i = false ∧ encode i = some w) ∧
    (op = 0 ∨ 0x16 ≤ op → refused) ∧
    (∀ last, [0x20, 0x07, 0x0A, 0x0B, 0x02, 0x10, 0x0E, 0x0C, 0x06, 0x02, 0x06, 0x06, 0x16, 0x08, 0x02, 0x06, 0x03, 0x03,
      0x03, 0x03, 0x0E][op - 1]? = some last → last < fn → refused) ∧
    (w.extractLsb' 84 4 = 1 → refused) ∧
    (∀ p ∈ [68, 60, 52], w.extractLsb' (p + 5) 3 = 5 ∨ w.extractLsb' (p + 5) 3 = 6 → refused)

/-- Words that the spec writes out, and the instructions they stand for; that of `chlim 1000` has its B field at [59:52]
as R183 lays it out, which the printed word of 20_isa_sync.md does not (log 25). -/
def Obligations.DecodedWords : Prop :=
  let g : Guard := ⟨0, false⟩
  decode 0x030070000000000000000000#96 = .ok (.nop g) ∧
  decode 0x120004221050000000000000#96 = .ok (.spawn g (.p 2) (.v 1) (.s 5)) ∧
  decode 0x120014206000400700000000#96 = .ok (.join g (.p 2) ⟨2, .s 6, 0, 7⟩) ∧
  decode 0x050010207E00000000010000#96 = .ok (.segnarrow g 2 (.s 7) (.imm 0x10000)) ∧
  decode 0x100000506070000000000003#96 = .ok (.amsg g (.s 5) (.s 6) (.s 7) 3) ∧
  decode 0x100060000E000000000003E8#96 = .ok (.chlim g (.imm 1000)) ∧
  decode 0x13000050000000000000000A#96 = .ok (.frb g (.s 5) 10) ∧
  decode 0x150020503000000000000051#96 = .ok (.sread g (.s 5) (.s 3) 0x51) ∧
  decode 0x150060506070000000000001#96 = .ok (.tlbinv g (.s 5) (.s 6) (.s 7) 1)

/-- The turn of a party (R41, R159, R192 to R195; which party's turn it is is the model's order, log 3). Its word is the
one at its pc in its line, or where it enters a line the one that memory holds: 12 bytes of the local store at 12 ×
index, or an entry of the context's code image, by pc[23]. A word that decodes runs: `step` is `exec` of its
instruction in a state of that party's cycle in which registers, channels, memory and the other strands stand as
they were, but for an abort word that the party owes a channel (R362); the cycle is then not the repeater's, unless
the party leaves it vacant (R44, R49). A word that does not decode and an index that is not legal in its space raise
ILLEGAL at that pc, a poisoned word POISON with subcode 3, after a pending GUARD record. -/
def Obligations.StepRunsTheDecodedInstruction : Prop :=
  ∀ (s : State) (c p : Nat), s.porch.halted = false → s.agenda = [] → s.upsets = [] → p ≤ 6 →
    (s.due = some ⟨c, p⟩ ∨ (s.due = none ∧ s.nextEvent = none ∧ s.pick = some ⟨c, p⟩)) →
    s.canIssue ⟨c, p⟩ = true → s.opOf c p = none →
    (p < 6 → (s.strand c p).again.isSome = true ∨
      ((s.strand c p).migrated = false ∧ ((s.strand c p).breakDone = true ∨ s.brkHit c p = false))) →
    let pc := (s.regsOf c p).pc
    let n := (pc.extractLsb' 0 23).toNat
    let code := (s.ctx (clusterOf c) (s.tagOf c p)).img.code
    let inLine (l : Line) : Prop := l.code = pc.getLsbD 23 ∧ l.num = n / 8
    let legal : Prop := if pc.getLsbD 23 then n < code.length else n ≤ 2047
    let owed : State := if p < 6 then s.placeAbort c p else s
    let ends (o : Host.Outcome State Fault Refusal) : Prop := step s = calm (spentIn ⟨c, p⟩ (s.due = some ⟨c, p⟩) o)
    let kept (t : State) : Prop := t.cur = ⟨c, p⟩ ∧ s.cycle ≤ t.cycle ∧ (s.due ≠ none → t.cycle = s.cycle) ∧
      (s.due = none → t.cycle % 8 = p) ∧ t.regsOf c p = s.regsOf c p ∧
      t.mem = s.mem ∧ (∀ e q, (e, q) ≠ (c, p) → t.strand e q = s.strand e q) ∧
      (p < 6 → ({ t.strand c p with
        line := (s.strand c p).line, notBefore := (s.strand c p).notBefore, again := (s.strand c p).again
        last := (s.strand c p).last, breakDone := (s.strand c p).breakDone, holdSrc := (s.strand c p).holdSrc
        holdDst := (s.strand c p).holdDst, abortWord := (s.strand c p).abortWord } : Strand) = s.strand c p) ∧
      ∀ e, (t.core e).chans = (owed.core e).chans ∧ (t.core e).ls = (s.core e).ls ∧ (t.core e).lsP = (s.core e).lsP
    (¬ legal → ∃ t : State, ends (.next (t.takeTrap { cause := 0x01 })) ∧ kept t) ∧
    (legal → ∀ (w : BitVec 96) (bad : Bool),
      (∀ l, s.lineOf c p = some l → inLine l → l.words[n % 8]? = some (w, bad)) →
      ((∀ l, s.lineOf c p = some l → ¬ inLine l) →
        if pc.getLsbD 23 then code[n]? = some w ∧ bad = false
        else (∀ j < 12, w.extractLsb' (8 * j) 8 = (lsByte (s.core c) (12 * n + j)).v) ∧
          (bad = true ↔ ∃ j < 12, (lsByte (s.core c) (12 * n + j)).p = true)) →
      (∀ i, bad = false → decode w = .ok i → ∃ t, ends (exec i t) ∧ kept t) ∧
      (∀ e, bad = false → decode w = .error e → ∃ t : State, ends (.next (t.takeTrap { cause := 0x01 })) ∧ kept t) ∧
      (bad = true → ∃ t : State, kept t ∧ ends (.next (t.takeTrap (match t.guardPending with
        | some r => tGuard r
        | none => { cause := 0x09, sub := 3 })))))

/-- Before and instead of a party's turn: an event of the agenda runs first (log 3), then an error that a memory array
shows (log 33); nothing is short between steps (log 97); in a part whose bring-up has halted only the side door and
a new power-good are served, other events are dropped (log 67), and time passes (R408, R410). -/
def Obligations.StepBesideInstructions : Prop :=
  ∀ s : State,
    (∀ e t, s.porch.halted = false → s.agenda = e :: t → isEvent e = true → step s = calm (exec e { s with agenda := t })) ∧
    (∀ e t, s.porch.halted = false → s.agenda = e :: t → isEvent e = false →
      step s = calm (.next { s with agenda := t })) ∧
    (∀ u t, s.porch.halted = false → s.agenda = [] → s.upsets = u :: t →
      step s = calm (.next (({ s with upsets := t } : State).strike u))) ∧
    (∀ t, step s = .next t → t.short = none) ∧
    (s.porch.halted = true →
      (∀ e t, s.agenda = e :: t → isSideDoor e = true → step s = calm (exec e { s with agenda := t })) ∧
      (∀ e t, s.agenda = e :: t → isSideDoor e = false → step s = calm (.next { s with agenda := t })) ∧
      (s.agenda = [] → ∃ t, step s = .next t ∧ t.cycle = s.cycle + 1 ∧ t.mem = s.mem ∧ t.net = s.net ∧ t.porch = s.porch ∧
        ∀ c p, t.strand c p = s.strand c p)) ∧
    (∀ b, isSideDoor (.getVersion b) = true ∧ isSideDoor (.getCapabilities b) = true ∧
      isSideDoor (.negotiateAlgorithms b) = true ∧ isSideDoor (.getCertificate b) = true ∧
      isSideDoor (.challenge b) = true ∧ isSideDoor (.getMeasurements b) = true) ∧
    isSideDoor .moduleDescriptorRead = true ∧ (∀ n, isSideDoor (.powerLimitSet n) = true) ∧
    ∀ a b n l, isSideDoor (.powerGood a b n l) = true

/-- Reset: memories are zero and in canonical form, bring-up has not begun, nothing runs, miglimit is 4,096 and the
other registers read 0 (R313, R408); registers without a reset value in the spec are 0 by the model's choice (log
1). -/
def Obligations.ResetState : Prop :=
  let s := State.reset
  MemOk s ∧ s.cycle = 0 ∧ s.net = [] ∧ s.upsets = [] ∧ s.short = none ∧ s.porch.step = 0 ∧ s.porch.halted = false ∧
  (∀ a, memRead s.mem a = 0 ∧ setHas s.memP (a / 8) = false) ∧
  (∀ d, (s.die d).miglimit = 4096 ∧ (s.die d).pool = []) ∧
  ∀ c p, (s.strand c p).st = .idle ∧ (s.porter c).cur = none ∧ s.regsOf c p = RegSet.zero ∧
    (∀ i, RegSet.zero.getS i = ⟨0, false⟩) ∧ (∀ a, lsByte (s.core c) a = ⟨0, false⟩) ∧ (s.core c).ctxbuf = 0 ∧
    (s.core c).lltab = 0 ∧ s.canIssue ⟨c, p⟩ = false

/-- HBM and every local store keep their canonical form in every step. -/
def Obligations.MemoryStaysCanonical : Prop :=
  ∀ s t : State, MemOk s → step s = .next t → MemOk t

/-- Privilege levels: strands run at U and porter code at the level of its entry; a strand that issues an instruction
reserved to K or L, and keeper code that issues one reserved to L, raise PRIV, whatever the guard, which for keeper
code is delivered to the landlord; porter code that issues a form that only strands run, or names a channel, raises
ILLEGAL (R157, R185, R186, R324). -/
def Obligations.PrivilegeLevels : Prop :=
  ∀ (s : State) (i : Instr), wellFormed i = true →
    (s.cur.pos < 6 → s.level = .u) ∧
    (∀ e, s.cur.pos = 6 → (s.porter s.cur.core).cur = some e → s.level = if e.landlord then .l else .k) ∧
    (s.cur.pos < 6 → 1 ≤ levelOf i → Traps i s { cause := 0x02 }) ∧
    (s.cur.pos = 6 → s.level = .k → levelOf i = 2 → (∀ f, encodeFields i = some f → namesChan f = false) →
      Traps i s { cause := 0x02 }) ∧
    (s.cur.pos = 6 → strandOnly i = true → Traps i s { cause := 0x01 }) ∧
    (s.cur.pos = 6 → ∀ f, encodeFields i = some f → namesChan f = true → Traps i s { cause := 0x01 })

/-- The guard (R186): it is the predicate that the word names, inverted under negate; guard 000 is true, and reserved
with negate 1. An instruction whose guard is false performs nothing: no register, channel, flag or memory changes
but the pc, which moves on (past its sequence for RPT, R276), and no further trap is taken. That a pending GUARD
record is not reported there, and stays, is the model's choice (log 20). -/
def Obligations.FalseGuard : Prop :=
  (∀ (s : State) (g : Guard), s.guardTrue g = (if g.neg then !s.regs.getP g.p else s.regs.getP g.p)) ∧
  (∀ s : State, s.regs.getP 0 = true) ∧
  (∀ w : BitVec 96, w.extractLsb' 84 4 = 1 → ∃ e, decode w = .error e) ∧
  ∀ (s : State) (i : Instr) (f : Fields), wellFormed i = true → encodeFields i = some f → s.cur.pos ≤ 6 →
    levelOf i ≤ s.level.toNat → (s.cur.pos = 6 → strandOnly i = false ∧ namesChan f = false) →
    s.guardTrue ⟨f.guard.toFin, f.neg⟩ = false →
    Retires i s {} (match i with | .rpt _ _ _ _ n _ => [.jump (s.pc + BitVec.ofNat 24 (n.val + 2))] | _ => [])

/-- s0, p0 and k0: they read as 0 without poison, 1 and all ones, and a write to one is discarded; every other write
changes its register alone (R197). -/
def Claim.RegisterWrites : Prop :=
  ∀ (r : RegSet) (x : Word) (q b : Bool) (y : VReg) (z : BitVec 8),
    r.getS 0 = ⟨0, false⟩ ∧ r.getP 0 = true ∧ r.getK 0 = BitVec.allOnes 64 ∧
    r.eff (.s 0 x q) = r ∧ r.eff (.p 0 b) = r ∧ r.eff (.k 0 x) = r ∧
    (∀ i, i ≠ 0 → ∀ j, (r.eff (.s i x q)).getS j = (if j = i then ⟨x, q⟩ else r.getS j) ∧
      ({ r.eff (.s i x q) with s := r.s, sp := r.sp } : RegSet) = r) ∧
    (∀ i, i ≠ 0 → ∀ j, (r.eff (.p i b)).getP j = (if j = i then b else r.getP j) ∧
      ({ r.eff (.p i b) with p := r.p } : RegSet) = r) ∧
    (∀ i, i ≠ 0 → ∀ j, (r.eff (.k i x)).getK j = (if j = i then x else r.getK j) ∧
      ({ r.eff (.k i x) with k := r.k } : RegSet) = r) ∧
    ∀ i j : Fin 16, (r.eff (.v i y z)).v[j] = (if j = i then y else r.v[j]) ∧
      (r.eff (.v i y z)).vp[j] = (if j = i then z else r.vp[j]) ∧ ({ r.eff (.v i y z) with v := r.v, vp := r.vp } : RegSet) = r

/-- A scalar result that is poison goes to no channel: the instruction raises POISON with the number of its first
poisoned source, and does nothing (R163, R168; which source is named is the model's reading, log 22). -/
def Claim.PoisonStopsAtChannels : Prop :=
  ∀ (s : State) (g : Guard) (c : Fin 4) (a : SOp),
    let d : SOp := .ch c
    (∀ (b : SImm), Clear s g (formSSI d a b) →
      let v := s.view (useSSI d a b)
      let x := v.s v.a a
      let y := v.i v.b b
      x.p = true ∨ y.p = true →
      ∀ i ∈ [Instr.add g d a b, .sub g d a b, .mul g d a b, .mulh g d a b, .mulhu g d a b, .div g d a b, .divu g d a b,
        .rem g d a b, .remu g d a b, .and g d a b, .or g d a b, .xor g d a b, .andn g d a b, .orn g d a b, .shl g d a b,
        .shr g d a b, .sra g d a b, .rotl g d a b, .rotr g d a b, .min g d a b, .max g d a b, .minu g d a b,
        .maxu g d a b, .bfx g d a b], Traps i s { cause := 0x09, sub := if x.p then 1 else 2 }) ∧
    (∀ (w : Fin 4) (sgn : Bool), Clear s g (formSS d a) →
      let v := s.view (useSS d a)
      (v.s v.a a).p = true →
      ∀ i ∈ [Instr.clz g w d a, .ctz g w d a, .popc g w d a, .brev g ⟨sgn, w⟩ d a, .bswap g ⟨sgn, w⟩ d a,
        .sext g ⟨sgn, w⟩ d a], Traps i s { cause := 0x09, sub := 1 }) ∧
    (∀ (b : SImm), Clear s g (formDSI d a b) →
      let v := s.view (formDSI d a b).use
      ∀ n, poisoned (v.s v.a a).p (v.i v.b b).p (v.s v.d d).p = some n →
        Traps (.bfi g d a b) s { cause := 0x09, sub := n } ∧ Traps (.sel g d a b) s { cause := 0x09, sub := n }) ∧
    (∀ (b : SImm), Clear s g (formLi d b) →
      let v := s.view (formLi d b).use
      (v.i v.b b).p = true → Traps (.li g d b) s { cause := 0x09, sub := 2 }) ∧
    ∀ (t st : ETy) (rm : Rm) (sat sgn : Bool),
      (∀ b : SOp, Clear s g (formSSS d a b) →
        let v := s.view (formSSS d a b).use
        let x := v.s v.a a
        let y := v.s v.b b
        x.p = true ∨ y.p = true →
        ∀ i ∈ [Instr.fadd g t rm sat d a b, .fsub g t rm sat d a b, .fmul g t rm sat d a b, .fdiv g t rm sat d a b,
          .fmin g t d a b, .fmax g t d a b, .fsgn g t d a b], Traps i s { cause := 0x09, sub := if x.p then 1 else 2 }) ∧
      (∀ b : SOp, Clear s g { use := { useSSS d a b with d := chS d } } →
        let v := s.view { useSSS d a b with d := chS d }
        ∀ n, poisoned (v.s v.a a).p (v.s v.b b).p (v.s v.d d).p = some n →
          Traps (.fma g t rm sat d a b) s { cause := 0x09, sub := n }) ∧
      (Clear s g { use := useSS d a } →
        let v := s.view (useSS d a)
        (v.s v.a a).p = true →
        ∀ i ∈ [Instr.fsqrt g t rm d a, .fclass g t d a, .fcvt g t st sgn rm sat d a],
          Traps i s { cause := 0x09, sub := 1 })

/-- Reads and writes of s0, p0 and k0, the frame of a register write, and POISON where a poisoned result would enter a channel. -/
def Obligations.RegisterWrites : Prop :=
  Claim.RegisterWrites ∧ Claim.PoisonStopsAtChannels

/-- The two-source INT forms write the value of R223 to D; it is poisoned when A or B is (R221). `x` and `y` are A and B
as their operand forms give them. -/
def Obligations.IntegerResults : Prop :=
  ∀ (s : State) (g : Guard) (d a : SOp) (b : SImm), Clear s g (formSSI d a b) →
    let v := s.view (useSSI d a b)
    let x := (v.s v.a a).v
    let y := (v.i v.b b).v
    let p := (v.s v.a a).p || (v.i v.b b).p
    let n := y.toNat % 64
    let gives (i : Instr) (r : Word) : Prop := Retires i s (useSSI d a b) [effS d r p]
    takesS d p →
    gives (.add g d a b) (.ofNat 64 (x.toNat + y.toNat)) ∧
    gives (.sub g d a b) (.ofInt 64 (x.toNat - y.toNat)) ∧
    gives (.mul g d a b) (.ofNat 64 (x.toNat * y.toNat)) ∧
    gives (.mulh g d a b) ((BitVec.ofInt 128 (x.toInt * y.toInt)).extractLsb' 64 64) ∧
    gives (.mulhu g d a b) ((BitVec.ofNat 128 (x.toNat * y.toNat)).extractLsb' 64 64) ∧
    gives (.and g d a b) (x &&& y) ∧
    gives (.or g d a b) (x ||| y) ∧
    gives (.xor g d a b) (x ^^^ y) ∧
    gives (.andn g d a b) (x &&& ~~~y) ∧
    gives (.orn g d a b) (x ||| ~~~y) ∧
    gives (.shl g d a b) (.ofNat 64 (x.toNat * 2 ^ n)) ∧
    gives (.shr g d a b) (.ofNat 64 (x.toNat / 2 ^ n)) ∧
    gives (.sra g d a b) (.ofInt 64 (x.toInt / 2 ^ n)) ∧
    gives (.rotl g d a b) (.ofNat 64 (x.toNat * 2 ^ n) ||| .ofNat 64 (x.toNat / 2 ^ (64 - n))) ∧
    gives (.rotr g d a b) (.ofNat 64 (x.toNat / 2 ^ n) ||| .ofNat 64 (x.toNat * 2 ^ (64 - n))) ∧
    gives (.min g d a b) (.ofInt 64 (min x.toInt y.toInt)) ∧
    gives (.max g d a b) (.ofInt 64 (max x.toInt y.toInt)) ∧
    gives (.minu g d a b) (.ofNat 64 (min x.toNat y.toNat)) ∧
    gives (.maxu g d a b) (.ofNat 64 (max x.toNat y.toNat))

/-- The width forms read the low w bits of A (R225). -/
def Claim.WidthFormResults : Prop :=
  ∀ (s : State) (g : Guard) (c : Fin 4) (sgn : Bool) (d a : SOp), Clear s g (formSS d a) →
    let v := s.view (useSS d a)
    let p := (v.s v.a a).p
    let w := 8 * 2 ^ c.val
    let x := (v.s v.a a).v
    let gives (i : Instr) (r : Word) : Prop := Retires i s (useSS d a) [effS d r p]
    let ext (r : Nat) : Word := if sgn ∧ 2 ^ (w - 1) ≤ r then .ofInt 64 ((r : Int) - 2 ^ w) else .ofNat 64 r
    takesS d p →
    (∃ n ≤ w, gives (.clz g c d a) (.ofNat 64 n) ∧ (∀ j < n, x.getLsbD (w - 1 - j) = false) ∧
      (n < w → x.getLsbD (w - 1 - n) = true)) ∧
    (∃ n ≤ w, gives (.ctz g c d a) (.ofNat 64 n) ∧ (∀ j < n, x.getLsbD j = false) ∧
      (n < w → x.getLsbD n = true)) ∧
    gives (.popc g c d a) (.ofNat 64 ((List.range w).countP fun j => x.getLsbD j)) ∧
    (∃ r < 2 ^ w, gives (.brev g ⟨sgn, c⟩ d a) (ext r) ∧ ∀ j < w, r.testBit j = x.getLsbD (w - 1 - j)) ∧
    (∃ r < 2 ^ w, gives (.bswap g ⟨sgn, c⟩ d a) (ext r) ∧
      ∀ j < w, r.testBit j = x.getLsbD (8 * (w / 8 - 1 - j / 8) + j % 8)) ∧
    gives (.sext g ⟨sgn, c⟩ d a) (ext (x.toNat % 2 ^ w))

/-- BFX and BFI by the field control of B (R226), SEL and LI (R227). -/
def Claim.BitFieldResults : Prop :=
  (∀ (s : State) (g : Guard) (d a : SOp) (b : SImm), Clear s g (formSSI d a b) →
    let v := s.view (useSSI d a b)
    let x := (v.s v.a a).v
    let y := (v.i v.b b).v
    let p := (v.s v.a a).p || (v.i v.b b).p
    let len : Nat := y.toNat / 2 ^ 8 % 64 + 1
    let f : Nat := x.toNat / 2 ^ (y.toNat % 64) % 2 ^ len
    takesS d p →
    Retires (.bfx g d a b) s (useSSI d a b) [effS d
      (.ofInt 64 (if y.getLsbD 16 = true ∧ len < 64 ∧ 2 ^ (len - 1) ≤ f then (f : Int) - 2 ^ len else f)) p]) ∧
  (∀ (s : State) (g : Guard) (d a : SOp) (b : SImm), Clear s g (formDSI d a b) →
    let v := s.view (formDSI d a b).use
    let x := (v.s v.a a).v
    let y := (v.i v.b b).v
    let z := (v.s v.d d).v
    let p := (v.s v.a a).p || (v.i v.b b).p || (v.s v.d d).p
    let pos : Nat := y.toNat % 64
    let len : Nat := y.toNat / 2 ^ 8 % 64 + 1
    takesS d p →
    (∃ r : Word, Retires (.bfi g d a b) s (formDSI d a b).use [effS d r p] ∧
      ∀ j < 64, r.getLsbD j = if pos ≤ j ∧ j < pos + len then x.getLsbD (j - pos) else z.getLsbD j) ∧
    (∃ r : Word, Retires (.sel g d a b) s (formDSI d a b).use [effS d r p] ∧
      ∀ j < 64, r.getLsbD j = if z.getLsbD j then x.getLsbD j else y.getLsbD j)) ∧
  ∀ (s : State) (g : Guard) (d : SOp) (b : SImm), Clear s g (formLi d b) →
    let v := s.view (formLi d b).use
    takesS d (v.i v.b b).p →
    Retires (.li g d b) s (formLi d b).use [effS d (v.i v.b b).v (v.i v.b b).p]

/-- Results of the width forms, of BFX and BFI by their field control, and of SEL and LI. -/
def Obligations.WidthAndBitFieldResults : Prop :=
  Claim.WidthFormResults ∧ Claim.BitFieldResults

/-- DIV, DIVU, REM and REMU never trap: each takes its strand out of the rotation with the result of R224 held, which
LONG_LATENCY_RESULT writes (R43). -/
def Obligations.DivisionResults : Prop :=
  ∀ (s : State) (g : Guard) (d a : SOp) (b : SImm), Clear s g (formSSI d a b) →
    let v := s.view (useSSI d a b)
    let x := (v.s v.a a).v
    let y := (v.i v.b b).v
    let p := (v.s v.a a).p || (v.i v.b b).p
    let holds (i : Instr) (r : Word) : Prop := ∃ t, exec i s = .next t ∧
      Parked s.cur.core s.cur.pos (s.takeSrcs (useSSI d a b)) t .waitMem (.result [effS d r p])
    takesS d p →
    holds (.div g d a b) (if y = 0 then BitVec.allOnes 64 else .ofInt 64 (x.toInt.tdiv y.toInt)) ∧
    holds (.divu g d a b) (if y = 0 then BitVec.allOnes 64 else .ofNat 64 (x.toNat / y.toNat)) ∧
    holds (.rem g d a b) (if y = 0 then x else .ofInt 64 (x.toInt - y.toInt * x.toInt.tdiv y.toInt)) ∧
    holds (.remu g d a b) (if y = 0 then x else .ofNat 64 (x.toNat % y.toNat))

/-- The CMP group (R228): CMP and TEST write a predicate from A and B, and a poisoned source raises POISON naming it
(R221, R163); the predicate forms, PSET and PGET. -/
def Obligations.PredicateResults : Prop :=
  (∀ (s : State) (g : Guard) (c : Cond) (d : POp) (a : SOp) (b : SImm), Clear s g (formCmp d a b) →
    let v := s.view (formCmp d a b).use
    let x := v.s v.a a
    let y := v.i v.b b
    let cond : Bool := match c with
      | .eq => decide (x.v = y.v)
      | .ne => decide (x.v ≠ y.v)
      | .lt => decide (x.v.toInt < y.v.toInt)
      | .ltu => decide (x.v.toNat < y.v.toNat)
      | .ge => decide (y.v.toInt ≤ x.v.toInt)
      | .geu => decide (y.v.toNat ≤ x.v.toNat)
    (x.p = false → y.p = false →
      Retires (.cmp g c d a b) s (formCmp d a b).use [effP d cond] ∧
      Retires (.test g d a b) s (formCmp d a b).use [effP d (decide (x.v &&& y.v ≠ 0))]) ∧
    (x.p = true ∨ y.p = true →
      Traps (.cmp g c d a b) s { cause := 0x09, sub := if x.p then 1 else 2 } ∧
      Traps (.test g d a b) s { cause := 0x09, sub := if x.p then 1 else 2 })) ∧
  (∀ (s : State) (g : Guard) (d a b : POp), Clear s g (formPred d a b) →
    let v := s.view (formPred d a b).use
    let x := v.p v.a a
    let y := v.p v.b b
    Retires (.pand g d a b) s (formPred d a b).use [effP d (x && y)] ∧
    Retires (.por g d a b) s (formPred d a b).use [effP d (x || y)] ∧
    Retires (.pxor g d a b) s (formPred d a b).use [effP d (x ^^ y)] ∧
    Retires (.pandn g d a b) s (formPred d a b).use [effP d (x && !y)]) ∧
  (∀ (s : State) (g : Guard) (d : POp) (b : SImm), Clear s g (formPset d b) →
    let v := s.view (formPset d b).use
    let y := v.i v.b b
    (y.p = false → Retires (.pset g d b) s (formPset d b).use [effP d (y.v.getLsbD 0)]) ∧
    (y.p = true → Traps (.pset g d b) s { cause := 0x09, sub := 2 })) ∧
  ∀ (s : State) (g : Guard) (d : SOp) (a : POp), Clear s g (formPget d a) →
    let v := s.view (formPget d a).use
    Retires (.pget g d a) s (formPget d a).use [effS d (if v.p v.a a then 1 else 0) false]

/-- Branches and calls (R230, R231, R232, R221): the target of BR, CALL and LOOP lies in the space of their PC, and one
outside 23 bits raises ILLEGAL; the register forms may change space. -/
def Claim.BranchesAndCalls : Prop :=
  ∀ (s : State) (g : Guard),
    let pc := s.pc
    let space := BitVec.ofBool (pc.getLsbD 23)
    let link : Word := 0#40 ++ (space ++ (pc.extractLsb' 0 23 + 1))
    (∀ (off : BitVec 32) (d : SOp),
      let n : Int := ((pc.extractLsb' 0 23).toNat : Int) + off.toInt
      let tgt : Pc := space ++ BitVec.ofInt 23 n
      (Clear s g {} → if 0 ≤ n ∧ n < 2 ^ 23 then
          Retires (.br g off) s {} [.jump tgt] ∧
          Retires (.call g off) s {} [.s 1 link false, .jump tgt]
        else Traps (.br g off) s { cause := 0x01 } ∧ Traps (.call g off) s { cause := 0x01 }) ∧
      (Clear s g (formLoop d) →
        let v := s.view (formLoop d).use
        let x := v.s v.d d
        if 0 ≤ n ∧ n < 2 ^ 23 then
          if x.p then Traps (.loop g d off) s { cause := 0x09, sub := 0 }
          else Retires (.loop g d off) s (formLoop d).use
            (if x.v - 1 = 0 then [effS d 0 false] else [effS d (x.v - 1) false, .jump tgt])
        else Traps (.loop g d off) s { cause := 0x01 })) ∧
    (∀ a : SOp, Clear s g (formA a) →
      let v := s.view (formA a).use
      let x := v.s v.a a
      if x.p then
        Traps (.bri g a) s { cause := 0x09, sub := 1 } ∧ Traps (.calli g a) s { cause := 0x09, sub := 1 }
      else
        Retires (.bri g a) s (formA a).use [.jump (x.v.extractLsb' 0 24)] ∧
        Retires (.calli g a) s (formA a).use [.s 1 link false, .jump (x.v.extractLsb' 0 24)]) ∧
    (Clear s g {} →
      let x := s.regs.getS 1
      if x.p then Traps (.ret g) s { cause := 0x09, sub := 4 }
      else Retires (.ret g) s {} [.jump (x.v.extractLsb' 0 24)])

/-- NOP, RDCLK, which gives the cycle of its issue, and RDID (R234, R16), and IFENCE, after which its party executes the
words that memory holds at its issue cycle (R235, R195). -/
def Claim.PlainControl : Prop :=
  ∀ (s : State) (g : Guard) (d : SOp),
    (Clear s g {} → Retires (.nop g) s {} []) ∧
    (Clear s g (formD d) →
      Retires (.rdclk g d) s (formD d).use [effS d (.ofNat 64 s.since) false] ∧
      Retires (.rdid g d) s (formD d).use [effS d (.ofNat 64 (s.cur.core * 8 + s.cur.pos)) false]) ∧
    (Clear s g {} → ∃ t, exec (.ifence g) s = .next t ∧ Settled s t {} [] ∧
      t.lineOf s.cur.core s.cur.pos = some (readLine (s.core s.cur.core)
        (s.ctx (clusterOf s.cur.core) (s.tagOf s.cur.core s.cur.pos)) (s.pc + 1)))

/-- Branches, calls, LOOP, NOP, IFENCE, RDCLK and RDID. -/
def Obligations.ControlResults : Prop :=
  Claim.BranchesAndCalls ∧ Claim.PlainControl

/-- The scalar FP forms write the low w bits of the result with zeros above, and OR their flags into fs; FDIV and FSQRT
leave the rotation (R237, R238, R239, R156, R43). `m` is the rounding mode of the instruction, or of fs at issue for
DYN (R138). -/
def Claim.FpResults : Prop :=
  ∀ (s : State) (g : Guard) (t : ETy) (rm : Rm) (sat : Bool) (d a : SOp),
    let f := fmtOf t
    let m := rmAt rm s.regs.fs
    (∀ b : SOp, Clear s g (formSSS d a b) →
      let u := (formSSS d a b).use
      let v := s.view u
      let x := v.s v.a a
      let y := v.s v.b b
      let p := x.p || y.p
      let ends (R : Instr → State → Use → List Eff → Prop) (i : Instr) (r : Nat × Flags) : Prop :=
        R i s u [effS d (.ofNat 64 r.1) p, .flags r.2]
      takesS d p →
      ends Retires (.fadd g t rm sat d a b) (fpAdd f m sat x.v.toNat y.v.toNat) ∧
      ends Retires (.fsub g t rm sat d a b) (fpSub f m sat x.v.toNat y.v.toNat) ∧
      ends Retires (.fmul g t rm sat d a b) (fpMul f m sat x.v.toNat y.v.toNat) ∧
      ends Holds (.fdiv g t rm sat d a b) (fpDiv f m sat x.v.toNat y.v.toNat) ∧
      ends Retires (.fmin g t d a b) (fpMinMax f false x.v.toNat y.v.toNat) ∧
      ends Retires (.fmax g t d a b) (fpMinMax f true x.v.toNat y.v.toNat) ∧
      ends Retires (.fsgn g t d a b) (fpSgn f x.v.toNat y.v.toNat, 0)) ∧
    (∀ b : SOp, Clear s g { use := { useSSS d a b with d := chS d } } →
      let u : Use := { useSSS d a b with d := chS d }
      let v := s.view u
      let x := v.s v.a a
      let y := v.s v.b b
      let z := v.s v.d d
      let p := x.p || y.p || z.p
      let r := fpFma f m sat false false x.v.toNat y.v.toNat z.v.toNat
      takesS d p →
      Retires (.fma g t rm sat d a b) s u [effS d (.ofNat 64 r.1) p, .flags r.2]) ∧
    (Clear s g { use := useSS d a } →
      let v := s.view (useSS d a)
      let x := v.s v.a a
      let r := fpSqrt f m x.v.toNat
      takesS d x.p →
      Holds (.fsqrt g t rm d a) s (useSS d a) [effS d (.ofNat 64 r.1) x.p, .flags r.2] ∧
      Retires (.fclass g t d a) s (useSS d a) [effS d (.ofNat 64 (fpClass f x.v.toNat)) x.p, .flags 0] ∧
      ∀ (st : ETy) (sgn : Bool),
        let c := fpCvt t st sgn m sat x.v.toNat
        let w := tyBits t
        let r := c.1 % 2 ^ w
        let n : Int := if sgn ∧ 2 ^ (w - 1) ≤ r then (r : Int) - 2 ^ w else r
        Retires (.fcvt g t st sgn rm sat d a) s (useSS d a)
          [effS d (if t.isInt then .ofInt 64 n else .ofNat 64 c.1) x.p, .flags c.2])

/-- Every NaN that an FP operation computes is the canonical NaN of its format (R137); FMIN and FMAX of a NaN and a
number give the number (R239). -/
def Claim.CanonicalNaN : Prop :=
  ∀ (t : ETy), t.isInt = false → ∀ (m : Rmode) (sat : Bool) (a b d : Nat),
    let f := fmtOf t
    let canon (r : Nat × Flags) : Prop := (fpDec f r.1).isNan = true → r.1 = f.nan
    canon (fpAdd f m sat a b) ∧ canon (fpSub f m sat a b) ∧ canon (fpMul f m sat a b) ∧ canon (fpDiv f m sat a b) ∧
    canon (fpSqrt f m a) ∧ (∀ x y : Bool, canon (fpFma f m sat x y a b d)) ∧ (∀ x : Bool, canon (fpMinMax f x a b)) ∧
    (∀ st : ETy, canon (fpPut f m sat (fpDec (fmtOf st) a))) ∧
    ((fpDec f a).isNan = true → (fpDec f b).isNan = false → ∀ x : Bool,
      (fpMinMax f x a b).1 = b % 2 ^ f.width ∧ (fpMinMax f x b a).1 = b % 2 ^ f.width)

/-- FADD, FSUB, FMUL, FMA, FDIV and FSQRT give the exact result of their operands, rounded once: sums and products of
finite values with the sign of an exact zero, infinities and signed zeros, dz for a division by zero, and the
canonical NaN with nv for invalid operations and signalling NaNs; FMA forms its product unrounded (R136 to R139,
R149, R238). -/
def Claim.FpExactResults : Prop :=
  ∀ (t : ETy), t.isInt = false → ∀ (rm : Rmode) (sat : Bool) (a b d : Nat),
    let f := fmtOf t
    let x := fpDec f a
    let y := fpDec f b
    let z := fpDec f d
    let nan (nv : Bool) : Nat × Flags := (f.nan, if nv then fNV else 0)
    (x.isNan = true ∨ y.isNan = true → let r := nan (x.isSnan || y.isSnan)
      fpAdd f rm sat a b = r ∧ fpSub f rm sat a b = r ∧ fpMul f rm sat a b = r ∧ fpDiv f rm sat a b = r) ∧
    (∀ p q, x = .inf p → y = .inf q →
      fpAdd f rm sat a b = (if p = q then infinite f sat p else nan true) ∧
      fpSub f rm sat a b = (if p = q then nan true else infinite f sat p) ∧
      fpMul f rm sat a b = infinite f sat (p != q) ∧ fpDiv f rm sat a b = nan true) ∧
    (∀ p n m e, x = .inf p → y = .fin n m e →
      fpAdd f rm sat a b = infinite f sat p ∧ fpSub f rm sat a b = infinite f sat p ∧
      fpMul f rm sat a b = (if m = 0 then nan true else infinite f sat (p != n)) ∧
      fpDiv f rm sat a b = infinite f sat (p != n)) ∧
    (∀ p n m e, x = .fin n m e → y = .inf p →
      fpAdd f rm sat a b = infinite f sat p ∧ fpSub f rm sat a b = infinite f sat (!p) ∧
      fpMul f rm sat a b = (if m = 0 then nan true else infinite f sat (n != p)) ∧
      fpDiv f rm sat a b = (signed f (n != p) 0, 0)) ∧
    (∀ n m e n' m' e', x = .fin n m e → y = .fin n' m' e' →
      let u := worth n m e
      let v := worth n' m' e'
      Exact f rm sat ((u + v : ℚ) : ℝ) (if n = n' then n else rm = .rdn) (fpAdd f rm sat a b) ∧
      Exact f rm sat ((u - v : ℚ) : ℝ) (if n = !n' then n else rm = .rdn) (fpSub f rm sat a b) ∧
      Exact f rm sat ((u * v : ℚ) : ℝ) (n != n') (fpMul f rm sat a b) ∧
      (m' ≠ 0 → Exact f rm sat ((u / v : ℚ) : ℝ) (n != n') (fpDiv f rm sat a b)) ∧
      (m' = 0 → m ≠ 0 → let r := infinite f sat (n != n')
        fpDiv f rm sat a b = (r.1, r.2 ||| fDZ)) ∧
      (m' = 0 → m = 0 → fpDiv f rm sat a b = nan true)) ∧
    (match x with
      | .nan sg => fpSqrt f rm a = nan sg
      | .inf n => fpSqrt f rm a = if n then nan true else infinite f false false
      | .fin n m e =>
        (m = 0 → fpSqrt f rm a = (signed f n 0, 0)) ∧ (m ≠ 0 → n = true → fpSqrt f rm a = nan true) ∧
        (m ≠ 0 → n = false → Exact f rm false (Real.sqrt ((worth n m e : ℚ) : ℝ)) false (fpSqrt f rm a))) ∧
    ∀ np nd : Bool,
      let r := fpFma f rm sat np nd a b d
      let sn := x.isSnan || y.isSnan || z.isSnan
      let bad : Bool := ((∃ p, x = .inf p) && y.isZero) || (x.isZero && ∃ p, y = .inf p)
      let s := (x.neg != np) != y.neg
      let far : Bool := (∃ p, x = .inf p) || ∃ p, y = .inf p
      (x.isNan = true ∨ y.isNan = true ∨ z.isNan = true ∨ bad = true → r = nan (sn || bad)) ∧
      (x.isNan = false → y.isNan = false → bad = false → far = true →
        (∀ q, z = .inf q → r = if s = (q != nd) then infinite f sat s else nan true) ∧
        (∀ n m e, z = .fin n m e → r = infinite f sat s)) ∧
      (∀ n m e n' m' e', x = .fin n m e → y = .fin n' m' e' →
        (∀ q, z = .inf q → r = infinite f sat (q != nd)) ∧
        (∀ k i j, z = .fin k i j →
          Exact f rm sat ((worth (n != np) m e * worth n' m' e' + worth (k != nd) i j : ℚ) : ℝ)
            (if s = (k != nd) then s else rm = .rdn) r))

/-- FCVT rounds into a narrower format and keeps the value into a wider one; from an integer it rounds once; into an
integer it rounds first and clamps what lies outside the range with nv (R241, R149). -/
def Claim.FpConversions : Prop :=
  ∀ (t st : ETy) (sgn : Bool) (rm : Rmode) (sat : Bool) (a : Nat),
    let r := fpCvt t st sgn rm sat a
    let f := fmtOf t
    let x := fpDec (fmtOf st) a
    let w := tyBits t
    let lo : ℤ := if sgn then -2 ^ (w - 1) else 0
    let hi : ℤ := if sgn then 2 ^ (w - 1) - 1 else 2 ^ w - 1
    let gives (i : ℤ) (fl : Flags) : Prop := r.1 < 2 ^ w ∧ (r.1 : ℤ) % 2 ^ w = i % 2 ^ w ∧ r.2 = fl
    (t.isInt = false → st.isInt = false →
      (∀ sg, x = .nan sg → r = (f.nan, if sg then fNV else 0)) ∧ (∀ n, x = .inf n → r = infinite f sat n) ∧
      ∀ n m e, x = .fin n m e → Exact f rm sat ((worth n m e : ℚ) : ℝ) n r) ∧
    (t.isInt = false → st.isInt = true →
      let u := a % 2 ^ tyBits st
      let i : ℤ := if sgn ∧ 2 ^ (tyBits st - 1) ≤ u then (u : ℤ) - 2 ^ tyBits st else u
      Exact f rm sat (i : ℝ) false r) ∧
    (t.isInt = true → st.isInt = false →
      (∀ sg, x = .nan sg → gives 0 fNV) ∧ (∀ n, x = .inf n → gives (if n then lo else hi) fNV) ∧
      ∀ n m e, x = .fin n m e → ∃ k : ℕ, Nearest rm n ((worth false m e : ℚ) : ℝ) 0 k ∧
        let i : ℤ := if n then -k else k
        (i < lo → gives lo fNV) ∧ (hi < i → gives hi fNV) ∧
        (lo ≤ i → i ≤ hi → (((worth false m e : ℚ) : ℝ) = k → gives i 0) ∧
          (((worth false m e : ℚ) : ℝ) ≠ k → gives i fNX)))

/-- Results and flags of the scalar FP forms: their canonical NaN, and the exact value rounded once. -/
def Obligations.FpResults : Prop :=
  Claim.FpResults ∧ Claim.CanonicalNaN ∧ Claim.FpExactResults ∧ Claim.FpConversions

/-- FCMP writes a predicate by the values of A and B, NaN making every comparison false but NE and UN; a poisoned source
raises POISON (R240, R221). -/
def Obligations.FpCompareResults : Prop :=
  ∀ (s : State) (g : Guard) (t : ETy) (c : FCond) (d : POp) (a b : SOp),
    Clear s g { use := { a := chS a, b := chS b, dst := chP d } } →
    let u : Use := { a := chS a, b := chS b, dst := chP d }
    let v := s.view u
    let x := v.s v.a a
    let y := v.s v.b b
    let fx := fpDec (fmtOf t) x.v.toNat
    let fy := fpDec (fmtOf t) y.v.toNat
    let nan := fx.isNan || fy.isNan
    let nv := (fx.isSnan || fy.isSnan) || (nan && (c = .lt || c = .le || c = .gt || c = .ge))
    let holds : Bool := match c with
      | .eq => !nan && fvCmp fx fy = 0
      | .ne => nan || fvCmp fx fy ≠ 0
      | .lt => !nan && fvCmp fx fy < 0
      | .le => !nan && fvCmp fx fy ≤ 0
      | .gt => !nan && 0 < fvCmp fx fy
      | .ge => !nan && 0 ≤ fvCmp fx fy
      | .un => nan
    if x.p || y.p then Traps (.fcmp g t c d a b) s { cause := 0x09, sub := if x.p then 1 else 2 }
    else Retires (.fcmp g t c d a b) s u [effP d holds, .flags (if nv then fNV else 0)]

/-- Rounding (R138, R139). A magnitude m · 2^e rounds to a multiple of 2^q that lies within one of it: at most it under
RTZ, at least it away from zero, within half and to the even one at a tie under RNE; nx says that it differs. -/
def Obligations.RoundingIsCorrect : Prop :=
  ∀ (rm : Rmode) (neg : Bool) (m : Nat) (e q : Int),
    let r := roundAt rm neg m e q
    let x : ℚ := m * (2 : ℚ) ^ e
    let y : ℚ := r.1 * (2 : ℚ) ^ q
    (r.2 = true ↔ x ≠ y) ∧ |x - y| < (2 : ℚ) ^ q ∧
    (rm = .rtz → y ≤ x) ∧ (rm = .rup → if neg then y ≤ x else x ≤ y) ∧ (rm = .rdn → if neg then x ≤ y else y ≤ x) ∧
    (rm = .rne → |x - y| ≤ (2 : ℚ) ^ q / 2 ∧ (|x - y| = (2 : ℚ) ^ q / 2 → r.1 % 2 = 0))

/-- SEGLD, SEGNARROW and SEGQ (R246, R247, R248): a template entry or a segment register, a segment that only narrows,
and the fields of one; the numbers they refuse raise SEGMENT, and a poisoned scalar raises POISON. -/
def Obligations.SegmentResults : Prop :=
  ∀ (s : State) (g : Guard),
    (∀ (d : Fin 8) (b : SImm), Clear s g { use := { b := chI b } } →
      let u : Use := { b := chI b }
      let v := s.view u
      let y := v.i v.b b
      let n := y.v.toNat
      if y.p then Traps (.segld g d b) s { cause := 0x09, sub := 2 }
      else if h : n < 16 then Retires (.segld g d b) s u
        [.g d (if h8 : n < 8 then s.template[n] else s.regs.g[n - 8])]
      else Traps (.segld g d b) s { cause := 0x03 }) ∧
    (∀ (d : Fin 8) (a : SOp) (b : SImm), Clear s g { use := { a := chS a, b := chI b } } →
      let u : Use := { a := chS a, b := chI b }
      let v := s.view u
      let x := v.s v.a a
      let y := v.i v.b b
      let old := s.regs.g[d]
      let lim := y.v.toNat % 2 ^ 49
      let drop := y.v.toNat / 2 ^ 59
      if x.p || y.p then Traps (.segnarrow g d a b) s { cause := 0x09, sub := if x.p then 1 else 2 }
      else if y.v.toNat / 2 ^ 49 % 2 ^ 10 = 0 ∧ lim ≤ 2 ^ 48 ∧ old.limit.toNat ≤ 2 ^ 48 ∧
          x.v.toNat + lim ≤ old.limit.toNat ∧ old.base.toNat + x.v.toNat < 2 ^ 56 then
        ∃ n : Seg, Retires (.segnarrow g d a b) s u [.g d n] ∧ n.base.toNat = old.base.toNat + x.v.toNat ∧
          n.limit.toNat = lim ∧ ∀ j < 5, n.rights.getLsbD j = (old.rights.getLsbD j && !drop.testBit j)
      else Traps (.segnarrow g d a b) s { cause := 0x03 }) ∧
    ∀ (d : SOp) (a : Fin 8) (b : SImm), Clear s g { use := { b := chI b, dst := chS d } } →
      let u : Use := { b := chI b, dst := chS d }
      let v := s.view u
      let y := v.i v.b b
      let z := s.regs.g[a]
      if y.p then Traps (.segq g d a b) s { cause := 0x09, sub := 2 }
      else Retires (.segq g d a b) s u [effS d (if y.v = 0 then .ofNat 64 z.base.toNat
        else if y.v = 1 then .ofNat 64 z.limit.toNat else if y.v = 2 then .ofNat 64 z.rights.toNat else 0) false]

/-- The two-source VINT forms write the element values of R257 in the shapes of R252, at the width of their type, and
raise no flag. -/
def Claim.VectorIntegerResults : Prop :=
  ∀ (s : State) (g : Guard) (t : ETy) (d a : VOp) (b : VB), Clear s g (formVVB d a b) →
    let w := tyBits t
    let sg (x : Nat) : Int := if 2 ^ (w - 1) ≤ x then (x : Int) - 2 ^ w else x
    let gives (i : Instr) (op : Nat → Nat → Nat) : Prop := BinaryV Retires i s d a b w fun x y => (op x y, 0)
    gives (.vadd g t d a b) (fun x y => (x + y) % 2 ^ w) ∧
    gives (.vsub g t d a b) (fun x y => (((x : Int) - y) % 2 ^ w).toNat) ∧
    gives (.vmul g t d a b) (fun x y => x * y % 2 ^ w) ∧
    gives (.vmulh g t d a b) (fun x y => (sg x * sg y / 2 ^ w % 2 ^ w).toNat) ∧
    gives (.vand g t d a b) (fun x y => x &&& y) ∧
    gives (.vor g t d a b) (fun x y => x ||| y) ∧
    gives (.vxor g t d a b) (fun x y => x ^^^ y) ∧
    gives (.vshl g t d a b) (fun x y => x * 2 ^ (y % w) % 2 ^ w) ∧
    gives (.vshr g t d a b) (fun x y => x / 2 ^ (y % w)) ∧
    gives (.vsra g t d a b) (fun x y => (sg x / 2 ^ (y % w) % 2 ^ w).toNat) ∧
    gives (.vmin g t d a b) (fun x y => if sg x ≤ sg y then x else y) ∧
    gives (.vmax g t d a b) (fun x y => if sg x ≤ sg y then y else x) ∧
    gives (.vminu g t d a b) (fun x y => min x y) ∧
    gives (.vmaxu g t d a b) (fun x y => max x y) ∧
    gives (.vabsd g t d a b) (fun x y => (sg x - sg y).natAbs)

/-- VSEL takes A where the mask is active and keeps D elsewhere (R257); VCMP and VFCMP set the byte lanes of each
element to its condition (R258, R260). -/
def Claim.VectorSelectAndCompare : Prop :=
  (∀ (s : State) (g : Guard) (t : ETy) (d a : VOp) (b : KOp), Clear s g (formVVKm d a b) →
    let w := tyBits t
    let v := s.view (formVVKm d a b).use
    GivesV Retires (.vsel g t d a b) s (formVVKm d a b).use d w fun j =>
      let x := if (v.k v.b b).getLsbD (j * w / 8) then v.v v.a a else v.v v.d d
      (elem w x.x j, elemP w x.p j, 0)) ∧
  ∀ (s : State) (g : Guard) (t : ETy) (d : KOp) (a : VOp) (b : VB), Clear s g (formKVB d a b) →
    let w := tyBits t
    let sg (x : Nat) : Int := if 2 ^ (w - 1) ≤ x then (x : Int) - 2 ^ w else x
    (∀ c : Cond, MaskV (.vcmp g t c d a b) s d a b w fun x y => (match c with
      | .eq => decide (x = y)
      | .ne => decide (x ≠ y)
      | .lt => decide (sg x < sg y)
      | .ltu => decide (x < y)
      | .ge => decide (sg y ≤ sg x)
      | .geu => decide (y ≤ x), 0)) ∧
    ∀ c : FCond, MaskV (.vfcmp g t c d a b) s d a b w (fpCmp (fmtOf t) c)

/-- Results of the VINT forms, of VSEL, and of the vector comparisons. -/
def Obligations.VectorIntegerResults : Prop :=
  Claim.VectorIntegerResults ∧ Claim.VectorSelectAndCompare

/-- The VFP forms act on each element as the scalar forms act on a scalar, under the rounding mode of the instruction or
of fs at issue; VFDIV and VFSQRT leave the rotation (R260, R255, R138). -/
def Claim.VectorFpResults : Prop :=
  ∀ (s : State) (g : Guard) (t : ETy) (rm : Rm) (sat : Bool) (d a : VOp),
    let w := tyBits t
    let f := fmtOf t
    let m := rmAt rm s.regs.fs
    (∀ b : VB, Clear s g (formVVB d a b) →
      BinaryV Retires (.vfadd g t rm sat d a b) s d a b w (fpAdd f m sat) ∧
      BinaryV Retires (.vfsub g t rm sat d a b) s d a b w (fpSub f m sat) ∧
      BinaryV Retires (.vfmul g t rm sat d a b) s d a b w (fpMul f m sat) ∧
      BinaryV Holds (.vfdiv g t rm sat d a b) s d a b w (fpDiv f m sat) ∧
      BinaryV Retires (.vfmin g t d a b) s d a b w (fpMinMax f false) ∧
      BinaryV Retires (.vfmax g t d a b) s d a b w (fpMinMax f true)) ∧
    (∀ b : KOpt, Clear s g (formVVK d a b) →
      UnaryV Holds (.vfsqrt g t rm d a b) s d a b w (fpSqrt f m) ∧
      UnaryV Retires (.vfrcp g t d a b) s d a b w (fpRcp f) ∧
      UnaryV Retires (.vfrsq g t d a b) s d a b w (fpRsq f) ∧
      UnaryV Retires (.vfexp2 g t sat d a b) s d a b w (fpExp2 f sat)) ∧
    ∀ b : VB, vbIsMask b = false → Clear s g (formVVBd d a b) →
      let u := (formVVBd d a b).use
      let v := s.view u
      let x := v.v v.a a
      let z := v.v v.d d
      let fused (i : Instr) (op : Nat → Nat → Nat → Nat × Flags) : Prop := GivesV Retires i s u d w fun j =>
        let y := (v.vb b).elem w j
        let r := op (elem w x.x j) y.1 (elem w z.x j)
        (r.1, elemP w x.p j || y.2 || elemP w z.p j, r.2)
      fused (.vfma g t rm sat d a b) (fpFma f m sat false false) ∧
      fused (.vfms g t rm sat d a b) (fpFma f m sat false true) ∧
      fused (.vfnma g t rm sat d a b) (fpFma f m sat true false)

/-- VFCVT converts the elements both widths hold, and writes zero in the others or keeps them under a mask (R263). -/
def Claim.VectorConvertResults : Prop :=
  ∀ (s : State) (g : Guard) (t st : ETy) (sgn : Bool) (rm : Rm) (sat : Bool) (d a : VOp) (b : KOpt),
    Clear s g (formVVK d a b) →
    let u := (formVVK d a b).use
    let v := s.view u
    let x := v.v v.a a
    let z := v.v v.d d
    GivesV Retires (.vfcvt g t st sgn rm sat d a b) s u d (tyBits t) fun j =>
      let r := fpCvt t st sgn (rmAt rm s.regs.fs) sat (elem (tyBits st) x.x j)
      let inside := j < 512 / max (tyBits st) (tyBits t)
      let kept := (elem (tyBits t) z.x j, elemP (tyBits t) z.p j, 0)
      match v.ko v.b b with
      | none => if inside then (r.1, elemP (tyBits st) x.p j, r.2) else (0, false, 0)
      | some k => if inside ∧ k.getLsbD (j * tyBits t / 8) then (r.1, elemP (tyBits st) x.p j, r.2) else kept

/-- VFRCP and VFRSQ: the exact reciprocal, or that of the root, truncated to twelve significant bits and rounded to
nearest; VFEXP2: the exact power of an integer rounded, any other power truncated to twelve bits first (the last of
them up to 2^-100 of the power), with nx always (R261, R262; that VFEXP2 of an infinity saturates as R149 has it is
the model's choice, log 122). -/
def Claim.VectorEstimates : Prop :=
  ∀ (t : ETy), t.isInt = false → ∀ (sat : Bool) (a : Nat),
    let f := fmtOf t
    let x := fpDec f a
    let nan (nv : Bool) : Nat × Flags := (f.nan, if nv then fNV else 0)
    let poleOf (neg : Bool) : Nat × Flags := ((infinite f false neg).1, (infinite f false neg).2 ||| fDZ)
    (∀ sg, x = .nan sg → fpRcp f a = nan sg ∧ fpRsq f a = nan sg ∧ fpExp2 f sat a = nan sg) ∧
    (∀ n, x = .inf n → fpRcp f a = (signed f n 0, 0) ∧ fpRsq f a = (if n then nan true else (0, 0)) ∧
      fpExp2 f sat a = if n then (0, 0) else infinite f sat false) ∧
    ∀ n m e, x = .fin n m e →
      let v : ℚ := worth n m e
      (m = 0 → fpRcp f a = poleOf n ∧ fpRsq f a = poleOf n) ∧
      (m ≠ 0 → ∃ u : ℝ, Truncated (|(v : ℝ)|⁻¹) u ∧ Rounded f .rne false n u (fpRcp f a)) ∧
      (m ≠ 0 → n = true → fpRsq f a = nan true) ∧
      (m ≠ 0 → n = false → ∃ u : ℝ, Truncated (Real.sqrt (v : ℝ))⁻¹ u ∧ Rounded f .rne false false u (fpRsq f a)) ∧
      (∀ i : ℤ, v = i → Rounded f .rne sat false ((2 : ℝ) ^ i) (fpExp2 f sat a)) ∧
      ((∀ i : ℤ, v ≠ i) → ∃ (k : ℕ) (j : ℤ) (r : Nat × Flags), 2 ^ 11 ≤ k ∧ k < 2 ^ 12 ∧
        k * (2 : ℝ) ^ j ≤ (2 : ℝ) ^ (v : ℝ) ∧ (2 : ℝ) ^ (v : ℝ) < (k + 1) * (2 : ℝ) ^ j * (1 + (2 : ℝ) ^ (-100 : ℤ)) ∧
        Rounded f .rne sat false (k * (2 : ℝ) ^ j) r ∧ (fpExp2 f sat a).1 = r.1 ∧ (fpExp2 f sat a).2.getLsbD 0 = true ∧
        (fpExp2 f sat a).2.getLsbD 2 = r.2.getLsbD 2 ∧ (fpExp2 f sat a).2.extractLsb' 3 2 = 0)

/-- Results of the VFP forms and of VFCVT, element by element, and of the estimates. -/
def Obligations.VectorFpResults : Prop :=
  Claim.VectorFpResults ∧ Claim.VectorConvertResults ∧ Claim.VectorEstimates

/-- The moves of the VPERM group copy elements and raise no flag, and poison in a scalar B poisons what it places
(R265). -/
def Claim.VectorMoveResults : Prop :=
  ∀ (s : State) (g : Guard) (t : ETy) (d : VOp),
    let w := tyBits t
    let n := 512 / w
    let el (x : PVec) (j : Nat) : Nat × Bool × Flags := (elem w x.x j, elemP w x.p j, 0)
    (∀ b : SImm, Clear s g { use := { b := chI b, dst := chV d, vecs := vecV d } } →
      let u : Use := { b := chI b, dst := chV d, vecs := vecV d }
      let v := s.view u
      let y := v.i v.b b
      GivesV Retires (.vbcast g t d b) s u d w fun _ => (y.v.toNat % 2 ^ w, y.p, 0)) ∧
    (∀ (a : SOp) (b : SImm),
      let u : Use := { a := chS a, b := chI b, d := chV d, dst := chV d, vecs := vecV d }
      Clear s g { use := u } →
      let v := s.view u
      let x := v.s v.a a
      let y := v.i v.b b
      GivesV Retires (.vins g t d a b) s u d w fun j =>
        if j = y.v.toNat % n then (x.v.toNat % 2 ^ w, x.p || y.p, 0) else el (v.v v.d d) j) ∧
    (∀ (a : VOp) (b : VB), Clear s g (formVVB d a b) → vbIsMask b = false →
      let u := (formVVB d a b).use
      let v := s.view u
      GivesV Retires (.vshuf g t d a b) s u d w fun j =>
        match v.vb b with
        | .vec y => (elem w (v.v v.a a).x (elem w y.x j % n),
            elemP w (v.v v.a a).p (elem w y.x j % n) || elemP w y.p j, 0)
        | .all y p => (elem w (v.v v.a a).x (y.toNat % n), elemP w (v.v v.a a).p (y.toNat % n) || p, 0)
        | .mask _ => (0, false, 0)) ∧
    (∀ (a : VOp) (b : SImm),
      let u : Use := { a := chV a, b := chI b, dst := chV d, vecs := vecV d ++ vecV a }
      Clear s g { use := u } →
      let v := s.view u
      let x := v.v v.a a
      let y := v.i v.b b
      GivesV Retires (.vslide g t d a b) s u d w fun j =>
        let k : Int := j + y.v.toInt
        if 0 ≤ k ∧ k < n then (elem w x.x k.toNat, elemP w x.p k.toNat || y.p, 0) else (0, y.p, 0)) ∧
    (∀ a b : VOp, Clear s g (formVVV d a b) →
      let u := (formVVV d a b).use
      let v := s.view u
      let x := v.v v.a a
      let y := v.v v.b b
      GivesV Retires (.vzip g t d a b) s u d w (fun j => if j % 2 = 0 then el x (j / 2) else el y (j / 2)) ∧
      GivesV Retires (.vunzip g t d a b) s u d w (fun j =>
        if j < n / 2 then el x (2 * j) else el y (2 * (j - n / 2)))) ∧
    ∀ (a : VOp) (b : KOp), Clear s g (formVVKr d a b) →
      let u := (formVVKr d a b).use
      let v := s.view u
      let x := v.v v.a a
      let on (j : Nat) : Bool := (v.k v.b b).getLsbD (j * w / 8)
      let l := (List.range n).filter on
      GivesV Retires (.vcompress g t d a b) s u d w (fun j =>
        match l[j]? with
        | some k => el x k
        | none => (0, false, 0)) ∧
      GivesV Retires (.vexpand g t d a b) s u d w (fun j =>
        if on j then el x ((List.range j).countP on) else (0, false, 0))

/-- VEXT and the reductions: the element named, and the fold of the active elements into D; the result is poison when D
or any active element is, and a poisoned result for a channel raises POISON with its first poisoned source (R163,
R168, R265, R266; which source is named is the model's reading, log 22). -/
def Claim.VectorToScalarResults : Prop :=
  ∀ (s : State) (g : Guard) (t : ETy) (d : SOp) (a : VOp),
    let w := tyBits t
    let n := 512 / w
    let sg (x : Nat) : Int := if 2 ^ (w - 1) ≤ x then (x : Int) - 2 ^ w else x
    (∀ b : SImm,
      let u : Use := { a := chV a, b := chI b, dst := chS d, vecs := vecV a }
      Clear s g { use := u } →
      let v := s.view u
      let x := v.v v.a a
      let y := v.i v.b b
      let p := elemP w x.p (y.v.toNat % n) || y.p
      (takesS d p → Retires (.vext g t d a b) s u [effS d (.ofNat 64 (elem w x.x (y.v.toNat % n))) p]) ∧
      (¬ takesS d p → Traps (.vext g t d a b) s
        { cause := 0x09, sub := if elemP w x.p (y.v.toNat % n) then 1 else 2 })) ∧
    ∀ b : KOp, Clear s g (formRed d a b) →
      let u := (formRed d a b).use
      let v := s.view u
      let x := v.v v.a a
      let z := v.s v.d d
      let on (j : Nat) : Bool := (v.k v.b b).getLsbD (j * w / 8)
      let l := ((List.range n).filter on).map (elem w x.x)
      let p := ((List.range n).any fun j => on j && elemP w x.p j) || z.p
      let gives (i : Instr) (r : Word) (fl : Flags) : Prop := Retires i s u [effS d r p, .flags fl]
      (¬ takesS d p → ∀ i ∈ [Instr.vredadd g t d a b, .vredmax g t d a b, .vredmin g t d a b, .vfredadd g t d a b],
        Traps i s { cause := 0x09, sub := if (List.range n).any fun j => on j && elemP w x.p j then 1 else 0 }) ∧
      (takesS d p →
      gives (.vredadd g t d a b) (.ofInt 64 (z.v.toInt + (l.map sg).sum)) 0 ∧
      (t.isInt = true →
        (∃ r : Word, gives (.vredmax g t d a b) r 0 ∧ (∀ y ∈ z.v.toInt :: l.map sg, y ≤ r.toInt) ∧
          r.toInt ∈ z.v.toInt :: l.map sg) ∧
        ∃ r : Word, gives (.vredmin g t d a b) r 0 ∧ (∀ y ∈ z.v.toInt :: l.map sg, r.toInt ≤ y) ∧
          r.toInt ∈ z.v.toInt :: l.map sg) ∧
      (t.isInt = false →
        let fold (mx : Bool) : Nat × Flags := l.foldl (fun r y =>
          ((fpMinMax (fmtOf t) mx r.1 y).1, r.2 ||| (fpMinMax (fmtOf t) mx r.1 y).2)) (z.v.toNat % 2 ^ w, 0)
        gives (.vredmax g t d a b) (.ofNat 64 (fold true).1) (fold true).2 ∧
        gives (.vredmin g t d a b) (.ofNat 64 (fold false).1) (fold false).2) ∧
      let f := fmtOf t
      let node (j : Nat) : Option Nat := if on j then some (elem w x.x j) else none
      let top := Nat.log2 n
      match redNode f node top 0 with
      | some y =>
        let r := fpAdd f .rne false (z.v.toNat % 2 ^ w) y
        gives (.vfredadd g t d a b) (.ofNat 64 r.1) (redFlags f node top 0 ||| r.2)
      | none => gives (.vfredadd g t d a b) (.ofNat 64 (z.v.toNat % 2 ^ w)) 0)

/-- Results of the VPERM group: moves, extraction and reductions. -/
def Obligations.VectorPermutationResults : Prop :=
  Claim.VectorMoveResults ∧ Claim.VectorToScalarResults

/-- The VBLOCK group on the elements of its blocks (R269, R270, R271, R272, R273, R274, R275): block formats that do not
decode raise FORMAT with the offending byte 0 in fd3 (R145, R268); a poison code of CBLOOK reads as 0 and one of
QDEQ as a NaN (R148); a word of a BPACK result is poisoned by B, by what is kept of a poisoned word of D, and by the
poison elements of A that it holds (R254); a poisoned result for a channel raises POISON (R168; which source is
named is the model's reading, log 22). -/
def Claim.BlockResults : Prop :=
  ∀ (s : State) (g : Guard),
    let m (rm : Rm) : Rmode := rmAt rm s.regs.fs
    let cb := (s.core s.cur.core).codebook
    (∀ (sat : Bool) (d : SOp) (a b : VOp),
      let u : Use := { a := chV a, b := chV b, d := chS d, dst := chS d, vecs := vecV a ++ vecV b }
      Clear s g { use := u } →
      let v := s.view u
      let x := v.v v.a a
      let y := v.v v.b b
      let z := v.s v.d d
      match blockElems cb x.x x.p, blockElems cb y.x y.p with
      | .ok xs, .ok ys =>
        let k := min xs.length ys.length
        let r := dot sat (xs.take k) (ys.take k) (if z.p then none else some (z.v.toNat % 2 ^ 32))
        (takesS d r.1.isNone →
          Retires (.bdot g sat d a b) s u [effS d (.ofNat 64 (r.1.getD fmt32.nan)) r.1.isNone, .flags r.2]) ∧
        (¬ takesS d r.1.isNone → Traps (.bdot g sat d a b) s
          { cause := 0x09, sub := (poisoned (decide (x.p ≠ 0)) (decide (y.p ≠ 0)) z.p).getD 4 })
      | .error e, _ => Traps (.bdot g sat d a b) s { cause := 0x0F, info := e }
      | _, .error e => Traps (.bdot g sat d a b) s { cause := 0x0F, info := e }) ∧
    (∀ (t : ETy) (rm : Rm) (sat : Bool) (d a : VOp) (b : SOp),
      let u : Use := { a := chV a, b := chS b, dst := chV d, vecs := vecV d ++ vecV a }
      Clear s g { use := u } →
      let v := s.view u
      let x := v.v v.a a
      let y := v.s v.b b
      let w := tyBits t
      let f := fmtOf t
      match blockElems cb x.x x.p with
      | .ok xs => GivesV Retires (.bunpk g t rm sat d a b) s u d w fun j =>
          match xs[y.v.toNat % 256 * (512 / w) + j]? with
          | some .poison => (f.nan, true, 0)
          | some (.val z) => ((fpPut f (m rm) sat z).1, y.p, (fpPut f (m rm) sat z).2)
          | none => (0, y.p, 0)
      | .error e => Traps (.bunpk g t rm sat d a b) s { cause := 0x0F, info := e }) ∧
    (∀ (t : ETy) (fmta : BitVec 8) (rm : Rm) (sat : Bool) (d a : VOp) (b : SOp),
      let u : Use := { a := chV a, b := chS b, d := chV d, dst := chV d, vecs := vecV d ++ vecV a }
      Clear s g { use := u } →
      let v := s.view u
      let x := v.v v.a a
      let y := v.s v.b b
      let z := v.v v.d d
      let w := tyBits t
      let n := 512 / w
      let f := fmta.toNat
      let p := y.v.toNat % 256
      let sc := (y.v.extractLsb' 8 8).toInt
      let part := (List.range (min n (blockCount f - p * n))).map fun j =>
        if elemP w x.p j then Elem.poison else Elem.val (fpDec (fmtOf t) (elem w x.x j))
      let head := f + 256 * (y.v.toNat / 256 % 256)
      let r := packInto cb f (m rm) sat sc (if p = 0 then head else z.x.toNat / 2 ^ 16 * 2 ^ 16 + head) (p * n) part
      let i := Instr.bpack g t fmta rm sat d a b
      let group : Bool := 7 ≤ f && f ≤ 9
      let lo (j : Nat) : Nat := if group then 16 + groupBits f * (j / 16) else 16 + elemBits f * j
      let hi (j : Nat) : Nat := if group then 16 + groupBits f * ((j + 15) / 16) else 16 + elemBits f * j
      let first : TrapInfo := { cause := 0x09, sub := (poisoned (decide (x.p ≠ 0)) y.p (decide (z.p ≠ 0))).getD 4 }
      if blockCount f ≤ p * n then Traps i s { cause := 0x0F, info := f }
      else if p ≠ 0 ∧ z.x.toNat % 256 = 0xFF then
        (takesV d z.p → Retires i s u [effV d z.x z.p]) ∧ (¬ takesV d z.p → Traps i s first)
      else ∃ bad : BitVec 8, (∀ j < 8, bad.getLsbD j = true ↔ y.p = true ∨
          (p ≠ 0 ∧ z.p.getLsbD j = true ∧ (64 * j < lo (p * n) ∨ hi (p * n + part.length) < 64 * (j + 1))) ∨
          ∃ e < part.length, part[e]? = some .poison ∧
            (f = 6 ∨ f = 10 ∨ (lo (p * n + e) < 64 * (j + 1) ∧ 64 * j < hi (p * n + e + 1)))) ∧
        (takesV d bad → Retires i s u [effV d (.ofNat 512 r.1) bad, .flags r.2]) ∧ (¬ takesV d bad → Traps i s first)) ∧
    (∀ (rm : Rm) (d : VOp) (a b : SOp),
      let u : Use := { a := chS a, b := chS b, d := chV d, dst := chV d, vecs := vecV d }
      Clear s g { use := u } →
      let v := s.view u
      let x := v.s v.a a
      let y := v.s v.b b
      let z := v.v v.d d
      let r := bscale (m rm) (z.x.extractLsb' 0 64) (z.x.extractLsb' 64 64) x.v y.v
      let bad := x.p || y.p || z.p.getLsbD 0 || z.p.getLsbD 1
      ∃ (q : VReg) (p : BitVec 8), q.extractLsb' 0 64 = r.1 ∧ q.extractLsb' 64 64 = r.2.1 ∧
        q.extractLsb' 128 384 = z.x.extractLsb' 128 384 ∧
        (∀ j < 8, p.getLsbD j = if j < 2 then bad else z.p.getLsbD j) ∧
        (takesV d p → Retires (.bscale g rm d a b) s u [effV d q p, .flags r.2.2]) ∧
        (¬ takesV d p → Traps (.bscale g rm d a b) s
          { cause := 0x09, sub := (poisoned x.p y.p (decide (z.p ≠ 0))).getD 4 })) ∧
    (∀ (t : ETy) (q4 : Bool) (d a : VOp) (b : SOp), Clear s g (formVVS d a b) →
      let u := (formVVS d a b).use
      let v := s.view u
      let x := v.v v.a a
      let y := v.s v.b b
      let w := tyBits t
      let n := 512 / w
      let k := y.v.toNat % (128 / n)
      let cw := if q4 then 4 else 8
      let part := y.v.toNat / 2 ^ 32 % (if q4 then 8 else 4)
      GivesV Retires (.cblook g t d a b) s u d w (fun j =>
        if elemP 4 x.p (k * n + j) then (0, true, 0)
        else ((cbEntry cb (elem 4 x.x (k * n + j)) % 2 ^ w).toNat, y.p, 0)) ∧
      GivesV Retires (.qdeq g q4 d a b) s u d 32 (fun j =>
        let scale := y.v.toNat % 2 ^ 16
        let offset := y.v.toNat / 2 ^ 16 % 2 ^ 16
        let r := dequant scale offset (elem cw x.x (16 * part + j))
        if elemP cw x.p (16 * part + j) then
          (fmt32.nan, true, if (fpDec fmt16 scale).isSnan || (fpDec fmt16 offset).isSnan then fNV else 0)
        else (r.1, y.p, r.2))) ∧
    ∀ a : VOp, Clear s g (formCbload a) →
      let u := (formCbload a).use
      let v := s.view u
      let x := v.v v.a a
      if x.p = 0 then ∃ t, exec (.cbload g a) s = .next t ∧ t.regs = { s.regs with pc := s.pc + 1 } ∧
        (t.core s.cur.core).codebook = x.x.extractLsb' 0 128 ∧
        Settled (s.setCore s.cur.core { s.core s.cur.core with codebook := x.x.extractLsb' 0 128 }) t u []
      else Traps (.cbload g a) s { cause := 0x09, sub := 1 }

/-- A block dot product: it adds, K-group by K-group of sixteen, the exact sum of the products, rounded into binary32,
to the accumulator; a poisoned K-group or accumulator ends it as poison with the flags so far (R150, R151). -/
def Claim.DotProducts : Prop :=
  ∀ (sat : Bool) (a b : List Elem),
    dot sat a b none = (none, 0) ∧
    (a = [] ∨ b = [] → ∀ acc, dot sat a b acc = (acc, 0)) ∧
    ∀ x : Nat, a ≠ [] → b ≠ [] →
      (.poison ∈ a.take 16 ∨ .poison ∈ b.take 16 → dot sat a b (some x) = (none, 0)) ∧
      ∀ p q : List FV, a.take 16 = p.map .val → b.take 16 = q.map .val →
        let ps := p.zip q
        let zeroInf (y : FV × FV) : Bool := (y.1 matches .inf _ && y.2.isZero) || (y.1.isZero && y.2 matches .inf _)
        let infOf (n : Bool) (y : FV × FV) : Bool := !y.1.isNan && !y.2.isNan && !zeroInf y && ((y.1.neg != y.2.neg) == n) &&
          (y.1 matches .inf _ || y.2 matches .inf _)
        let both : Bool := ps.any (infOf false) && ps.any (infOf true)
        let nan : Bool := (ps.any fun y => y.1.isNan || y.2.isNan || zeroInf y) || both
        ∃ g : Nat × Flags,
          (let r := fpAdd fmt32 .rne sat x g.1
          let t := dot sat (a.drop 16) (b.drop 16) (some r.1)
          dot sat a b (some x) = (t.1, g.2 ||| r.2 ||| t.2)) ∧
          (nan = true →
            g = (fmt32.nan, if both || ps.any fun y => y.1.isSnan || y.2.isSnan || zeroInf y then fNV else 0)) ∧
          (nan = false → ∀ n, ps.any (infOf n) = true → g = infinite fmt32 sat n) ∧
          ∀ l : List ((Bool × Nat × Int) × (Bool × Nat × Int)),
            ps = l.map (fun y => (.fin y.1.1 y.1.2.1 y.1.2.2, .fin y.2.1 y.2.2.1 y.2.2.2)) →
            Exact fmt32 .rne sat
              ((l.map fun y => worth y.1.1 y.1.2.1 y.1.2.2 * worth y.2.1 y.2.2.1 y.2.2.2).sum : ℚ)
              (l.all fun y => y.1.1 != y.2.1) g

/-- Packing elements into a block. FP elements: the value over 2^S, rounded once (E4M3 always saturates). INT8: rounded
and clamped. C4: the nearest codebook entry, ties to the lower index. A poison or NaN element poisons an INT8 or C4
block whole. PB groups: E from the largest magnitude, for each quad the largest shift that still holds its largest
magnitude (no repeat of R142 is ever due below E = 254, since M ≤ 2^(m-1)), magnitudes rounded, clamped when E ran
past 254 (R142, R147, R149, R271; that a block or group with both poison and NaN raises what it does is the model's
choice, log 119). -/
def Claim.Packing : Prop :=
  ∀ (cb : BitVec 128) (code : Nat) (rm : Rmode) (sat : Bool) (s : Int) (blk first : Nat) (xs : List Elem),
    1 ≤ code → code ≤ 10 → first + xs.length ≤ blockCount code → blk < 2 ^ 512 →
    let r := packInto cb code rm sat s blk first xs
    let part (lo w : Nat) : Nat := r.1 / 2 ^ lo % 2 ^ w
    let scaled (n : Bool) (m : Nat) (e : Int) : ℝ := ((worth n m (e - s) : ℚ) : ℝ)
    let nan : Bool := xs.any fun x => match x with | .val v => v.isNan | .poison => false
    let flagsAre (l : Nat) (f : Nat → Flags) : Prop := ∀ n < 5, r.2.getLsbD n = true ↔ ∃ j < l, (f j).getLsbD n = true
    let keeps (lo hi : Nat) : Prop := ∀ k, k < lo ∨ hi ≤ k → r.1.testBit k = blk.testBit k
    (code ≤ 5 →
      let f := blockFmt code
      keeps (16 + f.width * first) (16 + f.width * (first + xs.length)) ∧
      ∃ e : Nat → Nat × Flags, flagsAre xs.length (fun j => (e j).2) ∧
        ∀ j (h : j < xs.length), part (16 + f.width * (first + j)) f.width = (e j).1 ∧
          match xs[j] with
          | .poison => e j = (f.nan, 0)
          | .val (.fin n m k) => Exact f rm sat (scaled n m k) n (e j)
          | .val v => Converted f rm sat v (e j)) ∧
    (code = 6 ∨ code = 10 →
      let w := if code = 6 then 8 else 4
      ∃ e : Nat → Nat × Flags,
        (flagsAre (xs.length + 1) fun j =>
          if j < xs.length then (e j).2 else if nan then fNV else 0) ∧
        (if nan = true ∨ .poison ∈ xs then r.1 = 0xFF + blockCount code * 2 ^ 16
        else keeps (16 + w * first) (16 + w * (first + xs.length)) ∧
          ∀ j < xs.length, part (16 + w * (first + j)) w = (e j).1) ∧
        ∀ j (h : j < xs.length),
          match xs[j] with
          | .poison => (e j).2 = 0
          | .val (.nan _) => (e j).2 = 0
          | .val (.inf n) => (e j).2 = fOF ||| fNX ∧
            if code = 6 then (e j).1 = (if n then 128 else 127)
            else (e j).1 < 16 ∧ ∀ i < 16, let d := if n then cbEntry cb i - cbEntry cb (e j).1 else cbEntry cb (e j).1 - cbEntry cb i
              0 ≤ d ∧ (i < (e j).1 → 0 < d)
          | .val (.fin n m k) =>
            let y := scaled n m k
            if code = 6 then ∃ i c x, Confines rm (-128) 127 n y i c x ∧ (e j).1 = (i % 256).toNat ∧
              (e j).2 = (if c then fOF ||| fNX else if x then fNX else 0)
            else
              let d (i : Nat) : ℝ := |y - (cbEntry cb i : ℝ)|
              (e j).1 < 16 ∧ (∀ i < 16, d (e j).1 ≤ d i ∧ (i < (e j).1 → d (e j).1 < d i)) ∧
              let far : Prop := (∀ i < 16, y < (cbEntry cb i : ℝ)) ∨ ∀ i < 16, (cbEntry cb i : ℝ) < y
              (far → (e j).2 = fOF ||| fNX) ∧ (¬ far → ((e j).2 = fNX ∨ (e j).2 = 0) ∧
                ((e j).2 = fNX ↔ y ≠ (cbEntry cb (e j).1 : ℝ)))) ∧
    (7 ≤ code → code ≤ 9 → first % 16 = 0 → xs.length % 16 = 0 →
      let m := quadBits code
      let w := groupBits code
      keeps (16 + w * (first / 16)) (16 + w * ((first + xs.length) / 16)) ∧
      ∃ fl : Nat → Flags, flagsAre (xs.length / 16) fl ∧
        ∀ g < xs.length / 16, ∃ (E : Nat) (shift M : Nat → Nat) (neg : Nat → Bool),
          let x (i : Nat) : Elem := xs.getD (16 * g + i) .poison
          let size (i : Nat) : ℝ := match x i with | .val (.fin _ k e) => ((worth false k e : ℚ) : ℝ) | _ => 0
          let huge (i : Nat) : Bool := x i matches .val (.inf _)
          let bad : Prop := ∃ i < 16, x i = .poison ∨ ∃ b, x i = .val (.nan b)
          part (16 + w * (first / 16 + g)) w = E + 256 * ((List.range 4).map fun q => shift q * 4 ^ q).sum +
            ((List.range 16).map fun i => (M i + if neg i then 2 ^ m else 0) * 2 ^ (16 + (m + 1) * i)).sum ∧
          (bad → E = 0xFF ∧ ((∃ i < 16, x i = .poison) → fl g = 0) ∧ ((∀ i < 16, x i ≠ .poison) → fl g = fNV)) ∧
          (bad ∨ (∀ i < 16, size i = 0 ∧ huge i = false) →
            (∀ q < 4, shift q = 0) ∧ ∀ i < 16, M i = 0 ∧ neg i = false) ∧
          (¬ bad → (∀ i < 16, size i = 0 ∧ huge i = false) → E = 0 ∧ fl g = 0) ∧
          (¬ bad → (∃ i < 16, size i ≠ 0 ∨ huge i = true) →
            ∃ past : Bool,
              (((∃ i < 16, huge i = true) ∧ E = 254 ∧ past = true) ∨
                ((∀ i < 16, huge i = false) ∧ ∃ a : ℝ, (∃ i < 16, size i = a) ∧ (∀ i < 16, size i ≤ a) ∧
                  let e0 : ℤ := Int.log 2 a - s + 128
                  (E : ℤ) = max 0 (min 254 e0) ∧ (past = true ↔ 254 < e0))) ∧
              let base : ℤ := E + s - 127
              (∀ q < 4, shift q ≤ 3 ∧ ∀ t : ℕ, 1 ≤ t → t ≤ 3 →
                (t ≤ shift q ↔ ∀ i < 16, i / 4 = q → huge i = false ∧ size i < (2 : ℝ) ^ (base - t))) ∧
              ∃ N : Nat → Nat, (∀ i < 16, huge i = false →
                Nearest rm false (size i) (base - shift (i / 4) - (m - 1 : ℤ)) (N i)) ∧
              (∀ i < 16, M i = (if huge i then 2 ^ m - 1 else if past then min (N i) (2 ^ m - 1) else N i) ∧
                (neg i = true ↔ M i ≠ 0 ∧ match x i with | .val v => v.neg = true | .poison => False)) ∧
              let exact (i : Nat) : Prop := size i = N i * (2 : ℝ) ^ (base - shift (i / 4) - (m - 1 : ℤ))
              ((fl g).getLsbD 2 = true ↔ ∃ i < 16, huge i = true ∨ 2 ^ m ≤ N i) ∧
              ((fl g).getLsbD 1 = true ↔ ∃ i < 16, huge i = false ∧ size i ≠ 0 ∧ N i = 0) ∧
              ((fl g).getLsbD 0 = true ↔ ∃ i < 16, huge i = true ∨ 2 ^ m ≤ N i ∨ ¬ exact i) ∧
              (fl g).extractLsb' 3 2 = 0))

/-- The merge of BSCALE, and the dequantisation of QDEQ and of embedding rows: scale × code + offset, rounded once into
binary32 (R153, R272, R275). -/
def Claim.ScaledSums : Prop :=
  (∀ (rm : Rmode) (w0 w1 a b : Word),
    let r := bscale rm w0 w1 a b
    let bad (w : Word) : Prop := w.extractLsb' 18 46 ≠ 0 ∨ w.getLsbD 17 = true
    let far : Prop := w1.getLsbD 16 = true ∨ b.getLsbD 16 = true
    let fits (x : ℤ) : Prop := -2 ^ 63 ≤ x ∧ x < 2 ^ 63
    let rnd (x : ℤ) (k : ℕ) (y : ℤ) (f : Flags) : Prop := ∃ n : ℕ, Nearest rm (x < 0) (|(x : ℝ)| / 2 ^ k) 0 n ∧
      y = (if x < 0 then -(n : ℤ) else n) ∧ (f = 0 ∨ f = fNX) ∧ (f = 0 ↔ |(x : ℝ)| / 2 ^ k = n)
    (bad w1 ∨ bad b → r = (0, 0x20000, 0)) ∧
    (¬ (bad w1 ∨ bad b) → far → r = (0, 0x10000, 0)) ∧
    (¬ (bad w1 ∨ bad b) → ¬ far →
      let qr := w0.toInt
      let qa := a.toInt
      let er := (w1.extractLsb' 0 16).toInt
      let ea := (b.extractLsb' 0 16).toInt
      let up := (ea - er).toNat
      let down := (er - ea).toNat
      ∃ (u x e : ℤ) (f1 : Flags) (q e' : ℤ) (f2 : Flags),
        (er ≤ ea → fits (qa * 2 ^ up) → u = qr ∧ x = qa * 2 ^ up ∧ e = er ∧ f1 = 0) ∧
        (er ≤ ea → ¬ fits (qa * 2 ^ up) → rnd qr up u f1 ∧ x = qa ∧ e = ea) ∧
        (ea < er → 2 ^ down ∣ qa → u = qr ∧ x * 2 ^ down = qa ∧ e = er ∧ f1 = 0) ∧
        (ea < er → ¬ 2 ^ down ∣ qa → fits (qr * 2 ^ down) → u = qr * 2 ^ down ∧ x = qa ∧ e = ea ∧ f1 = 0) ∧
        (ea < er → ¬ 2 ^ down ∣ qa → ¬ fits (qr * 2 ^ down) → u = qr ∧ rnd qa down x f1 ∧ e = er) ∧
        (fits (u + x) → q = u + x ∧ e' = e ∧ f2 = 0) ∧ (¬ fits (u + x) → rnd (u + x) 1 q f2 ∧ e' = e + 1) ∧
        (32767 < e' → r = (0, 0x10000, f1 ||| f2 ||| fOF)) ∧
        (e' ≤ 32767 → r.1.toInt = q ∧ (r.2.1.extractLsb' 0 16).toInt = e' ∧ r.2.1.extractLsb' 16 48 = 0 ∧
          r.2.2 = f1 ||| f2))) ∧
  ∀ scale offset code : Nat,
    let r := dequant scale offset code
    let x := fpDec fmt16 scale
    let y := fpDec fmt16 offset
    (x.isNan = true ∨ y.isNan = true →
      r = (fmt32.nan, if x.isSnan || y.isSnan || (x matches .inf _ && decide (code = 0)) then fNV else 0)) ∧
    (∀ n, x = .inf n → y.isNan = false → r =
      if code = 0 ∨ y = .inf (!n) then (fmt32.nan, fNV) else infinite fmt32 false n) ∧
    (∀ n m e, x = .fin n m e → (∀ p, y = .inf p → r = infinite fmt32 false p) ∧
      ∀ p k j, y = .fin p k j →
        Exact fmt32 .rne false ((worth n m e * code + worth p k j : ℚ) : ℝ) (n && p) r)

/-- Results of the VBLOCK group and its FORMAT traps, and what its dot products, packing, merge and dequantisation compute. -/
def Obligations.BlockResults : Prop :=
  Claim.BlockResults ∧ Claim.DotProducts ∧ Claim.Packing ∧ Claim.ScaledSums

/-- LD, VLD and VGATH read the local store at A plus the displacement taken exactly; a word of the destination is
poisoned when a byte that fills it comes from a poisoned word, the ranges read touch their guards, and an access
past 0x5FFF raises LS_RANGE (R85, R86, R88, R283, R284). -/
def Claim.LocalLoads : Prop :=
  ∀ (s : State) (g : Guard),
    let k := s.core s.cur.core
    let mem (a n : Nat) : Nat := ((List.range n).map fun j => (lsByte k (a + j)).v.toNat * 2 ^ (8 * j)).sum
    let bad (a n : Nat) : Bool := (List.range n).any fun j => (lsByte k (a + j)).p
    (∀ (w : WMod) (d : SOp) (m : LMem), Clear s g (formLd d m) →
      let u := (formLd d m).use
      let v := s.view u
      let x := v.s v.a m.a
      let a := x.v.toNat + m.disp.toNat
      let n := 2 ^ w.w.val
      let r : Int := if w.sgn = true ∧ 2 ^ (8 * n - 1) ≤ mem a n then (mem a n : Int) - 2 ^ (8 * n) else mem a n
      if x.p then Traps (.ld g w d m) s { cause := 0x09, sub := 1 }
      else if 0x5FFF < a + n - 1 then Traps (.ld g w d m) s { cause := 0x04, addr := a }
      else takesS d (bad a n) →
        RetiresFrom (.ld g w d m) s (touched s [(a, n)]) u [effS d (.ofInt 64 r) (bad a n)]) ∧
    (∀ (d : VOp) (m : LMem),
      let u : Use := { a := chS m.a, dst := chV d, vecs := vecV d }
      Clear s g { use := u } →
      let v := s.view u
      let x := v.s v.a m.a
      let a := x.v.toNat + m.disp.toNat
      if x.p then Traps (.vld g d m) s { cause := 0x09, sub := 1 }
      else if 0x5FFF < a + 63 then Traps (.vld g d m) s { cause := 0x04, addr := a }
      else ∃ (y : VReg) (p : BitVec 8), (∀ j < 64, y.extractLsb' (8 * j) 8 = (lsByte k (a + j)).v) ∧
        (∀ j < 8, p.getLsbD j = bad (a + 8 * j) 8) ∧
        (takesV d p → RetiresFrom (.vld g d m) s (touched s [(a, 64)]) u [effV d y p])) ∧
    ∀ (t : ETy) (d : VOp) (m : LMem) (b : VOp),
      let u : Use := { a := chS m.a, b := chV b, dst := chV d, vecs := vecV d ++ vecV b }
      Clear s g { use := u } →
      let v := s.view u
      let x := v.s v.a m.a
      let y := v.v v.b b
      let w := tyBits t
      let a (j : Nat) : Nat := x.v.toNat + m.disp.toNat + elem w y.x j * (w / 8)
      let far := (List.range (512 / w)).find? fun j => 0x5FFF < a j + w / 8 - 1
      if x.p then Traps (.vgath g t d m b) s { cause := 0x09, sub := 1 }
      else if y.p ≠ 0 then Traps (.vgath g t d m b) s { cause := 0x09, sub := 2 }
      else match far with
        | some j => Traps (.vgath g t d m b) s { cause := 0x04, addr := a j }
        | none => ∃ z p, ElemsAre w (fun j => (mem (a j) (w / 8), bad (a j) (w / 8), 0)) z p 0 ∧
          (takesV d p → RetiresFrom (.vgath g t d m b) s
            (touched s ((List.range (512 / w)).map fun j => (a j, w / 8))) u [effV d z p, .flags 0])

/-- ST, VST and VSCAT store the low bytes of D at A plus the displacement taken exactly, elements in ascending order,
each byte with the poison of its register word; an access past 0x5FFF raises LS_RANGE and stores nothing (R85, R168,
R283, R284). What `stored` does to the bytes is `LocalStoreWrites`. -/
def Claim.LocalStores : Prop :=
  ∀ (s : State) (g : Guard),
    (∀ (w : Fin 4) (d : SOp) (m : LMem), Clear s g (formSt d m) →
      let u := (formSt d m).use
      let v := s.view u
      let x := v.s v.a m.a
      let z := v.s v.d d
      let a := x.v.toNat + m.disp.toNat
      let n := 2 ^ w.val
      if x.p then Traps (.st g w d m) s { cause := 0x09, sub := 1 }
      else if 0x5FFF < a + n - 1 then Traps (.st g w d m) s { cause := 0x04, addr := a }
      else RetiresFrom (.st g w d m) s
        (stored s [(a, (List.range n).map fun j => ⟨z.v.extractLsb' (8 * j) 8, z.p⟩)]) u []) ∧
    (∀ (d : VOp) (m : LMem),
      let u : Use := { a := chS m.a, d := chV d, vecs := vecV d }
      Clear s g { use := u } →
      let v := s.view u
      let x := v.s v.a m.a
      let z := v.v v.d d
      let a := x.v.toNat + m.disp.toNat
      if x.p then Traps (.vst g d m) s { cause := 0x09, sub := 1 }
      else if 0x5FFF < a + 63 then Traps (.vst g d m) s { cause := 0x04, addr := a }
      else RetiresFrom (.vst g d m) s
        (stored s [(a, (List.range 64).map fun j => ⟨z.x.extractLsb' (8 * j) 8, z.p.getLsbD (j / 8)⟩)]) u []) ∧
    ∀ (t : ETy) (d : VOp) (m : LMem) (b : VOp),
      let u : Use := { a := chS m.a, b := chV b, d := chV d, vecs := vecV d ++ vecV b }
      Clear s g { use := u } →
      let v := s.view u
      let x := v.s v.a m.a
      let y := v.v v.b b
      let z := v.v v.d d
      let w := tyBits t
      let a (j : Nat) : Nat := x.v.toNat + m.disp.toNat + elem w y.x j * (w / 8)
      let far := (List.range (512 / w)).find? fun j => 0x5FFF < a j + w / 8 - 1
      if x.p then Traps (.vscat g t d m b) s { cause := 0x09, sub := 1 }
      else if y.p ≠ 0 then Traps (.vscat g t d m b) s { cause := 0x09, sub := 2 }
      else match far with
        | some j => Traps (.vscat g t d m b) s { cause := 0x04, addr := a j }
        | none => RetiresFrom (.vscat g t d m b) s (stored s ((List.range (512 / w)).map fun j =>
            (a j, (List.range (w / 8)).map fun i =>
              ⟨z.x.extractLsb' (w * j + 8 * i) 8, elemP w z.p j⟩))) u []

/-- Local loads and stores: their bytes, their poison and their LS_RANGE trap. -/
def Obligations.LocalLoadsAndStores : Prop :=
  Claim.LocalLoads ∧ Claim.LocalStores

/-- A store writes its bytes and no others; bytes of guarded granules are discarded (R87). A word that receives a
poisoned byte is poisoned; one that is covered whole by clean bytes loses its poison; one covered in part keeps its
mark (R86, R283). -/
def Obligations.LocalStoreWrites : Prop :=
  ∀ (k : Core) (a : Nat) (l : List PByte), memWf k.ls = true →
    let open' (x : Nat) : Bool := decide (a ≤ x) && decide (x < a + l.length) && !setHas k.guards (x / 64)
    let b (x : Nat) : PByte := l.getD (x - a) ⟨0, false⟩
    let k' := lsWrite k a l
    memWf k'.ls = true ∧ ({ k' with ls := k.ls, lsP := k.lsP } : Core) = k ∧
    (∀ x, (lsByte k' x).v = if open' x then (b x).v else (lsByte k x).v) ∧
    ∀ w,
      let mine := ((List.range 8).map (8 * w + ·)).filter open'
      setHas k'.lsP w = if mine.any fun x => (b x).p then true
        else if mine.length = 8 then false else setHas k.lsP w

/-- The first touch of a guarded granule by a strand is recorded with its bank and address, and later ones are counted
to 255 (R88); LSGUARD sets or clears granules and records nothing (R285). That each access, or each element of a
gather or scatter, is one touch is the model's choice (log 34). -/
def Obligations.GuardRecords : Prop :=
  (∀ (s : State) (a n : Nat), s.cur.pos < 6 →
    let t := touched s [(a, n)]
    let x := s.strand s.cur.core s.cur.pos
    let first := (List.range n).find? fun j => setHas (s.core s.cur.core).guards ((a + j) / 64)
    ({ t.strand s.cur.core s.cur.pos with guard := x.guard } : Strand) = x ∧
    match first with
    | none => t = s
    | some j => (t.strand s.cur.core s.cur.pos).guard = some (match x.guard with
        | none => ⟨.ofNat 3 ((a + j) / 8), .ofNat 15 (a + j), 0⟩
        | some r => { r with more := if r.more = 255 then 255 else r.more + 1 })) ∧
  ∀ (s : State) (g : Guard) (d : SOp) (m : LMem), Clear s g (formLsguard d m) →
    let u := (formLsguard d m).use
    let v := s.view u
    let x := v.s v.a m.a
    let z := v.s v.d d
    let a := x.v.toNat + m.disp.toNat
    let n := z.v.toNat % 2 ^ 9
    if x.p then Traps (.lsguard g d m) s { cause := 0x09, sub := 1 }
    else if z.p then Traps (.lsguard g d m) s { cause := 0x09, sub := 0 }
    else if 384 < a / 64 + n then Traps (.lsguard g d m) s { cause := 0x04, addr := a }
    else ∃ gs : List Nat,
      (∀ j, setHas gs j = if a / 64 ≤ j ∧ j < a / 64 + n then z.v.getLsbD 16 else setHas (s.core s.cur.core).guards j) ∧
      RetiresFrom (.lsguard g d m) s (s.setCore s.cur.core { s.core s.cur.core with guards := gs }) u []

/-- RPT loads the words that follow it and goes past them; it only goes past them under a false guard, waits while the
repeater holds a sequence, and raises POISON or ILLEGAL for words that may not stand in one (R48, R276, R277). -/
def Claim.RepeatLoads : Prop :=
  ∀ (s : State) (g : Guard) (strb stra strd : BitVec 4) (seqlen : Fin 8) (count : BitVec 13),
    let i : Instr := .rpt g strb stra strd seqlen count
    let k := s.core s.cur.core
    let at' (j : Nat) : Pc := s.pc + 1 + .ofNat 24 j
    let legal (j : Nat) : Bool := legalPc s.curCtx (at' j)
    let read (j : Nat) := wordAt k s.curCtx ((at' j).getLsbD 23) ((at' j).extractLsb' 0 23).toNat
    let n := seqlen.val + 1
    let past : Eff := .jump (s.pc + .ofNat 24 (n + 1))
    (s.cur.pos = 6 → Traps i s { cause := 0x01 }) ∧
    (s.cur.pos ≠ 6 → s.guardTrue g = false → Retires i s {} [past]) ∧
    (s.cur.pos ≠ 6 → s.guardTrue g = true → k.rep.isSome = true → Waits i s .waitMsg .repeater) ∧
    (s.cur.pos ≠ 6 → s.guardTrue g = true → k.rep = none →
      if ∃ j < n, legal j = true ∧ (read j).2 = true then Traps i s { cause := 0x09, sub := 3 }
      else if ∃ j < n, ¬ (legal j = true ∧ seqOk (read j).1 = true) then Traps i s { cause := 0x01 }
      else ∃ r : RepSeq, RetiresFrom i s (s.setCore s.cur.core { k with rep := some r }) {} [past] ∧
        r.owner = s.cur.pos ∧ r.pc = s.pc ∧ r.words = (List.range n).map (fun j => (read j).1) ∧
        r.count = count.toNat ∧ r.iter = 0 ∧ r.idx = 0 ∧ r.strd = strd.toNat ∧ r.stra = stra.toNat ∧
        r.strb = strb.toNat ∧ r.cap = s.regs ∧
        ∀ v : Fin 16, r.claim.getLsbD v = true ↔
          ∃ it < count.toNat, ∃ j < n, ∃ f fx, r.instr j it = some (f, fx) ∧ v ∈ f.use.vecs)

/-- RWAIT waits while its strand holds a sequence; RSTOP ends the sequence and gives the number of its instructions
issued, or 0 (R279). -/
def Claim.RepeatWaitAndStop : Prop :=
  ∀ (s : State) (g : Guard),
    let own : Bool := match (s.core s.cur.core).rep with
      | some r => decide (r.owner = s.cur.pos)
      | none => false
    (Clear s g { strandOnly := true } →
      if own then Waits (.rwait g) s .waitMsg .repeater else Retires (.rwait g) s {} []) ∧
    ∀ d : SOp,
      let u : Use := { dst := chS d }
      Clear s g { use := u, strandOnly := true } →
      match (s.core s.cur.core).rep with
      | some r =>
        if r.owner = s.cur.pos then RetiresFrom (.rstop g d) s (s.releaseRep s.cur.core) u
          [effS d (.ofNat 64 (r.iter * r.words.length + r.idx)) false]
        else Retires (.rstop g d) s u [effS d 0 false]
      | none => Retires (.rstop g d) s u [effS d 0 false]

/-- One sequence instruction issues from the owner's vector registers and the scalars and masks that RPT read; after the
last one the iteration rises; a trap is charged to the owner and ends the sequence, and the last iteration releases
the claim (R49, R50, R160, R163). -/
def Claim.RepeaterEvents : Prop :=
  ∀ (s : State) (c : Nat) (r : RepSeq), (s.core c).rep = some r →
    let x := s.strand c r.owner
    let view : View :=
      { regs := { x.regs with s := r.cap.s, sp := r.cap.sp, p := r.cap.p, k := r.cap.k }
        a := [], b := [], d := [], codebook := (s.core c).codebook, cycle := s.cycle
        loc := locWord c r.owner, tmpl := Vector.replicate 8 Seg.zero }
    (∀ f fx l, r.iter < r.count → r.instr r.idx r.iter = some (f, fx) → fx view = .ok l →
      ∃ t, exec (.repeaterIssue c) s = .next t ∧
        t.strand c r.owner = { x with regs := l.foldl RegSet.eff x.regs } ∧
        (∀ q, q ≠ r.owner → t.strand c q = s.strand c q) ∧ t.porter c = s.porter c ∧
        (∀ e, e ≠ c → t.core e = s.core e) ∧ OnlyCores s t ∧
        ∃ n, (t.core c).rep = some (if r.idx + 1 < r.words.length then { r with idx := r.idx + 1, notBefore := n }
          else { r with idx := 0, iter := r.iter + 1, notBefore := n })) ∧
    (∀ f fx e, r.iter < r.count → r.instr r.idx r.iter = some (f, fx) → fx view = .error e →
      x.st = .run ∨ x.st = .waitMsg ∧ (x.wait = .claim ∨ x.wait = .repeater) →
      ∃ t, exec (.repeaterIssue c) s = .next t ∧ (t.core c).rep = none ∧ (t.strand c r.owner).st = .trapped ∧
        Fault0 (t.strand c r.owner).fault.fd0 x.gti true e.upper false e.sub e.cause ∧
        (t.strand c r.owner).fault.fd1.toNat = locWord c r.owner % 2 ^ 40 * 2 ^ 24 + r.pc.toNat ∧
        (t.strand c r.owner).fault.fd3 = .ofNat 64 (r.iter + r.idx * 2 ^ 13) ∧
        (t.strand c r.owner).regs = x.regs) ∧
    (r.count ≤ r.iter → ∃ t, exec (.lastIterationRetires c) s = .next t ∧ (t.core c).rep = none ∧
      ∀ p < 6, (s.strand c p).st = .waitMsg →
        (s.strand c p).wait = .repeater ∨ (s.strand c p).wait = .claim ∧ p = r.owner →
        (t.strand c p).wait = .none ∧
        (t.strand c p).st = (if (s.strand c p).stopPending = true ∧ (s.strand c p).op = none ∧ s.breakFirst c p = false
          then .stopped else .run))

/-- RPT, RWAIT, RSTOP, REPEATER_ISSUE and LAST_ITERATION_RETIRES. -/
def Obligations.RepeaterForms : Prop :=
  Claim.RepeatLoads ∧ Claim.RepeatWaitAndStop ∧ Claim.RepeaterEvents

/-- GLD, GVLD, XGET, GST, GVST and XPUT: sources that are poisoned trap first, then a local-store range, then the
segment; else the access is under way with the data that it carries (R288, R289, R290, R168). GPREF never traps on
its segment: it retires, or waits first for room for its flit (R26, R291). -/
def Obligations.GlobalAccesses : Prop :=
  ∀ (s : State) (g : Guard) (m : GMem),
    let n := m.len.toNat + 1
    (∀ (w : WMod) (d : SOp), Clear s g (formGld d m) →
      let u := (formGld d m).use
      let x := (s.view u).s (s.view u).a m.a
      GlobalForm (.gld g w d m) s u m [0] (.load (.scalar d w.sgn)) (poisoned x.p false false) 1 []) ∧
    (∀ d : VOp, Clear s g (formGvld d m) →
      let u := (formGvld d m).use
      let x := (s.view u).s (s.view u).a m.a
      GlobalForm (.gvld g d m) s u m [0] (.load (.vec d)) (poisoned x.p false false) 1 []) ∧
    (∀ (w : Fin 4) (d : SOp), n ≤ 8 → Clear s g (formGst d m) →
      let u := (formGst d m).use
      let x := (s.view u).s (s.view u).a m.a
      let z := (s.view u).s (s.view u).d d
      GlobalForm (.gst g w d m) s u m [1] .store (poisoned x.p false z.p) 1 (lowBytes n z)) ∧
    (∀ d : VOp, n ≤ 64 → Clear s g (formGvst d m) →
      let u := (formGvst d m).use
      let x := (s.view u).s (s.view u).a m.a
      let z := (s.view u).v (s.view u).d d
      let lanes : List PByte := (List.range n).map fun j => ⟨z.x.extractLsb' (8 * j) 8, z.p.getLsbD (j / 8)⟩
      GlobalForm (.gvst g d m) s u m [1] .store (poisoned x.p false (lanes.any (·.p))) 1 lanes) ∧
    (∀ d : SOp, Clear s g (formGst d m) →
      let u := (formGst d m).use
      let x := (s.view u).s (s.view u).a m.a
      let z := (s.view u).s (s.view u).d d
      let l := z.v.toNat
      let bytes := lsBytes (s.core s.cur.core) l n
      let off : Int := x.v.toInt + m.disp.toInt
      let sg := s.regs.g[m.seg]
      let a := sg.base.toNat + off.toNat
      if x.p ∨ z.p then
        Traps (.xget g d m) s { cause := 0x09, sub := if x.p then 1 else 0 } ∧
        Traps (.xput g d m) s { cause := 0x09, sub := if x.p then 1 else 0 }
      else if 0x5FFF < l + n - 1 then
        Traps (.xget g d m) s { cause := 0x04, addr := l } ∧ Traps (.xput g d m) s { cause := 0x04, addr := l }
      else
        (¬ InSegment sg [0] off n → Traps (.xget g d m) s { cause := 0x03 }) ∧
        (InSegment sg [0] off n → StartsFrom (.xget g d m) s s u (.load (.ls l)) a n []) ∧
        (bytes.any (·.p) = true → Traps (.xput g d m) s { cause := 0x09, sub := 3 }) ∧
        (bytes.any (·.p) = false → ¬ InSegment sg [1] off n → Traps (.xput g d m) s { cause := 0x03 }) ∧
        (bytes.any (·.p) = false → InSegment sg [1] off n →
          StartsFrom (.xput g d m) s (touched s [(l, n)]) u .store a n bytes)) ∧
    (Clear s g (formG m) →
      let u := (formG m).use
      let x := (s.view u).s (s.view u).a m.a
      let off : Int := x.v.toInt + m.disp.toInt
      if x.p then Traps (.gpref g m) s { cause := 0x09, sub := 1 }
      else
        let full : Prop := s.inRegion = false ∧
          s.entryFree (dieOf s.cur.core) (stopOfCluster (clusterOf s.cur.core)) vcREQ = false
        (¬ InSegment s.regs.g[m.seg] [0] off n → Retires (.gpref g m) s u []) ∧
        (InSegment s.regs.g[m.seg] [0] off n → full → Waits (.gpref g m) s .waitMem .flit) ∧
        (InSegment s.regs.g[m.seg] [0] off n → ¬ full →
          ∃ t, exec (.gpref g m) s = .next t ∧ t.regs = { s.regs with pc := s.pc + 1 }))

/-- Value atomics: an aligned word of the operand's width under the atomic right; ACAS carries the value of D that it
compares (R292, R293, R294). -/
def Claim.ValueAtomics : Prop :=
  ∀ (s : State) (g : Guard) (sc : Scope) (d : SOp) (m : GMem) (b : SOp), m.len.toNat < 8 →
    let n := m.len.toNat + 1
    (Clear s g (formAtom d m b false) →
      let u := (formAtom d m b false).use
      let v := s.view u
      let y := v.s v.b b
      let acts (i : Instr) (op : AOp) : Prop :=
        GlobalForm i s u m [2] (.atom op sc d 0) (poisoned (v.s v.a m.a).p y.p false) n (lowBytes n y)
      acts (.aadd g sc d m b) .add ∧ acts (.aand g sc d m b) .and ∧ acts (.aor g sc d m b) .or ∧
      acts (.axor g sc d m b) .xor ∧ acts (.amin g sc d m b) .min ∧ acts (.amax g sc d m b) .max ∧
      acts (.aminu g sc d m b) .minu ∧ acts (.amaxu g sc d m b) .maxu ∧ acts (.aswap g sc d m b) .swap ∧
      acts (.afadd g sc d m b) .fadd ∧ acts (.afmin g sc d m b) .fmin ∧ acts (.afmax g sc d m b) .fmax) ∧
    (Clear s g (formAtom d m b true) →
      let u := (formAtom d m b true).use
      let v := s.view u
      let y := v.s v.b b
      let z := v.s v.d d
      GlobalForm (.acas g sc d m b) s u m [2] (.atom .cas sc d z.v) (poisoned (v.s v.a m.a).p y.p z.p) n
        (lowBytes n y))

/-- Reductions: an aligned word under the atomic right, with the delta in D and no result; MWAIT waits on an aligned
doubleword with the read and atomic rights, and no region tracks it (R294, R295, R296, R345). -/
def Claim.ReductionsAndMwait : Prop :=
  ∀ (s : State) (g : Guard) (m : GMem), m.len.toNat < 8 →
    let n := m.len.toNat + 1
    (∀ (sc : Scope) (d : SOp), Clear s g (formGst d m) →
      let u := (formGst d m).use
      let v := s.view u
      let z := v.s v.d d
      let acts (i : Instr) (op : AOp) : Prop :=
        GlobalForm i s u m [2] (.red op sc) (poisoned (v.s v.a m.a).p false z.p) n (lowBytes n z)
      acts (.radd g sc d m) .add ∧ acts (.rand g sc d m) .and ∧ acts (.ror g sc d m) .or ∧
      acts (.rxor g sc d m) .xor ∧ acts (.rmin g sc d m) .min ∧ acts (.rmax g sc d m) .max ∧
      acts (.rminu g sc d m) .minu ∧ acts (.rmaxu g sc d m) .maxu ∧ acts (.rfadd g sc d m) .fadd) ∧
    ∀ (d : POp) (b : SOp), Clear s g (formMwait d m b) →
      let u := (formMwait d m b).use
      let v := s.view u
      let y := v.s v.b b
      GlobalForm (.mwait g d m b) s u m [0, 2] (.mwait d) (poisoned (v.s v.a m.a).p y.p false) 8 (lowBytes 8 y)

/-- Value atomics, reductions and MWAIT: their checks, and the access that they start. -/
def Obligations.AtomicForms : Prop :=
  Claim.ValueAtomics ∧ Claim.ReductionsAndMwait

/-- RELL, cache control and the LOFT group: the rights of R80, RELL on an aligned doubleword (R299, R301, R302, R304,
R305, R306). -/
def Obligations.CacheAndLoftForms : Prop :=
  ∀ (s : State) (g : Guard) (sc : Scope) (m : GMem),
    (Clear s g (formG m) →
      let u := (formG m).use
      let x := (s.view u).s (s.view u).a m.a
      let acts (i : Instr) (act : GAct) (right align : Nat) : Prop :=
        GlobalForm i s u m [right] act (poisoned x.p false false) align []
      acts (.rell g sc m) (.rell sc) 0 8 ∧ acts (.cwb g sc m) .cwb 0 1 ∧ acts (.cinv g sc m) .cinv 0 1 ∧
      acts (.cunpin g sc m) .cunpin 0 1 ∧ acts (.lback g m) .lback 1 1) ∧
    (∀ d : POp, Clear s g (formCpin d m) →
      let u := (formCpin d m).use
      let x := (s.view u).s (s.view u).a m.a
      GlobalForm (.cpin g sc d m) s u m [0] (.cpin d) (poisoned x.p false false) 1 []) ∧
    ∀ d : SOp, Clear s g (formGld d m) →
      let u := (formGld d m).use
      let x := (s.view u).s (s.view u).a m.a
      GlobalForm (.ldisc g d m) s u m [1] (.ldisc d) (poisoned x.p false false) 1 [] ∧
      GlobalForm (.lstat g d m) s u m [0] (.lstat d) (poisoned x.p false false) 1 []

/-- FENCE and REL wait for the strand's side log and then for bytes that a region or the host holds, or that find no
room; without a frame for them they raise LOFT_OVERFLOW; else they act at their scope and wait for their
acknowledgement. ACQ acts without waiting. FLUSHP sends its probes along every route that its cluster has used, and
is answered at once with none (R107, R121, R125, R126, R298, R300). That a REL or FENCE which raises LOFT_OVERFLOW
has written nothing through is the model's choice (log 97). -/
def Claim.OrderingForms : Prop :=
  ∀ (s : State) (g : Guard) (sc : Scope), Clear s g {} → s.short = none →
    let c := s.cur.core
    let p := s.cur.pos
    let logged := s.hasEntries c p
    let acts : Bool := match sc with
      | .co | .cl => false
      | _ => true
    let lacks (i : Instr) (n : Nat) : Prop := Traps i s { cause := 0x0D, info := n % 96 + n / 96 * 256 }
    (if logged then Waits (.fence g sc) s .waitMem .sidelog
      else if acts ∧ s.fenceBlocked c p sc then Waits (.fence g sc) s .waitMem .region
      else match (s.fenceActs c p sc).short.join with
        | some n => lacks (.fence g sc) n
        | none => ActsAndWaits (.fence g sc) s (s.fenceActs c p sc) {}) ∧
    (if logged then Waits (.rel g sc) s .waitMem .sidelog
      else if acts ∧ s.relBlocked c p sc then Waits (.rel g sc) s .waitMem .region
      else match s.relOver c p sc with
        | some n => lacks (.rel g sc) n
        | none => ActsAndWaits (.rel g sc) s (s.release c p sc) {}) ∧
    ActsAndWaits (.acq g sc) s (s.acquire c sc) {} ∧
    ∃ x, InFlight s x {} .flushp 0 0 [] ∧ ∃ t, exec (.flushp g sc) s = .next t ∧
      if (s.cluster (clusterOf c)).routes = [] then t = x.ackLocal c p 0
      else (t.cluster (clusterOf c)).routes = [] ∧ ∃ o, t.opOf c p = some o ∧
        o.left = 3 * (s.cluster (clusterOf c)).routes.length

/-- A release at .die or wider leaves its cluster no byte of the strand that its scope covers, nor any owed to a RELL
word; an acquire drops exactly the clean extents on writable release pages of its scope; at .co and .cl neither
changes anything (R118, R120). -/
def Claim.ReleaseAndAcquire : Prop :=
  ∀ (s : State) (c p : Nat) (sc : Scope),
    let covers (e : CExt) : Bool := match sc with
      | .co | .cl => false
      | .die => decide (e.leaf.home = dieOf c)
      | _ => true
    let mine (e : CExt) : Prop := ∃ o, e.st = .d (slotOf c p) o
    (sc = .co ∨ sc = .cl → s.release c p sc = s ∧ s.acquire c sc = s ∧ s.fenceActs c p sc = s) ∧
    (sc ≠ .co → sc ≠ .cl →
      (∀ e ∈ ((s.release c p sc).cluster (clusterOf c)).cache, e.data ≠ [] → mine e →
        (e.leaf.kind = .release → covers e = false) ∧ e.st = .d (slotOf c p) none) ∧
      ((s.acquire c sc).cluster (clusterOf c)).cache = (s.cluster (clusterOf c)).cache.filter fun e =>
        !(e.st = .c && e.leaf.kind = .release && e.leaf.write && covers e))

/-- FENCE, REL, ACQ and FLUSHP, and what a release and an acquire do. -/
def Obligations.OrderingForms : Prop :=
  Claim.OrderingForms ∧ Claim.ReleaseAndAcquire

/-- AMSG waits while its cluster's queue on MSG has no room, then sends its two words with the sender's location and
context and retires; RLD, RST and RSTN send their request after their checks and wait for its reply; a poisoned
source sends nothing (R26, R330, R333). -/
def Claim.MessageForms : Prop :=
  ∀ (s : State) (g : Guard) (d a b : SOp),
    let c := s.cur.core
    let p := s.cur.pos
    (∀ hidx : BitVec 8, Clear s g (formAmsg d a b) →
      let u := (formAmsg d a b).use
      let v := s.view u
      let x := v.s v.a a
      let y := v.s v.b b
      let z := v.s v.d d
      let dest := z.v.toNat % 2 ^ 16
      match poisoned x.p y.p z.p with
      | some k => Traps (.amsg g d a b hidx) s { cause := 0x09, sub := k }
      | none =>
        if s.entryFree (dieOf c) (stopOfCluster (clusterOf c)) vcMSG = false then
          Waits (.amsg g d a b hidx) s .waitMem .flit
        else RetiresFrom (.amsg g d a b hidx) s
          (s.sendMsg dest (.amsg dest hidx.toNat x.v y.v (BitVec.ofNat 64 (locWord c p)) s.curCtx.img)) u []) ∧
    ∀ disp : BitVec 15,
      let sends (i : Instr) (u : Use) (k : RemoteKind) (dst : Option SOp) (dest addr : Nat) (data : Word) : Prop :=
        ∃ x, InFlight s x u (.remote dst) 0 0 [] ∧ exec i s = .next
          ((x.sendMsg dest (.remote k dest addr data c p s.nextId s.curCtx.img)).expect c p 1)
      (Clear s g (formRld d a b) →
        let u := (formRld d a b).use
        let v := s.view u
        let x := v.s v.a a
        let y := v.s v.b b
        let k := x.v.toNat + disp.toNat
        match poisoned x.p y.p false with
        | some n => Traps (.rld g d a b disp) s { cause := 0x09, sub := n }
        | none =>
          if 0x5FFF < k + 7 then Traps (.rld g d a b disp) s { cause := 0x04, addr := k }
          else sends (.rld g d a b disp) u .rld (some d) (y.v.toNat % 2 ^ 16) k 0) ∧
      (Clear s g (formRst d a b) →
        let u := (formRst d a b).use
        let v := s.view u
        let x := v.s v.a a
        let y := v.s v.b b
        let z := v.s v.d d
        let k := x.v.toNat + disp.toNat
        match poisoned x.p y.p z.p with
        | some n => Traps (.rst g d a b disp) s { cause := 0x09, sub := n } ∧
            Traps (.rstn g d a b disp) s { cause := 0x09, sub := n }
        | none =>
          (if 0x5FFF < k + 7 then Traps (.rst g d a b disp) s { cause := 0x04, addr := k }
            else sends (.rst g d a b disp) u .rst none (y.v.toNat % 2 ^ 16) k z.v) ∧
          if 0x5FFF < k / 2 then Traps (.rstn g d a b disp) s { cause := 0x04, addr := k / 2 }
            else sends (.rstn g d a b disp) u .rstn none (y.v.toNat % 2 ^ 16) k z.v)

/-- What the porter of the destination does with a remote access, in a cycle of position 6 that nothing else uses: with
a context of the sender's virtual device and address space it reads, writes or replaces a nibble in one step and
answers; without one it answers a refusal and changes no local store (R44, R45, R333, R86). -/
def Claim.RemoteAccesses : Prop :=
  ∀ (s : State) (i : Nat) (f : Flit) (k : RemoteKind) (c a : Nat) (data : Word) (score spos op : Nat) (img : CtxImage),
    s.flit? i = some f → f.msg = .remote k c a data score spos op img → s.builtinReady c = true →
    let bytes := lsBytes (s.core c) a 8
    let e := a / 2
    let old := memRead (s.core c).ls e
    let nib : Nat := (data.extractLsb' 0 4).toNat
    let new : Nat := if a % 2 = 1 then old.toNat % 16 + 16 * nib else old.toNat / 16 * 16 + nib
    (s.free6 c = true ↔ s.cycle % 8 = 6 ∧ (s.core c).builtin ≤ s.cycle ∧ (s.porter c).notBefore ≤ s.cycle ∧
      ∀ q, (s.core c).rep = some q → q.notBefore ≤ s.cycle) ∧
    (s.free6 c = false → exec (.remoteLsAccess i) s = .next s) ∧
    (s.free6 c = true → exec (.remoteLsAccess i) s = .next
      (let b := s.tookSix c
      match s.findSpace (clusterOf c) img.vd img.asid with
      | none => b.answer f (.ack score spos op 0 false true none)
      | some _ =>
        match k with
        | .rld => b.answer f (.ack score spos op (BitVec.ofNat 64 (bytesNat bytes)) (anyPoison bytes) false
            (s.remoteGuard c a 8))
        | .rst => (b.lsStore c a ((List.range 8).map fun j => ⟨data.extractLsb' (8 * j) 8, false⟩)).answer f
            (.ack score spos op 0 false false (s.remoteGuard c a 8))
        | .rstn => (b.lsStore c e [⟨BitVec.ofNat 8 new, false⟩]).answer f
            (.ack score spos op 0 false false (s.remoteGuard c e 1))))

/-- CHPOLL gives for each port the words that wait and the room of the neighbour, or bit 7 at an edge; CHLIM sets the
strand's limit to B[31:0]; HRET ends a message handler and is ILLEGAL anywhere else (R329, R332). -/
def Claim.PortsAndHret : Prop :=
  ∀ (s : State) (g : Guard),
    let c := s.cur.core
    (∀ d : SOp, Clear s g { use := { dst := chS d }, strandOnly := true } → OnStrand s →
      ∃ w : Word, Retires (.chpoll g d) s { dst := chS d } [effS d w false] ∧
        ((∀ p < 4, (mapGet [] (s.core c).chans p).length ≤ 16) → ∀ p < 4,
          (w.extractLsb' (8 * p) 8).toNat =
            (if neighbour c p = none then 0x80 else (mapGet [] (s.core c).chans p).length) ∧
          (w.extractLsb' (32 + 8 * p) 8).toNat = if neighbour c p = none then 0 else s.chRoom c p)) ∧
    (∀ b : SImm, Clear s g (formChlim b) → OnStrand s →
      let u := (formChlim b).use
      let y := (s.view u).i (s.view u).b b
      if y.p then Traps (.chlim g b) s { cause := 0x09, sub := 2 }
      else ∃ t, exec (.chlim g b) s = .next t ∧
        (t.strand c s.cur.pos).limit = y.v.extractLsb' 0 32 ∧ t.regs = { s.regs with pc := s.pc + 1 } ∧
        ∀ q, q ≠ s.cur.pos → t.strand c q = s.strand c q) ∧
    (Clear s g { level := 1 } →
      if (s.porter c).cur.map (·.kind) = some .message then exec (.hret g) s = .next (s.endEntry c)
      else Traps (.hret g) s { cause := 0x01 })

/-- AMSG, RLD, RST, RSTN, CHPOLL, CHLIM and HRET, and a remote access at its destination. -/
def Obligations.MessageForms : Prop :=
  Claim.MessageForms ∧ Claim.RemoteAccesses ∧ Claim.PortsAndHret

/-- BARC, BARA and BARW: entries of the side log wait first; a strand without a unit completes at once; an arrival for a
completed phase is OVERRUN; an arrival flips the strand's generation and counts, and the last live member's flips
the phase; the wait lasts while phase and generation differ (R335, R337). -/
def Claim.CrewBarriers : Prop :=
  ∀ (s : State) (g : Guard), Clear s g { strandOnly := true, reports := true, tracked := false } → OnStrand s →
    let c := s.cur.core
    let p := s.cur.pos
    let x := s.strand c p
    let logged := s.hasEntries c p
    match s.unitOf c p with
    | none =>
      (∀ i ∈ [Instr.bara g, .barw g], if logged then Waits i s .waitMem .sidelog else Retires i s {} []) ∧
      if x.arrived = false ∧ logged then Waits (.barc g) s .waitMem .sidelog else Retires (.barc g) s {} []
    | some (i, w) =>
      let full : Bool := decide (w.count + 1 = w.live ∧ 0 < w.live)
      let w' := if full then { w with phase := !w.phase, count := 0 } else { w with count := w.count + 1 }
      let came : State := (s.setStrand c p { x with gen := !x.gen }).setUnit (clusterOf c) i w'
      let held (b : Bool) : State := s.setStrand c p { x with arrived := b }
      (if logged then Waits (.bara g) s .waitMem .sidelog
        else if x.gen ≠ w.phase then Traps (.bara g) s { cause := 0x0C }
        else RetiresFrom (.bara g) s came {} []) ∧
      (if w.phase = x.gen then RetiresFrom (.barw g) s (held false) {} []
        else ∃ t, exec (.barw g) s = .next t ∧ Parked c p (held false) t .waitMsg .barrier) ∧
      if x.arrived then
        if w.phase = x.gen then RetiresFrom (.barc g) s (held false) {} []
        else ∃ t, exec (.barc g) s = .next t ∧ Parked c p (held true) t .waitMsg .barrier
      else if logged then Waits (.barc g) s .waitMem .sidelog
      else if x.gen ≠ w.phase then Traps (.barc g) s { cause := 0x0C }
      else if full then RetiresFrom (.barc g) s came {} []
      else ∃ t, exec (.barc g) s = .next t ∧
        Parked c p (came.setStrand c p { (came.strand c p) with arrived := true }) t .waitMsg .barrier

/-- BARB: the side log and the bytes of a release at .die come first; an arrival is counted, and the last of a crew
completes a band of one crew at once or goes to the die scheduler; the completed wait acquires at .die (R336, R337).
That a release which raises LOFT_OVERFLOW has written nothing through is the model's choice (log 97). -/
def Claim.BandBarriers : Prop :=
  ∀ (s : State) (g : Guard), Clear s g { strandOnly := true, reports := true, tracked := false } → OnStrand s →
    s.short = none →
    let c := s.cur.core
    let p := s.cur.pos
    let x := s.strand c p
    let i := Instr.barb g
    let parks (b : State) : Prop := ∃ t, exec i s = .next t ∧ Parked c p b t .waitMsg .band
    let done (b : State) : Prop :=
      RetiresFrom i s ((b.setStrand c p { b.strand c p with bandArrived := false }).acquire c .die) {} []
    let passed : Prop := match s.unitOf c p with
      | some (_, w) => w.bandPhase ≠ x.bandPhase
      | none => x.bandPhase = true
    if x.bandArrived then (passed → done s) ∧ (¬ passed → parks s)
    else if s.hasEntries c p then Waits i s .waitMem .sidelog
    else if s.relBlocked c p .die then Waits i s .waitMem .region
    else match s.relOver c p .die with
    | some n => Traps i s { cause := 0x0D, info := n % 96 + n / 96 * 256 }
    | none =>
      let r := s.release c p .die
      let y := r.strand c p
      match r.unitOf c p with
      | none =>
        (r.bandSize c p < 2 → done r) ∧
        (2 ≤ r.bandSize c p →
          parks ((r.setStrand c p { y with bandArrived := true, bandPhase := false }).sendBand c p))
      | some (n, w) =>
        let came (w' : BarUnit) : State :=
          (r.setStrand c p { y with bandArrived := true, bandPhase := w.bandPhase }).setUnit (clusterOf c) n w'
        let full : Prop := w.bandCount + 1 = w.live ∧ 0 < w.live
        (¬ full → parks (came { w with bandCount := w.bandCount + 1 })) ∧
        (full → r.bandSize c p < 2 → done (came { w with bandPhase := !w.bandPhase, bandCount := 0 })) ∧
        (full → 2 ≤ r.bandSize c p → parks ((came { w with bandCount := 0 }).sendBand c p))

/-- BARC, BARA, BARW and BARB. -/
def Obligations.BarrierForms : Prop :=
  Claim.CrewBarriers ∧ Claim.BandBarriers

/-- SPAWN sends its record with its own GTI as parent and waits for the answer, JOIN starts on an aligned counter under
the atomic right, LAUNCH and JOB start as loads; SPAWN and JOIN after the release of R128 (R339, R340, R343, R369).
That a release which raises LOFT_OVERFLOW has written nothing through is the model's choice (log 97). -/
def Claim.TaskForms : Prop :=
  ∀ (s : State) (g : Guard),
    let c := s.cur.core
    let p := s.cur.pos
    (∀ (d : POp) (a : VOp) (b : SOp), Clear s g (formSpawn d a b) →
      let u := (formSpawn d a b).use
      let v := s.view u
      let x := v.v v.a a
      let y := v.s v.b b
      let i := Instr.spawn g d a b
      if x.p.extractLsb' 0 4 ≠ 0 then Traps i s { cause := 0x09, sub := 1 }
      else if y.p then Traps i s { cause := 0x09, sub := 2 }
      else AfterRelease i s fun r =>
        let w (j : Nat) : Word := x.x.extractLsb' (64 * j) 64
        let tag := (w 0).extractLsb' 56 4
        let k := r.ctx (clusterOf c) tag.toNat
        let img := if k.loaded && k.img.vd = r.curVd then some k.img else none
        ∃ z, InFlight (r.takeSrcs u) z {} (.spawn d) 0 0 [] ∧ ∃ task : Task, exec i s = .next
          ((z.sendMsg (y.v.toNat % 2 ^ 16) (.spawn (y.v.toNat % 2 ^ 16) task c p r.nextId img)).expect c p 1) ∧
          task.prio = ((w 0).extractLsb' 60 2).toNat ∧ task.pc = (w 0).extractLsb' 0 24 ∧ task.tag = tag ∧
          task.frame = w 1 ∧ task.join = w 2 ∧ task.arg = w 3 ∧ task.parent = s.gtiOf c p) ∧
    (∀ (d : POp) (m : GMem), Clear s g (formJoin d m) →
      let u := (formJoin d m).use
      let x := (s.view u).s (s.view u).a m.a
      let off : Int := x.v.toInt + m.disp.toInt
      let n := m.len.toNat + 1
      let sg := s.regs.g[m.seg]
      let a := sg.base.toNat + off.toNat
      let i := Instr.join g d m
      if x.p then Traps i s { cause := 0x09, sub := 1 }
      else
        (¬ InSegment sg [2] off n → Traps i s { cause := 0x03 }) ∧
        (InSegment sg [2] off n → a % 8 ≠ 0 → Traps i s { cause := 0x06, addr := a }) ∧
        (InSegment sg [2] off n → a % 8 = 0 →
          AfterRelease i s fun r => StartsFrom i s r u (.join (some d)) a n [])) ∧
    ∀ (d : SOp) (m : GMem), Clear s g (formCard d m) →
      let u := (formCard d m).use
      let x := (s.view u).s (s.view u).a m.a
      GlobalForm (.launch g d m) s u m [0] (.launch d) (poisoned x.p false false) 1 [] ∧
      GlobalForm (.job g d m) s u m [0] (.job d) (poisoned x.p false false) 64 []

/-- TEXIT and HALT: a region aborts as EXPLICIT; a repeater sequence is waited for; a pool strand's join counter gets
its JOIN, once; then, after the release at .dev, the strand is IDLE, and has left its crew, or with HALT its pool
(R65, R233, R341). That a join field which is not aligned raises ATOM_ALIGN there is the model's choice (log 82). -/
def Claim.TaskEnds : Prop :=
  ∀ (s : State) (g : Guard), Clear s g { strandOnly := true, reports := true } → OnStrand s →
    let c := s.cur.core
    let p := s.cur.pos
    let x := s.strand c p
    let busy : Prop := ∃ r, (s.core c).rep = some r ∧ r.owner = p
    let crew : Prop := ∃ l b k r, x.member = .crew l b k r
    let a := x.join.toNat % 2 ^ 56
    ∀ e ∈ [(Instr.texit g, False), (.halt g, True)],
      let ends (leave : Prop) : Prop := AfterRelease e.1 s fun r => ∃ t, exec e.1 s = .next t ∧
        (t.strand c p).st = .idle ∧ (t.strand c p).wait = .none ∧ (t.strand c p).regs = (r.strand c p).regs ∧
        (leave → (t.strand c p).member = .none) ∧ (¬ leave → (t.strand c p).member = x.member)
      (∀ slot, x.region = some slot → exec e.1 s = .next (s.abortRegion (dieOf c) slot 6 slot 256)) ∧
      (x.region = none → busy → Waits e.1 s .waitMsg .repeater) ∧
      (x.region = none → ¬ busy → crew → ends True) ∧
      (x.region = none → ¬ busy → ¬ crew → (x.join = 0 ∨ x.joined = true) → ends e.2) ∧
      (x.region = none → ¬ busy → ¬ crew → x.join ≠ 0 → x.joined = false →
        if a % 8 ≠ 0 then Traps e.1 s { cause := 0x06, addr := a }
        else AfterRelease e.1 s fun r => StartsFrom e.1 s r {} (.join none) a 8 [])

/-- SPAWN, JOIN, LAUNCH and JOB as they start, and the ends of a task by TEXIT and HALT. -/
def Obligations.TaskForms : Prop :=
  Claim.TaskForms ∧ Claim.TaskEnds

/-- FRB inside a region, or with a target outside the space, is ILLEGAL; else after the release, of unordered pages too
(R115, log 125), it takes the lowest free slot with the checkpoint and the fail target, or waits for one behind the
requests that came before it. FRE waits for its region, FRA aborts it as EXPLICIT, and both are ILLEGAL outside one;
FRQ gives the region's state (R350 to R354). That the slot taken is the lowest free one (log 78), and that a release
which raises LOFT_OVERFLOW has written nothing through (log 97), are the model's choices. -/
def Claim.RegionForms : Prop :=
  ∀ (s : State) (g : Guard), OnStrand s →
    let c := s.cur.core
    let p := s.cur.pos
    let x := s.strand c p
    let d := dieOf c
    (∀ (code : SOp) (off : BitVec 32), Clear s g { strandOnly := true } →
      let i := Instr.frb g code off
      let target : Int := (s.pc.extractLsb' 0 23).toNat + off.toInt
      if x.region ≠ none ∨ target < 0 ∨ 2 ^ 23 ≤ target then Traps i s { cause := 0x01 }
      else if s.hasEntries c p then Waits i s .waitMem .sidelog
      else if s.releaseHeld c p ∨ (s.releaseAll c p).short = some none then Waits i s .waitMem .region
      else match (s.releaseAll c p).short.join with
      | some n => Traps i s { cause := 0x0D, info := n % 96 + n / 96 * 256 }
      | none =>
        let r := s.releaseAll c p
        let u := r.rou d
        let me := (c, p, (r.strand c p).gti)
        let l := r.slotQueue d me
        ((256 - u.slots.length ≤ l.idxOf me ∨ ∀ n < 256, mapGet? u.slots n ≠ none) →
          ∃ t, exec i s = .next t ∧ Parked c p (r.setRou d { u with queue := l }) t .waitMem .rouSlot) ∧
        (l.idxOf me < 256 - u.slots.length →
        ∀ n < 256, mapGet? u.slots n = none → (∀ k < n, mapGet? u.slots k ≠ none) →
          ∃ k : RegSlot, k.core = c ∧ k.pos = p ∧ k.seq = u.counter ∧ ((k.fail.extractLsb' 0 23).toNat : Int) = target ∧
            k.fail.getLsbD 23 = s.pc.getLsbD 23 ∧ k.code = code ∧
            k.ckpt = s.regs ∧ k.depth = 0 ∧ RetiresFrom i s
              ((r.setRou d { u with
                slots := mapPut u.slots n k, counter := u.counter + 1, queue := l.erase me }).setStrand c p
                { r.strand c p with region := some n }) {} [])) ∧
    (Clear s g { strandOnly := true } →
      (x.region = none → Traps (.fre g) s { cause := 0x01 } ∧ Traps (.fra g) s { cause := 0x01 }) ∧
      ∀ n, x.region = some n →
        exec (.fra g) s = .next (s.abortRegion d n 6 n 256) ∧
        ∃ t, exec (.fre g) s = .next t ∧ stOf t c p = .waitMsg ∧ t.waitOf c p = .fre ∧ t.regs = s.regs ∧
          ∀ k, mapGet? (s.rou d).slots n = some k → mapGet? (t.rou d).slots n = some { k with fre := true }) ∧
    ∀ r : SOp, Clear s g { use := { dst := chS r }, strandOnly := true } →
      ∃ w : Word, Retires (.frq g r) s { dst := chS r } [effS r w false] ∧
        (x.region = none → w = 0) ∧
        ∀ n < 256, x.region = some n → slotDepth (s.rou d) n < 8 → w.getLsbD 0 = true ∧ w.extractLsb' 1 7 = 0 ∧
          (w.extractLsb' 8 8).toNat = n ∧ (w.extractLsb' 16 3).toNat = slotDepth (s.rou d) n ∧
          w.extractLsb' 19 5 = 0 ∧ (w.extractLsb' 24 8).toNat = min 64 (s.regChunks d n).length ∧
          (w.extractLsb' 32 8).toNat = min 255 ((s.rou d).e.filter fun e => e.2 = n).length ∧ w.extractLsb' 40 24 = 0

/-- An abort restores the checkpoint, writes the abort word to the slot's register, or keeps it for a channel until that
has room, and sets the fail target; vector registers stand; a strand that waited runs again; a trapped one keeps its
state and its fault record (R362). -/
def Claim.RegionAborts : Prop :=
  ∀ (s : State) (d slot code cause fuel : Nat) (k : RegSlot),
    mapGet? (s.rou d).slots slot = some k → k.pos < 6 → dieOf k.core = d → code < 256 → cause < 256 →
    (s.strand k.core k.pos).region = some slot →
    ((s.rou d).f.filter fun q => q.1 = slot) = [] →
    let x := s.strand k.core k.pos
    let t := s.abortRegion d slot code cause (fuel + 1)
    let y := t.strand k.core k.pos
    let word : Word := BitVec.ofNat 64 (code + cause * 256)
    mapGet? (t.rou d).slots slot = none ∧
    (∀ e ∈ (t.rou d).e ++ (t.rou d).f, e.1 ≠ slot ∧ e.2 ≠ slot) ∧
    y.region = none ∧ y.regs.pc = k.fail ∧ y.regs.p = k.ckpt.p ∧ y.regs.k = k.ckpt.k ∧ y.regs.fs = k.ckpt.fs ∧
    y.regs.v = x.regs.v ∧ y.regs.vp = x.regs.vp ∧ y.regs.g = x.regs.g ∧
    (∀ j : Fin 32, y.regs.s[j] = if k.code = .s j ∧ j ≠ 0 then word else k.ckpt.s[j]) ∧
    (∀ j : Fin 32, y.regs.sp.getLsbD j.val =
      if k.code = .s j ∧ j ≠ 0 then false else k.ckpt.sp.getLsbD j.val) ∧
    (∀ q, k.code = .ch q → y.abortWord = some (q, word)) ∧
    (x.stopPending = false → x.st = .waitMem ∨ x.st = .waitMsg → y.st = .run) ∧
    (Once s k.core k.pos → x.st = .trapped → y.st = .trapped ∧ y.fault = x.fault)

/-- FRB, FRE, FRA and FRQ, and what an abort restores. -/
def Obligations.RegionForms : Prop :=
  Claim.RegionForms ∧ Claim.RegionAborts

/-- JPOLL never waits; JWAIT waits while the job goes on and starts a stopped one again; JCANCEL ends a job as
CANCELLED; each gives the completion value, STALE for a stale handle, and acquires at .dev where the job has
finished; JWAIT traps with JOB_FAULT once for an error, and keeps its handle's word then (R325, R370, R384, R385).
That JWAIT and JCANCEL acquire at .dev in place of the write footprints is the model's choice (log 72). -/
def Obligations.JobForms : Prop :=
  ∀ (s : State) (g : Guard) (d a : SOp), Clear s g (formHandle d a) →
    let u := (formHandle d a).use
    let c := s.cur.core
    let cl := clusterOf c
    let h := (s.view u).s (s.view u).a a
    let ends (b : Bool) : State := if b then s.acquire c .dev else s
    let gives (i : Instr) (b : State) (w : Word) : Prop := RetiresFrom i b b u [effS d w false]
    let n := (h.v.extractLsb' 0 6).toNat
    let j := s.job cl n
    let current : Prop := h.v = BitVec.ofNat 64 (cl * 2 ^ 20 + j.serial.toNat * 2 ^ 6 + n) ∧ j.st ≠ .free ∧ j.vd = s.curVd
    let finished (k : Job) : Prop := k.st = .done ∨ k.st = .error ∨ k.st = .cancelled ∨ k.st = .predecessor
    (h.p = true → ∀ i ∈ [Instr.jwait g d a, .jpoll g d a, .jcancel g d a], Traps i s { cause := 0x09, sub := 1 }) ∧
    (h.p = false → ¬ current →
      ∀ i ∈ [Instr.jwait g d a, .jpoll g d a, .jcancel g d a], Retires i s u [effS d 0x8000 false]) ∧
    (h.p = false → current →
      gives (.jpoll g d a) (ends j.finishedSt) j.value ∧
      (j.finishedSt = true ↔ finished j) ∧
      ((j.st = .waiting ∨ j.st = .running) → Waits (.jwait g d a) s .waitMsg .jwait) ∧
      (j.st = .stopped → j.delivered = true → ∃ t, exec (.jwait g d a) s = .next t ∧
        Parked c s.cur.pos (s.setJob cl n { j with st := .running }) t .waitMsg .jwait) ∧
      (finished j → (j.delivered = true ∨ j.status = 1 ∨ j.status = 0x8001 ∨ j.status = 0x8006) →
        gives (.jwait g d a) (s.acquire c .dev) j.value) ∧
      ((finished j ∨ j.st = .stopped) → j.delivered = false → j.status ≠ 1 → j.status ≠ 0x8001 →
        j.status ≠ 0x8006 → ∃ b t, exec (.jwait g d a) s = .next t ∧
          Trapped c s.cur.pos b t { cause := 0x0E, addr := j.fault } ∧
          b.job cl n = { j with delivered := true } ∧ b.regs = s.regs.eff (effS d j.value false) ∧
          ∀ e q, mapGet [] (b.core e).chans q = chanAfter s {} [effS d j.value false] e q) ∧
      (finished j → j.ending = none → gives (.jcancel g d a) (s.acquire c .dev) j.value) ∧
      (j.unfinished = true →
        (∀ e, j.ending = some e → e.1 ∈ [JobState.stopped, .done, .error, .cancelled, .predecessor]) →
        let e : State := match j.ending with
          | some (st, m) => s.jobEnd cl n st m 65
          | none => s
        let b : State := if (e.job cl n).unfinished then e.jobEnd cl n .cancelled 0x8001 65 else e
        finished (b.job cl n) ∧ (j.ending = none → (b.job cl n).st = .cancelled ∧ (b.job cl n).status = 0x8001) ∧
        gives (.jcancel g d a) (b.acquire c .dev) (b.job cl n).value))

/-- TRAP is complete: the strand stands TRAPPED at the next instruction, with the selector kept and fd1 at the TRAP; in
porter code it waits for the landlord's entry. KRET ends an entry: it returns the strand of a trap, starts the
replay of the side log, or kills the task; it is ILLEGAL in a message handler and for sel 1 elsewhere (R311, R163,
R332). That fd1 names the TRAP itself (log 17), and what KRET does with the GUARD record and in a landlord entry
(log 23), are the model's choices. -/
def Obligations.TrapAndKret : Prop :=
  ∀ (s : State) (g : Guard) (sel : BitVec 16),
    let c := s.cur.core
    let p := s.cur.pos
    (Clear s g {} → ∃ t, exec (.trap g sel) s = .next t ∧
      (p ≠ 6 → ∃ x : Strand, t.strand c p = { s.strand c p with
          st := .trapped, wait := .none, op := none, line := x.line, regs := { s.regs with pc := s.pc + 1 }
          fault := x.fault } ∧ x.fault.sel = sel ∧ x.fault.fd2 = 0 ∧ x.fault.fd3 = 0 ∧
          Fault0 x.fault.fd0 (s.strand c p).gti false false false 0 0x10 ∧
          x.fault.fd1.toNat = locWord c p % 2 ^ 40 * 2 ^ 24 + s.pc.toNat ∧
          (t.porter c).queue = (s.porter c).queue ++ [.trap p]) ∧
      (p = 6 → (t.porter c).st = .trapped ∧ (t.porter c).queue = .landlord { cause := 0x10 } :: (s.porter c).queue ∧
        t.regs.pc = s.pc + 1)) ∧
    (Clear s g { level := 1 } → sel.toNat < 2 →
      let i := Instr.kret g sel
      let illegal : Prop := Traps i s { cause := 0x01 }
      let due : State := s.setCluster (clusterOf c) { s.cluster (clusterOf c) with
        log := (s.cluster (clusterOf c)).log.map fun e => (e.1, { e.2 with sub := 0, frame := none }) }
      match (s.porter c).cur with
      | none => illegal
      | some e =>
        match e.kind with
        | .message => illegal
        | .trap q => if sel = 0 then exec i s = .next ((s.returnTrap c q).endEntry c)
            else exec i s = .next (s.killServed c q e)
        | .notice _ => if sel = 0 then exec i s = .next (due.endEntry c) else illegal
        | .landlord _ => if sel = 0 then exec i s = .next (s.endEntry c)
            else match (s.porter c).stack with
              | [] => illegal
              | b :: _ => match b.kind with
                | .trap q => exec i s = .next ((s.endEntry c).killServed c q b)
                | _ => illegal
        | _ => if sel = 0 then exec i s = .next (s.endEntry c) else illegal) ∧
    ∀ q < 6, let x := s.strand c q
      let y := (s.returnTrap c q).strand c q
      y.st = (if x.stopPending then .stopped else .run) ∧ y.guard = none ∧ y.fault = ⟨0, 0, 0, 0, 0⟩ ∧ y.regs = x.regs ∧
        y.stopPending = false ∧ (y.breakDone = true ↔ x.fault.fd0.extractLsb' 0 8 = 0x11)

/-- SREAD and SWRITE reach the state that a selector names in a strand of the porter's core that stands TRAPPED or
STOPPED; any other position is ILLEGAL; poison is copied for s and v, and raises POISON for the rest (R312). -/
def Obligations.StrandStateAccess : Prop :=
  ∀ (s : State) (g : Guard) (a : SOp) (sel : BitVec 16),
    let c := s.cur.core
    let n := sel.toNat
    (∀ d : XOp, Clear s g (formSread d a sel) →
      let u := (formSread d a sel).use
      let pos := (s.view u).s (s.view u).a a
      let q := (pos.v.extractLsb' 0 3).toNat
      let x := s.strand c q
      let r := x.regs
      let i := Instr.sread g d a sel
      if pos.p then Traps i s { cause := 0x09, sub := 1 }
      else if ¬ (q < 6 ∧ (x.st = .trapped ∨ x.st = .stopped)) then Traps i s { cause := 0x01 }
      else
        (∀ j, d = .v j → ∀ k : Fin 16, n = 0x20 + k → Retires i s u [.v j r.v[k] r.vp[k]]) ∧
        ∀ j, d = .s j →
          let gives (w : Word) (b : Bool) : Prop := Retires i s u [.s j w b]
          (n = 0 → gives 0 false) ∧ (∀ k : Fin 32, k ≠ 0 → n = k → gives r.s[k] (r.sp.getLsbD k)) ∧
          (n = 0x30 → gives 1 false) ∧ (∀ k : Fin 8, k ≠ 0 → n = 0x30 + k → gives (if r.p.getLsbD k then 1 else 0) false) ∧
          (n = 0x38 → gives (BitVec.allOnes 64) false) ∧ (∀ k : Fin 8, k ≠ 0 → n = 0x38 + k → gives r.k[k] false) ∧
          (∀ k : Fin 8, (n = 0x40 + 2 * k → gives (segLo r.g[k]) false) ∧ (n = 0x41 + 2 * k → gives (segHi r.g[k]) false)) ∧
          (n = 0x50 → gives r.fs false) ∧ (n = 0x51 → gives (r.pc.zeroExtend 64) false) ∧
          (n = 0x52 → gives (x.gti.zeroExtend 64) false) ∧ (n = 0x53 → gives (r.sp.zeroExtend 64) false) ∧
          (∀ m < 2, n = 0x54 + m → ∃ w : Word, gives w false ∧
            ∀ k < 8, w.extractLsb' (8 * k) 8 = r.vp.toList.getD (8 * m + k) 0) ∧
          (n = 0x60 → gives x.fault.fd0 false) ∧ (n = 0x61 → gives x.fault.fd1 false) ∧
          (n = 0x62 → gives x.fault.fd2 false) ∧ (n = 0x63 → gives x.fault.fd3 false) ∧
          (n = 0x64 → gives (x.fault.sel.zeroExtend 64) false) ∧ (n = 0x70 → gives (x.limit.zeroExtend 64) false)) ∧
    ∀ d : XOp, Clear s g (formSwrite d a sel) →
      let u := (formSwrite d a sel).use
      let pos := (s.view u).s (s.view u).a a
      let q := (pos.v.extractLsb' 0 3).toNat
      let x := s.strand c q
      let r := x.regs
      let i := Instr.swrite g d a sel
      let puts (y : Strand) : Prop := ∃ t, exec i s = .next t ∧ t.strand c q = y ∧
        t.regs = { s.regs with pc := s.pc + 1 } ∧ ∀ o, o ≠ q → t.strand c o = s.strand c o
      if pos.p then Traps i s { cause := 0x09, sub := 1 }
      else if ¬ (q < 6 ∧ (x.st = .trapped ∨ x.st = .stopped)) then Traps i s { cause := 0x01 }
      else
        (∀ j, d = .v j → ∀ k : Fin 16, n = 0x20 + k →
          if ∃ e, (s.core c).rep = some e ∧ e.owner = q ∧ e.claim.getLsbD k then Waits i s .waitMsg .claim
          else puts { x with regs := r.setV k s.regs.v[j] s.regs.vp[j] }) ∧
        ∀ j, d = .s j →
          let w := s.regs.getS j
          (∀ k : Fin 32, n = k → puts { x with regs := r.setS k w }) ∧
          (0x30 ≤ n → w.p = true → Traps i s { cause := 0x09, sub := 0 }) ∧
          (w.p = false → (∀ k : Fin 8, n = 0x30 + k → puts { x with regs := r.setP k (w.v.getLsbD 0) }) ∧
            (∀ k : Fin 8, n = 0x38 + k → puts { x with regs := r.setK k w.v }) ∧
            (∀ k : Fin 8, n = 0x40 + 2 * k →
              puts { x with regs := { r with g := r.g.set k ({ r.g[k] with base := w.v.extractLsb' 0 56 }) } }) ∧
            (∀ k : Fin 8, n = 0x41 + 2 * k →
              let e : Seg := { r.g[k] with limit := w.v.extractLsb' 0 49, rights := w.v.extractLsb' 56 5 }
              puts { x with regs := { r with g := r.g.set k e } }) ∧
            (n = 0x50 → puts { x with regs := { r with fs := fsWrite r.fs w.v } }) ∧
            (n = 0x51 → puts { x with regs := { r with pc := w.v.extractLsb' 0 24 }, line := none }) ∧
            (n = 0x53 → puts { x with regs := { r with sp := w.v.extractLsb' 0 32 &&& ~~~1 } }) ∧
            (∀ m < 2, n = 0x54 + m → ∃ y, puts { x with regs := { r with vp := y } } ∧
              ∀ k : Fin 16, y[k] = if k.val / 8 = m then w.v.extractLsb' (8 * (k.val % 8)) 8 else r.vp[k]) ∧
            (n = 0x70 → puts { x with limit := w.v.extractLsb' 0 32 }))

/-- SYSR and SYSW of fs, and of the registers of a core, of its cluster's contexts and of the device: each number names
its own register, under the index that it takes; at K only the keeper's own context and virtual device; a write of
fs sets the flags and rm, which a value of 4 to 7 leaves unchanged (R155, R244, R313). That a poisoned index or a
poisoned D of a register other than fs raises POISON (log 123), that bits which a register's line does not list are
dropped (log 116), and that a keeper's write of preempt bit 1 does nothing (log 123), are the model's choices. -/
def Obligations.SystemRegisters : Prop :=
  ∀ (s : State) (g : Guard) (d a : SOp) (n : Nat), n < 2 ^ 16 →
    let c := s.cur.core
    let cl := clusterOf c
    let sel := BitVec.ofNat 16 n
    let perCtx : List Nat := [0x10, 0x11, 0x12, 0x13, 0x14]
    let own (k : Nat) : Prop := s.level = .k → (n ∈ perCtx → k = s.tag) ∧ (n = 0x15 → k / 8 = s.tag) ∧
      (n = 0x42 → k = s.curVd)
    let inRange (k : Nat) : Prop := (n ∈ perCtx → k < 16) ∧ (n = 0x15 → k < 128) ∧ (n = 0x42 ∨ n = 0x51 → k < 64) ∧
      (n = 0x70 → k < 8)
    let indexed : Prop := n ∈ perCtx ++ [0x15, 0x42, 0x51, 0x70]
    (Clear s g (formSysr 0 d a) → Retires (.sysr g d a 0) s (formSysr 0 d a).use [effS d s.regs.fs false]) ∧
    (Clear s g (formSysw 0 d a) →
      let w := (s.view (formSysw 0 d a).use).s (s.view (formSysw 0 d a).use).d d
      if w.p then Traps (.sysw g d a 0) s { cause := 0x09, sub := 0 }
      else ∃ y : Word, Retires (.sysw g d a 0) s (formSysw 0 d a).use [.fs y] ∧ y.extractLsb' 0 5 = w.v.extractLsb' 0 5 ∧
        y.extractLsb' 5 3 = (if w.v.getLsbD 7 then s.regs.fs.extractLsb' 5 3 else w.v.extractLsb' 5 3) ∧
        y.extractLsb' 8 56 = 0) ∧
    (Clear s g (formSysr n d a) → n ∈ perCtx ++ [0x15, 0x20, 0x21, 0x42, 0x50, 0x51, 0x70] →
      let u := (formSysr n d a).use
      let x := (s.view u).s (s.view u).a a
      let k := x.v.toNat
      let cx := s.ctx cl k
      let i := Instr.sysr g d a sel
      (indexed → x.p = true → Traps i s { cause := 0x09, sub := 1 }) ∧
      (indexed → x.p = false → ¬ inRange k → Traps i s { cause := 0x01 }) ∧
      (indexed → x.p = false → inRange k → ¬ own k → Traps i s { cause := 0x02 }) ∧
      ((indexed → x.p = false ∧ inRange k ∧ own k) →
        ∀ e ∈ [(0x10, cx.root), (0x11, cx.spillbase), (0x12, cx.spillcap), (0x13, cx.ringbase), (0x14, cx.ringsize),
            (0x15, s.nbr cl (k / 8) (k % 8)), (0x20, (s.core c).ctxbuf),
            (0x21, BitVec.ofNat 64 ((s.core c).preK.toNat +
              2 * (decide (s.level = .l) && (s.core c).preL).toNat)),
            (0x42, mapGet 0 s.porch.hostctx k), (0x50, (s.core c).lltab), (0x51, mapGet 0 (s.core c).llsave k),
            (0x70, mapGet 0 s.porch.brk (8 * s.curVd + k))],
          n = e.1 → Retires i s u [effS d e.2 false])) ∧
    (Clear s g (formSysw n d a) → n ∈ perCtx ++ [0x15, 0x20, 0x21, 0x42, 0x50, 0x51, 0x70] →
      let u := (formSysw n d a).use
      let x := (s.view u).s (s.view u).a a
      let w := (s.view u).s (s.view u).d d
      let k := x.v.toNat
      let cx := s.ctx cl k
      let co := s.core c
      let i := Instr.sysw g d a sel
      let good : Prop := (indexed → x.p = false ∧ inRange k ∧ own k) ∧ w.p = false
      (indexed → x.p = true → Traps i s { cause := 0x09, sub := 1 }) ∧
      (indexed → x.p = false → ¬ inRange k → Traps i s { cause := 0x01 }) ∧
      (indexed → x.p = false → inRange k → ¬ own k → Traps i s { cause := 0x02 }) ∧
      ((indexed → x.p = false ∧ inRange k ∧ own k) → w.p = true → Traps i s { cause := 0x09, sub := 0 }) ∧
      (good → n = 0x10 → w.v.getLsbD 16 = true → Traps i s { cause := 0x01 }) ∧
      (good → (n = 0x10 → w.v.getLsbD 16 = false) →
        ∀ e ∈ [(0x10, s.setCtx cl k { cx with root := w.v &&& 0x0000FFFFFFFF0000 }),
            (0x11, s.setCtx cl k { cx with spillbase := w.v &&& 0x00FFFFFFFFFFFFC0 }),
            (0x12, s.setCtx cl k { cx with spillcap := w.v &&& 0xFFFF }),
            (0x13, s.setCtx cl k { cx with ringbase := w.v &&& 0x00FFFFFFFFFFFFC0 }),
            (0x14, s.setCtx cl k { cx with ringsize := w.v &&& 0xFFFF }),
            (0x15, s.setCtx cl (k / 8) { s.ctx cl (k / 8) with
              nbr := mapPut (s.ctx cl (k / 8)).nbr (k % 8) (w.v &&& 0x81FF) }),
            (0x20, s.setCore c { co with ctxbuf := w.v &&& 0x00FFFFFFFFFF0000 }),
            (0x21, s.setCore c { co with
              preK := co.preK || w.v.getLsbD 0, preL := co.preL || (s.level = .l && w.v.getLsbD 1)
              preTag := if w.v.getLsbD 0 && !co.preK then BitVec.ofNat 4 s.tag else co.preTag }),
            (0x42, { s with porch := { s.porch with
              hostctx := mapPut s.porch.hostctx k (w.v &&& 0x00000FFFFFFFFFC0) } }),
            (0x50, s.setCore c { co with lltab := w.v &&& 0x00FFFFFFFFFFFF00 }),
            (0x51, s.setCore c { co with llsave := mapPut co.llsave k w.v }),
            (0x70, { s with porch := { s.porch with
              brk := mapPut s.porch.brk (8 * s.curVd + k) (w.v &&& 0x80FFFFFFFFFFFFFF) } })],
          n = e.1 → RetiresFrom i s e.2 u []))

/-- SYSR and SYSW of the registers of die scope, and the same registers in control space: poolpush appends a populated
frame or is ILLEGAL; reserved and read-only fields keep their value; a write of lease queues a request, its length
clamped, and a read says whether a slice runs; another size of the trace buffer counts what was stamped before as
lost; incarn bit 8 resets a cluster (R179, R313, R314, R404, R405, R407). That the reset empties the cluster's
caches and queue is the model's choice (log 50). -/
def Obligations.DieRegisters : Prop :=
  ∀ (s : State) (g : Guard) (d a : SOp) (n : Nat), n < 2 ^ 16 →
    let c := s.cur.core
    let e := dieOf c
    let x := s.die e
    let sel := BitVec.ofNat 16 n
    let plain : List Nat := [0x30, 0x31, 0x32, 0x71, 0x72, 0x73, 0x74, 0x75, 0x77]
    let indexOk (k : Nat) : Prop := (n = 0x40 → k < 512) ∧ (n = 0x41 → k < 64) ∧ (n = 0x60 → k < 4096) ∧
      (n = 0xF00 ∨ n = 0x76 → k < 64) ∧ (n = 0x800 → k < 2464 ∧ k % 4 ≠ 3)
    let own (k : Nat) : Prop := s.level = .k → (n = 0x40 → k / 8 = s.curVd) ∧ (n = 0x41 ∨ n = 0x76 → k = s.curVd)
    (Clear s g (formSysr n d a) →
      let u := (formSysr n d a).use
      let i := (s.view u).s (s.view u).a a
      let k := i.v.toNat
      (n ∈ plain ∨ (i.p = false ∧ indexOk k ∧ own k)) →
      ∀ r ∈ [(0x30, x.miglimit.zeroExtend 64), (0x32, BitVec.ofNat 64 x.pool.length),
          (0x40, mapGet 0 (s.die (k % 8)).alloc (k / 8)), (0x41, mapGet 0 x.weight k),
          (0x60, (s.cluster k).inc.zeroExtend 64), (0x71, x.trace.base), (0x72, x.trace.size), (0x73, x.trace.ctl),
          (0x74, x.trace.head), (0x75, x.trace.vds),
          (0x76, mapGet 0 s.porch.lease.words k ||| if s.porch.lease.active = some k then 2 ^ 32 else 0), (0x77, x.leasemax.zeroExtend 64), (0xF00, mapGet 0 x.hbmerr k),
          (0x800, loopWord e (k / 4) (k % 4))],
        n = r.1 → Retires (.sysr g d a sel) s u [effS d r.2 false]) ∧
    (Clear s g (formSysw n d a) →
      let u := (formSysw n d a).use
      let i := (s.view u).s (s.view u).a a
      let w := (s.view u).s (s.view u).d d
      let k := i.v.toNat
      let o := Instr.sysw g d a sel
      let err := mapGet 0 x.hbmerr k
      let alloc := mapGet 0 (s.die (k % 8)).alloc (k / 8)
      let frame := w.v &&& 0x0000FFFFFFFF0000
      let alloc' : Word := (alloc &&& 0x00007FFF00000000) ||| (w.v &&& 0x000000007FFFFFFF)
      let err' : Word := (w.v &&& 0x003FFFFFFFFF0000) ||| (err &&& ~~~w.v &&& 0x8000000000000000)
      let depth := w.v.extractLsb' 48 16
      let held := (mapGet 0 x.weight k).extractLsb' 16 16
      let level : BitVec 16 := if depth.toNat < held.toNat then depth else held
      let weight' : Word := (w.v &&& 0xFFFFFFFF000000FF) ||| (level.zeroExtend 64 <<< 16)
      let tr := { x.trace with ctl := w.v &&& 0x0000000300000001 }
      let tr' := if w.v.getLsbD 0 && x.trace.size ≠ 0 && !x.trace.ctl.getLsbD 0 then
        { tr with sync := none, began := s.cycle } else tr
      let l := s.porch.lease
      let len := min (w.v.extractLsb' 0 32).toNat x.leasemax.toNat
      let slices := (w.v.extractLsb' 48 16).toNat
      let ok : Prop := (n ∈ plain ∨ (i.p = false ∧ indexOk k ∧ own k)) ∧ w.p = false
      (ok → n = 0x31 → if frame = 0 ∨ populated frame.toNat = false then Traps o s { cause := 0x01 }
        else ∃ t, exec o s = .next t ∧ (t.die e).pool = x.pool ++ [frame.toNat] ∧
          t.regs = { s.regs with pc := s.pc + 1 }) ∧
      (ok → n = 0x60 → w.v.getLsbD 8 = false → Retires o s u []) ∧
      (ok → n = 0x60 → w.v.getLsbD 8 = true → (s.cluster k).unacked = [] → ∃ t, exec o s = .next t ∧
        (t.cluster k).inc = (s.cluster k).inc + 1 ∧ (t.cluster k).cache = [] ∧ (t.cluster k).queue = [] ∧
        ((∀ c p, clusterOf c = k → p < 6 → (s.strand c p).st = .idle ∧ (s.strand c p).dying = none) →
          (t.cluster k).log = []) ∧ (t.cluster k).unacked = List.range 768) ∧
      (ok → ∀ r ∈ [(0x30, s.setDie e { x with miglimit := w.v.extractLsb' 0 32 }),
          (0x40, s.setDie (k % 8) { s.die (k % 8) with alloc := mapPut (s.die (k % 8)).alloc (k / 8) alloc' }),
          (0x41, s.setDie e { x with weight := mapPut x.weight k weight' }),
          (0x73, s.setDie e { x with trace := tr' }),
          (0x71, s.setDie e { x with trace := { x.trace with base := frame } }),
          (0x72, s.traceSize e (w.v &&& 0xFFFF)),
          (0x76, { s with porch := { s.porch with lease := { l with
            words := mapPut l.words k (BitVec.ofNat 64 (slices * 2 ^ 48 + len))
            queue := if slices = 0 ∨ len = 0 then l.queue.filter (· ≠ k)
              else if k ∈ l.queue then l.queue else l.queue.filter (· ≠ k) ++ [k] } } }),
          (0x74, s.setDie e { x with trace := { x.trace with head := w.v &&& ~~~7, full := false } }),
          (0x75, s.setDie e { x with trace := { x.trace with vds := w.v } }),
          (0x77, s.setDie e { x with leasemax := w.v.extractLsb' 0 32 }),
          (0xF00, s.setDie e { x with hbmerr := mapPut x.hbmerr k err' })],
        n = r.1 → RetiresFrom o s r.2 u [])) ∧
    (∀ (e : Nat) (v : Word), let y := s.traceSize e v
      let t := (s.die e).trace
      (y.die e).trace.size = v ∧ (∀ k, dieOf k ≠ e → y.core k = s.core k) ∧
      (∀ k, dieOf k = e → y.core k = { s.core k with
        stamps := [], stampLost := (s.core k).stampLost + t.lostBy (s.core k).stamps }) ∧
      (t.ctl.getLsbD 0 = true → v ≠ 0 → t.size = 0 → (y.die e).trace.sync = none ∧ (y.die e).trace.began = s.cycle)) ∧
    ∀ die k : Nat, die < 8 → k < 2 ^ 21 →
      let pa := 0xF00000000000 + die * 2 ^ 40 + n * 2 ^ 24 + k * 8
      (n ∈ [0x30, 0x32, 0x71, 0x72, 0x73, 0x74, 0x75, 0x77] → s.ctlReadWord pa = if k = 0 then s.dieRead die n 0 else 0) ∧
      (n = 0x31 → s.ctlReadWord pa = 0) ∧
      (n ∈ [0x40, 0x41, 0xF00, 0x800] → s.ctlReadWord pa = if indexOk k then s.dieRead die n k else 0) ∧
      (n ∈ [0x32, 0x800] → ∀ w, s.ctlWriteWord pa w = s)

/-- TLBINV removes the page's translations, or all of the address space in mode 2, from every TLB; a purge waits for
jobs, regions, JOINs and room, then its homes hold none of it but a tombstone; mode 0 and 2 give 0 (R77, R315). That
nothing is purged when B is no well-formed leaf is the model's choice (log 83). -/
def Claim.TranslationInvalidation : Prop :=
  ∀ (s : State) (g : Guard) (d a b : SOp) (sel : BitVec 16), sel.toNat < 3 → Clear s g (formTlbinv d a b) → s.short = none →
    let u := (formTlbinv d a b).use
    let v := s.view u
    let x := v.s v.a a
    let y := v.s v.b b
    let i := Instr.tlbinv g d a b sel
    let vd := s.curSpace.1
    let asid := s.curSpace.2.1
    let dva := x.v.toNat % 2 ^ 56
    let hit (e : TlbEntry) : Bool := e.vd = vd && e.asid = asid &&
      (sel = 2 || (e.page ≤ dva && dva < e.page + pageSize e.large))
    let goes (l : Word → State → Prop) : Prop := ∃ t w, exec i s = .next t ∧
      t.regs = ({ s.regs.eff (effS d w false) with pc := s.pc + 1 } : RegSet) ∧
      (∀ k, (t.core k).tlb = (s.core k).tlb.filter fun e => !hit e) ∧
      (∀ k, (t.cluster k).tlb = (s.cluster k).tlb.filter fun e => !hit e) ∧ l w t
    match poisoned x.p y.p false with
    | some k => Traps i s { cause := 0x09, sub := k }
    | none =>
      match if sel = 1 then oldLeaf y.v else none with
      | none => goes fun w _ => w = 0
      | some l =>
        let k := pageOf l vd dva
        if s.pageJobs vd asid (dva / k.size * k.size) k.size then Waits i s .waitMem .jobs
        else if s.pageHeld k || s.pageJoins k then Waits i s .waitMem .region
        else if (((s.tlbDrop hit).endWatches (s.dyingWatch false vd asid dva (some k))).purgePage l k).2.short = some none then
          Waits i s .waitMem .region
        else goes fun _ t => ∀ j < 96,
          (∀ e ∈ (t.slice (96 * l.home + j)).exts, k.holds e.sp e.start e.data.length = false) ∧
          ∃ r ∈ (t.slice (96 * l.home + j)).tombs, r.sp = k.sp ∧ r.bay = k.start / 256 ∧ r.n = k.size / 256

/-- LRES sets the loft field of an allotment unless it, or the sum on the die, would pass 8,192; LMOVE walks to the
page, once a walker is free, and moves a loft page whose device has a reservation on the new die, waits for regions
and room, or says why not (R107, R316). The order of the statuses of LMOVE (log 18), and that LRES of a device of 64
or more is ILLEGAL (log 84), are the model's choices. -/
def Claim.LoftReservationAndMove : Prop :=
  ∀ (s : State) (g : Guard) (sel : BitVec 16), sel.toNat < 8 →
    let e := sel.toNat
    (∀ (d : POp) (a b : SOp), Clear s g (formLres d a b) →
      let u := (formLres d a b).use
      let v := s.view u
      let x := v.s v.a a
      let y := v.s v.b b
      let i := Instr.lres g d a b sel
      let vd := x.v.toNat
      let n := y.v.toNat
      let others : Nat := (((s.die e).alloc.filter fun r => r.1 ≠ vd).map fun r => (r.2.extractLsb' 32 15).toNat).sum
      match poisoned x.p y.p false with
      | some k => Traps i s { cause := 0x09, sub := k }
      | none =>
        if 64 ≤ vd then Traps i s { cause := 0x01 }
        else if s.level = .k ∧ vd ≠ s.curVd then Traps i s { cause := 0x02 }
        else if 8192 < n ∨ 8192 < others + n then Retires i s u [effP d false]
        else ∃ w : Word, (w.extractLsb' 32 15).toNat = n ∧
          w.extractLsb' 0 32 = (mapGet 0 (s.die e).alloc vd).extractLsb' 0 32 ∧
          w.extractLsb' 47 17 = (mapGet 0 (s.die e).alloc vd).extractLsb' 47 17 ∧
          RetiresFrom i s (s.setDie e { s.die e with alloc := mapPut (s.die e).alloc vd w }) u [effP d true]) ∧
    ∀ d a : SOp, Clear s g (formLmove d a) →
      let u := (formLmove d a).use
      let x := (s.view u).s (s.view u).a a
      let i := Instr.lmove g d a sel
      let dva := x.v.toNat % 2 ^ 56
      let vd := s.curSpace.1
      let root := s.curSpace.2.2
      let b := (s.walkReads (dieOf s.cur.core) vd root dva).getD s
      let gives (n : Word) : Prop := RetiresFrom i s b u [effS d n false]
      let waits (b : State) : Prop := ∃ t, exec i s = .next t ∧ Parked s.cur.core s.cur.pos b t .waitMem .region
      if x.p then Traps i s { cause := 0x09, sub := 1 }
      else if s.walkersBusy (dieOf s.cur.core) || (s.walkReads (dieOf s.cur.core) vd root dva).isNone then waits s
      else match b.walk root dva with
        | .error n => TrapsFrom i s b { cause := 0x07, sub := n, addr := dva, info := 0x3000 }
        | .ok l =>
          if l.loft = false then gives 2
          else if l.home = e then gives 3
          else if (mapGet 0 (b.die e).alloc vd).extractLsb' 32 15 = 0 then gives 1
          else if (b.slices.any fun y => y.2.regs.any fun r => (pageOf l vd dva).holds r.sp r.addr 8) ||
              b.recallHeld (pageOf l vd dva) || b.blocked .phys (b.leafAt l.pte) l.pte 8 true then waits b
          else match (b.lmovePage vd dva e l).short with
            | some none => waits b
            | some (some n) => TrapsFrom i s b { cause := 0x0D, info := n % 96 + n / 96 * 256 }
            | none => ∃ t, exec i s = .next t ∧
              t.regs = ({ s.regs.eff (effS d 0 false) with pc := s.pc + 1 } : RegSet) ∧
              ∀ k, ∀ r ∈ (t.core k).tlb, r.leaf.pte ≠ l.pte

/-- TLBINV, LRES and LMOVE. -/
def Obligations.PageForms : Prop :=
  Claim.TranslationInvalidation ∧ Claim.LoftReservationAndMove

/-- SSTOP puts the GTI on every die's list, unless one is full, and stops the strands that carry it: one that runs, with
no access to finish and no breakpoint to take first, or waits for a message at once, registers in place, the others
when they can. SSTART takes the GTI off every list and lets the strands go on: each returns to the state it left,
but one whose core has been saved since (R317, R406). -/
def Claim.StopAndStart : Prop :=
  ∀ (s : State) (g : Guard) (d a : SOp), Clear s g (formGti d a) →
    let u := (formGti d a).use
    let x := (s.view u).s (s.view u).a a
    let gti := x.v.extractLsb' 0 32
    let priv : Prop := s.level = .k ∧ (x.v.extractLsb' 26 6).toNat ≠ s.curVd
    let gives (t : State) (w : Word) : Prop := t.regs = ({ s.regs.eff (effS d w false) with pc := s.pc + 1 } : RegSet)
    (∀ i ∈ [Instr.sstop g d a, .sstart g d a], (x.p = true → Traps i s { cause := 0x09, sub := 1 }) ∧
      (x.p = false → priv → Traps i s { cause := 0x02 })) ∧
    (x.p = false → ¬ priv →
      ((∃ e < 8, 64 ≤ (s.die e).stops.length ∧ gti ∉ (s.die e).stops) →
        Retires (.sstop g d a) s u [effS d (BitVec.allOnes 64) false]) ∧
      ((∀ e < 8, (s.die e).stops.length < 64 ∨ gti ∈ (s.die e).stops) → ∃ t n, exec (.sstop g d a) s = .next t ∧
        gives t (BitVec.ofNat 64 n) ∧ (∀ e < 8, gti ∈ (t.die e).stops) ∧
        ∀ c p, Once s c p → (s.strand c p).gti = gti →
          let y := s.strand c p
          let z := t.strand c p
          z.regs = y.regs ∧ z.gti = y.gti ∧
          let first : Prop := y.op ≠ none ∨ (y.breakDone = false ∧ y.again = none ∧ s.brkHit c p = true)
          let later : Prop := (y.st = .run ∧ first) ∨ y.st = .waitMem ∨ y.st = .trapped ∨ (y.st = .waitMsg ∧ y.wait = .fre)
          (later → z.st = y.st ∧ z.wait = y.wait ∧ z.stopPending = true ∧ z.stopBy = .sstop) ∧
          ((y.st = .run ∨ y.st = .waitMsg) → ¬ later →
            z.st = .stopped ∧ z.stopBy = .sstop ∧ z.left = y.st ∧ z.leftWait = y.wait) ∧
          (y.st = .idle ∨ y.st = .stopped → z = y)) ∧
      ((∀ e < 8, gti ∉ (s.die e).stops) → ∃ t, exec (.sstart g d a) s = .next t ∧ gives t 0 ∧
        ∀ c p, t.strand c p = s.strand c p) ∧
      ((∃ e < 8, gti ∈ (s.die e).stops) → ∃ t n, exec (.sstart g d a) s = .next t ∧ gives t (BitVec.ofNat 64 n) ∧
        (∀ e < 8, gti ∉ (t.die e).stops) ∧
        ∀ c p, Once s c p → (s.strand c p).gti = gti → (s.strand c p).st ≠ .idle → (s.strand c p).stopBy = .sstop →
          let y := s.strand c p
          let z := t.strand c p
          let saved : Bool := (s.core c).saved.isSome
          z.regs = y.regs ∧ z.stopBy = (if y.st = .stopped ∧ saved then .preempt else .none) ∧
          (y.st = .stopped → saved = true → z.st = .stopped) ∧
          (y.st = .stopped → saved = false → y.stopPending = false → if y.left = .waitMsg then
            match y.leftWait with
            | .channel _ _ _ _ _ | .barrier | .band => z.st = .waitMsg ∧ z.wait = y.leftWait
            | _ => z.st = .run
            else z.st = .run) ∧
          (y.st ≠ .stopped → z.st = y.st ∧ z.stopPending = false)))

/-- CTRR gives a counter or its control, CTRW sets it, with own set at K and a reserved event as 0; MARK stamps a marker
when tracing is on; HINT changes no register: sel 1 leaves a cycle vacant, 2 and 3 steer migration (R318, R319). -/
def Claim.CountersMarksAndHints : Prop :=
  ∀ (s : State) (g : Guard) (sel : BitVec 16),
    let c := s.cur.core
    let p := s.cur.pos
    let n := sel.toNat % 8
    let k := mapGet ⟨0, false, false, 0, 0⟩ (s.core c).counters n
    (∀ d : SOp, Clear s g (formD d) →
      (sel.getLsbD 3 = false → Retires (.ctrr g d sel) s (formD d).use [effS d k.count false]) ∧
      (sel.getLsbD 3 = true → ∃ w : Word, Retires (.ctrr g d sel) s (formD d).use [effS d w false] ∧
        w.getLsbD 15 = k.en ∧ w.getLsbD 14 = k.own ∧ w.extractLsb' 0 8 = k.event ∧ w.extractLsb' 8 6 = 0 ∧
        w.extractLsb' 16 48 = 0)) ∧
    (∀ d : SOp, Clear s g (formCtrw d) →
      let u := (formCtrw d).use
      let w := (s.view u).s (s.view u).d d
      let event := w.v.extractLsb' 0 8
      let put (y : Counter) : State := s.setCore c { s.core c with counters := mapPut (s.core c).counters n y }
      if w.p then Traps (.ctrw g d sel) s { cause := 0x09, sub := 0 }
      else
        (sel.getLsbD 3 = false → RetiresFrom (.ctrw g d sel) s (put { k with count := w.v }) u []) ∧
        (sel.getLsbD 3 = true → RetiresFrom (.ctrw g d sel) s (put { k with
          en := w.v.getLsbD 15, own := s.level = .k || w.v.getLsbD 14, event := if 0x0F < event.toNat then 0 else event
          vd := s.curVd }) u [])) ∧
    (Clear s g {} →
      RetiresFrom (.mark g sel) s (s.stamp c 6 s.curGti sel) {} [] ∧
      (traceOn (s.die (dieOf c)).trace = false → (s.die (dieOf c)).trace.full = false → Retires (.mark g sel) s {} []) ∧
      (p ≠ 6 → ∀ h ∈ [(1, { s.strand c p with notBefore := (s.strand c p).notBefore + 8 }),
          (2, { s.strand c p with hint2 := true }), (3, { s.strand c p with hint3 := true })],
        sel.toNat = h.1 → RetiresFrom (.hint g sel) s (s.setStrand c p h.2) {} []) ∧
      (p = 6 ∨ sel = 0 ∨ 3 < sel.toNat → Retires (.hint g sel) s {} []))

/-- SSTOP, SSTART, CTRR, CTRW, MARK and HINT. -/
def Obligations.StopStartAndCounters : Prop :=
  Claim.StopAndStart ∧ Claim.CountersMarksAndHints

/-- Corridors: an injection slot takes the oldest waiting flit in slot 15, else of the first of SYS, COH and RSP that
has one, else what the deficit round robin gives; aging tenures, each with one turn; what an arrival does when it is
accepted, rides on, lands, or is taken back; landed flits leave in order (R22 to R24, R27 to R29, R171). When an
aging turn comes (log 106), that an aging flit of a held flow waits in the aging buffer (log 107), and the details
of the round robin (log 30) are the model's choices. -/
def Obligations.CorridorEvents : Prop :=
  ∀ (s : State) (d l slot : Nat),
    let moved (f : Flit) (st : Stage) : List Flit := s.net.map fun g => if g.id = f.id then { f with stage := st } else g
    let empty : Prop := ∀ f ∈ s.net, f.die = d → ∀ n b, f.stage ≠ .slot l slot n b
    let first (f : Flit) (l : List Flit) : Prop := f ∈ l ∧ ∀ g ∈ l, f.age ≤ g.age
    let leaves (f : Flit) (t : State) : Prop :=
      if s.filtered f then t.net = s.net.filter (fun g => g.id ≠ f.id) ∧
        (t.die f.die).discarded = (s.die f.die).discarded + 1
      else if f.die = f.ddie then
        match f.msg with
        | .fetch r => t.net = s.net.filter (fun g => g.id ≠ f.id) ∧ (t.die f.ddie).hbm = (s.die f.ddie).hbm ++ [r]
        | .check c => t.net = s.net.filter (fun g => g.id ≠ f.id) ∧ (t.die f.ddie).checks = (s.die f.ddie).checks ++ [c]
        | .bulk _ => t.net = s.net.filter (fun g => g.id ≠ f.id)
        | _ => t.net = moved f .ejected
      else if nextDie f.die f.ddie = 8 ∧ (match f.msg with | .bulk _ => true | _ => false) = true then t.net = s.net.filter (fun g => g.id ≠ f.id)
      else ∃ g : Flit, t.net = (s.net.map fun h => if h.id = f.id then g else h) ∧ g.die = nextDie f.die f.ddie ∧
        (g.die = 8 → g.stage = .ejected) ∧ (g.die ≠ 8 → g.stage = .queued ∧ g.leg = s.nextId ∧ g.lsrc = portTo g.die f.die ∧
          g.ldst = legDst g.die f.ddie f.dstop)
    (∀ stop, slot < 64 → slot % 16 ≠ 0 → empty →
      let st := mapGet Stop.init (s.die d).inj stop
      let can := ((s.entriesOf d stop).filter fun f => f.stage = .queued).filter (s.placeable l)
      let of (vc : Nat) : List Flit := can.filter fun f => f.vc = vc
      can ≠ [] → ∃ t, exec (.injectionSlot d stop l slot) s = .next t ∧
        (mapGet Stop.init (t.die d).inj stop).slots = st.slots + 1 ∧
        (t.net = s.net ∨ ∃ f ∈ can, t.net = moved f (.slot l slot 0 false)) ∧
        (st.slots % 16 ≠ 15 → of vcSYS = [] → of vcCOH = [] → of vcRSP = [] →
          let w := (s.waitingAt d stop).filter fun f => isDrr f.vc
          let q := s.drrRound d st w
          let left : Prop := ∃ v ∈ st.round, (∃ f ∈ w, f.vd = v ∧ f.stage = .queued) ∧ 0 < mapGet 0 st.deficit v
          (left → q = st) ∧ (¬ left → (∀ v, v ∈ q.round ↔ ∃ f ∈ w, f.vd = v) ∧
            ∀ v, mapGet 0 q.deficit v = mapGet 0 st.deficit v + if ∃ f ∈ w, f.vd = v then (s.weightOf d v : ℤ) else 0) ∧
          match drrPick q (can.filter fun f => isDrr f.vc) with
          | some (f, q') => t.net = moved f (.slot l slot 0 false) ∧ first f (can.filter fun g => g.vd = f.vd && g.vc = f.vc) ∧
              isDrr f.vc = true ∧ 0 < mapGet 0 q.deficit f.vd ∧
              mapGet 0 q'.deficit f.vd = mapGet 0 q.deficit f.vd - 1
          | none => t.net = s.net ∧ ∀ f ∈ can, isDrr f.vc = true → f.vd ∈ q.round → mapGet 0 q.deficit f.vd ≤ 0) ∧
        (st.slots % 16 = 15 → ∃ f, first f can ∧ t.net = moved f (.slot l slot 0 false)) ∧
        (st.slots % 16 ≠ 15 → ∀ e ∈ [(vcSYS, []), (vcCOH, [vcSYS]), (vcRSP, [vcSYS, vcCOH])],
          of e.1 ≠ [] → (∀ v ∈ e.2, of v = []) → ∃ f, first f (of e.1) ∧ t.net = moved f (.slot l slot 0 false))) ∧
    (slot < 64 → slot % 16 = 0 → empty →
      let own := s.agingOwner d l slot
      let can := (s.entriesOf d own).filter fun f => (f.stage = .queued || f.stage = .takenBack) && f.mayUse l
      let done (t : State) : Bool := setHas (t.die d).turned (64 * l + slot)
      (can ≠ [] → done s = false → ∃ t f, exec (.agingTurn d l slot) s = .next t ∧ first f can ∧
        t.net = moved f (.slot l slot 0 true) ∧ done t = true) ∧
      (done s = true → exec (.agingTurn d l slot) s = .next s) ∧
      ∃ t, exec (.agingTenureEnd d l slot) s = .next t ∧ t.net = s.net ∧ done t = false ∧
        t.agingOwner d l slot = stopOfRank d l ((loopRank d l own + 1) % (loopStops d l).length)) ∧
    (∀ f ∈ s.net, ∀ n aging accept, f.die = d → f.stage = .slot l slot n aging → n < 4 →
      (∀ g ∈ s.net, g.die = d → ∀ m b, g.stage = .slot l slot m b → g = f) →
      let landed := s.landedAt d f.ldst f.vc .landed
      let held := s.flowHeld f
      ∃ t, exec (.flitArrival d l slot accept) s = .next t ∧
        if s.filtered f ∨ (accept = true ∧ held = false ∧ landed = [] ∧ s.landedAt d f.ldst f.vc .agingBuf = []) then
          leaves f t
        else if aging then t.net = moved { f with age := s.nextId } .agingBuf
        else if n + 1 < 4 then t.net = moved f (.slot l slot (n + 1) false)
        else if landed.length < 2 ∧ held = false then t.net = moved { f with age := s.nextId } .landed
        else t.net = moved f (.slot l slot 4 false)) ∧
    (∀ f ∈ s.net, f.die = d → f.stage = .slot l slot 4 false →
      (∀ g ∈ s.net, g.die = d → ∀ m b, g.stage = .slot l slot m b → g = f) →
      ∃ t, exec (.flitTakenBack d l slot) s = .next t ∧ t.net = moved f .takenBack) ∧
    ∀ stop vc,
      let free (f : Flit) : Bool := !(s.net.any fun g => g.before f &&
        (g.atSource f.die f.lsrc || g.stage = .landed || g.stage = .agingBuf))
      let aged := (s.landedAt d stop vc .agingBuf).filter free
      let down := s.landedAt d stop vc .landed
      (aged ≠ [] ∨ down ≠ []) → ∃ t f, exec (.landedFlitAccept d stop vc) s = .next t ∧ leaves f t ∧
        (aged ≠ [] → first f aged) ∧ (aged = [] → first f down)

/-- The controller of HBM serves the oldest request whose bucket pays for it, else the oldest; the reserved slot serves
the next device's oldest unpaid one; serving a paid one lowers its level by its bursts, ends a write-back, and sends
the data of a fill; a refill adds the rate up to the depth; the data reach their home (R31, R98, R397). -/
def Obligations.HbmEvents : Prop :=
  ∀ (s : State) (d : Nat),
    let x := s.die d
    let level (y : Die) (v : Nat) : Nat := ((mapGet 0 y.weight v).extractLsb' 16 16).toNat
    let paid (r : HbmReq) : Prop := r.free = true ∨ r.bursts ≤ level x r.vd
    let serves (t : State) (k : Nat) (r : HbmReq) : Prop :=
      x.hbm[k]? = some r ∧ r.served = false ∧
        (r.write = none → (t.die d).hbm = x.hbm.set k { r with served := true } ∧
          ∃ f ∈ t.net, f.msg = .fill { r with served := true } ∧ f.ddie = r.slice / 96) ∧
        (r.write ≠ none → (t.die d).hbm = x.hbm.eraseIdx k) ∧
        (r.free = false → r.bursts ≤ level x r.vd → level (t.die d) r.vd = level x r.vd - r.bursts) ∧
        (r.free = true ∨ level x r.vd < r.bursts → (t.die d).weight = x.weight)
    ((∃ r ∈ x.hbm, r.served = false) → ∃ t k r, exec (.hbmServiceSlot d) s = .next t ∧ serves t k r ∧
      ((∃ q ∈ x.hbm, q.served = false ∧ paid q) →
        paid r ∧ ∀ j < k, ∀ q, x.hbm[j]? = some q → q.served = true ∨ ¬ paid q) ∧
      ((∀ q ∈ x.hbm, q.served = false → ¬ paid q) → ∀ j < k, ∀ q, x.hbm[j]? = some q → q.served = true)) ∧
    (∀ v < 64, (∃ q ∈ x.hbm, q.served = false ∧ ¬ paid q ∧ q.vd = v) →
      (∀ n, n < (v + 64 - (x.rr + 1) % 64) % 64 → ∀ q ∈ x.hbm, q.served = false → ¬ paid q → q.vd ≠ (x.rr + 1 + n) % 64) →
      ∃ t k r, exec (.reservedSlot d) s = .next t ∧ serves t k r ∧ r.vd = v ∧ (t.die d).rr = v ∧
        ∀ j < k, ∀ q, x.hbm[j]? = some q → q.served = true ∨ paid q ∨ q.vd ≠ v) ∧
    (∃ t, exec (.bucketRefill d) s = .next t ∧ ∀ v, mapGet? x.weight v ≠ none →
      let w := mapGet 0 x.weight v
      let y := mapGet 0 (t.die d).weight v
      level (t.die d) v = min (w.extractLsb' 48 16).toNat (level x v + (w.extractLsb' 32 16).toNat) ∧
        y.extractLsb' 0 16 = w.extractLsb' 0 16 ∧ y.extractLsb' 32 32 = w.extractLsb' 32 32) ∧
    ∀ k r, x.hbm[k]? = some r → r.served = true →
      (∃ f ∈ s.net, f.sdie = d ∧ f.msg = .fill r ∧ ready s f = true) → (∀ b < r.bursts, setHas s.badBursts (r.addr / 64 + b) = false) →
      ∃ t, exec (.fillDataArrival d k) s = .next t ∧ (t.die d).hbm = x.hbm.eraseIdx k ∧
        ∀ e ∈ (s.slice r.slice).exts, e.sp = r.sp → e.fill = true →
          let a := r.bay * 256 + r.addr % 256
          a ≤ e.start → e.start + e.data.length ≤ a + 64 * r.bursts → ∀ j < e.data.length,
          ∃ f ∈ (t.slice r.slice).exts, f.sp = r.sp ∧ f.fill = false ∧
            runByte f.start f.data (e.start + j) = some (s.hbmByte (r.addr + (e.start + j - a)))

/-- MEMORY_REPLY: a reply of an older incarnation is dropped; the last one completes the access of its party: loads,
value atomics and MWAIT write D, the others only go on; LAUNCH and JOB do what their record says; a poisoned word or
an empty frame pool traps (R43, R113, R169, R179, R289, R290, R293, R333, R340, R343, R369). -/
def Obligations.AccessCompletion : Prop :=
  ∀ (s : State) (i : Nat) (f : Flit) (c p : Nat) (o : Op), s.flit? i = some f → s.short = none →
    let e := Instr.memoryReply i
    let cl := 512 * f.ddie + f.dstop
    let old : Prop := f.inc ≠ (s.cluster cl).inc
    (∀ r st v b, f.msg = .rsp r st v b → old → exec e s = .next (s.drop i)) ∧
    (∀ a q k v po re g, f.msg = .ack a q k v po re g → old → exec e s = .next (s.drop i)) ∧
    (s.opOf c p = some o → o.left = 1 → o.bad = 0 → (∀ q ∈ o.pieces, q.sub = 0) → o.sent = false → ¬ old →
      let ends (l : List Eff) : Prop := s.chShut c l = false → Ends e s c p l
      (∀ v po g, f.msg = .ack c p o.id v po true g → p < 6 → TrapsAt e s c p { cause := 0x02 }) ∧
      (∀ v po g, f.msg = .ack c p o.id v po false g →
        (o.act ∈ [GAct.store, .prefetch, .cwb, .cinv, .cunpin, .lback, .flushp, .done, .remote none] → ends []) ∧
        (∀ sc, o.act = .rell sc → ends []) ∧ (∀ op sc, o.act = .red op sc → ends []) ∧
        (∀ d, o.act = .remote (some d) → takesS d po → ends [effS d v po]) ∧
        (∀ op sc d w, o.act = .atom op sc d w → ends [effS d v false]) ∧
        (∀ d, o.act = .mwait d ∨ o.act = .cpin d ∨ o.act = .spawn d → ends [effP d (v ≠ 0)]) ∧
        (∀ d, o.act = .ldisc d ∨ o.act = .lstat d → ends [effS d v false]) ∧
        (∀ d, o.act = .join (some d) → v ≠ 2 → ends [effP d (v ≠ 0)])) ∧
      (∀ r v b, f.msg = .rsp r .ok v b → r.core = c → r.pos = p → r.op = o.id →
        (∀ op sc d w x, o.act = .atom op sc d w → r.kind = .atom op x → ends [effS d v false]) ∧
        (∀ op sc, o.act = .red op sc → r.kind = .red op ∨ r.kind = .accrue op → ends []) ∧
        (o.act = .store → r.kind = .write → ends []) ∧
        (∀ d x l, o.act = .mwait d → r.kind = .mwait x l → ends [effP d (v ≠ 0)]) ∧
        (∀ d, o.act = .join (some d) → r.kind = .join → v ≠ 2 → ends [effP d (v ≠ 0)]) ∧
        (r.kind = .read → b.length = r.len → r.off + r.len ≤ o.len →
          (∀ j < o.len, (mapGet? o.got j).isSome ∨ (r.off ≤ j ∧ j < r.off + r.len)) → bindsAct o.act = true →
          r.binds = true → s.waitOf c p = .reply →
          (r.region ≠ none ∨ r.leaf.near = false ∨ ((r.off = 0 ∨ r.addr % 8 = 0) ∧ r.off ≤ r.addr ∧
            (r.off + r.len = o.len ∨ (r.addr + r.len) % 8 = 0))) → (((s.drop i).bindReply r b).cacheReply cl r b).short = none →
          ∃ l : List PByte, l.length = o.len ∧
            (∀ j < r.len, l[r.off + j]? = (s.overLocal (clusterOf c) r b)[j]?) ∧
            (∀ j < o.len, j < r.off ∨ r.off + r.len ≤ j → l[j]? = mapGet? o.got j) ∧
            let val : Nat := (l.zipIdx.map fun x => x.1.v.toNat * 2 ^ (8 * x.2)).sum
            let bad : Bool := l.any (·.p)
            (∀ d sgn, o.act = .load (.scalar d sgn) → o.len ≤ 8 → takesS d bad →
              ends [effS d (.ofInt 64 (if sgn = true ∧ 0 < o.len ∧ 2 ^ (8 * o.len - 1) ≤ val then
                (val : Int) - 2 ^ (8 * o.len) else val)) bad]) ∧
            (∀ d, o.act = .load (.vec d) → o.len ≤ 64 → ∃ (x : VReg) (q : BitVec 8),
              (∀ j < 64, x.extractLsb' (8 * j) 8 = (l[j]?.map (·.v)).getD 0) ∧
              (∀ j < 8, q.getLsbD j = ((l.drop (8 * j)).take 8).any (·.p)) ∧ (takesV d q → ends [effV d x q])) ∧
            (∀ a, o.act = .load (.ls a) → ends [.ls a l] ∧ ∃ t, exec e s = .next t ∧
              ∀ k, lsByte (t.core c) k = lsByte ((s.lsStore c a l).core c) k)))) ∧
    (s.opOf c p = some o → o.left = 1 → (∀ q ∈ o.pieces, q.sub = 0) → ¬ old → p < 6 →
      ∀ r v b, r.core = c → r.pos = p → r.op = o.id → r.kind ≠ .fetch →
        (f.msg = .rsp r .poisonSync v b → o.bad ≤ 1 → TrapsAt e s c p { cause := 0x0A }) ∧
        (f.msg = .rsp r .loftOverflow v b → TrapsAt e s c p { cause := 0x0D, info := v.toNat }))

/-- LAUNCH and JOB once their record has been read: an invalid descriptor, one of another virtual device, and a full
queue give 2, 3 and 1, an accepted one joins its queue and gives 0; a card takes a slot and gives its handle,
waiting or finished with CARD or FOOTPRINT, or waits for a slot (R343, R369, R370, R373). -/
def Obligations.LaunchAndJobRecords : Prop :=
  ∀ (s : State) (i : Nat) (f : Flit) (c p : Nat) (o : Op) (v : Word) (po : Bool) (g : Option GuardRec) (d : SOp),
    s.flit? i = some f → f.msg = .ack c p o.id v po false g → s.opOf c p = some o → o.left = 1 → o.bad = 0 →
    (∀ q ∈ o.pieces, q.sub = 0) → o.sent = false → f.inc = (s.cluster (512 * f.ddie + f.dstop)).inc → p < 6 →
    (∀ j < o.len, (mapGet? o.got j).isSome) → s.short = none → g = none →
    let e := Instr.memoryReply i
    let bad : Bool := o.bytes.any (·.p)
    let w := wordsOfBytes o.bytes
    let cl := clusterOf c
    let x := s.strand c p
    let img := (s.ctx cl x.tag.toNat).img
    let b := ((s.drop i).modOp c p fun o => { o with res := v, resP := po }).modOp c p fun o => { o with left := o.left - 1 }
    (o.act = .launch d → bad = true → TrapsAt e s c p { cause := 0x0A }) ∧
    (o.act = .launch d → bad = false → b.relBlocked c p .dev = true → exec e s = .next s) ∧
    (o.act = .launch d → bad = false → b.relBlocked c p .dev = false → ∀ k, b.relOver c p .dev = some k →
      s.chShut c [effS d 0 false] = false → TrapsAt e s c p { cause := 0x0D, info := k % 96 + k / 96 * 256 }) ∧
    (o.act = .launch d → bad = false → b.relBlocked c p .dev = false → b.relOver c p .dev = none →
      s.waitOf c p = .reply → s.chShut c [effS d 0 false] = false →
      (lInvalid w = true → Ends e s c p [effS d 2 false]) ∧
      (lInvalid w = false → lVd w ≠ img.vd → Ends e s c p [effS d 3 false]) ∧
      (lInvalid w = false → lVd w = img.vd → lNamed w = true →
        let q := mapGet [] (s.die (lDie w)).launchQ (lVd w)
        (16 ≤ q.length → Ends e s c p [effS d 1 false]) ∧
        (q.length < 16 → Ends e s c p [effS d 0 false] ∧ ∃ t r, exec e s = .next t ∧
          mapGet [] (t.die (lDie w)).launchQ (lVd w) = q ++ [r] ∧ r.dws = w ∧ r.parent = x.gti ∧ r.img = img)) ∧
      (lInvalid w = false → lVd w = img.vd → lNamed w = false →
        let q := mapGet [] s.porch.anyQ (lVd w)
        (16 ≤ q.length → Ends e s c p [effS d 1 false]) ∧
        (q.length < 16 → Ends e s c p [effS d 0 false] ∧ ∃ t r, exec e s = .next t ∧
          mapGet [] t.porch.anyQ (lVd w) = q ++ [r] ∧ r.dws = w ∧ r.parent = x.gti ∧ r.img = img))) ∧
    (o.act = .job d →
      match freeJobSlot (s.cluster cl) with
      | none => ∃ t, exec e s = .next t ∧ stOf t c p = .waitMem ∧ t.waitOf c p = .jobSlot ∧ t.regsOf c p = s.regsOf c p
      | some k => s.chShut c [effS d 0 false] = false →
        let n := (s.job cl k).serial + 1
        let valid : Bool := !bad && cardOk w x.regs.g
        Ends e s c p [effS d (BitVec.ofNat 64 (cl * 2 ^ 20 + n.toNat * 2 ^ 6 + k)) false] ∧
        ∃ t, exec e s = .next t ∧ (t.job cl k).serial = n ∧ (t.job cl k).vd = img.vd ∧ (t.job cl k).gti = x.gti ∧
          (valid = false → (t.job cl k).st = .error ∧ (t.job cl k).status = 0x8002) ∧
          (valid = true → footOk w x.regs.g = false → (t.job cl k).st = .error ∧ (t.job cl k).status = 0x8003) ∧
          (valid = true → footOk w x.regs.g = true → (t.job cl k).st = .waiting ∧ (t.job cl k).card = w ∧
            (∀ j, j ∈ (t.job cl k).preds ↔ ∃ q, (j, q) ∈ (s.cluster cl).jobs ∧ j ≠ k ∧ q.unfinished = true ∧
              q.vd = img.vd ∧ cardsConflict q.card w = true)))

/-- HOME_REQUEST: an old incarnation is dropped and counted, a page that is gone answers MOVED, what another agent holds
lets the request wait; else a read gives the bytes that its home holds or starts their fill, an atomic gives the old
value, a poisoned word raises POISON_SYNC, and MWAIT answers or leaves a watch (R98, R116, R169, R179, R182, R296).
-/
def Obligations.HomeRequests : Prop :=
  ∀ (s : State) (i : Nat) (f : Flit) (r : HReq), s.flit? i = some f → f.msg = .req r → s.short = none →
    let e := Instr.homeRequest i
    let sl := 96 * f.ddie + (f.dstop - 512)
    let x := s.slice sl
    let age := (mapGet 0 x.incs f.cluster - f.inc).toNat
    let buried : Prop := ∃ t ∈ x.tombs, t.sp = r.sp ∧ t.bay ≤ r.addr / 256 ∧ r.addr / 256 < t.bay + t.n
    let answers (st : RspStatus) (v : Word) (b : List PByte) : Prop :=
      ∃ t, exec e s = .next t ∧ ∃ q, Answered { s with nextId := q } t f (.rsp r st v b)
    let waits : Prop := ∃ t, exec e s = .next t ∧ { t with net := s.net } = s ∧
      t.net = s.net.map fun g => if g.id = i then { g with stage := .held } else g
    let here := s.homeBytes r.sp r.leaf r.addr r.len
    let word := s.homeWord r.sp r.leaf (r.addr / 8 * 8)
    (1 ≤ age ∧ age ≤ 127 → ∃ t, exec e s = .next t ∧ (t.slice sl).dropped = x.dropped + 1 ∧
      t.net = s.net.filter fun g => g.id ≠ f.id) ∧
    (¬ (1 ≤ age ∧ age ≤ 127) → buried → answers .moved 0 []) ∧
    (¬ (1 ≤ age ∧ age ≤ 127) → ¬ buried → r.region = none → s.mustWait f r = true → s.settleOver f r = none → waits) ∧
    (¬ (1 ≤ age ∧ age ≤ 127) → ¬ buried → r.region = none → s.mustWait f r = false →
      let absent := s.absentAt sl r.sp r.leaf r.addr r.len
      ((r.kind = .read ∨ r.kind = .fetch) → absent = [] →
        ∃ t k, exec e s = .next t ∧ (∃ q, Answered { s with nextId := q } t f (.rsp { r with keep := k } .ok 0 here)) ∧
          (k = true → r.keep = true) ∧ (r.leaf.kind ≠ .strong → k = r.keep)) ∧
      (r.kind.reads = true → r.kind ≠ .join → absent ≠ [] → (∀ a ∈ absent, s.filling sl r.sp a = false) →
        (∀ b, s.roomBay r.sp r.leaf r.vd r.addr r.len = .ok b →
          (b.startFill sl r.sp r.leaf r.vd r.addr r.len).short = none → ∃ t, exec e s = .next t ∧
            (∀ g ∈ t.net, g.id = i → g.stage = .held)) ∧
        (s.roomBay r.sp r.leaf r.vd r.addr r.len = .refused → exec e s = .next (s.countRefusal r))) ∧
      (r.kind.reads = true → r.kind ≠ .join → (∃ a ∈ absent, s.filling sl r.sp a = true) →
        ((s.fillOf sl r.sp r.addr r.len).isSome = true → f.stage = .held → waits) ∧
        (s.fillOf sl r.sp r.addr r.len = none → exec e s = .next (s.countRefusal r))) ∧
      ((∃ op w, r.kind = .atom op w) ∨ (∃ op, r.kind = .red op) → absent = [] → word.p = true →
        (∀ x, s.roomWrite r.sp r.leaf r.vd r.addr (min r.len 8) ≠ .frame x) → answers .poisonSync 0 []) ∧
      (∀ op w b, (r.kind = .atom op w ∨ (r.kind = .red op ∧ w = 0)) → absent = [] → word.p = false →
        r.leaf.kind ≠ .strong → s.roomWrite r.sp r.leaf r.vd r.addr r.len = .ok b →
        (b.performWrite f f.cluster r.sp r.leaf r.vd r.addr
          (natBytes r.len (aopVal op (8 * r.len) (bytesNat here) (bytesNat r.data) w.toNat))).short = none →
        answers .ok (BitVec.ofNat 64 (bytesNat here)) []) ∧
      (∀ b, r.kind = .write → r.leaf.kind ≠ .strong → s.roomWrite r.sp r.leaf r.vd r.addr r.len = .ok b →
        (b.performWrite f f.cluster r.sp r.leaf r.vd r.addr r.data).short = none → answers .ok 0 []) ∧
      (∀ w l, r.kind = .mwait w l → absent = [] →
        let v := s.homeWord r.sp r.leaf r.addr
        (v.p = true → answers .poisonSync 0 []) ∧ (v.p = false → v.v ≠ w → answers .ok 1 []) ∧
        (v.p = false → v.v = w → 64 ≤ x.watches.length → answers .ok 0 []) ∧
        (v.p = false → v.v = w → x.watches.length < 64 → ∃ t, exec e s = .next t ∧
          (t.slice sl).watches = x.watches ++ [⟨r.core, r.pos, r.op, r.sp, r.addr, w, none⟩] ∧
          t.net = s.net.filter fun g => g.id ≠ f.id)))

/-- The other events of a home and its clusters: invalidations, recalls, combines, frames, tombstones, incarnations,
watches, walks, and the result of a long operation (R43, R84, R97, R106, R107, R120, R123, R179, R182, R296, R359).
-/
def Obligations.HomeEvents : Prop :=
  ∀ s : State,
    (∀ i f sl sp a n, s.flit? i = some f → f.msg = .inval sl sp a n →
      let cl := 512 * f.ddie + f.dstop
      ∃ t, exec (.invalidationArrival i) s = .next t ∧
        (∀ e ∈ (t.cluster cl).cache, e.sp = sp → e.st = .c → e.leaf.kind = .strong →
          overlaps e.start e.data.length a n = false) ∧
        (t.slice sl).busy = (s.slice sl).busy.map fun b =>
          if b.sp = sp ∧ b.addr = a ∧ b.len = n then { b with left := setDel b.left cl } else b) ∧
    (∀ sl j o, (s.slice sl).owners[j]? = some o →
      (∃ f ∈ s.net, 96 * f.ddie + (f.dstop - 512) = sl ∧ 512 ≤ f.dstop ∧ f.dstop < 608 ∧ ready s f = true ∧
        f.cluster ≠ clusterOf o.core ∧ ∃ r, f.msg = .req r ∧ r.sp = o.sp ∧ overlaps r.addr r.len o.addr 8 = true) →
      (∀ e ∈ (s.cluster (clusterOf o.core)).cache, owedSelects o.core o.pos e = true → s.owesBlocked e = false) →
      (s.recall o).short = none → ∃ t, exec (.rellRecall sl j) s = .next t ∧ t = s.recall o ∧
        ∀ k, ∀ q ∈ (t.slice k).owners, ¬ (q.core = o.core ∧ q.pos = o.pos)) ∧
    (∀ sl j c, (s.slice sl).combines[j]? = some c → sl = homeSlice c.leaf.home c.addr →
      (∃ f ∈ s.net, 96 * f.ddie + (f.dstop - 512) = sl ∧ 512 ≤ f.dstop ∧ f.dstop < 608 ∧ ready s f = true ∧
        ∃ r, f.msg = .req r ∧ r.sp = c.sp ∧ overlaps r.addr r.len c.addr 8 = true ∧
          (s.combineFor r = some c ∨ r.region ≠ none)) →
      s.blocked c.sp c.leaf c.addr 8 true = false → (s.combineWord c).short = none →
      ∃ t, exec (.combine sl j) s = .next t ∧ t = s.combineWord c ∧
        ∀ q ∈ (t.slice sl).combines, ¬ (q.sp = c.sp ∧ q.addr = c.addr)) ∧
    (∀ i f r e, s.flit? i = some f → f.msg = .req r → s.homeTry f r = .frame e →
      let b := s.settle noCluster .phys (s.leafAt e.leaf.pte) e.leaf.pte 8 64
      b.frameOf e.leaf = 0 →
      ((b.die e.leaf.home).pool = [] → r.kind ≠ .fetch → ∃ t, exec (.frameRequest i) s = .next t ∧
        Answered s t f (.rsp r .loftOverflow (BitVec.ofNat 64 (96 * f.ddie + (f.dstop - 512))) [])) ∧
      (∀ m l, (b.die e.leaf.home).pool = m :: l → (b.backPage e.leaf).all (fun t => t.short.isNone) = true →
        ∃ t, exec (.frameRequest i) s = .next t ∧ (t.die e.leaf.home).pool = l)) ∧
    (∀ d k w, k < 192 → (s.die d).walks[k]? = some w →
      ∀ t, (s.setDie d { s.die d with walks := (s.die d).walks.eraseIdx k }).walkDone w = some t → t.short = none →
        exec (.pageWalk d k) s = .next (if 192 ≤ (s.die d).walks.length then t.roomFreed else t)) ∧
    (∀ sl j b, (s.slice sl).tombs[j]? = some b →
      (∀ f ∈ s.net, f.id < b.born → 96 * f.ddie + (f.dstop - 512) = sl → f.ddie = sl / 96 → 512 ≤ f.dstop → f.dstop < 608 →
        f.vc ∉ [0, 3, 5]) →
      ∃ t, exec (.tombstoneRetire sl j) s = .next t ∧ (t.slice sl).tombs = (s.slice sl).tombs.eraseIdx j) ∧
    (∀ sl cl, setHas (s.cluster cl).unacked sl = true → ∃ t, exec (.incarnationBroadcast sl cl) s = .next t ∧
      mapGet 0 (t.slice sl).incs cl = (s.cluster cl).inc ∧ (t.cluster cl).unacked = setDel (s.cluster cl).unacked sl) ∧
    (∀ sl j w b, (s.slice sl).watches[j]? = some w → w.fired = some b →
      (∀ o ∈ (s.slice sl).owners, b = true → o.sp = w.sp → o.addr = w.addr → clusterOf o.core = clusterOf w.core) →
      ∃ t, exec (.mwaitWake sl j) s = .next t ∧ (t.slice sl).watches = (s.slice sl).watches.filter (· ≠ w) ∧
        ∃ g ∈ t.net, g.msg = .ack w.core w.pos w.op (if b then 1 else 0) false false none) ∧
    (∀ c p o d, s.opOf c p = some o → o.act = .mwait d → o.limit ≠ 0 → o.since + o.limit ≤ s.cycle →
      (∃ x ∈ s.slices, ∃ w ∈ x.2.watches, w.core = c ∧ w.pos = p ∧ w.op = o.id ∧ w.fired = none) →
      ∃ t, exec (.mwaitTimeout c p) s = .next t ∧ ∃ g ∈ t.net, g.msg = .ack c p o.id 0 false false none) ∧
    (∀ i f r, s.flit? i = some f → f.msg = .req r → f.stage = .held → r.region ≠ none → r.kind.reads = true →
      exec (.regionHeldReadRetry i) s = exec (.homeRequest i) s ∧ ∃ t, exec (.regionHeldReadRetry i) s = .next t) ∧
    ∀ c p l, s.waitOf c p = .result l → l.all (fun e => !isLs e) = true → s.chShut c l = false →
      ∃ t, exec (.longLatencyResult c p) s = .next t ∧
      t.regsOf c p = ({ l.foldl RegSet.eff (s.regsOf c p) with
        pc := (effJump l).getD ((s.regsOf c p).pc + 1) } : RegSet) ∧
      ((s.strand c p).stopPending = false → stOf t c p = .run ∧ t.waitOf c p = .none)

/-- The porter, when it is free, takes its next work: the oldest keeper entry, else the oldest message. An entry whose
doubleword is enabled starts at that PC with the registers that its kind gives; a trap or a notice that is not
enabled kills the task, a message is discarded (and a death notice dropped: the model's choice, log 120); a message
lets requests of other cores pass. A trap of keeper code goes to the landlord's entry above it, and one of landlord
code stops the core and tells the die scheduler (R45, R161, R162, R164, R167, R172, R331). -/
def Obligations.PorterEntries : Prop :=
  ∀ (s : State) (c : Nat),
    let q := s.porter c
    let takes (e : Instr) (x : State) (n : Entry) (l : List (Fin 32 × Word)) : Prop :=
      ∃ t, exec e s = .next t ∧ Entered x t c n l ∧ (t.porter c).queue = (x.porter c).queue.drop 1 ∧
        (t.porter c).stack = (x.porter c).stack
    (s.porterFree c = true →
      (∀ p l, q.queue = .trap p :: l →
        let fd0 := (s.strand c p).fault.fd0
        let tag := (s.strand c p).tag
        let cause := (fd0.extractLsb' 0 8).toNat
        let sub := (fd0.extractLsb' 8 8).toNat
        (∀ pc x, s.handler c tag.toNat false cause = (some pc, x) → x.short = none →
          takes (.keeperEntry c) x ⟨.trap p, false, tag, pc⟩
            [(3, BitVec.ofNat 64 p), (4, (x.strand c p).fault.fd0)]) ∧
        (∀ x, s.handler c tag.toNat false cause = (none, x) → x.short = none →
          exec (.keeperEntry c) s = .next ((x.popEntry c).kill c p cause sub))) ∧
      (∀ i l e, q.queue = .notice i :: l → mapGet? (s.cluster (clusterOf c)).log i = some e →
        (∀ pc x y, s.handler c e.tag.toNat false 0x18 = (some pc, x) → x.short = none →
          mapGet? (x.cluster (clusterOf c)).log i = some y →
          takes (.sidelogNotice c) x ⟨.notice i, false, e.tag, pc⟩
            [(3, BitVec.ofNat 64 i), (4, BitVec.ofNat 64 y.sub)]) ∧
        (∀ x p, s.handler c e.tag.toNat false 0x18 = (none, x) → x.short = none → (x.popEntry c).ownerOf e = some p →
          exec (.sidelogNotice c) s = .next ((x.popEntry c).kill c p 0x07 e.sub)) ∧
        (∀ x, s.handler c e.tag.toNat false 0x18 = (none, x) → x.short = none → (x.popEntry c).ownerOf e = none →
          exec (.sidelogNotice c) s = .next ((x.popEntry c).freeLog (clusterOf c) i))) ∧
      (∀ tag i dva l pc x, q.queue = .death tag i dva :: l → s.handler c tag.toNat false 0x19 = (some pc, x) → x.short = none →
        takes (.keeperEntry c) x ⟨.death tag i dva, false, tag, pc⟩
          [(3, BitVec.ofNat 64 i), (4, BitVec.ofNat 64 dva)]) ∧
      (∀ m l, q.queue = [] → q.msgs = m :: l → s.builtinWaits c = false →
        (∀ pc x, (s.setPorter c { q with msgs := l }).handler c m.tag.toNat false (32 + m.hidx) = (some pc, x) → x.short = none →
          ∃ t, exec (.keeperEntry c) s = .next t ∧ (t.porter c).msgs = (x.porter c).msgs ∧
            Entered x t c ⟨.message, false, m.tag, pc⟩
              [(3, m.w0), (4, m.w1), (5, m.loc), (6, m.gti.zeroExtend 64)]) ∧
        (∀ x, (s.setPorter c { q with msgs := l }).handler c m.tag.toNat false (32 + m.hidx) = (none, x) → x.short = none →
          exec (.keeperEntry c) s = .next x))) ∧
    ∀ i l e, q.queue = .landlord i :: l → q.cur = some e →
      (e.landlord = false → ∀ pc x, s.handler c e.tag.toNat true i.cause = (some pc, x) → x.short = none →
        ∃ t fd0, exec (.landlordEntry c) s = .next t ∧
          Fault0 fd0 (s.gtiOf c 6) false i.upper (impCause i.cause) i.sub i.cause ∧
          Entered (x.popEntry c |>.pushEntry c) t c ⟨.landlord i, true, e.tag, pc⟩ [(3, 6), (4, fd0)] ∧
          (t.porter c).stack = ((x.popEntry c).pushEntry c |>.porter c).stack) ∧
      (e.landlord = true → ∃ t, exec (.machineCheck c) s = .next t ∧ (t.core c).machine = true ∧
        t.porch.checks = s.porch.checks ++ [c] ∧
        (∃ g ∈ t.net, g.msg = .check c ∧ g.vc = vcSYS ∧ g.ddie = dieOf c ∧ g.dstop = stopSched) ∧
        (∀ p < 6, (s.strand c p).st = .run ∨ (s.strand c p).st = .trapped → (t.strand c p).st = .stopped) ∧
        ∀ p < 6, (s.strand c p).st = .waitMem → (t.strand c p).stopPending = true)

/-- The side log replays an entry that is due: a piece that still faults stays with a new notice; else it performs and
is freed. A task's death purges it: its GTI is filtered, its position IDLE; a full filter lets it wait, and so do
bytes that it must write through and a region or the host holds. A filter entry retires once nothing older is under
way. A death notice is written to its ring at the producer index, and waits while the ring has no room or an access
to it must wait (R165, R167, R170 to R172, R361). What a change of a death is short of is written all the same (log
97). -/
def Claim.ReplayAndDeaths : Prop :=
  ∀ s : State,
    (∀ cl i e, s.replayDue cl i = some e →
      (∀ n x, s.translate e.core cl e.tag.toNat e.landlord e.act e.dva = (.error n, x) → x.short = none →
        ∃ t, exec (.sidelogReplay cl i) s = .next t ∧
          mapGet? (t.cluster cl).log i = some { e with sub := n } ∧
          (t.porter e.core).queue = (x.porter e.core).queue ++ [.notice i]) ∧
      (∀ l x, s.translate e.core cl e.tag.toNat e.landlord e.act e.dva = (.ok l, x) → e.act = .store →
        l.near = true → l.kind ≠ .strong →
        let vd := (s.spaceOf cl e.tag.toNat e.landlord).1
        let k := keyOf l vd e.dva
        x.blocked k.1 l k.2 e.data.length true = false → x.busyAt k.1 l k.2 e.data.length = false →
        ((x.putStore e.core e.pos l k.1 vd k.2 e.data).freeLog cl i).short = none →
        exec (.sidelogReplay cl i) s =
          .next ((x.putStore e.core e.pos l k.1 vd k.2 e.data).freeLog cl i))) ∧
    (∀ c p cause sub : Nat, cause < 256 → sub < 256 → (s.strand c p).dying = some (cause, sub) →
      (s.purgeHeld c p = true → exec (.taskDeath c p (BitVec.ofNat 8 cause) (BitVec.ofNat 8 sub)) s = .next s) ∧
      (s.purgeHeld c p = false → ∃ t, exec (.taskDeath c p (BitVec.ofNat 8 cause) (BitVec.ofNat 8 sub)) s = .next t ∧
        (t.strand c p).st = .idle ∧ (t.strand c p).dying = none)) ∧
    (∀ d j e, (s.die d).filter[j]? = some e → s.draining d e.2 = false →
      ∃ t, exec (.deadFilterRetire d j) s = .next t ∧ (t.die d).filter = (s.die d).filter.eraseIdx j) ∧
    (∀ d n x p v, n.img.vd = x →
      let r := s.ringOf d n
      r.base ≠ 0 → 2 ≤ r.size → s.ringRead d r x r.base = some (p, v) →
      ∀ q w, v.ringRead d r x (r.base + 8) = some (q, w) → w.short = none →
        let prod := p % 65536
        let dva := r.base + 64 + 32 * prod
        ((prod + 1) % r.size = q % 65536 → s.ringPut d n = none) ∧
        ((prod + 1) % r.size ≠ q % 65536 → ∀ y z,
          w.ringWrite d r x dva (n.bytes.map (⟨·, false⟩)) = some y →
          y.ringWrite d r x r.base (natBytes 8 ((prod + 1) % r.size)) = some z →
          ∃ t, s.ringPut d n = some t ∧ (∀ c tag, r.core = some (c, tag) →
            (t.porter c).queue = (z.porter c).queue ++ [.death tag prod dva]))) ∧
    (∀ i f n, s.flit? i = some f → f.msg = .death n →
      let e := Instr.deathNotice i
      let kept := ({ s.drop i with
        porch := { (s.drop i).porch with notices := (s.drop i).porch.notices ++ [n] } } : State).ringCount n
      (s.porch.notices.any n.sameRing = true ∨ (s.drop i).ringPut f.ddie n = none →
        exec e s = .next (if kept.short = none then kept else s)) ∧
      (s.porch.notices.any n.sameRing = false → ∀ t, (s.drop i).ringPut f.ddie n = some t →
        exec e s = .next (if t.short = none then t else s))) ∧
    ∀ j n, s.porch.notices[j]? = some n → (s.porch.notices.take j).any n.sameRing = false →
      ∀ x, s.ringPut n.die n = some x →
        let t := ({ x with porch := { x.porch with notices := x.porch.notices.eraseIdx j } } : State).ringCount n
        exec (.noticeRingDrain j) s = .next (if t.short = none then t else s)

/-- Memory errors and the patrol scrub: a fill that meets a bad burst marks it, logs it, and everything of its virtual
device dies; a fill made in one step then leaves its queue; the scrub goes over the bursts of a stack in order, and
marks what it finds bad; a pass starts on all eight stacks with the next key version once none runs (R169, R173,
R413). -/
def Claim.MemoryErrors : Prop :=
  ∀ (s : State) (d : Nat),
    let marked (t : State) (b : Nat) : Prop := ∀ j < 8, setHas t.memP (8 * b + j) = true
    (∀ k r, (s.die d).hbm[k]? = some r → r.served = true → r.bursts = 1 →
      setHas s.badBursts (r.addr / 64) = true →
      let y := ((s.markBurst (r.addr / 64)).logError d r.addr r.vd).killVd r.vd
      ((∃ f ∈ y.net, f.msg = .fill r) → exec (.hbmUncorrectableError d k) s = .next y) ∧
      ((∀ f ∈ y.net, f.msg ≠ .fill r) → exec (.hbmUncorrectableError d k) s =
        .next (y.setDie d { y.die d with hbm := (y.die d).hbm.filter (· ≠ r) })) ∧
      marked (s.markBurst (r.addr / 64)) (r.addr / 64)) ∧
    (∀ n ok, (s.die d).scrub = some n →
      let b := d * 2 ^ 31 + n
      ∃ t, exec (.patrolScrubBurst d ok) s = .next t ∧
        (t.die d).scrub = (if n + 1 < 80 * 2 ^ 30 / 64 then some (n + 1) else none) ∧
        (setHas s.rekeyed b = true → t.memP = s.memP ∧ setHas t.rekeyed b = false) ∧
        (setHas s.rekeyed b = false → ok = true → setHas s.badBursts b = false → t.memP = s.memP) ∧
        (setHas s.rekeyed b = false → ok = false ∨ setHas s.badBursts b = true → marked t b)) ∧
    ((∀ k < 8, (s.die k).scrub = none) → ∃ t, exec .scrubPassStart s = .next t ∧
      (∀ k < 8, (t.die k).scrub = some 0) ∧ t.porch.keyver = s.porch.keyver + 1 ∧ t.rekeyed = [])

/-- An error that a memory array shows: a corrected one of a local store is counted; an uncorrectable word of a local
store is marked, its bytes standing; one in a cluster cache loses its C bytes, which are fetched again, and marks
the others; one of a home marks all but V bytes (R86, R169, R318; when one shows is an input, log 33). -/
def Claim.ArrayErrors : Prop :=
  ∀ s : State,
    (∀ c w a, lsByte ((s.strike (.lsWord c w)).core c) a =
      ⟨(lsByte (s.core c) a).v, (lsByte (s.core c) a).p || a / 8 = w⟩) ∧
    (∀ c w, { s.strike (.lsWord c w) with cores := s.cores } = s) ∧
    (∀ c vd n k, mapGet? (s.core c).counters n = some k → mapGet? ((s.strike (.corrected c vd)).core c).counters n = some
      (if k.en = true ∧ k.event = 0x0A ∧ (k.own = false ∨ k.vd = vd) then { k with count := k.count + 1 } else k)) ∧
    (∀ cl sp a, let l := ((s.strike (.cacheWord cl sp a)).cluster cl).cache
      (∀ e ∈ l, e.sp = sp → e.st = .c → e.data ≠ [] → overlaps e.start e.data.length (a / 8 * 8) 8 = false) ∧
      ∀ e ∈ (s.cluster cl).cache, (e.sp ≠ sp → e ∈ l) ∧ (e.sp = sp → e.st ≠ .c → ∃ x ∈ l, { x with data := e.data } = e ∧
        x.data.length = e.data.length ∧ ∀ j b, e.data[j]? = some b →
          x.data[j]? = some ({ v := b.v, p := b.p || (e.start + j) / 8 = a / 8 } : PByte))) ∧
    (∀ sl sp a, let l := ((s.strike (.homeWord sl sp a)).slice sl).exts
      l.length = (s.slice sl).exts.length ∧
      ∀ e ∈ (s.slice sl).exts, (e.sp ≠ sp ∨ e.st = .v ∨ e.fill = true → e ∈ l) ∧
        (e.sp = sp → e.st ≠ .v → e.fill = false → ∃ x ∈ l, { x with data := e.data } = e ∧
          ∀ j b, e.data[j]? = some b → x.data[j]? = some ({ v := b.v, p := b.p || (e.start + j) / 8 = a / 8 } : PByte))) ∧
    ∀ b, { s.strike (.burst b) with badBursts := s.badBursts } = s ∧ setHas (s.strike (.burst b)).badBursts b = true

/-- Side-log replay, deaths and their notices, memory errors and the scrub. -/
def Obligations.ReplayDeathsAndErrors : Prop :=
  Claim.ReplayAndDeaths ∧ Claim.MemoryErrors ∧ Claim.ArrayErrors

/-- Task queues: an idle pool strand pops the oldest record of the highest priority of its device and starts it with the
registers of R64; a record that has waited moves up a priority; the oldest spilled record fills a free entry; a
spawned record is enqueued under the matching tag with a new GTI or refused, in a cycle of position 6 that nothing
else uses (R45); a hungry cluster reserves four entries and asks its next neighbour, which ships min(4, ⌈q/2⌉)
eligible records, the best first; when every neighbour has answered empty, 1,024 cycles follow; which neighbour
comes next is log 101's choice (R62 to R64, R67, R68, R339). -/
def Obligations.TaskQueues : Prop :=
  ∀ (s : State) (cl : Nat),
    let k := s.cluster cl
    let quiet : Prop := ∀ c ∈ coresOf cl, ∀ p < 6, s.waitOf c p ≠ .queue
    (∀ c p n l t, clusterOf c = cl → (s.strand c p).member = .pool n → (s.strand c p).st = .idle → s.coreOpen c = true →
      mapGet? s.porch.launches n = some l → l.retired = false → s.leaseAllows l.vd = true →
      t ∈ k.queue → (s.ctx cl t.tag.toNat).loaded = true → (s.ctx cl t.tag.toNat).img.vd = l.vd → t.prio < 4 →
      (∀ u ∈ k.queue, u ≠ t → ((s.ctx cl u.tag.toNat).loaded = true → (s.ctx cl u.tag.toNat).img.vd = l.vd) →
        t.prio < u.prio ∨ (t.prio = u.prio ∧ t.time < u.time)) →
      ∃ x, exec (.taskPop c p) s = .next x ∧
        (quiet → (x.cluster cl).queue = k.queue.erase t) ∧
        let y := x.strand c p
        y.gti = t.gti ∧ y.parent = t.parent ∧ y.tag = t.tag ∧ y.join = t.join ∧ y.member = .pool n ∧
        y.regs.pc = t.pc ∧ y.regs.fs = 0 ∧ y.regs.g = (s.ctx cl t.tag.toNat).img.tmpl ∧
        (∀ i, y.regs.getS i = (if i = 2 then ⟨BitVec.ofNat 64 (0x5200 + 512 * p), false⟩
          else if i = 3 then ⟨t.frame, false⟩ else if i = 4 then ⟨t.join, false⟩
          else if i = 5 then ⟨t.arg, false⟩ else ⟨0, false⟩ : PWord)) ∧
        ((s.die (dieOf c)).stops.contains t.gti = false → y.st = .run)) ∧
    (∀ j t, k.queue[j]? = some t → t.prio ≠ 0 → t.since + 65536 ≤ s.cycle →
      ∃ x, exec (.taskPriorityAging cl j) s = .next x ∧
        (x.cluster cl).queue = k.queue.set j { t with prio := t.prio - 1, since := s.cycle }) ∧
    (∀ t l, k.spill = t :: l → 0 < queueRoom k → quiet →
      ∃ x, exec (.spillRefill cl) s = .next x ∧ (x.cluster cl).queue = k.queue ++ [{ t with cell := 0 }] ∧
        (x.cluster cl).spill = l) ∧
    (∀ i f core task score spos op img, s.flit? i = some f → f.msg = .spawn core task score spos op img →
      s.builtinReady core = true → s.free6 core = true → clusterOf core = cl → s.short = none →
      let answers (x : State) (v : Word) : Prop :=
        ∃ q, Answered { s with nextId := q } x f (.ack score spos op v false false none)
      (img = none → ∃ x, exec (.spawnReceive i) s = .next x ∧ answers x 0) ∧
      (∀ y, img = some y → s.findCtx cl y = none → ∃ x, exec (.spawnReceive i) s = .next x ∧ answers x 0) ∧
      (∀ y tag, img = some y → s.findCtx cl y = some tag → k.spill = [] → 0 < queueRoom k →
        ∃ x, exec (.spawnReceive i) s = .next x ∧ answers x 1 ∧ (x.cluster cl).queue = k.queue ++
          [{ task with tag := BitVec.ofNat 4 tag, gti := (s.newGti (dieOfCluster cl) y.vd).1
                       time := s.cycle, since := s.cycle }])) ∧
    (∀ vd v, k.queue = [] → k.spill = [] → 4 ≤ queueRoom k → s.hungry cl vd = true → s.leaseAllows vd = true →
      let x := mapGet Steal.init k.steal vd
      let l := s.neighbours cl vd
      x.waiting = false → x.retryAt = none → l[x.next % l.length]? = some v →
      ∃ t, exec (.stealRequest cl vd) s = .next t ∧
        mapGet Steal.init (t.cluster cl).steal vd = { x with waiting := true } ∧
        ∃ g ∈ t.net, g.msg = .steal v cl vd ∧ g.vc = vcMSG ∧ g.ddie = dieOfCluster v ∧ g.dstop = stopOfCluster v) ∧
    (∀ i f thief vd, s.flit? i = some f → f.msg = .steal cl thief vd → thief ≠ cl → quiet →
      let ok := k.queue.filter fun t => (s.ctx cl t.tag.toNat).loaded && (s.ctx cl t.tag.toNat).img.vd = vd &&
        (s.findCtx thief (s.ctx cl t.tag.toNat).img).isSome
      let x := mapGet Steal.init (s.cluster thief).steal vd
      let n := (s.neighbours thief vd).length
      ∃ t l, exec (.stealShipment i) s = .next t ∧ l.length = min 4 ((ok.length + 1) / 2) ∧ (∀ a ∈ l, a ∈ ok) ∧
        (∀ a ∈ l, ∀ b ∈ ok, b ∉ l → a.prio < b.prio ∨ (a.prio = b.prio ∧ a.time ≤ b.time)) ∧
        (t.cluster cl).queue = l.foldl (fun q a => q.erase a) k.queue ∧
        (t.cluster thief).queue = (s.cluster thief).queue ++ l.map (fun a => { a with
          tag := BitVec.ofNat 4 ((s.findCtx thief (s.ctx cl a.tag.toNat).img).getD 0) }) ∧
        (0 < n → mapGet Steal.init (t.cluster thief).steal vd =
          ⟨(x.next + 1) % n, if l = [] ∧ x.asked + 1 < n then x.asked + 1 else 0, false,
            if l = [] ∧ n ≤ x.asked + 1 then some (s.cycle + 1024) else none⟩)) ∧
    ∀ vd n m w a, mapGet? k.steal vd = some ⟨n, m, w, some a⟩ → a ≤ s.cycle →
      ∃ t, exec (.stealRetryTimer cl) s = .next t ∧ mapGet? (t.cluster cl).steal vd = some ⟨n, m, w, none⟩

/-- Pools and launches: an idle pool strand leaves at its limit, and all idle ones when the keeper retires the launch; a
band goes to the lowest clusters on which it fits, and waits while one of them has no slot for its context, with the
registers of R55 in each strand; a launch without strands left closes, is counted, and reports to the host; with a
join counter it first performs its JOIN (R54, R55, R57 to R59, R70, R348, R393). -/
def Claim.PoolsAndLaunches : Prop :=
  ∀ s : State,
    (∀ c p n l, (s.strand c p).member = .pool n → (s.strand c p).st = .idle → s.coreOpen c = true →
      mapGet? s.porch.launches n = some l → l.idle ≠ 0 → (s.strand c p).idleSince + l.idle ≤ s.cycle →
      ∃ t, exec (.poolIdleTimeout c p) s = .next t ∧ (t.strand c p).member = .none ∧ (t.strand c p).st = .idle ∧
        mapGet? t.porch.launches n = some { l with live := l.live - 1, lastCluster := clusterOf c }) ∧
    (∀ n l, mapGet? s.porch.launches n = some l → l.pool = true →
      ∃ t x, exec (.launchRetirement n) s = .next t ∧ mapGet? t.porch.launches n = some x ∧ x.retired = true ∧
        ∀ q ∈ s.idleOf n, (t.strand q.1 q.2).member = .none) ∧
    (∀ q vd r cls, q < 8 → s.queueHead q vd = some r → s.leaseAllows vd = true → r.host = none →
      lPool r.dws = false → s.bandPlace q r r.img = some cls →
      let b := lBand r.dws
      let fits (k : Nat) : Bool := s.crewFits k (lCores r.dws) (lStrands r.dws) r.img
      cls.length = b ∧ (∀ k ∈ cls, fits k = true ∧ k / 512 = q) ∧
        (∀ k, k / 512 = q → fits k = true → k ∉ cls → ∀ j ∈ cls, j < k) ∧
        ((∃ k ∈ cls, s.loadCtx k r.img = none) → exec (.launchPlacement q vd) s = .next s) ∧
        ((∀ k ∈ cls, (s.loadCtx k r.img).isSome = true) → ∃ t n, exec (.launchPlacement q vd) s = .next t ∧
          mapGet [] (t.die q).launchQ vd = (if r.bands + 1 < lCrews r.dws / b then
            [{ r with launch := some n, bands := r.bands + 1 }] else []) ++ (mapGet [] (s.die q).launchQ vd).drop 1)) ∧
    (∀ r img n cl rank tag x cores, s.loadCtx cl img = some (tag, x) →
      x.crewCores cl (lCores r.dws) (lStrands r.dws) img = some cores →
      ∀ a b c p, cores[a]? = some c → ((x.freePos c).take (lStrands r.dws))[b]? = some p →
        let y := (s.placeCrew r img n cl rank).strand c p
        y.parent = r.parent ∧ y.tag = BitVec.ofNat 4 tag ∧
        y.member = .crew n r.bands rank (a * lStrands r.dws + b) ∧
        y.regs.pc = lPc r.dws ∧ y.regs.g = img.tmpl ∧ y.regs.fs = 0 ∧
        (∀ i, y.regs.getS i = ⟨if i = 3 then lArg r.dws
          else if i = 4 then BitVec.ofNat 64 (a * lStrands r.dws + b) else if i = 5 then BitVec.ofNat 64 rank
          else if i = 6 then BitVec.ofNat 64 (lCores r.dws * 256 + lStrands r.dws)
          else if i = 7 then BitVec.ofNat 64 (lBand r.dws) else 0, false⟩) ∧
        ((s.die (dieOf c)).stops = [] → y.st = .run)) ∧
    ∀ n l, mapGet? s.porch.launches n = some l → l.toPlace = 0 → l.live = 0 →
      (l.join = 0 → ∃ t, exec (.launchComplete n) s = .next t ∧ mapGet? t.porch.launches n = none ∧
        (t.vf l.vd).nlaunch = (s.vf l.vd).nlaunch + 1 ∧
        ∀ vf slot, l.host = some (vf, slot) →
          (t.vf vf).pend = (s.vf vf).pend ++ [completionBytes 0 slot 1 0 0 0 0]) ∧
      (l.join ≠ 0 → ∀ x, s.launchJoin l = some x → x.short = none →
        exec (.launchComplete n) s = .next (x.closeLaunch n l))

/-- Migration: an eligible strand moves to an idle pool strand of the target die with its registers, its GTI and its
task window, after its release at .dev; with none it only starts its count again (R73 to R75). -/
def Claim.Migration : Prop :=
  ∀ (s : State) (c p : Nat), s.mayMigrate c p = true → p < 6 →
    let x := s.strand c p
    let img := (s.ctx (clusterOf c) x.tag.toNat).img
    (s.migrationTarget x.target img.vd img = none →
      exec (.migration c p) s = .next (s.setStrand c p { x with remote := 0 })) ∧
    ∀ d q n, s.migrationTarget x.target img.vd img = some (d, q, n) → s.releaseHeld c p = false →
      let b := s.releaseAll c p
      b.short = none →
      (((b.setCore d (lsRaw (b.core d) (0x5000 + 512 * q) ((b.areaOf c p).drop 0x600))).endStrand c p false).handler d n false
        0x13).2.short = none →
      let same (r : RegSet) : Prop := (∀ i, r.getS i = x.regs.getS i) ∧ (∀ i, r.getP i = x.regs.getP i) ∧
        (∀ i, r.getK i = x.regs.getK i) ∧ r.v = x.regs.v ∧ r.vp = x.regs.vp ∧ r.g = x.regs.g ∧ r.fs = x.regs.fs ∧
        r.pc = x.regs.pc
      ∃ t, exec (.migration c p) s = .next t ∧ (t.strand c p).st = .idle ∧
        same (t.strand d q).regs ∧ (t.strand d q).gti = x.gti ∧ (t.strand d q).parent = x.parent ∧
        (t.strand d q).tag = BitVec.ofNat 4 n ∧ (t.strand d q).remote = 0 ∧
        (∀ j < 512, lsByte (t.core d) (0x5000 + 512 * q + j) = lsByte (s.core c) (0x5000 + 512 * p + j)) ∧
        ((s.die (dieOf d)).stops.contains x.gti = false → (t.strand d q).st = .run)

/-- Pools, launches and migration. -/
def Obligations.PoolsAndMigration : Prop :=
  Claim.PoolsAndLaunches ∧ Claim.Migration

/-- Messages and channel waits: a message of a filtered task or without a matching context is discarded, one for a saved
core is kept with it, one for a busy porter waits in order, else its handler runs; a channel wait whose condition
holds takes its words now, else the words of other devices at the heads that it looks at are dropped, and one past
its limit traps with the first position that was not ready; BREAK fires where a slot names the strand's pc and its
task, or that pc for its device (R326, R331, R171, R176, R406). -/
def Claim.ArrivalsAndWaits : Prop :=
  ∀ s : State, s.short = none →
    (∀ i f c hidx w0 w1 loc img, s.flit? i = some f → f.msg = .amsg c hidx w0 w1 loc img →
      let e := Instr.messageArrival i
      let x := s.drop i
      let q := s.porter c
      let dead : Prop := ∃ n, (f.gti, n) ∈ (s.die (dieOf c)).filter
      (dead → ∃ t, exec e s = .next t ∧ (t.die (dieOf c)).discarded = (s.die (dieOf c)).discarded + 1 ∧
        t.net = x.net ∧ t.cores = s.cores) ∧
      (¬ dead → s.findCtx (clusterOf c) img = none → exec e s = .next x) ∧
      (∀ tag, ¬ dead → s.findCtx (clusterOf c) img = some tag →
        let m : UserMsg := ⟨BitVec.ofNat 4 tag, hidx, w0, w1, loc, f.gti⟩
        let x := x.useCtx (clusterOf c) tag
        (∀ v, (s.core c).saved = some v → (x.spillMsg c v (some m)).short = some none → exec e s = .next s) ∧
        (∀ v, (s.core c).saved = some v → (x.spillMsg c v (some m)).short ≠ some none →
            v.msgs.length < (0x10000 - 0x6440) / 64 →
          ∃ t, exec e s = .next t ∧ (t.core c).saved = some { v with msgs := v.msgs ++ [some m] }) ∧
        (∀ v, (s.core c).saved = some v → (x.spillMsg c v (some m)).short ≠ some none →
            (0x10000 - 0x6440) / 64 ≤ v.msgs.length →
          ∃ t, exec e s = .next t ∧ (t.core c).saved = some { v with lost := v.lost + 1 }) ∧
        ((s.core c).saved = none → s.builtinReady c = false ∨ q.msgs ≠ [] ∨ x.builtinWaits c = true →
          exec e s = .next (x.setPorter c { q with msgs := q.msgs ++ [m] })) ∧
        ((s.core c).saved = none → s.builtinReady c = true → q.msgs = [] → x.builtinWaits c = false →
          ∀ h y, (x.setPorter c q).handler c m.tag.toNat false (32 + hidx) = (h, y) →
            (y.short ≠ none → exec e s = .next (x.setPorter c { q with msgs := [m] })) ∧
            (y.short = none → h = none → exec e s = .next y) ∧
            (∀ pc, y.short = none → h = some pc → ∃ t, exec e s = .next t ∧ Entered y t c ⟨.message, false, m.tag, pc⟩
              [(3, w0), (4, w1), (5, loc), (6, f.gti.zeroExtend 64)])))) ∧
    ∀ c p, p < 6 →
      let x := s.strand c p
      let vd := (s.ctx (clusterOf c) x.tag.toNat).img.vd
      (∀ since a b d dst, x.st = .waitMsg → x.wait = .channel since a b d dst →
        (s.chNotReady c vd a b d dst = none → x.stopPending = false →
          ∃ t, exec (.channelTransfer c p) s = .next t ∧ t.due = some ⟨c, p⟩ ∧ (t.strand c p).st = .run ∧
            (t.strand c p).wait = .none ∧ (t.strand c p).regs = x.regs) ∧
        (∀ port wr, s.chNotReady c vd a b d dst = some (port, wr) →
          exec (.channelTransfer c p) s = .next (s.chScan c vd [a, b, d])) ∧
        (∀ port wr, s.chNotReady c vd a b d dst = some (port, wr) → x.limit ≠ 0 → since + x.limit.toNat < s.cycle →
          TrapsAt (.channelTimeout c p) s c p { cause := 0x0B, info := port + if wr then 4 else 0 })) ∧
      (x.st = .run → x.breakDone = false →
        (∃ e ∈ s.porch.brk, e.2.getLsbD 63 = true ∧ e.2.extractLsb' 32 24 = x.regs.pc ∧
          (e.2.extractLsb' 0 32 = x.gti ∨ (e.2.extractLsb' 0 32 = 0 ∧ e.1 / 8 = vd))) →
        TrapsAt (.breakHit c p) s c p { cause := 0x11 })

/-- Barrier completion: what remains of a crew completes its phase when all of it has arrived, and the members that wait
for it go on; the crews of a band complete theirs when the last one's arrival reaches the die scheduler, which keeps
the others until then (R335, R336). -/
def Claim.BarrierEvents : Prop :=
  ∀ (s : State) (cl i : Nat),
    let u := mapGet BarUnit.init (s.cluster cl).bars i
    (u.used = true → u.count = u.live → 0 < u.live → u.bandFull = false →
      ∃ t, exec (.barrierCompletion cl i) s = .next t ∧
        mapGet BarUnit.init (t.cluster cl).bars i = { u with phase := !u.phase, count := 0 } ∧
        ∀ c p k m, clusterOf c = cl → p < 6 → s.unitOf c p = some (i, u) → (s.strand c p).member = .crew u.launch u.band k m →
          (s.strand c p).wait = .barrier → (s.strand c p).gen ≠ u.phase → (s.strand c p).stopPending = false →
          (t.strand c p).st = .run ∧ (t.strand c p).wait = .none ∧
            (t.strand c p).regs = { (s.strand c p).regs with pc := (s.strand c p).regs.pc + 1 }) ∧
    (∀ j f l b k e tok, s.flit? j = some f → f.msg = .bandArrive l b k →
      (s.die f.ddie).bands.find? (fun e => e.2.launch = l && e.2.band = b) = some (e, tok) →
      let arrived := setAdd tok.arrived k
      ((∃ n ∈ tok.clusters, setHas arrived n = false) → ∃ t, exec (.bandBarrierArrival j) s = .next t ∧
        mapGet? (t.die f.ddie).bands e = some { tok with arrived := arrived }) ∧
      ((∀ n ∈ tok.clusters, setHas arrived n = true) → tok.clusters.Nodup → ∃ t, exec (.bandBarrierArrival j) s = .next t ∧
        mapGet? (t.die f.ddie).bands e = some { tok with arrived := [] } ∧
        ∀ n ∈ tok.clusters, ∀ m v,
          (s.cluster n).bars.find? (fun e => e.2.used && e.2.launch = l && e.2.band = b) = some (m, v) →
          mapGet? (t.cluster n).bars m = some { v with bandPhase := !v.bandPhase }))

/-- Messages, channel waits, BREAK and the completion of barriers. -/
def Obligations.ArrivalsWaitsAndBarriers : Prop :=
  Claim.ArrivalsAndWaits ∧ Claim.BarrierEvents

/-- Regions at the ROU: the oldest edge that waits is entered unless it closes a cycle, whose youngest region then
aborts as CYCLE; it forwards a value when no chain of more than four regions arises (log 124); a region whose strand
has issued FRE commits once no uncommitted region precedes it, and frees its slot; one whose strand is gone aborts
as FORCED (R352, R357, R360, R363). -/
def Claim.RegionEvents : Prop :=
  ∀ (s : State) (d : Nat),
    let r := s.rou d
    (∀ i j fwd l, r.pend = (i, j, fwd) :: l → mapGet? r.slots i ≠ none → mapGet? r.slots j ≠ none →
      (closes r.e j i = false → ∃ t, exec (.rouEdgeCheck d) s = .next t ∧ (t.rou d).pend = l ∧
        (∀ e, e ∈ (t.rou d).e ↔ e ∈ r.e ∨ e = (i, j)) ∧
        (∀ e, e ∈ (t.rou d).f ↔ e ∈ r.f ∨ (fwd = true ∧ chainLong r i j = false ∧ e = (i, j))) ∧
        (fwd = false ∨ chainLong r i j = true → (t.rou d).slots = r.slots) ∧
        (fwd = true → chainLong r i j = false → slotDepth r i < slotDepth (t.rou d) j ∧
          ∀ n, slotDepth r n ≤ slotDepth (t.rou d) n)) ∧
      (closes r.e j i = true → ∀ y k, mapGet? r.slots y = some k →
        (y = i ∨ y = j ∨ (y < 256 ∧ closes r.e j y = true ∧ closes r.e y i = true)) →
        (∀ z m, mapGet? r.slots z = some m → z ≠ y →
          (z = i ∨ z = j ∨ (z < 256 ∧ closes r.e j z = true ∧ closes r.e z i = true)) → m.seq < k.seq) →
        exec (.rouEdgeCheck d) s = .next (((s.setRou d { r with pend := l }).edgeAnswer d j).abortRegion d y 1 j 256))) ∧
    (∀ slot k, mapGet? r.slots slot = some k → k.fre = true → (∀ e ∈ r.e, e.2 ≠ slot) → k.pos < 6 → dieOf k.core = d →
      s.commitHeld d slot = false → (s.commitRegion d (clusterOf k.core) slot).short = none →
      let x := s.strand k.core k.pos
      ∃ t, exec (.regionCommit d slot) s = .next t ∧ mapGet? (t.rou d).slots slot = none ∧
        (t.strand k.core k.pos).region = none ∧
        (x.st = .waitMsg → x.wait = .fre → x.stopPending = false →
          (t.strand k.core k.pos).regs = { x.regs with pc := x.regs.pc + 1 } ∧ (t.strand k.core k.pos).st = .run)) ∧
    ∀ slot k, mapGet? r.slots slot = some k → k.pos < 6 →
      let x := s.strand k.core k.pos
      (x.region ≠ some slot ∨ x.st = .idle ∨ (s.ctx (clusterOf k.core) x.tag.toNat).loaded = false) →
      exec (.regionAbort d slot 8) s = .next (s.abortRegion d slot 8 slot 256)

/-- Jobs: an engine takes the waiting job that left its last edge first once it runs none; a unit step retires whole at
its place in the nest, innermost level first, or the job stops there with the step's status; a cellar engine serves
the virtual devices in turn, each one's jobs in order; a completion word that had to wait is written once it can be;
an end is reported, frees the dependants of a job that is done, and ends the others as PREDECESSOR (R371, R376 to
R378, R386). -/
def Claim.JobEvents : Prop :=
  ∀ (s : State) (cl i : Nat),
    let j := s.job cl i
    let runs : List (Nat × Job) := (s.cluster cl).jobs.filter fun e => e.2.engine = j.engine && e.2.st = .running
    (j.st = .waiting → j.preds = [] → s.leaseAllows j.vd = true → j.engine ≠ 4 → runs = [] →
      (i, j) ∈ (s.cluster cl).jobs →
      (∀ e ∈ (s.cluster cl).jobs, e.1 ≠ i → e.2.engine = j.engine → e.2.st = .waiting → e.2.preds = [] →
        j.ready < e.2.ready) → ((s.cluster cl).jobs.map (·.1)).Nodup →
      exec (.jobStart cl i) s = .next (s.setJob cl i { j with st := .running })) ∧
    (j.st = .waiting → j.preds = [] → s.leaseAllows j.vd = true → j.engine = 4 →
      let b := s.setJob cl i { j with st := .running }
      let dva := (word j.card 11).toNat
      (∀ l x, b.translate j.core cl j.tag.toNat false (.load (.ls 0)) dva = (.ok l, x) →
        ∃ t, exec (.jobStart cl i) s = .next t ∧ (t.job cl i).st = .running ∧ (t.job cl i).cellar = some l.home) ∧
      (∀ n x, b.translate j.core cl j.tag.toNat false (.load (.ls 0)) dva = (.error n, x) →
        ∃ t, exec (.jobStart cl i) s = .next t ∧ (t.job cl i).ending = some (.stopped, 0x8010 + n) ∧
          (t.job cl i).fault = dva)) ∧
    (s.jobTurn cl i = true → (j.engine = 4 → j.cellar ≠ none) →
      (∀ r t, (unitStep ⟨cl, j⟩).run s = .ok (r, t) → t.short = none →
        ∃ x, exec (.jobUnitStep cl i) s = .next x ∧
          let y := x.job cl i
          let k := t.job cl i
          y.retired = k.retired + 1 ∧ y.exc = k.exc + r.exc ∧ y.count = k.count + r.dropped ∧ y.bag = r.bag ∧
            y.ending = (if k.retired + 1 = nestTotal k.card then some (.done, 1) else none) ∧
            x.slices = t.slices ∧ x.mem = t.mem) ∧
      (∀ st status a, (unitStep ⟨cl, j⟩).run s = .error (.stop st status a) →
        exec (.jobUnitStep cl i) s =
          .next ((s.setJob cl i { j with ending := some (st, status), fault := a }).cellarServed j)) ∧
      (∀ h, j.engine = 4 → j.cellar = some h → ((s.setJob cl i j).cellarServed j).die h = { s.die h with cellar := j.vd } ∧
        let far (v : Nat) : Nat := (v + 64 - (1 + (s.die h).cellar) % 64) % 64
        ∀ e ∈ s.cellarJobs (some h), e.vd < 64 → far j.vd ≤ far e.vd ∧ (e.vd = j.vd → j.ready ≤ e.ready))) ∧
    (j.ending = none → j.cwWait ≠ [] → s.cwFar cl i j = none → exec (.jobFinish cl i) s = .next
      (if ((s.cwDrain cl i j.cwWait).job cl i).cwWait = j.cwWait then s else s.cwDrain cl i j.cwWait)) ∧
    (∀ st n, j.st = .running → j.ending = some (st, n) → st ≠ .waiting → ∃ t, exec (.jobFinish cl i) s = .next t ∧
      (t.job cl i).st = st ∧ (t.job cl i).status = n ∧ (t.job cl i).ending = none ∧
      ∀ k x, k ≠ i → (k, x) ∈ (s.cluster cl).jobs → s.job cl k = x → x.st = .waiting → i ∈ x.preds →
        (st = .stopped → t.job cl k = x) ∧
        (st = .done → (t.job cl k).st = .waiting ∧ (t.job cl k).preds = x.preds.filter (· ≠ i)) ∧
        (st ≠ .stopped → st ≠ .done → (t.job cl k).st = .predecessor ∧ (t.job cl k).status = 0x8006)) ∧
    ∀ (c : List Word) (k op : Nat), (∀ l < nestDepth c, nestN c l ≠ 0) → k < nestTotal c →
      let idx := nestIdx c k
      idx.length = nestDepth c ∧ (∀ l < nestDepth c, idx.getD l 0 < nestN c l) ∧
        k = ((List.range (nestDepth c)).map fun l =>
          idx.getD l 0 * ((List.range l).map (nestN c)).foldl (· * ·) 1).sum ∧
        nestAddr c idx op = (word c (10 + op)).toNat +
          64 * ((List.range (nestDepth c)).map fun l => (idx.getD l 0 : Int) * nestStride c l op).sum

/-- What the unit steps compute, by the kind of the card. MATMUL reads sixteen rows of A and sixteen columns of B as
runs of blocks, adds each pair's dot product to its accumulator and writes the tile; COPY writes bytes as they
stand, or one row converted into blocks or into a plain array, INT32 clamped; GATHER writes the row that the index
names, or zeros for an index out of range, one by one or summed over a bag; CELLAR writes one dot product. Reads and
writes stand in the order of the program of the step, so one that fails ends it there (R146, R149, R153, R379, R381,
R382, R383; the value of a poison element in an INT32 array is open, log 63). -/
def Claim.UnitSteps : Prop :=
  ∀ (r : Run) (idx : List Nat),
    let c := r.job.card
    let a := nestAddr c idx 0
    let b := nestAddr c idx 1
    let t := nestAddr c idx 2
    let fa := cardFmtA c
    let fb := cardFmtB c
    let fc := cardFmtC c
    let rm := rmodeOf r.job.rm
    let sat := cardSat c
    let w := word c 21
    let size (code : Nat) : Nat := if code = 0x21 ∨ code = 0x22 then 2 else 4
    let bytes (code : Nat) (l : List (Nat × Bool)) : List PByte := l.flatMap fun x => natBytes (size code) x.1
    let counted (l : List (Nat × Bool)) : Nat := (l.filter (·.2)).length
    let Out (code : Nat) (x : Option Nat × Flags) (o : Nat × Bool) : Prop :=
      WritesPlain code rm sat x.2 (match x.1 with | none => .poison | some v => .val (fpDec fmt32 v)) o
    let row32 (es : List Elem) (row : List (Option Nat)) : Prop := row.length = es.length ∧
      ∀ j (h : j < es.length) (h' : j < row.length), match es[j] with
        | .poison => row[j] = none
        | .val v => ∃ x, Converted fmt32 .rne false v x ∧ row[j] = some x.1
    let plain (row : List (Option Nat)) (out : List (Nat × Bool)) : Prop := out.length = row.length ∧
      ∀ j (h : j < row.length) (h' : j < out.length), Out fc (row[j], 0) out[j]
    (∃ tile : List (List Elem) → List (List Elem) → List (Option Nat) → List (Nat × Bool),
      (∀ rows cols acc, rows.length = 16 → cols.length = 16 → acc.length = 256 →
        (tile rows cols acc).length = 256 ∧ ∀ i < 16, ∀ j < 16,
          Out fc (dot sat (rows.getD i []) (cols.getD j []) (acc.getD (16 * i + j) none))
            ((tile rows cols acc).getD (16 * i + j) (0, false))) ∧
      matmulStep r idx = do
        let k := (w.extractLsb' 0 24).toNat
        let ar := (w.extractLsb' 24 20).toNat
        let br := (w.extractLsb' 44 20).toNat
        let cb : BitVec 128 := word c 23 ++ word c 22
        let rows ← (List.range 16).mapM fun i => engBlocks r cb k (some ar) (a + 64 * ar * i)
        let cols ← (List.range 16).mapM fun i => engBlocks r cb k (some br) (b + 64 * br * i)
        let acc ← engInit r t 256 fc
        engWrite r t (bytes fc (tile rows cols acc))
        pure { exc := counted (tile rows cols acc) }) ∧
    (let k := (w.extractLsb' 0 32).toNat
    (fa = fc → copyStep r idx = do
      let x ← engRead r a k
      engWrite r t x
      pure { exc := 0 }) ∧
    (fa ≠ fc → fc ≤ 10 → copyStep r idx = do
      let es ← engElems r fa k none a
      let n := blockCount fc
      let sc := ((word c 22).extractLsb' 0 8).toInt
      let parts := (List.range ((k + n - 1) / n)).map fun j => (es.drop (n * j)).take n
      engWrite r t (parts.flatMap fun x => natBytes 64 (packInto r.job.codebook fc rm sat sc (fc + natOf 8 sc * 256) 0
        (if fc = 10 then x else x ++ List.replicate (n - x.length) (.val (.fin false 0 0)))).1)
      pure { exc := (parts.map (blockExc r.job.codebook fc rm sat sc)).sum }) ∧
    (fa ≠ fc → fc = 0x23 → ∃ out : Nat → List Elem → List (Nat × Bool),
      (∀ k es, (out k es).length = es.length ∧ ∀ j (h : j < es.length) (h' : j < (out k es).length), match es[j] with
        | .poison => (out k es)[j].2 = true
        | .val (.nan _) => (out k es)[j] = (0, true)
        | .val (.inf n) => (out k es)[j] = (if n then 2 ^ 31 else 2 ^ 31 - 1, true)
        | .val (.fin n m e) => ∃ i cl x, Confines rm (-2 ^ 31) (2 ^ 31 - 1) n ((worth n m e : ℚ) : ℝ) i cl x ∧
          (out k es)[j] = ((i % 2 ^ 32).toNat, cl)) ∧
      copyStep r idx = do
        let es ← engElems r fa k none a
        let s ← get
        set { s with free := s.free + es.length }
        engWrite r t (bytes fc (out s.free es))
        pure { exc := counted (out s.free es) }) ∧
    (fa ≠ fc → 0x20 ≤ fc → fc ≤ 0x22 → ∃ out : List Elem → List (Nat × Bool),
      (∀ es, (out es).length = es.length ∧ ∀ j (h : j < es.length) (h' : j < (out es).length),
        WritesPlain fc rm sat 0 es[j] (out es)[j]) ∧
      copyStep r idx = do
        let es ← engElems r fa k none a
        engWrite r t (bytes fc (out es))
        pure { exc := counted (out es) })) ∧
    (∃ (row : List Elem → List (Option Nat)) (out : List (Option Nat) → List (Nat × Bool))
        (sum : List (Option Nat) → List (Option Nat)),
      (∀ es, row32 es (row es)) ∧ (∀ x, plain x (out x)) ∧
      (∀ x, idx.getD 0 0 = 0 → sum x = x) ∧
      (∀ x, idx.getD 0 0 ≠ 0 → x.length = r.job.bag.length → (sum x).length = x.length ∧
        ∀ j < x.length, (sum x).getD j none = match r.job.bag.getD j none, x.getD j none with
          | some p, some q => some (fpAdd fmt32 .rne false p.toNat q).1
          | _, _ => none) ∧
      gatherStep r idx = do
        let n := (w.extractLsb' 0 32).toNat
        let stride := ((word c 22).extractLsb' 0 40).toNat
        let i := idx.getD 0 0
        let xb ← engRead r (a + 4 * i) 4
        let x := bytesVal xb
        let none? := !bytesP xb && (x = 0xFFFFFFFF || ((word c 23).extractLsb' 0 32).toNat ≤ x)
        let d := if none? then 1 else 0
        let y ← if bytesP xb then pure (List.replicate n none)
          else if none? then pure (List.replicate n (some 0))
          else row <$> engElems r fb n (if fb ≤ 0x0A then some (stride / 64) else none) (b + (x * stride : Nat))
        if cardBag c = false then
          engWrite r (t + (i * n * size fc : Nat)) (bytes fc (out y))
          pure { exc := counted (out y), dropped := d }
        else if i + 1 = nestN c 0 then
          engWrite r t (bytes fc (out (sum y)))
          pure { exc := counted (out (sum y)), dropped := d }
        else pure { exc := 0, dropped := d, bag := (sum y).map fun z => z.map (BitVec.ofNat 32) }) ∧
    ∃ out : List Elem → List Elem → List (Option Nat) → Nat × Bool,
      (∀ x y acc, Out 0x20 (dot sat x y (acc.getD 0 (some 0))) (out x y acc)) ∧
      cellarStep r idx = do
        let i := idx.getD 0 0
        let k := (w.extractLsb' 0 24).toNat
        let ws := (w.extractLsb' 24 20).toNat
        let h := r.job.cellar.getD 0
        let x ← engRow (fun p => engCellar r h p 64) r.job.codebook k k (some ws) (b + 64 * ws * i)
        let y ← engBlocks r r.job.codebook k none a
        modify fun s => s.sendBulk (dieOfCluster r.cl) (stopOfCluster r.cl) h stopHbm vcJOB r.job.vd 0 r.cl
          (slotsFor (4 * y.length))
        let acc ← engInit r (t + 4 * i) 1 0x20
        engWrite r (t + 4 * i) (natBytes 4 (out x y acc).1)
        pure { exc := if (out x y acc).2 then 1 else 0 }

/-- Events of the region unit and of the job engines, and what the unit steps compute. -/
def Obligations.RegionAndJobEvents : Prop :=
  Claim.RegionEvents ∧ Claim.JobEvents ∧ Claim.UnitSteps

/-- The window of a virtual function: its registers take what the host writes, its counters are read through the latch;
the porch die takes records in slot order and refuses, queues or keeps them waiting; completion entries go to the
ring at ctail while it has room; a reset reports the slots not taken (R181, R393 to R395, R400). That an entry is
dropped with cbase 0 or csize 0 is the model's choice (log 59). -/
def Claim.HostWindow : Prop :=
  ∀ (s : State) (vf : Nat), vf < 64 →
    let x := s.vf vf
    (∀ (off : Nat) (v : Word), off % 8 = 0 → ∃ t, exec (.tailWrite vf off v) s = .next t ∧
      let y := t.vf vf
      (off = 0x1000 → y = { x with tail := v.toNat % 64 }) ∧
      (off = 0x1010 → y = { x with cbase := v &&& ~~~31 }) ∧
      (off = 0x1018 → y = { x with csize := v.extractLsb' 0 16 }) ∧
      (off = 0x1028 → y = { x with chead := v.toNat % 65536 }) ∧
      (off < 0x1000 → ∀ old : List Byte, mapGet (List.replicate 64 0) x.slots (off / 64) = old → old.length = 64 →
        ∀ j < 64, (mapGet (List.replicate 64 0) y.slots (off / 64))[j]? =
          if off % 64 ≤ j ∧ j < off % 64 + 8 then some (v.extractLsb' (8 * (j - off % 64)) 8) else old[j]?) ∧
      (0x1000 < off → off ∉ [0x1010, 0x1018, 0x1028] → y = x)) ∧
    (∀ off, off % 4 = 0 → ∃ t, exec (.counterLowRead vf off) s = .next t ∧
      let half (n : Nat) : Prop := ∀ j < 4, t.porch.hostRead[j]? = some (BitVec.ofNat 8 (n / 2 ^ (8 * j)))
      (∀ e ∈ [(0x1100, x.nlaunch), (0x1108, x.nburst), (0x1110, x.nidle)],
        (off = e.1 → half (e.2.toNat % 2 ^ 32) ∧ (t.vf vf).latch = e.2.extractLsb' 32 32) ∧
        (off = e.1 + 4 → half x.latch.toNat ∧ t.vf vf = x)) ∧
      (∀ e ∈ [(0x1000, x.tail), (0x1008, x.head), (0x1010, x.cbase.toNat), (0x1018, x.csize.toNat), (0x1020, x.ctail),
        (0x1028, x.chead)], off = e.1 → half (e.2 % 2 ^ 32) ∧ t.vf vf = x) ∧
      (off < 0x1000 ∨ 0x1118 ≤ off → half 0)) ∧
    (x.head ≠ x.tail → 7 ≤ s.porch.step →
      let l := dwordsOf (mapGet (List.replicate 64 0) x.slots x.head) 8
      let e := Instr.hostRecordTake vf
      let refuses (n : Nat) : Prop := ∃ t, exec e s = .next t ∧ (t.vf vf).head = (x.head + 1) % 64 ∧
        (t.vf vf).pend = x.pend ++ [completionBytes 0 x.head 3 n 0 0 0]
      (lInvalid l = true → refuses 2) ∧
      (lInvalid l = false → lVd l ≠ vf → refuses 3) ∧
      (lInvalid l = false → lVd l = vf → s.hostImage vf = none → refuses 2) ∧
      (∀ img, lInvalid l = false → lVd l = vf → s.hostImage vf = some img →
        let r : LRec := ⟨l, 0, img, some (vf, x.head), none, 0⟩
        let q := if lNamed l then mapGet [] (s.die (lDie l)).launchQ vf else mapGet [] s.porch.anyQ vf
        (16 ≤ q.length → exec e s = .next s) ∧
        (q.length < 16 → ∃ t, exec e s = .next t ∧ (t.vf vf).head = (x.head + 1) % 64 ∧
          (if lNamed l then mapGet [] (t.die (lDie l)).launchQ vf else mapGet [] t.porch.anyQ vf) = q ++ [r]))) ∧
    (∀ b r, x.pend = b :: r → x.cbase ≠ 0 →
      let n := x.csize.toNat
      let pa := 2 ^ 44 + (x.cbase.toNat + 32 * x.ctail) % 2 ^ 44
      ((n = 0 ∨ (x.ctail + 1) % n = x.chead) → exec (.completionEntry vf) s = .next s) ∧
      (n ≠ 0 → (x.ctail + 1) % n ≠ x.chead → ∃ t, exec (.completionEntry vf) s = .next t ∧
        (t.vf vf).ctail = (x.ctail + 1) % n ∧ (t.vf vf).pend = r ∧ ∀ j < b.length, b[j]? = some (t.hostByteAt (pa + j)))) ∧
    ∃ t, exec (.vfReset vf) s = .next t ∧ (t.vf vf).head = x.tail ∧
      (t.vf vf).pend = x.pend ++ (List.range ((x.tail + 64 - x.head) % 64)).map fun j =>
        completionBytes 0 ((x.head + j) % 64) 3 2 0 0 0

/-- The host and the peers: a host access is performed at the homes, makes its units host-held or frees them, waits for
regions, and reaches no stack before bring-up is done; one to memory that is not there is logged, a read of it
poisoned; a held unit that is given back is merged; accesses of the device to host memory and to peers are performed
by the porch die, and a refused one reads zero or is dropped; a peer's access outside its admitted range is refused
and logged (R12, R130, R391, R392, R398, R408). That a host read makes its units held is the model's choice (log
60). -/
def Claim.HostAndPeers : Prop :=
  ∀ s : State,
    (∀ (a : BitVec 40) (n : Nat),
      let m := a.toNat
      let rd := Instr.hostMemAccess a n none
      let held := (unitsOf m n).all fun u => populated (64 * u)
      let l := s.leafAt m
      (s.porch.step < 7 → (∀ b, exec (.hostMemAccess a n (some b)) s = .next s) ∧
        ∃ t, exec rd s = .next t ∧ { t with porch := s.porch, free := s.free } = s ∧ t.porch.hostRead.length = n) ∧
      (7 ≤ s.porch.step → held = true → s.hostWaits m n false = false →
        ∀ b x, s.readHomes noCluster .phys l m n = (b, x) → x.short = none → ∃ t, exec rd s = .next t ∧
          t.porch.hostRead = b.map (·.v) ∧ t.porch.hostPoison = b.any (·.p) ∧ ∀ u ∈ unitsOf m n, setHas t.porch.held u = true) ∧
      (7 ≤ s.porch.step → held = true → s.hostWaits m n false = true → exec rd s = .next s) ∧
      (7 ≤ s.porch.step → held = false →
        (∃ t, exec rd s = .next t ∧ t.porch.hostPoison = true ∧ t.porch.hostRead.length = n ∧ t.mem = s.mem ∧
          t.slices = s.slices) ∧
        ∀ b, exec (.hostMemAccess a n (some b)) s = .next (s.logError (m / 2 ^ 37) m 0)) ∧
      (∀ b, b.length = n → 7 ≤ s.porch.step → held = true → s.hostWaits m n true = false →
        let x := s.physStore m (b.map (⟨·, false⟩))
        x.short = none →
          ∃ t, exec (.hostMemAccess a n (some b)) s = .next t ∧ { t with porch := x.porch } = x ∧
            ∀ u ∈ unitsOf m n, setHas t.porch.held u = false)) ∧
    (∀ u b, setHas s.porch.held u = true →
      exec (.backInvalidation u b) s = .next (({ s with porch := { s.porch with held := setDel s.porch.held u } } :
        State).physStore (64 * u) ((b.take 64).map (⟨·, false⟩))).anyway.regionFreed) ∧
    (∀ i f r, s.flit? i = some f →
      let answers (e : Instr) (w : Word) (b : List PByte) : Prop :=
        ∃ t q, exec e s = .next t ∧ Answered { s with nextId := q } t f (.rsp r .ok w b)
      let old : Nat → Byte := fun j => if paSpace r.addr = 1 then s.hostByteAt (r.addr + j) else s.peerByteAt (r.addr + j)
      let now (t : State) (j : Nat) : Byte :=
        if paSpace r.addr = 1 then t.hostByteAt (r.addr + j) else t.peerByteAt (r.addr + j)
      let bytes : List PByte := (List.range r.len).map fun j => ⟨old j, false⟩
      let serves (e : Instr) : Prop :=
        ((r.kind = .read ∨ r.kind = .fetch ∨ r.kind = .join) → answers e 0 bytes) ∧
        (r.kind = .write → answers e 0 [] ∧ ∃ t, exec e s = .next t ∧
          ∀ j < r.data.length, r.data[j]?.map (·.v) = some (now t j)) ∧
        (∀ op cmp, r.kind = .atom op cmp → answers e (BitVec.ofNat 64 (bytesNat bytes)) [] ∧
          ∃ t, exec e s = .next t ∧
            let z := aopVal op (8 * r.len) (bytesNat bytes) (bytesNat r.data) cmp.toNat
            ∀ j < r.len, now t j = BitVec.ofNat 8 (z / 2 ^ (8 * j)))
      (f.msg = .host r → paSpace r.addr = 1 → serves (.hostAtomic i)) ∧
      (f.msg = .span r → paSpace r.addr = 2 →
        let peer := r.addr / 2 ^ 40 % 16
        (s.spanFirst f peer = false → ∀ ok, exec (.spanRequest (.outbound i ok)) s = .next s) ∧
        (s.spanFirst f peer = true → s.spanLink peer f.cluster ≠ none → serves (.spanRequest (.outbound i true))) ∧
        (s.spanFirst f peer = true → ∀ ok, ok = false ∨ s.spanLink peer f.cluster = none →
          exec (.spanRequest (.outbound i ok)) s = .next (s.spanRefused f r) ∧ (s.spanRefused f r).peerMem = s.peerMem ∧
            (r.kind = .read → ∃ q, Answered { s.logError (dieOf r.core) r.addr r.vd with nextId := q } (s.spanRefused f r) f
              (.rsp r .ok 0 (List.replicate r.len ⟨0, false⟩)))))) ∧
    (∀ peer cl, let up := (mapGet [] s.porch.route peer).filter fun k => s.porch.linksUp.getLsbD k
      s.spanLink peer cl = if up = [] then none else up[cl % 512 % up.length]?) ∧
    ∀ (peer : BitVec 4) (a : BitVec 40) (n : Nat),
      let m := a.toNat
      let l := s.leafAt m
      let rd := Instr.spanRequest (.inbound peer a n none)
      let bad := s.logError (m / 2 ^ 37) m 0
      (s.porch.linksUp = 0 → ∀ b, exec (.spanRequest (.inbound peer a n b)) s = .next s) ∧
      (s.porch.linksUp ≠ 0 → (∀ x, mapGet? s.porch.admits peer.toNat = some x → m < x.base ∨ x.base + x.len < m + n) →
        exec rd s = .next (bad.setRead (List.replicate n 0)) ∧
        ∀ b : List (BitVec 8), b.length = n → exec (.spanRequest (.inbound peer a n (some b))) s = .next bad) ∧
      (∀ x, s.porch.linksUp ≠ 0 → mapGet? s.porch.admits peer.toNat = some x → x.base ≤ m → m + n ≤ x.base + x.len →
        (∀ u ∈ unitsOf m n, populated (64 * u) = true) →
        (s.homesBusy .phys l m n false = true → exec rd s = .next s) ∧
        (s.homesBusy .phys l m n false = false →
          ∀ b y, s.readHomes noCluster .phys l m n x.vd = (b, y) → y.short = none →
            exec rd s = .next (y.setRead (b.map (·.v)) (b.any (·.p)))) ∧
        (s.homesBusy .phys l m n true = false →
          (∀ b : List (BitVec 8), b.length = n → let y := s.writeHomes noCluster .phys l x.vd m (b.map (⟨·, false⟩))
            y.short = none → exec (.spanRequest (.inbound peer a n (some b))) s = .next y) ∧
          ∀ op v cmp b y, s.readHomes noCluster .phys l m n x.vd = (b, y) → b.any (·.p) = false →
            let z := (y.setRead (b.map (·.v))).writeHomes noCluster .phys l x.vd m ((List.range n).map fun j =>
              ⟨BitVec.ofNat 8 (aopVal op (8 * n) (bytesNat b) v.toNat cmp.toNat / 2 ^ (8 * j)), false⟩)
            z.short = none → exec (.spanRequest (.inboundAtom peer a n op v cmp)) s = .next z))

/-- The host window, host memory and peers. -/
def Obligations.HostAndPeers : Prop :=
  Claim.HostWindow ∧ Claim.HostAndPeers

/-- Trace: a core with room stamps the count of what it dropped; its oldest record goes to the die's unit, which writes
the records of the devices it traces at trbase + trhead, the first behind a SYNC of the cycle in which tracing
began, and moves trhead by 8, back to 0 or to a stop at the end, after which it counts the records that it drops.
Lease: a request is clamped and queued; a slice pre-empts the cores with work of others before it starts, those with
a TRAPPED strand after its keeper entry; the next one waits as long after it ends, and until what it pre-empted has
resumed (R401, R402, R404, R405). The phases of a slice are the model's choice (log 53). -/
def Obligations.TraceAndLease : Prop :=
  ∀ s : State,
    (∀ c, 0 < (s.core c).stampLost → (s.core c).stamps.length < 16 → ∃ t, exec (.traceRecord c) s = .next t ∧
      (t.core c).stamps = (s.core c).stamps ++ [⟨8, 0, BitVec.ofNat 16 (min (s.core c).stampLost 0xFFFF), s.cycle⟩] ∧
      (t.core c).stampLost = 0) ∧
    (∀ d c r l, (s.core c).stamps = r :: l → dieOf c = d →
      let tr := (s.die d).trace
      let b := s.setCore c { s.core c with stamps := l }
      let off : Prop := tr.ctl.getLsbD 0 = false ∨ tr.size.extractLsb' 0 16 = 0 ∨
        (r.kind ≠ 8 ∧ tr.vds.getLsbD (r.gti.extractLsb' 26 6).toNat = false)
      (s.traceHeld d = true → exec (.traceWrite d c) s = .next s) ∧
      (off → s.traceHeld d = false → exec (.traceWrite d c) s = .next b) ∧
      let size := (tr.size.extractLsb' 0 16).toNat * 65536
      let at8 (t : State) (n w : Nat) : Prop :=
        ∀ j < 8, t.hostByteAt (tr.base.toNat + n + j) = BitVec.ofNat 8 (w / 2 ^ (8 * j))
      let record (delta : Nat) : Nat := r.gti.toNat * 2 ^ 32 + r.aux.toNat * 2 ^ 16 + r.kind * 2 ^ 12 + delta
      (¬ off → s.traceHeld d = false → s.short = none → tr.full = true → ∃ t, exec (.traceWrite d c) s = .next t ∧
        (t.core c).stamps = l ∧ t.hostMem = s.hostMem ∧ t.mem = s.mem ∧ (t.die d).trace.full = true ∧
        (t.die d).trace.lost = tr.lost + if r.kind = 8 then r.aux.toNat else 1) ∧
      (¬ off → s.traceHeld d = false → s.short = none → tr.full = false → tr.lost = 0 → tr.head.toNat < size →
        paSpace (tr.base.toNat + tr.head.toNat) = 1 →
        (∀ c0, tr.sync = some c0 → c0 ≤ r.cycle → r.cycle ≤ c0 + 4095 →
          ∃ t, exec (.traceWrite d c) s = .next t ∧ (t.core c).stamps = l ∧
            at8 t tr.head.toNat (record (if r.kind = 8 then 0 else r.cycle - c0)) ∧
            (tr.head.toNat + 8 < size → (t.die d).trace.head.toNat = tr.head.toNat + 8) ∧
            (size ≤ tr.head.toNat + 8 → tr.ctl.extractLsb' 32 2 = 0 → (t.die d).trace.head = 0) ∧
            (size ≤ tr.head.toNat + 8 → tr.ctl.extractLsb' 32 2 ≠ 0 → (t.die d).trace.full = true)) ∧
        (tr.sync = none → tr.began ≤ r.cycle → r.cycle ≤ tr.began + 4095 → tr.head.toNat + 8 < size →
          paSpace (tr.base.toNat + (tr.head.toNat + 8)) = 1 → (tr.base.toNat + tr.head.toNat) % 8 = 0 →
          ∃ t, exec (.traceWrite d c) s = .next t ∧ (t.core c).stamps = l ∧ (t.die d).trace.sync = some tr.began ∧
            at8 t tr.head.toNat (tr.began / 2 ^ 16 % 2 ^ 32 * 2 ^ 32 + tr.began % 2 ^ 16 * 2 ^ 16 + 7 * 2 ^ 12) ∧
            at8 t (tr.head.toNat + 8) (record (if r.kind = 8 then 0 else r.cycle - tr.began))))) ∧
    (∀ (vd : Nat) (v : Word),
      let len := min (v.extractLsb' 0 32).toNat (s.die 0).leasemax.toNat
      let n := (v.extractLsb' 48 16).toNat
      ∃ t, exec (.leaseRequest vd v) s = .next t ∧ { t with porch := { t.porch with lease := s.porch.lease } } = s ∧
        mapGet? t.porch.lease.words vd = some (BitVec.ofNat 64 (n * 2 ^ 48 + len)) ∧
        t.porch.lease.queue = if n = 0 ∨ len = 0 then s.porch.lease.queue.filter (· ≠ vd)
          else if vd ∈ s.porch.lease.queue then s.porch.lease.queue else s.porch.lease.queue.filter (· ≠ vd) ++ [vd]) ∧
    (∀ vd l, s.porch.lease.active = none → s.porch.lease.queue = vd :: l →
      let w := mapGet 0 s.porch.lease.words vd
      let len := (w.extractLsb' 0 32).toNat
      let n := (w.extractLsb' 48 16).toNat
      let more (c : Nat) : Prop := c ∈ s.leaseCores vd ∧ (s.core c).preL = false ∧ s.anyTrapped c = false
      (s.porch.lease.owed ≠ [] → exec .leaseSliceStart s = .next s) ∧
      (n ≠ 0 → len ≠ 0 → s.porch.lease.notBefore ≤ s.cycle → s.porch.lease.owed = [] →
        ((∃ c, more c) → ∃ t, exec .leaseSliceStart s = .next t ∧
          { t.porch.lease with saved := s.porch.lease.saved } = s.porch.lease ∧
          ∀ c, (more c → (t.core c).preL = true) ∧
            (setHas t.porch.lease.saved c = true ↔ setHas s.porch.lease.saved c = true ∨ more c)) ∧
        (s.leaseCores vd = [] → s.othersInFlight vd = false → ∃ t, exec .leaseSliceStart s = .next t ∧
          t.porch.lease.active = some vd ∧ t.porch.lease.endAt = s.cycle + len ∧
          mapGet? t.porch.lease.words vd = some (BitVec.ofNat 64 ((n - 1) * 2 ^ 48 + len))))) ∧
    (∀ vd, s.porch.lease.active = some vd → s.porch.lease.endAt ≤ s.cycle →
      let l := s.porch.lease
      let w := mapGet 0 l.words vd
      exec .leaseSliceEnd s = .next ({ s with porch := { s.porch with lease := { l with
        active := none, notBefore := s.cycle + (w.extractLsb' 0 32).toNat, saved := [], owed := l.saved
        queue := if w.extractLsb' 48 16 = 0 then l.queue.filter (· ≠ vd) else l.queue } } } : State).resumeOwed) ∧
    ∀ c, s.porch.lease.active = none → s.porch.lease.owed = [c] →
      let paid (t : State) : State := { t with porch := { t.porch with lease := { t.porch.lease with
        owed := setDel t.porch.lease.owed c } } }
      ((s.core c).saved.any (·.landlord) = true → s.resume c c = none → exec .leaseSliceEnd s = .next s) ∧
      ((s.core c).saved.any (·.landlord) = true → ∀ t, s.resume c c = some t → exec .leaseSliceEnd s = .next (paid t)) ∧
      ((s.core c).saved.any (·.landlord) = false → (s.core c).preL = true → exec .leaseSliceEnd s = .next s) ∧
      ((s.core c).saved.any (·.landlord) = false → (s.core c).preL = false → exec .leaseSliceEnd s = .next (paid s))

/-- Bring-up, the side door and power: an image is accepted when its signature verifies under the fused key and its
security version is not below the fused least, the alternate slot's tried once; steps that succeed wipe the on-die
memories, zero the stacks and open the launch queues; a failed step halts the part there, but a span link that fails
only stays down; the life cycle moves only forward, and each change wipes the machine and restarts bring-up; answers
of the side door change nothing else, and measure ROM, firmware, fuses and life cycle; draw above the limit only
delays placements (R408 to R411, R414; what the descriptor's bytes are, logs 67 and 108, and that no limit is ever
exceeded before one is set, log 126, are the model's choice). What the wipe keeps (log 67) and that memory which
nothing has written reads 0 (log 87) are the model's choice as well. -/
def Obligations.BringUpAndSideDoor : Prop :=
  ∀ s : State,
    let x := s.porch
    let empty (t : State) : Prop := t.cores = [] ∧ t.clusters = [] ∧ t.slices = [] ∧
      t.dies = [] ∧ t.net = [] ∧ t.porch.vfs = [] ∧ t.porch.launches = [] ∧ t.porch.held = []
    let zero (t : State) : Prop := t.mem = [] ∧ t.memP = [] ∧ t.badBursts = []
    let ok (i : Config.Image) : Prop :=
      Config.hssVerifies x.fuses.key i = true ∧ i.sig.length = 5396 ∧ x.fuses.least ≤ i.version
    (∀ (a b : Bool) (img : Option Config.Image) (fail : Nat) (links : BitVec 16),
      let fst : Prop := a = true ∧ ok x.images.1
      let alt : Prop := b = true ∧ ok x.images.2
      (fst → img = some x.images.1) → (¬ fst → alt → img = some x.images.2) → (¬ fst → ¬ alt → img = none) →
      ∃ t, exec (.powerGood a b fail links) s = .next t ∧ t.porch.lifeCycle = x.lifeCycle ∧ t.porch.rom = x.rom ∧
        t.porch.fuses = x.fuses ∧ t.porch.images = x.images ∧
        (img ≠ none → (fail = 0 ∨ fail = 6 ∨ 8 ≤ fail) → empty t ∧ zero t ∧ t.porch.step = 7 ∧
          t.porch.halted = false ∧ t.porch.linksUp = links ∧ t.porch.running = img) ∧
        (img ≠ none → 2 ≤ fail → fail ≤ 7 → fail ≠ 6 → t.porch.halted = true ∧ t.porch.step = fail - 1 ∧
          t.porch.running = img ∧ t.porch.linksUp = 0 ∧ (3 ≤ fail → empty t) ∧ (5 ≤ fail → zero t) ∧
          (fail < 5 → t.mem = s.mem) ∧ (fail = 2 → { t with porch := x } = s)) ∧
        (img = none ∨ fail = 1 → t.porch.halted = true ∧ t.porch.step = 0 ∧ t.porch.running = none ∧
          { t with porch := x } = s)) ∧
    (∀ y, (lifeRank y ≤ lifeRank x.lifeCycle → exec (.lifeCycleChange y) s = .next s) ∧
        (lifeRank x.lifeCycle < lifeRank y → ∃ t, exec (.lifeCycleChange y) s = .next t ∧ empty t ∧ t.mem = s.mem ∧
          t.porch.lifeCycle = y ∧ t.porch.step = 0 ∧ t.porch.halted = false)) ∧
    (let door (i : Instr) : Prop := ∃ t, exec i s = .next t ∧
        { t with porch := { t.porch with answer := x.answer, answered := x.answered } } = s ∧
        t.porch.answered = x.answered + 1
     (∀ req, door (.getVersion req) ∧ door (.getCapabilities req) ∧ door (.negotiateAlgorithms req) ∧
        door (.getCertificate req) ∧ door (.challenge req) ∧ door (.getMeasurements req) ∧
        ∀ t, exec (.getMeasurements req) s = .next t →
          t.porch.answer = Config.measured req x.answered x.rom x.running x.fuses (lifeRank x.lifeCycle)) ∧
      door .moduleDescriptorRead ∧ ∀ t, exec .moduleDescriptorRead s = .next t →
        t.porch.answer[1]? = some (BitVec.ofNat 8 (lifeRank x.lifeCycle)) ∧
        t.porch.answer[2]? = some (BitVec.ofNat 8 x.step) ∧
        t.porch.answer[3]? = if x.halted then some (BitVec.ofNat 8 (x.step + 1)) else none) ∧
    (let above : Prop := ∃ l, x.powerLimit = some l ∧ l < Config.draw s.cycle;
      (above → exec .powerLimitExceeded s = .next { s with porch := { x with overDraw := true } } ∧
        exec .drawWithinLimit s = .next s) ∧
      (¬ above → exec .powerLimitExceeded s = .next s ∧
        exec .drawWithinLimit s = .next { s with porch := { x with overDraw := false } })) ∧
    ∀ w, (Config.form = .package →
        exec (.powerLimitSet w) s = .next { s with porch := { s.porch with limit := some w } }) ∧
      (Config.form = .module → exec (.powerLimitSet w) s = .next s) ∧
      ∀ t, exec (.powerLimitSet w) s = .next t →
        t.porch.powerLimit = if Config.form = .package then some w else some 2400

/-- The CONTROL forms complete on every party that may issue them, as R230 to R235 and R16 say they execute: BR, CALL
and LOOP with a target in their space, BRI, CALLI and RET with a clean register, NOP, IFENCE, RDCLK and RDID always.
-/
def Claim.ControlFormsComplete : Prop :=
  ∀ (s : State) (g : Guard) (off : BitVec 32) (a d : SOp),
    let pc := s.pc
    let space := BitVec.ofBool (pc.getLsbD 23)
    let link : PWord := ⟨0#40 ++ (space ++ (pc.extractLsb' 0 23 + 1)), false⟩
    let n : Int := ((pc.extractLsb' 0 23).toNat : Int) + off.toInt
    let tgt : Pc := space ++ BitVec.ofInt 23 n
    let completes (i : Instr) (r : RegSet) : Prop := ∃ t, exec i s = .next t ∧ t.regs = r
    (Clear s g {} → 0 ≤ n → n < 2 ^ 23 →
      completes (.br g off) { s.regs with pc := tgt } ∧
      completes (.call g off) { s.regs.setS 1 link with pc := tgt }) ∧
    (Clear s g (formLoop d) → 0 ≤ n → n < 2 ^ 23 →
      let x := (s.view (formLoop d).use).s (s.view (formLoop d).use).d d
      x.p = false → completes (.loop g d off)
        { s.regs.eff (effS d (x.v - 1) false) with pc := if x.v - 1 = 0 then pc + 1 else tgt }) ∧
    (Clear s g (formA a) →
      let x := (s.view (formA a).use).s (s.view (formA a).use).a a
      x.p = false → completes (.bri g a) { s.regs with pc := x.v.extractLsb' 0 24 } ∧
        completes (.calli g a) { s.regs.setS 1 link with pc := x.v.extractLsb' 0 24 }) ∧
    (Clear s g {} → (s.regs.getS 1).p = false →
      completes (.ret g) { s.regs with pc := (s.regs.getS 1).v.extractLsb' 0 24 }) ∧
    (Clear s g {} → completes (.nop g) { s.regs with pc := pc + 1 } ∧ completes (.ifence g) { s.regs with pc := pc + 1 }) ∧
    (Clear s g (formD d) →
      completes (.rdclk g d) { s.regs.eff (effS d (.ofNat 64 s.since) false) with pc := pc + 1 } ∧
      completes (.rdid g d)
        { s.regs.eff (effS d (.ofNat 64 (s.cur.core * 8 + s.cur.pos)) false) with pc := pc + 1 })

/-- TLBINV, LRES and LMOVE complete with clean sources: TLBINV in modes 0 and 2, and in mode 1 when its B is no valid
leaf or nothing holds its page (R77, R315); LRES for the keeper's own device, or any for the landlord, with P[D]
saying whether the reservation was set; LMOVE, once a walker is free and its tables may be read, with the value that
R316 gives, 0 when the move finds room. The order of the statuses of LMOVE (log 18) and what TLBINV does with no
valid leaf (log 83) are the model's choices. -/
def Claim.PageFormsComplete : Prop :=
  ∀ (s : State) (g : Guard) (sel : BitVec 16), s.short = none →
    let vd := s.curSpace.1
    (∀ d a b : SOp, sel.toNat < 3 → Clear s g (formTlbinv d a b) →
      let v := s.view (formTlbinv d a b).use
      let x := v.s v.a a
      let y := v.s v.b b
      let dva := x.v.toNat % 2 ^ 56
      x.p = false → y.p = false →
      let completes (r : Word → Prop) : Prop := ∃ t w, exec (.tlbinv g d a b sel) s = .next t ∧ r w ∧
        t.regs = ({ s.regs.eff (effS d w false) with pc := s.pc + 1 } : RegSet)
      (sel ≠ 1 ∨ oldLeaf y.v = none → completes (· = 0)) ∧
      ∀ l, sel = 1 → oldLeaf y.v = some l →
        let k := pageOf l vd dva
        let t := ((s.tlbDrop fun e => e.vd = vd && e.asid = s.curSpace.2.1 &&
          (e.page ≤ dva && dva < e.page + pageSize e.large)).endWatches
            (s.dyingWatch false vd s.curSpace.2.1 dva (some k))).purgePage l k
        s.pageJobs vd s.curSpace.2.1 (dva / k.size * k.size) k.size = false → s.pageHeld k = false →
        s.pageJoins k = false → t.2.short ≠ some none → completes (· = BitVec.ofNat 64 t.1)) ∧
    (∀ (d : POp) (a b : SOp), sel.toNat < 8 → Clear s g (formLres d a b) →
      let v := s.view (formLres d a b).use
      let x := v.s v.a a
      let y := v.s v.b b
      x.p = false → y.p = false → x.v.toNat < 64 → (s.level = .k → x.v.toNat = s.curVd) →
      let sum : Nat := (((s.die sel.toNat).alloc.filter fun r => r.1 ≠ x.v.toNat).map fun r =>
        (r.2.extractLsb' 32 15).toNat).sum + y.v.toNat
      ∃ t, exec (.lres g d a b sel) s = .next t ∧
        t.regs = ({ s.regs.eff (effP d (decide (y.v.toNat ≤ 8192 ∧ sum ≤ 8192))) with pc := s.pc + 1 } : RegSet)) ∧
    ∀ d a : SOp, sel.toNat < 8 → Clear s g (formLmove d a) →
      let x := (s.view (formLmove d a).use).s (s.view (formLmove d a).use).a a
      let dva := x.v.toNat % 2 ^ 56
      x.p = false → s.walkersBusy (dieOf s.cur.core) = false →
        ∀ b, s.walkReads (dieOf s.cur.core) vd s.curSpace.2.2 dva = some b → ∀ l, b.walk s.curSpace.2.2 dva = .ok l →
        let k := pageOf l vd dva
        let completes (w : Word) : Prop := ∃ t, exec (.lmove g d a sel) s = .next t ∧
          t.regs = ({ s.regs.eff (effS d w false) with pc := s.pc + 1 } : RegSet)
        (l.loft = false → completes 2) ∧
        (l.loft = true → l.home = sel.toNat → completes 3) ∧
        (l.loft = true → l.home ≠ sel.toNat → (mapGet 0 (b.die sel.toNat).alloc vd).extractLsb' 32 15 = 0 →
          completes 1) ∧
        (l.loft = true → l.home ≠ sel.toNat → (mapGet 0 (b.die sel.toNat).alloc vd).extractLsb' 32 15 ≠ 0 →
          (b.slices.any fun y => y.2.regs.any fun r => k.holds r.sp r.addr 8) = false → b.recallHeld k = false →
          b.blocked .phys (b.leafAt l.pte) l.pte 8 true = false →
          (b.lmovePage vd dva sel.toNat l).short = none → completes 0)

/-- The CONTROL forms, TLBINV, LRES and LMOVE complete. -/
def Obligations.FormsComplete : Prop :=
  Claim.ControlFormsComplete ∧ Claim.PageFormsComplete

/-- The events of the corridors complete when their flit is there (R22, R23, R27 to R29): an injection slot that passes
a stop with a flit for it is counted; an aging turn that is left sends the oldest flit; a tenure ends at an empty
slot; a flit that arrives, is taken back, or is accepted from its landing buffer leaves the place where it was. -/
def Claim.CorridorEventsComplete : Prop :=
  ∀ (s : State) (d l slot : Nat),
    let empty : Prop := ∀ f ∈ s.net, f.die = d → ∀ n b, f.stage ≠ .slot l slot n b
    let leaves (i : Instr) (f : Flit) : Prop :=
      ∃ t, exec i s = .next t ∧ ∀ h ∈ t.net, h.id = f.id → h.stage ≠ f.stage ∨ h.die ≠ f.die
    let only (f : Flit) : Prop := ∀ g ∈ s.net, g.die = d → ∀ m b, g.stage = .slot l slot m b → g = f
    (slot < 64 → slot % 16 ≠ 0 → empty → ∀ stop,
      (∃ f ∈ s.entriesOf d stop, f.stage = .queued ∧ s.placeable l f = true) →
      ∃ t, exec (.injectionSlot d stop l slot) s = .next t ∧
        (mapGet Stop.init (t.die d).inj stop).slots = (mapGet Stop.init (s.die d).inj stop).slots + 1) ∧
    (slot < 64 → slot % 16 = 0 → empty →
      (setHas (s.die d).turned (64 * l + slot) = false →
        (∃ f ∈ s.entriesOf d (s.agingOwner d l slot),
          (f.stage = .queued ∨ f.stage = .takenBack) ∧ f.mayUse l = true) →
        ∃ t f, exec (.agingTurn d l slot) s = .next t ∧ f ∈ s.net ∧
          ∀ h ∈ t.net, h.id = f.id → h.stage = .slot l slot 0 true) ∧
      ∃ t, exec (.agingTenureEnd d l slot) s = .next t ∧ t.net = s.net ∧
        setHas (t.die d).turned (64 * l + slot) = false) ∧
    (∀ f ∈ s.net, ∀ n aging accept, f.die = d → f.stage = .slot l slot n aging → n < 4 → only f →
      leaves (.flitArrival d l slot accept) f) ∧
    (∀ f ∈ s.net, f.die = d → f.stage = .slot l slot 4 false → only f → leaves (.flitTakenBack d l slot) f) ∧
    ∀ stop vc, ∀ f ∈ s.net, f.die = d → f.ldst = stop → f.vc = vc → (f.stage = .agingBuf ∨ f.stage = .landed) →
      (∀ g ∈ s.net, g.before f = true →
        g.atSource f.die f.lsrc = false ∧ g.stage ≠ .landed ∧ g.stage ≠ .agingBuf) →
      ∃ h ∈ s.net, h.die = d ∧ h.ldst = stop ∧ h.vc = vc ∧ (h.stage = .agingBuf ∨ h.stage = .landed) ∧
        leaves (.landedFlitAccept d stop vc) h

/-- The events of the host and the span links complete (R12, R130, R393 to R395, R398, R400): the host writes and reads
a function's window; the porch die takes or refuses the next record; a completion entry goes to the ring that has
room; a function resets; an access to memory that nothing holds is performed, and a held unit given back; requests
of the device outside it, and those of a peer, are served or refused. That a host access makes units held or frees
them is the model's choice (log 60). -/
def Claim.HostEventsComplete : Prop :=
  ∀ s : State, s.short = none →
    (∀ vf off (v : Word), vf < 64 → off % 8 = 0 →
      exec (.tailWrite vf off v) s = .next (s.setVf vf ((s.vf vf).write off v))) ∧
    (∀ vf off, vf < 64 → off % 4 = 0 → ∃ t, exec (.counterLowRead vf off) s = .next t ∧
      t.porch.hostRead = leBytes 4 ((s.vf vf).readHalf off).1) ∧
    (∀ vf, vf < 64 → 7 ≤ s.porch.step → (s.vf vf).head ≠ (s.vf vf).tail →
      let l := dwordsOf (mapGet (List.replicate 64 0) (s.vf vf).slots (s.vf vf).head) 8
      let queue := if lNamed l then mapGet [] (s.die (lDie l)).launchQ vf else mapGet [] s.porch.anyQ vf
      (s.hostStatus vf l ≠ 0 ∨ queue.length < 16) → ∃ t, exec (.hostRecordTake vf) s = .next t ∧
        (t.vf vf).head = ((s.vf vf).head + 1) % 64) ∧
    (∀ vf b r, (s.vf vf).pend = b :: r →
      ((s.vf vf).cbase = 0 ∨ ((s.vf vf).csize ≠ 0 ∧ ((s.vf vf).ctail + 1) % (s.vf vf).csize.toNat ≠ (s.vf vf).chead)) →
      ∃ t, exec (.completionEntry vf) s = .next t ∧ (t.vf vf).pend = r) ∧
    (∀ vf, vf < 64 → ∃ t, exec (.vfReset vf) s = .next t ∧ (t.vf vf).head = (s.vf vf).tail) ∧
    (∀ (a : BitVec 40) (n : Nat) (b : List Byte), 7 ≤ s.porch.step →
      (∀ u ∈ unitsOf a.toNat n, populated (64 * u) = true) →
      (s.hostWaits a.toNat n false = false →
        (s.readHomes noCluster .phys (s.leafAt a.toNat) a.toNat n).2.short = none →
        ∃ t, exec (.hostMemAccess a n none) s = .next t ∧
          t.porch.hostRead = (s.readHomes noCluster .phys (s.leafAt a.toNat) a.toNat n).1.map (·.v) ∧
          ∀ u ∈ unitsOf a.toNat n, setHas t.porch.held u = true) ∧
      (b.length = n → s.hostWaits a.toNat n true = false →
        (s.physStore a.toNat (b.map (⟨·, false⟩))).short = none →
        ∃ t, exec (.hostMemAccess a n (some b)) s = .next t ∧
          t.mem = (s.physStore a.toNat (b.map (⟨·, false⟩))).mem ∧
          t.slices = (s.physStore a.toNat (b.map (⟨·, false⟩))).slices)) ∧
    (∀ u b, setHas s.porch.held u = true →
      ∃ t, exec (.backInvalidation u b) s = .next t ∧ setHas t.porch.held u = false) ∧
    (∀ i f r, s.flit? i = some f →
      let answered (e : Instr) : Prop := ∃ t q w x, exec e s = .next t ∧
        Answered { s with nextId := q } t f (.rsp r .ok w x)
      (f.msg = .host r → answered (.hostAtomic i)) ∧
      (f.msg = .span r → s.spanFirst f (r.addr / 2 ^ 40 % 16) = true → ∀ ok, answered (.spanRequest (.outbound i ok)))) ∧
    ∀ (peer : BitVec 4) (a : BitVec 40) (n : Nat), s.porch.linksUp ≠ 0 →
      let inside (x : Admit) : Prop := x.base ≤ a.toNat ∧ a.toNat + n ≤ x.base + x.len ∧
        ∀ u ∈ unitsOf a.toNat n, populated (64 * u) = true
      ((∀ x, mapGet? s.porch.admits peer.toNat = some x → ¬ inside x) →
        (∃ t, exec (.spanRequest (.inbound peer a n none)) s = .next t ∧ t.porch.hostRead = List.replicate n 0) ∧
        ∀ op v cmp, ∃ t, exec (.spanRequest (.inboundAtom peer a n op v cmp)) s = .next t ∧
          t.porch.hostRead.length = n ∧ t.free = s.free + n) ∧
      ∀ x, mapGet? s.porch.admits peer.toNat = some x → inside x →
        let l := s.leafAt a.toNat
        let r := s.readHomes noCluster .phys l a.toNat n x.vd
        (s.homesBusy .phys l a.toNat n false = false → r.2.short = none →
          ∃ t, exec (.spanRequest (.inbound peer a n none)) s = .next t ∧ t.porch.hostRead = r.1.map (·.v)) ∧
        ∀ op v cmp, s.homesBusy .phys l a.toNat n true = false → anyPoison r.1 = false →
          let new := natBytes n (aopVal op (8 * n) (bytesNat r.1) v.toNat cmp.toNat)
          ((r.2.setRead (r.1.map (·.v))).writeHomes noCluster .phys l x.vd a.toNat new).short = none →
          ∃ t, exec (.spanRequest (.inboundAtom peer a n op v cmp)) s = .next t ∧ t.porch.hostRead = r.1.map (·.v)

/-- The events of the trace and of the lease complete (R401, R404, R405): a core with room stamps what it dropped; its
oldest record leaves it for its die's unit while nothing holds the place in the buffer; a lease word is taken; a
slice starts once the cores of others are pre-empted and their requests done, and ends after its cycles. The phases
of a slice are the model's choice (log 53). -/
def Claim.TraceAndLeaseComplete : Prop :=
  ∀ s : State, s.short = none →
    (∀ c, 0 < (s.core c).stampLost → (s.core c).stamps.length < 16 →
      ∃ t, exec (.traceRecord c) s = .next t ∧ (t.core c).stampLost = 0 ∧
        (t.core c).stamps.length = (s.core c).stamps.length + 1) ∧
    (∀ c r l, (s.core c).stamps = r :: l → s.traceHeld (dieOf c) = false →
      let b := ((s.setCore c { s.core c with stamps := l }).putSync (dieOf c) r.cycle).putLost (dieOf c)
      let tr := (s.die (dieOf c)).trace
      let off : Prop := tr.ctl.getLsbD 0 = false ∨ tr.size.extractLsb' 0 16 = 0 ∨
        (r.kind ≠ 8 ∧ tr.vds.getLsbD (r.gti.extractLsb' 26 6).toNat = false)
      let delta : Nat := if r.kind = 8 then 0 else r.cycle - ((b.die (dieOf c)).trace.sync.getD r.cycle)
      (off ∨ (b.putRecord (dieOf c) (recordWord r.gti.toNat r.aux.toNat r.kind delta)
        (if r.kind = 8 then r.aux.toNat else 1)).2.short ≠ some none) →
      ∃ t, exec (.traceWrite (dieOf c) c) s = .next t ∧ (t.core c).stamps = l) ∧
    (∀ (vd : Nat) (v : Word), ∃ t w, exec (.leaseRequest vd v) s = .next t ∧
      mapGet? t.porch.lease.words vd = some w ∧ w.extractLsb' 48 16 = v.extractLsb' 48 16 ∧
      (w.extractLsb' 0 32).toNat = min (v.extractLsb' 0 32).toNat (s.die 0).leasemax.toNat) ∧
    (∀ vd l, s.porch.lease.active = none → s.porch.lease.queue = vd :: l →
      s.porch.lease.owed = [] → s.porch.lease.notBefore ≤ s.cycle → (mapGet 0 s.porch.lease.words vd).extractLsb' 0 32 ≠ 0 →
      (mapGet 0 s.porch.lease.words vd).extractLsb' 48 16 ≠ 0 → s.leaseCores vd = [] → s.othersInFlight vd = false →
      ∃ t, exec .leaseSliceStart s = .next t ∧ t.porch.lease.active = some vd) ∧
    ∀ vd, s.porch.lease.active = some vd → s.porch.lease.endAt ≤ s.cycle →
      ∃ t, exec .leaseSliceEnd s = .next t ∧ t.porch.lease.active = none

/-- The events of the corridors, the host, the trace and the lease complete. -/
def Obligations.EventsComplete : Prop :=
  Claim.CorridorEventsComplete ∧ Claim.HostEventsComplete ∧ Claim.TraceAndLeaseComplete

/-- Pre-emption: a request is kept until the core is saved; running strands stop, and when all stand still the porter's
work is saved, with a save area for every strand that holds work, and the handler of the requester's table entered;
the landlord's interrupts the keeper's; a resume restores what was saved, the registers from the save areas, with
the cores of the same bands, of their other bands, and so on, and lets the strands that pre-emption stopped run on
(R45, R54, R174 to R178). The phases of a save and what a resume reads are the model's choice (log 51). -/
def Claim.PreemptionAndResume : Prop :=
  ∀ (s : State) (c : Nat),
    let k := s.core c
    (∃ t, exec (.keeperPreemptRequest c) s = .next t ∧ (t.core c).preK = true ∧ (t.core c).preL = k.preL ∧
      (t.core c).strands = k.strands) ∧
    (∃ t, exec (.landlordPreemptRequest c) s = .next t ∧ (t.core c).preL = true ∧ (t.core c).preK = k.preK ∧
      (t.core c).strands = k.strands) ∧
    (k.preK = true ∨ k.preL = true → k.saved = none → k.machine = false →
      let ll := k.preL
      let tag := if ll then s.firstTag c else k.preTag
      let b := if ll && s.forLease c then s.leaseAsk (s.bandCores c)
        else (s.bandCores c).foldl (fun s d => s.askPreempt d ll) s
      let first : Bool := ll && s.forLease c && s.anyTrapped c
      (first = true → exec (.preemption c) s = .next (s.setCore c { k with preL := false })) ∧
      (first = false → (∃ p < 6, s.still c p ll = false) → ∃ t, exec (.preemption c) s = .next t ∧
        ∀ p < 6, (s.strand c p).st = .run → (s.strand c p).op = none →
          (t.strand c p).st = .stopped ∧ (t.strand c p).stopBy = .preempt ∧
          (t.strand c p).regs = (s.strand c p).regs) ∧
      (first = false → (∀ p < 6, s.still c p ll = true) → k.porter.op = none → k.porter.wait = .none → b.saveHeld c = false →
        let x := b.saveCore c ll tag
        let r := (b.saveReleases c).ease
        (∃ v, (x.core c).saved = some v ∧ v.landlord = ll ∧ v.tag = tag ∧ v.stack = k.porter.stack ∧
          v.queue = k.porter.queue ∧ v.keepers = k.porter.keepers ∧ v.rep = k.rep ∧ v.guards = k.guards ∧
          v.codebook = k.codebook ∧ v.msgs = (k.porter.msgs.take bufferRoom).map some ∧
          v.lost = k.porter.msgs.length - bufferRoom ∧
          ∀ p < 6, mapGet? v.areas p = if (r.strand c p).st = .idle then none else some (r.areaOf c p)) ∧
        ∀ h y, x.handler c tag.toNat ll 0 = (h, y) →
          (y.short = some none → exec (.preemption c) s = .next s) ∧
          (y.short = none → h = none → exec (.preemption c) s = .next y) ∧
          (∀ pc, y.short = none → h = some pc → ∃ t, exec (.preemption c) s = .next t ∧
            Entered y t c ⟨if ll then .preL else .preK, ll, tag, pc⟩ []))) ∧
    (∀ v, k.saved = some v → v.landlord = false → k.preL = true → k.machine = false → k.porter.op = none →
      k.porter.wait = .none →
      let x := s.saveOuter c v
      (∃ h, (x.core c).saved = some { v with landlord := true, outer := some h } ∧ h.stack = k.porter.stack ∧
        h.queue = k.porter.queue ∧ h.cur = k.porter.cur.map fun e => { e with pc := (s.regsOf c 6).pc }) ∧
      ∀ pc y, x.handler c v.tag.toNat true 0 = (some pc, y) → y.short = none → ∃ t, exec (.preemption c) s = .next t ∧
        Entered y t c ⟨.preL, true, v.tag, pc⟩ []) ∧
    (s.leaseBars c = true → ∀ d, exec (.resume d c) s = .next s) ∧
    (∀ v h, k.saved = some v → k.porter.cur = none → v.outer = some h → s.leaseBars c = false →
      (s.restoreOuter c v h).short ≠ some none → ∃ t, exec (.resume c c) s = .next t ∧
      (t.core c).saved = some { v with landlord := false, outer := none } ∧ (t.porter c).stack = h.stack ∧
      (t.porter c).cur.map (·.kind) = h.cur.map (·.kind) ∧ ∀ e, h.cur = some e → (t.regsOf c 6).pc = e.pc) ∧
    (∀ v, k.saved = some v → k.porter.cur = none → v.outer = none → k.ctxbuf = 0 → s.leaseBars c = false →
      (∀ d ∈ s.peersOf c, s.peerReady d = true) →
      ((s.peersOf c).foldl (fun t d => (t.reload d).restoreCore d) ((s.reload c).restoreCore c)).short ≠ some none →
      ∃ t, exec (.resume c c) s = .next t ∧
      (∀ d ∈ s.peersOf c, (t.core d).saved = none) ∧
      (t.core c).saved = none ∧ (t.core c).rep = v.rep ∧ (t.porter c).stack = v.stack ∧
      (t.porter c).cur.map (·.kind) = v.cur.map (·.kind) ∧
      (∀ e, v.cur = some e → (t.regsOf c 6).pc = e.pc) ∧
      ∀ p < 6, (s.strand c p).st = .stopped → (s.strand c p).stopBy = .preempt → (v.areas.map (·.1)).Nodup →
        (t.strand c p).regs = (match mapGet? v.areas p with
          | some a => regsOfArea a
          | none => (s.strand c p).regs) ∧
        ((s.die (dieOf c)).stops = [] → (t.strand c p).st = .run))

/-- Register writes that reach the machine by themselves: POOLPUSH and CONTROL_SPACE_WRITE append a populated frame to
the pool of the die and make the replays that wait for one due; a cluster reset empties the cluster, moves its
incarnation on and tells every home; a write of control space is the write of that die's register (R106, R167, R179,
R313, R314). What a cluster reset empties is the model's choice (log 50). -/
def Claim.RegisterEvents : Prop :=
  ∀ (s : State) (d : Nat) (v : Word),
    let frame := v &&& 0x0000FFFFFFFF0000
    let pa : Nat := 0xF00000000000 + d * 2 ^ 40 + 0x31 * 2 ^ 24
    (∀ e, e = Instr.poolpush d v ∨ (d < 8 ∧ e = .controlSpaceWrite (BitVec.ofNat 48 pa) v) →
      (frame = 0 ∨ populated frame.toNat = false → exec e s = .next s) ∧
      (frame ≠ 0 → populated frame.toNat = true → ∃ t, exec e s = .next t ∧
        (t.die d).pool = (s.die d).pool ++ [frame.toNat] ∧
        ∀ cl i l, mapGet? (s.cluster cl).log i = some l → mapGet? (t.cluster cl).log i =
          some (if l.frame = some d then { l with frame := none, sub := 0 } else l))) ∧
    (∀ cl, ((s.cluster cl).unacked = [] → ∃ t, exec (.clusterReset cl) s = .next t ∧
        (t.cluster cl).inc = (s.cluster cl).inc + 1 ∧ (t.cluster cl).cache = [] ∧ (t.cluster cl).queue = [] ∧
        ((∀ c p, clusterOf c = cl → p < 6 → (s.strand c p).st = .idle ∧ (s.strand c p).dying = none) →
          (t.cluster cl).log = []) ∧
        (∀ e ∈ (t.cluster cl).log, ∃ c p, clusterOf c = cl ∧ p < 6 ∧ (t.strand c p).dying.isSome = true ∧
          (t.strand c p).gti = e.2.gti) ∧
        (t.cluster cl).unacked = List.range 768) ∧
      ((s.cluster cl).unacked ≠ [] → exec (.clusterReset cl) s = .next s)) ∧
    (d < 8 → ∀ r ∈ [(0x30, { s.die d with miglimit := v.extractLsb' 0 32 }),
        (0x75, { s.die d with trace := { (s.die d).trace with vds := v } }),
        (0x77, { s.die d with leasemax := v.extractLsb' 0 32 })],
      exec (.controlSpaceWrite (BitVec.ofNat 48 (0xF00000000000 + d * 2 ^ 40 + r.1 * 2 ^ 24)) v) s =
        .next (s.setDie d r.2))

/-- Pre-emption, resumption, and register writes that reach the machine by themselves. -/
def Obligations.PreemptionAndRegisterEvents : Prop :=
  Claim.PreemptionAndResume ∧ Claim.RegisterEvents
end

