-- ==== Sys2Proof/Laws/Encode.lean ====
section
/-! SUPPORT. The laws of the operand codings: each decodes to what it encodes, and the fields of a word are those it was
made of. -/

set_option linter.unusedSimpArgs false

namespace Sys2Proof.Laws

@[simp] theorem decCh_encCh (c : Fin 4) : decCh (encCh c) = .ok c := by revert c; decide
@[simp] theorem decS_encS (d : SOp) : decS (encS d) = .ok d := by
  rcases d with i | c <;> [revert i; revert c] <;> decide
@[simp] theorem decV_encV (d : VOp) : decV (encV d) = .ok d := by
  rcases d with i | c <;> [revert i; revert c] <;> decide
@[simp] theorem decP_encPOp (d : POp) : decP (encPOp d) = .ok d := by
  rcases d with i | c <;> [revert i; revert c] <;> decide
@[simp] theorem decK_encKOp (d : KOp) : decK (encKOp d) = .ok d := by
  rcases d with i | c <;> [revert i; revert c] <;> decide
@[simp] theorem decKOpt_encKOpt (d : KOpt) : decKOpt (encKOpt d) = .ok d := by
  rcases d with _ | i | c <;> [skip; revert i; revert c] <;> decide
@[simp] theorem decX_encX (d : XOp) : decX (encX d) = .ok d := by
  rcases d with i | i | c <;> [revert i; revert i; revert c] <;> decide
@[simp] theorem decSeg_encSeg (i : Fin 8) : decSeg (encSeg i) = .ok i := by revert i; decide
@[simp] theorem decT_encT (t : ETy) : decT (encT t) = .ok t := by cases t <;> rfl
@[simp] theorem decScope_encScope (t : Scope) : decScope (encScope t) = .ok t := by cases t <;> rfl
@[simp] theorem decCond_encCond (t : Cond) : decCond (encCond t) = .ok t := by cases t <;> rfl
@[simp] theorem decFCond_encFCond (t : FCond) : decFCond (encFCond t) = .ok t := by cases t <;> rfl
@[simp] theorem decRm_encRm (t : Rm) : decRm (encRm t) = .ok t := by cases t <;> rfl
@[simp] theorem decQ4_encQ4 (b : Bool) : decQ4 (encQ4 b) = .ok b := by cases b <;> rfl
@[simp] theorem decW0_encW0 (w : Fin 4) : decW0 (encW0 w) = .ok w := by revert w; decide
@[simp] theorem decW_encW (w : WMod) : decW (encW w) = .ok w := by
  obtain ⟨b, w⟩ := w; revert b w; decide
@[simp] theorem decSI_encSI (b : SImm) : decSI (encSI b) (encSIx b) = .ok b := by
  rcases b with i | c | x
  · revert i; decide
  · revert c; decide
  · rfl
@[simp] theorem decVB_encVB (b : VB) : decVB (encVB b) (encVBx b) = .ok b := by
  rcases b with i | i | i | x | c
  · revert i; decide
  · revert i; decide
  · revert i; decide
  · rfl
  · revert c; decide
@[simp] theorem guard_enc (g : Guard) : (⟨(g.enc).toFin, g.neg⟩ : Guard) = g := by
  obtain ⟨p, n⟩ := g
  simp [Guard.enc]
theorem bit_append_hi {n m : Nat} (x : BitVec n) (y : BitVec m) (i : Nat) (h : m ≤ i) :
    (x ++ y).getLsbD i = x.getLsbD (i - m) := by
  simp [BitVec.getLsbD_append, Nat.not_lt.mpr h]
theorem bit_append_lo {n m : Nat} (x : BitVec n) (y : BitVec m) (i : Nat) (h : i < m) :
    (x ++ y).getLsbD i = y.getLsbD i := by
  simp [BitVec.getLsbD_append, h]
theorem ofWord_toWord (f : Fields) : Fields.ofWord f.toWord = f := by
  obtain ⟨op, gu, ng, fn, d, a, b, m, x⟩ := f
  simp only [Fields.ofWord, Fields.toWord, Fields.mk.injEq]
  refine ⟨?_, ?_, ?_, ?_, ?_, ?_, ?_, ?_, ?_⟩ <;>
    first
    | (apply BitVec.eq_of_getLsbD_eq; intro i hi
       simp (disch := omega) only [BitVec.getLsbD_extractLsb', hi, decide_true, Bool.true_and, bit_append_lo, bit_append_hi]
       congr 1; omega)
    | (simp (disch := omega) only [bit_append_lo, bit_append_hi]; simp)
@[simp] theorem bind_ok {α β : Type} (x : α) (f : α → Except DecodeError β) : (Except.ok x >>= f) = f x := rfl
@[simp] theorem map_ok {α β : Type} (x : α) (f : α → β) : (Except.ok x : Except DecodeError α).map f = .ok (f x) := rfl

@[simp] theorem xRm_encE (c s st sa rm) : xRm (encE c s st sa rm) = rm := by
  apply BitVec.eq_of_getLsbD_eq; intro i hi
  simp (disch := omega) only [xRm, encE, BitVec.getLsbD_extractLsb', hi, decide_true, Bool.true_and, bit_append_lo, Nat.zero_add]
@[simp] theorem xSat_encE (c s st sa rm) : xSat (encE c s st sa rm) = sa := by
  simp (disch := omega) only [xSat, encE, bit_append_lo, bit_append_hi]; simp
@[simp] theorem xSt_encE (c s st sa rm) : xSt (encE c s st sa rm) = st := by
  apply BitVec.eq_of_getLsbD_eq; intro i hi
  simp (disch := omega) only [xSt, encE, BitVec.getLsbD_extractLsb', hi, decide_true, Bool.true_and, bit_append_lo, bit_append_hi]
  congr 1; omega
@[simp] theorem xSgn_encE (c s st sa rm) : xSgn (encE c s st sa rm) = s := by
  simp (disch := omega) only [xSgn, encE, bit_append_lo, bit_append_hi]; simp
@[simp] theorem xCond_encE (c s st sa rm) : xCond (encE c s st sa rm) = c := by
  apply BitVec.eq_of_getLsbD_eq; intro i hi
  simp (disch := omega) only [xCond, encE, BitVec.getLsbD_extractLsb', hi, decide_true, Bool.true_and, bit_append_lo, bit_append_hi]
  congr 1; omega
@[simp] theorem xTopE_encE (c s st sa rm) : xTopE (encE c s st sa rm) = 0 := by
  apply BitVec.eq_of_getLsbD_eq; intro i hi
  simp (disch := omega) only [xTopE, encE, BitVec.getLsbD_extractLsb', hi, decide_true, Bool.true_and, bit_append_hi, BitVec.getLsbD_zero]; simp
@[simp] theorem xRm_encK (f sa rm) : xRm (encK f sa rm) = rm := by
  apply BitVec.eq_of_getLsbD_eq; intro i hi
  simp (disch := omega) only [xRm, encK, BitVec.getLsbD_extractLsb', hi, decide_true, Bool.true_and, bit_append_lo, Nat.zero_add]
@[simp] theorem xSat_encK (f sa rm) : xSat (encK f sa rm) = sa := by
  simp (disch := omega) only [xSat, encK, bit_append_lo, bit_append_hi]; simp
@[simp] theorem xFmta_encK (f sa rm) : xFmta (encK f sa rm) = f := by
  apply BitVec.eq_of_getLsbD_eq; intro i hi
  simp (disch := omega) only [xFmta, encK, BitVec.getLsbD_extractLsb', hi, decide_true, Bool.true_and, bit_append_lo, bit_append_hi]
  congr 1; omega
@[simp] theorem xMidK_encK (f sa rm) : xMidK (encK f sa rm) = 0 := by
  apply BitVec.eq_of_getLsbD_eq; intro i hi
  simp (disch := omega) only [xMidK, encK, BitVec.getLsbD_extractLsb', hi, decide_true, Bool.true_and, bit_append_lo, bit_append_hi, BitVec.getLsbD_zero]; simp
@[simp] theorem xTopK_encK (f sa rm) : xTopK (encK f sa rm) = 0 := by
  apply BitVec.eq_of_getLsbD_eq; intro i hi
  simp (disch := omega) only [xTopK, encK, BitVec.getLsbD_extractLsb', hi, decide_true, Bool.true_and, bit_append_lo, bit_append_hi, BitVec.getLsbD_zero]; simp

theorem ex_lo {n m k : Nat} (x : BitVec n) (y : BitVec m) (s : Nat) (hs : s + k ≤ m) :
    (x ++ y).extractLsb' s k = y.extractLsb' s k := by
  apply BitVec.eq_of_getLsbD_eq; intro i hi
  simp (disch := omega) only [BitVec.getLsbD_extractLsb', hi, decide_true, Bool.true_and, bit_append_lo]
theorem ex_hi {n m k : Nat} (x : BitVec n) (y : BitVec m) (s : Nat) (hs : m ≤ s) :
    (x ++ y).extractLsb' s k = x.extractLsb' (s - m) k := by
  apply BitVec.eq_of_getLsbD_eq; intro i hi
  simp (disch := omega) only [BitVec.getLsbD_extractLsb', hi, decide_true, Bool.true_and, bit_append_hi]
  congr 1; omega
theorem ex_all {n : Nat} (x : BitVec n) : x.extractLsb' 0 n = x := by
  apply BitVec.eq_of_getLsbD_eq; intro i hi
  simp [hi]
theorem fin3 : ∀ i : Fin 8, (BitVec.ofNat 3 i.val).toFin = i := by decide
@[simp] theorem decBr_encBr (o) : decBr (encBr o) = .ok o := by
  simp (disch := omega) only [decBr, encBr, ex_lo, ex_hi, ex_all]; rfl
@[simp] theorem decQ_encQ (o) : decQ (encQ o) = .ok o := by
  simp (disch := omega) only [decQ, encQ, ex_lo, ex_hi, ex_all]; rfl
@[simp] theorem decH_encH (o) : decH (encH o) = .ok o := by
  simp (disch := omega) only [decH, encH, ex_lo, ex_hi, ex_all]; rfl
@[simp] theorem decY_encY (o) : decY (encY o) = .ok o := by
  simp (disch := omega) only [decY, encY, ex_lo, ex_hi, ex_all]; rfl
@[simp] theorem decL_encL (m : LMem) : decL (encS m.a) (encL m) = .ok m := by
  simp (disch := omega) only [decL, encL, ex_lo, ex_hi, ex_all, decS_encS, bind_ok]; rfl
@[simp] theorem decG_encG (m : GMem) : decG (encS m.a) (encG m) = .ok m := by
  simp (disch := omega) only [decG, encG, ex_lo, ex_hi, ex_all, decS_encS, bind_ok, fin3]
  simp [fin3, zero, ex_all]
@[simp] theorem xTopP_encP (a b c d e) : xTopP (encP a b c d e) = 0 := by
  simp (disch := omega) only [xTopP, encP, ex_lo, ex_hi, ex_all]; rfl
@[simp] theorem xStrb_encP (a b c d e) : xStrb (encP a b c d e) = a := by
  simp (disch := omega) only [xStrb, encP, ex_lo, ex_hi, ex_all]; simp [ex_all]
@[simp] theorem xStra_encP (a b c d e) : xStra (encP a b c d e) = b := by
  simp (disch := omega) only [xStra, encP, ex_lo, ex_hi, ex_all]; simp [ex_all]
@[simp] theorem xStrd_encP (a b c d e) : xStrd (encP a b c d e) = c := by
  simp (disch := omega) only [xStrd, encP, ex_lo, ex_hi, ex_all]; simp [ex_all]
@[simp] theorem xSeqlen_encP (a b c d e) : xSeqlen (encP a b c d e) = d := by
  simp (disch := omega) only [xSeqlen, encP, ex_lo, ex_hi, ex_all]; simp [ex_all, fin3]
@[simp] theorem xCount_encP (a b c d e) : xCount (encP a b c d e) = e := by
  simp (disch := omega) only [xCount, encP, ex_lo, ex_hi, ex_all]

theorem decVB_reg (b : VB) (x y z : Bool) (h : b.among x y z false = true) : decVB (encVB b) 0#48 = .ok b := by
  rcases b with i | i | i | n | c
  · exact decVB_encVB (.v i)
  · exact decVB_encVB (.s i)
  · exact decVB_encVB (.k i)
  · simp [VB.among] at h
  · exact decVB_encVB (.ch c)

end Sys2Proof.Laws
end

