-- ==== Sys2Proof/Laws/Maps.lean ====
section
/-! SUPPORT. What the finite maps, the byte memories and the sets of Machine/Maps.lean do. -/

namespace Sys2Proof.Machine

/-! Maps -/

theorem mapGet?_mapPut_same {α : Type} (m : SMap α) (i : Nat) (x : α) : mapGet? (mapPut m i x) i = some x := by
  induction m with
  | nil => simp [mapPut, mapGet?]
  | cons e t ih =>
    obtain ⟨j, y⟩ := e
    by_cases h1 : i < j
    · simp [mapPut, h1, mapGet?]
    · by_cases h2 : i = j
      · simp [mapPut, h2, mapGet?]
      · simp [mapPut, h1, h2, mapGet?, Ne.symm h2, ih]

theorem mapGet?_mapPut_other {α : Type} (m : SMap α) (i k : Nat) (x : α) (h : k ≠ i) :
    mapGet? (mapPut m i x) k = mapGet? m k := by
  induction m with
  | nil => simp [mapPut, mapGet?, Ne.symm h]
  | cons e t ih =>
    obtain ⟨j, y⟩ := e
    by_cases h1 : i < j
    · simp [mapPut, h1, mapGet?, Ne.symm h]
    · by_cases h2 : i = j
      · subst h2; simp [mapPut, mapGet?, Ne.symm h]
      · by_cases h3 : j = k
        · subst h3; simp [mapPut, h1, h2, mapGet?]
        · simp [mapPut, h1, h2, mapGet?, h3, ih]

@[simp] theorem mapGet_mapPut_same {α : Type} (d : α) (m : SMap α) (i : Nat) (x : α) :
    mapGet d (mapPut m i x) i = x := by simp [mapGet, mapGet?_mapPut_same]

theorem mapGet_mapPut_other {α : Type} (d : α) (m : SMap α) (i k : Nat) (x : α) (h : k ≠ i) :
    mapGet d (mapPut m i x) k = mapGet d m k := by simp [mapGet, mapGet?_mapPut_other m i k x h]

/-- A read after a write, in one equation. -/
theorem mapGet_mapPut {α : Type} (d : α) (m : SMap α) (i k : Nat) (x : α) :
    mapGet d (mapPut m i x) k = if k = i then x else mapGet d m k := by
  split
  · next h => subst h; simp
  · next h => exact mapGet_mapPut_other d m i k x h

@[simp] theorem mapPut_mapPut {α : Type} (m : SMap α) (i : Nat) (x y : α) :
    mapPut (mapPut m i x) i y = mapPut m i y := by
  induction m with
  | nil => simp [mapPut]
  | cons e t ih =>
    obtain ⟨j, z⟩ := e
    by_cases h1 : i < j
    · simp [mapPut, h1]
    · by_cases h2 : i = j
      · simp [mapPut, h2]
      · simp [mapPut, h1, h2, ih]

/-- Every entry of a map after a write is the one written or an old one. -/
theorem mem_mapPut {α : Type} {m : SMap α} {i : Nat} {x : α} {e : Nat × α} (h : e ∈ mapPut m i x) :
    e = (i, x) ∨ e ∈ m := by
  induction m with
  | nil => simp [mapPut] at h; exact .inl h
  | cons c t ih =>
    obtain ⟨j, y⟩ := c
    simp only [mapPut] at h
    split at h
    · simpa [or_assoc] using h
    · split at h
      · rcases List.mem_cons.mp h with h | h
        · exact .inl h
        · exact .inr (List.mem_cons_of_mem _ h)
      · rcases List.mem_cons.mp h with h | h
        · exact .inr (by simp [h])
        · rcases ih h with h | h
          · exact .inl h
          · exact .inr (List.mem_cons_of_mem _ h)

/-- What a map finds at a key is one of its entries. -/
theorem mem_of_mapGet? {α : Type} {m : SMap α} {i : Nat} {x : α} (h : mapGet? m i = some x) : (i, x) ∈ m := by
  induction m with
  | nil => simp [mapGet?] at h
  | cons c t ih =>
    obtain ⟨j, y⟩ := c
    simp only [mapGet?] at h
    split at h
    · next hj => simp_all
    · exact List.mem_cons_of_mem _ (ih h)

/-! Memories -/

theorem memWfFrom_mono {m : Mem} {a b : Nat} (h : memWfFrom b m = true) (hab : a ≤ b) : memWfFrom a m = true := by
  cases m with
  | nil => rfl
  | cons e t =>
    obtain ⟨j, x⟩ := e
    simp only [memWfFrom, Bool.and_eq_true, decide_eq_true_eq] at h ⊢
    exact ⟨⟨by omega, h.1.2⟩, h.2⟩

theorem memWrite_wfFrom {m : Mem} {lo i : Nat} {x : Byte} (h : memWfFrom lo m = true) (hi : lo ≤ i) :
    memWfFrom lo (memWrite m i x) = true := by
  induction m generalizing lo with
  | nil =>
    by_cases hx : x = 0#8
    · simp [memWrite, hx, memWfFrom]
    · simp [memWrite, hx, memWfFrom, hi]
  | cons e t ih =>
    obtain ⟨j, y⟩ := e
    simp only [memWfFrom, Bool.and_eq_true, decide_eq_true_eq, ne_eq, BitVec.ofNat_eq_ofNat] at h
    obtain ⟨⟨h1, h2⟩, h3⟩ := h
    simp only [memWrite, BitVec.ofNat_eq_ofNat]
    split
    · next hij =>
      split
      · simp [memWfFrom, h1, h2, h3]
      · next hx => simp [memWfFrom, hi, hx, h2, h3, Nat.succ_le_of_lt hij]
    · split
      · next hij =>
        subst hij
        split
        · exact memWfFrom_mono h3 (by omega)
        · next hx => simp [memWfFrom, hi, hx, h3]
      · next hlt hne =>
        have : memWfFrom (j + 1) (memWrite t i x) = true := ih h3 (by omega)
        simp [memWfFrom, h1, h2, this]

/-- A write keeps the canonical form. -/
theorem memWrite_wf {m : Mem} (i : Nat) (x : Byte) (h : memWf m = true) : memWf (memWrite m i x) = true :=
  memWrite_wfFrom h (Nat.zero_le i)

/-- Many writes keep the canonical form. -/
theorem memWriteList_wf {m : Mem} (a : Nat) (l : List Byte) (h : memWf m = true) :
    memWf (memWriteList m a l) = true := by
  induction l generalizing m a with
  | nil => exact h
  | cons b t ih => exact ih (a + 1) (memWrite_wf a b h)

/-- Writes folded over a list keep the canonical form. -/
theorem foldl_memWrite_wf {β : Type} {m : Mem} (l : List β) (f : β → Nat) (g : β → Byte)
    (h : memWf m = true) : memWf (l.foldl (fun m e => memWrite m (f e) (g e)) m) = true := by
  induction l generalizing m with
  | nil => exact h
  | cons b t ih => exact ih (memWrite_wf _ _ h)

theorem filter_wfFrom {m : Mem} {lo : Nat} (p : Host.Cell → Bool) (h : memWfFrom lo m = true) :
    memWfFrom lo (m.filter p) = true := by
  induction m generalizing lo with
  | nil => rfl
  | cons e t ih =>
    obtain ⟨j, y⟩ := e
    simp only [memWfFrom, Bool.and_eq_true, decide_eq_true_eq, ne_eq, BitVec.ofNat_eq_ofNat] at h
    obtain ⟨⟨h1, h2⟩, h3⟩ := h
    simp only [List.filter]
    split
    · simp [memWfFrom, h1, h2, ih h3]
    · exact memWfFrom_mono (ih h3) (by omega)

/-- Dropping entries keeps the canonical form. -/
theorem filter_wf {m : Mem} (p : Host.Cell → Bool) (h : memWf m = true) : memWf (m.filter p) = true :=
  filter_wfFrom p h

theorem memRead_of_lt {m : Mem} {lo i : Nat} (h : memWfFrom lo m = true) (hi : i < lo) : memRead m i = 0 := by
  cases m with
  | nil => rfl
  | cons e t =>
    obtain ⟨j, y⟩ := e
    simp only [memWfFrom, Bool.and_eq_true, decide_eq_true_eq, ne_eq, BitVec.ofNat_eq_ofNat] at h
    simp only [memRead]
    rw [if_neg (by omega), if_pos (by omega)]

theorem memRead_memWrite_from {m : Mem} {lo : Nat} (i k : Nat) (x : Byte) (h : memWfFrom lo m = true) :
    memRead (memWrite m i x) k = if k = i then x else memRead m k := by
  induction m generalizing lo with
  | nil =>
    by_cases hx : x = 0#8
    · simp [memWrite, hx, memRead]
    · by_cases hk : k = i
      · simp [memWrite, hx, memRead, hk]
      · simp [memWrite, hx, memRead, hk, Ne.symm hk]
  | cons e t ih =>
    obtain ⟨j, y⟩ := e
    simp only [memWfFrom, Bool.and_eq_true, decide_eq_true_eq, ne_eq, BitVec.ofNat_eq_ofNat] at h
    obtain ⟨⟨h1, h2⟩, h3⟩ := h
    simp only [memWrite, BitVec.ofNat_eq_ofNat]
    split
    · next hij =>
      by_cases hx : x = 0#8
      · simp only [hx, if_true]
        split
        · next hk => subst hk; simp [memRead, hij, Nat.ne_of_gt hij]
        · rfl
      · simp only [hx, if_false, memRead]
        by_cases hk : k = i
        · simp [hk]
        · rw [if_neg (Ne.symm hk), if_neg hk]
          split
          · rw [if_neg (by omega), if_pos (by omega)]
          · rfl
    · split
      · next hij =>
        subst hij
        by_cases hx : x = 0#8
        · simp only [hx, if_true, memRead]
          by_cases hk : k = i
          · subst hk; simp [memRead_of_lt h3 (Nat.lt_succ_self k)]
          · rw [if_neg hk, if_neg (Ne.symm hk)]
            split
            · exact memRead_of_lt h3 (by omega)
            · rfl
        · simp only [hx, if_false, memRead]
          by_cases hk : k = i
          · simp [hk]
          · simp [hk, Ne.symm hk]
      · next hlt hne =>
        simp only [memRead]
        by_cases hk : j = k
        · subst hk; simp [Ne.symm hne]
        · rw [if_neg hk, if_neg hk]
          split
          · next hkj => rw [if_neg (by omega)]
          · exact ih h3

/-- A read after a write in a canonical memory. -/
theorem memRead_memWrite {m : Mem} (i k : Nat) (x : Byte) (h : memWf m = true) :
    memRead (memWrite m i x) k = if k = i then x else memRead m k := memRead_memWrite_from i k x h

end Sys2Proof.Machine
end

