-- ==== Sys2Proof/Laws/State.lean ====
section
/-! SUPPORT. The components of the state: one lemma for each field and each update, and what a component
reads after a write of it or of another. -/

namespace Sys2Proof.Machine

/-! Fields that an update of a component leaves -/


@[simp] theorem setCore_cycle (s : State) (c : Nat) (x : Core) : (s.setCore c x).cycle = s.cycle := rfl
@[simp] theorem setCore_cur (s : State) (c : Nat) (x : Core) : (s.setCore c x).cur = s.cur := rfl
@[simp] theorem setCore_since (s : State) (c : Nat) (x : Core) : (s.setCore c x).since = s.since := rfl
@[simp] theorem setCore_due (s : State) (c : Nat) (x : Core) : (s.setCore c x).due = s.due := rfl
@[simp] theorem setCore_agenda (s : State) (c : Nat) (x : Core) : (s.setCore c x).agenda = s.agenda := rfl
@[simp] theorem setCore_upsets (s : State) (c : Nat) (x : Core) : (s.setCore c x).upsets = s.upsets := rfl
@[simp] theorem setCore_clusters (s : State) (c : Nat) (x : Core) : (s.setCore c x).clusters = s.clusters := rfl
@[simp] theorem setCore_slices (s : State) (c : Nat) (x : Core) : (s.setCore c x).slices = s.slices := rfl
@[simp] theorem setCore_dies (s : State) (c : Nat) (x : Core) : (s.setCore c x).dies = s.dies := rfl
@[simp] theorem setCore_porch (s : State) (c : Nat) (x : Core) : (s.setCore c x).porch = s.porch := rfl
@[simp] theorem setCore_mem (s : State) (c : Nat) (x : Core) : (s.setCore c x).mem = s.mem := rfl
@[simp] theorem setCore_memP (s : State) (c : Nat) (x : Core) : (s.setCore c x).memP = s.memP := rfl
@[simp] theorem setCore_rekeyed (s : State) (c : Nat) (x : Core) : (s.setCore c x).rekeyed = s.rekeyed := rfl
@[simp] theorem setCore_badBursts (s : State) (c : Nat) (x : Core) : (s.setCore c x).badBursts = s.badBursts := rfl
@[simp] theorem setCore_hostMem (s : State) (c : Nat) (x : Core) : (s.setCore c x).hostMem = s.hostMem := rfl
@[simp] theorem setCore_peerMem (s : State) (c : Nat) (x : Core) : (s.setCore c x).peerMem = s.peerMem := rfl
@[simp] theorem setCore_net (s : State) (c : Nat) (x : Core) : (s.setCore c x).net = s.net := rfl
@[simp] theorem setCore_nextId (s : State) (c : Nat) (x : Core) : (s.setCore c x).nextId = s.nextId := rfl
@[simp] theorem setCore_free (s : State) (c : Nat) (x : Core) : (s.setCore c x).free = s.free := rfl
@[simp] theorem setCore_short (s : State) (c : Nat) (x : Core) : (s.setCore c x).short = s.short := rfl

@[simp] theorem setStrand_cycle (s : State) (c p : Nat) (x : Strand) : (s.setStrand c p x).cycle = s.cycle := rfl
@[simp] theorem setStrand_cur (s : State) (c p : Nat) (x : Strand) : (s.setStrand c p x).cur = s.cur := rfl
@[simp] theorem setStrand_since (s : State) (c p : Nat) (x : Strand) : (s.setStrand c p x).since = s.since := rfl
@[simp] theorem setStrand_due (s : State) (c p : Nat) (x : Strand) : (s.setStrand c p x).due = s.due := rfl
@[simp] theorem setStrand_agenda (s : State) (c p : Nat) (x : Strand) : (s.setStrand c p x).agenda = s.agenda := rfl
@[simp] theorem setStrand_upsets (s : State) (c p : Nat) (x : Strand) : (s.setStrand c p x).upsets = s.upsets := rfl
@[simp] theorem setStrand_clusters (s : State) (c p : Nat) (x : Strand) : (s.setStrand c p x).clusters = s.clusters := rfl
@[simp] theorem setStrand_slices (s : State) (c p : Nat) (x : Strand) : (s.setStrand c p x).slices = s.slices := rfl
@[simp] theorem setStrand_dies (s : State) (c p : Nat) (x : Strand) : (s.setStrand c p x).dies = s.dies := rfl
@[simp] theorem setStrand_porch (s : State) (c p : Nat) (x : Strand) : (s.setStrand c p x).porch = s.porch := rfl
@[simp] theorem setStrand_mem (s : State) (c p : Nat) (x : Strand) : (s.setStrand c p x).mem = s.mem := rfl
@[simp] theorem setStrand_memP (s : State) (c p : Nat) (x : Strand) : (s.setStrand c p x).memP = s.memP := rfl
@[simp] theorem setStrand_rekeyed (s : State) (c p : Nat) (x : Strand) : (s.setStrand c p x).rekeyed = s.rekeyed := rfl
@[simp] theorem setStrand_badBursts (s : State) (c p : Nat) (x : Strand) : (s.setStrand c p x).badBursts = s.badBursts := rfl
@[simp] theorem setStrand_hostMem (s : State) (c p : Nat) (x : Strand) : (s.setStrand c p x).hostMem = s.hostMem := rfl
@[simp] theorem setStrand_peerMem (s : State) (c p : Nat) (x : Strand) : (s.setStrand c p x).peerMem = s.peerMem := rfl
@[simp] theorem setStrand_net (s : State) (c p : Nat) (x : Strand) : (s.setStrand c p x).net = s.net := rfl
@[simp] theorem setStrand_nextId (s : State) (c p : Nat) (x : Strand) : (s.setStrand c p x).nextId = s.nextId := rfl
@[simp] theorem setStrand_free (s : State) (c p : Nat) (x : Strand) : (s.setStrand c p x).free = s.free := rfl
@[simp] theorem setStrand_short (s : State) (c p : Nat) (x : Strand) : (s.setStrand c p x).short = s.short := rfl

@[simp] theorem setPorter_cycle (s : State) (c : Nat) (x : Porter) : (s.setPorter c x).cycle = s.cycle := rfl
@[simp] theorem setPorter_cur (s : State) (c : Nat) (x : Porter) : (s.setPorter c x).cur = s.cur := rfl
@[simp] theorem setPorter_since (s : State) (c : Nat) (x : Porter) : (s.setPorter c x).since = s.since := rfl
@[simp] theorem setPorter_due (s : State) (c : Nat) (x : Porter) : (s.setPorter c x).due = s.due := rfl
@[simp] theorem setPorter_agenda (s : State) (c : Nat) (x : Porter) : (s.setPorter c x).agenda = s.agenda := rfl
@[simp] theorem setPorter_upsets (s : State) (c : Nat) (x : Porter) : (s.setPorter c x).upsets = s.upsets := rfl
@[simp] theorem setPorter_clusters (s : State) (c : Nat) (x : Porter) : (s.setPorter c x).clusters = s.clusters := rfl
@[simp] theorem setPorter_slices (s : State) (c : Nat) (x : Porter) : (s.setPorter c x).slices = s.slices := rfl
@[simp] theorem setPorter_dies (s : State) (c : Nat) (x : Porter) : (s.setPorter c x).dies = s.dies := rfl
@[simp] theorem setPorter_porch (s : State) (c : Nat) (x : Porter) : (s.setPorter c x).porch = s.porch := rfl
@[simp] theorem setPorter_mem (s : State) (c : Nat) (x : Porter) : (s.setPorter c x).mem = s.mem := rfl
@[simp] theorem setPorter_memP (s : State) (c : Nat) (x : Porter) : (s.setPorter c x).memP = s.memP := rfl
@[simp] theorem setPorter_rekeyed (s : State) (c : Nat) (x : Porter) : (s.setPorter c x).rekeyed = s.rekeyed := rfl
@[simp] theorem setPorter_badBursts (s : State) (c : Nat) (x : Porter) : (s.setPorter c x).badBursts = s.badBursts := rfl
@[simp] theorem setPorter_hostMem (s : State) (c : Nat) (x : Porter) : (s.setPorter c x).hostMem = s.hostMem := rfl
@[simp] theorem setPorter_peerMem (s : State) (c : Nat) (x : Porter) : (s.setPorter c x).peerMem = s.peerMem := rfl
@[simp] theorem setPorter_net (s : State) (c : Nat) (x : Porter) : (s.setPorter c x).net = s.net := rfl
@[simp] theorem setPorter_nextId (s : State) (c : Nat) (x : Porter) : (s.setPorter c x).nextId = s.nextId := rfl
@[simp] theorem setPorter_free (s : State) (c : Nat) (x : Porter) : (s.setPorter c x).free = s.free := rfl
@[simp] theorem setPorter_short (s : State) (c : Nat) (x : Porter) : (s.setPorter c x).short = s.short := rfl

@[simp] theorem setCluster_cycle (s : State) (k : Nat) (x : Cluster) : (s.setCluster k x).cycle = s.cycle := rfl
@[simp] theorem setCluster_cur (s : State) (k : Nat) (x : Cluster) : (s.setCluster k x).cur = s.cur := rfl
@[simp] theorem setCluster_since (s : State) (k : Nat) (x : Cluster) : (s.setCluster k x).since = s.since := rfl
@[simp] theorem setCluster_due (s : State) (k : Nat) (x : Cluster) : (s.setCluster k x).due = s.due := rfl
@[simp] theorem setCluster_agenda (s : State) (k : Nat) (x : Cluster) : (s.setCluster k x).agenda = s.agenda := rfl
@[simp] theorem setCluster_upsets (s : State) (k : Nat) (x : Cluster) : (s.setCluster k x).upsets = s.upsets := rfl
@[simp] theorem setCluster_cores (s : State) (k : Nat) (x : Cluster) : (s.setCluster k x).cores = s.cores := rfl
@[simp] theorem setCluster_slices (s : State) (k : Nat) (x : Cluster) : (s.setCluster k x).slices = s.slices := rfl
@[simp] theorem setCluster_dies (s : State) (k : Nat) (x : Cluster) : (s.setCluster k x).dies = s.dies := rfl
@[simp] theorem setCluster_porch (s : State) (k : Nat) (x : Cluster) : (s.setCluster k x).porch = s.porch := rfl
@[simp] theorem setCluster_mem (s : State) (k : Nat) (x : Cluster) : (s.setCluster k x).mem = s.mem := rfl
@[simp] theorem setCluster_memP (s : State) (k : Nat) (x : Cluster) : (s.setCluster k x).memP = s.memP := rfl
@[simp] theorem setCluster_rekeyed (s : State) (k : Nat) (x : Cluster) : (s.setCluster k x).rekeyed = s.rekeyed := rfl
@[simp] theorem setCluster_badBursts (s : State) (k : Nat) (x : Cluster) : (s.setCluster k x).badBursts = s.badBursts := rfl
@[simp] theorem setCluster_hostMem (s : State) (k : Nat) (x : Cluster) : (s.setCluster k x).hostMem = s.hostMem := rfl
@[simp] theorem setCluster_peerMem (s : State) (k : Nat) (x : Cluster) : (s.setCluster k x).peerMem = s.peerMem := rfl
@[simp] theorem setCluster_net (s : State) (k : Nat) (x : Cluster) : (s.setCluster k x).net = s.net := rfl
@[simp] theorem setCluster_nextId (s : State) (k : Nat) (x : Cluster) : (s.setCluster k x).nextId = s.nextId := rfl
@[simp] theorem setCluster_free (s : State) (k : Nat) (x : Cluster) : (s.setCluster k x).free = s.free := rfl
@[simp] theorem setCluster_short (s : State) (k : Nat) (x : Cluster) : (s.setCluster k x).short = s.short := rfl

@[simp] theorem setCtx_cycle (s : State) (k t : Nat) (x : Ctx) : (s.setCtx k t x).cycle = s.cycle := rfl
@[simp] theorem setCtx_cur (s : State) (k t : Nat) (x : Ctx) : (s.setCtx k t x).cur = s.cur := rfl
@[simp] theorem setCtx_since (s : State) (k t : Nat) (x : Ctx) : (s.setCtx k t x).since = s.since := rfl
@[simp] theorem setCtx_due (s : State) (k t : Nat) (x : Ctx) : (s.setCtx k t x).due = s.due := rfl
@[simp] theorem setCtx_agenda (s : State) (k t : Nat) (x : Ctx) : (s.setCtx k t x).agenda = s.agenda := rfl
@[simp] theorem setCtx_upsets (s : State) (k t : Nat) (x : Ctx) : (s.setCtx k t x).upsets = s.upsets := rfl
@[simp] theorem setCtx_cores (s : State) (k t : Nat) (x : Ctx) : (s.setCtx k t x).cores = s.cores := rfl
@[simp] theorem setCtx_slices (s : State) (k t : Nat) (x : Ctx) : (s.setCtx k t x).slices = s.slices := rfl
@[simp] theorem setCtx_dies (s : State) (k t : Nat) (x : Ctx) : (s.setCtx k t x).dies = s.dies := rfl
@[simp] theorem setCtx_porch (s : State) (k t : Nat) (x : Ctx) : (s.setCtx k t x).porch = s.porch := rfl
@[simp] theorem setCtx_mem (s : State) (k t : Nat) (x : Ctx) : (s.setCtx k t x).mem = s.mem := rfl
@[simp] theorem setCtx_memP (s : State) (k t : Nat) (x : Ctx) : (s.setCtx k t x).memP = s.memP := rfl
@[simp] theorem setCtx_rekeyed (s : State) (k t : Nat) (x : Ctx) : (s.setCtx k t x).rekeyed = s.rekeyed := rfl
@[simp] theorem setCtx_badBursts (s : State) (k t : Nat) (x : Ctx) : (s.setCtx k t x).badBursts = s.badBursts := rfl
@[simp] theorem setCtx_hostMem (s : State) (k t : Nat) (x : Ctx) : (s.setCtx k t x).hostMem = s.hostMem := rfl
@[simp] theorem setCtx_peerMem (s : State) (k t : Nat) (x : Ctx) : (s.setCtx k t x).peerMem = s.peerMem := rfl
@[simp] theorem setCtx_net (s : State) (k t : Nat) (x : Ctx) : (s.setCtx k t x).net = s.net := rfl
@[simp] theorem setCtx_nextId (s : State) (k t : Nat) (x : Ctx) : (s.setCtx k t x).nextId = s.nextId := rfl
@[simp] theorem setCtx_free (s : State) (k t : Nat) (x : Ctx) : (s.setCtx k t x).free = s.free := rfl
@[simp] theorem setCtx_short (s : State) (k t : Nat) (x : Ctx) : (s.setCtx k t x).short = s.short := rfl

@[simp] theorem setSlice_cycle (s : State) (i : Nat) (x : Slice) : (s.setSlice i x).cycle = s.cycle := rfl
@[simp] theorem setSlice_cur (s : State) (i : Nat) (x : Slice) : (s.setSlice i x).cur = s.cur := rfl
@[simp] theorem setSlice_since (s : State) (i : Nat) (x : Slice) : (s.setSlice i x).since = s.since := rfl
@[simp] theorem setSlice_due (s : State) (i : Nat) (x : Slice) : (s.setSlice i x).due = s.due := rfl
@[simp] theorem setSlice_agenda (s : State) (i : Nat) (x : Slice) : (s.setSlice i x).agenda = s.agenda := rfl
@[simp] theorem setSlice_upsets (s : State) (i : Nat) (x : Slice) : (s.setSlice i x).upsets = s.upsets := rfl
@[simp] theorem setSlice_cores (s : State) (i : Nat) (x : Slice) : (s.setSlice i x).cores = s.cores := rfl
@[simp] theorem setSlice_clusters (s : State) (i : Nat) (x : Slice) : (s.setSlice i x).clusters = s.clusters := rfl
@[simp] theorem setSlice_dies (s : State) (i : Nat) (x : Slice) : (s.setSlice i x).dies = s.dies := rfl
@[simp] theorem setSlice_porch (s : State) (i : Nat) (x : Slice) : (s.setSlice i x).porch = s.porch := rfl
@[simp] theorem setSlice_mem (s : State) (i : Nat) (x : Slice) : (s.setSlice i x).mem = s.mem := rfl
@[simp] theorem setSlice_memP (s : State) (i : Nat) (x : Slice) : (s.setSlice i x).memP = s.memP := rfl
@[simp] theorem setSlice_rekeyed (s : State) (i : Nat) (x : Slice) : (s.setSlice i x).rekeyed = s.rekeyed := rfl
@[simp] theorem setSlice_badBursts (s : State) (i : Nat) (x : Slice) : (s.setSlice i x).badBursts = s.badBursts := rfl
@[simp] theorem setSlice_hostMem (s : State) (i : Nat) (x : Slice) : (s.setSlice i x).hostMem = s.hostMem := rfl
@[simp] theorem setSlice_peerMem (s : State) (i : Nat) (x : Slice) : (s.setSlice i x).peerMem = s.peerMem := rfl
@[simp] theorem setSlice_net (s : State) (i : Nat) (x : Slice) : (s.setSlice i x).net = s.net := rfl
@[simp] theorem setSlice_nextId (s : State) (i : Nat) (x : Slice) : (s.setSlice i x).nextId = s.nextId := rfl
@[simp] theorem setSlice_free (s : State) (i : Nat) (x : Slice) : (s.setSlice i x).free = s.free := rfl
@[simp] theorem setSlice_short (s : State) (i : Nat) (x : Slice) : (s.setSlice i x).short = s.short := rfl

@[simp] theorem setDie_cycle (s : State) (d : Nat) (x : Die) : (s.setDie d x).cycle = s.cycle := rfl
@[simp] theorem setDie_cur (s : State) (d : Nat) (x : Die) : (s.setDie d x).cur = s.cur := rfl
@[simp] theorem setDie_since (s : State) (d : Nat) (x : Die) : (s.setDie d x).since = s.since := rfl
@[simp] theorem setDie_due (s : State) (d : Nat) (x : Die) : (s.setDie d x).due = s.due := rfl
@[simp] theorem setDie_agenda (s : State) (d : Nat) (x : Die) : (s.setDie d x).agenda = s.agenda := rfl
@[simp] theorem setDie_upsets (s : State) (d : Nat) (x : Die) : (s.setDie d x).upsets = s.upsets := rfl
@[simp] theorem setDie_cores (s : State) (d : Nat) (x : Die) : (s.setDie d x).cores = s.cores := rfl
@[simp] theorem setDie_clusters (s : State) (d : Nat) (x : Die) : (s.setDie d x).clusters = s.clusters := rfl
@[simp] theorem setDie_slices (s : State) (d : Nat) (x : Die) : (s.setDie d x).slices = s.slices := rfl
@[simp] theorem setDie_porch (s : State) (d : Nat) (x : Die) : (s.setDie d x).porch = s.porch := rfl
@[simp] theorem setDie_mem (s : State) (d : Nat) (x : Die) : (s.setDie d x).mem = s.mem := rfl
@[simp] theorem setDie_memP (s : State) (d : Nat) (x : Die) : (s.setDie d x).memP = s.memP := rfl
@[simp] theorem setDie_rekeyed (s : State) (d : Nat) (x : Die) : (s.setDie d x).rekeyed = s.rekeyed := rfl
@[simp] theorem setDie_badBursts (s : State) (d : Nat) (x : Die) : (s.setDie d x).badBursts = s.badBursts := rfl
@[simp] theorem setDie_hostMem (s : State) (d : Nat) (x : Die) : (s.setDie d x).hostMem = s.hostMem := rfl
@[simp] theorem setDie_peerMem (s : State) (d : Nat) (x : Die) : (s.setDie d x).peerMem = s.peerMem := rfl
@[simp] theorem setDie_net (s : State) (d : Nat) (x : Die) : (s.setDie d x).net = s.net := rfl
@[simp] theorem setDie_nextId (s : State) (d : Nat) (x : Die) : (s.setDie d x).nextId = s.nextId := rfl
@[simp] theorem setDie_free (s : State) (d : Nat) (x : Die) : (s.setDie d x).free = s.free := rfl
@[simp] theorem setDie_short (s : State) (d : Nat) (x : Die) : (s.setDie d x).short = s.short := rfl

@[simp] theorem setVf_cycle (s : State) (v : Nat) (x : Vf) : (s.setVf v x).cycle = s.cycle := rfl
@[simp] theorem setVf_cur (s : State) (v : Nat) (x : Vf) : (s.setVf v x).cur = s.cur := rfl
@[simp] theorem setVf_since (s : State) (v : Nat) (x : Vf) : (s.setVf v x).since = s.since := rfl
@[simp] theorem setVf_due (s : State) (v : Nat) (x : Vf) : (s.setVf v x).due = s.due := rfl
@[simp] theorem setVf_agenda (s : State) (v : Nat) (x : Vf) : (s.setVf v x).agenda = s.agenda := rfl
@[simp] theorem setVf_upsets (s : State) (v : Nat) (x : Vf) : (s.setVf v x).upsets = s.upsets := rfl
@[simp] theorem setVf_cores (s : State) (v : Nat) (x : Vf) : (s.setVf v x).cores = s.cores := rfl
@[simp] theorem setVf_clusters (s : State) (v : Nat) (x : Vf) : (s.setVf v x).clusters = s.clusters := rfl
@[simp] theorem setVf_slices (s : State) (v : Nat) (x : Vf) : (s.setVf v x).slices = s.slices := rfl
@[simp] theorem setVf_dies (s : State) (v : Nat) (x : Vf) : (s.setVf v x).dies = s.dies := rfl
@[simp] theorem setVf_mem (s : State) (v : Nat) (x : Vf) : (s.setVf v x).mem = s.mem := rfl
@[simp] theorem setVf_memP (s : State) (v : Nat) (x : Vf) : (s.setVf v x).memP = s.memP := rfl
@[simp] theorem setVf_rekeyed (s : State) (v : Nat) (x : Vf) : (s.setVf v x).rekeyed = s.rekeyed := rfl
@[simp] theorem setVf_badBursts (s : State) (v : Nat) (x : Vf) : (s.setVf v x).badBursts = s.badBursts := rfl
@[simp] theorem setVf_hostMem (s : State) (v : Nat) (x : Vf) : (s.setVf v x).hostMem = s.hostMem := rfl
@[simp] theorem setVf_peerMem (s : State) (v : Nat) (x : Vf) : (s.setVf v x).peerMem = s.peerMem := rfl
@[simp] theorem setVf_net (s : State) (v : Nat) (x : Vf) : (s.setVf v x).net = s.net := rfl
@[simp] theorem setVf_nextId (s : State) (v : Nat) (x : Vf) : (s.setVf v x).nextId = s.nextId := rfl
@[simp] theorem setVf_free (s : State) (v : Nat) (x : Vf) : (s.setVf v x).free = s.free := rfl
@[simp] theorem setVf_short (s : State) (v : Nat) (x : Vf) : (s.setVf v x).short = s.short := rfl

/-! A component after an update of it -/

@[simp] theorem core_setCore (s : State) (c : Nat) (x : Core) : (s.setCore c x).core c = x := by
  simp [State.core, State.setCore]

theorem core_setCore_other (s : State) (c d : Nat) (x : Core) (h : d ≠ c) : (s.setCore c x).core d = s.core d := by
  simp [State.core, State.setCore, mapGet_mapPut_other _ _ _ _ _ h]

theorem core_setCore_eq (s : State) (c d : Nat) (x : Core) :
    (s.setCore c x).core d = if d = c then x else s.core d := by
  simp [State.core, State.setCore, mapGet_mapPut]

@[simp] theorem setCore_setCore (s : State) (c : Nat) (x y : Core) : (s.setCore c x).setCore c y = s.setCore c y := by
  simp [State.setCore]

theorem setStrand_eq (s : State) (c p : Nat) (x : Strand) :
    s.setStrand c p x = s.setCore c { s.core c with strands := mapPut (s.core c).strands p x } := rfl

theorem setPorter_eq (s : State) (c : Nat) (x : Porter) :
    s.setPorter c x = s.setCore c { s.core c with porter := x } := rfl

@[simp] theorem strand_setStrand (s : State) (c p : Nat) (x : Strand) : (s.setStrand c p x).strand c p = x := by
  simp [State.strand, State.setStrand]

theorem strand_setStrand_eq (s : State) (c p d q : Nat) (x : Strand) :
    (s.setStrand c p x).strand d q = if d = c ∧ q = p then x else s.strand d q := by
  by_cases h : d = c
  · subst h; simp [State.strand, State.setStrand, mapGet_mapPut]
  · simp [State.strand, State.setStrand, core_setCore_other _ _ _ _ h, h]

theorem strand_setStrand_other (s : State) (c p d q : Nat) (x : Strand) (h : (d, q) ≠ (c, p)) :
    (s.setStrand c p x).strand d q = s.strand d q := by
  rw [strand_setStrand_eq, if_neg]
  rintro ⟨rfl, rfl⟩
  exact h rfl

@[simp] theorem porter_setPorter (s : State) (c : Nat) (x : Porter) : (s.setPorter c x).porter c = x := by
  simp [State.porter, State.setPorter]

@[simp] theorem porter_setStrand (s : State) (c p d : Nat) (x : Strand) :
    (s.setStrand c p x).porter d = s.porter d := by
  by_cases h : d = c
  · subst h; simp [State.porter, State.setStrand]
  · simp [State.porter, State.setStrand, core_setCore_other _ _ _ _ h]

@[simp] theorem strand_setPorter (s : State) (c d q : Nat) (x : Porter) :
    (s.setPorter c x).strand d q = s.strand d q := by
  by_cases h : d = c
  · subst h; simp [State.strand, State.setPorter]
  · simp [State.strand, State.setPorter, core_setCore_other _ _ _ _ h]

theorem porter_setPorter_other (s : State) (c d : Nat) (x : Porter) (h : d ≠ c) :
    (s.setPorter c x).porter d = s.porter d := by
  simp [State.porter, State.setPorter, core_setCore_other _ _ _ _ h]

@[simp] theorem cluster_setCluster (s : State) (k : Nat) (x : Cluster) : (s.setCluster k x).cluster k = x := by
  simp [State.cluster, State.setCluster]

theorem cluster_setCluster_other (s : State) (k j : Nat) (x : Cluster) (h : j ≠ k) :
    (s.setCluster k x).cluster j = s.cluster j := by
  simp [State.cluster, State.setCluster, mapGet_mapPut_other _ _ _ _ _ h]

@[simp] theorem slice_setSlice (s : State) (i : Nat) (x : Slice) : (s.setSlice i x).slice i = x := by
  simp [State.slice, State.setSlice]

theorem slice_setSlice_other (s : State) (i j : Nat) (x : Slice) (h : j ≠ i) :
    (s.setSlice i x).slice j = s.slice j := by
  simp [State.slice, State.setSlice, mapGet_mapPut_other _ _ _ _ _ h]

@[simp] theorem die_setDie (s : State) (d : Nat) (x : Die) : (s.setDie d x).die d = x := by
  simp [State.die, State.setDie]

theorem die_setDie_other (s : State) (d e : Nat) (x : Die) (h : e ≠ d) : (s.setDie d x).die e = s.die e := by
  simp [State.die, State.setDie, mapGet_mapPut_other _ _ _ _ _ h]

@[simp] theorem vf_setVf (s : State) (v : Nat) (x : Vf) : (s.setVf v x).vf v = x := by
  simp [State.vf, State.setVf]

/-! A component after an update of another kind -/

@[simp] theorem cluster_setCore (s : State) (c : Nat) (x : Core) (e : Nat) : (s.setCore c x).cluster e = s.cluster e := rfl
@[simp] theorem ctx_setCore (s : State) (c : Nat) (x : Core) (e u : Nat) : (s.setCore c x).ctx e u = s.ctx e u := rfl
@[simp] theorem slice_setCore (s : State) (c : Nat) (x : Core) (e : Nat) : (s.setCore c x).slice e = s.slice e := rfl
@[simp] theorem die_setCore (s : State) (c : Nat) (x : Core) (e : Nat) : (s.setCore c x).die e = s.die e := rfl
@[simp] theorem vf_setCore (s : State) (c : Nat) (x : Core) (e : Nat) : (s.setCore c x).vf e = s.vf e := rfl
@[simp] theorem cluster_setStrand (s : State) (c p : Nat) (x : Strand) (e : Nat) : (s.setStrand c p x).cluster e = s.cluster e := rfl
@[simp] theorem ctx_setStrand (s : State) (c p : Nat) (x : Strand) (e u : Nat) : (s.setStrand c p x).ctx e u = s.ctx e u := rfl
@[simp] theorem slice_setStrand (s : State) (c p : Nat) (x : Strand) (e : Nat) : (s.setStrand c p x).slice e = s.slice e := rfl
@[simp] theorem die_setStrand (s : State) (c p : Nat) (x : Strand) (e : Nat) : (s.setStrand c p x).die e = s.die e := rfl
@[simp] theorem vf_setStrand (s : State) (c p : Nat) (x : Strand) (e : Nat) : (s.setStrand c p x).vf e = s.vf e := rfl
@[simp] theorem cluster_setPorter (s : State) (c : Nat) (x : Porter) (e : Nat) : (s.setPorter c x).cluster e = s.cluster e := rfl
@[simp] theorem ctx_setPorter (s : State) (c : Nat) (x : Porter) (e u : Nat) : (s.setPorter c x).ctx e u = s.ctx e u := rfl
@[simp] theorem slice_setPorter (s : State) (c : Nat) (x : Porter) (e : Nat) : (s.setPorter c x).slice e = s.slice e := rfl
@[simp] theorem die_setPorter (s : State) (c : Nat) (x : Porter) (e : Nat) : (s.setPorter c x).die e = s.die e := rfl
@[simp] theorem vf_setPorter (s : State) (c : Nat) (x : Porter) (e : Nat) : (s.setPorter c x).vf e = s.vf e := rfl
@[simp] theorem core_setCluster (s : State) (k : Nat) (x : Cluster) (e : Nat) : (s.setCluster k x).core e = s.core e := rfl
@[simp] theorem slice_setCluster (s : State) (k : Nat) (x : Cluster) (e : Nat) : (s.setCluster k x).slice e = s.slice e := rfl
@[simp] theorem die_setCluster (s : State) (k : Nat) (x : Cluster) (e : Nat) : (s.setCluster k x).die e = s.die e := rfl
@[simp] theorem vf_setCluster (s : State) (k : Nat) (x : Cluster) (e : Nat) : (s.setCluster k x).vf e = s.vf e := rfl
@[simp] theorem core_setCtx (s : State) (k t : Nat) (x : Ctx) (e : Nat) : (s.setCtx k t x).core e = s.core e := rfl
@[simp] theorem slice_setCtx (s : State) (k t : Nat) (x : Ctx) (e : Nat) : (s.setCtx k t x).slice e = s.slice e := rfl
@[simp] theorem die_setCtx (s : State) (k t : Nat) (x : Ctx) (e : Nat) : (s.setCtx k t x).die e = s.die e := rfl
@[simp] theorem vf_setCtx (s : State) (k t : Nat) (x : Ctx) (e : Nat) : (s.setCtx k t x).vf e = s.vf e := rfl
@[simp] theorem core_setSlice (s : State) (i : Nat) (x : Slice) (e : Nat) : (s.setSlice i x).core e = s.core e := rfl
@[simp] theorem cluster_setSlice (s : State) (i : Nat) (x : Slice) (e : Nat) : (s.setSlice i x).cluster e = s.cluster e := rfl
@[simp] theorem ctx_setSlice (s : State) (i : Nat) (x : Slice) (e u : Nat) : (s.setSlice i x).ctx e u = s.ctx e u := rfl
@[simp] theorem die_setSlice (s : State) (i : Nat) (x : Slice) (e : Nat) : (s.setSlice i x).die e = s.die e := rfl
@[simp] theorem vf_setSlice (s : State) (i : Nat) (x : Slice) (e : Nat) : (s.setSlice i x).vf e = s.vf e := rfl
@[simp] theorem core_setDie (s : State) (d : Nat) (x : Die) (e : Nat) : (s.setDie d x).core e = s.core e := rfl
@[simp] theorem cluster_setDie (s : State) (d : Nat) (x : Die) (e : Nat) : (s.setDie d x).cluster e = s.cluster e := rfl
@[simp] theorem ctx_setDie (s : State) (d : Nat) (x : Die) (e u : Nat) : (s.setDie d x).ctx e u = s.ctx e u := rfl
@[simp] theorem slice_setDie (s : State) (d : Nat) (x : Die) (e : Nat) : (s.setDie d x).slice e = s.slice e := rfl
@[simp] theorem vf_setDie (s : State) (d : Nat) (x : Die) (e : Nat) : (s.setDie d x).vf e = s.vf e := rfl
@[simp] theorem core_setVf (s : State) (v : Nat) (x : Vf) (e : Nat) : (s.setVf v x).core e = s.core e := rfl
@[simp] theorem cluster_setVf (s : State) (v : Nat) (x : Vf) (e : Nat) : (s.setVf v x).cluster e = s.cluster e := rfl
@[simp] theorem ctx_setVf (s : State) (v : Nat) (x : Vf) (e u : Nat) : (s.setVf v x).ctx e u = s.ctx e u := rfl
@[simp] theorem slice_setVf (s : State) (v : Nat) (x : Vf) (e : Nat) : (s.setVf v x).slice e = s.slice e := rfl
@[simp] theorem die_setVf (s : State) (v : Nat) (x : Vf) (e : Nat) : (s.setVf v x).die e = s.die e := rfl

end Sys2Proof.Machine
end

