-- ==== Sys2Proof/Laws/Retire.lean ====
section
/-! SUPPORT. What writing the registers of a party, entering a line, taking and placing channel words, and
retiring an instruction do, each said once (`settled_retire` says all of it). -/

namespace Sys2Proof.Machine

theorem regsOf_strand (s : State) (c p : Nat) (h : p ≠ 6) : s.regsOf c p = (s.strand c p).regs := by
  simp [State.regsOf, h]

theorem setRegsOf_strand (s : State) (c p : Nat) (r : RegSet) (h : p ≠ 6) :
    s.setRegsOf c p r = s.setStrand c p { s.strand c p with regs := r } := by
  simp [State.setRegsOf, h]

@[simp] theorem regsOf_setRegsOf (s : State) (c p : Nat) (r : RegSet) : (s.setRegsOf c p r).regsOf c p = r := by
  by_cases h : p = 6
  · subst h
    cases hc : (s.porter c).cur with
    | none => simp [State.setRegsOf, State.regsOf, hc]
    | some e => by_cases hl : e.landlord <;> simp [State.setRegsOf, State.regsOf, hc, hl]
  · simp [State.setRegsOf, State.regsOf, h]

end Sys2Proof.Machine

namespace Sys2Proof.Safety
open Sys2Proof.Machine

theorem OwnOnly.cur {s t : State} (h : OwnOnly s t) : t.cur = s.cur := by
  have := h.rest; unfold OnlyCores at this; rw [← this]

theorem OwnOnly.porter_cur {s t : State} (h : OwnOnly s t) : (t.porter s.cur.core).cur = (s.porter s.cur.core).cur := by
  by_cases hp : s.cur.pos = 6
  · rw [← h.others.own hp]
  · rw [h.others.porter hp]

theorem OwnOnly.strand_tag {s t : State} (h : OwnOnly s t) (hp : s.cur.pos ≠ 6) :
    (t.strand s.cur.core s.cur.pos).tag = (s.strand s.cur.core s.cur.pos).tag := by
  rw [← h.strand hp]

theorem OwnOnly.level {s t : State} (h : OwnOnly s t) : t.level = s.level := by
  simp [State.level, State.isPorter, h.cur, h.porter_cur]

theorem OwnOnly.tag {s t : State} (h : OwnOnly s t) : t.tag = s.tag := by
  by_cases hp : s.cur.pos = 6
  · simp [State.tag, State.isPorter, h.cur, hp, h.porter_cur]
  · simp [State.tag, State.isPorter, h.cur, hp, h.strand_tag hp]

theorem OwnOnly.refl (s : State) : OwnOnly s s := by
  refine ⟨rfl, fun _ _ => rfl, rfl, fun _ => rfl, ⟨fun _ _ => rfl, fun _ => rfl, fun _ => rfl, fun _ _ => rfl, fun _ => rfl⟩⟩

theorem OwnOnly.trans {s t u : State} (h : OwnOnly s t) (k : OwnOnly t u) : OwnOnly s u := by
  have hc := h.cur
  have hl := h.level
  have ht := h.tag
  obtain ⟨k1, k2, k3, k4, ⟨k5, k6, k7, k8, k9⟩⟩ := k
  rw [hc] at k2 k3 k4 k5 k6 k7 k8 k9
  rw [hl] at k8 k9
  rw [ht] at k8
  refine ⟨?_, fun c hne => ?_, ?_, fun hp => ?_, ⟨fun p hp => ?_, fun hp => ?_, fun hp => ?_, fun n hn => ?_, fun hn => ?_⟩⟩
  · have h1 := h.rest
    unfold OnlyCores at *
    rw [← k1] at h1; exact h1
  · have h1 := h.cores c hne
    have h2 := k2 c hne
    rw [← h2] at h1; exact h1
  · have h1 := h.core
    rw [← k3] at h1; exact h1
  · have h1 := h.strand hp
    rw [← k4 hp] at h1; exact h1
  · rw [k5 p hp, h.others.strands p hp]
  · rw [k6 hp, h.others.porter hp]
  · have h1 := h.others.own hp
    rw [← k7 hp] at h1; exact h1
  · rw [k8 n hn, h.others.sets n hn]
  · rw [k9 hn, h.others.landlord hn]

theorem ownOnly_setStrand (s : State) (x : Strand) (hp : s.cur.pos ≠ 6)
    (hx : ({ x with
      regs := (s.strand s.cur.core s.cur.pos).regs
      line := (s.strand s.cur.core s.cur.pos).line } : Strand) = s.strand s.cur.core s.cur.pos) :
    OwnOnly s (s.setStrand s.cur.core s.cur.pos x) := by
  refine ⟨rfl, fun c hne => ?_, ?_, fun _ => ?_, ⟨fun p h => ?_, fun _ => ?_, fun h => absurd h hp, fun n _ => ?_, fun _ => ?_⟩⟩
  · rw [setStrand_eq, core_setCore_other _ _ _ _ hne]
  · rw [setStrand_eq, core_setCore]
  · rw [strand_setStrand]; exact hx
  · exact strand_setStrand_other _ _ _ _ _ _ (by simpa using h)
  · exact porter_setStrand _ _ _ _ _
  · rw [porter_setStrand]
  · rw [porter_setStrand]


theorem ownOnly_setPorter (s : State) (x : Porter) (hp : s.cur.pos = 6)
    (h1 : ({ x with
      keepers := (s.porter s.cur.core).keepers, landlord := (s.porter s.cur.core).landlord
      line := (s.porter s.cur.core).line } : Porter) = s.porter s.cur.core)
    (h2 : ∀ n, ¬ (s.level ≠ .l ∧ n = s.tag) →
      mapGet RegSet.zero x.keepers n = mapGet RegSet.zero (s.porter s.cur.core).keepers n)
    (h3 : s.level ≠ .l → x.landlord = (s.porter s.cur.core).landlord) :
    OwnOnly s (s.setPorter s.cur.core x) := by
  refine ⟨rfl, fun c hne => ?_, ?_, fun h => absurd hp h, ⟨fun p h => ?_, fun h => absurd hp h, fun _ => ?_, fun n hn => ?_, fun hn => ?_⟩⟩
  · rw [setPorter_eq, core_setCore_other _ _ _ _ hne]
  · rw [setPorter_eq, core_setCore]
  · rw [strand_setPorter]
  · rw [porter_setPorter]; exact h1
  · rw [porter_setPorter]; exact h2 n (fun h => hn ⟨hp, h⟩)
  · rw [porter_setPorter]; exact h3 (fun h => hn ⟨hp, h⟩)

theorem setRegsOf_none {s : State} {c : Nat} (r : RegSet) (h : (s.porter c).cur = none) :
    s.setRegsOf c 6 r =
      s.setPorter c { s.porter c with keepers := mapPut (s.porter c).keepers 0 r } := by
  simp [State.setRegsOf, h]

theorem setRegsOf_landlord {s : State} {c : Nat} {e : Entry} (r : RegSet) (h : (s.porter c).cur = some e)
    (hl : e.landlord = true) : s.setRegsOf c 6 r = s.setPorter c { s.porter c with landlord := r } := by
  simp [State.setRegsOf, h, hl]

theorem setRegsOf_keeper {s : State} {c : Nat} {e : Entry} (r : RegSet) (h : (s.porter c).cur = some e)
    (hl : e.landlord = false) : s.setRegsOf c 6 r =
      s.setPorter c { s.porter c with keepers := mapPut (s.porter c).keepers e.tag.toNat r } := by
  simp [State.setRegsOf, h, hl]

/-- Writing the registers of the issuing party changes nothing else. -/
theorem ownOnly_setRegs (s : State) (r : RegSet) : OwnOnly s (s.setRegsOf s.cur.core s.cur.pos r) := by
  by_cases hp : s.cur.pos = 6
  · have hl : s.level = match (s.porter s.cur.core).cur with
      | some e => if e.landlord then Level.l else .k
      | none => .k := by simp [State.level, State.isPorter, hp] <;> rfl
    have ht : s.tag = match (s.porter s.cur.core).cur with
      | some e => e.tag.toNat
      | none => 0 := by simp [State.tag, State.isPorter, hp] <;> rfl
    cases hc : (s.porter s.cur.core).cur with
    | none =>
      simp only [hc] at hl ht
      rw [hp, setRegsOf_none r hc]
      refine ownOnly_setPorter s _ hp rfl (fun n hn => ?_) (fun _ => rfl)
      exact mapGet_mapPut_other _ _ _ _ _ (by simp [hl, ht] at hn; exact hn)
    | some e =>
      simp only [hc] at hl ht
      cases h : e.landlord with
      | true =>
        simp only [h, if_true] at hl
        rw [hp, setRegsOf_landlord r hc h]
        exact ownOnly_setPorter s _ hp rfl (fun n hn => rfl) (fun h => absurd hl h)
      | false =>
        simp only [h] at hl
        rw [hp, setRegsOf_keeper r hc h]
        refine ownOnly_setPorter s _ hp rfl (fun n hn => ?_) (fun _ => rfl)
        exact mapGet_mapPut_other _ _ _ _ _ (by simp [hl, ht] at hn; exact hn)
  · rw [setRegsOf_strand _ _ _ _ hp]
    exact ownOnly_setStrand s _ hp rfl

/-- Entering a line changes nothing but the line. -/
theorem ownOnly_enterLine (s : State) : OwnOnly s (s.enterLine s.cur.core s.cur.pos) := by
  by_cases hp : s.cur.pos = 6
  · simp only [State.enterLine, hp, if_true]
    exact ownOnly_setPorter s _ hp rfl (fun _ _ => rfl) (fun _ => rfl)
  · simp only [State.enterLine, hp, if_false]
    exact ownOnly_setStrand s _ hp rfl

theorem regsOf_enterLine (s : State) (c p : Nat) : (s.enterLine c p).regsOf c p = s.regsOf c p := by
  by_cases h : p = 6
  · simp [State.enterLine, State.regsOf, h]
  · simp [State.enterLine, State.regsOf, h]

theorem ownOnly_goto (s : State) (pc : Pc) : OwnOnly s (s.goto s.cur.core s.cur.pos pc) := by
  unfold State.goto
  have h := ownOnly_setRegs s { s.regsOf s.cur.core s.cur.pos with pc := pc }
  simp only
  split
  · exact h
  · have k := ownOnly_enterLine (s.setRegsOf s.cur.core s.cur.pos { s.regsOf s.cur.core s.cur.pos with pc := pc })
    rw [h.cur] at k
    exact h.trans k

theorem regsOf_goto (s : State) (c p : Nat) (pc : Pc) :
    (s.goto c p pc).regsOf c p = { s.regsOf c p with pc := pc } := by
  unfold State.goto
  simp only
  split
  · simp
  · simp [regsOf_enterLine]

/-! Channels -/

/-- A change of the channel buffers of a core. -/
theorem ownOnly_setChans (s : State) (c : Nat) (x : SMap (List ChWord)) :
    OwnOnly s (s.setCore c { s.core c with chans := x }) := by
  have hcore : ∀ d, (s.setCore c { s.core c with chans := x }).core d =
      if d = c then { s.core c with chans := x } else s.core d := fun d => core_setCore_eq ..
  have hst : ∀ d p, (s.setCore c { s.core c with chans := x }).strand d p = s.strand d p := by
    intro d p
    by_cases h : d = c
    · subst h; simp [State.strand]
    · simp [State.strand, hcore, h]
  have hpo : ∀ d, (s.setCore c { s.core c with chans := x }).porter d = s.porter d := by
    intro d
    by_cases h : d = c
    · subst h; simp [State.porter]
    · simp [State.porter, hcore, h]
  refine ⟨rfl, fun d hne => ?_, ?_, fun _ => ?_, ⟨fun p _ => hst _ _, fun _ => hpo _, fun _ => ?_, fun n _ => ?_, fun _ => ?_⟩⟩
  · rw [hcore]; split
    · next h => subst h; rfl
    · rfl
  · rw [hcore]; split
    · next h => subst h; rfl
    · rfl
  · rw [hst]
  · rw [hpo]
  · rw [hpo]
  · rw [hpo]

theorem regsOf_setChans (s : State) (c d p : Nat) (x : SMap (List ChWord)) :
    (s.setCore c { s.core c with chans := x }).regsOf d p = s.regsOf d p := by
  have h := core_setCore_eq s c d { s.core c with chans := x }
  by_cases hd : d = c
  · subst hd; simp [State.regsOf, State.porter, State.strand]
  · simp [State.regsOf, State.porter, State.strand, h, hd]

theorem chans_setChans (s : State) (c d q : Nat) (x : SMap (List ChWord)) :
    mapGet [] ((s.setCore c { s.core c with chans := x }).core d).chans q =
      if d = c then mapGet [] x q else mapGet [] (s.core d).chans q := by
  rw [core_setCore_eq]; split <;> rfl

theorem tagOf_setChans (s : State) (c d p : Nat) (x : SMap (List ChWord)) :
    (s.setCore c { s.core c with chans := x }).tagOf d p = s.tagOf d p := by
  have h := core_setCore_eq s c d { s.core c with chans := x }
  by_cases hd : d = c
  · subst hd; simp [State.tagOf, State.porter, State.strand]
  · simp [State.tagOf, State.porter, State.strand, h, hd]

theorem ownOnly_chTake (s : State) (c vd : Nat) (l : List (Nat × Nat)) : OwnOnly s (s.chTake c vd l) := by
  induction l generalizing s with
  | nil => exact OwnOnly.refl s
  | cons e t ih => exact (ownOnly_setChans s c _).trans (ih _)

theorem regsOf_chTake (s : State) (c vd d p : Nat) (l : List (Nat × Nat)) :
    (s.chTake c vd l).regsOf d p = s.regsOf d p := by
  induction l generalizing s with
  | nil => rfl
  | cons e t ih => exact (ih _).trans (regsOf_setChans ..)

theorem tagOf_chTake (s : State) (c vd d p : Nat) (l : List (Nat × Nat)) :
    (s.chTake c vd l).tagOf d p = s.tagOf d p := by
  induction l generalizing s with
  | nil => rfl
  | cons e t ih => exact (ih _).trans (tagOf_setChans ..)

theorem chans_chTake (s : State) (c vd d q : Nat) (l : List (Nat × Nat)) :
    mapGet [] ((s.chTake c vd l).core d).chans q =
      if d = c then (l.filter fun e => e.1 = q).foldl (fun w e => dropWords vd e.2 w)
        (mapGet [] (s.core d).chans q)
      else mapGet [] (s.core d).chans q := by
  induction l generalizing s with
  | nil => simp [State.chTake]
  | cons e t ih =>
    refine (ih (s.setCore c { s.core c with
      chans := mapPut (s.core c).chans e.1 (dropWords vd e.2 (mapGet [] (s.core c).chans e.1)) })).trans ?_
    rw [chans_setChans]
    by_cases hd : d = c
    · subst hd
      simp only [if_true]
      by_cases hq : e.1 = q
      · subst hq; simp
      · simp [hq, mapGet_mapPut_other _ _ _ _ _ (Ne.symm hq)]
    · simp [hd]

theorem ownOnly_chPlace (s : State) (c vd port : Nat) (ws : List Word) : OwnOnly s (s.chPlace c vd port ws) := by
  unfold State.chPlace
  split
  · exact OwnOnly.refl s
  · exact ownOnly_setChans ..

theorem regsOf_chPlace (s : State) (c vd port d p : Nat) (ws : List Word) :
    (s.chPlace c vd port ws).regsOf d p = s.regsOf d p := by
  unfold State.chPlace
  split
  · rfl
  · exact regsOf_setChans ..

theorem tagOf_chPlace (s : State) (c vd port d p : Nat) (ws : List Word) :
    (s.chPlace c vd port ws).tagOf d p = s.tagOf d p := by
  unfold State.chPlace
  split
  · rfl
  · exact tagOf_setChans ..

theorem chans_chPlace (s : State) (c vd port d q : Nat) (ws : List Word) :
    mapGet [] ((s.chPlace c vd port ws).core d).chans q =
      mapGet [] (s.core d).chans q ++
        (if neighbour c port = some d ∧ oppPort port = q then ws.map (⟨·, vd⟩) else []) := by
  unfold State.chPlace
  cases hn : neighbour c port with
  | none => simp
  | some n =>
    simp only [chans_setChans, Option.some.injEq]
    by_cases hd : d = n
    · subst hd
      by_cases hq : oppPort port = q
      · subst hq; simp
      · simp [hq, mapGet_mapPut_other _ _ _ _ _ (Ne.symm hq)]
    · simp [hd, Ne.symm hd]

/-! Effects and retirement -/

/-- The words that effects place, one list for each effect. -/
def placedBy (c vd d q : Nat) (l : List Eff) : List ChWord :=
  (l.map fun e =>
    match e with
    | .chan p ws => if neighbour c p.val = some d ∧ oppPort p.val = q then ws.map (⟨·, vd⟩) else []
    | _ => []).flatten

/-- What the effects on channels and local stores do, register writes apart. -/
def outEffs (s : State) (c p : Nat) (l : List Eff) : State :=
  l.foldl (fun s e => match e with
    | .chan q ws => s.chPlace c (s.ctx (clusterOf c) (s.tagOf c p)).img.vd q ws
    | .ls a b => (s.guardTouch c p a b.length).lsStore c a b
    | _ => s) s

theorem applyEffs_eq (s : State) (c p : Nat) (l : List Eff) :
    s.applyEffs c p l = outEffs (s.setRegsOf c p (l.foldl RegSet.eff (s.regsOf c p))) c p l := rfl

theorem OwnOnly.ctx {s t : State} (h : OwnOnly s t) (k n : Nat) : t.ctx k n = s.ctx k n := by
  have := h.rest; unfold OnlyCores at this; rw [← this]; rfl

theorem outEffs_spec (s : State) (c p : Nat) (l : List Eff) (hl : l.all (fun e => !isLs e) = true) :
    OwnOnly s (outEffs s c p l) ∧ (∀ d q, (outEffs s c p l).regsOf d q = s.regsOf d q) ∧
    (∀ d q, (outEffs s c p l).tagOf d q = s.tagOf d q) ∧
    ∀ d q, mapGet [] ((outEffs s c p l).core d).chans q =
      mapGet [] (s.core d).chans q ++ placedBy c (s.ctx (clusterOf c) (s.tagOf c p)).img.vd d q l := by
  induction l generalizing s with
  | nil => exact ⟨OwnOnly.refl s, fun _ _ => rfl, fun _ _ => rfl, fun _ _ => by simp [outEffs, placedBy]⟩
  | cons e t ih =>
    simp only [List.all_cons, Bool.and_eq_true] at hl
    have skip (h1 : outEffs s c p (e :: t) = outEffs s c p t)
        (h2 : ∀ d q vd, placedBy c vd d q (e :: t) = placedBy c vd d q t) :
        OwnOnly s (outEffs s c p (e :: t)) ∧ (∀ d q, (outEffs s c p (e :: t)).regsOf d q = s.regsOf d q) ∧
        (∀ d q, (outEffs s c p (e :: t)).tagOf d q = s.tagOf d q) ∧
        ∀ d q, mapGet [] ((outEffs s c p (e :: t)).core d).chans q = mapGet [] (s.core d).chans q ++
          placedBy c (s.ctx (clusterOf c) (s.tagOf c p)).img.vd d q (e :: t) := by
      obtain ⟨a, b, b', d⟩ := ih s hl.2
      rw [h1]
      exact ⟨a, b, b', fun x q => by rw [d, h2]⟩
    cases e with
    | chan q ws =>
      have hP : outEffs s c p (.chan q ws :: t) =
        outEffs (s.chPlace c (s.ctx (clusterOf c) (s.tagOf c p)).img.vd q ws) c p t := rfl
      obtain ⟨a, b, b', d⟩ := ih (s.chPlace c (s.ctx (clusterOf c) (s.tagOf c p)).img.vd q ws) hl.2
      rw [hP]
      refine ⟨(ownOnly_chPlace ..).trans a, fun x y => (b x y).trans (regsOf_chPlace ..),
        fun x y => (b' x y).trans (tagOf_chPlace ..), fun x y => ?_⟩
      rw [d, chans_chPlace, tagOf_chPlace, (ownOnly_chPlace ..).ctx]
      simp [placedBy]
    | ls a b => simp [isLs] at hl
    | s => exact skip rfl (fun _ _ _ => rfl)
    | v => exact skip rfl (fun _ _ _ => rfl)
    | p => exact skip rfl (fun _ _ _ => rfl)
    | k => exact skip rfl (fun _ _ _ => rfl)
    | g => exact skip rfl (fun _ _ _ => rfl)
    | fs => exact skip rfl (fun _ _ _ => rfl)
    | flags => exact skip rfl (fun _ _ _ => rfl)
    | jump => exact skip rfl (fun _ _ _ => rfl)

/-- The effects of an instruction but for its jump. -/
def noJump (l : List Eff) : List Eff := l.filter fun e => match e with | .jump _ => false | _ => true

theorem all_noJump {l : List Eff} (h : l.all (fun e => !isLs e) = true) :
    (noJump l).all (fun e => !isLs e) = true := by
  simp only [List.all_eq_true] at h ⊢
  intro e he
  exact h e (List.mem_of_mem_filter he)

theorem placedBy_noJump (c vd d q : Nat) (l : List Eff) : placedBy c vd d q (noJump l) = placedBy c vd d q l := by
  induction l with
  | nil => rfl
  | cons e t ih =>
    cases e <;> simp_all [placedBy, noJump]

theorem foldl_eff_pc (l : List Eff) (r : RegSet) (pc pc' : Pc) :
    ({ l.foldl RegSet.eff { r with pc := pc } with pc := pc' } : RegSet) =
      { l.foldl RegSet.eff r with pc := pc' } := by
  induction l generalizing r pc with
  | nil => rfl
  | cons e t ih =>
    have h : ∃ x, RegSet.eff { r with pc := pc } e = { RegSet.eff r e with pc := x } := by
      cases e with
      | s i x p => exact ⟨pc, by unfold RegSet.eff RegSet.setS; dsimp only; split <;> rfl⟩
      | v i x p => exact ⟨pc, rfl⟩
      | p i b => exact ⟨pc, by unfold RegSet.eff RegSet.setP; dsimp only; split <;> rfl⟩
      | k i x => exact ⟨pc, by unfold RegSet.eff RegSet.setK; dsimp only; split <;> rfl⟩
      | g i x => exact ⟨pc, rfl⟩
      | fs x => exact ⟨pc, rfl⟩
      | flags x => exact ⟨pc, rfl⟩
      | jump x => exact ⟨x, rfl⟩
      | chan c ws => exact ⟨pc, rfl⟩
      | ls a b => exact ⟨pc, rfl⟩
    obtain ⟨x, h⟩ := h
    simp only [List.foldl_cons, h]
    exact ih _ _

theorem foldl_eff_noJump (l : List Eff) (r : RegSet) (pc : Pc) :
    ({ (noJump l).foldl RegSet.eff r with pc := pc } : RegSet) = { l.foldl RegSet.eff r with pc := pc } := by
  induction l generalizing r with
  | nil => rfl
  | cons e t ih =>
    cases e with
    | jump x =>
      have : noJump (.jump x :: t) = noJump t := rfl
      rw [this, ih]
      exact (foldl_eff_pc t r x pc).symm
    | _ => exact ih _

theorem retireOf_eq (s : State) (c p : Nat) (l : List Eff) : s.retireOf c p l =
    (s.applyEffs c p (noJump l)).goto c p ((effJump l).getD ((s.regsOf c p).pc + 1)) := by
  unfold State.retireOf
  simp only
  cases effJump l <;> rfl

theorem chans_enterLine (s : State) (c p d q : Nat) :
    mapGet [] ((s.enterLine c p).core d).chans q = mapGet [] (s.core d).chans q := by
  unfold State.enterLine
  simp only
  split
  · rw [setPorter_eq, core_setCore_eq]; split
    · next h => rw [h]
    · rfl
  · rw [setStrand_eq, core_setCore_eq]; split
    · next h => rw [h]
    · rfl

theorem chans_setRegsOf (s : State) (c p d q : Nat) (r : RegSet) :
    mapGet [] ((s.setRegsOf c p r).core d).chans q = mapGet [] (s.core d).chans q := by
  have hP (x : Porter) : mapGet [] ((s.setPorter c x).core d).chans q = mapGet [] (s.core d).chans q := by
    rw [setPorter_eq, core_setCore_eq]; split
    · next h => rw [h]
    · rfl
  unfold State.setRegsOf
  split
  · dsimp only
    split
    · split <;> exact hP _
    · exact hP _
  · rw [setStrand_eq, core_setCore_eq]; split
    · next h => rw [h]
    · rfl

theorem chans_goto (s : State) (c p d q : Nat) (pc : Pc) :
    mapGet [] ((s.goto c p pc).core d).chans q = mapGet [] (s.core d).chans q := by
  unfold State.goto
  dsimp only
  split
  · exact chans_setRegsOf ..
  · rw [chans_enterLine, chans_setRegsOf]

theorem OwnOnly.tagOf {s t : State} (h : OwnOnly s t) :
    t.tagOf s.cur.core s.cur.pos = s.tagOf s.cur.core s.cur.pos := by
  by_cases hp : s.cur.pos = 6
  · simp [State.tagOf, hp, h.porter_cur]
  · simp [State.tagOf, hp, h.strand_tag hp]

/-- What an instruction that has taken the words of its sources and retired with effects `l` leaves: it says
everything that retiring does, for effects on registers and channels. -/
theorem settled_retire (s : State) (u : Use) (l : List Eff) (hl : l.all (fun e => !isLs e) = true) :
    Settled s ((s.takeSrcs u).retire l) u l := by
  let s1 := s.takeSrcs u
  have h1 : OwnOnly s s1 := ownOnly_chTake ..
  have c1 : s1.cur = s.cur := h1.cur
  have r1 : ∀ d q, s1.regsOf d q = s.regsOf d q := fun d q => regsOf_chTake ..
  let s2 := s1.setRegsOf s.cur.core s.cur.pos ((noJump l).foldl RegSet.eff (s1.regsOf s.cur.core s.cur.pos))
  have h2 : OwnOnly s1 s2 := by
    have := ownOnly_setRegs s1 ((noJump l).foldl RegSet.eff (s1.regsOf s.cur.core s.cur.pos))
    rw [c1] at this; exact this
  let s3 := outEffs s2 s.cur.core s.cur.pos (noJump l)
  obtain ⟨h3, r3, _, k3⟩ := outEffs_spec s2 s.cur.core s.cur.pos (noJump l) (all_noJump hl)
  have h13 : OwnOnly s s3 := (h1.trans h2).trans h3
  let pc := (effJump l).getD ((s1.regsOf s.cur.core s.cur.pos).pc + 1)
  have hgo : (s.takeSrcs u).retire l = s3.goto s.cur.core s.cur.pos pc := by
    show s1.retireOf s1.cur.core s1.cur.pos l = _
    rw [c1, retireOf_eq, applyEffs_eq]
  have h4 : OwnOnly s3 (s3.goto s.cur.core s.cur.pos pc) := by
    have := ownOnly_goto s3 pc
    rw [h13.cur] at this; exact this
  rw [hgo]
  have h14 := h13.trans h4
  refine ⟨?_, fun c q => ?_, h14⟩
  · show (s3.goto s.cur.core s.cur.pos pc).regsOf (s3.goto s.cur.core s.cur.pos pc).cur.core _ = _
    rw [h14.cur, regsOf_goto, r3, regsOf_setRegsOf, r1, foldl_eff_noJump]
    show _ = ({ l.foldl RegSet.eff (s.regsOf s.cur.core s.cur.pos) with
      pc := (effJump l).getD ((s.regsOf s.cur.core s.cur.pos).pc + 1) } : RegSet)
    rw [← r1 s.cur.core s.cur.pos]
  · rw [chans_goto, k3, placedBy_noJump, chans_setRegsOf]
    have ht : s2.tagOf s.cur.core s.cur.pos = s.tagOf s.cur.core s.cur.pos := (h1.trans h2).tagOf
    rw [ht, (h1.trans h2).ctx]
    show mapGet [] (((s.chTake s.cur.core s.curVd u.srcs)).core c).chans q ++ _ = _
    rw [chans_chTake]
    rfl

end Sys2Proof.Safety
end

