-- ==== Sys2Proof/Laws/Issue.lean ====
section
/-! SUPPORT. What issue does with a form that passes every check before its operands. -/

namespace Sys2Proof.Safety

open Sys2Proof.Machine

/-- A form that passes every check acts on its operands, or traps as they say. -/
theorem issue_clear {α : Type} {s : State} {g : Guard} {f : Form} (h : Clear s g f)
    (fx : View → Except TrapInfo α) (act : State → α → State) :
    s.issue g f fx act = match fx (s.view f.use) with
      | .error t => s.takeTrap t
      | .ok x => s.holdChans (act s x) f.use := by
  have h1 : (s.isPorter && (f.strandOnly || f.use.usesChan)) = false := by
    cases hp : s.isPorter
    · rfl
    · simp [h.issuer hp]
  have h2 : ¬ s.level.toNat < f.level := Nat.not_lt.mpr h.level
  have h3 : (if f.reports then s.guardPending else none) = none := by
    split
    · next hr => exact h.record hr
    · rfl
  have h4 : (s.inRegion && (!f.tracked || f.use.usesChan)) = false := by
    cases hr : s.inRegion
    · rfl
    · simp [h.region hr]
  simp only [State.issue, h1, h2, h.guard, h3, h4, h.claim, h.ready, Bool.not_true, Bool.false_eq_true, if_false] <;> rfl

theorem issue_ok {α : Type} {s : State} {g : Guard} {f : Form} (h : Clear s g f)
    {fx : View → Except TrapInfo α} {x : α} (hx : fx (s.view f.use) = .ok x) (act : State → α → State) :
    s.issue g f fx act = s.holdChans (act s x) f.use := by rw [issue_clear h, hx]

theorem issue_error {α : Type} {s : State} {g : Guard} {f : Form} (h : Clear s g f)
    {fx : View → Except TrapInfo α} {t : TrapInfo} (hx : fx (s.view f.use) = .error t) (act : State → α → State) :
    s.issue g f fx act = s.takeTrap t := by rw [issue_clear h, hx]

/-- What holding takes. -/
theorem holds_true {s t : State} {u : Use} (h : s.holds t u = true) :
    u.usesChan = true ∧ s.cur.pos < 6 ∧ (s.strand s.cur.core s.cur.pos).st = .run ∧
      (t.strand s.cur.core s.cur.pos).waitsToBegin = true := by
  simpa [State.holds, and_assoc] using h

/-- An instruction that has not left the rotation holds nothing. -/
theorem holdChans_same {s t : State} (u : Use)
    (h : s.cur.pos ≠ 6 → (t.strand s.cur.core s.cur.pos).st = (s.strand s.cur.core s.cur.pos).st) :
    s.holdChans t u = t := by
  refine if_neg fun hw => ?_
  obtain ⟨-, hp, hr, hs⟩ := holds_true hw
  simp [Strand.waitsToBegin, h (by omega), hr] at hs

/-- One whose result is on its way holds nothing. -/
theorem holdChans_result {s t : State} (u : Use) {l : List Eff}
    (h : s.cur.pos ≠ 6 → (t.strand s.cur.core s.cur.pos).wait = .result l) : s.holdChans t u = t := by
  refine if_neg fun hw => ?_
  obtain ⟨-, hp, -, hs⟩ := holds_true hw
  simp [Strand.waitsToBegin, h (by omega)] at hs

/-- One that names no channel holds nothing. -/
theorem holdChans_none {s t : State} {u : Use} (h : u.usesChan = false) : s.holdChans t u = t :=
  if_neg fun hw => by simp [(holds_true hw).1] at h

/-- An instruction that has retired from a state in which its party stood as before holds nothing. -/
theorem holdChans_settled {s b t : State} {u v : Use} {l : List Eff} (h : Settled b t v l) (hc : b.cur = s.cur)
    (hs : (b.strand s.cur.core s.cur.pos).st = (s.strand s.cur.core s.cur.pos).st) : s.holdChans t u = t := by
  refine holdChans_same u fun hp => ?_
  have h1 := h.own.strand (by rw [hc]; exact hp)
  rw [hc] at h1
  rw [← hs, ← h1]

/-- An instruction of fixed latency whose operands give effects on registers and channels retires with them. -/
theorem settled_plain {s : State} {g : Guard} {f : Form} (h : Clear s g f)
    {fx : View → Except TrapInfo (List Eff)} {l : List Eff} (hx : fx (s.view f.use) = .ok l)
    (hl : l.all (fun e => !isLs e) = true) : Settled s (s.plain g f fx) f.use l := by
  have k := settled_retire s f.use l hl
  have : s.plain g f fx = s.holdChans ((s.takeSrcs f.use).retire l) f.use := issue_ok h hx _
  rw [this, holdChans_settled k rfl rfl]
  exact k

end Sys2Proof.Safety
end

