-- ==== Sys2Proof/Laws/Wait.lean ====
section
/-! SUPPORT. What leaving the rotation and taking a trap do, each said once (`parked_park`, `trapped_trapStrand`). -/

namespace Sys2Proof.Safety

open Sys2Proof.Machine

theorem Confined.refl (c p : Nat) (s : State) : Confined c p s s :=
  ⟨rfl, fun _ => rfl, fun _ _ => rfl, rfl, fun _ _ => rfl, fun _ => rfl⟩

theorem Confined.trans {c p : Nat} {s t u : State} (h : Confined c p s t) (k : Confined c p t u) :
    Confined c p s u := by
  refine ⟨?_, fun d => ?_, fun e he => ?_, ?_, fun q hq => ?_, fun hp => ?_⟩
  · have h1 := h.rest
    rw [← k.rest] at h1; exact h1
  · have h1 := h.dies d
    rw [← k.dies d] at h1; exact h1
  · have h1 := h.cores e he
    rw [← k.cores e he] at h1; exact h1
  · have h1 := h.core
    rw [← k.core] at h1; exact h1
  · rw [k.strands q hq, h.strands q hq]
  · have h1 := h.porter hp
    rw [← k.porter hp] at h1; exact h1

/-- Stamping a trace record changes nothing of any party. -/
structure StampOnly (c : Nat) (s t : State) : Prop where
  rest : { t with cores := s.cores, dies := s.dies } = s
  dies : ∀ d, ({ t.die d with trace := (s.die d).trace } : Die) = s.die d
  cores : ∀ e, e ≠ c → t.core e = s.core e
  core : ({ t.core c with stamps := (s.core c).stamps, stampLost := (s.core c).stampLost } : Core) = s.core c

theorem stampOnly_core (s : State) (c : Nat) (l : List Stamp) (n : Nat) :
    StampOnly c s (s.setCore c { s.core c with stamps := l, stampLost := n }) := by
  refine ⟨rfl, fun _ => rfl, fun e he => core_setCore_other _ _ _ _ he, ?_⟩
  rw [core_setCore]

theorem stampOnly_stamp (s : State) (c kind : Nat) (gti : BitVec 32) (aux : BitVec 16) :
    StampOnly c s (s.stamp c kind gti aux) := by
  unfold State.stamp
  dsimp only
  split
  · split
    · split <;> exact stampOnly_core ..
    · split <;> exact stampOnly_core ..
  · split
    · refine ⟨rfl, fun d => ?_, fun _ _ => rfl, rfl⟩
      by_cases hd : d = dieOf c
      · subst hd; simp
      · rw [die_setDie_other _ _ _ _ hd]
    · exact ⟨rfl, fun _ => rfl, fun _ _ => rfl, rfl⟩

theorem StampOnly.strand {c : Nat} {s t : State} (h : StampOnly c s t) (e q : Nat) : t.strand e q = s.strand e q := by
  by_cases he : e = c
  · subst he
    have := congrArg Core.strands h.core
    simp only [State.strand]; rw [← this]
  · simp only [State.strand, h.cores e he]

theorem StampOnly.porter {c : Nat} {s t : State} (h : StampOnly c s t) (e : Nat) : t.porter e = s.porter e := by
  by_cases he : e = c
  · subst he
    have := congrArg Core.porter h.core
    exact this
  · simp only [State.porter, h.cores e he]

theorem StampOnly.chans {c : Nat} {s t : State} (h : StampOnly c s t) (e : Nat) :
    (t.core e).chans = (s.core e).chans := by
  by_cases he : e = c
  · subst he
    have := congrArg Core.chans h.core
    exact this
  · rw [h.cores e he]

theorem StampOnly.confined {c : Nat} {s t : State} (h : StampOnly c s t) (p : Nat) : Confined c p s t := by
  refine ⟨h.rest, h.dies, fun e he => by rw [h.cores e he], ?_, fun q _ => h.strand c q, fun _ => by rw [h.porter]⟩
  have h1 := h.core
  have h2 := congrArg Core.strands h.core
  have h3 := congrArg Core.porter h.core
  have h4 := congrArg Core.chans h.core
  dsimp only at h2 h3 h4
  rw [← h2, ← h3, ← h4]; exact h1

theorem confined_setStrand (s : State) (c p : Nat) (x : Strand) : Confined c p s (s.setStrand c p x) := by
  refine ⟨rfl, fun _ => rfl, fun e he => ?_, ?_, fun q hq => ?_, fun _ => by rw [porter_setStrand]⟩
  · rw [setStrand_eq, core_setCore_other _ _ _ _ he]
  · rw [setStrand_eq, core_setCore]
  · exact strand_setStrand_other _ _ _ _ _ _ (by simpa using hq)

theorem chans_setStrand (s : State) (c p : Nat) (x : Strand) (e : Nat) :
    ((s.setStrand c p x).core e).chans = (s.core e).chans := by
  rw [setStrand_eq, core_setCore_eq]; split
  · next h => rw [h]
  · rfl

theorem chans_setPorter (s : State) (c : Nat) (x : Porter) (e : Nat) :
    ((s.setPorter c x).core e).chans = (s.core e).chans := by
  rw [setPorter_eq, core_setCore_eq]; split
  · next h => rw [h]
  · rfl

/-- What putting a strand into a state of R40 does. -/
theorem setSt_spec (s : State) (c p : Nat) (st : RunState) :
    Confined c p s (s.setSt c p st) ∧ (s.setSt c p st).strand c p = { s.strand c p with st := st } ∧
    (∀ e, (s.setSt c p st).porter e = s.porter e) ∧
    ∀ e, ((s.setSt c p st).core e).chans = (s.core e).chans := by
  unfold State.setSt
  dsimp only
  split
  · exact ⟨confined_setStrand .., strand_setStrand .., fun e => porter_setStrand .., fun e => chans_setStrand ..⟩
  · have h := stampOnly_stamp (s.setStrand c p { s.strand c p with st := st }) c st.code (s.strand c p).gti
      (BitVec.ofNat 16 (p * 8192 + c % 8192))
    refine ⟨(confined_setStrand ..).trans (h.confined p), ?_, fun e => ?_, fun e => ?_⟩
    · rw [h.strand, strand_setStrand]
    · rw [h.porter, porter_setStrand]
    · rw [h.chans, chans_setStrand]

/-- What leaving the rotation does. -/
theorem parked_park (s : State) (c p : Nat) (st : RunState) (w : Wait) :
    Parked c p s (s.park c p st w) st w := by
  by_cases hp : p = 6
  · subst hp
    have hpark : s.park c 6 st w = s.setPorter c { s.porter c with st := st, wait := w } := by simp [State.park]
    rw [hpark]
    refine ⟨⟨rfl, fun _ => rfl, fun e he => ?_, ?_, fun q _ => strand_setPorter .., fun h => absurd rfl h⟩,
      fun h => absurd rfl h, ?_, ?_, ?_, fun e q => ?_⟩
    · rw [setPorter_eq, core_setCore_other _ _ _ _ he]
    · rw [setPorter_eq, core_setCore]
    · simp
    · simp [stOf]
    · simp [State.waitOf]
    · rw [chans_setPorter]
  · obtain ⟨h1, h2, h3, h4⟩ := setSt_spec s c p st
    have hpark : s.park c p st w =
        (s.setSt c p st).setStrand c p { (s.setSt c p st).strand c p with wait := w } := by simp [State.park, hp]
    rw [hpark]
    refine ⟨h1.trans (confined_setStrand ..), fun _ => ?_, ?_, ?_, ?_, fun e q => ?_⟩
    · rw [strand_setStrand, h2]
    · simp [hp, h3]
    · simp [stOf, hp, h2]
    · simp [State.waitOf, hp]
    · rw [chans_setStrand, h4]

/-- What a party that waits holds of its channels is noted with it. -/
theorem Parked.holdChans {s b t : State} {st : RunState} {w : Wait}
    (h : Parked s.cur.core s.cur.pos b t st w) (u : Use) :
    Parked s.cur.core s.cur.pos b (s.holdChans t u) st w := by
  unfold State.holdChans
  split
  · next hw =>
    have hp : s.cur.pos ≠ 6 := by have := (holds_true hw).2.1; omega
    refine ⟨h.own.trans (confined_setStrand ..), fun _ => ?_, ?_, ?_, ?_, fun e q => ?_⟩
    · rw [strand_setStrand]; exact h.strand hp
    · rw [porter_setStrand]; exact h.porter
    · have := h.st; simp only [stOf, hp, if_false, strand_setStrand] at this ⊢; exact this
    · have := h.wait; simp only [State.waitOf, hp, if_false, strand_setStrand] at this ⊢; exact this
    · rw [chans_setStrand]; exact h.chans e q
  · exact h

theorem Parked.regs {c p : Nat} {s t : State} {st : RunState} {w : Wait} (h : Parked c p s t st w) :
    t.regsOf c p = s.regsOf c p := by
  by_cases hp : p = 6
  · subst hp
    simp [State.regsOf, h.porter]
  · simp only [State.regsOf, hp, if_false]
    rw [← h.strand hp]

theorem faultWord0_toNat (gti : BitVec 32) (seq upper imp : Bool) (i : TrapInfo) :
    (faultWord0 gti seq upper imp i).toNat = gti.toNat * 4294967296 + seq.toNat * 262144 + upper.toNat * 131072 +
      imp.toNat * 65536 + i.sub % 256 * 256 + i.cause % 256 := by
  have hg := gti.isLt
  have hs := Bool.toNat_le seq
  have hu := Bool.toNat_le upper
  have hi := Bool.toNat_le imp
  unfold faultWord0
  rw [BitVec.toNat_ofNat]
  norm_num only at *
  omega

theorem fault0_word (gti : BitVec 32) (seq upper imp : Bool) (i : TrapInfo) :
    Fault0 (faultWord0 gti seq upper imp i) gti seq upper imp i.sub i.cause := by
  have hw := faultWord0_toNat gti seq upper imp i
  generalize faultWord0 gti seq upper imp i = w at hw
  have hg : gti.toNat < 4294967296 := gti.isLt
  have hs := Bool.toNat_le seq
  have hu := Bool.toNat_le upper
  have hi := Bool.toNat_le imp
  have bit (k n : Nat) (b : Bool) (hk : k = n) (h : w.toNat / 2 ^ n % 2 = b.toNat) : w.getLsbD k = b := by
    rw [hk, BitVec.getLsbD, Nat.testBit_eq_decide_div_mod_eq, h]
    cases b <;> rfl
  have field (k n : Nat) (x : BitVec n) (h : w.toNat / 2 ^ k % 2 ^ n = x.toNat) : w.extractLsb' k n = x := by
    apply BitVec.eq_of_toNat_eq
    rw [BitVec.extractLsb'_toNat, Nat.shiftRight_eq_div_pow, h]
  refine ⟨field 32 32 gti ?_, field 19 13 0 ?_, bit 18 18 seq rfl ?_, bit 17 17 upper rfl ?_, bit 16 16 imp rfl ?_,
    ?_, ?_⟩
  · rw [hw]; norm_num only; omega
  · rw [hw]; norm_num only; simp; omega
  · rw [hw]; norm_num only; omega
  · rw [hw]; norm_num only; omega
  · rw [hw]; norm_num only; omega
  · rw [BitVec.extractLsb'_toNat, Nat.shiftRight_eq_div_pow, hw]; norm_num only; omega
  · rw [BitVec.extractLsb'_toNat, Nat.shiftRight_eq_div_pow, hw]; norm_num only; omega

theorem faultWord1_toNat (c p : Nat) (pc : Pc) :
    (faultWord1 c p pc).toNat = locWord c p % 2 ^ 40 * 2 ^ 24 + pc.toNat := by
  have := pc.isLt
  simp only [faultWord1, BitVec.toNat_ofNat, Nat.reducePow] at *
  omega

theorem confined_setQueue (s : State) (c p : Nat) (l : List EntryKind) :
    Confined c p s (s.setPorter c { s.porter c with queue := l }) := by
  refine ⟨rfl, fun _ => rfl, fun e he => ?_, ?_, fun q _ => strand_setPorter .., fun _ => ?_⟩
  · rw [setPorter_eq, core_setCore_other _ _ _ _ he]
  · rw [setPorter_eq, core_setCore]
  · rw [porter_setPorter]

/-- What a trap of a strand does. -/
theorem trapped_trapStrand (s : State) (c p : Nat) (i : TrapInfo) :
    Trapped c p s (s.trapStrand c p false (s.strand c p).regs.pc 0 i) i := by
  obtain ⟨h1, h2, h3, h4⟩ := setSt_spec s c p .trapped
  let x : Strand := { (s.setSt c p .trapped).strand c p with
    wait := .none, op := none
    fault := ⟨faultWord0 ((s.setSt c p .trapped).strand c p).gti false i.upper (impCause i.cause) i,
      faultWord1 c p (s.strand c p).regs.pc, BitVec.ofNat 64 i.addr, BitVec.ofNat 64 i.info, 0⟩ }
  let s1 := (s.setSt c p .trapped).setStrand c p x
  have ht : s.trapStrand c p false (s.strand c p).regs.pc 0 i =
      s1.setPorter c { s1.porter c with queue := (s1.porter c).queue ++ [.trap p] } := rfl
  have hp1 : s1.porter c = s.porter c := by rw [porter_setStrand, h3]
  have hst : ∀ q, (s1.setPorter c { s1.porter c with queue := (s1.porter c).queue ++ [.trap p] }).strand c q =
      if q = p then x else s.strand c q := by
    intro q
    rw [strand_setPorter, strand_setStrand_eq]
    by_cases hq : q = p
    · simp [hq]
    · simp [hq, h1.strands q hq]
  rw [ht]
  have hx := hst p
  simp only [if_true] at hx
  refine ⟨(h1.trans (confined_setStrand _ _ _ x)).trans (confined_setQueue ..), ?_, ?_, ?_, ?_, ?_, ?_, ?_, ?_, ?_, fun e q => ?_⟩
  · rw [hx]; show ({ x with
      st := (s.strand c p).st, wait := (s.strand c p).wait, op := (s.strand c p).op
      fault := (s.strand c p).fault } : Strand) = _
    simp only [x, h2]
  · rw [hx]; simp only [x, h2]
  · rw [hx]
  · rw [hx]
  · rw [hx]; simp only [x, h2]; exact fault0_word ..
  · rw [hx]; exact faultWord1_toNat ..
  · rw [hx]
  · rw [hx]
  · rw [porter_setPorter, hp1]
  · rw [chans_setPorter, chans_setStrand, h4]

/-- A trap of the issuing party. -/
theorem traps_takeTrap {i : Instr} {s : State} {e : TrapInfo} (h : exec i s = .next (s.takeTrap e)) :
    Traps i s e := by
  refine ⟨_, h, fun hp => ?_, fun hp => ?_⟩
  · have : s.takeTrap e = s.trapStrand s.cur.core s.cur.pos false (s.strand s.cur.core s.cur.pos).regs.pc 0 e := by
      simp [State.takeTrap, State.takeTrapOf, hp, State.regsOf]
    rw [this]; exact trapped_trapStrand ..
  · have : s.takeTrap e = s.setPorter s.cur.core { s.porter s.cur.core with
        st := .trapped, wait := .none, op := none
        queue := .landlord e :: (s.porter s.cur.core).queue } := by
      simp [State.takeTrap, State.takeTrapOf, hp]
    rw [this]
    exact ⟨porter_setPorter .., rfl⟩

end Sys2Proof.Safety
end

