-- ==== Sys2Proof/Laws/Vec.lean ====
section
/-! SUPPORT. What the vector shapes of Machine/VecCore.lean do: one lemma for each, in the terms of Safety. -/

namespace Sys2Proof.Safety

open Sys2Proof.Machine

theorem putS_ok {d : SOp} {x : Word} {p : Bool} (h : takesS d p) (src : Nat) : putS d x p src = .ok [effS d x p] := by
  cases d with
  | s i => rfl
  | ch c => simp [putS, effS, h c rfl]

theorem effS_notLs (d : SOp) (x : Word) (p : Bool) : isLs (effS d x p) = false := by
  cases d <;> rfl

theorem effK_notLs (d : KOp) (x : Word) : isLs (effK d x) = false := by
  cases d <;> rfl

theorem effV_notLs (d : VOp) (x : VReg) (p : BitVec 8) : isLs (effV d x p) = false := by
  cases d <;> rfl

theorem putK_eq (d : KOp) (x : Word) : putK d x = [effK d x] := by cases d <;> rfl

theorem putV_ok {d : VOp} {r : PVec} (h : takesV d r.p) (src : Nat) : putV d r src = .ok [effV d r.x r.p] := by
  cases d with
  | v i => rfl
  | ch c => simp [putV, effV, h c rfl]

theorem putV_error {d : VOp} {r : PVec} (h : ¬ takesV d r.p) (src : Nat) : putV d r src = .error (tPoison src) := by
  cases d with
  | v i => exact absurd (fun c hc => by cases hc) h
  | ch c =>
    have : r.p ≠ 0 := fun h0 => h fun _ _ => h0
    show (if r.p ≠ 0 then _ else _) = _
    rw [if_pos this]

/-! Elements -/

theorem foldr_elems (w : Nat) (l : List Nat) (j : Nat) (hj : j < l.length) :
    l.foldr (fun x n => x % 2 ^ w + 2 ^ w * n) 0 / 2 ^ (w * j) % 2 ^ w = l[j] % 2 ^ w := by
  induction l generalizing j with
  | nil => simp at hj
  | cons x t ih =>
    have hp : 0 < 2 ^ w := Nat.two_pow_pos w
    have hlt : x % 2 ^ w < 2 ^ w := Nat.mod_lt _ hp
    cases j with
    | zero => simp
    | succ j =>
      simp only [List.foldr_cons, List.getElem_cons_succ]
      rw [← ih j (by simpa using hj), Nat.mul_succ, Nat.add_comm (w * j) w, Nat.pow_add, ← Nat.div_div_eq_div_mul]
      rw [Nat.add_mul_div_left _ _ hp, Nat.div_eq_of_lt hlt, Nat.zero_add]

theorem elem_ofElems (w : Nat) (l : List Nat) (j : Nat) (hj : j < l.length) (hl : w * l.length ≤ 512) :
    elem w (ofElems w l) j = l[j] % 2 ^ w := by
  rw [← foldr_elems w l j hj, elem, ofElems, BitVec.toNat_ofNat]
  generalize l.foldr (fun x n => x % 2 ^ w + 2 ^ w * n) 0 = n
  have h1 : w * j + w ≤ 512 := by
    calc w * j + w = w * (j + 1) := (Nat.mul_succ w j).symm
      _ ≤ w * l.length := Nat.mul_le_mul_left w hj
      _ ≤ 512 := hl
  apply Nat.eq_of_testBit_eq
  intro i
  simp only [Nat.testBit_mod_two_pow, Nat.testBit_div_two_pow]
  by_cases hi : i < w
  · simp only [hi, decide_true, Bool.true_and]
    rw [decide_eq_true (by omega), Bool.true_and]
  · simp [hi]

theorem bitSum_testBit (f : Nat → Bool) (n k : Nat) :
    (((List.range k).map fun j => if f j then 2 ^ j else 0).sum).testBit n = (decide (n < k) && f n) ∧
    ((List.range k).map fun j => if f j then 2 ^ j else 0).sum < 2 ^ k := by
  induction k with
  | zero => simp
  | succ k ih =>
    obtain ⟨h1, h2⟩ := ih
    rw [List.range_succ, List.map_append, List.sum_append]
    generalize ((List.range k).map fun j => if f j then 2 ^ j else 0).sum = x at h1 h2
    simp only [List.map_cons, List.map_nil, List.sum_cons, List.sum_nil, Nat.add_zero]
    constructor
    · cases hf : f k
      · simp only [Bool.false_eq_true, if_false, Nat.add_zero, h1]
        by_cases hn : n = k
        · subst hn; simp [hf]
        · have : decide (n < k + 1) = decide (n < k) := by rw [decide_eq_decide]; omega
          rw [this]
      · simp only [if_true]
        by_cases hn : n = k
        · subst hn
          rw [Nat.add_comm, Nat.testBit_two_pow_add_eq, Nat.testBit_lt_two_pow h2]; simp [hf]
        · have hor := Nat.two_pow_add_eq_or_of_lt h2 1
          rw [Nat.mul_one] at hor
          rw [Nat.add_comm, hor, Nat.testBit_or, h1, Nat.testBit_two_pow_of_ne (Ne.symm hn), Bool.false_or]
          have : decide (n < k + 1) = decide (n < k) := by rw [decide_eq_decide]; omega
          rw [this]
    · have := Nat.two_pow_pos k
      split
      · rw [Nat.pow_succ]; omega
      · rw [Nat.pow_succ]; omega

theorem wordsP_bit (w : Nat) (l : List Bool) (n : Nat) (hn : n < 8) :
    (wordsP w l).getLsbD n = true ↔ ∃ j, ∃ h : j < l.length, l[j] = true ∧ w * j / 64 = n := by
  have h := bitSum_testBit (fun j => l.zipIdx.any fun e => e.1 && w * e.2 / 64 = j) n 8
  rw [wordsP, BitVec.getLsbD_ofNat, h.1]
  simp only [hn, decide_true, Bool.true_and, List.any_eq_true, Bool.and_eq_true, decide_eq_true_eq, Prod.exists]
  constructor
  · rintro ⟨b, j, hm, hb, hw⟩
    rw [List.mem_zipIdx_iff_getElem?] at hm
    simp only at hm
    rw [List.getElem?_eq_some_iff] at hm
    obtain ⟨hj, he⟩ := hm
    exact ⟨j, hj, he.trans hb, hw⟩
  · rintro ⟨j, hj, hb, hw⟩
    exact ⟨true, j, by rw [List.mem_zipIdx_iff_getElem?]; simp [hj, hb], rfl, hw⟩

theorem flagFold_bit (l : List (Nat × Bool × Flags)) (f : Flags) (n : Nat) :
    (l.foldl (fun f e => f ||| e.2.2) f).getLsbD n = true ↔ f.getLsbD n = true ∨ ∃ e ∈ l, e.2.2.getLsbD n = true := by
  induction l generalizing f with
  | nil => simp
  | cons e t ih =>
    rw [List.foldl_cons, ih]
    simp [or_assoc]

/-- What `putElems` writes. -/
theorem elemsAre_putElems (w : Nat) (hw : w * (512 / w) ≤ 512) (e : Nat → ERes) :
    ElemsAre w e (ofElems w (((List.range (lanes w)).map e).map (·.1)))
      (wordsP w (((List.range (lanes w)).map e).map (·.2.1)))
      (((List.range (lanes w)).map e).foldl (fun f e => f ||| e.2.2) 0) := by
  refine ⟨fun j hj => ?_, fun n hn => ?_, fun n _ => ?_⟩
  · rw [elem_ofElems _ _ _ (by simpa [lanes] using hj) (by simpa [lanes] using hw)]
    simp
  · rw [wordsP_bit _ _ _ hn]
    simp only [List.length_map, List.length_range, List.getElem_map, List.getElem_range, lanes]
    constructor
    · rintro ⟨j, h1, h2, h3⟩; exact ⟨j, h1, h2, h3⟩
    · rintro ⟨j, h1, h2, h3⟩; exact ⟨j, h1, h2, h3⟩
  · rw [flagFold_bit]
    simp [lanes]

theorem mul_div_le' (w : Nat) : w * (512 / w) ≤ 512 := Nat.mul_div_le 512 w

/-- What an instruction that ends in `putElems` of elements `e` gives. -/
theorem givesV_putElems {R : Instr → State → Use → List Eff → Prop} {i : Instr} {s : State} {u : Use} {d : VOp}
    {w : Nat} {e : Nat → ERes} {l : List ERes} (hl : l = (List.range (lanes w)).map e) {src : Nat}
    (hok : ∀ l', putElems d w l src = .ok l' → l'.all (fun e => !isLs e) = true → R i s u l')
    (herr : ∀ t, putElems d w l src = .error t → Traps i s t) :
    GivesV R i s u d w e := by
  subst hl
  refine ⟨_, _, _, elemsAre_putElems w (mul_div_le' w) e, fun ht => hok _ ?_ ?_, fun ht => ⟨src, herr _ ?_⟩⟩
  · rw [putElems, putV_ok ht]; rfl
  · simp [effV_notLs]; rfl
  · rw [putElems, putV_error ht]; rfl

/-- An instruction of fixed latency. -/
theorem plain_retires {s : State} {g : Guard} {f : Form} (h : Clear s g f) {i : Instr}
    {fx : View → Except TrapInfo (List Eff)} (he : exec i s = .next (s.plain g f fx)) {l : List Eff}
    (hx : fx (s.view f.use) = .ok l) (hl : l.all (fun e => !isLs e) = true) : Retires i s f.use l :=
  ⟨_, he, settled_plain h hx hl⟩

theorem plain_traps {s : State} {g : Guard} {f : Form} (h : Clear s g f) {i : Instr}
    {fx : View → Except TrapInfo (List Eff)} (he : exec i s = .next (s.plain g f fx)) {t : TrapInfo}
    (hx : fx (s.view f.use) = .error t) : Traps i s t := by
  apply traps_takeTrap
  rw [he, State.plain, issue_error h hx]

/-- A long operation. -/
theorem slow_holds {s : State} {g : Guard} {f : Form} (h : Clear s g f) {i : Instr}
    {fx : View → Except TrapInfo (List Eff)} (he : exec i s = .next (s.slow g f fx)) {l : List Eff}
    (hx : fx (s.view f.use) = .ok l) : Holds i s f.use l := by
  refine ⟨_, he, ?_⟩
  rw [State.slow, issue_ok h hx]
  exact Parked.holdChans (parked_park ..) _

theorem slow_traps {s : State} {g : Guard} {f : Form} (h : Clear s g f) {i : Instr}
    {fx : View → Except TrapInfo (List Eff)} (he : exec i s = .next (s.slow g f fx)) {t : TrapInfo}
    (hx : fx (s.view f.use) = .error t) : Traps i s t := by
  apply traps_takeTrap
  rw [he, State.slow, issue_error h hx]

/-- A vector instruction of fixed latency whose operands give the elements `e`. -/
theorem givesV_plain {s : State} {g : Guard} {f : Form} (h : Clear s g f) {i : Instr}
    {fx : View → Except TrapInfo (List Eff)} (he : exec i s = .next (s.plain g f fx)) {d : VOp} {w src : Nat}
    {e : Nat → ERes} {l : List ERes} (hl : l = (List.range (lanes w)).map e)
    (hx : fx (s.view f.use) = putElems d w l src) : GivesV Retires i s f.use d w e :=
  givesV_putElems hl (fun _ h1 h2 => plain_retires h he (hx.trans h1) h2) fun _ h1 => plain_traps h he (hx.trans h1)

/-- A vector instruction that leaves the rotation. -/
theorem givesV_slow {s : State} {g : Guard} {f : Form} (h : Clear s g f) {i : Instr}
    {fx : View → Except TrapInfo (List Eff)} (he : exec i s = .next (s.slow g f fx)) {d : VOp} {w src : Nat}
    {e : Nat → ERes} {l : List ERes} (hl : l = (List.range (lanes w)).map e)
    (hx : fx (s.view f.use) = putElems d w l src) : GivesV Holds i s f.use d w e :=
  givesV_putElems hl (fun _ h1 _ => slow_holds h he (hx.trans h1)) fun _ h1 => slow_traps h he (hx.trans h1)

theorem elem_lt (w : Nat) (x : VReg) (j : Nat) : elem w x j < 2 ^ w := Nat.mod_lt _ (Nat.two_pow_pos w)

/-- The element results of a binary shape. -/
theorem fxBin_eq (w : Nat) (f : View → Nat → Nat → Nat × Flags) (d a : VOp) (b : VB) (v : View)
    (op : Nat → Nat → Nat × Flags) (h : ∀ x y, x < 2 ^ w → y < 2 ^ w → f v x y = op x y) :
    ∃ src, fxBin w f d a b v = putElems d w ((List.range (lanes w)).map fun j =>
      match v.vb b with
      | .mask k =>
        if k.getLsbD (j * w / 8) then
          let r := op (elem w (v.v v.d d).x j) (elem w (v.v v.a a).x j)
          (r.1, elemP w (v.v v.d d).p j || elemP w (v.v v.a a).p j, r.2)
        else (elem w (v.v v.d d).x j, elemP w (v.v v.d d).p j, 0)
      | .vec y =>
        let r := op (elem w (v.v v.a a).x j) (elem w y.x j)
        (r.1, elemP w (v.v v.a a).p j || elemP w y.p j, r.2)
      | .all y p =>
        let r := op (elem w (v.v v.a a).x j) (y.toNat % 2 ^ w)
        (r.1, elemP w (v.v v.a a).p j || p, r.2)) src := by
  cases hy : v.vb b with
  | vec y =>
    refine ⟨vSrc (v.v v.a a) (v.vb b), ?_⟩
    simp only [fxBin, hy, BVal.elem, h _ _ (elem_lt ..) (elem_lt ..)]
    rfl
  | all y p =>
    refine ⟨vSrc (v.v v.a a) (v.vb b), ?_⟩
    simp only [fxBin, hy, BVal.elem, h _ _ (elem_lt ..) (Nat.mod_lt _ (Nat.two_pow_pos w))]
    rfl
  | mask k =>
    refine ⟨firstPoison ((v.v v.a a).p ≠ 0) false ((v.v v.d d).p ≠ 0), ?_⟩
    simp only [fxBin, hy, active, h _ _ (elem_lt ..) (elem_lt ..)]
    rfl

theorem binaryV_plain {s : State} {g : Guard} {d a : VOp} {b : VB} {w : Nat} (h : Clear s g (formVVB d a b))
    {i : Instr} {f : View → Nat → Nat → Nat × Flags} (he : exec i s = .next (s.plain g (formVVB d a b) (fxBin w f d a b)))
    {op : Nat → Nat → Nat × Flags}
    (ho : ∀ x y, x < 2 ^ w → y < 2 ^ w → f (s.view (formVVB d a b).use) x y = op x y) :
    BinaryV Retires i s d a b w op := by
  obtain ⟨src, hx⟩ := fxBin_eq w f d a b (s.view (formVVB d a b).use) op ho
  exact givesV_plain h he rfl hx

theorem binaryV_slow {s : State} {g : Guard} {d a : VOp} {b : VB} {w : Nat} (h : Clear s g (formVVB d a b))
    {i : Instr} {f : View → Nat → Nat → Nat × Flags} (he : exec i s = .next (s.slow g (formVVB d a b) (fxBin w f d a b)))
    {op : Nat → Nat → Nat × Flags}
    (ho : ∀ x y, x < 2 ^ w → y < 2 ^ w → f (s.view (formVVB d a b).use) x y = op x y) :
    BinaryV Holds i s d a b w op := by
  obtain ⟨src, hx⟩ := fxBin_eq w f d a b (s.view (formVVB d a b).use) op ho
  exact givesV_slow h he rfl hx

/-- The element results of a unary shape. -/
theorem fxUn_eq (w : Nat) (f : View → Nat → Nat × Flags) (d a : VOp) (b : KOpt) (v : View) :
    ∃ src, fxUn w f d a b v = putElems d w ((List.range (lanes w)).map fun j =>
      if (v.ko v.b b).all fun k => k.getLsbD (j * w / 8) then
        let r := f v (elem w (v.v v.a a).x j)
        (r.1, elemP w (v.v v.a a).p j, r.2)
      else (elem w (v.v v.d d).x j, elemP w (v.v v.d d).p j, 0)) src := by
  refine ⟨firstPoison ((v.v v.a a).p ≠ 0) false ((v.v v.d d).p ≠ 0), ?_⟩
  cases hk : v.ko v.b b with
  | none => simp only [fxUn, hk, Option.all_none, if_true]
  | some k => simp only [fxUn, hk, Option.all_some, active]; rfl

theorem unaryV_plain {s : State} {g : Guard} {d a : VOp} {b : KOpt} {w : Nat} (h : Clear s g (formVVK d a b))
    {i : Instr} {f : View → Nat → Nat × Flags} (he : exec i s = .next (s.plain g (formVVK d a b) (fxUn w f d a b))) :
    UnaryV Retires i s d a b w (f (s.view (formVVK d a b).use)) := by
  obtain ⟨src, hx⟩ := fxUn_eq w f d a b (s.view (formVVK d a b).use)
  exact givesV_plain h he rfl hx

theorem unaryV_slow {s : State} {g : Guard} {d a : VOp} {b : KOpt} {w : Nat} (h : Clear s g (formVVK d a b))
    {i : Instr} {f : View → Nat → Nat × Flags} (he : exec i s = .next (s.slow g (formVVK d a b) (fxUn w f d a b))) :
    UnaryV Holds i s d a b w (f (s.view (formVVK d a b).use)) := by
  obtain ⟨src, hx⟩ := fxUn_eq w f d a b (s.view (formVVK d a b).use)
  exact givesV_slow h he rfl hx

/-! Masks -/

theorem laneSum_bit (n : Nat) (hn : 0 < n) (f : Nat → Bool) (k m : Nat) :
    (((List.range k).map fun j => if f j then (2 ^ n - 1) * 2 ^ (n * j) else 0).sum).testBit m =
      (decide (m < n * k) && f (m / n)) ∧
    ((List.range k).map fun j => if f j then (2 ^ n - 1) * 2 ^ (n * j) else 0).sum < 2 ^ (n * k) := by
  induction k with
  | zero => simp
  | succ k ih =>
    obtain ⟨h1, h2⟩ := ih
    rw [List.range_succ, List.map_append, List.sum_append]
    generalize ((List.range k).map fun j => if f j then (2 ^ n - 1) * 2 ^ (n * j) else 0).sum = x at h1 h2
    simp only [List.map_cons, List.map_nil, List.sum_cons, List.sum_nil, Nat.add_zero, Nat.mul_succ]
    have hm : m / n = k ∨ m < n * k ∨ n * k + n ≤ m := by
      rcases Nat.lt_trichotomy (m / n) k with h | h | h
      · exact .inr (.inl (by rwa [Nat.div_lt_iff_lt_mul hn, Nat.mul_comm] at h))
      · exact .inl h
      · refine .inr (.inr ?_)
        have : (k + 1) * n ≤ m := (Nat.le_div_iff_mul_le hn).mp h
        rw [Nat.add_mul, Nat.one_mul, Nat.mul_comm] at this; exact this
    have hin : m / n = k → n * k ≤ m ∧ m < n * k + n := by
      rintro rfl
      exact ⟨Nat.mul_div_le m n, by have := Nat.lt_mul_div_succ m hn; rwa [Nat.mul_succ] at this⟩
    constructor
    · cases hf : f k
      · simp only [Bool.false_eq_true, if_false, Nat.add_zero, h1]
        rcases hm with h | h | h
        · have := hin h
          rw [h, hf]; simp
        · rw [decide_eq_true h, decide_eq_true (show m < n * k + n by omega)]
        · rw [decide_eq_false (show ¬ m < n * k by omega), decide_eq_false (show ¬ m < n * k + n by omega)]
      · simp only [if_true]
        rw [Nat.add_comm, Nat.mul_comm (2 ^ n - 1), Nat.two_pow_add_eq_or_of_lt h2, Nat.testBit_or, h1,
          Nat.testBit_two_pow_mul, Nat.testBit_two_pow_sub_one]
        rcases hm with h | h | h
        · have := hin h
          rw [h, hf, decide_eq_false (show ¬ m < n * k by omega), decide_eq_true (show m < n * k + n by omega),
            decide_eq_true (show n * k ≤ m by omega), decide_eq_true (show m - n * k < n by omega)]; rfl
        · rw [decide_eq_true h, decide_eq_true (show m < n * k + n by omega),
            decide_eq_false (show ¬ m ≥ n * k by omega)]; simp
        · rw [decide_eq_false (show ¬ m < n * k by omega), decide_eq_false (show ¬ m < n * k + n by omega),
            decide_eq_false (show ¬ m - n * k < n by omega)]; simp
    · have hp := Nat.two_pow_pos (n * k)
      have hq := Nat.two_pow_pos n
      rw [Nat.pow_add]
      generalize 2 ^ (n * k) = P at *
      generalize 2 ^ n = Q at *
      split
      · obtain ⟨Q, rfl⟩ : ∃ q, Q = q + 1 := ⟨Q - 1, by omega⟩
        rw [Nat.add_sub_cancel, Nat.mul_succ, Nat.mul_comm P]; omega
      · have := Nat.le_mul_of_pos_right P hq; omega

theorem zipIdx_map_range {α : Type} (f : Nat → α) (n : Nat) :
    ((List.range n).map f).zipIdx = (List.range n).map fun j => (f j, j) := by
  apply List.ext_getElem
  · simp
  · intro i h1 h2; simp

theorem flagFold2_bit (l : List (Bool × Flags)) (f : Flags) (n : Nat) :
    (l.foldl (fun f e => f ||| e.2) f).getLsbD n = true ↔ f.getLsbD n = true ∨ ∃ e ∈ l, e.2.getLsbD n = true := by
  induction l generalizing f with
  | nil => simp
  | cons e t ih =>
    rw [List.foldl_cons, ih]
    simp [or_assoc]

theorem fxMask_eq (w : Nat) (f : Nat → Nat → Bool × Flags) (d : KOp) (a : VOp) (b : VB) (v : View) :
    fxMask w f d a b v = match needClean ((v.v v.a a).p ≠ 0) (bPoison (v.vb b)) false with
      | .error t => .error t
      | .ok _ =>
        let r (j : Nat) := f (elem w (v.v v.a a).x j) ((v.vb b).elem w j).1
        .ok [effK d (.ofNat 64 ((List.range (lanes w)).map fun j =>
            if (r j).1 then (2 ^ (w / 8) - 1) * 2 ^ (w / 8 * j) else 0).sum),
          .flags (((List.range (lanes w)).map r).foldl (fun f r => f ||| r.2) 0)] := by
  unfold fxMask
  cases v.vb b <;> simp only [bPoison, zipIdx_map_range, List.map_map, putK_eq] <;> rfl

/-- What a mask-writing shape does. -/
theorem maskV_plain {s : State} {g : Guard} {d : KOp} {a : VOp} {b : VB} {t : ETy} (h : Clear s g (formKVB d a b))
    {i : Instr} {f : Nat → Nat → Bool × Flags}
    (he : exec i s = .next (s.plain g (formKVB d a b) (fxMask (tyBits t) f d a b)))
    {op : Nat → Nat → Bool × Flags}
    (ho : ∀ x y, x < 2 ^ tyBits t → y < 2 ^ tyBits t → f x y = op x y) :
    MaskV i s d a b (tyBits t) op := by
  have hw : 0 < tyBits t / 8 ∧ tyBits t / 8 * (512 / tyBits t) = 64 ∧ ∀ n, n / (tyBits t / 8) = 8 * n / tyBits t := by
    cases t <;> refine ⟨by decide, by decide, fun n => ?_⟩ <;> simp only [tyBits] <;> omega
  generalize tyBits t = w at *
  let v := s.view (formKVB d a b).use
  have hlt (j : Nat) : ((v.vb b).elem w j).1 < 2 ^ w := by
    unfold BVal.elem; split
    · exact elem_lt ..
    · exact Nat.mod_lt _ (Nat.two_pow_pos w)
    · exact Nat.two_pow_pos w
  have hf (j : Nat) : f (elem w (v.v v.a a).x j) ((v.vb b).elem w j).1 =
      op (elem w (v.v v.a a).x j) ((v.vb b).elem w j).1 := ho _ _ (elem_lt ..) (hlt j)
  have hfx := fxMask_eq w f d a b v
  simp only [hf] at hfx
  unfold MaskV
  intro u v' x y r
  split
  · next hx =>
    apply plain_traps h he
    rw [hfx, decide_eq_true hx]; rfl
  · next hx =>
    rw [show decide ((v.v v.a a).p ≠ 0) = false from decide_eq_false hx] at hfx
    split
    · next hb =>
      apply plain_traps h he
      rw [hfx, show bPoison (v.vb b) = true from hb]; rfl
    · next hb =>
      rw [show bPoison (v.vb b) = false by simpa using hb] at hfx
      refine ⟨_, _, plain_retires h he hfx (by simp [effK_notLs]; rfl), fun n hn => ?_, fun n _ => ?_⟩
      · have := (laneSum_bit (w / 8) hw.1 (fun j => (r j).1) (lanes w) n).1
        rw [BitVec.getLsbD_ofNat]
        refine (congrArg (decide (n < 64) && ·) this).trans ?_
        rw [lanes, hw.2.1, hw.2.2]
        simp [hn]
      · rw [flagFold2_bit]; simp [lanes]; rfl

end Sys2Proof.Safety
end

