-- ==== Sys2Proof/Laws/LocalStore.lean ====
section
/-! SUPPORT. What touching, loading and storing do to a local store, and how a local-store form retires. -/

namespace Sys2Proof.Safety

open Sys2Proof.Machine

/-- What touching a range does: nothing but the guard record of a strand. -/
theorem guardTouch_eq (s : State) (c p a n : Nat) :
    s.guardTouch c p a n = s ∨ p < 6 ∧ ∃ x, s.guardTouch c p a n =
      s.setStrand c p { s.strand c p with guard := some (guardNote (s.strand c p).guard x) } := by
  unfold State.guardTouch
  split
  · exact .inl rfl
  · next x _ =>
    by_cases hp : p < 6
    · exact .inr ⟨hp, x, by simp [hp]⟩
    · exact .inl (by simp [hp])

theorem core_guardTouch (s : State) (c p a n d : Nat) : ({ (s.guardTouch c p a n).core d with
    strands := (s.core d).strands } : Core) = s.core d := by
  rcases guardTouch_eq s c p a n with h | ⟨_, x, h⟩
  · rw [h]
  · rw [h, setStrand_eq, core_setCore_eq]; split
    · next hd => subst hd; rfl
    · rfl

theorem regsOf_guardTouch (s : State) (c p a n d q : Nat) : (s.guardTouch c p a n).regsOf d q = s.regsOf d q := by
  rcases guardTouch_eq s c p a n with h | ⟨_, x, h⟩
  · rw [h]
  · rw [h]
    by_cases hq : q = 6
    · simp [State.regsOf, hq]
    · simp only [State.regsOf, hq, if_false, strand_setStrand_eq]
      split
      · next hd => rw [hd.1, hd.2]
      · rfl

theorem regsOf_lsStore (s : State) (c a d q : Nat) (l : List PByte) : (s.lsStore c a l).regsOf d q = s.regsOf d q := by
  have hc : ∀ e, (s.lsStore c a l).porter e = s.porter e ∧ ∀ q, (s.lsStore c a l).strand e q = s.strand e q := by
    intro e
    by_cases he : e = c
    · subst he; simp [State.lsStore, State.porter, State.strand, lsWrite]
    · simp [State.lsStore, State.porter, State.strand, core_setCore_other _ _ _ _ he]
  simp only [State.regsOf, hc]

/-- A store keeps the difference between two states that differ in the registers of the issuing party. -/
theorem OwnOnly.lsStore {s t : State} (h : OwnOnly s t) (a : Nat) (l : List PByte) :
    OwnOnly (s.lsStore s.cur.core a l) (t.lsStore s.cur.core a l) := by
  have hcore := h.core
  have h1 := congrArg Core.ls hcore
  have h2 := congrArg Core.lsP hcore
  have h3 := congrArg Core.guards hcore
  dsimp only at h1 h2 h3
  have hw : (lsWrite (t.core s.cur.core) a l) = { t.core s.cur.core with
      ls := (lsWrite (s.core s.cur.core) a l).ls, lsP := (lsWrite (s.core s.cur.core) a l).lsP } := by
    simp only [lsWrite, h1, h2, h3]
  have st (x : State) (d q : Nat) : (x.lsStore s.cur.core a l).strand d q = x.strand d q := by
    by_cases hd : d = s.cur.core
    · subst hd; simp [State.lsStore, State.strand, lsWrite]
    · simp [State.lsStore, State.strand, core_setCore_other _ _ _ _ hd]
  have po (x : State) (d : Nat) : (x.lsStore s.cur.core a l).porter d = x.porter d := by
    by_cases hd : d = s.cur.core
    · subst hd; simp [State.lsStore, State.porter, lsWrite]
    · simp [State.lsStore, State.porter, core_setCore_other _ _ _ _ hd]
  refine ⟨?_, fun c hc => ?_, ?_, fun hp => ?_, ⟨fun p hp => ?_, fun hp => ?_, fun hp => ?_, fun n hn => ?_, fun hn => ?_⟩⟩
  · have := h.rest; unfold OnlyCores at *
    have e := congrArg (fun x : State => ({ x with cores := (s.lsStore s.cur.core a l).cores } : State)) this
    exact e
  · have hc' : c ≠ s.cur.core := hc
    rw [State.lsStore, State.lsStore, core_setCore_other _ _ _ _ hc', core_setCore_other _ _ _ _ hc']
    exact h.cores c hc
  · show ({ (t.lsStore s.cur.core a l).core s.cur.core with
      strands := ((s.lsStore s.cur.core a l).core s.cur.core).strands
      porter := ((s.lsStore s.cur.core a l).core s.cur.core).porter
      chans := ((s.lsStore s.cur.core a l).core s.cur.core).chans } : Core) =
        (s.lsStore s.cur.core a l).core s.cur.core
    rw [State.lsStore, State.lsStore, core_setCore, core_setCore, hw]
    have e := congrArg (fun k : Core => ({ k with
      ls := (lsWrite (s.core s.cur.core) a l).ls, lsP := (lsWrite (s.core s.cur.core) a l).lsP } : Core)) hcore
    exact e
  · show ({ (t.lsStore s.cur.core a l).strand s.cur.core s.cur.pos with
      regs := ((s.lsStore s.cur.core a l).strand s.cur.core s.cur.pos).regs
      line := ((s.lsStore s.cur.core a l).strand s.cur.core s.cur.pos).line } : Strand) =
        (s.lsStore s.cur.core a l).strand s.cur.core s.cur.pos
    rw [st, st]; exact h.strand hp
  · show (t.lsStore s.cur.core a l).strand s.cur.core p = (s.lsStore s.cur.core a l).strand s.cur.core p
    rw [st, st]; exact h.others.strands p hp
  · show (t.lsStore s.cur.core a l).porter s.cur.core = (s.lsStore s.cur.core a l).porter s.cur.core
    rw [po, po]; exact h.others.porter hp
  · show ({ (t.lsStore s.cur.core a l).porter s.cur.core with
      keepers := ((s.lsStore s.cur.core a l).porter s.cur.core).keepers
      landlord := ((s.lsStore s.cur.core a l).porter s.cur.core).landlord
      line := ((s.lsStore s.cur.core a l).porter s.cur.core).line } : Porter) =
        (s.lsStore s.cur.core a l).porter s.cur.core
    rw [po, po]; exact h.others.own hp
  · show mapGet _ ((t.lsStore s.cur.core a l).porter s.cur.core).keepers n =
      mapGet _ ((s.lsStore s.cur.core a l).porter s.cur.core).keepers n
    rw [po, po]
    apply h.others.sets
    intro hh
    apply hn
    refine ⟨hh.1, ?_, ?_⟩
    · rw [State.level, State.isPorter, po]; exact hh.2.1
    · rw [State.tag, State.isPorter, po, st]; exact hh.2.2
  · show ((t.lsStore s.cur.core a l).porter s.cur.core).landlord =
      ((s.lsStore s.cur.core a l).porter s.cur.core).landlord
    rw [po, po]
    apply h.others.landlord
    intro hh
    apply hn
    refine ⟨hh.1, ?_⟩
    rw [State.level, State.isPorter, po]; exact hh.2

/-- A touch keeps it too. -/
theorem OwnOnly.guardTouch {s t : State} (h : OwnOnly s t) (a n : Nat) :
    OwnOnly (s.guardTouch s.cur.core s.cur.pos a n) (t.guardTouch s.cur.core s.cur.pos a n) := by
  have hg := congrArg Core.guards h.core
  change (t.core s.cur.core).guards = (s.core s.cur.core).guards at hg
  have hf : guardedFirst (t.core s.cur.core) a n = guardedFirst (s.core s.cur.core) a n := by
    simp only [guardedFirst, hg]
  unfold State.guardTouch
  rw [hf]
  split
  · exact h
  · next x _ =>
    split
    · next hp =>
      have hp6 : s.cur.pos ≠ 6 := Nat.ne_of_lt hp
      have hs := h.strand hp6
      have hgd := congrArg Strand.guard hs
      change (t.strand s.cur.core s.cur.pos).guard = (s.strand s.cur.core s.cur.pos).guard at hgd
      have keep (y : State) (z : Strand) (d q : Nat) (hne : q ≠ s.cur.pos) :
          (y.setStrand s.cur.core s.cur.pos z).strand d q = y.strand d q :=
        strand_setStrand_other _ _ _ _ _ _ (by simp [hne])
      refine ⟨?_, fun c hc => ?_, ?_, fun hp => ?_, ⟨fun p hp => ?_, fun hp => ?_, fun hp => ?_, fun n hn => ?_, fun hn => ?_⟩⟩
      · have := h.rest; unfold OnlyCores at *
        have e := congrArg (fun y : State => ({ y with cores := (s.setStrand s.cur.core s.cur.pos
          { s.strand s.cur.core s.cur.pos with
            guard := some (guardNote (s.strand s.cur.core s.cur.pos).guard x) }).cores } : State)) this
        exact e
      · have hc' : c ≠ s.cur.core := hc
        rw [setStrand_eq, setStrand_eq, core_setCore_other _ _ _ _ hc', core_setCore_other _ _ _ _ hc']
        exact h.cores c hc
      · show ({ (t.setStrand s.cur.core s.cur.pos _).core s.cur.core with
          strands := ((s.setStrand s.cur.core s.cur.pos _).core s.cur.core).strands
          porter := ((s.setStrand s.cur.core s.cur.pos _).core s.cur.core).porter
          chans := ((s.setStrand s.cur.core s.cur.pos _).core s.cur.core).chans } : Core) =
            (s.setStrand s.cur.core s.cur.pos _).core s.cur.core
        rw [setStrand_eq, setStrand_eq, core_setCore, core_setCore]
        have e := congrArg (fun k : Core => ({ k with
          strands := mapPut (s.core s.cur.core).strands s.cur.pos { s.strand s.cur.core s.cur.pos with
            guard := some (guardNote (s.strand s.cur.core s.cur.pos).guard x) } } : Core)) h.core
        exact e
      · show ({ (t.setStrand s.cur.core s.cur.pos _).strand s.cur.core s.cur.pos with
          regs := ((s.setStrand s.cur.core s.cur.pos _).strand s.cur.core s.cur.pos).regs
          line := ((s.setStrand s.cur.core s.cur.pos _).strand s.cur.core s.cur.pos).line } : Strand) =
            (s.setStrand s.cur.core s.cur.pos _).strand s.cur.core s.cur.pos
        rw [strand_setStrand, strand_setStrand, hgd]
        exact congrArg (fun y : Strand => ({ y with
          guard := some (guardNote (s.strand s.cur.core s.cur.pos).guard x) } : Strand)) hs
      · have hp' : p ≠ s.cur.pos := hp
        show (t.setStrand s.cur.core s.cur.pos _).strand s.cur.core p =
          (s.setStrand s.cur.core s.cur.pos _).strand s.cur.core p
        rw [keep _ _ _ _ hp', keep _ _ _ _ hp']; exact h.others.strands p hp
      · show (t.setStrand s.cur.core s.cur.pos _).porter s.cur.core = (s.setStrand s.cur.core s.cur.pos _).porter s.cur.core
        rw [porter_setStrand, porter_setStrand]; exact h.others.porter hp
      · exact absurd hp hp6
      · show mapGet _ ((t.setStrand s.cur.core s.cur.pos _).porter s.cur.core).keepers n =
          mapGet _ ((s.setStrand s.cur.core s.cur.pos _).porter s.cur.core).keepers n
        rw [porter_setStrand, porter_setStrand]
        exact h.others.sets n fun hh => hp6 hh.1
      · show ((t.setStrand s.cur.core s.cur.pos _).porter s.cur.core).landlord =
          ((s.setStrand s.cur.core s.cur.pos _).porter s.cur.core).landlord
        rw [porter_setStrand, porter_setStrand]
        exact h.others.landlord fun hh => hp6 hh.1
    · exact h

theorem chans_guardTouch (s : State) (c p a n d : Nat) : ((s.guardTouch c p a n).core d).chans = (s.core d).chans := by
  have e := congrArg Core.chans (core_guardTouch s c p a n d)
  exact e

theorem chans_lsStore (s : State) (c a d : Nat) (l : List PByte) :
    ((s.lsStore c a l).core d).chans = (s.core d).chans := by
  rw [State.lsStore, core_setCore_eq]; split
  · next h => subst h; rfl
  · rfl

theorem cur_guardTouch (s : State) (c p a n : Nat) : (s.guardTouch c p a n).cur = s.cur := by
  rcases guardTouch_eq s c p a n with h | ⟨_, x, h⟩ <;> rw [h]
  rfl

/-- An instruction that retires from a state which differs from `b` in registers of its own party and in the channel
words that its sources take. -/
theorem settled_from {b t : State} {u : Use} (l : List Eff) (h : OwnOnly b t) (hr : t.regs = b.regs)
    (hc : ∀ d q, mapGet [] (t.core d).chans q = mapGet [] ((b.takeSrcs u).core d).chans q)
    (hl : l.all (fun e => !isLs e) = true) : Settled b (t.retire l) u l := by
  have c1 : t.cur = b.cur := h.cur
  have r1 : t.regsOf b.cur.core b.cur.pos = b.regsOf b.cur.core b.cur.pos := by
    have hr' : t.regsOf t.cur.core t.cur.pos = b.regsOf b.cur.core b.cur.pos := hr
    rw [c1] at hr'; exact hr'
  let s2 := t.setRegsOf b.cur.core b.cur.pos ((noJump l).foldl RegSet.eff (t.regsOf b.cur.core b.cur.pos))
  have h2 : OwnOnly t s2 := by
    have := ownOnly_setRegs t ((noJump l).foldl RegSet.eff (t.regsOf b.cur.core b.cur.pos))
    rw [c1] at this; exact this
  let s3 := outEffs s2 b.cur.core b.cur.pos (noJump l)
  obtain ⟨h3, r3, _, k3⟩ := outEffs_spec s2 b.cur.core b.cur.pos (noJump l) (all_noJump hl)
  have h13 : OwnOnly b s3 := (h.trans h2).trans h3
  let pc := (effJump l).getD ((t.regsOf b.cur.core b.cur.pos).pc + 1)
  have hgo : t.retire l = s3.goto b.cur.core b.cur.pos pc := by
    show t.retireOf t.cur.core t.cur.pos l = _
    rw [c1, retireOf_eq, applyEffs_eq]
  have h4 : OwnOnly s3 (s3.goto b.cur.core b.cur.pos pc) := by
    have := ownOnly_goto s3 pc
    rw [h13.cur] at this; exact this
  rw [hgo]
  have h14 := h13.trans h4
  refine ⟨?_, fun c q => ?_, h14⟩
  · show (s3.goto b.cur.core b.cur.pos pc).regsOf (s3.goto b.cur.core b.cur.pos pc).cur.core _ = _
    rw [h14.cur, regsOf_goto, r3, regsOf_setRegsOf, foldl_eff_noJump, r1]
    show _ = ({ l.foldl RegSet.eff (b.regsOf b.cur.core b.cur.pos) with
      pc := (effJump l).getD ((b.regsOf b.cur.core b.cur.pos).pc + 1) } : RegSet)
    rw [← r1]
  · rw [chans_goto, k3, placedBy_noJump, chans_setRegsOf, hc]
    have ht : s2.tagOf b.cur.core b.cur.pos = b.tagOf b.cur.core b.cur.pos := (h.trans h2).tagOf
    rw [ht, (h.trans h2).ctx]
    show mapGet [] (((b.chTake b.cur.core b.curVd u.srcs)).core c).chans q ++ _ = _
    rw [chans_chTake]
    rfl

/-- The same for no effects at all, in the form that stores leave. -/
theorem settled_goto {b t : State} {u : Use} (h : OwnOnly b t) (hr : t.regs = b.regs)
    (hc : ∀ d q, mapGet [] (t.core d).chans q = mapGet [] ((b.takeSrcs u).core d).chans q) :
    Settled b (t.goto b.cur.core b.cur.pos (b.pc + 1)) u [] := by
  have c1 : t.cur = b.cur := h.cur
  have r1 : t.regsOf b.cur.core b.cur.pos = b.regsOf b.cur.core b.cur.pos := by
    have hr' : t.regsOf t.cur.core t.cur.pos = b.regsOf b.cur.core b.cur.pos := hr
    rw [c1] at hr'; exact hr'
  have h4 : OwnOnly t (t.goto b.cur.core b.cur.pos (b.pc + 1)) := by
    have := ownOnly_goto t (b.pc + 1)
    rw [c1] at this; exact this
  have h14 := h.trans h4
  refine ⟨?_, fun c q => ?_, h14⟩
  · show (t.goto b.cur.core b.cur.pos (b.pc + 1)).regsOf (t.goto b.cur.core b.cur.pos (b.pc + 1)).cur.core _ = _
    rw [h14.cur, regsOf_goto, r1]; rfl
  · rw [chans_goto, hc]
    show mapGet [] (((b.chTake b.cur.core b.curVd u.srcs)).core c).chans q = _
    rw [chans_chTake]
    simp [chanAfter]

theorem curVd_congr {s b : State} (h1 : b.cur = s.cur) (h2 : b.clusters = s.clusters)
    (h3 : (b.porter s.cur.core).cur = (s.porter s.cur.core).cur)
    (h4 : (b.strand s.cur.core s.cur.pos).tag = (s.strand s.cur.core s.cur.pos).tag) : b.curVd = s.curVd := by
  simp only [State.curVd, State.level, State.curCtx, State.tag, State.isPorter, State.curCluster, State.ctx,
    State.cluster, h1, h2, h3, h4]
  rfl

theorem curVd_guardTouch (s : State) (a n : Nat) : (s.guardTouch s.cur.core s.cur.pos a n).curVd = s.curVd := by
  rcases guardTouch_eq s s.cur.core s.cur.pos a n with h | ⟨_, x, h⟩ <;> rw [h]
  exact curVd_congr rfl rfl (by rw [porter_setStrand]) (by rw [strand_setStrand])

theorem curVd_lsStore (s : State) (a : Nat) (l : List PByte) : (s.lsStore s.cur.core a l).curVd = s.curVd := by
  refine curVd_congr rfl rfl ?_ ?_
  · rw [State.lsStore, State.porter, core_setCore]; rfl
  · rw [State.lsStore, State.strand, core_setCore]; rfl

theorem OwnOnly.curVd {s t : State} (h : OwnOnly s t) : t.curVd = s.curVd := by
  have hcl : t.clusters = s.clusters := by have := h.rest; unfold OnlyCores at this; rw [← this]
  simp only [State.curVd, State.curCtx, State.curCluster, State.ctx, State.cluster, h.level, h.tag, h.cur, hcl]

theorem regsOf_touched (s : State) (l : List (Nat × Nat)) :
    (touched s l).cur = s.cur ∧ (∀ d q, (touched s l).regsOf d q = s.regsOf d q) ∧
    (∀ d, ((touched s l).core d).chans = (s.core d).chans) ∧ (touched s l).curVd = s.curVd ∧
    ∀ t, OwnOnly s t → OwnOnly (touched s l) (l.foldl (fun t x => t.guardTouch s.cur.core s.cur.pos x.1 x.2) t) := by
  induction l generalizing s with
  | nil => exact ⟨rfl, fun _ _ => rfl, fun _ => rfl, rfl, fun _ h => h⟩
  | cons x l ih =>
    have hc := cur_guardTouch s s.cur.core s.cur.pos x.1 x.2
    obtain ⟨h1, h2, h3, hv, h4⟩ := ih (s.guardTouch s.cur.core s.cur.pos x.1 x.2)
    refine ⟨h1.trans hc, fun d q => (h2 d q).trans (regsOf_guardTouch ..), fun d => (h3 d).trans (chans_guardTouch ..),
      hv.trans (curVd_guardTouch ..), fun t h => ?_⟩
    have := h4 _ (h.guardTouch x.1 x.2)
    rw [hc] at this
    exact this

theorem touched_eq (s t : State) (l : List (Nat × Nat)) (h : t.cur = s.cur) :
    touched t l = l.foldl (fun t x => t.guardTouch s.cur.core s.cur.pos x.1 x.2) t := by
  induction l generalizing t with
  | nil => rfl
  | cons x l ih =>
    have hc := cur_guardTouch t s.cur.core s.cur.pos x.1 x.2
    show touched (t.guardTouch t.cur.core t.cur.pos x.1 x.2) l = _
    rw [h, ih _ (hc.trans h)]; rfl

theorem regsOf_stored (s : State) (l : List (Nat × List PByte)) :
    (stored s l).cur = s.cur ∧ (∀ d q, (stored s l).regsOf d q = s.regsOf d q) ∧
    (∀ d, ((stored s l).core d).chans = (s.core d).chans) ∧ (stored s l).curVd = s.curVd ∧
    ∀ t, OwnOnly s t → OwnOnly (stored s l) (l.foldl (fun t x =>
      (t.guardTouch s.cur.core s.cur.pos x.1 x.2.length).lsStore s.cur.core x.1 x.2) t) := by
  induction l generalizing s with
  | nil => exact ⟨rfl, fun _ _ => rfl, fun _ => rfl, rfl, fun _ h => h⟩
  | cons x l ih =>
    have hc := cur_guardTouch s s.cur.core s.cur.pos x.1 x.2.length
    obtain ⟨h1, h2, h3, hv, h4⟩ := ih ((s.guardTouch s.cur.core s.cur.pos x.1 x.2.length).lsStore s.cur.core x.1 x.2)
    refine ⟨h1.trans hc, fun d q => ((h2 d q).trans (regsOf_lsStore ..)).trans (regsOf_guardTouch ..),
      fun d => ((h3 d).trans (chans_lsStore ..)).trans (chans_guardTouch ..), hv.trans ?_, fun t h => ?_⟩
    · have := curVd_lsStore (s.guardTouch s.cur.core s.cur.pos x.1 x.2.length) x.1 x.2
      rw [hc] at this
      exact this.trans (curVd_guardTouch ..)
    have h5 := (h.guardTouch x.1 x.2.length).lsStore x.1 x.2
    rw [hc] at h5
    have h6 := h4 _ h5
    have hc' : ((s.guardTouch s.cur.core s.cur.pos x.1 x.2.length).lsStore s.cur.core x.1 x.2).cur = s.cur := hc
    rw [hc'] at h6
    exact h6

/-- A touch and a store leave every strand in its state of R40. -/
theorem st_guardTouch (s : State) (c p a n d q : Nat) : ((s.guardTouch c p a n).strand d q).st = (s.strand d q).st := by
  unfold State.guardTouch
  split
  · rfl
  · split
    · rw [strand_setStrand_eq]; split
      · next h => rw [h.1, h.2]
      · rfl
    · rfl

theorem st_lsStore (s : State) (c a d q : Nat) (l : List PByte) : ((s.lsStore c a l).strand d q).st = (s.strand d q).st := by
  by_cases hd : d = c
  · subst hd; simp [State.lsStore, State.strand, lsWrite]
  · simp [State.lsStore, State.strand, core_setCore_other _ _ _ _ hd]

theorem st_touched (s : State) (l : List (Nat × Nat)) (d q : Nat) : ((touched s l).strand d q).st = (s.strand d q).st := by
  induction l generalizing s with
  | nil => rfl
  | cons x l ih => exact (ih _).trans (st_guardTouch ..)

theorem st_stored (s : State) (l : List (Nat × List PByte)) (d q : Nat) :
    ((stored s l).strand d q).st = (s.strand d q).st := by
  induction l generalizing s with
  | nil => rfl
  | cons x l ih => exact ((ih _).trans (st_lsStore ..)).trans (st_guardTouch ..)

/-- A local-store form that writes registers: it has touched what it reads. -/
theorem ls_load {s : State} {g : Guard} {f : Form} (h : Clear s g f) {i : Instr}
    {fx : Core → View → Except TrapInfo LsDo} (he : exec i s = .next (s.lsIssue g f fx)) {r : LsDo}
    (hx : fx (s.core s.cur.core) (s.view f.use) = .ok r) (hl : r.effs.all (fun e => !isLs e) = true) :
    RetiresFrom i s (touched s r.reads) f.use r.effs := by
  refine ⟨_, he, ?_⟩
  rw [State.lsIssue, issue_ok h hx]
  have h1 : OwnOnly s (s.takeSrcs f.use) := ownOnly_chTake ..
  obtain ⟨a1, a2, a3, av, a4⟩ := regsOf_touched s r.reads
  have hc1 : (s.takeSrcs f.use).cur = s.cur := h1.cur
  have e1 := touched_eq s (s.takeSrcs f.use) r.reads hc1
  obtain ⟨b1, b2, b3, _⟩ := regsOf_touched (s.takeSrcs f.use) r.reads
  suffices k : Settled (touched s r.reads) ((touched (s.takeSrcs f.use) r.reads).retire r.effs) f.use r.effs by
    show Settled (touched s r.reads) (s.holdChans ((touched (s.takeSrcs f.use) r.reads).retire r.effs) f.use) f.use r.effs
    rw [holdChans_settled k a1 (st_touched ..)]; exact k
  refine settled_from r.effs ?_ ?_ ?_ hl
  · rw [e1]; exact a4 _ h1
  · simp only [State.regs, a1, b1, a2, b2, hc1]
    exact regsOf_chTake ..
  · intro d q
    rw [b3]
    simp only [State.takeSrcs, chans_chTake, a1, a3, av]

/-- A local-store form that stores. -/
theorem ls_store {s : State} {g : Guard} {f : Form} (h : Clear s g f) {i : Instr}
    {fx : Core → View → Except TrapInfo LsDo} (he : exec i s = .next (s.lsIssue g f fx)) {l : List (Nat × List PByte)}
    (hx : fx (s.core s.cur.core) (s.view f.use) = .ok ⟨[], l.map fun x => .ls x.1 x.2⟩) :
    RetiresFrom i s (stored s l) f.use [] := by
  refine ⟨_, he, ?_⟩
  rw [State.lsIssue, issue_ok h hx]
  have h1 : OwnOnly s (s.takeSrcs f.use) := ownOnly_chTake ..
  have hc1 : (s.takeSrcs f.use).cur = s.cur := h1.cur
  have hn (l : List (Nat × List PByte)) : noJump (l.map fun x => Eff.ls x.1 x.2) = l.map fun x => .ls x.1 x.2 := by
    induction l with
    | nil => rfl
    | cons x l ih => exact congrArg (Eff.ls x.1 x.2 :: ·) ih
  have hj (l : List (Nat × List PByte)) : effJump (l.map fun x => Eff.ls x.1 x.2) = none := by
    induction l with
    | nil => rfl
    | cons x l ih => exact ih
  have hr (l : List (Nat × List PByte)) (r : RegSet) : (l.map fun x => Eff.ls x.1 x.2).foldl RegSet.eff r = r := by
    induction l generalizing r with
    | nil => rfl
    | cons x l ih => exact ih r
  have ho (l : List (Nat × List PByte)) (t : State) : outEffs t s.cur.core s.cur.pos (l.map fun x => .ls x.1 x.2) =
      l.foldl (fun t x => (t.guardTouch s.cur.core s.cur.pos x.1 x.2.length).lsStore s.cur.core x.1 x.2) t := by
    simp only [outEffs, List.foldl_map]
  let t1 := s.takeSrcs f.use
  let t2 := t1.setRegsOf s.cur.core s.cur.pos (t1.regsOf s.cur.core s.cur.pos)
  have h2 : OwnOnly t1 t2 := by
    have := ownOnly_setRegs t1 (t1.regsOf s.cur.core s.cur.pos)
    rw [show t1.cur = s.cur from hc1] at this; exact this
  obtain ⟨a1, a2, a3, av, a4⟩ := regsOf_stored s l
  have h3 := a4 t2 (h1.trans h2)
  have r1 : t1.regsOf s.cur.core s.cur.pos = s.regs := regsOf_chTake ..
  have hgo : t1.retire (l.map fun x => .ls x.1 x.2) =
      (l.foldl (fun t x => (t.guardTouch s.cur.core s.cur.pos x.1 x.2.length).lsStore s.cur.core x.1 x.2) t2).goto
        s.cur.core s.cur.pos (s.pc + 1) := by
    show t1.retireOf t1.cur.core t1.cur.pos _ = _
    rw [show t1.cur = s.cur from hc1, retireOf_eq, applyEffs_eq, hn, hj, hr, ho, r1]
    show State.goto _ _ _ (s.pc + 1) = _
    rw [← r1]
  suffices k : Settled (stored s l) (t1.retire (l.map fun x => .ls x.1 x.2)) f.use [] by
    dsimp only [List.foldl_nil]
    rw [show s.takeSrcs f.use = t1 from rfl, holdChans_settled k a1 (st_stored ..)]
    exact k
  rw [hgo]
  have hcs : ∀ d q, (l.foldl (fun t x => (t.guardTouch s.cur.core s.cur.pos x.1 x.2.length).lsStore s.cur.core x.1 x.2)
        t2).regsOf d q = t2.regsOf d q ∧
      ((l.foldl (fun t x => (t.guardTouch s.cur.core s.cur.pos x.1 x.2.length).lsStore s.cur.core x.1 x.2)
        t2).core d).chans = (t2.core d).chans := by
    have (l : List (Nat × List PByte)) (t : State) : ∀ d q,
        (l.foldl (fun t x => (t.guardTouch s.cur.core s.cur.pos x.1 x.2.length).lsStore s.cur.core x.1 x.2)
          t).regsOf d q = t.regsOf d q ∧
        ((l.foldl (fun t x => (t.guardTouch s.cur.core s.cur.pos x.1 x.2.length).lsStore s.cur.core x.1 x.2)
          t).core d).chans = (t.core d).chans := by
      induction l generalizing t with
      | nil => exact fun _ _ => ⟨rfl, rfl⟩
      | cons x l ih =>
        intro d q
        obtain ⟨i1, i2⟩ := ih ((t.guardTouch s.cur.core s.cur.pos x.1 x.2.length).lsStore s.cur.core x.1 x.2) d q
        exact ⟨(i1.trans (regsOf_lsStore ..)).trans (regsOf_guardTouch ..),
          (i2.trans (chans_lsStore ..)).trans (chans_guardTouch ..)⟩
    exact this l t2
  have hpc : s.pc = (stored s l).pc := by simp only [State.pc, State.regs, a1, a2]
  rw [hpc, ← a1]
  refine settled_goto ?_ ?_ ?_
  · rw [a1]; exact h3
  · rw [a1]
    have := h3.cur
    simp only [State.regs, this, a1, a2, (hcs _ _).1]
    show t2.regsOf s.cur.core s.cur.pos = _
    simp only [t2, regsOf_setRegsOf]
    exact r1
  · intro d q
    rw [a1, (hcs d q).2]
    simp only [State.takeSrcs, chans_chTake, a1, a3, av, t2, chans_setRegsOf, t1]

theorem ls_traps {s : State} {g : Guard} {f : Form} (h : Clear s g f) {i : Instr}
    {fx : Core → View → Except TrapInfo LsDo} (he : exec i s = .next (s.lsIssue g f fx)) {t : TrapInfo}
    (hx : fx (s.core s.cur.core) (s.view f.use) = .error t) : Traps i s t := by
  apply traps_takeTrap
  rw [he, State.lsIssue, issue_error h hx]

end Sys2Proof.Safety
end

