-- ==== Sys2Proof/Laws/PerInstr.lean ====
section
/-! SUPPORT. Decoding of an encoded instruction, one lemma for each constructor (R183 to R192). -/

set_option linter.unusedSimpArgs false

namespace Sys2Proof.Laws.RoundTrip

/-- An instruction has a word, and a well-formed one is what its word decodes to. -/
def Statement (i : Instr) : Prop := (isEvent i = false → (encode i).isSome = true) ∧
  (wellFormed i = true → ∀ w, encode i = some w → decode w = .ok i)

theorem of_fields (i : Instr) (f : Fields) (he : encodeFields i = some f) (hd : decodeFields f = .ok i) : Statement i := by
  refine ⟨fun _ => by simp [encode, he], fun hw w h => ?_⟩
  simp only [encode, he, Option.map_some, Option.some.injEq] at h
  subst h
  simp [decode, ofWord_toWord, hd, hw]

theorem of_none (i : Instr) (he : encodeFields i = none) (hv : isEvent i = true) : Statement i :=
  ⟨fun h => by simp [hv] at h, fun _ w h => by simp [encode, he] at h⟩


theorem of_fields' (i : Instr) (f : Fields) (he : encodeFields i = some f)
    (hd : wellFormed i = true → decodeFields f = .ok i) : Statement i := by
  refine ⟨fun _ => by simp [encode, he], fun hw w h => ?_⟩
  simp only [encode, he, Option.map_some, Option.some.injEq] at h
  subst h
  simp [decode, ofWord_toWord, hd hw, hw]

theorem add (g d a b) : Statement (.add g d a b) := of_fields _ _ rfl <| by
  conv_lhs => whnf
  simp [zero, no, is]
theorem sub (g d a b) : Statement (.sub g d a b) := of_fields _ _ rfl <| by
  conv_lhs => whnf
  simp [zero, no, is]
theorem mul (g d a b) : Statement (.mul g d a b) := of_fields _ _ rfl <| by
  conv_lhs => whnf
  simp [zero, no, is]
theorem mulh (g d a b) : Statement (.mulh g d a b) := of_fields _ _ rfl <| by
  conv_lhs => whnf
  simp [zero, no, is]
theorem mulhu (g d a b) : Statement (.mulhu g d a b) := of_fields _ _ rfl <| by
  conv_lhs => whnf
  simp [zero, no, is]
theorem div (g d a b) : Statement (.div g d a b) := of_fields _ _ rfl <| by
  conv_lhs => whnf
  simp [zero, no, is]
theorem divu (g d a b) : Statement (.divu g d a b) := of_fields _ _ rfl <| by
  conv_lhs => whnf
  simp [zero, no, is]
theorem rem (g d a b) : Statement (.rem g d a b) := of_fields _ _ rfl <| by
  conv_lhs => whnf
  simp [zero, no, is]
theorem remu (g d a b) : Statement (.remu g d a b) := of_fields _ _ rfl <| by
  conv_lhs => whnf
  simp [zero, no, is]
theorem and (g d a b) : Statement (.and g d a b) := of_fields _ _ rfl <| by
  conv_lhs => whnf
  simp [zero, no, is]
theorem or (g d a b) : Statement (.or g d a b) := of_fields _ _ rfl <| by
  conv_lhs => whnf
  simp [zero, no, is]
theorem xor (g d a b) : Statement (.xor g d a b) := of_fields _ _ rfl <| by
  conv_lhs => whnf
  simp [zero, no, is]
theorem andn (g d a b) : Statement (.andn g d a b) := of_fields _ _ rfl <| by
  conv_lhs => whnf
  simp [zero, no, is]
theorem orn (g d a b) : Statement (.orn g d a b) := of_fields _ _ rfl <| by
  conv_lhs => whnf
  simp [zero, no, is]
theorem shl (g d a b) : Statement (.shl g d a b) := of_fields _ _ rfl <| by
  conv_lhs => whnf
  simp [zero, no, is]
theorem shr (g d a b) : Statement (.shr g d a b) := of_fields _ _ rfl <| by
  conv_lhs => whnf
  simp [zero, no, is]
theorem sra (g d a b) : Statement (.sra g d a b) := of_fields _ _ rfl <| by
  conv_lhs => whnf
  simp [zero, no, is]
theorem rotl (g d a b) : Statement (.rotl g d a b) := of_fields _ _ rfl <| by
  conv_lhs => whnf
  simp [zero, no, is]
theorem rotr (g d a b) : Statement (.rotr g d a b) := of_fields _ _ rfl <| by
  conv_lhs => whnf
  simp [zero, no, is]
theorem min (g d a b) : Statement (.min g d a b) := of_fields _ _ rfl <| by
  conv_lhs => whnf
  simp [zero, no, is]
theorem max (g d a b) : Statement (.max g d a b) := of_fields _ _ rfl <| by
  conv_lhs => whnf
  simp [zero, no, is]
theorem minu (g d a b) : Statement (.minu g d a b) := of_fields _ _ rfl <| by
  conv_lhs => whnf
  simp [zero, no, is]
theorem maxu (g d a b) : Statement (.maxu g d a b) := of_fields _ _ rfl <| by
  conv_lhs => whnf
  simp [zero, no, is]
theorem clz (g w d a) : Statement (.clz g w d a) := of_fields _ _ rfl <| by
  conv_lhs => whnf
  simp [zero, no, is]
theorem ctz (g w d a) : Statement (.ctz g w d a) := of_fields _ _ rfl <| by
  conv_lhs => whnf
  simp [zero, no, is]
theorem popc (g w d a) : Statement (.popc g w d a) := of_fields _ _ rfl <| by
  conv_lhs => whnf
  simp [zero, no, is]
theorem brev (g w d a) : Statement (.brev g w d a) := of_fields _ _ rfl <| by
  conv_lhs => whnf
  simp [zero, no, is]
theorem bswap (g w d a) : Statement (.bswap g w d a) := of_fields _ _ rfl <| by
  conv_lhs => whnf
  simp [zero, no, is]
theorem sext (g w d a) : Statement (.sext g w d a) := of_fields _ _ rfl <| by
  conv_lhs => whnf
  simp [zero, no, is]
theorem bfx (g d a b) : Statement (.bfx g d a b) := of_fields _ _ rfl <| by
  conv_lhs => whnf
  simp [zero, no, is]
theorem bfi (g d a b) : Statement (.bfi g d a b) := of_fields _ _ rfl <| by
  conv_lhs => whnf
  simp [zero, no, is]
theorem sel (g d a b) : Statement (.sel g d a b) := of_fields _ _ rfl <| by
  conv_lhs => whnf
  simp [zero, no, is]
theorem li (g d b) : Statement (.li g d b) := of_fields _ _ rfl <| by
  conv_lhs => whnf
  simp [zero, no, is]
theorem cmp (g c d a b) : Statement (.cmp g c d a b) := of_fields _ _ rfl <| by
  conv_lhs => whnf
  simp [zero, no, is]
theorem test (g d a b) : Statement (.test g d a b) := of_fields _ _ rfl <| by
  conv_lhs => whnf
  simp [zero, no, is]
theorem pand (g d a b) : Statement (.pand g d a b) := of_fields _ _ rfl <| by
  conv_lhs => whnf
  simp [zero, no, is]
theorem por (g d a b) : Statement (.por g d a b) := of_fields _ _ rfl <| by
  conv_lhs => whnf
  simp [zero, no, is]
theorem pxor (g d a b) : Statement (.pxor g d a b) := of_fields _ _ rfl <| by
  conv_lhs => whnf
  simp [zero, no, is]
theorem pandn (g d a b) : Statement (.pandn g d a b) := of_fields _ _ rfl <| by
  conv_lhs => whnf
  simp [zero, no, is]
theorem pset (g d b) : Statement (.pset g d b) := of_fields _ _ rfl <| by
  conv_lhs => whnf
  simp [zero, no, is]
theorem pget (g d a) : Statement (.pget g d a) := of_fields _ _ rfl <| by
  conv_lhs => whnf
  simp [zero, no, is]
theorem br (g off) : Statement (.br g off) := of_fields _ _ rfl <| by
  conv_lhs => whnf
  simp [zero, no, is]
theorem bri (g a) : Statement (.bri g a) := of_fields _ _ rfl <| by
  conv_lhs => whnf
  simp [zero, no, is]
theorem call (g off) : Statement (.call g off) := of_fields _ _ rfl <| by
  conv_lhs => whnf
  simp [zero, no, is]
theorem calli (g a) : Statement (.calli g a) := of_fields _ _ rfl <| by
  conv_lhs => whnf
  simp [zero, no, is]
theorem ret (g) : Statement (.ret g) := of_fields _ _ rfl <| by
  conv_lhs => whnf
  simp [zero, no, is]
theorem loop (g d off) : Statement (.loop g d off) := of_fields _ _ rfl <| by
  conv_lhs => whnf
  simp [zero, no, is]
theorem halt (g) : Statement (.halt g) := of_fields _ _ rfl <| by
  conv_lhs => whnf
  simp [zero, no, is]
theorem nop (g) : Statement (.nop g) := of_fields _ _ rfl <| by
  conv_lhs => whnf
  simp [zero, no, is]
theorem ifence (g) : Statement (.ifence g) := of_fields _ _ rfl <| by
  conv_lhs => whnf
  simp [zero, no, is]
theorem rdclk (g d) : Statement (.rdclk g d) := of_fields _ _ rfl <| by
  conv_lhs => whnf
  simp [zero, no, is]
theorem rdid (g d) : Statement (.rdid g d) := of_fields _ _ rfl <| by
  conv_lhs => whnf
  simp [zero, no, is]
theorem fadd (g t rm sat d a b) : Statement (.fadd g t rm sat d a b) := of_fields _ _ rfl <| by
  conv_lhs => whnf
  simp [zero, no, is]
theorem fsub (g t rm sat d a b) : Statement (.fsub g t rm sat d a b) := of_fields _ _ rfl <| by
  conv_lhs => whnf
  simp [zero, no, is]
theorem fmul (g t rm sat d a b) : Statement (.fmul g t rm sat d a b) := of_fields _ _ rfl <| by
  conv_lhs => whnf
  simp [zero, no, is]
theorem fdiv (g t rm sat d a b) : Statement (.fdiv g t rm sat d a b) := of_fields _ _ rfl <| by
  conv_lhs => whnf
  simp [zero, no, is]
theorem fsqrt (g t rm d a) : Statement (.fsqrt g t rm d a) := of_fields _ _ rfl <| by
  conv_lhs => whnf
  simp [zero, no, is]
theorem fma (g t rm sat d a b) : Statement (.fma g t rm sat d a b) := of_fields _ _ rfl <| by
  conv_lhs => whnf
  simp [zero, no, is]
theorem fmin (g t d a b) : Statement (.fmin g t d a b) := of_fields _ _ rfl <| by
  conv_lhs => whnf
  simp [zero, no, is]
theorem fmax (g t d a b) : Statement (.fmax g t d a b) := of_fields _ _ rfl <| by
  conv_lhs => whnf
  simp [zero, no, is]
theorem fcmp (g t c d a b) : Statement (.fcmp g t c d a b) := of_fields _ _ rfl <| by
  conv_lhs => whnf
  simp [zero, no, is]
theorem fcvt (g t st sgn rm sat d a) : Statement (.fcvt g t st sgn rm sat d a) := of_fields _ _ rfl <| by
  conv_lhs => whnf
  simp [zero, no, is]
theorem fclass (g t d a) : Statement (.fclass g t d a) := of_fields _ _ rfl <| by
  conv_lhs => whnf
  simp [zero, no, is]
theorem fsgn (g t d a b) : Statement (.fsgn g t d a b) := of_fields _ _ rfl <| by
  conv_lhs => whnf
  simp [zero, no, is]
theorem segld (g d b) : Statement (.segld g d b) := of_fields _ _ rfl <| by
  conv_lhs => whnf
  simp [zero, no, is]
theorem segnarrow (g d a b) : Statement (.segnarrow g d a b) := of_fields _ _ rfl <| by
  conv_lhs => whnf
  simp [zero, no, is]
theorem segq (g d a b) : Statement (.segq g d a b) := of_fields _ _ rfl <| by
  conv_lhs => whnf
  simp [zero, no, is]
theorem vadd (g t d a b) : Statement (.vadd g t d a b) := of_fields _ _ rfl <| by
  conv_lhs => whnf
  simp [zero, no, is]
theorem vsub (g t d a b) : Statement (.vsub g t d a b) := of_fields _ _ rfl <| by
  conv_lhs => whnf
  simp [zero, no, is]
theorem vmul (g t d a b) : Statement (.vmul g t d a b) := of_fields _ _ rfl <| by
  conv_lhs => whnf
  simp [zero, no, is]
theorem vmulh (g t d a b) : Statement (.vmulh g t d a b) := of_fields _ _ rfl <| by
  conv_lhs => whnf
  simp [zero, no, is]
theorem vand (g t d a b) : Statement (.vand g t d a b) := of_fields _ _ rfl <| by
  conv_lhs => whnf
  simp [zero, no, is]
theorem vor (g t d a b) : Statement (.vor g t d a b) := of_fields _ _ rfl <| by
  conv_lhs => whnf
  simp [zero, no, is]
theorem vxor (g t d a b) : Statement (.vxor g t d a b) := of_fields _ _ rfl <| by
  conv_lhs => whnf
  simp [zero, no, is]
theorem vshl (g t d a b) : Statement (.vshl g t d a b) := of_fields _ _ rfl <| by
  conv_lhs => whnf
  simp [zero, no, is]
theorem vshr (g t d a b) : Statement (.vshr g t d a b) := of_fields _ _ rfl <| by
  conv_lhs => whnf
  simp [zero, no, is]
theorem vsra (g t d a b) : Statement (.vsra g t d a b) := of_fields _ _ rfl <| by
  conv_lhs => whnf
  simp [zero, no, is]
theorem vmin (g t d a b) : Statement (.vmin g t d a b) := of_fields _ _ rfl <| by
  conv_lhs => whnf
  simp [zero, no, is]
theorem vmax (g t d a b) : Statement (.vmax g t d a b) := of_fields _ _ rfl <| by
  conv_lhs => whnf
  simp [zero, no, is]
theorem vminu (g t d a b) : Statement (.vminu g t d a b) := of_fields _ _ rfl <| by
  conv_lhs => whnf
  simp [zero, no, is]
theorem vmaxu (g t d a b) : Statement (.vmaxu g t d a b) := of_fields _ _ rfl <| by
  conv_lhs => whnf
  simp [zero, no, is]
theorem vabsd (g t d a b) : Statement (.vabsd g t d a b) := of_fields _ _ rfl <| by
  conv_lhs => whnf
  simp [zero, no, is]
theorem vsel (g t d a b) : Statement (.vsel g t d a b) := of_fields _ _ rfl <| by
  conv_lhs => whnf
  simp [zero, no, is]
theorem vcmp (g t c d a b) : Statement (.vcmp g t c d a b) := of_fields' _ _ rfl fun h => by
  have hb := decVB_reg b _ _ _ (Bool.and_eq_true_iff.mp h).2
  conv_lhs => whnf
  simp [zero, no, hb]
theorem vfadd (g t rm sat d a b) : Statement (.vfadd g t rm sat d a b) := of_fields' _ _ rfl fun h => by
  have hb := decVB_reg b _ _ _ (Bool.and_eq_true_iff.mp h).2
  conv_lhs => whnf
  simp [zero, no, hb]
theorem vfsub (g t rm sat d a b) : Statement (.vfsub g t rm sat d a b) := of_fields' _ _ rfl fun h => by
  have hb := decVB_reg b _ _ _ (Bool.and_eq_true_iff.mp h).2
  conv_lhs => whnf
  simp [zero, no, hb]
theorem vfmul (g t rm sat d a b) : Statement (.vfmul g t rm sat d a b) := of_fields' _ _ rfl fun h => by
  have hb := decVB_reg b _ _ _ (Bool.and_eq_true_iff.mp h).2
  conv_lhs => whnf
  simp [zero, no, hb]
theorem vfma (g t rm sat d a b) : Statement (.vfma g t rm sat d a b) := of_fields' _ _ rfl fun h => by
  have hb := decVB_reg b _ _ _ (Bool.and_eq_true_iff.mp h).2
  conv_lhs => whnf
  simp [zero, no, hb]
theorem vfms (g t rm sat d a b) : Statement (.vfms g t rm sat d a b) := of_fields' _ _ rfl fun h => by
  have hb := decVB_reg b _ _ _ (Bool.and_eq_true_iff.mp h).2
  conv_lhs => whnf
  simp [zero, no, hb]
theorem vfnma (g t rm sat d a b) : Statement (.vfnma g t rm sat d a b) := of_fields' _ _ rfl fun h => by
  have hb := decVB_reg b _ _ _ (Bool.and_eq_true_iff.mp h).2
  conv_lhs => whnf
  simp [zero, no, hb]
theorem vfmin (g t d a b) : Statement (.vfmin g t d a b) := of_fields' _ _ rfl fun h => by
  have hb := decVB_reg b _ _ _ (Bool.and_eq_true_iff.mp h).2
  conv_lhs => whnf
  simp [zero, no, hb]
theorem vfmax (g t d a b) : Statement (.vfmax g t d a b) := of_fields' _ _ rfl fun h => by
  have hb := decVB_reg b _ _ _ (Bool.and_eq_true_iff.mp h).2
  conv_lhs => whnf
  simp [zero, no, hb]
theorem vfdiv (g t rm sat d a b) : Statement (.vfdiv g t rm sat d a b) := of_fields' _ _ rfl fun h => by
  have hb := decVB_reg b _ _ _ (Bool.and_eq_true_iff.mp h).2
  conv_lhs => whnf
  simp [zero, no, hb]
theorem vfsqrt (g t rm d a b) : Statement (.vfsqrt g t rm d a b) := of_fields _ _ rfl <| by
  conv_lhs => whnf
  simp [zero, no, is]
theorem vfrcp (g t d a b) : Statement (.vfrcp g t d a b) := of_fields _ _ rfl <| by
  conv_lhs => whnf
  simp [zero, no, is]
theorem vfrsq (g t d a b) : Statement (.vfrsq g t d a b) := of_fields _ _ rfl <| by
  conv_lhs => whnf
  simp [zero, no, is]
theorem vfexp2 (g t sat d a b) : Statement (.vfexp2 g t sat d a b) := of_fields _ _ rfl <| by
  conv_lhs => whnf
  simp [zero, no, is]
theorem vfcmp (g t c d a b) : Statement (.vfcmp g t c d a b) := of_fields' _ _ rfl fun h => by
  have hb := decVB_reg b _ _ _ (Bool.and_eq_true_iff.mp h).2
  conv_lhs => whnf
  simp [zero, no, hb]
theorem vfcvt (g t st sgn rm sat d a b) : Statement (.vfcvt g t st sgn rm sat d a b) := of_fields _ _ rfl <| by
  conv_lhs => whnf
  simp [zero, no, is]
theorem vbcast (g t d b) : Statement (.vbcast g t d b) := of_fields _ _ rfl <| by
  conv_lhs => whnf
  simp [zero, no, is]
theorem vins (g t d a b) : Statement (.vins g t d a b) := of_fields _ _ rfl <| by
  conv_lhs => whnf
  simp [zero, no, is]
theorem vext (g t d a b) : Statement (.vext g t d a b) := of_fields _ _ rfl <| by
  conv_lhs => whnf
  simp [zero, no, is]
theorem vshuf (g t d a b) : Statement (.vshuf g t d a b) := of_fields _ _ rfl <| by
  conv_lhs => whnf
  simp [zero, no, is]
theorem vslide (g t d a b) : Statement (.vslide g t d a b) := of_fields _ _ rfl <| by
  conv_lhs => whnf
  simp [zero, no, is]
theorem vzip (g t d a b) : Statement (.vzip g t d a b) := of_fields _ _ rfl <| by
  conv_lhs => whnf
  simp [zero, no, is]
theorem vunzip (g t d a b) : Statement (.vunzip g t d a b) := of_fields _ _ rfl <| by
  conv_lhs => whnf
  simp [zero, no, is]
theorem vredadd (g t d a b) : Statement (.vredadd g t d a b) := of_fields _ _ rfl <| by
  conv_lhs => whnf
  simp [zero, no, is]
theorem vfredadd (g t d a b) : Statement (.vfredadd g t d a b) := of_fields _ _ rfl <| by
  conv_lhs => whnf
  simp [zero, no, is]
theorem vredmax (g t d a b) : Statement (.vredmax g t d a b) := of_fields _ _ rfl <| by
  conv_lhs => whnf
  simp [zero, no, is]
theorem vredmin (g t d a b) : Statement (.vredmin g t d a b) := of_fields _ _ rfl <| by
  conv_lhs => whnf
  simp [zero, no, is]
theorem vcompress (g t d a b) : Statement (.vcompress g t d a b) := of_fields _ _ rfl <| by
  conv_lhs => whnf
  simp [zero, no, is]
theorem vexpand (g t d a b) : Statement (.vexpand g t d a b) := of_fields _ _ rfl <| by
  conv_lhs => whnf
  simp [zero, no, is]
theorem bdot (g sat d a b) : Statement (.bdot g sat d a b) := of_fields _ _ rfl <| by
  conv_lhs => whnf
  simp [zero, no, is]
theorem bunpk (g t rm sat d a b) : Statement (.bunpk g t rm sat d a b) := of_fields _ _ rfl <| by
  conv_lhs => whnf
  simp [zero, no, is]
theorem bpack (g t fmta rm sat d a b) : Statement (.bpack g t fmta rm sat d a b) := of_fields _ _ rfl <| by
  conv_lhs => whnf
  simp [zero, no, is]
theorem bscale (g rm d a b) : Statement (.bscale g rm d a b) := of_fields _ _ rfl <| by
  conv_lhs => whnf
  simp [zero, no, is]
theorem cbload (g a) : Statement (.cbload g a) := of_fields _ _ rfl <| by
  conv_lhs => whnf
  simp [zero, no, is]
theorem cblook (g t d a b) : Statement (.cblook g t d a b) := of_fields _ _ rfl <| by
  conv_lhs => whnf
  simp [zero, no, is]
theorem qdeq (g q4 d a b) : Statement (.qdeq g q4 d a b) := of_fields _ _ rfl <| by
  conv_lhs => whnf
  simp [zero, no, is]
theorem rpt (g strb stra strd seqlen count) : Statement (.rpt g strb stra strd seqlen count) := of_fields _ _ rfl <| by
  conv_lhs => whnf
  simp [zero, no, is]
theorem rwait (g) : Statement (.rwait g) := of_fields _ _ rfl <| by
  conv_lhs => whnf
  simp [zero, no, is]
theorem rstop (g d) : Statement (.rstop g d) := of_fields _ _ rfl <| by
  conv_lhs => whnf
  simp [zero, no, is]
theorem ld (g w d m) : Statement (.ld g w d m) := of_fields _ _ rfl <| by
  conv_lhs => whnf
  simp [zero, no, is]
theorem st (g w d m) : Statement (.st g w d m) := of_fields _ _ rfl <| by
  conv_lhs => whnf
  simp [zero, no, is]
theorem vld (g d m) : Statement (.vld g d m) := of_fields _ _ rfl <| by
  conv_lhs => whnf
  simp [zero, no, is]
theorem vst (g d m) : Statement (.vst g d m) := of_fields _ _ rfl <| by
  conv_lhs => whnf
  simp [zero, no, is]
theorem vgath (g t d m b) : Statement (.vgath g t d m b) := of_fields _ _ rfl <| by
  conv_lhs => whnf
  simp [zero, no, is]
theorem vscat (g t d m b) : Statement (.vscat g t d m b) := of_fields _ _ rfl <| by
  conv_lhs => whnf
  simp [zero, no, is]
theorem lsguard (g d m) : Statement (.lsguard g d m) := of_fields _ _ rfl <| by
  conv_lhs => whnf
  simp [zero, no, is]
theorem gld (g w d m) : Statement (.gld g w d m) := of_fields _ _ rfl <| by
  conv_lhs => whnf
  simp [zero, no, is]
theorem gst (g w d m) : Statement (.gst g w d m) := of_fields _ _ rfl <| by
  conv_lhs => whnf
  simp [zero, no, is]
theorem gvld (g d m) : Statement (.gvld g d m) := of_fields _ _ rfl <| by
  conv_lhs => whnf
  simp [zero, no, is]
theorem gvst (g d m) : Statement (.gvst g d m) := of_fields _ _ rfl <| by
  conv_lhs => whnf
  simp [zero, no, is]
theorem xget (g d m) : Statement (.xget g d m) := of_fields _ _ rfl <| by
  conv_lhs => whnf
  simp [zero, no, is]
theorem xput (g d m) : Statement (.xput g d m) := of_fields _ _ rfl <| by
  conv_lhs => whnf
  simp [zero, no, is]
theorem gpref (g m) : Statement (.gpref g m) := of_fields _ _ rfl <| by
  conv_lhs => whnf
  simp [zero, no, is]
theorem aadd (g sc d m b) : Statement (.aadd g sc d m b) := of_fields _ _ rfl <| by
  conv_lhs => whnf
  simp [zero, no, is]
theorem aand (g sc d m b) : Statement (.aand g sc d m b) := of_fields _ _ rfl <| by
  conv_lhs => whnf
  simp [zero, no, is]
theorem aor (g sc d m b) : Statement (.aor g sc d m b) := of_fields _ _ rfl <| by
  conv_lhs => whnf
  simp [zero, no, is]
theorem axor (g sc d m b) : Statement (.axor g sc d m b) := of_fields _ _ rfl <| by
  conv_lhs => whnf
  simp [zero, no, is]
theorem amin (g sc d m b) : Statement (.amin g sc d m b) := of_fields _ _ rfl <| by
  conv_lhs => whnf
  simp [zero, no, is]
theorem amax (g sc d m b) : Statement (.amax g sc d m b) := of_fields _ _ rfl <| by
  conv_lhs => whnf
  simp [zero, no, is]
theorem aminu (g sc d m b) : Statement (.aminu g sc d m b) := of_fields _ _ rfl <| by
  conv_lhs => whnf
  simp [zero, no, is]
theorem amaxu (g sc d m b) : Statement (.amaxu g sc d m b) := of_fields _ _ rfl <| by
  conv_lhs => whnf
  simp [zero, no, is]
theorem aswap (g sc d m b) : Statement (.aswap g sc d m b) := of_fields _ _ rfl <| by
  conv_lhs => whnf
  simp [zero, no, is]
theorem acas (g sc d m b) : Statement (.acas g sc d m b) := of_fields _ _ rfl <| by
  conv_lhs => whnf
  simp [zero, no, is]
theorem afadd (g sc d m b) : Statement (.afadd g sc d m b) := of_fields _ _ rfl <| by
  conv_lhs => whnf
  simp [zero, no, is]
theorem afmin (g sc d m b) : Statement (.afmin g sc d m b) := of_fields _ _ rfl <| by
  conv_lhs => whnf
  simp [zero, no, is]
theorem afmax (g sc d m b) : Statement (.afmax g sc d m b) := of_fields _ _ rfl <| by
  conv_lhs => whnf
  simp [zero, no, is]
theorem radd (g sc d m) : Statement (.radd g sc d m) := of_fields _ _ rfl <| by
  conv_lhs => whnf
  simp [zero, no, is]
theorem rand (g sc d m) : Statement (.rand g sc d m) := of_fields _ _ rfl <| by
  conv_lhs => whnf
  simp [zero, no, is]
theorem ror (g sc d m) : Statement (.ror g sc d m) := of_fields _ _ rfl <| by
  conv_lhs => whnf
  simp [zero, no, is]
theorem rxor (g sc d m) : Statement (.rxor g sc d m) := of_fields _ _ rfl <| by
  conv_lhs => whnf
  simp [zero, no, is]
theorem rmin (g sc d m) : Statement (.rmin g sc d m) := of_fields _ _ rfl <| by
  conv_lhs => whnf
  simp [zero, no, is]
theorem rmax (g sc d m) : Statement (.rmax g sc d m) := of_fields _ _ rfl <| by
  conv_lhs => whnf
  simp [zero, no, is]
theorem rminu (g sc d m) : Statement (.rminu g sc d m) := of_fields _ _ rfl <| by
  conv_lhs => whnf
  simp [zero, no, is]
theorem rmaxu (g sc d m) : Statement (.rmaxu g sc d m) := of_fields _ _ rfl <| by
  conv_lhs => whnf
  simp [zero, no, is]
theorem rfadd (g sc d m) : Statement (.rfadd g sc d m) := of_fields _ _ rfl <| by
  conv_lhs => whnf
  simp [zero, no, is]
theorem mwait (g d m b) : Statement (.mwait g d m b) := of_fields _ _ rfl <| by
  conv_lhs => whnf
  simp [zero, no, is]
theorem fence (g sc) : Statement (.fence g sc) := of_fields _ _ rfl <| by
  conv_lhs => whnf
  simp [zero, no, is]
theorem acq (g sc) : Statement (.acq g sc) := of_fields _ _ rfl <| by
  conv_lhs => whnf
  simp [zero, no, is]
theorem rel (g sc) : Statement (.rel g sc) := of_fields _ _ rfl <| by
  conv_lhs => whnf
  simp [zero, no, is]
theorem rell (g sc m) : Statement (.rell g sc m) := of_fields _ _ rfl <| by
  conv_lhs => whnf
  simp [zero, no, is]
theorem flushp (g sc) : Statement (.flushp g sc) := of_fields _ _ rfl <| by
  conv_lhs => whnf
  simp [zero, no, is]
theorem cwb (g sc m) : Statement (.cwb g sc m) := of_fields _ _ rfl <| by
  conv_lhs => whnf
  simp [zero, no, is]
theorem cinv (g sc m) : Statement (.cinv g sc m) := of_fields _ _ rfl <| by
  conv_lhs => whnf
  simp [zero, no, is]
theorem cpin (g sc d m) : Statement (.cpin g sc d m) := of_fields _ _ rfl <| by
  conv_lhs => whnf
  simp [zero, no, is]
theorem cunpin (g sc m) : Statement (.cunpin g sc m) := of_fields _ _ rfl <| by
  conv_lhs => whnf
  simp [zero, no, is]
theorem ldisc (g d m) : Statement (.ldisc g d m) := of_fields _ _ rfl <| by
  conv_lhs => whnf
  simp [zero, no, is]
theorem lback (g m) : Statement (.lback g m) := of_fields _ _ rfl <| by
  conv_lhs => whnf
  simp [zero, no, is]
theorem lstat (g d m) : Statement (.lstat g d m) := of_fields _ _ rfl <| by
  conv_lhs => whnf
  simp [zero, no, is]
theorem amsg (g d a b hidx) : Statement (.amsg g d a b hidx) := of_fields _ _ rfl <| by
  conv_lhs => whnf
  simp [zero, no, is]
theorem rld (g d a b disp) : Statement (.rld g d a b disp) := of_fields _ _ rfl <| by
  conv_lhs => whnf
  simp [zero, no, is]
theorem rst (g d a b disp) : Statement (.rst g d a b disp) := of_fields _ _ rfl <| by
  conv_lhs => whnf
  simp [zero, no, is]
theorem rstn (g d a b disp) : Statement (.rstn g d a b disp) := of_fields _ _ rfl <| by
  conv_lhs => whnf
  simp [zero, no, is]
theorem hret (g) : Statement (.hret g) := of_fields _ _ rfl <| by
  conv_lhs => whnf
  simp [zero, no, is]
theorem chpoll (g d) : Statement (.chpoll g d) := of_fields _ _ rfl <| by
  conv_lhs => whnf
  simp [zero, no, is]
theorem chlim (g b) : Statement (.chlim g b) := of_fields _ _ rfl <| by
  conv_lhs => whnf
  simp [zero, no, is]
theorem barc (g) : Statement (.barc g) := of_fields _ _ rfl <| by
  conv_lhs => whnf
  simp [zero, no, is]
theorem bara (g) : Statement (.bara g) := of_fields _ _ rfl <| by
  conv_lhs => whnf
  simp [zero, no, is]
theorem barw (g) : Statement (.barw g) := of_fields _ _ rfl <| by
  conv_lhs => whnf
  simp [zero, no, is]
theorem barb (g) : Statement (.barb g) := of_fields _ _ rfl <| by
  conv_lhs => whnf
  simp [zero, no, is]
theorem spawn (g d a b) : Statement (.spawn g d a b) := of_fields _ _ rfl <| by
  conv_lhs => whnf
  simp [zero, no, is]
theorem join (g d m) : Statement (.join g d m) := of_fields _ _ rfl <| by
  conv_lhs => whnf
  simp [zero, no, is]
theorem texit (g) : Statement (.texit g) := of_fields _ _ rfl <| by
  conv_lhs => whnf
  simp [zero, no, is]
theorem launch (g d m) : Statement (.launch g d m) := of_fields _ _ rfl <| by
  conv_lhs => whnf
  simp [zero, no, is]
theorem frb (g d off) : Statement (.frb g d off) := of_fields _ _ rfl <| by
  conv_lhs => whnf
  simp [zero, no, is]
theorem fre (g) : Statement (.fre g) := of_fields _ _ rfl <| by
  conv_lhs => whnf
  simp [zero, no, is]
theorem fra (g) : Statement (.fra g) := of_fields _ _ rfl <| by
  conv_lhs => whnf
  simp [zero, no, is]
theorem frq (g d) : Statement (.frq g d) := of_fields _ _ rfl <| by
  conv_lhs => whnf
  simp [zero, no, is]
theorem job (g d m) : Statement (.job g d m) := of_fields _ _ rfl <| by
  conv_lhs => whnf
  simp [zero, no, is]
theorem jwait (g d a) : Statement (.jwait g d a) := of_fields _ _ rfl <| by
  conv_lhs => whnf
  simp [zero, no, is]
theorem jpoll (g d a) : Statement (.jpoll g d a) := of_fields _ _ rfl <| by
  conv_lhs => whnf
  simp [zero, no, is]
theorem jcancel (g d a) : Statement (.jcancel g d a) := of_fields _ _ rfl <| by
  conv_lhs => whnf
  simp [zero, no, is]
theorem trap (g sel) : Statement (.trap g sel) := of_fields _ _ rfl <| by
  conv_lhs => whnf
  simp [zero, no, is]
theorem kret (g sel) : Statement (.kret g sel) := of_fields _ _ rfl <| by
  conv_lhs => whnf
  simp [zero, no, is]
theorem sread (g d a sel) : Statement (.sread g d a sel) := of_fields _ _ rfl <| by
  conv_lhs => whnf
  simp [zero, no, is]
theorem swrite (g d a sel) : Statement (.swrite g d a sel) := of_fields _ _ rfl <| by
  conv_lhs => whnf
  simp [zero, no, is]
theorem sysr (g d a sel) : Statement (.sysr g d a sel) := of_fields _ _ rfl <| by
  conv_lhs => whnf
  simp [zero, no, is]
theorem sysw (g d a sel) : Statement (.sysw g d a sel) := of_fields _ _ rfl <| by
  conv_lhs => whnf
  simp [zero, no, is]
theorem tlbinv (g d a b sel) : Statement (.tlbinv g d a b sel) := of_fields _ _ rfl <| by
  conv_lhs => whnf
  simp [zero, no, is]
theorem lres (g d a b sel) : Statement (.lres g d a b sel) := of_fields _ _ rfl <| by
  conv_lhs => whnf
  simp [zero, no, is]
theorem lmove (g d a sel) : Statement (.lmove g d a sel) := of_fields _ _ rfl <| by
  conv_lhs => whnf
  simp [zero, no, is]
theorem sstart (g d a) : Statement (.sstart g d a) := of_fields _ _ rfl <| by
  conv_lhs => whnf
  simp [zero, no, is]
theorem sstop (g d a) : Statement (.sstop g d a) := of_fields _ _ rfl <| by
  conv_lhs => whnf
  simp [zero, no, is]
theorem ctrr (g d sel) : Statement (.ctrr g d sel) := of_fields _ _ rfl <| by
  conv_lhs => whnf
  simp [zero, no, is]
theorem ctrw (g d sel) : Statement (.ctrw g d sel) := of_fields _ _ rfl <| by
  conv_lhs => whnf
  simp [zero, no, is]
theorem mark (g sel) : Statement (.mark g sel) := of_fields _ _ rfl <| by
  conv_lhs => whnf
  simp [zero, no, is]
theorem hint (g sel) : Statement (.hint g sel) := of_fields _ _ rfl <| by
  conv_lhs => whnf
  simp [zero, no, is]
theorem repeaterIssue (core) : Statement (.repeaterIssue core) := of_none _ rfl rfl
theorem longLatencyResult (core pos) : Statement (.longLatencyResult core pos) := of_none _ rfl rfl
theorem memoryReply (i) : Statement (.memoryReply i) := of_none _ rfl rfl
theorem injectionSlot (die stop loop slot) : Statement (.injectionSlot die stop loop slot) := of_none _ rfl rfl
theorem agingTurn (die loop slot) : Statement (.agingTurn die loop slot) := of_none _ rfl rfl
theorem agingTenureEnd (die loop slot) : Statement (.agingTenureEnd die loop slot) := of_none _ rfl rfl
theorem flitArrival (die loop slot accept) : Statement (.flitArrival die loop slot accept) := of_none _ rfl rfl
theorem flitTakenBack (die loop slot) : Statement (.flitTakenBack die loop slot) := of_none _ rfl rfl
theorem landedFlitAccept (die stop vc) : Statement (.landedFlitAccept die stop vc) := of_none _ rfl rfl
theorem hbmServiceSlot (die) : Statement (.hbmServiceSlot die) := of_none _ rfl rfl
theorem reservedSlot (die) : Statement (.reservedSlot die) := of_none _ rfl rfl
theorem bucketRefill (die) : Statement (.bucketRefill die) := of_none _ rfl rfl
theorem homeRequest (i) : Statement (.homeRequest i) := of_none _ rfl rfl
theorem fillDataArrival (die k) : Statement (.fillDataArrival die k) := of_none _ rfl rfl
theorem invalidationArrival (i) : Statement (.invalidationArrival i) := of_none _ rfl rfl
theorem rellRecall (slice j) : Statement (.rellRecall slice j) := of_none _ rfl rfl
theorem combine (slice j) : Statement (.combine slice j) := of_none _ rfl rfl
theorem frameRequest (i) : Statement (.frameRequest i) := of_none _ rfl rfl
theorem pageWalk (die k) : Statement (.pageWalk die k) := of_none _ rfl rfl
theorem tombstoneRetire (slice j) : Statement (.tombstoneRetire slice j) := of_none _ rfl rfl
theorem incarnationBroadcast (slice cluster) : Statement (.incarnationBroadcast slice cluster) := of_none _ rfl rfl
theorem clusterReset (cluster) : Statement (.clusterReset cluster) := of_none _ rfl rfl
theorem poolpush (die v) : Statement (.poolpush die v) := of_none _ rfl rfl
theorem keeperPreemptRequest (core) : Statement (.keeperPreemptRequest core) := of_none _ rfl rfl
theorem landlordPreemptRequest (core) : Statement (.landlordPreemptRequest core) := of_none _ rfl rfl
theorem controlSpaceWrite (pa v) : Statement (.controlSpaceWrite pa v) := of_none _ rfl rfl
theorem preemption (core) : Statement (.preemption core) := of_none _ rfl rfl
theorem resume (core src) : Statement (.resume core src) := of_none _ rfl rfl
theorem keeperEntry (core) : Statement (.keeperEntry core) := of_none _ rfl rfl
theorem landlordEntry (core) : Statement (.landlordEntry core) := of_none _ rfl rfl
theorem machineCheck (core) : Statement (.machineCheck core) := of_none _ rfl rfl
theorem sidelogNotice (core) : Statement (.sidelogNotice core) := of_none _ rfl rfl
theorem sidelogReplay (cluster entry) : Statement (.sidelogReplay cluster entry) := of_none _ rfl rfl
theorem taskDeath (core pos cause sub) : Statement (.taskDeath core pos cause sub) := of_none _ rfl rfl
theorem deadFilterRetire (die j) : Statement (.deadFilterRetire die j) := of_none _ rfl rfl
theorem deathNotice (i) : Statement (.deathNotice i) := of_none _ rfl rfl
theorem noticeRingDrain (j) : Statement (.noticeRingDrain j) := of_none _ rfl rfl
theorem hbmUncorrectableError (die k) : Statement (.hbmUncorrectableError die k) := of_none _ rfl rfl
theorem patrolScrubBurst (die tagOk) : Statement (.patrolScrubBurst die tagOk) := of_none _ rfl rfl
theorem scrubPassStart : Statement .scrubPassStart := of_none _ rfl rfl
theorem taskPop (core pos) : Statement (.taskPop core pos) := of_none _ rfl rfl
theorem taskPriorityAging (cluster j) : Statement (.taskPriorityAging cluster j) := of_none _ rfl rfl
theorem spillRefill (cluster) : Statement (.spillRefill cluster) := of_none _ rfl rfl
theorem spawnReceive (i) : Statement (.spawnReceive i) := of_none _ rfl rfl
theorem stealRequest (cluster vd) : Statement (.stealRequest cluster vd) := of_none _ rfl rfl
theorem stealShipment (i) : Statement (.stealShipment i) := of_none _ rfl rfl
theorem stealRetryTimer (cluster) : Statement (.stealRetryTimer cluster) := of_none _ rfl rfl
theorem poolIdleTimeout (core pos) : Statement (.poolIdleTimeout core pos) := of_none _ rfl rfl
theorem launchPlacement (q vd) : Statement (.launchPlacement q vd) := of_none _ rfl rfl
theorem launchComplete (launch) : Statement (.launchComplete launch) := of_none _ rfl rfl
theorem migration (core pos) : Statement (.migration core pos) := of_none _ rfl rfl
theorem messageArrival (i) : Statement (.messageArrival i) := of_none _ rfl rfl
theorem remoteLsAccess (i) : Statement (.remoteLsAccess i) := of_none _ rfl rfl
theorem channelTransfer (core pos) : Statement (.channelTransfer core pos) := of_none _ rfl rfl
theorem channelTimeout (core pos) : Statement (.channelTimeout core pos) := of_none _ rfl rfl
theorem mwaitWake (slice j) : Statement (.mwaitWake slice j) := of_none _ rfl rfl
theorem mwaitTimeout (core pos) : Statement (.mwaitTimeout core pos) := of_none _ rfl rfl
theorem barrierCompletion (cluster unit) : Statement (.barrierCompletion cluster unit) := of_none _ rfl rfl
theorem bandBarrierArrival (i) : Statement (.bandBarrierArrival i) := of_none _ rfl rfl
theorem rouEdgeCheck (die) : Statement (.rouEdgeCheck die) := of_none _ rfl rfl
theorem regionHeldReadRetry (i) : Statement (.regionHeldReadRetry i) := of_none _ rfl rfl
theorem regionCommit (die slot) : Statement (.regionCommit die slot) := of_none _ rfl rfl
theorem regionAbort (die slot code) : Statement (.regionAbort die slot code) := of_none _ rfl rfl
theorem jobStart (cluster slot) : Statement (.jobStart cluster slot) := of_none _ rfl rfl
theorem jobUnitStep (cluster slot) : Statement (.jobUnitStep cluster slot) := of_none _ rfl rfl
theorem jobFinish (cluster slot) : Statement (.jobFinish cluster slot) := of_none _ rfl rfl
theorem tailWrite (vf off v) : Statement (.tailWrite vf off v) := of_none _ rfl rfl
theorem hostRecordTake (vf) : Statement (.hostRecordTake vf) := of_none _ rfl rfl
theorem completionEntry (vf) : Statement (.completionEntry vf) := of_none _ rfl rfl
theorem counterLowRead (vf off) : Statement (.counterLowRead vf off) := of_none _ rfl rfl
theorem vfReset (vf) : Statement (.vfReset vf) := of_none _ rfl rfl
theorem hostMemAccess (addr len wr) : Statement (.hostMemAccess addr len wr) := of_none _ rfl rfl
theorem backInvalidation (unit bytes) : Statement (.backInvalidation unit bytes) := of_none _ rfl rfl
theorem spanRequest (r) : Statement (.spanRequest r) := of_none _ rfl rfl
theorem hostAtomic (i) : Statement (.hostAtomic i) := of_none _ rfl rfl
theorem traceRecord (core) : Statement (.traceRecord core) := of_none _ rfl rfl
theorem traceWrite (die core) : Statement (.traceWrite die core) := of_none _ rfl rfl
theorem leaseSliceStart : Statement .leaseSliceStart := of_none _ rfl rfl
theorem leaseSliceEnd : Statement .leaseSliceEnd := of_none _ rfl rfl
theorem breakHit (core pos) : Statement (.breakHit core pos) := of_none _ rfl rfl
theorem powerGood (img0 img1 failStep linksUp) : Statement (.powerGood img0 img1 failStep linksUp) := of_none _ rfl rfl
theorem lifeCycleChange (stage) : Statement (.lifeCycleChange stage) := of_none _ rfl rfl
theorem getVersion (req) : Statement (.getVersion req) := of_none _ rfl rfl
theorem getCapabilities (req) : Statement (.getCapabilities req) := of_none _ rfl rfl
theorem negotiateAlgorithms (req) : Statement (.negotiateAlgorithms req) := of_none _ rfl rfl
theorem getCertificate (req) : Statement (.getCertificate req) := of_none _ rfl rfl
theorem challenge (req) : Statement (.challenge req) := of_none _ rfl rfl
theorem getMeasurements (req) : Statement (.getMeasurements req) := of_none _ rfl rfl
theorem moduleDescriptorRead : Statement .moduleDescriptorRead := of_none _ rfl rfl
theorem powerLimitExceeded : Statement .powerLimitExceeded := of_none _ rfl rfl
theorem lastIterationRetires (core) : Statement (.lastIterationRetires core) := of_none _ rfl rfl
theorem launchRetirement (launch) : Statement (.launchRetirement launch) := of_none _ rfl rfl
theorem leaseRequest (vd v) : Statement (.leaseRequest vd v) := of_none _ rfl rfl
theorem powerLimitSet (watts) : Statement (.powerLimitSet watts) := of_none _ rfl rfl
theorem drawWithinLimit : Statement .drawWithinLimit := of_none _ rfl rfl

end Sys2Proof.Laws.RoundTrip
end

