-- ==== Sys2Proof/Laws/Start.lean ====
section
/-! SUPPORT. How a global access starts: what `startOp` and the address forms of R288 do, each said once. -/

namespace Sys2Proof.Safety

open Sys2Proof.Machine

/-- What giving a party an operation does. -/
theorem setOp_spec (s : State) (c p : Nat) (o : Option Op) :
    Confined c p s (s.setOp c p o) ∧ (s.setOp c p o).opOf c p = o ∧
    (∀ d q, (s.setOp c p o).regsOf d q = s.regsOf d q) ∧
    ∀ e, ((s.setOp c p o).core e).chans = (s.core e).chans := by
  by_cases hp : p = 6
  · subst hp
    have h : s.setOp c 6 o = s.setPorter c { s.porter c with op := o } := by simp [State.setOp]
    rw [h]
    refine ⟨⟨rfl, fun _ => rfl, fun e he => ?_, ?_, fun q _ => strand_setPorter .., fun h => absurd rfl h⟩, ?_,
      fun d q => ?_, fun e => chans_setPorter ..⟩
    · rw [setPorter_eq, core_setCore_other _ _ _ _ he]
    · rw [setPorter_eq, core_setCore]
    · simp [State.opOf]
    · by_cases hd : d = c
      · subst hd; simp [State.regsOf]
      · simp [State.regsOf, porter_setPorter_other _ _ _ _ hd]
  · have h : s.setOp c p o = s.setStrand c p { s.strand c p with op := o } := by simp [State.setOp, hp]
    rw [h]
    refine ⟨confined_setStrand .., ?_, fun d q => ?_, fun e => chans_setStrand ..⟩
    · simp [State.opOf, hp]
    · by_cases hq : q = 6
      · simp [State.regsOf, hq]
      · simp only [State.regsOf, hq, if_false, strand_setStrand_eq]
        split
        · next h => rw [h.1, h.2]
        · rfl

theorem regsOf_park (s : State) (c p : Nat) (st : RunState) (w : Wait) : (s.park c p st w).regsOf c p = s.regsOf c p :=
  (parked_park s c p st w).regs

theorem opOf_park (s : State) (c p : Nat) (st : RunState) (w : Wait) : (s.park c p st w).opOf c p = s.opOf c p := by
  have h := parked_park s c p st w
  by_cases hp : p = 6
  · subst hp
    have := h.porter
    simp only [if_true] at this
    simp [State.opOf, this]
  · have := congrArg Strand.op (h.strand hp)
    simpa [State.opOf, hp] using this

/-- What starting an access does. -/
theorem starts_startOp {i : Instr} {s b : State} {u : Use} {act : GAct} {a n : Nat} {data : List PByte}
    (hc : b.cur = s.cur) (he : exec i s = .next (s.holdChans (b.startOp u act a n data) u)) : StartsFrom i s b u act a n data := by
  unfold StartsFrom drains
  have hs : b.startOp u act a n data =
    if (waitsOverlap act && b.entriesOverlap b.cur.core b.cur.pos a n) ||
        (isJoin act && b.hasEntries b.cur.core b.cur.pos) then
      b.park b.cur.core b.cur.pos .waitMem .sidelog
    else (((b.newOp u act a n data).2.setOp b.cur.core b.cur.pos (some (b.newOp u act a n data).1)).park
      b.cur.core b.cur.pos (waitSt act) .reply).translateOp b.cur.core b.cur.pos := by cases act <;> rfl
  split
  · next h =>
    refine ⟨_, he, ?_⟩
    rw [hs, if_pos h, hc]
    exact Parked.holdChans (parked_park ..) u
  · next h =>
    rw [if_neg h] at hs
    rw [hs] at he
    let s1 : State := { b with nextId := b.nextId + 1 }
    let o := (b.newOp u act a n data).1
    obtain ⟨k1, k2, k3, k4⟩ := setOp_spec s1 b.cur.core b.cur.pos (some o)
    have hp := parked_park (s1.setOp b.cur.core b.cur.pos (some o)) b.cur.core b.cur.pos (waitSt act) .reply
    refine ⟨_, ⟨k1.trans hp.own, (regsOf_park ..).trans (k3 _ _), fun e q => ?_, hp.st, hp.wait, o,
      (opOf_park ..).trans k2, rfl, rfl, rfl, rfl, rfl, rfl, rfl, rfl, rfl, rfl, rfl, rfl, ?_⟩, hc ▸ he⟩
    · refine (hp.chans e q).trans ?_
      rw [k4]; rfl
    · simp only [o, State.newOp, Bool.and_eq_true, decide_eq_true_eq]
      rfl

theorem inSegment_ok {g : Seg} {rights : List Nat} {off : Int} {n : Nat} (h : InSegment g rights off n) :
    segCheck g rights off n = .ok (g.base.toNat + off.toNat) := by
  obtain ⟨h1, h2, h3, h4, h5⟩ := h
  have h2' : (rights.any fun r => !g.rights.getLsbD r) = false := by
    simp only [List.any_eq_false, Bool.not_eq_true, Bool.not_eq_false']
    exact h2
  simp only [segCheck]
  rw [if_neg (by omega), h2', if_neg (by simp), if_neg (by simp; omega), if_neg (by omega)]

theorem inSegment_error {g : Seg} {rights : List Nat} {off : Int} {n : Nat} (h : ¬ InSegment g rights off n) :
    segCheck g rights off n = .error tSegment := by
  simp only [segCheck]
  split
  · rfl
  · next h1 =>
    split
    · rfl
    · next h2 =>
      split
      · rfl
      · next h3 =>
        split
        · rfl
        · next h4 =>
          refine absurd ⟨by omega, ?_, ?_, ?_, by omega⟩ h
          · simp only [Bool.not_eq_true, List.any_eq_false, Bool.not_eq_false'] at h2
            exact h2
          · simp at h3; omega
          · simp at h3; omega

/-- A form whose operands give an address under R288 and data; `pb` and `pd` are the poison of B and D. -/
theorem globalForm_access {s : State} {g : Guard} {f : Form} (h : Clear s g f) {i : Instr} {act : GAct} {m : GMem}
    {rights : List Nat} {data : List PByte} {align : Nat} {pb pd : Bool}
    {fx : View → Except TrapInfo (Nat × List PByte)}
    (he : exec i s = .next (s.access g f act (gLen m) fx))
    (hx : fx (s.view f.use) = (do
      let a ← gAddr rights m pb pd (s.view f.use)
      let a ← alignTo align a
      pure (a, data))) :
    GlobalForm i s f.use m rights act
      (if ((s.view f.use).s (s.view f.use).a m.a).p then some 1 else if pb then some 2 else if pd then some 0 else none)
      align data := by
  have hregs : (s.view f.use).regs = s.regs := rfl
  simp only [gAddr, gDva, gLen, needClean, bind, Except.bind, pure, Except.pure, hregs] at hx
  have trap (t : TrapInfo) (ht : fx (s.view f.use) = .error t) : Traps i s t := by
    apply traps_takeTrap
    rw [he, State.access, issue_error h ht]
  have start (a : Nat) (ht : fx (s.view f.use) = .ok (a, data)) : StartsFrom i s s f.use act a (gLen m) data := by
    apply starts_startOp rfl
    rw [he, State.access, issue_ok h ht]
  unfold GlobalForm
  cases ha : ((s.view f.use).s (s.view f.use).a m.a).p
  · cases pb
    · cases pd
      · simp only [ha, Bool.or_self, Bool.false_eq_true, if_false] at hx ⊢
        refine ⟨fun hs => ?_, fun hs hal => ?_, fun hs hal => ?_⟩
        · rw [inSegment_error hs] at hx
          exact trap _ hx
        · rw [inSegment_ok hs] at hx
          simp only [alignTo, hal, if_false] at hx
          exact trap _ hx
        · rw [inSegment_ok hs] at hx
          simp only [alignTo, hal, if_true] at hx
          exact start _ hx
      · simp only [ha, Bool.or_true, if_true, firstPoison] at hx
        exact trap _ hx
    · simp only [ha, Bool.or_true, Bool.true_or, if_true, firstPoison] at hx
      exact trap _ hx
  · simp only [ha, Bool.true_or, if_true, firstPoison] at hx
    exact trap _ hx

end Sys2Proof.Safety
end

