-- ==== Sys2Proof/Tests/Slice0.lean ====
section
/-! SUPPORT. Tests: what `wellFormed` refuses, words of the spec's listings, single steps on small states, and for
each statement a state that meets its hypotheses. -/

set_option Elab.async false

namespace Sys2Proof.Tests

open Sys2Proof.Machine Sys2Proof.Safety

/-! Ill-formed terms, one for each check of `wellFormed` -/

/-- Guard 000, always. -/
abbrev g0 : Guard := ⟨0, false⟩

theorem test_wf_accepts : wellFormed (.add g0 (.s 5) (.s 6) (.imm 16)) = true := by decide
theorem test_wf_guard : wellFormed (.add ⟨0, true⟩ (.s 5) (.s 6) (.imm 16)) = false := by decide
theorem test_wf_fpType : wellFormed (.fadd g0 .b64 .rne false (.s 1) (.s 2) (.s 3)) = false := by decide
theorem test_wf_anyFpType : wellFormed (.fclass g0 .b8 (.s 1) (.s 2)) = false := by decide
theorem test_wf_intType : wellFormed (.vadd g0 .f32 (.v 1) (.v 2) (.v 3)) = false := by decide
theorem test_wf_convert : wellFormed (.fcvt g0 .b64 .b32 false .rne false (.s 1) (.s 2)) = false := by decide
theorem test_wf_convertSign : wellFormed (.fcvt g0 .f64 .f32 true .rne false (.s 1) (.s 2)) = false := by decide
theorem test_wf_immediate : wellFormed (.vfadd g0 .f32 .rne false (.v 1) (.v 2) (.imm 1)) = false := by decide
theorem test_wf_mask : wellFormed (.vfma g0 .f32 .rne false (.v 1) (.v 2) (.k 1)) = false := by decide
theorem test_wf_reduction : wellFormed (.vredmax g0 .e4m3 (.s 1) (.v 2) (.k 0)) = false := by decide
theorem test_wf_blockFormat : wellFormed (.bpack g0 .f32 0x0B .rne false (.v 2) (.v 1) (.s 0)) = false := by decide
theorem test_wf_lookType : wellFormed (.cblook g0 .b32 (.v 2) (.v 1) (.s 0)) = false := by decide
theorem test_wf_count : wellFormed (.rpt g0 0 0 0 0 0) = false := by decide
theorem test_wf_countTop : wellFormed (.rpt g0 0 0 0 0 4097) = false := by decide
theorem test_wf_loadLength : wellFormed (.gld g0 ⟨false, 3⟩ (.s 4) ⟨1, .s 3, 0, 3⟩) = false := by decide
theorem test_wf_vectorLength : wellFormed (.gvld g0 (.v 1) ⟨1, .s 3, 0, 64⟩) = false := by decide
theorem test_wf_atomLength : wellFormed (.aadd g0 .dev (.s 5) ⟨2, .s 6, 8, 1⟩ (.s 7)) = false := by decide
theorem test_wf_mwaitLength : wellFormed (.mwait g0 (.p 2) ⟨2, .s 6, 0, 3⟩ (.s 7)) = false := by decide
theorem test_wf_scope : wellFormed (.cwb g0 .die ⟨2, .s 6, 0, 63⟩) = false := by decide
theorem test_wf_launchLength : wellFormed (.launch g0 (.s 5) ⟨2, .s 6, 0, 191⟩) = false := by decide
theorem test_wf_cardLength : wellFormed (.job g0 (.s 5) ⟨2, .s 6, 0, 63⟩) = false := by decide
theorem test_wf_kretSel : wellFormed (.kret g0 2) = false := by decide
theorem test_wf_stateSel : wellFormed (.sread g0 (.s 5) (.s 3) 0x56) = false := by decide
theorem test_wf_stateClass : wellFormed (.sread g0 (.s 5) (.s 3) 0x20) = false := by decide
theorem test_wf_stateReadOnly : wellFormed (.swrite g0 (.s 5) (.s 3) 0x60) = false := by decide
theorem test_wf_writeOnly : wellFormed (.sysr g0 (.s 5) (.s 6) 0x31) = false := by decide
theorem test_wf_readOnly : wellFormed (.sysw g0 (.s 5) (.s 6) 0x32) = false := by decide
theorem test_wf_mode : wellFormed (.tlbinv g0 (.s 5) (.s 6) (.s 7) 3) = false := by decide
theorem test_wf_die : wellFormed (.lmove g0 (.s 5) (.s 6) 8) = false := by decide
theorem test_wf_counter : wellFormed (.ctrr g0 (.s 5) 16) = false := by decide

/-! Words of the spec's listings (13_encoding.md to 26_program_decode.md) -/

theorem test_decode_int :
    decode 0x017000506E00000000000010#96 = .ok (.add ⟨3, true⟩ (.s 5) (.s 6) (.imm 16)) ∧
    decode 0x013201000830000000000000#96 = .ok (.li ⟨1, true⟩ (.s 16) (.ch 3)) ∧
    decode 0x014208100100000000000000#96 = .ok (.li ⟨2, false⟩ (.ch 1) (.s 16)) := by decide
theorem test_decode_cmp :
    decode 0x020004104E03000000000064#96 = .ok (.cmp g0 .ltu (.p 1) (.s 4) (.imm 100)) := by decide
theorem test_decode_ctrl :
    decode 0x0340000000000000FFFFFFF8#96 = .ok (.br ⟨2, false⟩ (-8)) ∧
    decode 0x0300519000000000FFFFFFE7#96 = .ok (.loop g0 (.s 25) (-25)) := by decide
/-- From R183, R187 and R189: rm RTZ, stype b64, sgn. -/
theorem test_decode_fp :
    decode 0x040090506005000000000131#96 = .ok (.fcvt g0 .f32 .b64 true .rtz false (.s 5) (.s 6)) := by decide
theorem test_decode_seg :
    decode 0x050010207E00000000010000#96 = .ok (.segnarrow g0 2 (.s 7) (.imm 0x10000)) := by decide
/-- From R183, R187 and R256: condition LTU at X[12:9]. -/
theorem test_decode_vint :
    decode 0x060106221230000000000600#96 = .ok (.vcmp g0 .b8 .ltu (.k 2) (.v 1) (.v 3)) := by decide
theorem test_decode_vfp :
    decode 0x070002220215000000000000#96 = .ok (.vfadd g0 .f32 .rne false (.v 2) (.v 0) (.v 1)) ∧
    decode 0x070072121005000000000000#96 = .ok (.vfmax g0 .f32 (.v 1) (.v 1) (.s 0)) := by decide
theorem test_decode_vperm :
    decode 0x080002100E0200003F800000#96 = .ok (.vbcast g0 .b32 (.v 1) (.imm 0x3F800000)) ∧
    decode 0x080080624605000000000000#96 = .ok (.vfredadd g0 .f32 (.s 6) (.v 4) (.k 0)) := by decide
theorem test_decode_vblock :
    decode 0x090022221005000000000200#96 = .ok (.bpack g0 .f32 2 .rne false (.v 2) (.v 1) (.s 0)) := by decide
theorem test_decode_rep :
    decode 0x0A0000000000000001010003#96 = .ok (.rpt g0 1 0 1 0 3) ∧
    decode 0x0A0010000000000000000000#96 = .ok (.rwait g0) := by decide
/-- From R183, R187, R189 and R282. -/
theorem test_decode_ls :
    decode 0x0B0000506006000000000008#96 = .ok (.ld g0 ⟨true, 2⟩ (.s 5) ⟨.s 6, 8⟩) ∧
    decode 0x0B0042106222000000000100#96 = .ok (.vgath g0 .b32 (.v 1) ⟨.s 6, 0x100⟩ (.v 2)) := by decide
theorem test_decode_gm :
    decode 0x0C0000705006400300000010#96 = .ok (.gld g0 ⟨true, 2⟩ (.s 7) ⟨2, .s 5, 16, 3⟩) ∧
    decode 0x0C0032600000201F0001FFF0#96 = .ok (.gvst g0 (.v 6) ⟨1, .s 0, 0x1FFF0, 31⟩) := by decide
theorem test_decode_atom :
    decode 0x0D0000506073400700000008#96 = .ok (.aadd g0 .dev (.s 5) ⟨2, .s 6, 8, 7⟩ (.s 7)) ∧
    decode 0x0D00D1917003200700010100#96 = .ok (.radd g0 .dev (.s 25) ⟨1, .s 23, 0x10100, 7⟩) ∧
    decode 0x0D0164206070400700000000#96 = .ok (.mwait g0 (.p 2) ⟨2, .s 6, 0, 7⟩ (.s 7)) := by decide
theorem test_decode_order :
    decode 0x0E0020000003000000000000#96 = .ok (.rel g0 .dev) ∧
    decode 0x0E0030000003600700000040#96 = .ok (.rell g0 .dev ⟨3, .s 0, 0x40, 7⟩) := by decide
theorem test_decode_loft :
    decode 0x0F000090000023FF00030000#96 = .ok (.ldisc g0 (.s 9) ⟨1, .s 0, 0x30000, 1023⟩) := by decide
/-- The word of CHLIM has its B field where R183 puts it (log 25). -/
theorem test_decode_msg :
    decode 0x100020507060000000000040#96 = .ok (.rst g0 (.s 5) (.s 7) (.s 6) 0x40) ∧
    decode 0x100060000E00000000002710#96 = .ok (.chlim g0 (.imm 10000)) := by decide
theorem test_decode_bar :
    decode 0x110000000000000000000000#96 = .ok (.barc g0) ∧
    decode 0x110030000000000000000000#96 = .ok (.barb g0) := by decide
theorem test_decode_task :
    decode 0x120004221050000000000000#96 = .ok (.spawn g0 (.p 2) (.v 1) (.s 5)) ∧
    decode 0x120014206000400700000000#96 = .ok (.join g0 (.p 2) ⟨2, .s 6, 0, 7⟩) := by decide
theorem test_decode_region :
    decode 0x13000090000000000000000E#96 = .ok (.frb g0 (.s 9) 14) ∧
    decode 0x130030500000000000000000#96 = .ok (.frq g0 (.s 5)) := by decide
theorem test_decode_job :
    decode 0x14000050600040BF00000000#96 = .ok (.job g0 (.s 5) ⟨2, .s 6, 0, 191⟩) ∧
    decode 0x140010705000000000000000#96 = .ok (.jwait g0 (.s 7) (.s 5)) := by decide
theorem test_decode_sys :
    decode 0x150031603000000000000003#96 = .ok (.swrite g0 (.s 22) (.s 3) 3) ∧
    decode 0x150000000000000000000021#96 = .ok (.trap g0 0x21) := by decide
/-- The guard of the worked branch with guard 000 and negate 1 (13_encoding.md): no instruction. -/
theorem test_decode_reserved :
    (decode 0x0310000000000000FFFFFFF8#96).isOk = false ∧ (decode 0#96).isOk = false := by decide
/-- The bytes of NOP as R191 stores them. -/
theorem test_decode_bytes : decodeBytes [0, 0, 0, 0, 0, 0, 0, 0, 0, 0x70, 0, 3] = .ok (.nop g0, []) := by decide

/-! Small states, on which the hypotheses of the statements hold together -/

/-- A state past bring-up in which the strand at position 2 of core 9 issues. -/
def onStrand (x : Strand) : State :=
  { State.reset with
    cur := ⟨9, 2⟩, cores := [(9, { Core.init with strands := [(2, x)] })], porch := { Porch.init with step := 7 } }

def running : Strand := { Strand.init with st := .run }
def small : State := onStrand running

/-- The same strand with registers of its own. -/
def withRegs (r : RegSet) : State := onStrand { running with regs := r }

/-- s6 is poisoned. -/
def poisonS6 : State := withRegs { RegSet.zero with sp := 0x40 }

/-- The porter of core 9 runs an entry of a kind. -/
def onPorter (k : EntryKind) (landlord : Bool) (x : Strand) : State :=
  { onStrand x with
    cur := ⟨9, 6⟩
    cores := [(9, { Core.init with
      strands := [(2, x)], porter := { Porter.init with cur := some ⟨k, landlord, 0, 0⟩ } })] }

def trappedStrand : Strand := { running with st := .trapped }
def keeper : State := onPorter (.trap 2) false trappedStrand

/-- What `Clear` asks for, one Boolean a field. -/
def clearFields (s : State) (g : Guard) (f : Form) : List Bool :=
  [decide (s.isPorter = true → f.strandOnly = false ∧ f.use.usesChan = false),
    decide (f.level ≤ s.level.toNat), s.guardTrue g,
    decide (f.reports = true → s.guardPending = none),
    decide (s.inRegion = true → f.tracked = true ∧ f.use.usesChan = false),
    !(s.claimed f.use.vecs || (f.fs && s.fsHeld)),
    decide (s.chNotReady s.cur.core s.curVd f.use.a f.use.b f.use.d f.use.dst = none)]

def clearB (s : State) (g : Guard) (f : Form) : Bool := (clearFields s g f).all id

theorem clear_of {s : State} {g : Guard} {f : Form} (h : clearB s g f = true) : Clear s g f :=
  have k (b : Bool) (m : b ∈ clearFields s g f) : b = true := List.all_eq_true.mp h b m
  { issuer := of_decide_eq_true (k _ (.head _))
    level := of_decide_eq_true (k _ (.tail _ (.head _)))
    guard := k _ (.tail _ (.tail _ (.head _)))
    record := of_decide_eq_true (k _ (by simp [clearFields]))
    region := of_decide_eq_true (k _ (by simp [clearFields]))
    claim := Bool.not_eq_true' _ ▸ k (!(s.claimed f.use.vecs || (f.fs && s.fsHeld)))
      (.tail _ (.tail _ (.tail _ (.tail _ (.tail _ (.head _))))))
    ready := of_decide_eq_true (k _ (by simp [clearFields])) }

theorem takes_s (i : Fin 32) (p : Bool) : takesS (.s i) p := by intro c h; cases h
theorem takes_v (i : Fin 16) (p : BitVec 8) : takesV (.v i) p := by intro c h; cases h

/-! Encoding, the step, levels and guards -/

/-- O1. -/
theorem witness_encode : wellFormed (.add g0 (.s 5) (.s 6) (.imm 16)) = true ∧
    encode (.add g0 (.s 5) (.s 6) (.imm 16)) = some 0x010000506E00000000000010#96 := by decide
/-- O2: words of each clause, at the boundary of each range. -/
theorem witness_decode : decode 0x010000506E00000000000010#96 = .ok (.add g0 (.s 5) (.s 6) (.imm 16)) ∧
    ((0x160000000000000000000000#96 : BitVec 96).extractLsb' 88 8).toNat = 0x16 ∧
    ((0x010210000000000000000000#96 : BitVec 96).extractLsb' 76 8).toNat = 0x21 ∧
    (0x031000000000000000000000#96 : BitVec 96).extractLsb' 84 4 = 1 ∧
    (0x01000A000000000000000000#96 : BitVec 96).extractLsb' 73 3 = 5 := by decide

/-- The strand of `small` is due. -/
def dueNow (s : State) : State := { s with due := some ⟨9, 2⟩ }
/-- NOP at address 0 of the local store, with poison marks. -/
def withNop (p : NSet) : State := dueNow
  { small with cores := [(9, { Core.init with
      strands := [(2, running)], ls := memWriteList [] 0 [0, 0, 0, 0, 0, 0, 0, 0, 0, 0x70, 0, 3], lsP := p })] }

/-- O4: a turn can begin, with a word that decodes, one that does not, a poisoned one, and an index past the store. -/
theorem witness_turn :
    (withNop []).porch.halted = false ∧ (withNop []).agenda = [] ∧ (withNop []).due = some ⟨9, 2⟩ ∧
    (withNop []).canIssue ⟨9, 2⟩ = true ∧ ((withNop []).strand 9 2).migrated = false ∧ (withNop []).brkHit 9 2 = false ∧
    (withNop []).lineOf 9 2 = none ∧ ((withNop []).regsOf 9 2).pc = 0 ∧
    (∀ j < 12, (0x030070000000000000000000#96 : BitVec 96).extractLsb' (8 * j) 8 =
      (lsByte ((withNop []).core 9) j).v ∧ (lsByte ((withNop []).core 9) j).p = false) ∧
    (lsByte ((withNop [1]).core 9) 11).p = true ∧ (withNop [1]).canIssue ⟨9, 2⟩ = true ∧
    (∀ j < 12, (0#96 : BitVec 96).extractLsb' (8 * j) 8 = (lsByte ((dueNow small).core 9) j).v) ∧
    (dueNow small).canIssue ⟨9, 2⟩ = true ∧
    (dueNow (withRegs { RegSet.zero with pc := 2048 })).canIssue ⟨9, 2⟩ = true := by decide
/-- O4: the word of the code store. -/
theorem witness_turnCode :
    let k : Ctx := { Ctx.init with loaded := true, img := { CtxImage.none with code := [0x030070000000000000000000#96] } }
    let s : State := dueNow { withRegs { RegSet.zero with pc := 0x800000 } with
      clusters := [(0, { Cluster.init with ctxs := [(0, k)] })] }
    s.canIssue ⟨9, 2⟩ = true ∧ (s.ctx (clusterOf 9) (s.tagOf 9 2)).img.code[0]? = some 0x030070000000000000000000#96 := by
  decide
/-- O5. -/
theorem witness_agenda :
    isEvent .drawWithinLimit = true ∧ isSideDoor (.getVersion []) = true ∧ isSideDoor .drawWithinLimit = false := by
  decide
/-- O7: a canonical state that steps. -/
theorem witness_canonical : MemOk State.reset ∧ StepsOn State.reset :=
  ⟨⟨by decide, by decide⟩, _, rfl⟩
/-- O8: each clause. -/
theorem witness_privilege : wellFormed (.kret g0 0) = true ∧ small.cur.pos < 6 ∧ levelOf (.kret g0 0) = 1 ∧
    keeper.cur.pos = 6 ∧ keeper.level = .k ∧ levelOf (.sysr g0 (.s 5) (.s 0) 0x50) = 2 ∧
    wellFormed (.sysr g0 (.s 5) (.s 0) 0x50) = true ∧ strandOnly (.halt g0) = true ∧ wellFormed (.halt g0) = true ∧
    wellFormed (.chlim g0 (.ch 1)) = true ∧
    ((encodeFields (.add g0 (.ch 1) (.s 2) (.s 3))).map namesChan) = some true ∧
    wellFormed (.add g0 (.ch 1) (.s 2) (.s 3)) = true ∧
    ((encodeFields (.sysr g0 (.s 5) (.s 0) 0x50)).map namesChan) = some false := by decide
/-- O9: p2 is 0, on a strand and on the porter. -/
theorem witness_guard : small.guardTrue ⟨2, false⟩ = false ∧ keeper.guardTrue ⟨2, false⟩ = false ∧
    wellFormed (.nop ⟨2, false⟩) = true ∧ wellFormed (.rpt ⟨2, false⟩ 0 0 0 1 3) = true ∧
    (encodeFields (.nop ⟨2, false⟩)).map (·.guard) = some 2 ∧ levelOf (.nop ⟨2, false⟩) ≤ small.level.toNat ∧
    strandOnly (.nop ⟨2, false⟩) = false ∧ (encodeFields (.nop ⟨2, false⟩)).map namesChan = some false := by decide
/-- O10. -/
theorem witness_register : (3 : Fin 32) ≠ 0 ∧ (3 : Fin 8) ≠ 0 := by decide
/-- O10: port 1 has room, and s6 is poisoned. -/
theorem witness_poison :
    Clear poisonS6 g0 (formSSI (.ch 1) (.s 6) (.imm 16)) ∧ Clear poisonS6 g0 (formSS (.ch 1) (.s 6)) ∧
    Clear poisonS6 g0 (formSSI (.ch 1) (.s 5) (.s 6)) ∧
    Clear poisonS6 g0 (formLi (.ch 1) (.s 6)) ∧ Clear poisonS6 g0 (formSSS (.ch 1) (.s 6) (.s 5)) ∧
    Clear poisonS6 g0 { use := useSS (.ch 1) (.s 6) } ∧ (poisonS6.regs.getS 6).p = true := by
  and_intros <;> first | exact clear_of (by decide +kernel) | decide +kernel
/-- O10: D, read at port 1, holds a word, and A is poisoned. -/
theorem witness_poisonD :
    let s : State := { poisonS6 with cores := [(9, { (poisonS6.core 9) with chans := [(1, [⟨5, 0⟩])] })] }
    Clear s g0 (formDSI (.ch 1) (.s 6) (.imm 0)) ∧
    Clear s g0 { use := { useSSS (.ch 1) (.s 6) (.s 5) with d := chS (.ch 1) } } ∧ (s.regs.getS 6).p = true :=
  ⟨clear_of (by decide), clear_of (by decide), by decide⟩

/-! Scalar and vector results -/

/-- O11 and O13. -/
theorem witness_int : Clear small g0 (formSSI (.s 5) (.s 6) (.imm 16)) ∧ takesS (.s 5) false :=
  ⟨clear_of (by decide), takes_s 5 false⟩
/-- O12. -/
theorem witness_width : Clear small g0 (formSS (.s 5) (.s 6)) ∧ Clear small g0 (formDSI (.s 5) (.s 6) (.imm 0)) ∧
    Clear small g0 (formLi (.s 5) (.imm 0)) ∧ takesS (.s 5) false :=
  ⟨clear_of (by decide), clear_of (by decide), clear_of (by decide), takes_s 5 false⟩
/-- O14: with clean sources and with a poisoned one. -/
theorem witness_predicate : Clear small g0 (formCmp (.p 2) (.s 6) (.imm 3)) ∧
    Clear poisonS6 g0 (formCmp (.p 2) (.s 6) (.imm 3)) ∧ (poisonS6.regs.getS 6).p = true ∧
    Clear small g0 (formPred (.p 2) (.p 3) (.p 4)) ∧ Clear small g0 (formPset (.p 2) (.imm 1)) ∧
    Clear small g0 (formPget (.s 5) (.p 2)) := by
  and_intros <;> first | exact clear_of (by decide +kernel) | decide +kernel
/-- O15. -/
theorem witness_control : Clear small g0 {} ∧ Clear small g0 (formLoop (.s 5)) ∧ Clear small g0 (formA (.s 6)) ∧
    Clear small g0 (formD (.s 5)) := by
  and_intros <;> first | exact clear_of (by decide +kernel) | decide +kernel
/-- O16, O17 and O18. -/
theorem witness_fp : Clear small g0 (formSSS (.s 5) (.s 6) (.s 7)) ∧
    Clear small g0 { use := { useSSS (.s 5) (.s 6) (.s 7) with d := chS (.s 5) } } ∧
    Clear small g0 { use := useSS (.s 5) (.s 6) } ∧ takesS (.s 5) false ∧
    Clear small g0 { use := { a := chS (.s 6), b := chS (.s 7), dst := chP (.p 2) } } ∧
    (fpDec fmt32 0x7FC00000).isNan = true ∧ (fpDec fmt32 0x3F800000).isNan = false ∧ ETy.f32.isInt = false :=
  ⟨clear_of (by decide), clear_of (by decide), clear_of (by decide), takes_s 5 false, clear_of (by decide), by decide⟩
/-- O19. -/
theorem witness_segment : Clear small g0 { use := { b := chI (.imm 3) } } ∧
    Clear small g0 { use := { a := chS (.s 6), b := chI (.imm 3) } } ∧
    Clear small g0 { use := { b := chI (.imm 3), dst := chS (.s 5) } } :=
  ⟨clear_of (by decide), clear_of (by decide), clear_of (by decide)⟩
/-- O20 and O21. -/
theorem witness_vector : Clear small g0 (formVVB (.v 1) (.v 2) (.v 3)) ∧ Clear small g0 (formVVKm (.v 1) (.v 2) (.k 3)) ∧
    Clear small g0 (formKVB (.k 1) (.v 2) (.s 3)) ∧ Clear small g0 (formVVK (.v 1) (.v 2) (.k 3)) ∧
    Clear small g0 (formVVBd (.v 1) (.v 2) (.v 3)) ∧ vbIsMask (.v 3) = false := by
  and_intros <;> first | exact clear_of (by decide +kernel) | decide +kernel
/-- O22. -/
theorem witness_permutation :
    Clear small g0 { use := { b := chI (.imm 3), dst := chV (.v 1), vecs := vecV (.v 1) } } ∧
    Clear small g0 { use :=
      { a := chS (.s 6), b := chI (.imm 3), d := chV (.v 1), dst := chV (.v 1), vecs := vecV (.v 1) } } ∧
    Clear small g0 { use :=
      { a := chV (.v 2), b := chI (.imm 3), dst := chV (.v 1), vecs := vecV (.v 1) ++ vecV (.v 2) } } ∧
    Clear small g0 (formVVV (.v 1) (.v 2) (.v 3)) ∧ Clear small g0 (formVVKr (.v 1) (.v 2) (.k 3)) ∧
    Clear small g0 { use := { a := chV (.v 2), b := chI (.imm 3), dst := chS (.s 5), vecs := vecV (.v 2) } } ∧
    Clear small g0 (formRed (.s 5) (.v 2) (.k 0)) ∧ takesS (.s 5) false :=
  ⟨clear_of (by decide), clear_of (by decide), clear_of (by decide), clear_of (by decide), clear_of (by decide),
    clear_of (by decide), clear_of (by decide), takes_s 5 false⟩
/-- O23: the forms, and that a block decodes or not. -/
theorem witness_block :
    Clear small g0 { use := { a := chV (.v 2), b := chV (.v 3), d := chS (.s 5), dst := chS (.s 5)
                              vecs := vecV (.v 2) ++ vecV (.v 3) } } ∧
    Clear small g0 { use := { a := chV (.v 2), b := chS (.s 6), dst := chV (.v 1)
                              vecs := vecV (.v 1) ++ vecV (.v 2) } } ∧
    Clear small g0 { use := { a := chV (.v 2), b := chS (.s 6), d := chV (.v 1), dst := chV (.v 1)
                              vecs := vecV (.v 1) ++ vecV (.v 2) } } ∧
    Clear small g0 { use := { a := chS (.s 6), b := chS (.s 7), d := chV (.v 1), dst := chV (.v 1)
                              vecs := vecV (.v 1) } } ∧
    Clear small g0 (formVVS (.v 1) (.v 2) (.s 6)) ∧ Clear small g0 (formCbload (.v 2)) ∧
    takesS (.s 5) true ∧ takesV (.v 1) 1 :=
  ⟨clear_of (by decide), clear_of (by decide), clear_of (by decide), clear_of (by decide), clear_of (by decide),
    clear_of (by decide), takes_s 5 true, takes_v 1 1⟩

/-! Local stores and the repeater -/

/-- O24. -/
theorem witness_local : Clear small g0 (formLd (.s 5) ⟨.s 3, 64⟩) ∧ Clear small g0 (formSt (.s 5) ⟨.s 3, 64⟩) ∧
    Clear small g0 { use := { a := chS (.s 3), dst := chV (.v 1), vecs := vecV (.v 1) } } ∧
    Clear small g0 { use := { a := chS (.s 3), b := chV (.v 2), dst := chV (.v 1), vecs := vecV (.v 1) ++ vecV (.v 2) } } ∧
    Clear small g0 { use := { a := chS (.s 3), d := chV (.v 1), vecs := vecV (.v 1) } } ∧
    Clear small g0 { use := { a := chS (.s 3), b := chV (.v 2), d := chV (.v 1), vecs := vecV (.v 1) ++ vecV (.v 2) } } := by
  and_intros <;> first | exact clear_of (by decide +kernel) | decide +kernel
/-- O25. -/
theorem witness_store : memWf (memWriteList [] 8 [1, 2, 3]) = true := by decide
/-- O26. -/
theorem witness_guardRecord : small.cur.pos < 6 ∧ Clear small g0 (formLsguard (.s 5) ⟨.s 3, 0⟩) :=
  ⟨by decide, clear_of (by decide)⟩

/-- The repeater of core 9 holds one word for the strand at position 2. -/
def seqOf (w : BitVec 96) (count : Nat) (r : RegSet) : RepSeq := ⟨2, 0, [w], count, 0, 0, 0, 0, 0, 6, r, 0⟩
def repeating (r : RepSeq) (x : Strand) : State :=
  { onStrand x with cores := [(9, { Core.init with strands := [(2, x)], rep := some r })] }
/-- `vadd.b32 v1, v2, v3`. -/
def vaddWord : BitVec 96 := (encode (.vadd g0 .b32 (.v 1) (.v 2) (.v 3))).getD 0
/-- `vld v1, [s3]`. -/
def vldWord : BitVec 96 := (encode (.vld g0 (.v 1) ⟨.s 3, 0⟩)).getD 0
/-- s3 lies past the local store. -/
def farRegs : RegSet := RegSet.zero.setS 3 ⟨0x6000, false⟩

/-- O27. -/
theorem witness_repeat : keeper.cur.pos = 6 ∧ small.cur.pos ≠ 6 ∧ small.guardTrue ⟨2, false⟩ = false ∧
    small.guardTrue g0 = true ∧ (small.core 9).rep = none ∧
    ((repeating (seqOf vaddWord 3 RegSet.zero) running).core 9).rep.isSome = true ∧
    (repeating (seqOf vaddWord 3 RegSet.zero) running).guardTrue g0 = true ∧
    Clear small g0 { strandOnly := true } ∧ Clear small g0 { use := { dst := chS (.s 5) }, strandOnly := true } ∧
    Clear (repeating (seqOf vaddWord 3 RegSet.zero) running) g0 { strandOnly := true } := by
  and_intros <;> first | exact clear_of (by decide +kernel) | decide +kernel

/-- `bunpk.f32 v1, v2, s3`, of a register whose byte 0 names no format. -/
def bunpkWord : BitVec 96 := (encode (.bunpk g0 .f32 .rne false (.v 1) (.v 2) (.s 3))).getD 0
def badBlock : RegSet := RegSet.zero.setV 2 0xFF 0

/-- The view of a sequence of the strand at position 2 of core 9. -/
def seqView (r : RegSet) : View :=
  { regs := r, a := [], b := [], d := [], codebook := 0, cycle := 0, loc := locWord 9 2
    tmpl := Vector.replicate 8 Seg.zero }

/-- O27: an instruction of the sequence that gives effects, one that traps while its owner runs, and a last iteration. -/
theorem witness_sequence :
    ((repeating (seqOf vaddWord 3 RegSet.zero) running).core 9).rep = some (seqOf vaddWord 3 RegSet.zero) ∧
    ((repeating (seqOf vaddWord 3 RegSet.zero) running).strand 9 2).st = .run ∧
    ((seqOf vaddWord 3 RegSet.zero).instr 0 0).any (fun x => (x.2 (seqView RegSet.zero)).isOk) = true ∧
    ((seqOf bunpkWord 3 badBlock).instr 0 0).any (fun x => !(x.2 (seqView badBlock)).isOk) = true ∧
    (seqOf vaddWord 0 RegSet.zero).count ≤ (seqOf vaddWord 0 RegSet.zero).iter := by
  and_intros <;> first | exact clear_of (by decide +kernel) | decide +kernel

/-! Global accesses, atomics, ordering, messages -/

def g8 : GMem := ⟨2, .s 6, 8, 7⟩
/-- g2 covers 4,096 bytes from 0x10000 with every right. -/
def segRegs : RegSet := { RegSet.zero with g := (Vector.replicate 8 Seg.zero).set 2 ⟨0x10000, 4096, 31⟩ }

/-- O28, O29 and O30: the forms, an address inside its segment and aligned, and one outside. -/
theorem witness_global : Clear small g0 (formGld (.s 5) g8) ∧ Clear small g0 (formGvld (.v 1) g8) ∧
    Clear small g0 (formGst (.s 5) g8) ∧ Clear small g0 (formGvst (.v 1) g8) ∧ Clear small g0 (formG g8) ∧
    Clear small g0 (formAtom (.s 5) g8 (.s 7) false) ∧ Clear small g0 (formAtom (.s 5) g8 (.s 7) true) ∧
    Clear small g0 (formMwait (.p 2) g8 (.s 7)) ∧ Clear small g0 (formCpin (.p 2) g8) ∧ g8.len.toNat + 1 ≤ 8 := by
  and_intros <;> first | exact clear_of (by decide +kernel) | decide +kernel
theorem witness_inSegment : InSegment (withRegs segRegs).regs.g[2] [0, 1, 2] 8 8 ∧
    InSegment (withRegs segRegs).regs.g[2] [0] 4088 8 ∧ ¬ InSegment (withRegs segRegs).regs.g[2] [0] 4089 8 ∧
    (0x10000 + 8) % 8 = 0 ∧ (0x10000 + 9) % 8 ≠ 0 := by
  unfold InSegment
  decide +kernel

/-- O31. -/
theorem witness_ordering : Clear small g0 {} ∧ Scope.dev ≠ .co ∧ Scope.dev ≠ .cl := ⟨clear_of (by decide +kernel), by decide +kernel⟩

/-- A flit that stands at its destination. -/
def flitTo (die stop vc : Nat) (m : Msg) : Flit :=
  { id := 7, sdie := 0, sstop := 0, ddie := die, dstop := stop, die := die, lsrc := 0, ldst := stop, vc := vc, vd := 0
    gti := 5, cluster := 0, inc := 0, stage := .ejected, age := 7, leg := 7, msg := m }
def onNet (f : Flit) (s : State) : State := { s with net := [f], nextId := 8 }
/-- The image of a context, and a cluster 0 that holds it under tag 0. -/
def img1 : CtxImage := { CtxImage.none with asid := 1 }
def ctx1 : Ctx := { Ctx.init with loaded := true, img := img1 }
def holding (s : State) : State := { s with clusters := [(0, { Cluster.init with ctxs := [(0, ctx1)] })] }

/-- O32: the forms, a remote access that its porter can do with and without a context, HRET in a message handler. -/
theorem witness_message : Clear small g0 (formAmsg (.s 5) (.s 6) (.s 7)) ∧ Clear small g0 (formRld (.s 5) (.s 6) (.s 7)) ∧
    Clear small g0 (formRst (.s 5) (.s 6) (.s 7)) ∧ Clear small g0 { use := { dst := chS (.s 5) }, strandOnly := true } ∧
    small.cur.pos < 6 ∧ Clear small g0 (formChlim (.imm 1000)) ∧ Clear keeper g0 { level := 1 } ∧
    Clear (onPorter .message false trappedStrand) g0 { level := 1 } ∧
    ((onPorter .message false trappedStrand).porter 9).cur.map (·.kind) = some .message := by
  and_intros <;> first | exact clear_of (by decide +kernel) | decide +kernel
theorem witness_remote :
    let m : Msg := .remote .rst 9 64 5 9 2 3 img1
    let f := flitTo 0 0 vcMSG m
    (onNet f (holding small)).flit? 7 = some f ∧ (onNet f (holding small)).builtinReady 9 = true ∧
    (onNet f (holding small)).findSpace (clusterOf 9) img1.vd img1.asid ≠ none ∧
    (onNet f small).flit? 7 = some f ∧ (onNet f small).builtinReady 9 = true ∧
    (onNet f small).findSpace (clusterOf 9) img1.vd img1.asid = none := by decide +kernel

/-! Barriers, tasks, regions, jobs -/

def barForm1 : Form := { strandOnly := true, reports := true, tracked := false }
/-- A crew strand and the barrier unit of its crew of two. -/
def crewStrand : Strand := { running with member := .crew 1 0 0 0 }
def unit2 : BarUnit := { BarUnit.init with used := true, launch := 1, live := 2 }
def crewState (x : Strand) (u : BarUnit) : State :=
  { onStrand x with clusters := [(0, { Cluster.init with bars := [(0, u)] })] }

/-- O33: alone, the first of two, the last of two, and an arrival for a phase that is over. -/
theorem witness_barrier : Clear small g0 barForm1 ∧ small.cur.pos < 6 ∧ small.unitOf 9 2 = none ∧
    Clear (crewState crewStrand unit2) g0 barForm1 ∧ (crewState crewStrand unit2).unitOf 9 2 = some (0, unit2) ∧
    Clear (crewState crewStrand { unit2 with count := 1 }) g0 barForm1 ∧
    Clear (crewState { crewStrand with gen := true } unit2) g0 barForm1 ∧
    (crewState { crewStrand with gen := true } unit2).unitOf 9 2 = some (0, unit2) ∧
    Clear (crewState crewStrand { unit2 with live := 1 }) g0 barForm1 := by
  and_intros <;> first | exact clear_of (by decide +kernel) | decide +kernel

/-- O34: the forms; the ends of a crew strand, a strand without a counter, and one with a counter. -/
theorem witness_task : Clear small g0 (formSpawn (.p 2) (.v 1) (.s 5)) ∧ Clear small g0 (formJoin (.p 2) g8) ∧
    Clear small g0 (formCard (.s 5) g8) ∧ Clear small g0 { strandOnly := true, reports := true } ∧ small.cur.pos < 6 ∧
    (small.strand 9 2).join = 0 ∧
    Clear (onStrand { running with join := 64, member := .pool 1 }) g0 { strandOnly := true, reports := true } ∧
    ((onStrand { running with join := 64, member := .pool 1 }).strand 9 2).joined = false ∧
    Clear (crewState crewStrand unit2) g0 { strandOnly := true, reports := true } := by
  and_intros <;> first | exact clear_of (by decide +kernel) | decide +kernel

/-- A region of the strand of core 9, in slot 3 of die 0. -/
def slot3 : RegSlot := ⟨9, 2, 0, 40, .s 5, RegSet.zero, 0, false, false⟩
def regionState (k : RegSlot) (x : Strand) (r : Rou) : State :=
  { onStrand x with dies := [(0, { Die.init with rou := { r with slots := [(3, k)] } })] }
def inRegion : Strand := { running with region := some 3 }

/-- O35: outside a region and inside one, and a region that aborts. -/
theorem witness_region : Clear small g0 { strandOnly := true } ∧ small.cur.pos < 6 ∧ (small.strand 9 2).region = none ∧
    Clear (regionState slot3 inRegion Rou.init) g0 { strandOnly := true } ∧
    ((regionState slot3 inRegion Rou.init).strand 9 2).region = some 3 ∧
    mapGet? ((regionState slot3 inRegion Rou.init).rou 0).slots 3 = some slot3 ∧
    mapGet? (small.rou 0).slots 0 = none ∧ slotDepth ((regionState slot3 inRegion Rou.init).rou 0) 3 < 8 ∧
    Clear small g0 { use := { dst := chS (.s 5) }, strandOnly := true } ∧ slot3.pos < 6 ∧ dieOf slot3.core = 0 ∧
    ((regionState slot3 inRegion Rou.init).rou 0).f = [] := by
  and_intros <;> first | exact clear_of (by decide +kernel) | decide +kernel

/-- A cluster 0 whose slot 0 holds a job, and a strand whose s6 is its handle. -/
def jobIn (j : Job) : State :=
  { withRegs (RegSet.zero.setS 6 ⟨jobHandle 0 0 j.serial, false⟩) with
    clusters := [(0, { Cluster.init with jobs := [(0, j)] })] }
def job1 (st : JobState) : Job := { Job.init with st := st, serial := 1, card := List.replicate 24 0, status := 1 }

/-- O36: a stale handle; a job that waits, runs, has stopped, has finished, and one that is to be cancelled. -/
theorem witness_job : Clear small g0 (formHandle (.s 5) (.s 6)) ∧ (small.job 0 0).st = .free ∧
    Clear (jobIn (job1 .waiting)) g0 (formHandle (.s 5) (.s 6)) ∧
    ((jobIn (job1 .waiting)).regs.getS 6).v = BitVec.ofNat 64 (0 * 2 ^ 20 + 1 * 2 ^ 6 + 0) ∧
    (jobIn (job1 .waiting)).job 0 0 = job1 .waiting ∧ (job1 .waiting).vd = (jobIn (job1 .waiting)).curVd ∧
    (job1 .waiting).unfinished = true ∧ (job1 .waiting).ending = none ∧
    (jobIn { job1 .stopped with delivered := true }).job 0 0 = { job1 .stopped with delivered := true } ∧
    (job1 .done).finishedSt = true ∧ (job1 .done).status = 1 ∧
    (jobIn { job1 .error with status := 0x8002 }).job 0 0 = { job1 .error with status := 0x8002 } ∧
    (poisonS6.regs.getS 6).p = true ∧ Clear poisonS6 g0 (formHandle (.s 5) (.s 6)) := by
  and_intros <;> first | exact clear_of (by decide +kernel) | decide +kernel

/-! System instructions -/

/-- O37: TRAP on a strand and in porter code, KRET in each kind of entry. -/
theorem witness_trap : Clear small g0 {} ∧ small.cur.pos ≠ 6 ∧ Clear keeper g0 {} ∧ keeper.cur.pos = 6 ∧
    Clear keeper g0 { level := 1 } ∧ (keeper.porter 9).cur.map (·.kind) = some (.trap 2) ∧
    Clear (onPorter (.notice 0) false trappedStrand) g0 { level := 1 } ∧
    Clear (onPorter (.landlord {cause := 1}) true trappedStrand) g0 { level := 1 } ∧
    Clear (onPorter .preK false trappedStrand) g0 { level := 1 } := by
  and_intros <;> first | exact clear_of (by decide +kernel) | decide +kernel

/-- The keeper of `keeper` with s3 = 2, the position of its strand. -/
def keeperAt : State := keeper.setRegs (RegSet.zero.setS 3 ⟨2, false⟩)

/-- O38: every kind of selector is legal at position 2; position 0 is not. -/
theorem witness_strandState : Clear keeperAt g0 (formSread (.s 5) (.s 3) 5) ∧ Clear keeperAt g0 (formSread (.v 1) (.s 3) 0x20) ∧
    Clear keeperAt g0 (formSwrite (.s 5) (.s 3) 5) ∧ Clear keeperAt g0 (formSwrite (.v 1) (.s 3) 0x20) ∧
    Clear keeperAt g0 (formSwrite (.s 5) (.s 3) 0x55) ∧
    (keeperAt.regs.getS 3) = ⟨2, false⟩ ∧ (keeperAt.strand 9 2).st = .trapped ∧ (keeperAt.strand 9 0).st = .idle := by
  and_intros <;> first | exact clear_of (by decide +kernel) | decide +kernel

/-- The landlord's entry. -/
def landlord : State := onPorter .preL true trappedStrand

/-- O39 and O40: K and L registers, an index in range and one past it. -/
theorem witness_sysr : Clear keeper g0 (formSysr 0x10 (.s 5) (.s 0)) ∧ Clear keeper g0 (formSysw 0x10 (.s 5) (.s 0)) ∧
    Clear landlord g0 (formSysr 0x51 (.s 5) (.s 0)) ∧ Clear landlord g0 (formSysw 0x51 (.s 5) (.s 0)) ∧
    (keeper.regs.getS 0) = ⟨0, false⟩ ∧ keeper.tag = 0 ∧ keeper.curVd = 0 ∧ keeper.level = .k ∧ landlord.level = .l ∧
    Clear landlord g0 (formSysr 0x30 (.s 5) (.s 0)) ∧ Clear landlord g0 (formSysw 0x31 (.s 5) (.s 0)) ∧
    Clear landlord g0 (formSysw 0x60 (.s 5) (.s 0)) ∧ (landlord.cluster 0).unacked = [] := by
  and_intros <;> first | exact clear_of (by decide +kernel) | decide +kernel

/-- O41. -/
theorem witness_page : Clear keeper g0 (formTlbinv (.s 5) (.s 6) (.s 7)) ∧ Clear keeper g0 (formLres (.p 2) (.s 6) (.s 7)) ∧
    Clear keeper g0 (formLmove (.s 5) (.s 6)) ∧ (2 : BitVec 16).toNat < 3 ∧ (7 : BitVec 16).toNat < 8 := by
  and_intros <;> first | exact clear_of (by decide +kernel) | decide +kernel

/-- O42. -/
theorem witness_stop : Clear keeper g0 (formGti (.s 5) (.s 6)) ∧ (∀ e < 8, (keeper.die e).stops.length < 64) ∧
    Once keeper 9 2 ∧ (keeper.strand 9 2).gti = 0 ∧ Clear small g0 (formD (.s 5)) ∧ Clear keeper g0 (formCtrw (.s 5)) ∧
    Clear small g0 {} :=
  ⟨clear_of (by decide +kernel), by decide +kernel, ⟨by decide +kernel, by decide +kernel⟩, by decide +kernel, clear_of (by decide +kernel), clear_of (by decide +kernel),
    clear_of (by decide +kernel)⟩

/-! Events -/

/-- O43: a flit waits at stop 0 of die 0; whether a loop takes it is the part's loop map (log 5). -/
theorem witness_injection (h : loopMap 0 0 5 = true) (k : loopMap 0 7 5 = true) :
    let f : Flit := { flitTo 0 7 vcRSP (.probe 9 2 0) with stage := .queued, age := 3 }
    let s := onNet f small
    ((s.entriesOf 0 0).filter fun f => f.stage = .queued).filter (s.placeable 5) = [f] := by
  have e : (State.entriesOf (onNet { flitTo 0 7 vcRSP (.probe 9 2 0) with stage := .queued, age := 3 } small) 0 0) =
      [{ flitTo 0 7 vcRSP (.probe 9 2 0) with stage := .queued, age := 3 }] := by decide +kernel
  show List.filter _ (List.filter _ (State.entriesOf _ 0 0)) = _
  rw [e]
  simp [State.placeable, Flit.mayUse, Flit.before, flitTo, vcOrdered, vcRSP, h, k]
/-- O43: an arrival, an aging slot's arrival, a flit that is taken back, and landed ones. -/
theorem witness_corridor :
    let f (st : Stage) : Flit := { flitTo 0 7 vcRSP (.probe 9 2 0) with stage := st }
    (∀ st ∈ [Stage.slot 5 1 0 false, .slot 5 1 3 false, .slot 5 16 0 true, .slot 5 1 4 false],
      f st ∈ (onNet (f st) small).net ∧ (f st).die = 0 ∧
      ∀ g ∈ (onNet (f st) small).net, g.die = 0 → g = f st) ∧
    (onNet (f .landed) small).landedAt 0 7 vcRSP .landed = [f .landed] ∧
    (onNet (f .agingBuf) small).landedAt 0 7 vcRSP .agingBuf = [f .agingBuf] ∧ small.net = [] ∧ 64 * 0 + 16 % 16 = 0 := by
  decide +kernel

def fill (vd : Nat) (served free : Bool) : HbmReq := ⟨vd, 0, .phys, 0, 0, 1, none, free, served⟩
def hbmState (l : List HbmReq) (w : Word) : State :=
  { small with dies := [(0, { Die.init with hbm := l, weight := [(1, w)] })] }

/-- O44: a request that its bucket pays for, one that it does not, one that has been served, and a bucket. -/
theorem witness_hbm :
    (∃ r ∈ ((hbmState [fill 1 false false] 0x00100004000F0000).die 0).hbm, r.served = false ∧ r.bursts ≤ 0xF) ∧
    (∃ r ∈ ((hbmState [fill 1 false false] 0).die 0).hbm, r.served = false ∧ r.free = false ∧ 0 < r.bursts ∧ r.vd = 1) ∧
    ((hbmState [fill 1 true false] 0).die 0).hbm[0]? = some (fill 1 true false) ∧
    setHas (hbmState [fill 1 true false] 0).badBursts 0 = false ∧
    mapGet? ((hbmState [] 0x00100004000F0000).die 0).weight 1 ≠ none := by decide +kernel

/-- A strand whose access waits for one reply. -/
def access (act : GAct) (n : Nat) : Op := ⟨4, act, 0x10000, n, [], [], [], 1, true, 0, none, [], 0, false, 0, 0, false⟩
def waitingFor (o : Op) : Strand := { running with st := .waitMem, wait := .reply, op := some { o with sent := false } }
def leaf1 : Leaf := ⟨0x10000, 0, false, false, 0, false, .release, true, true, true, 0⟩
def req1 (k : HKind) : HReq := ⟨k, 9, 2, 4, .phys, 0x10000, 8, [], leaf1, 0, 0, none, true⟩
def replyState (act : GAct) (m : Msg) : State := onNet (flitTo 0 0 vcRSP m) (onStrand (waitingFor (access act 8)))

/-- O45: a reply of the present incarnation and one of an older, and the forms of answers. -/
theorem witness_reply :
    (∀ m ∈ [Msg.ack 9 2 4 5 false false none, .ack 9 2 4 5 false true none, .rsp (req1 .read) .ok 0 (List.replicate 8 ⟨1, false⟩),
        .rsp (req1 .write) .ok 0 [], .rsp (req1 (.atom .add 0)) .ok 7 [], .rsp (req1 (.atom .add 0)) .poisonSync 0 []],
      (replyState .store m).flit? 7 = some (flitTo 0 0 vcRSP m)) ∧
    (replyState .store (.ack 9 2 4 5 false false none)).opOf 9 2 = some { access .store 8 with sent := false } ∧
    (access .store 8).left = 1 ∧ (access .store 8).bad = 0 ∧ (access .store 8).pieces = [] ∧
    ((replyState .store (.ack 9 2 4 5 false false none)).cluster 0).inc = 0 ∧
    bindsAct (.load (.scalar (.s 5) false)) = true ∧ (req1 .read).off + (req1 .read).len ≤ 8 ∧
    (flitTo 0 0 vcRSP (.ack 9 2 4 5 false false none)).inc ≠ (1 : BitVec 8) := by decide +kernel

/-- A launch record of 64 bytes that names die 0, on virtual device 0. -/
def launchOp (bytes : List PByte) : Op :=
  { access (.launch (.s 5)) bytes.length with got := (List.range bytes.length).map fun j => (j, bytes.getD j ⟨0, false⟩) }
/-- O46: a record and a card that have been read whole, clean and poisoned. -/
theorem witness_record :
    let o := launchOp (List.replicate 64 ⟨0, false⟩)
    let s := onNet (flitTo 0 0 vcRSP (.ack 9 2 4 0 false false none)) (onStrand { running with op := some { o with sent := false } })
    s.opOf 9 2 = some { o with sent := false } ∧ (∀ j < o.len, (mapGet? o.got j).isSome = true) ∧ o.bytes.any (·.p) = false ∧
    (launchOp (List.replicate 64 ⟨0, true⟩)).bytes.any (·.p) = true ∧
    freeJobSlot Cluster.init = some 0 ∧ lInvalid (wordsOfBytes o.bytes) = true ∧
    s.flit? 7 = some (flitTo 0 0 vcRSP (.ack 9 2 4 0 false false none)) := by decide +kernel

/-- A request at the home slice 5 of die 0. -/
def homeFlit (k : HKind) : Flit := flitTo 0 517 vcREQ (.req (req1 k))
def ext1 : HExt := ⟨.phys, 0x10000, List.replicate 8 ⟨1, false⟩, .v, false, 0, leaf1, 0, 0, false, 0⟩
def atHome (k : HKind) (x : Slice) : State := { onNet (homeFlit k) small with slices := [(5, x)] }

/-- O47: an old incarnation at each end of its range, a purged page, bytes that are present and absent, a watch. -/
theorem witness_home :
    (atHome .read Slice.init).flit? 7 = some (homeFlit .read) ∧ (homeFlit .read).msg = .req (req1 .read) ∧
    ((1 : BitVec 8) - 0).toNat = 1 ∧ ((127 : BitVec 8) - 0).toNat = 127 ∧
    (∃ t ∈ [(⟨.phys, 256, 1, 0⟩ : Tomb)], t.sp = (req1 .read).sp ∧ t.bay ≤ (req1 .read).addr / 256 ∧
      (req1 .read).addr / 256 < t.bay + t.n) ∧
    (atHome .read { Slice.init with exts := [ext1] }).mustWait (homeFlit .read) (req1 .read) = false ∧
    (atHome .read { Slice.init with exts := [ext1] }).absentAt 5 .phys leaf1 0x10000 8 = [] ∧
    (atHome .read Slice.init).absentAt 5 .phys leaf1 0x10000 8 ≠ [] ∧
    (∀ a ∈ (atHome .read Slice.init).absentAt 5 .phys leaf1 0x10000 8, (atHome .read Slice.init).filling 5 .phys a = false) ∧
    (req1 (.mwait 5 0)).region = none := by decide +kernel

/-- O48: an invalidation, an owner, a combine list, a walk, a tombstone, a broadcast, a fired watch, a held result. -/
theorem witness_homeEvents :
    (onNet (flitTo 0 0 vcCOH (.inval 5 .phys 0x10000 8)) small).flit? 7 =
      some (flitTo 0 0 vcCOH (.inval 5 .phys 0x10000 8)) ∧
    ready (atHome .read Slice.init) (homeFlit .read) = true ∧ overlaps 0x10000 8 0x10000 8 = true ∧
    (([⟨9, 2, 4, 0, 0, none⟩] : List Walk)[0]?) = some ⟨9, 2, 4, 0, 0, none⟩ ∧
    setHas ({ Cluster.init with unacked := [5] } : Cluster).unacked 5 = true ∧
    (([⟨9, 2, 4, .phys, 0x10000, 5, some true⟩] : List Watch)[0]?).map (·.fired) = some (some true) ∧
    (onStrand { running with st := .waitMem, wait := .result [.s 5 3 false] }).waitOf 9 2 = .result [.s 5 3 false] ∧
    ([Eff.s 5 3 false].all fun e => !isLs e) = true := by decide +kernel

/-- The porter of core 9 with work. -/
def porterWork (q : Porter) (x : Strand) : State :=
  { onStrand x with cores := [(9, { Core.init with strands := [(2, x)], porter := q })] }

/-- O49: a trap, a notice, a death, a message, a landlord's entry and a machine check to come. -/
theorem witness_porter :
    (∀ e ∈ [EntryKind.trap 2, .notice 0, .death 0 1 64],
      (porterWork { Porter.init with queue := [e] } trappedStrand).porterFree 9 = true) ∧
    (porterWork { Porter.init with msgs := [⟨0, 1, 2, 3, 4, 5⟩] } trappedStrand).porterFree 9 = true ∧
    ((porterWork { Porter.init with queue := [.trap 2] } trappedStrand).handler 9 0 false 1).1 = none ∧
    ((porterWork { Porter.init with
      cur := some ⟨.trap 2, false, 0, 0⟩, queue := [.landlord { cause := 1 }] } trappedStrand).porter 9).queue =
      [.landlord { cause := 1 }] ∧
    ((porterWork { Porter.init with
      cur := some ⟨.preL, true, 0, 0⟩, queue := [.landlord { cause := 1 }] } trappedStrand).porter 9).cur.map (·.landlord) =
      some true := by decide +kernel

/-- O50: a replay that is due, a death, a filter entry, a notice, a bad burst, a scrub that runs and none. -/
theorem witness_replay :
    let e : LogEntry := ⟨5, 9, 2, 0, false, .store, 0x10000, [⟨1, false⟩], 0, none, 0⟩
    let s : State := { small with clusters := [(0, { Cluster.init with log := [(0, e)] })] }
    s.replayDue 0 0 = some e ∧ (s.translate 9 0 0 false .store 0x10000).1 = .error 5 ∧
    ((onStrand { running with dying := some (7, 1) }).strand 9 2).dying = some (7, 1) ∧
    ((onStrand { running with dying := some (7, 1) }).die 0).filter.length < 64 ∧ small.draining 0 8 = false ∧
    small.porch.notices.any (fun _ => true) = false ∧ (∀ k < 8, (small.die k).scrub = none) ∧
    setHas ({ small with badBursts := [0] } : State).badBursts 0 = true ∧
    (({ small with dies := [(0, { Die.init with scrub := some 3 })] } : State).die 0).scrub = some 3 := by decide +kernel

/-- A pool strand of launch 1, its cluster and its launch. -/
def poolStrand : Strand := { Strand.init with member := .pool 1 }
def launch1 : Launch := ⟨0, img1, 0, 0, none, true, 100, 0, 1, 0, false, false⟩
def task1 (prio time : Nat) : Task := ⟨prio, time, 0, 40, 0, 0, 0, 5, 0, time, 0, none⟩
def poolState (q : List Task) : State :=
  { onStrand poolStrand with
    cycle := 0x20000, clusters := [(0, { Cluster.init with ctxs := [(0, ctx1)], queue := q })]
    porch := { Porch.init with step := 7, launches := [(1, launch1)] } }

/-- O51: a pop, a record that ages, a spilled record, a spawn, a hungry cluster, a victim, a retry. -/
theorem witness_tasks :
    let s := poolState [task1 1 0, task1 2 1]
    (s.strand 9 2).member = .pool 1 ∧ (s.strand 9 2).st = .idle ∧ s.coreOpen 9 = true ∧
    mapGet? s.porch.launches 1 = some launch1 ∧ s.leaseAllows 0 = true ∧ (s.ctx 0 0).loaded = true ∧
    (s.ctx 0 0).img.vd = 0 ∧ (task1 1 0).prio < (task1 2 1).prio ∧ (task1 1 0).since + 65536 ≤ s.cycle ∧
    (∀ c ∈ coresOf 0, ∀ p < 6, s.waitOf c p ≠ .queue) ∧ 0 < queueRoom (s.cluster 0) ∧
    s.findCtx 0 img1 = some 0 ∧ s.builtinReady 9 = true ∧ (poolState []).hungry 0 0 = true ∧
    (poolState []).neighbours 0 0 ≠ [] ∧ (0 : Nat) + 0 ≤ s.cycle := by decide +kernel

/-- O52: a pool strand at its limit, a launch to close, with and without a counter, and one that may migrate. -/
theorem witness_pool :
    let s := poolState []
    launch1.idle ≠ 0 ∧ (s.strand 9 2).idleSince + launch1.idle ≤ s.cycle ∧ launch1.pool = true ∧ launch1.toPlace = 0 ∧
    (s.loadCtx 0 img1).map (·.1) = some 0 ∧ small.crewCores 0 1 1 CtxImage.none ≠ none ∧
    (onStrand { running with member := .pool 1, remote := 5000, target := 1 }).mayMigrate 9 2 = true := by decide +kernel

/-- O53: a message that is dead, has no context, waits, or is handled; a wait that ends or times out; a breakpoint; a
completed barrier and the last arrival of a band. -/
theorem witness_arrivals :
    let m : Msg := .amsg 9 1 2 3 4 img1
    let f := flitTo 0 0 vcMSG m
    let s := onNet f (holding small)
    s.flit? 7 = some f ∧ s.findCtx (clusterOf 9) img1 = some 0 ∧ (onNet f small).findCtx (clusterOf 9) img1 = none ∧
    s.builtinReady 9 = true ∧ (s.core 9).saved = none ∧ (s.porter 9).msgs = [] ∧
    ((onStrand { running with st := .waitMsg, wait := .channel 0 none none none none }).chNotReady 9 0 none none none none) =
      none ∧
    (small.chNotReady 9 0 (some (1, 1)) none none none) = some (1, false) ∧
    ({ small with porch := { small.porch with brk := [(0, 0x8000000000000000)] } } : State).brkHit 9 2 = true ∧
    (let t := crewState { crewStrand with st := .waitMsg, wait := .barrier, gen := true } { unit2 with live := 1, count := 1 };
      t.unitOf 9 2 = some (0, { unit2 with live := 1, count := 1 }) ∧
      ({ unit2 with live := 1, count := 1 } : BarUnit).bandFull = false) ∧
    (let b := flitTo 0 609 vcSYS (.bandArrive 1 0 0);
      (onNet b { small with dies := [(0, { Die.init with bands := [(0, ⟨1, 0, [0], []⟩)] })] }).flit? 7 = some b) := by
  decide +kernel

/-- O54: an edge between two regions, one that closes a cycle, a commit, an abort of a strand that is gone, and jobs. -/
theorem witness_regionEvents :
    closes [] 4 3 = false ∧ closes [(4, 3)] 4 3 = true ∧
    ({ slot3 with fre := true } : RegSlot).fre = true ∧
    (regionState { slot3 with fre := true } { inRegion with st := .waitMsg, wait := .fre } Rou.init).rou 0 =
      { Rou.init with slots := [(3, { slot3 with fre := true })] } ∧
    ((regionState slot3 running Rou.init).strand 9 2).region ≠ some 3 ∧
    (jobIn (job1 .waiting)).leaseAllows (job1 .waiting).vd = true ∧ (job1 .waiting).preds = [] ∧
    (job1 .waiting).engine ≠ 4 ∧ ((jobIn (job1 .waiting)).cluster 0).jobs = [(0, job1 .waiting)] ∧
    (jobIn (job1 .running)).jobTurn 0 0 = true ∧
    ({ job1 .running with ending := some (.done, 1) } : Job).ending = some (.done, 1) := by decide +kernel

/-- O55: a window with a slot to take, a ring with room, host accesses before and after bring-up, a held unit, a request
of this device and one of a peer. -/
theorem witness_host :
    let v : Vf := { Vf.init with tail := 1, cbase := 64, csize := 4, pend := [[1]] }
    let s : State := { small with porch := { small.porch with vfs := [(0, v)], held := [4] } }
    (s.vf 0).head ≠ (s.vf 0).tail ∧ s.porch.step = 7 ∧ (s.vf 0).cbase ≠ 0 ∧ ((s.vf 0).ctail + 1) % 4 ≠ (s.vf 0).chead ∧
    setHas s.porch.held 4 = true ∧ (unitsOf 0x10000 64).all (fun u => populated (64 * u)) = true ∧
    s.hostWaits 0x10000 64 false = false ∧ State.reset.porch.step < 7 ∧
    (let f := flitTo 8 0 vcREQ (.host { req1 .read with addr := 2 ^ 44 });
      (onNet f s).flit? 7 = some f ∧ paSpace (2 ^ 44) = 1) ∧
    mapGet? s.porch.admits 3 = none := by decide +kernel

/-- O56: a core that has dropped records, one with a record, a request, a slice to start and one to end. -/
theorem witness_trace :
    (0 < (1 : Nat) ∧ ([] : List Stamp).length < 16) ∧
    (let l : Lease := ⟨[(1, 0x0002000000000064)], [1], none, 0, 0, [], []⟩;
      let s : State := { small with porch := { small.porch with lease := l } };
      s.porch.lease.queue = [1] ∧ (mapGet 0 s.porch.lease.words 1).extractLsb' 48 16 = 2 ∧ s.leaseCores 1 = [9] ∧
      s.othersInFlight 1 = false ∧ State.leaseCores { s with cores := [] } 1 = []) ∧
    (let l : Lease := ⟨[(1, 0x0002000000000064)], [1], some 1, 0, 0, [], []⟩;
      l.active = some 1 ∧ l.endAt ≤ 0) := by decide +kernel

/-- O57. -/
theorem witness_bringUp : State.reset.porch.halted = false ∧ State.reset.porch.step < 7 ∧
    lifeRank State.reset.porch.lifeCycle < lifeRank .secured ∧ lifeRank .manufacture ≤ lifeRank State.reset.porch.lifeCycle := by
  decide +kernel

/-- O60: a pre-emption asked for while a strand runs, one whose strands stand still, and a saved core. -/
theorem witness_preemption :
    let ask (x : Strand) : State :=
      { onStrand x with cores := [(9, { Core.init with strands := [(2, x)], preK := true })] }
    ((ask running).core 9).preK = true ∧ (ask running).still 9 2 false = false ∧
    ((ask running).strand 9 2).st = .run ∧ ((ask running).strand 9 2).op = none ∧
    (∀ p < 6, (ask { running with st := .stopped, stopBy := .preempt }).still 9 p false = true) ∧
    (ask { running with st := .stopped, stopBy := .preempt }).relBlocked 9 2 .dev = false ∧
    ((ask running).core 9).saved = none ∧
    (let t := (ask { running with st := .stopped, stopBy := .preempt }).saveCore 9 false 0;
      (t.core 9).saved.isSome = true ∧ (t.porter 9).cur = none) ∧
    populated 0x10000 = true ∧ (small.cluster 0).unacked = [] := by decide +kernel

/-! Single steps -/

def strandAfter (o : Result) : Option Strand :=
  match o with
  | .next t => some (t.strand 9 2)
  | _ => none

/-- `add s5, s6, 16` on s6 = 2^64 - 1 wraps to 15 (R223). -/
theorem test_add_wraps :
    (strandAfter (exec (.add g0 (.s 5) (.s 6) (.imm 16)) (withRegs (RegSet.zero.setS 6 ⟨BitVec.allOnes 64, false⟩)))).map
      (fun x => (x.regs.getS 5, x.regs.pc)) = some (⟨15, false⟩, 1) := by decide +kernel
/-- A poisoned source poisons the sum (R221). -/
theorem test_add_poison :
    (strandAfter (exec (.add g0 (.s 5) (.s 6) (.imm 16)) poisonS6)).map (fun x => (x.regs.getS 5).p) = some true := by
  decide +kernel
/-- 2.0 + 3.0 = 5.0 in FP32. -/
theorem test_fadd :
    (strandAfter (exec (.fadd g0 .f32 .rne false (.s 5) (.s 6) (.s 7))
      (withRegs ((RegSet.zero.setS 6 ⟨0x40000000, false⟩).setS 7 ⟨0x40400000, false⟩)))).map
      (fun x => x.regs.getS 5) = some ⟨0x40A00000, false⟩ := by decide +kernel
/-- KRET in strand code raises PRIV, and the strand stands TRAPPED (R157, R311). -/
theorem test_kret_priv :
    (strandAfter (exec (.kret g0 0) small)).map (fun x => (x.st, x.fault.fd0.extractLsb' 0 8, x.regs.pc)) =
      some (.trapped, 2, 0) := by decide +kernel
/-- A load past the local store raises LS_RANGE with its address (R85, R163). -/
theorem test_ld_range :
    (strandAfter (exec (.ld g0 ⟨false, 3⟩ (.s 5) ⟨.s 3, 0⟩) (withRegs (RegSet.zero.setS 3 ⟨0x5FF9, false⟩)))).map
      (fun x => (x.st, x.fault.fd0.extractLsb' 0 8, x.fault.fd2)) = some (.trapped, 4, 0x5FF9) := by decide +kernel
/-- A power-good whose step 1 fails halts the part there (R408). -/
theorem test_bringUp :
    (match exec (.powerGood true true 1 0) State.reset with
      | .next t => some (t.porch.step, t.porch.halted)
      | _ => none) = some (0, true) := by decide +kernel
/-- KRET 0 returns a trapped strand to RUN (R311). -/
theorem test_kret : (strandAfter (exec (.kret g0 0) keeper)).map (·.st) = some .run := by decide +kernel

/-! More witnesses -/

/-- The agenda, the upsets and a halted part. -/
theorem witness_beside :
    small.porch.halted = false ∧ small.upsets = [] ∧ small.nextEvent = none ∧ small.pick = some ⟨9, 2⟩ ∧ small.short = none ∧
    isSideDoor .moduleDescriptorRead = true := by decide +kernel

/-- FENCE, REL and the ends of a task: nothing logged, held or short. -/
theorem witness_release : small.hasEntries 9 2 = false ∧ small.fenceBlocked 9 2 .dev = false ∧
    small.relBlocked 9 2 .dev = false ∧ small.relOver 9 2 .dev = none ∧ (small.fenceActs 9 2 .dev).short = none := by
  decide +kernel

/-- Bytes of a cluster cache and of a home that an error can reach, and some that it cannot. -/
def dirty1 : CExt := ⟨.phys, 0x10000, List.replicate 8 ⟨1, false⟩, .d 0 none, leaf1, 0, 0⟩
theorem witness_array :
    (let l := (({ small with clusters := [(0, { Cluster.init with cache := [dirty1] })] } : State).cluster 0).cache;
      dirty1 ∈ l ∧ dirty1.st ≠ .c ∧ dirty1.sp = .phys ∧ dirty1.sp ≠ .loft 0) ∧
    { ext1 with st := .m } ∈ ((atHome .read { Slice.init with exts := [ext1, { ext1 with st := .m }] }).slice 5).exts := by decide +kernel

/-- A fill whose data have come. -/
theorem witness_fill :
    let r := fill 1 true false
    let s := onNet (flitTo 0 512 vcRSP (.fill r)) (hbmState [r] 0)
    (∃ f ∈ s.net, f.sdie = 0 ∧ f.msg = .fill r ∧ ready s f = true) ∧ (s.die 0).hbm[0]? = some r := by decide +kernel

/-- A strand that may migrate, and an idle pool strand of die 1 to which it goes. -/
def moving : State :=
  let x : Strand := { running with member := .pool 1, remote := 5000, target := 1 }
  { small with
    cores := [(9, { Core.init with strands := [(2, x)] }), (8192, { Core.init with strands := [(0, poolStrand)] })]
    clusters := [(0, { Cluster.init with ctxs := [(0, ctx1)] }), (512, { Cluster.init with ctxs := [(0, ctx1)] })]
    porch := { small.porch with launches := [(1, launch1)] } }
theorem witness_migration : moving.mayMigrate 9 2 = true ∧ dieOf 8192 = 1 ∧
    (moving.migrationTarget 1 0 img1).isSome = true ∧ moving.releaseHeld 9 2 = false ∧
    (moving.releaseAll 9 2).short = none := by decide +kernel

/-- A region that may commit. -/
theorem witness_commit :
    let s := regionState { slot3 with fre := true } { inRegion with st := .waitMsg, wait := .fre } Rou.init
    (∀ e ∈ (s.rou 0).e, e.2 ≠ 3) ∧ s.commitHeld 0 3 = false ∧ (s.commitRegion 0 0 3).short = none := by decide +kernel

/-- A saved core: one whose keeper runs, one whose landlord has interrupted the keeper, and one to resume. -/
theorem witness_saved :
    let v : SavedCore := ⟨0, false, none, [], [], [], none, [], 0, [], [], 0, none⟩
    let s (v : SavedCore) (l : Bool) : State :=
      { small with cores := [(9, { Core.init with saved := some v, preL := l })] }
    ((s v true).core 9).saved = some v ∧ ((s v true).core 9).preL = true ∧ ((s v true).core 9).machine = false ∧
    ((s v true).core 9).porter.op = none ∧ ((s v true).core 9).porter.wait = .none ∧
    ((s { v with outer := some ⟨none, [], []⟩ } false).core 9).porter.cur = none ∧ ((s v false).core 9).ctxbuf = 0 ∧
    (∀ d ∈ (s v false).bandCores 9, (s v false).peerReady d = true) := by decide +kernel
/-- A core that can be saved. -/
theorem witness_save :
    let x : Strand := { running with st := .stopped, stopBy := .preempt }
    let s : State := { onStrand x with cores := [(9, { Core.init with strands := [(2, x)], preK := true })] }
    (((s.bandCores 9).foldl (fun s d => s.askPreempt d false) s).saveHeld 9) = false := by decide +kernel

/-! Completion -/

/-- CONTROL: a target in its space, and clean sources. -/
theorem witness_controlDone : (0 : Int) ≤ ((small.pc.extractLsb' 0 23).toNat : Int) + (5 : BitVec 32).toInt ∧
    ((small.pc.extractLsb' 0 23).toNat : Int) + (5 : BitVec 32).toInt < 2 ^ 23 ∧ (small.regs.getS 1).p = false ∧
    ((small.view (formLoop (.s 5)).use).s (small.view (formLoop (.s 5)).use).d (.s 5)).p = false := by decide +kernel

/-- A keeper whose space has a loft page at 0, and a reservation on die 1. -/
def paged : State :=
  { keeper with
    mem := memWriteList (memWriteList (memWriteList [] 0x10000 [1, 0, 2]) 0x20000 [1, 0, 3]) 0x30000 [0x47]
    clusters := [(0, { Cluster.init with ctxs := [(0, { ctx1 with root := 0x10000 })] })]
    dies := [(1, { Die.init with alloc := [(0, 0x0000000500000000)] })] }
theorem witness_pageDone : paged.curSpace.2.2 = 0x10000 ∧ Clear paged g0 (formTlbinv (.s 5) (.s 6) (.s 7)) ∧
    Clear paged g0 (formLres (.p 2) (.s 6) (.s 7)) ∧ Clear paged g0 (formLmove (.s 5) (.s 6)) ∧
    (∃ l, paged.walk 0x10000 0 = .ok l ∧ l.loft = true ∧ l.home = 0) ∧
    (mapGet 0 (paged.die 1).alloc 0).extractLsb' 32 15 ≠ 0 ∧
    (paged.slices.any fun y => y.2.regs.any fun r => (PageKey.mk (.loft 0) 0 65536).holds r.sp r.addr 8) = false ∧
    (oldLeaf 0x47).isSome = true ∧ paged.short = none :=
  ⟨by decide +kernel, clear_of (by decide +kernel), clear_of (by decide +kernel), clear_of (by decide +kernel),
    ⟨_, rfl, by decide +kernel⟩, by decide +kernel, by decide +kernel, by decide +kernel, by decide +kernel⟩

/-- Host accesses that nothing holds, and an inbound peer's. -/
theorem witness_hostDone :
    let v : Vf := { Vf.init with tail := 1, pend := [[1]] }
    let s : State := { small with porch := { small.porch with vfs := [(0, v)], admits := [(3, ⟨0x10000, 64, 0⟩)] } }
    s.short = none ∧ (s.vf 0).cbase = 0 ∧ (s.readHomes noCluster .phys (s.leafAt 0x10000) 0x10000 64).2.short = none ∧
    s.hostWaits 0x10000 64 true = false ∧ (s.physStore 0x10000 (List.replicate 64 ⟨1, false⟩)).short = none ∧
    s.blocked .phys (s.leafAt 0x10000) 0x10000 64 false = false ∧ (mapGet? s.porch.admits 3).isSome = true := by
  decide +kernel

/-- A trace record that can leave its core. -/
theorem witness_traceDone :
    let s : State := { small with cores := [(9, { Core.init with stamps := [⟨1, 0, 0, 0⟩] })] }
    s.traceHeld 0 = false ∧ (s.core 9).stamps = [⟨1, 0, 0, 0⟩] ∧ (s.die 0).trace.ctl.getLsbD 0 = false := by decide +kernel

/-! Witnesses for clauses over values, waits and the units -/

/-- O5: a halted part with an event that is no side-door request, and with none. -/
theorem witness_halted :
    let s : State := { small with porch := { small.porch with halted := true } }
    s.porch.halted = true ∧ s.agenda = [] ∧ isSideDoor (.vfReset 0) = false := by decide

/-- O16: a NaN, infinities, finite numbers, a zero, and what leads to a NaN. -/
theorem witness_fpExact : ETy.f16.isInt = false ∧ (fpDec (fmtOf .f16) 0x7E00).isNan = true ∧
    fpDec (fmtOf .f16) 0x7E00 = .nan false ∧ fpDec (fmtOf .f16) 0x7C00 = .inf false ∧ fpDec (fmtOf .f16) 0xFC00 = .inf true ∧
    fpDec (fmtOf .f16) 0x3C00 = .fin false 1024 (-10) ∧ fpDec (fmtOf .f16) 0 = .fin false 0 (-24) ∧
    (fpDec (fmtOf .f16) 0).isZero = true := by decide
/-- O16: pairs of formats, and values below, in and above the range of INT8. -/
theorem witness_fpConvert : ETy.b8.isInt = true ∧ ETy.f32.isInt = false ∧ ETy.b64.isInt = true ∧
    (2 : Int) ^ (tyBits .b8 - 1) = 128 ∧ fpDec (fmtOf .f16) 0xD900 = .fin true 1280 (-3) ∧
    fpDec (fmtOf .f16) 0x5900 = .fin false 1280 (-3) ∧ fpDec (fmtOf .f16) 0x3C00 = .fin false 1024 (-10) := by decide
/-- O21: an integer and one that is none, of both signs. -/
theorem witness_estimate : (worth false 1024 (-10) : ℚ) = (1 : ℤ) ∧ (∀ i : ℤ, (worth false 1 (-1) : ℚ) ≠ i) ∧
    fpDec (fmtOf .f16) 0x3800 = .fin false 1024 (-11) ∧ fpDec (fmtOf .f16) 0xB800 = .fin true 1024 (-11) := by
  refine ⟨by norm_num [worth], fun i h => ?_, by decide, by decide⟩
  have h2 : (1 : ℚ) = 2 * i := by
    have : (worth false 1 (-1) : ℚ) = 1 / 2 := by norm_num [worth]
    linarith
  have h3 : (1 : ℤ) = 2 * i := by exact_mod_cast h2
  omega

/-- O22 and O23: a poisoned result has no place in a channel. -/
theorem witness_channelResult : ¬ takesS (.ch 1) true ∧ ¬ takesV (.ch 1) 1 :=
  ⟨fun h => by simpa using h 1 rfl, fun h => by simpa using h 1 rfl⟩

/-- O23: K-groups with poison, with finite elements, with an infinity, with infinities of both signs, with a NaN. -/
theorem witness_dot :
    let one : FV := .fin false 1 0
    (.poison : Elem) ∈ [Elem.poison].take 16 ∧ [Elem.val one].take 16 = [one].map .val ∧
    [(one, one)] = [((false, 1, (0 : Int)), (false, 1, (0 : Int)))].map
      (fun y => (FV.fin y.1.1 y.1.2.1 y.1.2.2, FV.fin y.2.1 y.2.2.1 y.2.2.2)) ∧
    [Elem.val (.inf false), .val (.nan false)].take 16 = [FV.inf false, .nan false].map .val := by decide
/-- O23: places that parts fill, whole groups among them. -/
theorem witness_packing : 0 + ([Elem.poison] : List Elem).length ≤ blockCount 1 ∧ 0 + ([Elem.poison] : List Elem).length ≤ blockCount 6 ∧
    0 + ([Elem.poison] : List Elem).length ≤ blockCount 10 ∧ 16 + (List.replicate 16 (Elem.val (.inf true))).length ≤ blockCount 7 ∧
    (List.replicate 16 (Elem.val (.inf true))).length % 16 = 0 ∧ 16 % 16 = 0 := by decide
/-- O23: what BSCALE may meet: R with a flag, sums and shifts that fit and that do not, an exponent past the top. -/
theorem witness_scale :
    let fits (x : ℤ) : Prop := -2 ^ 63 ≤ x ∧ x < 2 ^ 63
    ((0x20000 : Word).getLsbD 17 = true) ∧ ((0x10000 : Word).getLsbD 16 = true) ∧ fits (1 * 2 ^ 3) ∧
    ¬ fits ((2 ^ 62 : ℤ) * 2 ^ 3) ∧ (2 ^ 3 : ℤ) ∣ 8 ∧ ¬ (2 ^ 3 : ℤ) ∣ 1 ∧ ¬ fits ((2 ^ 62 : ℤ) + 2 ^ 62) ∧
    ((0x7FFF : Word).extractLsb' 0 16).toInt = 32767 ∧ (fpDec fmt16 0x7C00) = .inf false ∧
    (fpDec fmt16 0x7E00).isNan = true := by decide
/-- O54: cards of each kind of copy, and the steps that open and continue a bag. -/
theorem witness_units :
    let card (x : Nat) : List Word := [BitVec.ofNat 64 x]
    ([0, 1] : List Nat).getD 0 0 = 0 ∧ ([1, 1] : List Nat).getD 0 0 ≠ 0 ∧
    (∃ x y, cardFmtA (card x) = cardFmtC (card x) ∧ cardFmtA (card y) ≠ cardFmtC (card y)) := by
  refine ⟨by decide, by decide, 0, 2 ^ 24, ?_⟩
  decide

/-- Flits that fill the room of stop 0 of die 0 on a channel. -/
def crowd (stop vc n : Nat) (s : State) : State :=
  { s with net := (List.range n).map fun j =>
      { flitTo 0 7 vc (.probe 9 2 0) with id := j, sstop := stop, lsrc := stop, stage := .queued, age := j } }
/-- O28 and O32: the queue of a cluster's stop has no room, or has it. -/
theorem witness_flitRoom :
    (crowd (stopOfCluster 0) vcREQ 12 small).entryFree 0 (stopOfCluster 0) vcREQ = false ∧
    (crowd (stopOfCluster 0) vcMSG 12 small).entryFree 0 (stopOfCluster 0) vcMSG = false ∧
    small.entryFree 0 (stopOfCluster 0) vcREQ = true ∧ small.inRegion = false ∧ clusterOf 9 = 0 := by decide +kernel
/-- O32 and O51: the porter's own cycle, and another. -/
theorem witness_six : ({ small with cycle := 6 } : State).free6 9 = true ∧ small.free6 9 = false := by decide +kernel

/-- O35: a request for a slot that is the first, and one behind as many as there are slots. -/
theorem witness_slotQueue :
    (small.slotQueue 0 (9, 2, 0)).idxOf (9, 2, 0) < 256 - (small.rou 0).slots.length ∧
    small.releaseHeld 9 2 = false ∧ (small.releaseAll 9 2).short = none ∧ small.hasEntries 9 2 = false ∧
    (let r : Rou := { Rou.init with slots := (List.range 256).map fun n => (n, slot3) };
      256 - r.slots.length ≤ 0) := by decide +kernel
/-- O35: an abort of a region whose code register is a channel. -/
theorem witness_abortWord : ({ slot3 with code := .ch 1 } : RegSlot).code = .ch 1 ∧
    mapGet? ((regionState { slot3 with code := .ch 1 } inRegion Rou.init).rou 0).slots 3 =
      some { slot3 with code := .ch 1 } := by decide +kernel

/-- O39: fs with bit 7 of D set and clear; O40: lease at each level, and a trace that starts. -/
theorem witness_fs : Clear keeper g0 (formSysr 0 (.s 5) (.s 0)) ∧ Clear keeper g0 (formSysw 0 (.s 5) (.s 0)) ∧
    (0x80 : Word).getLsbD 7 = true ∧ (0x60 : Word).getLsbD 7 = false ∧
    Clear keeper g0 (formSysr 0x76 (.s 5) (.s 0)) ∧ Clear keeper g0 (formSysw 0x76 (.s 5) (.s 0)) ∧
    (let t := { ({ small with dies := [(0, { Die.init with trace := { (small.die 0).trace with ctl := 1 } })] } : State) with cycle := 5 };
      (t.die 0).trace.ctl.getLsbD 0 = true ∧ (t.die 0).trace.size = 0) := by
  and_intros <;> first | exact clear_of (by decide +kernel) | decide +kernel

/-- O41 and O58: the walkers of a die all busy. -/
theorem witness_walkers :
    ({ small with dies := [(0, { Die.init with walks := List.replicate 192 ⟨9, 2, 4, 0, 0, none⟩ })] } : State).walkersBusy 0 =
      true := by decide +kernel
/-- O42: a strand with a breakpoint at its pc; one that waited for a barrier when it was stopped; one whose core is saved. -/
theorem witness_stops :
    (let s := { keeper with porch := { keeper.porch with brk := [(0, 0x8000000000000000)] } };
      (s.strand 9 2).breakDone = false ∧ (s.strand 9 2).again = none ∧ s.brkHit 9 2 = true) ∧
    (let x : Strand := { trappedStrand with st := .stopped, stopBy := .sstop, left := .waitMsg, leftWait := .barrier };
      let s : State := { onPorter (.trap 2) false x with dies := [(0, { Die.init with stops := [0] })] };
      (0 ∈ (s.die 0).stops) ∧ (s.strand 9 2).stopBy = .sstop ∧ (s.core 9).saved.isSome = false ∧
      (s.strand 9 2).stopPending = false) := by decide +kernel

/-- O43: a stop with a flit on REQ and none above it, at a start of a round and inside one. -/
theorem witness_drr :
    let f : Flit := { flitTo 0 7 vcREQ (.probe 9 2 0) with stage := .queued, age := 3, vd := 1 }
    let s := onNet f small
    s.waitingAt 0 0 = [f] ∧ isDrr vcREQ = true ∧ Stop.init.slots % 16 ≠ 15 ∧
    (∃ v ∈ ({ Stop.init with round := [1], deficit := [(1, 2)] } : Stop).round,
      (∃ g ∈ s.waitingAt 0 0, g.vd = v ∧ g.stage = .queued) ∧ 0 < mapGet 0 [((1 : Nat), (2 : Int))] v) ∧
    ¬ (∃ v ∈ Stop.init.round, (∃ g ∈ s.waitingAt 0 0, g.vd = v ∧ g.stage = .queued) ∧ 0 < mapGet 0 Stop.init.deficit v) := by
  decide +kernel

/-- O45: a reply that starts and ends on word boundaries. -/
theorem witness_wholeWords : (req1 .read).off = 0 ∧ (req1 .read).off ≤ (req1 .read).addr ∧ (req1 .read).off + (req1 .read).len =
    (access .store 8).len ∧ (req1 .read).leaf.near = true := by decide +kernel

/-- O48: a frame for a loft page, and an empty pool. -/
def loftLeaf : Leaf := ⟨0, 0, false, false, 0, true, .release, true, true, true, 0x20000⟩
theorem witness_frame :
    let s : State := { small with dies := [(0, { Die.init with pool := [0x40000] })] }
    s.frameOf loftLeaf = 0 ∧ (s.die 0).pool = [0x40000] ∧ (s.backPage loftLeaf).all (fun t => t.short.isNone) = true ∧
    small.frameOf loftLeaf = 0 ∧ (small.die 0).pool = [] := by decide +kernel

/-- O49: a handler that is enabled, and one that is not. -/
theorem witness_handler :
    (small.handler 9 0 false 1).1 = none ∧ (small.handler 9 0 false 1).2.short = none := by decide +kernel
/-- O50: a dying strand that can be purged, and one that waits. -/
theorem witness_purge : small.purgeHeld 9 2 = false ∧
    ({ small with dies := [(0, { Die.init with filter := List.replicate 64 ⟨5, 0⟩ })] } : State).purgeHeld 9 2 = true := by
  decide +kernel

/-- O54: a forwarding edge that is entered, and one that would make a chain of more than four. -/
theorem witness_chain : chainLong Rou.init 1 2 = false ∧
    chainLong { Rou.init with f := [(2, 3), (3, 4), (4, 5), (5, 6)] } 1 2 = true := by decide +kernel
/-- O54: completion words that wait, and a cellar job. -/
theorem witness_cellar : (jobIn { job1 .done with cwWait := [1] }).cwFar 0 0 { job1 .done with cwWait := [1] } = none ∧
    ({ job1 .done with cwWait := [1] } : Job).ending = none ∧
    ({ job1 .running with card := [0x0000000000000004] } : Job).engine = 4 ∧
    ({ job1 .running with cellar := some 0 } : Job).cellar = some 0 := by decide +kernel

/-- O55: the oldest request of its cluster for a peer, with a link and without, and one behind another. -/
theorem witness_span :
    let f : Flit := { flitTo 8 0 vcREQ (.span { req1 .read with addr := 3 * 2 ^ 40 }) with cluster := 5 }
    let s : State := { onNet f small with porch := { small.porch with route := [(3, [1, 2])], linksUp := 6 } }
    s.spanFirst f 3 = true ∧ s.spanLink 3 5 = some 2 ∧ (onNet f small).spanLink 3 5 = none ∧
    ({ s with net := [{ f with id := 1 }, f] } : State).spanFirst f 3 = false ∧ s.flit? 7 = some f := by decide +kernel
/-- O55 and O59: an inbound access that nothing holds, inside what its peer may reach, and outside. -/
theorem witness_inbound :
    let s : State := { small with porch := { small.porch with admits := [(3, ⟨0x10000, 64, 0⟩)], linksUp := 1 } }
    s.porch.linksUp ≠ 0 ∧ mapGet? s.porch.admits (3 : BitVec 4).toNat = some ⟨0x10000, 64, 0⟩ ∧
    s.homesBusy .phys (s.leafAt 0x10000) 0x10000 8 false = false ∧ s.homesBusy .phys (s.leafAt 0x10000) 0x10000 8 true = false ∧
    (let r := s.readHomes noCluster .phys (s.leafAt 0x10000) 0x10000 8 0;
      r.2.short = none ∧ r.1.any (·.p) = false ∧
      ((r.2.setRead (r.1.map (·.v))).writeHomes noCluster .phys (s.leafAt 0x10000) 0 0x10000
        (List.replicate 8 ⟨1, false⟩)).short = none) := by decide +kernel

/-- O56: a record of a device that is traced, behind a SYNC and at the start; a full buffer. -/
theorem witness_buffer :
    let tr (f : Trace → Trace) : State := { small with
      cores := [(9, { Core.init with stamps := [⟨1, 0, 4, 5⟩] })]
      dies := [(0, { Die.init with trace := f { (small.die 0).trace with ctl := 1, size := 1, vds := 1, base := 0x10000 } })] }
    (tr id).traceHeld 0 = false ∧ (tr id).short = none ∧ ((tr id).die 0).trace.sync = none ∧
    ((tr id).die 0).trace.began ≤ 4095 ∧ ((tr id).die 0).trace.head.toNat < 65536 ∧ ((tr id).die 0).trace.full = false ∧
    ((tr fun t => { t with sync := some 0 }).die 0).trace.sync = some 0 ∧
    ((tr fun t => { t with full := true }).die 0).trace.full = true := by decide +kernel
/-- O56: a slice that a core has still to stop for, one that waits for what the last pre-empted, and what is owed. -/
theorem witness_slices :
    let l : Lease := ⟨[(1, 0x0002000000000064)], [1], none, 0, 0, [], []⟩
    let s : State := { small with porch := { small.porch with lease := l } }
    (9 ∈ s.leaseCores 1 ∧ (s.core 9).preL = false ∧ s.anyTrapped 9 = false) ∧ l.owed = [] ∧
    ({ l with owed := [9] } : Lease).owed = [9] ∧ (s.core 9).saved.any (·.landlord) = false := by decide +kernel

/-- O57: whatever the root of trust accepts, there is an image, or none, that it runs. -/
theorem witness_images (x : Porch) (fst alt : Prop) : ∃ img : Option Config.Image,
    (fst → img = some x.images.1) ∧ (¬ fst → alt → img = some x.images.2) ∧ (¬ fst → ¬ alt → img = none) := by
  by_cases h : fst
  · exact ⟨_, fun _ => rfl, fun g => absurd h g, fun g => absurd h g⟩
  · by_cases k : alt
    · exact ⟨_, fun g => absurd g h, fun _ _ => rfl, fun _ g => absurd k g⟩
    · exact ⟨none, fun g => absurd g h, fun _ g => absurd g k, fun _ _ => rfl⟩
/-- O57: a draw above the limit, and one at it. -/
theorem witness_draw : ∃ l : Nat, ¬ (l < l) ∧ l < l + 1 ∧ lifeRank .manufacture < lifeRank .secured := ⟨600, by decide⟩

end Sys2Proof.Tests
end

section
/-! SUPPORT. Privilege levels (O8): what the first two checks of R159 answer, for every form. -/

namespace Sys2Proof.Safety

open Sys2Proof.Machine

/-! Channels of an encoded form (R184, R185) -/

/-- An operand field names a channel: class 100 of R184. -/
def isChan (x : BitVec 8) : Bool := x.extractLsb' 5 3 = 4

theorem namesChan_eq (f : Fields) : namesChan f = (isChan f.d || isChan f.a || isChan f.b) := by
  simp [namesChan, isChan, Bool.or_assoc]

@[simp] theorem isChan_zero : isChan 0#8 = false := by decide
@[simp] theorem isChan_imm : isChan 0xE0#8 = false := by decide
@[simp] theorem isChan_encCh (c : Fin 4) : isChan (encCh c) = true := by revert c; decide
@[simp] theorem isChan_encSeg (i : Fin 8) : isChan (encSeg i) = false := by revert i; decide
@[simp] theorem isChan_encK' (i : Fin 8) : isChan (encK' i) = false := by revert i; decide
@[simp] theorem isChan_encS (o : SOp) : isChan (encS o) = (chS o).isSome := by
  rcases o with i | c <;> [revert i; revert c] <;> decide
@[simp] theorem isChan_encV (o : VOp) : isChan (encV o) = (chV o).isSome := by
  rcases o with i | c <;> [revert i; revert c] <;> decide
@[simp] theorem isChan_encPOp (o : POp) : isChan (encPOp o) = (chP o).isSome := by
  rcases o with i | c <;> [revert i; revert c] <;> decide
@[simp] theorem isChan_encKOp (o : KOp) : isChan (encKOp o) = (chK o).isSome := by
  cases o <;> simp [encKOp, chK]
@[simp] theorem isChan_encKOpt (o : KOpt) : isChan (encKOpt o) = (chKO o).isSome := by
  cases o <;> simp [encKOpt, chKO]
@[simp] theorem isChan_encSI (o : SImm) : isChan (encSI o) = (chI o).isSome := by
  cases o <;> simp [encSI, chI, chS]
@[simp] theorem isChan_encVB (o : VB) : isChan (encVB o) = (chB o).isSome := by
  cases o <;> simp [encVB, chB, chS, chV]
@[simp] theorem isSome_chX (vec : Bool) (o : XOp) : (chX vec o).isSome = isChan (encX o) := by
  cases o <;> simp [encX, chX, chS, chV]

/-- A destination that is also read, under a mask or for ACAS, is the channel that is written. -/
@[simp] theorem isSome_ite_or_isSome {α : Type} (m : Prop) [Decidable m] (x : Option α) :
    ((if m then x else none).isSome || x.isSome) = x.isSome := by
  split <;> simp

/-- A form whose positions use the channels of the fields A, B and D uses a channel when the fields name one. -/
theorem usesChan_eq_namesChan {a b d dst : Option (Nat × Nat)} {vecs : List (Fin 16)} {e : Fields}
    (ha : a.isSome = isChan e.a := by simp) (hb : b.isSome = isChan e.b := by simp)
    (hd : (d.isSome || dst.isSome) = isChan e.d := by simp) :
    (⟨a, b, d, dst, vecs⟩ : Use).usesChan = namesChan e := by
  rw [namesChan_eq, ← ha, ← hb, ← hd]
  simp only [Use.usesChan]
  ac_rfl

/-! Levels of the forms (R157, R313) -/

/-- SYSR of a register that can be read has the read level of R313. -/
theorem sysReadLevel_eq {g : Guard} {d a : SOp} {n : BitVec 16} (h : wellFormed (.sysr g d a n) = true) :
    sysReadLevel n.toNat = levelOf (.sysr g d a n) := by
  simp only [wellFormed, sysReadable, Bool.and_eq_true, List.contains_iff_mem] at h
  obtain ⟨-, h⟩ := h
  simp only [levelOf]
  generalize n.toNat = k at h ⊢
  revert k
  decide

/-- SYSW of a register that can be written has the write level of R313. -/
theorem sysWriteLevel_eq {g : Guard} {d a : SOp} {n : BitVec 16} (h : wellFormed (.sysw g d a n) = true) :
    sysWriteLevel n.toNat = levelOf (.sysw g d a n) := by
  simp only [wellFormed, sysWritable, Bool.and_eq_true, List.contains_iff_mem] at h
  obtain ⟨-, h⟩ := h
  simp only [levelOf]
  generalize n.toNat = k at h ⊢
  revert k
  decide

/-- An event has no level and belongs to no strand. -/
theorem level_strandOnly_of_event {i : Instr} (h : encodeFields i = none) : levelOf i = 0 ∧ strandOnly i = false := by
  cases i <;> cases h <;> exact ⟨rfl, rfl⟩

/-- A form that only strands run runs at U. -/
theorem levelOf_strandOnly {i : Instr} (h : strandOnly i = true) : levelOf i = 0 := by
  cases i <;> cases h <;> rfl

theorem exists_fields {i : Instr} (h : 1 ≤ levelOf i ∨ strandOnly i = true) : ∃ e, encodeFields i = some e := by
  refine Option.ne_none_iff_exists'.mp fun he => ?_
  obtain ⟨hl, hs⟩ := level_strandOnly_of_event he
  simp [hl, hs] at h

theorem level_of_strand {s : State} (h : s.cur.pos < 6) : s.level = .u := by
  have hp : s.cur.pos ≠ 6 := by omega
  simp [State.level, State.isPorter, hp]

theorem level_of_entry {s : State} {e : Entry} (hp : s.cur.pos = 6) (hc : (s.porter s.cur.core).cur = some e) :
    s.level = if e.landlord then .l else .k := by
  simp [State.level, State.isPorter, hp, hc]

/-! The first two checks of R159 -/

/-- What the first two checks of R159 answer for an instruction; `chan` says whether it names a channel. -/
structure Screens (i : Instr) (s : State) (chan : Bool) : Prop where
  illegal : s.isPorter = true → (strandOnly i || chan) = true → exec i s = .next (s.takeTrap tIllegal)
  priv : (s.isPorter && (strandOnly i || chan)) = false → s.level.toNat < levelOf i →
    exec i s = .next (s.takeTrap tPriv)

/-- An instruction that issues a form of its own level, class and channels is screened. -/
theorem screens_of_issue {α : Type} {i : Instr} {s : State} {e : Fields} {g : Guard} {f : Form}
    {fx : View → Except TrapInfo α} {act : State → α → State} (h : exec i s = .next (s.issue g f fx act))
    (hl : f.level = levelOf i) (hx : (f.strandOnly || f.use.usesChan) = (strandOnly i || namesChan e)) :
    Screens i s (namesChan e) where
  illegal hp hc := by simp only [h, State.issue, hp, hx, hc, Bool.and_self, if_true]
  priv hc hlt := by
    rw [← hl] at hlt
    simp only [h, State.issue, hx, hc, hlt, Bool.false_eq_true, if_false, if_true]

/-- A value atomic issues one form, with D read for ACAS only (R292). -/
theorem atomic_eq_issue (s : State) (g : Guard) (op : AOp) (sc : Scope) (d : SOp) (m : GMem) (b : SOp) :
    (.next (s.atomic g op sc d m b) : Result) =
      .next (s.issue g (formAtom d m b (op = .cas)) (fxAtom d m b (op = .cas)) fun s r =>
        s.startOp (formAtom d m b (op = .cas)).use (.atom op sc d r.2.2) r.1 (gLen m) r.2.1) := rfl

/-- A reduction issues the form of a store (R292). -/
theorem reduce_eq_issue (s : State) (g : Guard) (op : AOp) (sc : Scope) (d : SOp) (m : GMem) :
    (.next (s.reduce g op sc d m) : Result) =
      .next (s.issue g (formGst d m) (fxGred d m) fun s r =>
        s.startOp (formGst d m).use (.red op sc) r.1 (gLen m) r.2) := rfl

/-- RPT issues no form: it makes the check of its class itself (R276). -/
theorem screens_rpt (g : Guard) (strb stra strd : BitVec 4) (len : Fin 8) (count : BitVec 13) (s : State)
    (chan : Bool) : Screens (.rpt g strb stra strd len count) s chan where
  illegal hp _ := by
    show Host.Outcome.next (s.rpt g strb stra strd len count) = _
    simp only [State.rpt, hp, if_true]
  priv _ hlt := absurd hlt (Nat.not_lt_zero _)

/-- Every instruction is screened by its level, its class and the channels that its word names. -/
theorem screens {i : Instr} {e : Fields} (s : State) (hw : wellFormed i = true) (he : encodeFields i = some e) :
    Screens i s (namesChan e) := by
  cases i with
  | rpt => exact screens_rpt ..
  | frb =>
    -- its form leaves D aside, which may name a channel: only strands run it
    cases he
    exact screens_of_issue rfl rfl rfl
  | bfi g d a b | sel g d a b =>
    cases he
    exact screens_of_issue rfl rfl
      (congrArg₂ or rfl (usesChan_eq_namesChan (a := chS a) (b := chI b) (dst := chS d)))
  | fma g t rm sat d a b =>
    cases he
    exact screens_of_issue rfl rfl
      (congrArg₂ or rfl (usesChan_eq_namesChan (a := chS a) (b := chS b) (dst := chS d)))
  | sysr =>
    cases he
    exact screens_of_issue rfl (sysReadLevel_eq hw) (congrArg₂ or rfl usesChan_eq_namesChan)
  | sysw =>
    cases he
    exact screens_of_issue rfl (sysWriteLevel_eq hw) (congrArg₂ or rfl usesChan_eq_namesChan)
  | aadd | aand | aor | axor | amin | amax | aminu | amaxu | aswap | acas | afadd | afmin | afmax =>
    cases he
    exact screens_of_issue (atomic_eq_issue ..) rfl (congrArg₂ or rfl usesChan_eq_namesChan)
  | radd | rand | ror | rxor | rmin | rmax | rminu | rmaxu | rfadd =>
    cases he
    exact screens_of_issue (reduce_eq_issue ..) rfl (congrArg₂ or rfl usesChan_eq_namesChan)
  | _ => cases he <;> exact screens_of_issue rfl rfl (congrArg₂ or rfl usesChan_eq_namesChan)

theorem traps_priv {i : Instr} {e : Fields} {s : State} (hw : wellFormed i = true) (he : encodeFields i = some e)
    (hx : (s.isPorter && (strandOnly i || namesChan e)) = false) (hl : s.level.toNat < levelOf i) : Traps i s tPriv :=
  traps_takeTrap ((screens s hw he).priv hx hl)

theorem traps_illegal {i : Instr} {e : Fields} {s : State} (hw : wellFormed i = true) (he : encodeFields i = some e)
    (hp : s.cur.pos = 6) (hx : (strandOnly i || namesChan e) = true) : Traps i s tIllegal :=
  traps_takeTrap ((screens s hw he).illegal (decide_eq_true hp) hx)

/-- Settles O8: PRIV and ILLEGAL are what the first two checks of R159 answer (`screens`), before the guard is read. -/
theorem privilegeLevels : Obligations.PrivilegeLevels := by
  intro s i hw
  refine ⟨level_of_strand, fun e => level_of_entry, fun hp hl => ?_, fun hp hk hl hc => ?_, fun hp hs => ?_,
    fun hp e he hc => ?_⟩
  · obtain ⟨e, he⟩ := exists_fields (.inl hl)
    have hn : s.isPorter = false := decide_eq_false (by omega)
    refine traps_priv hw he (by simp [hn]) ?_
    rw [level_of_strand hp]
    exact hl
  · obtain ⟨e, he⟩ := exists_fields (i := i) (.inl (by omega))
    have hs : strandOnly i = false := by
      by_contra h
      have := levelOf_strandOnly (Bool.eq_true_of_not_eq_false h)
      omega
    refine traps_priv hw he (by simp [hs, hc e he]) ?_
    simp [hk, hl, Level.toNat]
  · obtain ⟨e, he⟩ := exists_fields (.inr hs)
    exact traps_illegal hw he hp (by simp [hs])
  · exact traps_illegal hw he hp (by simp [hc])

end Sys2Proof.Safety
end

section
/-! SUPPORT. The width and bit-field forms (O12): what their functions do to the bits of a word, and how the forms of
one shape retire. -/

namespace Sys2Proof.Safety

open Sys2Proof.Machine

/-! Widths and extension (R187, R225) -/

theorem widthBits_le (c : Fin 4) : widthBits c ≤ 64 := by revert c; decide
theorem widthBits_bytes (c : Fin 4) : 8 * (widthBits c / 8) = widthBits c := by revert c; decide

/-- A field of a word is its quotient and remainder. -/
theorem toNat_field (x : Word) (k n : Nat) : (x.extractLsb' k n).toNat = x.toNat / 2 ^ k % 2 ^ n := by
  rw [BitVec.extractLsb'_toNat, Nat.shiftRight_eq_div_pow]

/-- Adding 2^64 to an integer leaves its word. -/
theorem ofInt_add_two_pow (i : Int) : BitVec.ofInt 64 (i + 2 ^ 64) = BitVec.ofInt 64 i := by
  apply BitVec.eq_of_toInt_eq
  rw [BitVec.toInt_ofInt, BitVec.toInt_ofInt]
  exact Int.add_bmod_right i (2 ^ 64)

theorem extend_eq {w : Nat} (hw : w ≤ 64) (sgn : Bool) (n : Nat) :
    extend w sgn n = if sgn = true ∧ 2 ^ (w - 1) ≤ n % 2 ^ w then .ofInt 64 (((n % 2 ^ w : Nat) : Int) - 2 ^ w)
      else .ofNat 64 (n % 2 ^ w) := by
  have hle : 2 ^ w ≤ 2 ^ 64 := Nat.pow_le_pow_right (by decide) hw
  simp only [extend, Bool.and_eq_true, decide_eq_true_eq]
  refine if_congr Iff.rfl ?_ rfl
  rw [← ofInt_add_two_pow, ← BitVec.ofInt_natCast, Nat.cast_add, Nat.cast_sub hle]
  congr 1
  push_cast
  ring

/-- A full word extends to itself. -/
theorem extend_word (sgn : Bool) (n : Nat) : extend 64 sgn n = .ofNat 64 (n % 2 ^ 64) := by
  rw [extend, Nat.sub_self, Nat.add_zero, ite_self]

/-! Searching, counting and reversing bits (R225) -/

/-- The first index below `w` that passes a test, or `w`. -/
theorem find_range_getD (f : Nat → Bool) (w : Nat) :
    let n := ((List.range w).find? f).getD w
    n ≤ w ∧ (∀ j < n, f j = false) ∧ (n < w → f n = true) := by
  cases h : (List.range w).find? f with
  | none =>
    rw [List.find?_range_eq_none] at h
    exact ⟨le_rfl, fun j hj => by simpa using h j hj, fun hn => absurd hn (lt_irrefl _)⟩
  | some n =>
    rw [List.find?_range_eq_some] at h
    obtain ⟨hf, hm, hl⟩ := h
    exact ⟨(List.mem_range.mp hm).le, fun j hj => by simpa using hl j hj, fun _ => hf⟩

theorem testBit_low (x : Word) {w j : Nat} (hj : j < w) : (x.toNat % 2 ^ w).testBit j = x.getLsbD j := by
  rw [Nat.testBit_mod_two_pow, decide_eq_true hj, Bool.true_and, BitVec.testBit_toNat]

theorem leadZeros_spec (x : Word) {w : Nat} :
    let n := leadZeros w (x.toNat % 2 ^ w)
    n ≤ w ∧ (∀ j < n, x.getLsbD (w - 1 - j) = false) ∧ (n < w → x.getLsbD (w - 1 - n) = true) := by
  obtain ⟨hle, hlo, hat⟩ := find_range_getD (fun j => (x.toNat % 2 ^ w).testBit (w - 1 - j)) w
  refine ⟨hle, fun j hj => ?_, fun hn => ?_⟩
  · rw [← testBit_low x (w := w) (by have : j < w := hj.trans_le hle; omega)]
    exact hlo j hj
  · rw [← testBit_low x (w := w) (by omega)]
    exact hat hn

theorem trailZeros_spec (x : Word) {w : Nat} :
    let n := trailZeros w (x.toNat % 2 ^ w)
    n ≤ w ∧ (∀ j < n, x.getLsbD j = false) ∧ (n < w → x.getLsbD n = true) := by
  obtain ⟨hle, hlo, hat⟩ := find_range_getD (fun j => (x.toNat % 2 ^ w).testBit j) w
  refine ⟨hle, fun j hj => ?_, fun hn => ?_⟩
  · rw [← testBit_low x (hj.trans_le hle)]
    exact hlo j hj
  · rw [← testBit_low x hn]
    exact hat hn

theorem ones_eq (x : Word) (w : Nat) : ones w (x.toNat % 2 ^ w) = (List.range w).countP fun j => x.getLsbD j := by
  rw [ones, ← List.countP_eq_length_filter]
  exact List.countP_congr fun j hj => by rw [testBit_low x (List.mem_range.mp hj)]

/-- The digits of `k` bits that a fold takes, the last one lowest. -/
theorem testBit_foldl_digits {k : Nat} {d : Nat → Nat} (hd : ∀ j, d j < 2 ^ k) (m : Nat) :
    let r := (List.range m).foldl (fun r j => 2 ^ k * r + d j) 0
    r < 2 ^ (k * m) ∧ ∀ i < k * m, r.testBit i = (d (m - 1 - i / k)).testBit (i % k) := by
  induction m with
  | zero => simp
  | succ m ih =>
    obtain ⟨hlt, hbit⟩ := ih
    rw [List.range_succ, List.foldl_append, List.foldl_cons, List.foldl_nil]
    generalize (List.range m).foldl (fun r j => 2 ^ k * r + d j) 0 = r at hlt hbit
    refine ⟨?_, fun i hi => ?_⟩
    · calc 2 ^ k * r + d m < 2 ^ k * r + 2 ^ k := Nat.add_lt_add_left (hd m) _
        _ = 2 ^ k * (r + 1) := (Nat.mul_succ ..).symm
        _ ≤ 2 ^ k * 2 ^ (k * m) := Nat.mul_le_mul_left _ hlt
        _ = 2 ^ (k * (m + 1)) := by rw [← Nat.pow_add, Nat.mul_succ, Nat.add_comm]
    · rw [Nat.testBit_two_pow_mul_add _ (hd m)]
      split
      · next h => rw [Nat.div_eq_of_lt h, Nat.mod_eq_of_lt h, Nat.add_sub_cancel, Nat.sub_zero]
      · next h =>
        have hk : k ≤ i := Nat.le_of_not_lt h
        have hpos : 0 < k := Nat.pos_of_mul_pos_right (Nat.zero_lt_of_lt hi)
        rw [hbit _ (by rw [Nat.mul_succ] at hi; omega), ← Nat.mod_eq_sub_mod hk]
        have hdiv : (i - k) / k = i / k - 1 := by simpa using Nat.sub_mul_div i k 1
        have := Nat.div_pos hk hpos
        rw [hdiv]
        congr 2
        omega

theorem revBits_spec (x : Word) (w : Nat) :
    revBits w x.toNat < 2 ^ w ∧ ∀ j < w, (revBits w x.toNat).testBit j = x.getLsbD (w - 1 - j) := by
  obtain ⟨hlt, hbit⟩ := testBit_foldl_digits (k := 1) (d := fun j => x.toNat / 2 ^ j % 2)
    (fun j => Nat.mod_lt _ (by decide)) w
  rw [Nat.one_mul] at hlt hbit
  refine ⟨hlt, fun j hj => (hbit j hj).trans ?_⟩
  rw [Nat.div_one, Nat.mod_one, Nat.testBit_zero, BitVec.getLsbD, Nat.testBit_eq_decide_div_mod_eq, Nat.mod_mod]

theorem revBytes_spec (x : Word) {w : Nat} (hw : 8 * (w / 8) = w) :
    revBytes w x.toNat < 2 ^ w ∧
      ∀ j < w, (revBytes w x.toNat).testBit j = x.getLsbD (8 * (w / 8 - 1 - j / 8) + j % 8) := by
  obtain ⟨hlt, hbit⟩ := testBit_foldl_digits (k := 8) (d := fun j => x.toNat / 2 ^ (8 * j) % 256)
    (fun j => Nat.mod_lt _ (by decide)) (w / 8)
  rw [hw] at hlt hbit
  refine ⟨hlt, fun j hj => (hbit j hj).trans ?_⟩
  rw [show 256 = 2 ^ 8 from rfl, Nat.testBit_mod_two_pow, decide_eq_true (Nat.mod_lt j (by decide)), Bool.true_and,
    Nat.testBit_div_two_pow, BitVec.testBit_toNat, Nat.add_comm]

/-! Bit fields (R226, R227) -/

theorem fieldPos_toNat (y : Word) : (y.extractLsb' 0 6).toNat = y.toNat % 64 := by
  rw [toNat_field, Nat.pow_zero, Nat.div_one]
  rfl

theorem fieldLen_toNat (y : Word) : (y.extractLsb' 8 6).toNat = y.toNat / 2 ^ 8 % 64 := toNat_field y 8 6

theorem intBfx_eq (x y : Word) :
    let len : Nat := y.toNat / 2 ^ 8 % 64 + 1
    let f : Nat := x.toNat / 2 ^ (y.toNat % 64) % 2 ^ len
    intBfx x y = .ofInt 64 (if y.getLsbD 16 = true ∧ len < 64 ∧ 2 ^ (len - 1) ≤ f then (f : Int) - 2 ^ len else f) := by
  intro len f
  have hle : len ≤ 64 := Nat.mod_lt _ (by decide)
  have hctl : intBfx x y = extend len (y.getLsbD 16) (x.toNat / 2 ^ (y.toNat % 64)) := by
    rw [intBfx, fieldPos_toNat, fieldLen_toNat]
  rw [hctl]
  rcases Nat.lt_or_eq_of_le hle with hlt | heq
  · rw [extend_eq hle, apply_ite (BitVec.ofInt 64), BitVec.ofInt_natCast]
    simp only [hlt, true_and]
    rfl
  · rw [if_neg (by omega), BitVec.ofInt_natCast]
    simp only [f, heq, extend_word]

theorem getLsbD_mask (len i : Nat) :
    (BitVec.ofNat 64 (2 ^ len - 1)).getLsbD i = (decide (i < 64) && decide (i < len)) := by
  rw [BitVec.getLsbD_ofNat, Nat.testBit_two_pow_sub_one]

theorem intBfi_bit (z x y : Word) {j : Nat} (hj : j < 64) :
    let pos : Nat := y.toNat % 64
    let len : Nat := y.toNat / 2 ^ 8 % 64 + 1
    (intBfi z x y).getLsbD j = if pos ≤ j ∧ j < pos + len then x.getLsbD (j - pos) else z.getLsbD j := by
  intro pos len
  have hpos : (y.extractLsb' 0 6).toNat = pos := fieldPos_toNat y
  have hlen : (y.extractLsb' 8 6).toNat + 1 = len := congrArg (· + 1) (fieldLen_toNat y)
  simp only [intBfi, hpos, hlen, BitVec.getLsbD_or, BitVec.getLsbD_and, BitVec.getLsbD_not, BitVec.getLsbD_shiftLeft,
    getLsbD_mask, hj, decide_true, Bool.true_and]
  by_cases hp : pos ≤ j
  · by_cases hl : j < pos + len
    · simp [hp, hl, show ¬ j < pos by omega, show j - pos < 64 by omega, show j - pos < len by omega]
    · simp [hl, show ¬ j - pos < len by omega]
  · simp [hp, Nat.lt_of_not_le hp]

theorem intSel_bit (z x y : Word) {j : Nat} (hj : j < 64) :
    (intSel z x y).getLsbD j = if z.getLsbD j then x.getLsbD j else y.getLsbD j := by
  simp only [intSel, BitVec.getLsbD_or, BitVec.getLsbD_and, BitVec.getLsbD_not, hj, decide_true, Bool.true_and]
  cases z.getLsbD j <;> simp

/-! How the shapes of the INT group retire -/

section
variable {i : Instr} {s : State} {g : Guard} {d a : SOp} {r : Word}

/-- A form that puts one word into a scalar destination retires with it. -/
theorem retires_putS {f : Form} (h : Clear s g f) {fx : View → Except TrapInfo (List Eff)}
    (he : exec i s = .next (s.plain g f fx)) {p : Bool} {src : Nat} (hx : fx (s.view f.use) = putS d r p src)
    (ht : takesS d p) : Retires i s f.use [effS d r p] :=
  plain_retires h he (hx.trans (putS_ok ht src)) (by simp [effS_notLs])

/-- A form of one source `x` retires with its function of `x`, which is poisoned with it (R221). -/
theorem retires_int1 {f : Word → Word} {x : PWord} (h : Clear s g (formSS d a)) (he : exec i s = int1 f g d a s)
    (hx : (s.view (useSS d a)).s (s.view (useSS d a)).a a = x) (ht : takesS d x.p) (hr : f x.v = r) :
    Retires i s (useSS d a) [effS d r x.p] := by
  subst hx hr
  exact retires_putS h he rfl ht

end

theorem widthFormResults : Claim.WidthFormResults := by
  intro s g c sgn d a h v p w x gives ext ht
  have hext (n : Nat) (hn : n < 2 ^ w) : extend w sgn n = ext n :=
    (extend_eq (widthBits_le c) sgn n).trans (congrArg ext (Nat.mod_eq_of_lt hn))
  obtain ⟨hclz, hclz0, hclz1⟩ := leadZeros_spec x (w := w)
  obtain ⟨hctz, hctz0, hctz1⟩ := trailZeros_spec x (w := w)
  obtain ⟨hrev, hrevBit⟩ := revBits_spec x w
  obtain ⟨hswap, hswapBit⟩ := revBytes_spec x (widthBits_bytes c)
  refine ⟨?clz, ?ctz, ?popc, ?brev, ?bswap, ?sext⟩
  case clz => exact ⟨_, hclz, retires_int1 h rfl rfl ht rfl, hclz0, hclz1⟩
  case ctz => exact ⟨_, hctz, retires_int1 h rfl rfl ht rfl, hctz0, hctz1⟩
  case popc => exact retires_int1 h rfl rfl ht (congrArg _ (ones_eq x w))
  case brev => exact ⟨_, hrev, retires_int1 h rfl rfl ht (hext _ hrev), hrevBit⟩
  case bswap => exact ⟨_, hswap, retires_int1 h rfl rfl ht (hext _ hswap), hswapBit⟩
  case sext => exact retires_int1 h rfl rfl ht (extend_eq (widthBits_le c) sgn x.toNat)

theorem bitFieldResults : Claim.BitFieldResults := by
  refine ⟨?bfx, ?bfiSel, ?li⟩
  case bfx =>
    intro s g d a b h v x y p len f ht
    rw [← intBfx_eq x y]
    exact retires_putS h rfl rfl ht
  case bfiSel =>
    intro s g d a b h v x y z p pos len ht
    exact ⟨⟨_, retires_putS h rfl rfl ht, fun j hj => intBfi_bit z x y hj⟩,
      ⟨_, retires_putS h rfl rfl ht, fun j hj => intSel_bit z x y hj⟩⟩
  case li =>
    intro s g d b h v ht
    exact retires_putS h rfl rfl ht

/-- Settles O12: each form retires with the value its function gives, which the lemmas on bits above describe. -/
theorem widthAndBitFieldResults : Obligations.WidthAndBitFieldResults := ⟨widthFormResults, bitFieldResults⟩

end Sys2Proof.Safety
end

section
/-! SUPPORT. FCMP (O17): POISON of two sources, and the comparison of FP values. -/

namespace Sys2Proof.Safety

open Sys2Proof.Machine

/-! Poisoned sources and predicate results (R221) -/

theorem needClean_poison {x y : Bool} (h : (x || y) = true) :
    needClean x y false = .error (tPoison (if x then 1 else 2)) := by
  cases x
  · rw [Bool.false_or] at h
    rw [h]
    rfl
  · rfl

theorem needClean_clean {x y : Bool} (h : ¬ (x || y) = true) : needClean x y false = .ok () := by
  rw [needClean, Bool.or_false, if_neg h]

theorem putP_eq (d : POp) (b : Bool) : putP d b = [effP d b] := by cases d <;> rfl

theorem effP_notLs (d : POp) (b : Bool) : isLs (effP d b) = false := by cases d <;> rfl

theorem flags_notLs (f : Flags) : isLs (.flags f) = false := rfl

/-! Comparison of FP values (R240) -/

theorem isSnan_of_not_isNan {x : FV} (h : x.isNan = false) : x.isSnan = false := by
  cases x with
  | nan sg => cases h
  | inf n => rfl
  | fin n m e => rfl

/-- A NaN makes every comparison false but NE and UN; nv is raised by a signalling one and by an order. -/
theorem fpCmp_nan {f : Fmt} {a b : Nat} (h : ((fpDec f a).isNan || (fpDec f b).isNan) = true) (c : FCond) :
    fpCmp f c a b = (c = .ne || c = .un,
      flagIf (((fpDec f a).isSnan || (fpDec f b).isSnan) || (c = .lt || c = .le || c = .gt || c = .ge)) fNV) := by
  simp only [fpCmp, h, if_true]

/-- A test on the order of two numbers. -/
def orderTest : FCond → Int → Bool
  | .eq, r => r = 0
  | .ne, r => r ≠ 0
  | .lt, r => r < 0
  | .le, r => r ≤ 0
  | .gt, r => 0 < r
  | .ge, r => 0 ≤ r
  | .un, _ => false

/-- Without a NaN the order of the values decides, and no flag is raised. -/
theorem fpCmp_number {f : Fmt} {a b : Nat} (h : ((fpDec f a).isNan || (fpDec f b).isNan) = false) (c : FCond) :
    fpCmp f c a b = (orderTest c (fvCmp (fpDec f a) (fpDec f b)), 0) := by
  simp only [fpCmp, h, Bool.false_eq_true, if_false]
  cases c <;> rfl

theorem fxFcmp_poison {t : ETy} {c : FCond} {d : POp} {a b : SOp} {v : View}
    (h : ((v.s v.a a).p || (v.s v.b b).p) = true) :
    fxFcmp t c d a b v = .error (tPoison (if (v.s v.a a).p then 1 else 2)) := by
  simp only [fxFcmp, needClean_poison h]

theorem fxFcmp_clean {t : ETy} {c : FCond} {d : POp} {a b : SOp} {v : View}
    (h : ¬ ((v.s v.a a).p || (v.s v.b b).p) = true) {r : Bool × Flags}
    (hr : fpCmp (fmtOf t) c (v.s v.a a).v.toNat (v.s v.b b).v.toNat = r) :
    fxFcmp t c d a b v = .ok [effP d r.1, .flags r.2] := by
  simp only [fxFcmp, needClean_clean h, hr, putP_eq, List.singleton_append]

/-- Settles O17: a poisoned source fails the check for POISON; otherwise the predicate and the flag are those of
`fpCmp_nan` or `fpCmp_number`. -/
theorem fpCompareResults : Obligations.FpCompareResults := by
  intro s g t c d a b h u v x y fx fy nan nv holds
  split
  · next hp => exact plain_traps h rfl (fxFcmp_poison hp)
  next hp =>
  have hr : fpCmp (fmtOf t) c x.v.toNat y.v.toNat = (holds, if nv then fNV else 0) := by
    cases hn : nan with
    | true =>
      rw [fpCmp_nan hn]
      cases c <;> simp [holds, nv, hn, flagIf, fx, fy]
    | false =>
      obtain ⟨hx, hy⟩ := Bool.or_eq_false_iff.mp hn
      have hnv : nv = false := by simp [nv, hn, isSnan_of_not_isNan hx, isSnan_of_not_isNan hy]
      rw [fpCmp_number hn]
      cases c <;> simp [holds, hnv, hn, orderTest, fx, fy]
  exact plain_retires h rfl (fxFcmp_clean hp hr) (by simp [effP_notLs, flags_notLs])

end Sys2Proof.Safety
end

section
/-! SUPPORT. The SEG group (O19, R246 to R248): what SEGLD and SEGNARROW refuse, and the segment they give. -/

namespace Sys2Proof.Safety

open Sys2Proof.Machine

/-- What SEGNARROW asks of its segment, offset and control word. -/
def Narrows (old : Seg) (x y : Word) : Prop :=
  y.toNat / 2 ^ 49 % 2 ^ 10 = 0 ∧ y.toNat % 2 ^ 49 ≤ 2 ^ 48 ∧ old.limit.toNat ≤ 2 ^ 48 ∧
    x.toNat + y.toNat % 2 ^ 49 ≤ old.limit.toNat ∧ old.base.toNat + x.toNat < 2 ^ 56

theorem limit_toNat (y : Word) : (y.extractLsb' 0 49).toNat = y.toNat % 2 ^ 49 := by
  rw [toNat_field, Nat.pow_zero, Nat.div_one]

theorem reserved_eq_zero (y : Word) : y.extractLsb' 49 10 = 0 ↔ y.toNat / 2 ^ 49 % 2 ^ 10 = 0 := by
  rw [← BitVec.toNat_inj, toNat_field]
  rfl

/-- The segment of a sub-range with rights dropped. -/
def narrowed (old : Seg) (x y : Word) : Seg :=
  ⟨BitVec.ofNat 56 (old.base.toNat + x.toNat), y.extractLsb' 0 49, old.rights &&& ~~~(y.extractLsb' 59 5)⟩

theorem narrow_ok {old : Seg} {x y : Word} (h : Narrows old x y) : narrow old x y = .ok (narrowed old x y) := by
  obtain ⟨hz, hl, hold, hin, hb⟩ := h
  have hz' := (reserved_eq_zero y).mpr hz
  have hfree : ¬ (decide (y.extractLsb' 49 10 ≠ 0) || decide (2 ^ 48 < y.toNat % 2 ^ 49) ||
      decide (2 ^ 48 < old.limit.toNat)) = true := by
    simp only [hz', ne_eq, not_true, Nat.not_lt.mpr hl, Nat.not_lt.mpr hold, decide_false, Bool.or_self]
    decide
  simp only [narrow, limit_toNat]
  rw [if_neg hfree, if_neg (Nat.not_lt.mpr hin), if_neg (Nat.not_le.mpr hb)]
  rfl

theorem narrow_error {old : Seg} {x y : Word} (h : ¬ Narrows old x y) : narrow old x y = .error tSegment := by
  simp only [narrow, limit_toNat]
  split
  · rfl
  next h1 =>
  split
  · rfl
  next h2 =>
  split
  · rfl
  next h3 =>
  simp only [Bool.or_eq_true, decide_eq_true_eq, not_or, not_not, not_lt, ne_eq, reserved_eq_zero] at h1 h2 h3
  obtain ⟨⟨hz, hl⟩, hold⟩ := h1
  exact absurd ⟨hz, hl, hold, h2, not_le.mp h3⟩ h

theorem narrowed_base {old : Seg} {x y : Word} (h : Narrows old x y) :
    (narrowed old x y).base.toNat = old.base.toNat + x.toNat := by
  obtain ⟨-, -, -, -, hb⟩ := h
  exact BitVec.toNat_ofNat .. |>.trans (Nat.mod_eq_of_lt hb)

theorem narrowed_rights (old : Seg) (x y : Word) {j : Nat} (hj : j < 5) :
    (narrowed old x y).rights.getLsbD j = (old.rights.getLsbD j && !(y.toNat / 2 ^ 59).testBit j) := by
  rw [narrowed, BitVec.getLsbD_and, BitVec.getLsbD_not, BitVec.getLsbD_extractLsb', decide_eq_true hj, Bool.true_and,
    Bool.true_and, Nat.testBit_div_two_pow, BitVec.testBit_toNat, Nat.add_comm]

theorem segField_eq (z : Seg) (y : Word) :
    segField z y = if y = 0 then .ofNat 64 z.base.toNat else if y = 1 then .ofNat 64 z.limit.toNat
      else if y = 2 then .ofNat 64 z.rights.toNat else 0 := by
  simp only [segField, BitVec.ofNat_toNat, BitVec.truncate_eq_setWidth]

theorem fxSegld_number {d : Fin 8} {b : SImm} {v : View} (hp : ¬ (v.i v.b b).p = true)
    (hn : (v.i v.b b).v.toNat < 16) :
    fxSegld d b v = .ok [.g d (if h8 : (v.i v.b b).v.toNat < 8 then v.tmpl[(v.i v.b b).v.toNat]
      else v.regs.g[(v.i v.b b).v.toNat - 8])] := by
  rw [fxSegld, if_neg hp]
  by_cases h8 : (v.i v.b b).v.toNat < 8
  · rw [dif_pos h8, dif_pos h8]
  · rw [dif_neg h8, dif_pos hn, dif_neg h8]

theorem fxSegld_refused {d : Fin 8} {b : SImm} {v : View} (hp : ¬ (v.i v.b b).p = true)
    (hn : ¬ (v.i v.b b).v.toNat < 16) : fxSegld d b v = .error tSegment := by
  rw [fxSegld, if_neg hp, dif_neg (by omega), dif_neg hn]

theorem fxSegnarrow_poison {d : Fin 8} {a : SOp} {b : SImm} {v : View}
    (h : ((v.s v.a a).p || (v.i v.b b).p) = true) :
    fxSegnarrow d a b v = .error (tPoison (if (v.s v.a a).p then 1 else 2)) := by
  simp only [fxSegnarrow, needClean_poison h]

theorem fxSegnarrow_clean {d : Fin 8} {a : SOp} {b : SImm} {v : View}
    (h : ¬ ((v.s v.a a).p || (v.i v.b b).p) = true) :
    fxSegnarrow d a b v = (narrow v.regs.g[d] (v.s v.a a).v (v.i v.b b).v).map fun n => [.g d n] := by
  simp only [fxSegnarrow, needClean_clean h]
  cases narrow v.regs.g[d] (v.s v.a a).v (v.i v.b b).v <;> rfl

/-- Settles O19: poison first, then what the number or the control word of B refuses, then the result. -/
theorem segmentResults : Obligations.SegmentResults := by
  intro s g
  refine ⟨?segld, ?segnarrow, ?segq⟩
  case segld =>
    intro d b h u v y n
    split
    · next hp => exact plain_traps h rfl (if_pos hp)
    next hp =>
    split
    · next hn => exact plain_retires h rfl (fxSegld_number hp hn) rfl
    · next hn => exact plain_traps h rfl (fxSegld_refused hp hn)
  case segnarrow =>
    intro d a b h u v x y old lim drop
    split
    · next hp => exact plain_traps h rfl (fxSegnarrow_poison hp)
    next hp =>
    have hfx : fxSegnarrow d a b v = (narrow old x.v y.v).map fun n => [.g d n] := fxSegnarrow_clean hp
    split
    · next hn =>
      rw [narrow_ok hn] at hfx
      exact ⟨narrowed old x.v y.v, plain_retires h rfl hfx rfl, narrowed_base hn, limit_toNat y.v,
        fun j hj => narrowed_rights old x.v y.v hj⟩
    · next hn =>
      rw [narrow_error hn] at hfx
      exact plain_traps h rfl hfx
  case segq =>
    intro d a b h u v y z
    split
    · next hp => exact plain_traps h rfl (if_pos hp)
    next hp =>
    rw [← segField_eq]
    exact retires_putS h rfl (if_neg hp) fun _ _ => rfl

end Sys2Proof.Safety
end

section
/-! SUPPORT. The VINT group and VFCMP (O20): elements taken as signed, and how the shapes of the group give their
elements and masks. -/

namespace Sys2Proof.Safety

open Sys2Proof.Machine

/-! Elements taken as signed (R257) -/

theorem intOf_of_lt {w x : Nat} (hx : x < 2 ^ w) :
    intOf w true x = if 2 ^ (w - 1) ≤ x then (x : Int) - 2 ^ w else x := by
  simp only [intOf, Nat.mod_eq_of_lt hx, Bool.true_and, decide_eq_true_eq, Nat.cast_pow, Nat.cast_ofNat]

theorem natOf_eq (w : Nat) (i : Int) : natOf w i = (i % 2 ^ w).toNat := by
  rw [natOf, Nat.cast_pow, Nat.cast_ofNat]

/-- The low bits of the signed value are the element itself. -/
theorem natOf_intOf {w x : Nat} (hx : x < 2 ^ w) : natOf w (intOf w true x) = x := by
  have hmod : ((x : Int) % 2 ^ w).toNat = x := by
    rw [Int.emod_eq_of_lt (Int.natCast_nonneg x) (by exact_mod_cast hx), Int.toNat_natCast]
  rw [natOf_eq, intOf_of_lt hx]
  split
  · rw [Int.sub_emod_right, hmod]
  · exact hmod

theorem intOf_inj {w x y : Nat} (hx : x < 2 ^ w) (hy : y < 2 ^ w) : intOf w true x = intOf w true y ↔ x = y :=
  ⟨fun h => by rw [← natOf_intOf hx, h, natOf_intOf hy], congrArg _⟩

theorem intOf_bounds {w x : Nat} (hw : 0 < w) (hx : x < 2 ^ w) :
    -2 ^ (w - 1) ≤ intOf w true x ∧ intOf w true x < 2 ^ (w - 1) := by
  have htwo : 2 ^ w = 2 * 2 ^ (w - 1) := (mul_pow_sub_one hw.ne' 2).symm
  have hcast : ((2 ^ (w - 1) : Nat) : Int) = 2 ^ (w - 1) := by rw [Nat.cast_pow, Nat.cast_ofNat]
  have htwoInt : (2 : Int) ^ w = 2 * 2 ^ (w - 1) := (mul_pow_sub_one hw.ne' 2).symm
  rw [intOf_of_lt hx]
  split <;> omega

/-! The element operations against their pseudocode (R257) -/

theorem vSub_eq {w x y : Nat} (hy : y < 2 ^ w) : vSub w x y = (((x : Int) - y) % 2 ^ w).toNat := by
  have hcast : ((x + 2 ^ w - y : Nat) : Int) = (x : Int) - y + 2 ^ w := by
    rw [Nat.cast_sub (hy.le.trans (Nat.le_add_left ..))]
    push_cast
    ring
  rw [vSub, ← Int.toNat_natCast (_ % _), Int.natCast_emod, hcast, Nat.cast_pow, Nat.cast_ofNat, Int.add_emod_right]

theorem vMulh_eq (w x y : Nat) : vMulh w x y = (intOf w true x * intOf w true y / 2 ^ w % 2 ^ w).toNat := by
  rw [vMulh, natOf_eq, Nat.cast_pow, Nat.cast_ofNat]

theorem vSra_eq (w x y : Nat) : vSra w x y = (intOf w true x / 2 ^ (y % w) % 2 ^ w).toNat := by
  rw [vSra, natOf_eq, Nat.cast_pow, Nat.cast_ofNat]

/-- Equal signed values are equal elements, so the strict order may choose between two as the order does. -/
theorem ite_intOf_lt {w x y a b : Nat} (hx : x < 2 ^ w) (hy : y < 2 ^ w) (hab : x = y → a = b) :
    (if intOf w true x < intOf w true y then a else b) = if intOf w true x ≤ intOf w true y then a else b := by
  rcases lt_trichotomy (intOf w true x) (intOf w true y) with h | h | h
  · rw [if_pos h, if_pos h.le]
  · rw [if_neg h.not_lt, if_pos h.le, hab ((intOf_inj hx hy).mp h)]
  · rw [if_neg h.not_gt, if_neg h.not_ge]

theorem vMin_eq {w x y : Nat} (hx : x < 2 ^ w) (hy : y < 2 ^ w) :
    vMin w x y = if intOf w true x ≤ intOf w true y then x else y := ite_intOf_lt hx hy id

theorem vMax_eq {w x y : Nat} (hx : x < 2 ^ w) (hy : y < 2 ^ w) :
    vMax w x y = if intOf w true x ≤ intOf w true y then y else x := ite_intOf_lt hx hy Eq.symm

/-! Comparison of extended elements (R258, R228) -/

theorem toInt_extend {w x : Nat} (hw : 0 < w) (hw64 : w ≤ 64) (hx : x < 2 ^ w) :
    (extend w true x).toInt = intOf w true x := by
  obtain ⟨hlo, hhi⟩ := intOf_bounds hw hx
  have hle : (2 : Int) ^ (w - 1) ≤ 2 ^ 63 := pow_le_pow_right₀ (by decide) (by omega)
  have hext : extend w true x = .ofInt 64 (intOf w true x) := by
    simp only [extend_eq hw64, Nat.mod_eq_of_lt hx, true_and, intOf_of_lt hx, apply_ite (BitVec.ofInt 64),
      BitVec.ofInt_natCast]
  rw [hext, BitVec.toInt_ofInt, Int.bmod_eq_of_le] <;> omega

theorem toNat_extend {w x : Nat} (hw64 : w ≤ 64) (hx : x < 2 ^ w) : (extend w false x).toNat = x := by
  have hle : 2 ^ w ≤ 2 ^ 64 := Nat.pow_le_pow_right (by decide) hw64
  have hext : extend w false x = .ofNat 64 x := by
    rw [extend, Bool.false_and, if_neg Bool.false_ne_true, Nat.mod_eq_of_lt hx]
  rw [hext, BitVec.toNat_ofNat, Nat.mod_eq_of_lt (hx.trans_le hle)]

/-- The test that VCMP makes of two elements. -/
def vcmpTest (w : Nat) (c : Cond) (x y : Nat) : Bool :=
  condHolds c (extend w (c != .ltu && c != .geu) x) (extend w (c != .ltu && c != .geu) y)

section
variable {w x y : Nat} (hw : 0 < w) (hw64 : w ≤ 64) (hx : x < 2 ^ w) (hy : y < 2 ^ w)
include hw64 hx hy

theorem vcmpTest_ltu : vcmpTest w .ltu x y = decide (x < y) := by
  show (extend w false x).ult (extend w false y) = _
  rw [BitVec.ult, toNat_extend hw64 hx, toNat_extend hw64 hy]

theorem vcmpTest_geu : vcmpTest w .geu x y = decide (y ≤ x) := by
  rw [show vcmpTest w .geu x y = !vcmpTest w .ltu x y from rfl, vcmpTest_ltu hw64 hx hy, ← decide_not,
    decide_eq_decide, not_lt]

include hw

theorem extend_inj : extend w true x = extend w true y ↔ x = y := by
  rw [← BitVec.toInt_inj, toInt_extend hw hw64 hx, toInt_extend hw hw64 hy, intOf_inj hx hy]

theorem vcmpTest_eq : vcmpTest w .eq x y = decide (x = y) := decide_eq_decide.mpr (extend_inj hw hw64 hx hy)

theorem vcmpTest_ne : vcmpTest w .ne x y = decide (x ≠ y) := by
  rw [show vcmpTest w .ne x y = !vcmpTest w .eq x y from rfl, vcmpTest_eq hw hw64 hx hy, ← decide_not]

theorem vcmpTest_lt : vcmpTest w .lt x y = decide (intOf w true x < intOf w true y) := by
  show (extend w true x).slt (extend w true y) = _
  rw [BitVec.slt, toInt_extend hw hw64 hx, toInt_extend hw hw64 hy]

theorem vcmpTest_ge : vcmpTest w .ge x y = decide (intOf w true y ≤ intOf w true x) := by
  rw [show vcmpTest w .ge x y = !vcmpTest w .lt x y from rfl, vcmpTest_lt hw hw64 hx hy, ← decide_not,
    decide_eq_decide, not_lt]

end

theorem tyBits_pos (t : ETy) : 0 < tyBits t := by cases t <;> decide
theorem tyBits_le (t : ETy) : tyBits t ≤ 64 := by cases t <;> decide

/-! The forms -/

/-- A two-source VINT form gives the elements of its operation `op`, which is `r` on elements of its type. -/
theorem binaryV_vint {s : State} {g : Guard} {t : ETy} {d a : VOp} {b : VB} (h : Clear s g (formVVB d a b)) {i : Instr}
    {op : Nat → Nat → Nat → Nat} (he : exec i s = vint op g t d a b s) {r : Nat → Nat → Nat}
    (hr : ∀ x y, x < 2 ^ tyBits t → y < 2 ^ tyBits t → op (tyBits t) x y = r x y) :
    BinaryV Retires i s d a b (tyBits t) fun x y => (r x y, 0) :=
  binaryV_plain h he fun x y hx hy => congrArg (·, 0) (hr x y hx hy)

theorem vectorIntegerForms : Claim.VectorIntegerResults := by
  intro s g t d a b h w sg gives
  have hsg (x : Nat) (hx : x < 2 ^ w) : intOf w true x = sg x := intOf_of_lt hx
  refine ⟨?vadd, ?vsub, ?vmul, ?vmulh, ?vand, ?vor, ?vxor, ?vshl, ?vshr, ?vsra, ?vmin, ?vmax, ?vminu, ?vmaxu, ?vabsd⟩
  case vadd | vmul | vand | vor | vxor | vshl | vshr | vminu | vmaxu => exact binaryV_vint h rfl fun _ _ _ _ => rfl
  case vsub => exact binaryV_vint h rfl fun _ _ _ hy => vSub_eq hy
  case vmulh => exact binaryV_vint h rfl fun x y hx hy => by rw [vMulh_eq, hsg x hx, hsg y hy]
  case vsra => exact binaryV_vint h rfl fun x y hx _ => by rw [vSra_eq, hsg x hx]
  case vmin => exact binaryV_vint h rfl fun x y hx hy => by rw [vMin_eq hx hy, hsg x hx, hsg y hy]
  case vmax => exact binaryV_vint h rfl fun x y hx hy => by rw [vMax_eq hx hy, hsg x hx, hsg y hy]
  case vabsd => exact binaryV_vint h rfl fun x y hx hy => by rw [vAbsd, hsg x hx, hsg y hy]

theorem exec_vcmp (g : Guard) (t : ETy) (c : Cond) (d : KOp) (a : VOp) (b : VB) (s : State) :
    exec (.vcmp g t c d a b) s =
      .next (s.plain g (formKVB d a b) (fxMask (tyBits t) (fun x y => (vcmpTest (tyBits t) c x y, 0)) d a b)) := rfl

theorem exec_vfcmp (g : Guard) (t : ETy) (c : FCond) (d : KOp) (a : VOp) (b : VB) (s : State) :
    exec (.vfcmp g t c d a b) s = .next (s.plain g (formKVB d a b) (fxMask (tyBits t) (fpCmp (fmtOf t) c) d a b)) := rfl

theorem vectorSelectAndCompare : Claim.VectorSelectAndCompare := by
  refine ⟨?vsel, ?compare⟩
  case vsel =>
    intro s g t d a b h w v
    exact givesV_plain h rfl (List.map_congr_left fun j _ => (apply_ite (keep w · j) _ _ _).symm) rfl
  intro s g t d a b h w sg
  refine ⟨fun c => ?vcmp, fun c => ?vfcmp⟩
  case vcmp =>
    have hw := tyBits_pos t
    have hw64 := tyBits_le t
    have hsg (x : Nat) (hx : x < 2 ^ w) : intOf w true x = sg x := intOf_of_lt hx
    refine maskV_plain h (exec_vcmp ..) fun x y hx hy => congrArg (·, 0) ?_
    cases c with
    | eq => exact vcmpTest_eq hw hw64 hx hy
    | ne => exact vcmpTest_ne hw hw64 hx hy
    | lt => rw [vcmpTest_lt hw hw64 hx hy, hsg x hx, hsg y hy]
    | ltu => exact vcmpTest_ltu hw64 hx hy
    | ge => rw [vcmpTest_ge hw hw64 hx hy, hsg x hx, hsg y hy]
    | geu => exact vcmpTest_geu hw64 hx hy
  case vfcmp => exact maskV_plain h (exec_vfcmp ..) fun _ _ _ _ => rfl

/-- Settles O20: every form of the group is one of the shapes of VecCore.lean, and its element operation is that of
R257, R258 or R240 on elements of its type. -/
theorem vectorIntegerResults : Obligations.VectorIntegerResults := ⟨vectorIntegerForms, vectorSelectAndCompare⟩

end Sys2Proof.Safety
end

section
/-! SUPPORT. Decoding and encoding are inverse (O1, O2): every decoder of a field inverts its encoder, and so does the
decoder of every group. -/

namespace Sys2Proof.Laws.RoundTrip

/-- The lemmas of the constructors, in the order of `Instr`. -/
theorem statement (i : Instr) : Statement i :=
  Instr.casesOn (motive := Statement) i
    add sub mul mulh mulhu div divu rem remu and or xor andn orn shl shr sra rotl rotr min max minu maxu clz ctz popc
    brev bswap sext bfx bfi sel li cmp test pand por pxor pandn pset pget br bri call calli ret loop halt nop ifence
    rdclk rdid fadd fsub fmul fdiv fsqrt fma fmin fmax fcmp fcvt fclass fsgn segld segnarrow segq vadd vsub vmul vmulh
    vand vor vxor vshl vshr vsra vmin vmax vminu vmaxu vabsd vsel vcmp vfadd vfsub vfmul vfma vfms vfnma vfmin vfmax
    vfdiv vfsqrt vfrcp vfrsq vfexp2 vfcmp vfcvt vbcast vins vext vshuf vslide vzip vunzip vredadd vfredadd vredmax
    vredmin vcompress vexpand bdot bunpk bpack bscale cbload cblook qdeq rpt rwait rstop ld st vld vst vgath vscat
    lsguard gld gst gvld gvst xget xput gpref aadd aand aor axor amin amax aminu amaxu aswap acas afadd afmin afmax
    radd rand ror rxor rmin rmax rminu rmaxu rfadd mwait fence acq rel rell flushp cwb cinv cpin cunpin ldisc lback
    lstat amsg rld rst rstn hret chpoll chlim barc bara barw barb spawn join texit launch frb fre fra frq job jwait
    jpoll jcancel trap kret sread swrite sysr sysw tlbinv lres lmove sstart sstop ctrr ctrw mark hint repeaterIssue
    longLatencyResult memoryReply injectionSlot agingTurn agingTenureEnd flitArrival flitTakenBack landedFlitAccept
    hbmServiceSlot reservedSlot bucketRefill homeRequest fillDataArrival invalidationArrival rellRecall combine
    frameRequest pageWalk tombstoneRetire incarnationBroadcast clusterReset poolpush keeperPreemptRequest
    landlordPreemptRequest controlSpaceWrite preemption resume keeperEntry landlordEntry machineCheck sidelogNotice
    sidelogReplay taskDeath deadFilterRetire deathNotice noticeRingDrain hbmUncorrectableError patrolScrubBurst
    scrubPassStart taskPop taskPriorityAging spillRefill spawnReceive stealRequest stealShipment stealRetryTimer
    poolIdleTimeout launchPlacement launchComplete migration messageArrival remoteLsAccess channelTransfer
    channelTimeout mwaitWake mwaitTimeout barrierCompletion bandBarrierArrival rouEdgeCheck regionHeldReadRetry
    regionCommit regionAbort jobStart jobUnitStep jobFinish tailWrite hostRecordTake completionEntry counterLowRead
    vfReset hostMemAccess backInvalidation spanRequest hostAtomic traceRecord traceWrite leaseSliceStart leaseSliceEnd
    breakHit powerGood lifeCycleChange getVersion getCapabilities negotiateAlgorithms getCertificate challenge
    getMeasurements moduleDescriptorRead powerLimitExceeded lastIterationRetires launchRetirement leaseRequest
    powerLimitSet drawWithinLimit

/-- Settles O1, one constructor at a time. -/
theorem decodeOfEncode : Obligations.DecodeOfEncode := statement

end Sys2Proof.Laws.RoundTrip

namespace Sys2Proof.Laws

/-! Decoders of operands, codings and layouts: what they accept is what the encoder gives (R184, R187, R189) -/

@[simp] theorem bind_eq_ok {α β : Type} {x : Except DecodeError α} {f : α → Except DecodeError β} {y : β} :
    (x >>= f) = .ok y ↔ ∃ a, x = .ok a ∧ f a = .ok y := by
  cases x with
  | error e => exact ⟨fun h => (nomatch h), fun ⟨_, h, _⟩ => (nomatch h)⟩
  | ok a => exact ⟨fun h => ⟨a, rfl, h⟩, fun ⟨_, h, k⟩ => by cases h; exact k⟩

@[simp] theorem pure_eq_ok {α : Type} {x y : α} : (pure x : Except DecodeError α) = .ok y ↔ x = y :=
  ⟨fun h => by cases h; rfl, fun h => by cases h; rfl⟩

@[simp] theorem zero_eq_ok {n : Nat} {b : BitVec n} {u : Unit} : zero b = .ok u ↔ b = 0 := by
  unfold zero
  split
  · next h => exact ⟨fun _ => h, fun _ => rfl⟩
  · next h => exact ⟨fun k => (nomatch k), fun k => absurd k h⟩

@[simp] theorem no_eq_ok {b : Bool} {u : Unit} : no b = .ok u ↔ b = false := by cases b <;> simp [no]

@[simp] theorem is_eq_ok {n : Nat} {b v : BitVec n} {u : Unit} : is b v = .ok u ↔ b = v := by
  unfold is
  split
  · next h => exact ⟨fun _ => h, fun _ => rfl⟩
  · next h => exact ⟨fun k => (nomatch k), fun k => absurd k h⟩

/-- What a decoder accepts, its encoder gives back: a check for one field value. -/
def recodes {α β : Type} [DecidableEq β] (dec : β → Except DecodeError α) (enc : α → β) (b : β) : Bool :=
  match dec b with
  | .ok a => enc a = b
  | .error _ => true

/-- A decoder that undoes its encoder, and whose accepted values all recode, is its inverse. -/
theorem dec_eq_ok {α β : Type} [DecidableEq β] {dec : β → Except DecodeError α} {enc : α → β}
    (h : ∀ a, dec (enc a) = .ok a) (k : ∀ b, recodes dec enc b = true) {b : β} {a : α} :
    dec b = .ok a ↔ enc a = b :=
  ⟨fun e => by simpa [recodes, e] using k b, fun e => e ▸ h a⟩

@[simp] theorem decS_eq_ok {b d} : decS b = .ok d ↔ encS d = b := dec_eq_ok decS_encS (by decide)
@[simp] theorem decV_eq_ok {b d} : decV b = .ok d ↔ encV d = b := dec_eq_ok decV_encV (by decide)
@[simp] theorem decP_eq_ok {b d} : decP b = .ok d ↔ encPOp d = b := dec_eq_ok decP_encPOp (by decide)
@[simp] theorem decK_eq_ok {b d} : decK b = .ok d ↔ encKOp d = b := dec_eq_ok decK_encKOp (by decide)
@[simp] theorem decKOpt_eq_ok {b d} : decKOpt b = .ok d ↔ encKOpt d = b := dec_eq_ok decKOpt_encKOpt (by decide)
@[simp] theorem decX_eq_ok {b d} : decX b = .ok d ↔ encX d = b := dec_eq_ok decX_encX (by decide)
@[simp] theorem decSeg_eq_ok {b i} : decSeg b = .ok i ↔ encSeg i = b := dec_eq_ok decSeg_encSeg (by decide)
@[simp] theorem decT_eq_ok {m t} : decT m = .ok t ↔ encT t = m := dec_eq_ok decT_encT (by decide)
@[simp] theorem decW_eq_ok {m w} : decW m = .ok w ↔ encW w = m := dec_eq_ok decW_encW (by decide)
@[simp] theorem decW0_eq_ok {m w} : decW0 m = .ok w ↔ encW0 w = m := dec_eq_ok decW0_encW0 (by decide)
@[simp] theorem decScope_eq_ok {m t} : decScope m = .ok t ↔ encScope t = m := dec_eq_ok decScope_encScope (by decide)
@[simp] theorem decCond_eq_ok {m t} : decCond m = .ok t ↔ encCond t = m := dec_eq_ok decCond_encCond (by decide)
@[simp] theorem decFCond_eq_ok {m t} : decFCond m = .ok t ↔ encFCond t = m := dec_eq_ok decFCond_encFCond (by decide)
@[simp] theorem decRm_eq_ok {m t} : decRm m = .ok t ↔ encRm t = m := dec_eq_ok decRm_encRm (by decide)
@[simp] theorem decQ4_eq_ok {b q} : decQ4 b = .ok q ↔ encQ4 q = b := dec_eq_ok decQ4_encQ4 (by decide)

/-- A field is the append of its upper and its lower part. -/
theorem append_eq_iff {m k : Nat} {x : BitVec (m + k)} {z : BitVec m} {y : BitVec k} :
    (z ++ y) = x ↔ x.extractLsb' k m = z ∧ x.extractLsb' 0 k = y := by
  constructor
  · rintro rfl
    exact ⟨by rw [ex_hi _ _ _ (Nat.le_refl _), Nat.sub_self, ex_all], by rw [ex_lo _ _ _ (by omega), ex_all]⟩
  · rintro ⟨rfl, rfl⟩
    apply BitVec.eq_of_getLsbD_eq
    intro i hi
    by_cases hk : i < k
    · simp
    · rw [bit_append_hi _ _ _ (by omega)]
      simp [show i - k < m by omega, show k + (i - k) = i by omega]

@[simp] theorem decSI_eq_ok {b x d} : decSI b x = .ok d ↔ encSI d = b ∧ encSIx d = x := by
  constructor
  · intro h
    unfold decSI at h
    split at h
    · next hb => cases h; exact ⟨hb.symm, rfl⟩
    · simp only [bind_eq_ok, pure_eq_ok, decS_eq_ok, zero_eq_ok] at h
      obtain ⟨o, rfl, _, rfl, rfl⟩ := h
      cases o <;> exact ⟨rfl, rfl⟩
  · rintro ⟨rfl, rfl⟩
    exact decSI_encSI d

@[simp] theorem map_eq_ok {α β : Type} {x : Except DecodeError α} {f : α → β} {y : β} :
    x.map f = .ok y ↔ ∃ a, x = .ok a ∧ f a = y := by
  cases x <;> simp [Except.map]

theorem opClass_index (b : BitVec 8) (h : (opClass b).toNat = 0) : encS (.s (opIndex b).toFin) = b := by
  revert b; decide +kernel

@[simp] theorem decCh_eq_ok {b c} : decCh b = .ok c ↔ encCh c = b := dec_eq_ok decCh_encCh (by decide)

@[simp] theorem decVB_eq_ok {b x d} : decVB b x = .ok d ↔ encVB d = b ∧ encVBx d = x := by
  refine ⟨fun h => ?_, fun ⟨hb, hx⟩ => hb ▸ hx ▸ decVB_encVB d⟩
  unfold decVB at h
  split at h
  · next hb => cases h; exact ⟨hb.symm, rfl⟩
  · simp only [bind_eq_ok, zero_eq_ok] at h
    obtain ⟨_, rfl, h⟩ := h
    split at h
    · next hc => cases h; exact ⟨opClass_index b hc, rfl⟩
    · simp only [map_eq_ok, decV_eq_ok] at h
      obtain ⟨o, rfl, rfl⟩ := h
      cases o <;> exact ⟨rfl, rfl⟩
    · simp only [map_eq_ok, decK_eq_ok] at h
      obtain ⟨o, rfl, rfl⟩ := h
      cases o <;> exact ⟨rfl, rfl⟩
    · simp only [map_eq_ok, decCh_eq_ok] at h
      obtain ⟨c, rfl, rfl⟩ := h
      exact ⟨rfl, rfl⟩

@[simp] theorem decBr_eq_ok {x o} : decBr x = .ok o ↔ encBr o = x := by
  simp only [decBr, bind_eq_ok, zero_eq_ok, pure_eq_ok, exists_const]
  exact (append_eq_iff (m := 16)).symm
@[simp] theorem decQ_eq_ok {x o} : decQ x = .ok o ↔ encQ o = x := by
  simp only [decQ, bind_eq_ok, zero_eq_ok, pure_eq_ok, exists_const]
  exact (append_eq_iff (m := 33)).symm
@[simp] theorem decH_eq_ok {x o} : decH x = .ok o ↔ encH o = x := by
  simp only [decH, bind_eq_ok, zero_eq_ok, pure_eq_ok, exists_const]
  exact (append_eq_iff (m := 40)).symm
@[simp] theorem decY_eq_ok {x o} : decY x = .ok o ↔ encY o = x := by
  simp only [decY, bind_eq_ok, zero_eq_ok, pure_eq_ok, exists_const]
  exact (append_eq_iff (m := 32)).symm

@[simp] theorem decL_eq_ok {a x m} : decL a x = .ok m ↔ encS m.a = a ∧ encL m = x := by
  constructor
  · intro h
    simp only [decL, bind_eq_ok, zero_eq_ok, decS_eq_ok, pure_eq_ok] at h
    obtain ⟨r, rfl, _, hz, rfl⟩ := h
    exact ⟨rfl, (append_eq_iff (m := 33)).mpr ⟨hz, rfl⟩⟩
  · rintro ⟨rfl, rfl⟩
    exact decL_encL m

theorem ofBool_getLsbD {n : Nat} (x : BitVec n) (i : Nat) : BitVec.ofBool (x.getLsbD i) = x.extractLsb' i 1 := by
  apply BitVec.eq_of_getLsbD_eq
  intro j hj
  obtain rfl : j = 0 := by omega
  simp

theorem ofNat_toFin {n : Nat} (x : BitVec n) : BitVec.ofNat n x.toFin.val = x := by simp

theorem encG_self {x : BitVec 48} {r : SOp} (h : x.extractLsb' 42 3 = 0) :
    encG ⟨(x.extractLsb' 45 3).toFin, r, x.extractLsb' 0 32, x.extractLsb' 32 10⟩ = x := by
  have hz : x.extractLsb' 42 3 = 0#3 := h
  simp (disch := rfl) only [encG, ← hz, ofNat_toFin, BitVec.extractLsb'_append_extractLsb'_eq_extractLsb']
  exact ex_all x

@[simp] theorem decG_eq_ok {a x m} : decG a x = .ok m ↔ encS m.a = a ∧ encG m = x := by
  constructor
  · intro h
    simp only [decG, bind_eq_ok, zero_eq_ok, decS_eq_ok, pure_eq_ok] at h
    obtain ⟨r, rfl, _, hz, rfl⟩ := h
    exact ⟨rfl, encG_self hz⟩
  · rintro ⟨rfl, rfl⟩
    exact decG_encG m

theorem encE_self {x : BitVec 48} (h : xTopE x = 0) : encE (xCond x) (xSgn x) (xSt x) (xSat x) (xRm x) = x := by
  have hz : x.extractLsb' 13 35 = 0#35 := h
  simp (disch := rfl) only [encE, ← hz, xCond, xSgn, xSt, xSat, xRm, ofBool_getLsbD,
    BitVec.extractLsb'_append_extractLsb'_eq_extractLsb']
  exact ex_all x

theorem encE_eq_iff {x : BitVec 48} {c s st sa rm} : encE c s st sa rm = x ↔
    xCond x = c ∧ xSgn x = s ∧ xSt x = st ∧ xSat x = sa ∧ xRm x = rm ∧ xTopE x = 0 := by
  refine ⟨?_, fun ⟨hc, hs, hst, hsa, hr, ht⟩ => hc ▸ hs ▸ hst ▸ hsa ▸ hr ▸ encE_self ht⟩
  rintro rfl
  simp

theorem encK_self {x : BitVec 48} (ht : xTopK x = 0) (hm : xMidK x = 0) : encK (xFmta x) (xSat x) (xRm x) = x := by
  have hzt : x.extractLsb' 16 32 = 0#32 := ht
  have hzm : x.extractLsb' 4 4 = 0#4 := hm
  simp (disch := rfl) only [encK, ← hzt, ← hzm, xFmta, xSat, xRm, ofBool_getLsbD,
    BitVec.extractLsb'_append_extractLsb'_eq_extractLsb']
  exact ex_all x

theorem encK_eq_iff {x : BitVec 48} {f sa rm} : encK f sa rm = x ↔
    xFmta x = f ∧ xSat x = sa ∧ xRm x = rm ∧ xTopK x = 0 ∧ xMidK x = 0 := by
  refine ⟨?_, fun ⟨hf, hsa, hr, ht, hm⟩ => hf ▸ hsa ▸ hr ▸ encK_self ht hm⟩
  rintro rfl
  simp

theorem encP_self {x : BitVec 48} (h : xTopP x = 0) :
    encP (xStrb x) (xStra x) (xStrd x) (xSeqlen x) (xCount x) = x := by
  have hz : x.extractLsb' 28 20 = 0#20 := h
  simp (disch := rfl) only [encP, ← hz, xStrb, xStra, xStrd, xSeqlen, xCount, ofNat_toFin,
    BitVec.extractLsb'_append_extractLsb'_eq_extractLsb']
  exact ex_all x

/-! The groups: the fields that decode to an instruction encode it (R191) -/

theorem ofNat_eq_iff {n : Nat} {x : BitVec 8} : BitVec.ofNat 8 n = x ↔ x.toNat = n % 256 := by
  rw [← BitVec.toNat_inj, BitVec.toNat_ofNat, eq_comm]

section
variable {g : Guard} {f : Fields} {i : Instr}

theorem encodeFields_decodeInt : decodeInt g f = .ok i →
    encodeFields i = some { f with op := 1, guard := g.enc, neg := g.neg } := by
  unfold decodeInt
  split <;> simp [-bind_pure_comp, -Bool.exists_bool, -Bool.forall_bool] <;> intros <;> subst_vars <;>
    show some _ = some _ <;> simp [ofNat_eq_iff, *]

theorem encodeFields_decodeCmp : decodeCmp g f = .ok i →
    encodeFields i = some { f with op := 2, guard := g.enc, neg := g.neg } := by
  unfold decodeCmp
  split <;> simp [-bind_pure_comp, -Bool.exists_bool, -Bool.forall_bool] <;> intros <;> subst_vars <;>
    show some _ = some _ <;> simp [ofNat_eq_iff, *]

theorem encodeFields_decodeCtrl : decodeCtrl g f = .ok i →
    encodeFields i = some { f with op := 3, guard := g.enc, neg := g.neg } := by
  unfold decodeCtrl
  split <;> simp [-bind_pure_comp, -Bool.exists_bool, -Bool.forall_bool] <;> intros <;> subst_vars <;>
    show some _ = some _ <;> simp [ofNat_eq_iff, *]

theorem encodeFields_decodeFp : decodeFp g f = .ok i →
    encodeFields i = some { f with op := 4, guard := g.enc, neg := g.neg } := by
  unfold decodeFp
  split <;> simp [-bind_pure_comp, -Bool.exists_bool, -Bool.forall_bool] <;> intros <;> subst_vars <;>
    show some _ = some _ <;> simp [ofNat_eq_iff, encE_eq_iff, *]

theorem encodeFields_decodeSeg : decodeSeg g f = .ok i →
    encodeFields i = some { f with op := 5, guard := g.enc, neg := g.neg } := by
  unfold decodeSeg
  split <;> simp [-bind_pure_comp, -Bool.exists_bool, -Bool.forall_bool] <;> intros <;> subst_vars <;>
    show some _ = some _ <;> simp [ofNat_eq_iff, *]

theorem encodeFields_decodeVint : decodeVint g f = .ok i →
    encodeFields i = some { f with op := 6, guard := g.enc, neg := g.neg } := by
  unfold decodeVint
  split <;> simp [-bind_pure_comp, -Bool.exists_bool, -Bool.forall_bool] <;> intros <;> subst_vars <;>
    show some _ = some _ <;> simp [ofNat_eq_iff, encE_eq_iff, *]

theorem encodeFields_decodeVfp : decodeVfp g f = .ok i →
    encodeFields i = some { f with op := 7, guard := g.enc, neg := g.neg } := by
  unfold decodeVfp
  split <;> simp only [bind_eq_ok, decT_eq_ok, decV_eq_ok, decVB_eq_ok, decKOpt_eq_ok, decK_eq_ok, zero_eq_ok, no_eq_ok,
    decRm_eq_ok, decFCond_eq_ok, pure_eq_ok, exists_const, forall_exists_index, and_imp, reduceCtorEq, false_imp_iff] <;> intros <;> subst_vars <;>
    show some _ = some _ <;> simp [ofNat_eq_iff, encE_eq_iff, *]

theorem encodeFields_decodeVperm : decodeVperm g f = .ok i →
    encodeFields i = some { f with op := 8, guard := g.enc, neg := g.neg } := by
  unfold decodeVperm
  split <;> simp [-bind_pure_comp, -Bool.exists_bool, -Bool.forall_bool] <;> intros <;> subst_vars <;>
    show some _ = some _ <;> simp [ofNat_eq_iff, *]

theorem encodeFields_decodeVblock : decodeVblock g f = .ok i →
    encodeFields i = some { f with op := 9, guard := g.enc, neg := g.neg } := by
  unfold decodeVblock
  split <;> simp [-bind_pure_comp, -Bool.exists_bool, -Bool.forall_bool] <;> intros <;> subst_vars <;>
    show some _ = some _ <;> simp [ofNat_eq_iff, encK_eq_iff, *]

theorem encodeFields_decodeRep : decodeRep g f = .ok i →
    encodeFields i = some { f with op := 10, guard := g.enc, neg := g.neg } := by
  unfold decodeRep
  split <;> simp [-bind_pure_comp, -Bool.exists_bool, -Bool.forall_bool] <;> intros <;> subst_vars <;>
    show some _ = some _ <;> simp [ofNat_eq_iff, encP_self, *]

theorem encodeFields_decodeLs : decodeLs g f = .ok i →
    encodeFields i = some { f with op := 11, guard := g.enc, neg := g.neg } := by
  unfold decodeLs
  split <;> simp [-bind_pure_comp, -Bool.exists_bool, -Bool.forall_bool] <;> intros <;> subst_vars <;>
    show some _ = some _ <;> simp [ofNat_eq_iff, *]

theorem encodeFields_decodeGm : decodeGm g f = .ok i →
    encodeFields i = some { f with op := 12, guard := g.enc, neg := g.neg } := by
  unfold decodeGm
  split <;> simp [-bind_pure_comp, -Bool.exists_bool, -Bool.forall_bool] <;> intros <;> subst_vars <;>
    show some _ = some _ <;> simp [ofNat_eq_iff, *]

theorem encodeFields_decodeAtom : decodeAtom g f = .ok i →
    encodeFields i = some { f with op := 13, guard := g.enc, neg := g.neg } := by
  unfold decodeAtom
  split <;> simp [-bind_pure_comp, -Bool.exists_bool, -Bool.forall_bool] <;> intros <;> subst_vars <;>
    show some _ = some _ <;> simp [ofNat_eq_iff, *]

theorem encodeFields_decodeOrder : decodeOrder g f = .ok i →
    encodeFields i = some { f with op := 14, guard := g.enc, neg := g.neg } := by
  unfold decodeOrder
  split <;> simp [-bind_pure_comp, -Bool.exists_bool, -Bool.forall_bool] <;> intros <;> subst_vars <;>
    show some _ = some _ <;> simp [ofNat_eq_iff, *]

theorem encodeFields_decodeLoft : decodeLoft g f = .ok i →
    encodeFields i = some { f with op := 15, guard := g.enc, neg := g.neg } := by
  unfold decodeLoft
  split <;> simp [-bind_pure_comp, -Bool.exists_bool, -Bool.forall_bool] <;> intros <;> subst_vars <;>
    show some _ = some _ <;> simp [ofNat_eq_iff, *]

theorem encodeFields_decodeMsg : decodeMsg g f = .ok i →
    encodeFields i = some { f with op := 16, guard := g.enc, neg := g.neg } := by
  unfold decodeMsg
  split <;> simp [-bind_pure_comp, -Bool.exists_bool, -Bool.forall_bool] <;> intros <;> subst_vars <;>
    show some _ = some _ <;> simp [ofNat_eq_iff, *]

theorem encodeFields_decodeBar : decodeBar g f = .ok i →
    encodeFields i = some { f with op := 17, guard := g.enc, neg := g.neg } := by
  unfold decodeBar
  split <;> simp [-bind_pure_comp, -Bool.exists_bool, -Bool.forall_bool] <;> intros <;> subst_vars <;>
    show some _ = some _ <;> simp [ofNat_eq_iff, *]

theorem encodeFields_decodeTask : decodeTask g f = .ok i →
    encodeFields i = some { f with op := 18, guard := g.enc, neg := g.neg } := by
  unfold decodeTask
  split <;> simp [-bind_pure_comp, -Bool.exists_bool, -Bool.forall_bool] <;> intros <;> subst_vars <;>
    show some _ = some _ <;> simp [ofNat_eq_iff, *]

theorem encodeFields_decodeRegion : decodeRegion g f = .ok i →
    encodeFields i = some { f with op := 19, guard := g.enc, neg := g.neg } := by
  unfold decodeRegion
  split <;> simp [-bind_pure_comp, -Bool.exists_bool, -Bool.forall_bool] <;> intros <;> subst_vars <;>
    show some _ = some _ <;> simp [ofNat_eq_iff, *]

theorem encodeFields_decodeJob : decodeJob g f = .ok i →
    encodeFields i = some { f with op := 20, guard := g.enc, neg := g.neg } := by
  unfold decodeJob
  split <;> simp [-bind_pure_comp, -Bool.exists_bool, -Bool.forall_bool] <;> intros <;> subst_vars <;>
    show some _ = some _ <;> simp [ofNat_eq_iff, *]

theorem encodeFields_decodeSys : decodeSys g f = .ok i →
    encodeFields i = some { f with op := 21, guard := g.enc, neg := g.neg } := by
  unfold decodeSys
  split <;> simp [-bind_pure_comp, -Bool.exists_bool, -Bool.forall_bool] <;> intros <;> subst_vars <;>
    show some _ = some _ <;> simp [ofNat_eq_iff, *]

end

/-- The fields that decode to an instruction are those that encode it. -/
theorem encodeFields_decodeFields {f : Fields} {i : Instr} (h : decodeFields f = .ok i) :
    encodeFields i = some f := by
  have of_op {n : Nat} {j : Instr} (hn : f.op.toNat = n) (hj : encodeFields j = some
      { f with op := BitVec.ofNat 8 n, guard := Guard.enc ⟨f.guard.toFin, f.neg⟩, neg := f.neg }) :
      encodeFields j = some f := by
    rw [hj, ← hn, Guard.enc, ofNat_toFin, BitVec.ofNat_toNat, BitVec.setWidth_eq]
  unfold decodeFields at h
  split at h
  · next hn => exact of_op hn (encodeFields_decodeInt h)
  · next hn => exact of_op hn (encodeFields_decodeCmp h)
  · next hn => exact of_op hn (encodeFields_decodeCtrl h)
  · next hn => exact of_op hn (encodeFields_decodeFp h)
  · next hn => exact of_op hn (encodeFields_decodeSeg h)
  · next hn => exact of_op hn (encodeFields_decodeVint h)
  · next hn => exact of_op hn (encodeFields_decodeVfp h)
  · next hn => exact of_op hn (encodeFields_decodeVperm h)
  · next hn => exact of_op hn (encodeFields_decodeVblock h)
  · next hn => exact of_op hn (encodeFields_decodeRep h)
  · next hn => exact of_op hn (encodeFields_decodeLs h)
  · next hn => exact of_op hn (encodeFields_decodeGm h)
  · next hn => exact of_op hn (encodeFields_decodeAtom h)
  · next hn => exact of_op hn (encodeFields_decodeOrder h)
  · next hn => exact of_op hn (encodeFields_decodeLoft h)
  · next hn => exact of_op hn (encodeFields_decodeMsg h)
  · next hn => exact of_op hn (encodeFields_decodeBar h)
  · next hn => exact of_op hn (encodeFields_decodeTask h)
  · next hn => exact of_op hn (encodeFields_decodeRegion h)
  · next hn => exact of_op hn (encodeFields_decodeJob h)
  · next hn => exact of_op hn (encodeFields_decodeSys h)
  · exact nomatch h

/-! What the encoder never gives (R186, R191, R192) -/

/-- The last function of each group, from OP 0x01 (R191). -/
def lastFns : List Nat :=
  [0x20, 0x07, 0x0A, 0x0B, 0x02, 0x10, 0x0E, 0x0C, 0x06, 0x02, 0x06, 0x06, 0x16, 0x08, 0x02, 0x06, 0x03, 0x03, 0x03, 0x03, 0x0E]

/-- An assigned OP with an assigned FN. -/
def assigned (f : Fields) : Bool :=
  f.op ≠ 0 && (lastFns[f.op.toNat - 1]?).any fun last => f.fn.toNat ≤ last

/-- An operand class that is not reserved. -/
def classOk (b : BitVec 8) : Bool := opClass b ≠ 5 && opClass b ≠ 6

theorem assigned_of_encodeFields (i : Instr) : (encodeFields i).all assigned = true := by cases i <;> rfl

@[simp] theorem classOk_encS (o : SOp) : classOk (encS o) = true := by
  rcases o with i | c <;> [revert i; revert c] <;> decide
@[simp] theorem classOk_encV (o : VOp) : classOk (encV o) = true := by
  rcases o with i | c <;> [revert i; revert c] <;> decide
@[simp] theorem classOk_encPOp (o : POp) : classOk (encPOp o) = true := by
  rcases o with i | c <;> [revert i; revert c] <;> decide
@[simp] theorem classOk_encKOp (o : KOp) : classOk (encKOp o) = true := by
  rcases o with i | c <;> [revert i; revert c] <;> decide
@[simp] theorem classOk_encSeg (i : Fin 8) : classOk (encSeg i) = true := by revert i; decide
@[simp] theorem classOk_encKOpt (o : KOpt) : classOk (encKOpt o) = true := by
  cases o with
  | none => rfl
  | k i => exact classOk_encKOp (.k i)
  | ch c => exact classOk_encKOp (.ch c)
@[simp] theorem classOk_encX (o : XOp) : classOk (encX o) = true := by
  cases o with
  | s i => exact classOk_encS (.s i)
  | v i => exact classOk_encV (.v i)
  | ch c => exact classOk_encS (.ch c)
@[simp] theorem classOk_encSI (o : SImm) : classOk (encSI o) = true := by
  cases o with
  | s i => exact classOk_encS (.s i)
  | ch c => exact classOk_encS (.ch c)
  | imm x => exact (by decide : classOk 0xE0#8 = true)
@[simp] theorem classOk_encVB (o : VB) : classOk (encVB o) = true := by
  cases o with
  | v i => exact classOk_encV (.v i)
  | s i => exact classOk_encS (.s i)
  | k i => exact classOk_encKOp (.k i)
  | imm x => exact (by decide : classOk 0xE0#8 = true)
  | ch c => exact classOk_encS (.ch c)
@[simp] theorem classOk_zero : classOk 0#8 = true := rfl

/-- The operand fields of an instruction's word are of no reserved class (R192). -/
def classesOk (f : Fields) : Bool := classOk f.d && classOk f.a && classOk f.b

theorem all_of_some {x : Option Fields} {p : Fields → Bool} (h : ∀ f, x = some f → p f = true) : x.all p = true := by
  cases x with
  | none => rfl
  | some f => exact h f rfl

theorem classOk_of_encodeFields (i : Instr) : (encodeFields i).all classesOk = true := by
  refine all_of_some fun f h => ?_
  cases i <;> cases h <;> simp [classesOk]

/-- Guard 000 with negate 1 is no guard of a well-formed instruction (R186). -/
theorem guard_of_wellFormed (i : Instr) (h : wellFormed i = true) :
    (encodeFields i).all (fun f => !(f.guard = 0 && f.neg)) = true := by
  have ok {g : Guard} (hg : g.ok = true) : (!(decide (g.enc = 0#3) && g.neg)) = true := by
    obtain ⟨p, n⟩ := g
    revert p n
    decide
  refine all_of_some fun f hf => ?_
  cases i <;> cases hf <;> simp only [wellFormed, Bool.and_eq_true, and_assoc] at h <;> exact ok (by simp_all)

theorem toWord_ofWord (w : BitVec 96) : (Fields.ofWord w).toWord = w := by
  simp (disch := rfl) only [Fields.ofWord, Fields.toWord, ofBool_getLsbD,
    BitVec.extractLsb'_append_extractLsb'_eq_extractLsb']
  exact ex_all w

theorem decode_eq_ok {w : BitVec 96} {i : Instr} (h : decode w = .ok i) :
    wellFormed i = true ∧ encodeFields i = some (Fields.ofWord w) := by
  unfold decode at h
  split at h
  · exact nomatch h
  · next j hj =>
    split at h
    · next hw => cases h; exact ⟨hw, encodeFields_decodeFields hj⟩
    · exact nomatch h

theorem encode_of_decode {w : BitVec 96} {i : Instr} (h : decode w = .ok i) : encode i = some w := by
  rw [encode, (decode_eq_ok h).2, Option.map_some, toWord_ofWord]

/-- A word is refused unless its fields pass every check that holds of a well-formed instruction's. -/
theorem refused_of_check {w : BitVec 96} (p : Fields → Bool)
    (hp : ∀ i, wellFormed i = true → (encodeFields i).all p = true) (hw : p (Fields.ofWord w) = false) :
    ∃ e, decode w = .error e := by
  cases h : decode w with
  | error e => exact ⟨e, rfl⟩
  | ok i =>
    obtain ⟨hi, hf⟩ := decode_eq_ok h
    have := hp i hi
    rw [hf, Option.all_some, hw] at this
    exact nomatch this

theorem refused_of_op {w : BitVec 96} (h : (w.extractLsb' 88 8).toNat = 0 ∨ 0x16 ≤ (w.extractLsb' 88 8).toNat) :
    ∃ e, decode w = .error e := by
  refine refused_of_check assigned (fun i _ => assigned_of_encodeFields i) ?_
  have hop : (Fields.ofWord w).op = w.extractLsb' 88 8 := rfl
  rw [assigned, hop]
  rcases h with h | h
  · have : w.extractLsb' 88 8 = 0#8 := BitVec.eq_of_toNat_eq h
    simp [this]
  · have : lastFns.length ≤ (w.extractLsb' 88 8).toNat - 1 := by simp only [lastFns, List.length_cons, List.length_nil]; omega
    rw [List.getElem?_eq_none this, Option.any_none, Bool.and_false]

theorem refused_of_fn {w : BitVec 96} {last : Nat}
    (h : lastFns[(w.extractLsb' 88 8).toNat - 1]? = some last) (hl : last < (w.extractLsb' 76 8).toNat) :
    ∃ e, decode w = .error e := by
  refine refused_of_check assigned (fun i _ => assigned_of_encodeFields i) ?_
  have hop : (Fields.ofWord w).op = w.extractLsb' 88 8 := rfl
  have hfn : (Fields.ofWord w).fn = w.extractLsb' 76 8 := rfl
  rw [assigned, hop, hfn, h, Option.any_some, decide_eq_false (Nat.not_le.mpr hl), Bool.and_false]

theorem extract_extract {n : Nat} (x : BitVec n) {s t m k : Nat} (h : t + m ≤ k) :
    (x.extractLsb' s k).extractLsb' t m = x.extractLsb' (s + t) m := by
  apply BitVec.eq_of_getLsbD_eq
  intro i hi
  simp [hi, show t + i < k by omega, Nat.add_assoc]

theorem refused_of_guard {w : BitVec 96} (h : w.extractLsb' 84 4 = 1) : ∃ e, decode w = .error e := by
  refine refused_of_check (fun f => !(f.guard = 0 && f.neg)) guard_of_wellFormed ?_
  have hg : w.extractLsb' 85 3 = 0#3 := by
    have := congrArg (BitVec.extractLsb' 1 3) h
    rwa [extract_extract w (by decide)] at this
  have hn : w.getLsbD 84 = true := by
    have := congrArg (fun x => x.getLsbD 0) h
    simpa using this
  simp [Fields.ofWord, hg, hn]

theorem refused_of_class {w : BitVec 96} {p : Nat} (hp : p ∈ [68, 60, 52])
    (h : w.extractLsb' (p + 5) 3 = 5 ∨ w.extractLsb' (p + 5) 3 = 6) : ∃ e, decode w = .error e := by
  have hc : ∀ k, classOk (w.extractLsb' k 8) = true → w.extractLsb' (k + 5) 3 ≠ 5 ∧ w.extractLsb' (k + 5) 3 ≠ 6 := by
    intro k hk
    rw [classOk, opClass, extract_extract w (by decide)] at hk
    simpa using hk
  refine refused_of_check _ (fun i _ => classOk_of_encodeFields i) ?_
  rw [Bool.eq_false_iff]
  intro ht
  simp only [classesOk, Fields.ofWord, Bool.and_eq_true] at ht
  obtain ⟨⟨hd, ha⟩, hb⟩ := ht
  rcases (by simpa using hp : p = 68 ∨ p = 60 ∨ p = 52) with rfl | rfl | rfl
  · exact absurd h (not_or.mpr (hc 68 hd))
  · exact absurd h (not_or.mpr (hc 60 ha))
  · exact absurd h (not_or.mpr (hc 52 hb))

theorem isEvent_of_encodeFields {i : Instr} {f : Fields} (h : encodeFields i = some f) : isEvent i = false := by
  cases i <;> first | rfl | exact nomatch h

/-- Settles O2: what decodes is encoded back, and every check on encoded fields refuses its words. -/
theorem encodeOfDecode : Obligations.EncodeOfDecode := fun _ =>
  ⟨fun _ h => ⟨(decode_eq_ok h).1, isEvent_of_encodeFields (decode_eq_ok h).2, encode_of_decode h⟩,
    refused_of_op, fun _ => refused_of_fn, refused_of_guard, fun _ => refused_of_class⟩

/-- Settles O3, by running the decoder. -/
theorem decodedWords : Obligations.DecodedWords := by
  unfold Obligations.DecodedWords
  decide +kernel

end Sys2Proof.Laws
end

section
/-! SUPPORT. Register reads and writes, POISON at channels (O10), and the two-source forms of the INT group (O11, O13): what
their functions are in integers. -/

namespace Sys2Proof.Safety

open Sys2Proof.Machine

/-! Integer values of the functions of R223 and R224 -/

section
variable (x y : Word)

theorem shAmt_eq : shAmt y = y.toNat % 64 := by
  rw [shAmt, BitVec.extractLsb'_toNat, Nat.shiftRight_zero]

theorem intAdd_eq : x + y = .ofNat 64 (x.toNat + y.toNat) := by
  rw [BitVec.ofNat_add, BitVec.ofNat_toNat, BitVec.ofNat_toNat, BitVec.setWidth_eq, BitVec.setWidth_eq]

theorem intSub_eq : x - y = .ofInt 64 (x.toNat - y.toNat) := by
  apply BitVec.eq_of_toInt_eq
  rw [BitVec.toInt_sub, BitVec.toInt_ofInt, BitVec.toInt_eq_toNat_bmod, BitVec.toInt_eq_toNat_bmod, Int.bmod_sub_bmod,
    Int.sub_bmod_bmod]

theorem intMul_eq : x * y = .ofNat 64 (x.toNat * y.toNat) := by
  apply BitVec.eq_of_toNat_eq
  rw [BitVec.toNat_mul, BitVec.toNat_ofNat]

theorem intMulh_eq : intMulh x y = (BitVec.ofInt 128 (x.toInt * y.toInt)).extractLsb' 64 64 := by
  apply BitVec.eq_of_toNat_eq
  rw [intMulh, BitVec.toNat_ofInt, BitVec.extractLsb'_toNat, BitVec.toNat_ofInt, Nat.shiftRight_eq_div_pow]
  generalize x.toInt * y.toInt = v
  omega

theorem intMulhu_eq : intMulhu x y = (BitVec.ofNat 128 (x.toNat * y.toNat)).extractLsb' 64 64 := by
  apply BitVec.eq_of_toNat_eq
  rw [intMulhu, BitVec.toNat_ofNat, BitVec.extractLsb'_toNat, BitVec.toNat_ofNat, Nat.shiftRight_eq_div_pow]
  generalize x.toNat * y.toNat = v
  omega

theorem shiftLeft_eq_ofNat (n : Nat) : x <<< n = .ofNat 64 (x.toNat * 2 ^ n) := by
  apply BitVec.eq_of_toNat_eq
  rw [BitVec.toNat_shiftLeft, BitVec.toNat_ofNat, Nat.shiftLeft_eq]

theorem shiftRight_eq_ofNat (n : Nat) : x >>> n = .ofNat 64 (x.toNat / 2 ^ n) := by
  apply BitVec.eq_of_toNat_eq
  rw [BitVec.toNat_ushiftRight, BitVec.toNat_ofNat, Nat.shiftRight_eq_div_pow, Nat.mod_eq_of_lt]
  exact (Nat.div_le_self _ _).trans_lt x.isLt

theorem sshiftRight_eq_ofInt (n : Nat) : x.sshiftRight n = .ofInt 64 (x.toInt / 2 ^ n) := by
  rw [← BitVec.ofInt_toInt (x := x.sshiftRight n), BitVec.toInt_sshiftRight, Int.shiftRight_eq_div_pow, Nat.cast_pow,
    Nat.cast_ofNat]

theorem intMin_eq : intMin x y = .ofInt 64 (min x.toInt y.toInt) := by
  rw [intMin, BitVec.slt_eq_decide]
  split <;> rename_i h <;> simp only [decide_eq_true_eq] at h
  · rw [min_eq_left h.le, BitVec.ofInt_toInt]
  · rw [min_eq_right (not_lt.mp h), BitVec.ofInt_toInt]

theorem intMax_eq : intMax x y = .ofInt 64 (max x.toInt y.toInt) := by
  rw [intMax, BitVec.slt_eq_decide]
  split <;> rename_i h <;> simp only [decide_eq_true_eq] at h
  · rw [max_eq_right h.le, BitVec.ofInt_toInt]
  · rw [max_eq_left (not_lt.mp h), BitVec.ofInt_toInt]

theorem intMinu_eq : intMinu x y = .ofNat 64 (min x.toNat y.toNat) := by
  rw [intMinu, BitVec.ult_eq_decide]
  split <;> rename_i h <;> simp only [decide_eq_true_eq] at h
  · rw [min_eq_left h.le]; simp
  · rw [min_eq_right (not_lt.mp h)]; simp

theorem intMaxu_eq : intMaxu x y = .ofNat 64 (max x.toNat y.toNat) := by
  rw [intMaxu, BitVec.ult_eq_decide]
  split <;> rename_i h <;> simp only [decide_eq_true_eq] at h
  · rw [max_eq_right h.le]; simp
  · rw [max_eq_left (not_lt.mp h)]; simp

theorem intRem_eq : intRem x y = if y = 0 then x else .ofInt 64 (x.toInt - y.toInt * x.toInt.tdiv y.toInt) := by
  rw [intRem, Int.tmod_def]

end

/-! How the shapes of the INT group retire -/

section
variable {i : Instr} {s : State} {g : Guard} {d a : SOp} {b : SImm}

/-- A form of two sources retires with its function of them, poisoned with either (R221). -/
theorem retires_int2 {f : Word → Word → Word} {r : Word} (h : Clear s g (formSSI d a b)) (he : exec i s = int2 f g d a b s)
    {x y : PWord} (hx : (s.view (useSSI d a b)).s (s.view (useSSI d a b)).a a = x)
    (hy : (s.view (useSSI d a b)).i (s.view (useSSI d a b)).b b = y)
    (ht : takesS d (x.p || y.p)) (hr : f x.v y.v = r) :
    Retires i s (useSSI d a b) [effS d r (x.p || y.p)] := by
  subst hx hy hr
  exact retires_putS h he rfl ht

/-- A form of two sources that leaves the rotation does so with its function of them held. -/
theorem holds_int2 {f : Word → Word → Word} {r : Word} (h : Clear s g (formSSI d a b))
    (he : exec i s = int2Slow f g d a b s)
    {x y : PWord} (hx : (s.view (useSSI d a b)).s (s.view (useSSI d a b)).a a = x)
    (hy : (s.view (useSSI d a b)).i (s.view (useSSI d a b)).b b = y)
    (ht : takesS d (x.p || y.p)) (hr : f x.v y.v = r) :
    Holds i s (useSSI d a b) [effS d r (x.p || y.p)] := by
  subst hx hy hr
  exact slow_holds h he (putS_ok ht _)

end

/-- Settles O11: each form retires with its function of A and B, which the equations above give in integers. -/
theorem integerResults : Obligations.IntegerResults := by
  intro s g d a b h v x y p n gives ht
  have hn : shAmt y = n := shAmt_eq y
  have hlt : n < 64 := Nat.mod_lt _ (by decide)
  have gives2 {i : Instr} {f : Word → Word → Word} {r : Word} (he : exec i s = int2 f g d a b s) (hr : f x y = r) :
      gives i r := retires_int2 h he rfl rfl ht hr
  refine ⟨gives2 rfl (intAdd_eq x y), gives2 rfl (intSub_eq x y), gives2 rfl (intMul_eq x y), gives2 rfl (intMulh_eq x y),
    gives2 rfl (intMulhu_eq x y), gives2 rfl rfl, gives2 rfl rfl, gives2 rfl rfl, gives2 rfl rfl, gives2 rfl rfl,
    gives2 rfl ?shl, gives2 rfl ?shr, gives2 rfl ?sra, gives2 rfl ?rotl, gives2 rfl ?rotr, gives2 rfl (intMin_eq x y),
    gives2 rfl (intMax_eq x y), gives2 rfl (intMinu_eq x y), gives2 rfl (intMaxu_eq x y)⟩
  case shl => rw [hn]; exact shiftLeft_eq_ofNat x n
  case shr => rw [hn]; exact shiftRight_eq_ofNat x n
  case sra => rw [hn]; exact sshiftRight_eq_ofInt x n
  case rotl =>
    rw [hn, BitVec.rotateLeft_def, Nat.mod_eq_of_lt hlt, shiftLeft_eq_ofNat, shiftRight_eq_ofNat]
  case rotr =>
    rw [hn, BitVec.rotateRight_def, Nat.mod_eq_of_lt hlt, shiftLeft_eq_ofNat, shiftRight_eq_ofNat]

/-- Settles O13: each form holds its function of A and B. -/
theorem divisionResults : Obligations.DivisionResults := by
  intro s g d a b h v x y p holds ht
  exact ⟨holds_int2 h rfl rfl rfl ht rfl, holds_int2 h rfl rfl rfl ht rfl, holds_int2 h rfl rfl rfl ht (intRem_eq x y),
    holds_int2 h rfl rfl rfl ht rfl⟩

/-! Registers (R197) -/

theorem getElem_bitSet {n : Nat} (x : BitVec n) (i j : Nat) (hj : j < n) (b : Bool) :
    (bitSet x i b)[j] = if j = i then b else x[j] := by
  rw [← BitVec.getLsbD_eq_getElem, ← BitVec.getLsbD_eq_getElem]
  cases b <;> by_cases h : j = i <;> simp [bitSet, h, hj] <;> omega

theorem registerFile : Claim.RegisterWrites := by
  intro r x q b y z
  refine ⟨rfl, rfl, rfl, rfl, rfl, rfl, fun i hi j => ?s, fun i hi j => ?p, fun i hi j => ?k, fun i j => ?v⟩
  case s =>
    refine ⟨?_, by simp [RegSet.eff, RegSet.setS, hi]⟩
    by_cases hj : j = i
    · subst hj
      simp [RegSet.eff, RegSet.setS, RegSet.getS, hi, getElem_bitSet]
    · have hv : (i : Nat) ≠ j := fun e => hj (Fin.ext e.symm)
      simp [RegSet.eff, RegSet.setS, RegSet.getS, hi, hj, getElem_bitSet, hv, hv.symm]
  case p =>
    refine ⟨?_, by simp [RegSet.eff, RegSet.setP, hi]⟩
    by_cases hj : j = i
    · subst hj
      simp [RegSet.eff, RegSet.setP, RegSet.getP, hi, getElem_bitSet]
    · have hv : (i : Nat) ≠ j := fun e => hj (Fin.ext e.symm)
      simp [RegSet.eff, RegSet.setP, RegSet.getP, hi, hj, getElem_bitSet, hv.symm]
  case k =>
    refine ⟨?_, by simp [RegSet.eff, RegSet.setK, hi]⟩
    by_cases hj : j = i
    · subst hj
      simp [RegSet.eff, RegSet.setK, RegSet.getK, hi]
    · have hv : (i : Nat) ≠ j := fun e => hj (Fin.ext e.symm)
      simp [RegSet.eff, RegSet.setK, RegSet.getK, hi, hj, hv]
  case v =>
    by_cases hj : j = i
    · subst hj
      simp [RegSet.eff, RegSet.setV]
    · have hv : (i : Nat) ≠ j := fun e => hj (Fin.ext e.symm)
      simp [RegSet.eff, RegSet.setV, hj, hv]

/-! A poisoned result for a channel (R168) -/

theorem firstPoison_of_poisoned {a b d : Bool} {n : Nat} (h : poisoned a b d = some n) :
    (a || b || d) = true ∧ firstPoison a b d = n := by
  revert h
  cases a <;> cases b <;> cases d <;> simp [poisoned, firstPoison]

theorem firstPoison_two {a b : Bool} (h : a = true ∨ b = true) :
    (a || b) = true ∧ firstPoison a b false = if a then 1 else 2 := by
  revert h
  cases a <;> cases b <;> simp [firstPoison]

theorem putS_poison {c : Fin 4} {x : Word} {p : Bool} (hp : p = true) (src : Nat) :
    putS (.ch c) x p src = .error (tPoison src) := by
  subst hp
  rfl

theorem putFp_poison {c : Fin 4} {r : Nat × Flags} {p : Bool} (hp : p = true) (src : Nat) :
    putFp (.ch c) r p src = .error (tPoison src) := by
  subst hp
  rfl

section
variable {i : Instr} {s : State} {g : Guard} {f : Form} {fx : View → Except TrapInfo (List Eff)} {c : Fin 4} {p : Bool} {src n : Nat}

theorem traps_putS (h : Clear s g f) (he : exec i s = .next (s.plain g f fx) ∨ exec i s = .next (s.slow g f fx))
    {x : Word} (hx : fx (s.view f.use) = putS (.ch c) x p src) (hp : p = true ∧ src = n) : Traps i s (tPoison n) := by
  obtain ⟨hp, rfl⟩ := hp
  exact he.elim (plain_traps h · (hx.trans (putS_poison hp src))) (slow_traps h · (hx.trans (putS_poison hp src)))

theorem traps_putFp (h : Clear s g f) (he : exec i s = .next (s.plain g f fx) ∨ exec i s = .next (s.slow g f fx))
    {r : Nat × Flags} (hx : fx (s.view f.use) = putFp (.ch c) r p src) (hp : p = true ∧ src = n) :
    Traps i s (tPoison n) := by
  obtain ⟨hp, rfl⟩ := hp
  exact he.elim (plain_traps h · (hx.trans (putFp_poison hp src))) (slow_traps h · (hx.trans (putFp_poison hp src)))

end

theorem poisonStopsAtChannels : Claim.PoisonStopsAtChannels := by
  intro s g c a d
  refine ⟨?int2, ?int1, ?int3, ?li, fun t st rm sat sgn => ⟨?fp2, ?fma, ?fp1⟩⟩
  case int2 =>
    intro b h v x y hp
    have traps {i : Instr} {f : Word → Word → Word} (he : exec i s = int2 f g d a b s ∨ exec i s = int2Slow f g d a b s) :
        Traps i s (tPoison (if x.p then 1 else 2)) := traps_putS h he rfl (firstPoison_two hp)
    simp only [List.forall_mem_cons]
    exact ⟨traps (.inl rfl), traps (.inl rfl), traps (.inl rfl), traps (.inl rfl), traps (.inl rfl), traps (.inr rfl),
      traps (.inr rfl), traps (.inr rfl), traps (.inr rfl), traps (.inl rfl), traps (.inl rfl), traps (.inl rfl),
      traps (.inl rfl), traps (.inl rfl), traps (.inl rfl), traps (.inl rfl), traps (.inl rfl), traps (.inl rfl),
      traps (.inl rfl), traps (.inl rfl), traps (.inl rfl), traps (.inl rfl), traps (.inl rfl), traps (.inl rfl), by simp⟩
  case int1 =>
    intro w sgn h v hp
    have traps {i : Instr} {f : Word → Word} (he : exec i s = int1 f g d a s) : Traps i s (tPoison 1) :=
      traps_putS h (.inl he) rfl ⟨hp, rfl⟩
    simp only [List.forall_mem_cons]
    exact ⟨traps rfl, traps rfl, traps rfl, traps rfl, traps rfl, traps rfl, by simp⟩
  case int3 =>
    intro b h v n hn
    exact ⟨traps_putS h (.inl rfl) rfl (firstPoison_of_poisoned hn),
      traps_putS h (.inl rfl) rfl (firstPoison_of_poisoned hn)⟩
  case li =>
    intro b h v hp
    exact traps_putS h (.inl rfl) rfl ⟨hp, rfl⟩
  case fp2 =>
    intro b h v x y hp
    have traps {i : Instr} {f : Rmode → Nat → Nat → Nat × Flags} {rm : Rm}
        (he : exec i s = fp2 f g rm d a b s ∨ exec i s = .next (s.slow g (formSSS d a b) (fxFp2 f rm d a b))) :
        Traps i s (tPoison (if x.p then 1 else 2)) := traps_putFp h he rfl (firstPoison_two hp)
    simp only [List.forall_mem_cons]
    exact ⟨traps (.inl rfl), traps (.inl rfl), traps (.inl rfl), traps (.inr rfl), traps (.inl rfl), traps (.inl rfl),
      traps (.inl rfl), by simp⟩
  case fma =>
    intro b h v n hn
    exact traps_putFp h (.inl rfl) rfl (firstPoison_of_poisoned hn)
  case fp1 =>
    intro h v hp
    have traps {i : Instr} {f : Rmode → Nat → Nat × Flags} {rm : Rm}
        (he : exec i s = .next (s.plain g { use := useSS d a } (fxFp1 f rm d a)) ∨
          exec i s = .next (s.slow g { use := useSS d a } (fxFp1 f rm d a))) : Traps i s (tPoison 1) :=
      traps_putFp h he rfl ⟨hp, rfl⟩
    simp only [List.forall_mem_cons]
    exact ⟨traps (.inr rfl), traps (.inl rfl), traps (.inl rfl), by simp⟩

/-- Settles O10: the file's reads and writes, and the result that `putS` refuses a channel. -/
theorem registerWrites : Obligations.RegisterWrites := ⟨registerFile, poisonStopsAtChannels⟩

end Sys2Proof.Safety
end

section
/-! SUPPORT. The CMP group (O14) and the CTRL group (O15): predicates, targets, links, and the line that IFENCE enters. -/

namespace Sys2Proof.Safety

open Sys2Proof.Machine

/-! Predicates (R228) -/

theorem bne_eq_decide (x y : Word) : (x != y) = decide (x ≠ y) := by rw [bne, beq_eq_decide, ← decide_not]

theorem condHolds_eq (c : Cond) (x y : Word) : condHolds c x y =
    match c with
    | .eq => decide (x = y)
    | .ne => decide (x ≠ y)
    | .lt => decide (x.toInt < y.toInt)
    | .ltu => decide (x.toNat < y.toNat)
    | .ge => decide (y.toInt ≤ x.toInt)
    | .geu => decide (y.toNat ≤ x.toNat) := by
  cases c with
  | eq => exact beq_eq_decide _ _
  | ne => exact bne_eq_decide _ _
  | lt => exact BitVec.slt_eq_decide
  | ltu => exact BitVec.ult_eq_decide
  | ge => simp only [condHolds, BitVec.slt_eq_decide, ← decide_not, not_lt]
  | geu => simp only [condHolds, BitVec.ult_eq_decide, ← decide_not, not_lt]

section
variable {i : Instr} {s : State} {g : Guard} {d : POp} {a : SOp} {b : SImm}

theorem retires_putP {f : Form} (h : Clear s g f) {fx : View → Except TrapInfo (List Eff)}
    (he : exec i s = .next (s.plain g f fx)) {r q : Bool} (hx : fx (s.view f.use) = .ok (putP d r)) (hr : r = q) :
    Retires i s f.use [effP d q] := by
  subst hr
  exact plain_retires h he (hx.trans (by rw [putP_eq])) (by simp [effP_notLs])

theorem retires_cmp2 {f : Word → Word → Bool} (h : Clear s g (formCmp d a b)) (he : exec i s = cmp2 f g d a b s)
    {x y : PWord} (hx : (s.view (formCmp d a b).use).s (s.view (formCmp d a b).use).a a = x)
    (hy : (s.view (formCmp d a b).use).i (s.view (formCmp d a b).use).b b = y)
    (hxp : x.p = false) (hyp : y.p = false) {r : Bool} (hr : f x.v y.v = r) :
    Retires i s (formCmp d a b).use [effP d r] := by
  refine retires_putP h he ?_ hr
  subst hx hy
  simp only [fxCmp, hxp, hyp]
  rfl

theorem traps_cmp2 {f : Word → Word → Bool} (h : Clear s g (formCmp d a b)) (he : exec i s = cmp2 f g d a b s)
    {x y : PWord} (hx : (s.view (formCmp d a b).use).s (s.view (formCmp d a b).use).a a = x)
    (hy : (s.view (formCmp d a b).use).i (s.view (formCmp d a b).use).b b = y)
    (hp : x.p = true ∨ y.p = true) : Traps i s (tPoison (if x.p then 1 else 2)) := by
  refine plain_traps h he ?_
  subst hx hy
  simp only [fxCmp, needClean_poison (by simpa using hp)]

end

/-- Settles O14: a poisoned source fails `needClean`; otherwise the predicate is the condition's. -/
theorem predicateResults : Obligations.PredicateResults := by
  refine ⟨?cmp, ?pred, ?pset, ?pget⟩
  case cmp =>
    intro s g c d a b h v x y cond
    refine ⟨fun hx hy => ⟨retires_cmp2 h rfl rfl rfl hx hy ?_, retires_cmp2 h rfl rfl rfl hx hy ?_⟩,
      fun hp => ⟨traps_cmp2 h rfl rfl rfl hp, traps_cmp2 h rfl rfl rfl hp⟩⟩
    · exact condHolds_eq c x.v y.v
    · exact bne_eq_decide _ _
  case pred =>
    intro s g d a b h v x y
    exact ⟨retires_putP h rfl rfl rfl, retires_putP h rfl rfl rfl, retires_putP h rfl rfl rfl, retires_putP h rfl rfl rfl⟩
  case pset =>
    intro s g d b h v y
    refine ⟨fun hp => retires_putP h rfl ?_ rfl, fun hp => plain_traps h rfl ?_⟩
    · show fxPset d b v = _
      simp only [fxPset, show (v.i v.b b).p = false from hp]
      rfl
    · show fxPset d b v = _
      simp only [fxPset, show (v.i v.b b).p = true from hp]
      rfl
  case pget =>
    intro s g d a h v
    exact retires_putS h rfl rfl fun _ _ => rfl

/-! Targets and links (R230, R231) -/

/-- A PC is its space and its index. -/
theorem ofNat_space (b : Bool) {k : Nat} (hk : k < 2 ^ 23) :
    (BitVec.ofNat 24 ((if b then 2 ^ 23 else 0) + k)) = BitVec.ofBool b ++ BitVec.ofNat 23 k := by
  apply BitVec.eq_of_toNat_eq
  rw [BitVec.toNat_append, BitVec.toNat_ofNat, BitVec.toNat_ofNat, Nat.mod_eq_of_lt hk, ← Nat.shiftLeft_add_eq_or_of_lt hk,
    Nat.shiftLeft_eq]
  cases b <;> simp <;> omega

theorem relTarget_ok {pc : Pc} {off : BitVec 32} (h : 0 ≤ ((pc.extractLsb' 0 23).toNat : Int) + off.toInt ∧
    ((pc.extractLsb' 0 23).toNat : Int) + off.toInt < 2 ^ 23) : relTarget pc off =
      .ok (BitVec.ofBool (pc.getLsbD 23) ++ BitVec.ofInt 23 (((pc.extractLsb' 0 23).toNat : Int) + off.toInt)) := by
  obtain ⟨n, hn⟩ := Int.eq_ofNat_of_zero_le h.1
  rw [hn] at h ⊢
  rw [relTarget, hn]
  simp only [show ¬ ((n : Int) < 0 ∨ (2 : Int) ^ 23 ≤ n) by omega, Bool.or_eq_true, decide_eq_true_eq, if_false, Int.toNat_natCast]
  rw [ofNat_space _ (by omega), BitVec.ofInt_natCast]

theorem relTarget_error {pc : Pc} {off : BitVec 32} (h : ¬ (0 ≤ ((pc.extractLsb' 0 23).toNat : Int) + off.toInt ∧
    ((pc.extractLsb' 0 23).toNat : Int) + off.toInt < 2 ^ 23)) : relTarget pc off = .error tIllegal := by
  rw [relTarget]
  simp only [Bool.or_eq_true, decide_eq_true_eq, ite_eq_left_iff, reduceCtorEq, imp_false, not_not]
  omega

theorem linkOf_eq (pc : Pc) :
    linkOf pc = 0#40 ++ (BitVec.ofBool (pc.getLsbD 23) ++ (pc.extractLsb' 0 23 + 1)) := by
  have hlt : ((pc.extractLsb' 0 23).toNat + 1) % 2 ^ 23 < 2 ^ 23 := Nat.mod_lt _ (by decide)
  have hs : (pc.extractLsb' 0 23 + 1) = BitVec.ofNat 23 (((pc.extractLsb' 0 23).toNat + 1) % 2 ^ 23) := by
    apply BitVec.eq_of_toNat_eq
    simp
  rw [hs, ← ofNat_space _ hlt]
  apply BitVec.eq_of_toNat_eq
  rw [linkOf, BitVec.toNat_append]
  cases pc.getLsbD 23 <;> simp <;> omega

theorem fxLoop_poison {d : SOp} {off : BitVec 32} {v : View} {t : Pc} (ht : relTarget v.regs.pc off = .ok t)
    (hp : (v.s v.d d).p = true) : fxLoop d off v = .error (tPoison 0) := by
  simp only [fxLoop, ht, hp, if_true]

theorem fxLoop_clean {d : SOp} {off : BitVec 32} {v : View} {t : Pc} (ht : relTarget v.regs.pc off = .ok t)
    (hp : ¬ (v.s v.d d).p = true) : fxLoop d off v =
      .ok (if (v.s v.d d).v - 1 = 0 then [effS d 0 false] else [effS d ((v.s v.d d).v - 1) false, .jump t]) := by
  have hput : putS d ((v.s v.d d).v - 1) false 4 = .ok [effS d ((v.s v.d d).v - 1) false] := putS_ok (fun _ _ => rfl) 4
  simp only [fxLoop, ht, hp, hput, Bool.false_eq_true, if_false]
  split
  · next h => rw [h]
  · rfl

theorem fxBri_poison {a : SOp} {v : View} (hp : (v.s v.a a).p = true) : fxBri a v = .error (tPoison 1) := by
  simp only [fxBri, hp, if_true]

theorem fxBri_clean {a : SOp} {v : View} (hp : ¬ (v.s v.a a).p = true) :
    fxBri a v = .ok [.jump ((v.s v.a a).v.extractLsb' 0 24)] := by
  simp only [fxBri, hp, Bool.false_eq_true, if_false]
  rfl

theorem fxCalli_poison {a : SOp} {v : View} (hp : (v.s v.a a).p = true) : fxCalli a v = .error (tPoison 1) := by
  simp only [fxCalli, hp, if_true]

theorem fxCalli_clean {a : SOp} {v : View} (hp : ¬ (v.s v.a a).p = true) : fxCalli a v =
    .ok [.s 1 (linkOf v.regs.pc) false, .jump ((v.s v.a a).v.extractLsb' 0 24)] := by
  simp only [fxCalli, hp, Bool.false_eq_true, if_false]
  rfl

theorem branchesAndCalls : Claim.BranchesAndCalls := by
  intro s g pc space link
  have hlink : linkOf pc = link := linkOf_eq pc
  refine ⟨?off, ?reg, ?ret⟩
  case off =>
    intro off d n tgt
    refine ⟨?rel, ?loop⟩
    case rel =>
      intro h
      split
      · next ht =>
        have htgt : relTarget (s.view {}).regs.pc off = .ok _ := relTarget_ok ht
        have hbr : fxBr off (s.view {}) = .ok [.jump tgt] := by rw [fxBr, htgt]; rfl
        have hcall : fxCall off (s.view {}) = .ok [.s 1 (linkOf pc) false, .jump tgt] := by rw [fxCall, htgt]; rfl
        rw [hlink] at hcall
        exact ⟨plain_retires h rfl hbr rfl, plain_retires h rfl hcall rfl⟩
      · next ht =>
        have htgt : relTarget (s.view {}).regs.pc off = .error tIllegal := relTarget_error ht
        have hbr : fxBr off (s.view {}) = .error tIllegal := by rw [fxBr, htgt]
        have hcall : fxCall off (s.view {}) = .error tIllegal := by rw [fxCall, htgt]
        exact ⟨plain_traps h rfl hbr, plain_traps h rfl hcall⟩
    case loop =>
      intro h v x
      split
      · next ht =>
        have htgt : relTarget v.regs.pc off = .ok _ := relTarget_ok ht
        split
        · next hp => exact plain_traps h rfl (fxLoop_poison htgt hp)
        · next hp =>
          refine plain_retires h rfl (fxLoop_clean htgt hp) ?_
          split <;> simp only [List.all_cons, effS_notLs] <;> rfl
      · next ht =>
        have htgt : relTarget v.regs.pc off = .error tIllegal := relTarget_error ht
        exact plain_traps h rfl (show fxLoop d off v = _ by simp only [fxLoop, htgt]; rfl)
  case reg =>
    intro a h v x
    split
    · next hp => exact ⟨plain_traps h rfl (fxBri_poison hp), plain_traps h rfl (fxCalli_poison hp)⟩
    · next hp =>
      have hcalli : fxCalli a v = .ok [.s 1 link false, .jump (x.v.extractLsb' 0 24)] := by
        rw [fxCalli_clean hp, show v.regs.pc = pc from rfl, hlink]
      exact ⟨plain_retires h rfl (fxBri_clean hp) rfl, plain_retires h rfl hcalli rfl⟩
  case ret =>
    intro h x
    have hx : (s.view {}).regs.getS 1 = x := rfl
    split
    · next hp => exact plain_traps h rfl (show fxRet (s.view {}) = .error (tPoison 4) by rw [fxRet, hx]; simp only [hp, if_true])
    · next hp =>
      exact plain_retires h rfl (show fxRet (s.view {}) = .ok [.jump (x.v.extractLsb' 0 24)] by
        rw [fxRet, hx]; simp only [hp, Bool.false_eq_true, if_false]; rfl) rfl

/-! IFENCE (R235, R195) -/

/-- A line depends on the local store and the context's code alone. -/
theorem readLine_congr {k m : Core} (hls : k.ls = m.ls) (hp : k.lsP = m.lsP) (x : Ctx) (pc : Pc) :
    readLine k x pc = readLine m x pc := by
  simp only [readLine, wordAt, lsBytes, lsByte, hls, hp]

/-- A line that holds a PC is the same line read at either. -/
theorem readLine_of_lineHolds {k : Core} {x : Ctx} {pc pc' : Pc} (h : lineHolds (some (readLine k x pc)) pc' = true) :
    readLine k x pc = readLine k x pc' := by
  obtain ⟨hc, hn⟩ := Bool.and_eq_true_iff.mp h
  have hc : pc.getLsbD 23 = pc'.getLsbD 23 := of_decide_eq_true hc
  have hn : (pc.extractLsb' 0 23).toNat / 8 = (pc'.extractLsb' 0 23).toNat / 8 := of_decide_eq_true hn
  simp only [readLine, hc, hn]

theorem OwnOnly.ls {s t : State} (h : OwnOnly s t) :
    (t.core s.cur.core).ls = (s.core s.cur.core).ls ∧ (t.core s.cur.core).lsP = (s.core s.cur.core).lsP := by
  refine ⟨?_, ?_⟩
  · exact (congrArg Core.ls h.core :)
  · exact (congrArg Core.lsP h.core :)

theorem lineOf_enterLine (s : State) (c p : Nat) : (s.enterLine c p).lineOf c p =
    some (readLine (s.core c) (s.ctx (clusterOf c) (s.tagOf c p)) (s.regsOf c p).pc) := by
  by_cases h : p = 6
  · simp [State.enterLine, State.lineOf, h]
  · simp [State.enterLine, State.lineOf, h]

theorem lineOf_setRegsOf (s : State) (c p : Nat) (r : RegSet) : (s.setRegsOf c p r).lineOf c p = s.lineOf c p := by
  by_cases h : p = 6
  · subst h
    cases he : (s.porter c).cur with
    | none => simp [State.lineOf, setRegsOf_none r he]
    | some e =>
      cases hl : e.landlord with
      | true => simp [State.lineOf, setRegsOf_landlord r he hl]
      | false => simp [State.lineOf, setRegsOf_keeper r he hl]
  · simp [State.setRegsOf, State.lineOf, h]

/-- After a move the party's line is the one that memory holds at its PC, when it was so before. -/
theorem lineOf_goto {s : State} {pc pc' : Pc} (h : s.lineOf s.cur.core s.cur.pos = some (readLine (s.core s.cur.core)
      (s.ctx (clusterOf s.cur.core) (s.tagOf s.cur.core s.cur.pos)) pc)) :
    (s.goto s.cur.core s.cur.pos pc').lineOf s.cur.core s.cur.pos = some (readLine (s.core s.cur.core)
      (s.ctx (clusterOf s.cur.core) (s.tagOf s.cur.core s.cur.pos)) pc') := by
  have hown := ownOnly_setRegs s { s.regsOf s.cur.core s.cur.pos with pc := pc' }
  unfold State.goto
  simp only [lineOf_setRegsOf, h]
  split
  · next hl => rw [lineOf_setRegsOf, h, readLine_of_lineHolds hl]
  · rw [lineOf_enterLine, regsOf_setRegsOf, hown.ctx, hown.tagOf, readLine_congr hown.ls.1 hown.ls.2]

theorem regs_enterLine (s : State) : (s.enterLine s.cur.core s.cur.pos).regs = s.regs := by
  rw [State.regs, State.regs, (ownOnly_enterLine s).cur, regsOf_enterLine]

/-- IFENCE names no channel, so it takes no word of one. -/
theorem chans_takeSrcs_none (s : State) (d q : Nat) :
    mapGet [] ((s.takeSrcs {}).core d).chans q = mapGet [] (s.core d).chans q := by
  rw [State.takeSrcs, chans_chTake]
  split <;> rfl

theorem settled_ifence (s : State) : Settled s s.ifence {} [] :=
  settled_from [] (ownOnly_enterLine s) (regs_enterLine s)
    (fun d q => by rw [chans_enterLine, chans_takeSrcs_none]) rfl

theorem lineOf_ifence (s : State) : s.ifence.lineOf s.cur.core s.cur.pos = some (readLine (s.core s.cur.core)
    (s.ctx (clusterOf s.cur.core) (s.tagOf s.cur.core s.cur.pos)) (s.pc + 1)) := by
  let t := s.enterLine s.cur.core s.cur.pos
  let u := t.setRegsOf s.cur.core s.cur.pos (t.regsOf s.cur.core s.cur.pos)
  have ht : OwnOnly s t := ownOnly_enterLine s
  have hu : OwnOnly s u := by
    have := ownOnly_setRegs t (t.regsOf s.cur.core s.cur.pos)
    rw [ht.cur] at this
    exact ht.trans this
  have hcur : u.cur = s.cur := hu.cur
  have hline : u.lineOf u.cur.core u.cur.pos = some (readLine (u.core u.cur.core)
      (u.ctx (clusterOf u.cur.core) (u.tagOf u.cur.core u.cur.pos)) s.pc) := by
    rw [hcur, hu.ctx, hu.tagOf, readLine_congr hu.ls.1 hu.ls.2]
    show (t.setRegsOf s.cur.core s.cur.pos _).lineOf _ _ = _
    rw [lineOf_setRegsOf, lineOf_enterLine]
    rfl
  have hgo : s.ifence = u.goto u.cur.core u.cur.pos (s.pc + 1) := by
    show t.retireOf t.cur.core t.cur.pos [] = _
    rw [retireOf_eq, hcur, ht.cur, regsOf_enterLine]
    rfl
  have := lineOf_goto (pc' := s.pc + 1) hline
  rw [hgo]
  rw [hcur, hu.ctx, hu.tagOf, readLine_congr hu.ls.1 hu.ls.2] at this
  rwa [hcur]

theorem plainControl : Claim.PlainControl := by
  intro s g d
  refine ⟨fun h => plain_retires h rfl rfl rfl, fun h => ⟨retires_putS h rfl rfl fun _ _ => rfl,
    retires_putS h rfl rfl fun _ _ => rfl⟩, fun h => ?_⟩
  · have he : exec (.ifence g) s = .next s.ifence := by
      show Host.Outcome.next (s.issue g {} (fun _ => .ok ()) fun s _ => s.ifence) = _
      rw [issue_ok h (x := ()) rfl, holdChans_none rfl]
    exact ⟨s.ifence, he, settled_ifence s, lineOf_ifence s⟩

/-- Settles O15. -/
theorem controlResults : Obligations.ControlResults := ⟨branchesAndCalls, plainControl⟩

end Sys2Proof.Safety
end

section
/-! SUPPORT. A false guard (O9): every form reads its guard right after the checks of its class and level (R159, R186). -/

namespace Sys2Proof.Safety

open Sys2Proof.Machine

/-- An instruction whose guard is false only moves on, when the first two checks of R159 let it pass; `g` is its guard
and `chan` says whether it names a channel. -/
def Skips (i : Instr) (s : State) (g : Guard) (chan : Bool) : Prop :=
  (s.isPorter && (strandOnly i || chan)) = false → levelOf i ≤ s.level.toNat → s.guardTrue g = false →
    exec i s = .next (s.retire (match i with
      | .rpt _ _ _ _ n _ => [.jump (s.pc + BitVec.ofNat 24 (n.val + 2))]
      | _ => []))

/-- The guard of the fields of an encoded instruction. -/
def guardOf (e : Fields) : Guard := ⟨e.guard.toFin, e.neg⟩

/-- An instruction that issues a form of its own level, class, channels and guard skips. -/
theorem skips_of_issue {α : Type} {i : Instr} {s : State} {e : Fields} {g : Guard} {f : Form}
    {fx : View → Except TrapInfo α} {act : State → α → State} (h : exec i s = .next (s.issue g f fx act))
    (hg : guardOf e = g) (hl : f.level = levelOf i)
    (hx : (f.strandOnly || f.use.usesChan) = (strandOnly i || namesChan e))
    (hi : ∀ (g : Guard) (a b c : BitVec 4) (n : Fin 8) (k : BitVec 13), i ≠ .rpt g a b c n k := by
      intros; exact Instr.noConfusion) :
    Skips i s (guardOf e) (namesChan e) := by
  intro hc hle hf
  have hn : ¬ s.level.toNat < f.level := by omega
  rw [hg] at hf
  rw [h, State.issue]
  simp only [hx, hc, hn, hf, Bool.false_eq_true, if_false, Bool.not_false, if_true]

theorem skips_rpt {g : Guard} {e : Fields} (hg : guardOf e = g) (strb stra strd : BitVec 4) (len : Fin 8)
    (count : BitVec 13) (s : State) (chan : Bool) : Skips (.rpt g strb stra strd len count) s (guardOf e) chan := by
  rw [hg]
  intro hc _ hf
  have hp : s.isPorter = false := by
    rwa [show strandOnly (.rpt g strb stra strd len count) = true from rfl, Bool.true_or, Bool.and_true] at hc
  show Host.Outcome.next (s.rpt g strb stra strd len count) = _
  simp only [State.rpt, hp, hf, Bool.false_eq_true, if_false, Bool.not_false, if_true]
  rfl

/-- Every instruction skips under a false guard. -/
theorem skips {i : Instr} {e : Fields} (s : State) (hw : wellFormed i = true) (he : encodeFields i = some e) :
    Skips i s (guardOf e) (namesChan e) := by
  cases i with
  | rpt =>
    cases he
    refine skips_rpt ?_ _ _ _ _ _ _ _
    exact Laws.guard_enc _
  | frb =>
    -- its form leaves D aside, which may name a channel: only strands run it
    cases he
    exact skips_of_issue rfl (Laws.guard_enc _) rfl rfl
  | bfi g d a b | sel g d a b =>
    cases he
    exact skips_of_issue rfl (Laws.guard_enc _) rfl
      (congrArg₂ or rfl (usesChan_eq_namesChan (a := chS a) (b := chI b) (dst := chS d)))
  | fma g t rm sat d a b =>
    cases he
    exact skips_of_issue rfl (Laws.guard_enc _) rfl
      (congrArg₂ or rfl (usesChan_eq_namesChan (a := chS a) (b := chS b) (dst := chS d)))
  | sysr =>
    cases he
    exact skips_of_issue rfl (Laws.guard_enc _) (sysReadLevel_eq hw) (congrArg₂ or rfl usesChan_eq_namesChan)
  | sysw =>
    cases he
    exact skips_of_issue rfl (Laws.guard_enc _) (sysWriteLevel_eq hw) (congrArg₂ or rfl usesChan_eq_namesChan)
  | aadd | aand | aor | axor | amin | amax | aminu | amaxu | aswap | acas | afadd | afmin | afmax =>
    cases he
    exact skips_of_issue (atomic_eq_issue ..) (Laws.guard_enc _) rfl (congrArg₂ or rfl usesChan_eq_namesChan)
  | radd | rand | ror | rxor | rmin | rmax | rminu | rmaxu | rfadd =>
    cases he
    exact skips_of_issue (reduce_eq_issue ..) (Laws.guard_enc _) rfl (congrArg₂ or rfl usesChan_eq_namesChan)
  | _ => cases he <;> exact skips_of_issue rfl (Laws.guard_enc _) rfl (congrArg₂ or rfl usesChan_eq_namesChan)

/-- What an instruction leaves that retires without taking a channel word. -/
theorem settled_retire_none (s : State) (l : List Eff) (hl : l.all (fun e => !isLs e) = true) :
    Settled s (s.retire l) {} l :=
  settled_from l (OwnOnly.refl s) rfl (fun d q => by rw [chans_takeSrcs_none]) hl

/-- Settles O9: the guard is the third check of every form (`skips`). -/
theorem falseGuard : Obligations.FalseGuard := by
  refine ⟨fun s g => ?_, fun s => rfl, fun w => Laws.refused_of_guard, fun s i e hw he hp hl hc hg => ?_⟩
  · rw [State.guardTrue]
    cases g.neg <;> simp
  · have hx : (s.isPorter && (strandOnly i || namesChan e)) = false := by
      cases hs : s.isPorter with
      | false => rfl
      | true =>
        obtain ⟨h1, h2⟩ := hc (of_decide_eq_true hs)
        rw [h1, h2]
        rfl
    refine ⟨_, skips s hw he hx hl hg, settled_retire_none s _ ?_⟩
    split <;> rfl

end Sys2Proof.Safety
end

section
/-! SUPPORT. Rounding (O18): a magnitude in units of the target's last place, and the neighbour each mode gives (R138, R139). -/

namespace Sys2Proof.Safety

open Sys2Proof.Machine

section
variable {K : Type} [Field K] [LinearOrder K] [IsStrictOrderedRing K]

/-- What rounding a magnitude `x` to `n` units of size `u` has to satisfy in each mode, with `nx` its inexact flag. -/
structure RoundedTo (rm : Rmode) (neg : Bool) (x u : K) (n : Nat) (nx : Bool) : Prop where
  inexact : nx = true ↔ x ≠ n * u
  close : |x - n * u| < u
  rtz : rm = .rtz → n * u ≤ x
  rup : rm = .rup → if neg then n * u ≤ x else x ≤ n * u
  rdn : rm = .rdn → if neg then x ≤ n * u else n * u ≤ x
  rne : rm = .rne → |x - n * u| ≤ u / 2 ∧ (|x - n * u| = u / 2 → n % 2 = 0)

theorem roundedTo_exact (rm : Rmode) (neg : Bool) {x u : K} {n : Nat} (hu : 0 < u) (h : x = n * u) :
    RoundedTo rm neg x u n false := by
  subst h
  have h0 : |(n * u - n * u : K)| = 0 := by simp
  refine ⟨by simp, by rwa [h0], fun _ => le_refl _, fun _ => ?_, fun _ => ?_, fun _ => ⟨by rw [h0]; positivity, ?_⟩⟩
  · split <;> exact le_refl _
  · split <;> exact le_refl _
  · rw [h0]
    intro hz
    exact absurd hz (by positivity)

/-- Rounding down a magnitude that lies `t` of a unit above `n`. -/
theorem roundedTo_down {rm : Rmode} {neg : Bool} {x u t : K} {n : Nat} (hu : 0 < u) (ht0 : 0 < t) (ht1 : t < 1)
    (hx : x = (n + t) * u) (hrup : rm = .rup → neg = true) (hrdn : rm = .rdn → neg = false)
    (hrne : rm = .rne → t < 1 / 2 ∨ (t = 1 / 2 ∧ n % 2 = 0)) : RoundedTo rm neg x u n true := by
  have hd : x - n * u = t * u := by rw [hx]; ring
  have ha : |x - n * u| = t * u := by rw [hd, abs_of_pos (by positivity)]
  have hlt : n * u < x := by have : 0 < t * u := by positivity
                             linarith
  refine ⟨⟨fun _ => hlt.ne', fun _ => rfl⟩, ?_, fun _ => hlt.le, fun h => ?_, fun h => ?_, fun h => ?_⟩
  · rw [ha]; nlinarith
  · rw [hrup h]; exact hlt.le
  · rw [hrdn h]; exact hlt.le
  · rw [ha]
    rcases hrne h with h | ⟨h, hn⟩
    · have : t * u < 1 / 2 * u := by nlinarith
      exact ⟨by linarith, fun he => absurd he (by linarith)⟩
    · exact ⟨by rw [h]; linarith, fun _ => hn⟩

/-- Rounding up a magnitude that lies `t` of a unit above `n`. -/
theorem roundedTo_up {rm : Rmode} {neg : Bool} {x u t : K} {n : Nat} (hu : 0 < u) (ht0 : 0 < t) (ht1 : t < 1)
    (hx : x = (n + t) * u) (hrtz : rm ≠ .rtz) (hrup : rm = .rup → neg = false) (hrdn : rm = .rdn → neg = true)
    (hrne : rm = .rne → 1 / 2 < t ∨ (t = 1 / 2 ∧ n % 2 = 1)) : RoundedTo rm neg x u (n + 1) true := by
  have hd : x - (n + 1 : Nat) * u = -((1 - t) * u) := by rw [hx]; push_cast; ring
  have hpos : 0 < (1 - t) * u := mul_pos (by linarith) hu
  have ha : |x - (n + 1 : Nat) * u| = (1 - t) * u := by rw [hd, abs_neg, abs_of_pos hpos]
  have hlt : x < (n + 1 : Nat) * u := by linarith
  refine ⟨⟨fun _ => hlt.ne, fun _ => rfl⟩, ?_, fun h => absurd h hrtz, fun h => ?_, fun h => ?_, fun h => ?_⟩
  · rw [ha]; nlinarith
  · rw [hrup h]; exact hlt.le
  · rw [hrdn h]; exact hlt.le
  · rw [ha]
    rcases hrne h with h | ⟨h, hn⟩
    · have : (1 - t) * u < 1 / 2 * u := by nlinarith
      exact ⟨by linarith, fun he => absurd he (by linarith)⟩
    · exact ⟨by rw [h]; linarith, fun _ => by omega⟩

/-- The fraction of a unit that `roundAt` drops. -/
theorem roundAt_split (m : Nat) {e q : ℤ} (h : e < q) : (m : K) * (2 : K) ^ e =
    ((m / 2 ^ (q - e).toNat : Nat) + ((m % 2 ^ (q - e).toNat : Nat) : K) / 2 ^ (q - e).toNat) * (2 : K) ^ q := by
  obtain ⟨k, hk⟩ := Int.eq_ofNat_of_zero_le (show 0 ≤ q - e by omega)
  have hq : q = e + k := by omega
  have hm : (m : K) = 2 ^ k * (m / 2 ^ k : Nat) + (m % 2 ^ k : Nat) := by
    exact_mod_cast (Nat.div_add_mod m (2 ^ k)).symm
  rw [hk, Int.toNat_natCast, hq, zpow_add₀ two_ne_zero, zpow_natCast, hm]
  have h2 : (2 : K) ^ k ≠ 0 := by positivity
  field_simp

theorem roundAt_spec (rm : Rmode) (neg : Bool) (m : Nat) (e q : ℤ) :
    RoundedTo rm neg ((m : K) * (2 : K) ^ e) ((2 : K) ^ q) (roundAt rm neg m e q).1 (roundAt rm neg m e q).2 := by
  have hu : (0 : K) < 2 ^ q := by positivity
  unfold roundAt
  split
  · next h =>
    refine roundedTo_exact rm neg hu ?_
    obtain ⟨k, hk⟩ := Int.eq_ofNat_of_zero_le (show 0 ≤ e - q by omega)
    have he : e = k + q := by omega
    rw [hk, Int.toNat_natCast, he, zpow_add₀ two_ne_zero, zpow_natCast]
    push_cast
    ring
  · next h =>
    have hx := roundAt_split (K := K) m (show e < q by omega)
    simp only
    generalize (q - e).toNat = k at hx ⊢
    generalize hlo : m / 2 ^ k = lo at hx ⊢
    have hlt : m % 2 ^ k < 2 ^ k := Nat.mod_lt _ (by positivity)
    generalize m % 2 ^ k = r at hx hlt ⊢
    have h2 : (0 : K) < 2 ^ k := by positivity
    split
    · next hr =>
      refine roundedTo_exact rm neg hu ?_
      rw [hx, hr]
      simp
    · next hr =>
      have hr0 : (0 : K) < r := by exact_mod_cast Nat.pos_of_ne_zero hr
      have hr1 : (r : K) < 2 ^ k := by exact_mod_cast hlt
      have ht0 : (0 : K) < r / 2 ^ k := by positivity
      have ht1 : (r : K) / 2 ^ k < 1 := (div_lt_one h2).mpr hr1
      have half : (r : K) / 2 ^ k = 1 / 2 ↔ 2 * r = 2 ^ k := by
        rw [div_eq_div_iff h2.ne' two_ne_zero, one_mul, mul_comm]
        exact_mod_cast Iff.rfl
      have more : 1 / 2 < (r : K) / 2 ^ k ↔ 2 ^ k < 2 * r := by
        rw [div_lt_div_iff₀ two_pos h2, one_mul, mul_comm]
        exact_mod_cast Iff.rfl
      have less : (r : K) / 2 ^ k < 1 / 2 ↔ 2 * r < 2 ^ k := by
        rw [div_lt_div_iff₀ h2 two_pos, one_mul, mul_comm]
        exact_mod_cast Iff.rfl
      cases rm with
      | rtz => exact roundedTo_down hu ht0 ht1 hx (fun h => nomatch h) (fun h => nomatch h) (fun h => nomatch h)
      | rup =>
        cases neg with
        | true => exact roundedTo_down hu ht0 ht1 hx (fun _ => rfl) (fun h => nomatch h) (fun h => nomatch h)
        | false => exact roundedTo_up hu ht0 ht1 hx (fun h => nomatch h) (fun _ => rfl) (fun h => nomatch h) (fun h => nomatch h)
      | rdn =>
        cases neg with
        | true => exact roundedTo_up hu ht0 ht1 hx (fun h => nomatch h) (fun h => nomatch h) (fun _ => rfl) (fun h => nomatch h)
        | false => exact roundedTo_down hu ht0 ht1 hx (fun h => nomatch h) (fun _ => rfl) (fun h => nomatch h)
      | rne =>
        simp only
        by_cases h1 : 2 * r = 2 ^ k
        · by_cases h2 : lo % 2 = 1
          · simp only [h1, h2, if_true, decide_true]
            exact roundedTo_up hu ht0 ht1 hx (fun h => nomatch h) (fun h => nomatch h) (fun h => nomatch h)
              (fun _ => .inr ⟨half.mpr h1, h2⟩)
          · simp only [h1, h2, if_true, decide_false, Bool.false_eq_true, if_false]
            exact roundedTo_down hu ht0 ht1 hx (fun h => nomatch h) (fun h => nomatch h)
              (fun _ => .inr ⟨half.mpr h1, by omega⟩)
        · by_cases h2 : 2 ^ k < 2 * r
          · simp only [h1, h2, if_true, if_false, decide_true]
            exact roundedTo_up hu ht0 ht1 hx (fun h => nomatch h) (fun h => nomatch h) (fun h => nomatch h)
              (fun _ => .inl (more.mpr h2))
          · simp only [h1, h2, if_false, decide_false, Bool.false_eq_true]
            exact roundedTo_down hu ht0 ht1 hx (fun h => nomatch h) (fun h => nomatch h)
              (fun _ => .inl (less.mpr (by omega)))

end

/-- Settles O18: what every rounding satisfies, at the rationals. -/
theorem roundingIsCorrect : Obligations.RoundingIsCorrect := by
  intro rm neg m e q r x y
  have h := roundAt_spec (K := ℚ) rm neg m e q
  exact ⟨h.inexact, h.close, h.rtz, h.rup, h.rdn, h.rne⟩

end Sys2Proof.Safety
end

section
/-! SUPPORT. Rounding into a format (R136, R138, R139, R149): the finite values of a format, and `fpRound`. -/

namespace Sys2Proof.Safety

open Sys2Proof.Machine

/-! Finite values of a format -/

/-- A format has a fraction and an exponent. -/
structure Proper (f : Fmt) : Prop where
  mb : 1 ≤ f.mb
  eb : 1 ≤ f.eb

theorem proper_fmtOf (t : ETy) : Proper (fmtOf t) := by cases t <;> exact ⟨by decide, by decide⟩

/-- Significand and exponent of the magnitude with bits `a`. -/
def magSig (f : Fmt) (a : Nat) : Nat := if a < 2 ^ f.mb then a else 2 ^ f.mb + a % 2 ^ f.mb
def magExp (f : Fmt) (a : Nat) : ℤ := f.emin + ((a / 2 ^ f.mb - 1 : Nat) : ℤ)

/-- The magnitude with bits `a`, had the exponent no bound. -/
noncomputable def magVal (f : Fmt) (a : Nat) : ℝ := magSig f a * (2 : ℝ) ^ magExp f a

section
variable {f : Fmt}

theorem maxFin_lt (hf : Proper f) : f.maxFin < f.signBit := by
  have h2 : 2 ≤ 2 ^ f.mb := by simpa using Nat.pow_le_pow_right (n := 2) (by decide) hf.mb
  have he : 1 ≤ 2 ^ f.eb := Nat.one_le_two_pow
  have hs : f.signBit = f.expMask * 2 ^ f.mb + 2 ^ f.mb := by
    rw [Fmt.signBit, Fmt.expMask, pow_add, ← Nat.succ_mul, Nat.succ_eq_add_one, Nat.sub_add_cancel he]
  rw [hs, Fmt.maxFin]
  split <;> omega

theorem signed_lt (hf : Proper f) (neg : Bool) {a : Nat} (ha : a ≤ f.maxFin) : signed f neg a < 2 ^ f.width := by
  have hlt := maxFin_lt hf
  have hw : 2 ^ f.width = f.signBit + f.signBit := by
    rw [Fmt.width, Fmt.signBit, add_assoc, pow_add]; ring
  rw [hw, signed]
  split <;> omega

/-- The fields of the bits of a signed magnitude. -/
theorem fields_signed (neg : Bool) {a : Nat} (ha : a < f.signBit) :
    (decide (signed f neg a / f.signBit % 2 = 1) = neg) ∧ signed f neg a / 2 ^ f.mb % 2 ^ f.eb = a / 2 ^ f.mb ∧
      signed f neg a % 2 ^ f.mb = a % 2 ^ f.mb := by
  have hs : f.signBit = 2 ^ f.mb * 2 ^ f.eb := by rw [Fmt.signBit, add_comm, pow_add]
  have hpos : 0 < f.signBit := by rw [hs]; positivity
  have hq : a / 2 ^ f.mb < 2 ^ f.eb := by
    rw [Nat.div_lt_iff_lt_mul (by positivity), mul_comm, ← hs]
    exact ha
  cases neg with
  | false =>
    refine ⟨?_, Nat.mod_eq_of_lt hq, rfl⟩
    rw [signed, if_neg (by simp), Nat.div_eq_of_lt ha]
    rfl
  | true =>
    rw [signed, if_pos rfl]
    refine ⟨?_, ?_, ?_⟩
    · rw [Nat.add_div_left _ hpos, Nat.div_eq_of_lt ha]
      rfl
    · rw [hs, Nat.mul_add_div (by positivity), Nat.add_mod_left, Nat.mod_eq_of_lt hq]
    · rw [hs, Nat.mul_add_mod]

/-- Every magnitude up to the largest finite one decodes to its significand and exponent. -/
theorem fpDec_signed (hf : Proper f) (neg : Bool) {a : Nat} (ha : a ≤ f.maxFin) :
    fpDec f (signed f neg a) = .fin neg (magSig f a) (magExp f a) := by
  obtain ⟨hn, hex, hfr⟩ := fields_signed neg (ha.trans_lt (maxFin_lt hf))
  have hpos : 0 < 2 ^ f.mb := by positivity
  have h2 : 2 ≤ 2 ^ f.mb := by simpa using Nat.pow_le_pow_right (n := 2) (by decide) hf.mb
  have hfin1 : (a / 2 ^ f.mb = f.expMask) → f.inf = false ∧ a % 2 ^ f.mb ≠ 2 ^ f.mb - 1 := by
    intro h
    have hd := Nat.div_add_mod a (2 ^ f.mb)
    rw [h, mul_comm] at hd
    have hm := Nat.mod_lt a hpos
    unfold Fmt.maxFin at ha
    split at ha
    · next hi =>
      have : 0 < f.expMask * 2 ^ f.mb := by
        have : 2 ≤ 2 ^ f.eb := by simpa using Nat.pow_le_pow_right (n := 2) (by decide) hf.eb
        have : 0 < f.expMask := by rw [Fmt.expMask]; omega
        positivity
      omega
    · next hi => exact ⟨by simpa using hi, by omega⟩
  unfold fpDec
  simp only [hn, hex, hfr]
  rw [if_neg, if_neg]
  · split
    · next h0 =>
      have hlt : a < 2 ^ f.mb := by simpa using (Nat.div_eq_zero_iff).mp h0
      simp [magSig, magExp, hlt, Nat.mod_eq_of_lt hlt, h0]
    · next h0 =>
      have hge : ¬ a < 2 ^ f.mb := fun h => h0 (Nat.div_eq_of_lt h)
      simp [magSig, magExp, hge]
  · simp only [Bool.and_eq_true, decide_eq_true_eq, not_and]
    exact fun h => (hfin1 h).2
  · simp only [Bool.and_eq_true, decide_eq_true_eq, not_and]
    exact fun h => by simp [(hfin1 h).1]

/-- The magnitude of an exponent and a fraction. -/
theorem magVal_normal (f : Fmt) (x : Nat) {r : Nat} (h1 : 2 ^ f.mb ≤ r) (h2 : r < 2 ^ (f.mb + 1)) :
    magVal f ((x + 1) * 2 ^ f.mb + (r - 2 ^ f.mb)) = r * (2 : ℝ) ^ (f.emin + x) := by
  have hpos : 0 < 2 ^ f.mb := by positivity
  have hr : r - 2 ^ f.mb < 2 ^ f.mb := by rw [pow_succ] at h2; omega
  have hdiv : ((x + 1) * 2 ^ f.mb + (r - 2 ^ f.mb)) / 2 ^ f.mb = x + 1 := by
    rw [mul_comm, Nat.mul_add_div hpos, Nat.div_eq_of_lt hr, add_zero]
  have hmod : ((x + 1) * 2 ^ f.mb + (r - 2 ^ f.mb)) % 2 ^ f.mb = r - 2 ^ f.mb := by
    rw [mul_comm, Nat.mul_add_mod, Nat.mod_eq_of_lt hr]
  have hge : ¬ (x + 1) * 2 ^ f.mb + (r - 2 ^ f.mb) < 2 ^ f.mb := by
    rw [add_mul, one_mul]; omega
  rw [magVal, magSig, if_neg hge, hmod, magExp, hdiv, Nat.add_sub_cancel, Nat.add_sub_cancel' h1]

theorem magVal_subnormal {r : Nat} (h : r < 2 ^ f.mb) : magVal f r = r * (2 : ℝ) ^ f.emin := by
  rw [magVal, magSig, if_pos h, magExp, Nat.div_eq_of_lt h]
  simp

theorem magVal_strictMono (f : Fmt) : StrictMono (magVal f) := by
  refine strictMono_nat_of_lt_succ fun a => ?_
  have hpos : 0 < 2 ^ f.mb := by positivity
  by_cases h : a < 2 ^ f.mb
  · rw [magVal_subnormal h]
    by_cases h' : a + 1 < 2 ^ f.mb
    · rw [magVal_subnormal h']
      have : (0 : ℝ) < 2 ^ f.emin := by positivity
      push_cast
      nlinarith
    · have ha : a + 1 = (0 + 1) * 2 ^ f.mb + (2 ^ f.mb - 2 ^ f.mb) := by omega
      rw [ha, magVal_normal f 0 le_rfl (by rw [pow_succ]; omega), Nat.cast_zero, add_zero]
      have : (0 : ℝ) < 2 ^ f.emin := by positivity
      have : (a : ℝ) < (2 ^ f.mb : ℕ) := by exact_mod_cast h
      nlinarith
  · obtain ⟨x, hx⟩ : ∃ x, a / 2 ^ f.mb = x + 1 := Nat.exists_eq_succ_of_ne_zero (Nat.div_pos (not_lt.mp h) hpos).ne'
    have hd := Nat.div_add_mod a (2 ^ f.mb)
    have hm := Nat.mod_lt a hpos
    have ha : a = (x + 1) * 2 ^ f.mb + (2 ^ f.mb + a % 2 ^ f.mb - 2 ^ f.mb) := by rw [← hx]; rw [mul_comm] at hd; omega
    have hv : magVal f a = (2 ^ f.mb + a % 2 ^ f.mb : ℕ) * (2 : ℝ) ^ (f.emin + x) := by
      conv_lhs => rw [ha]
      exact magVal_normal f x (by omega) (by rw [pow_succ]; omega)
    rw [hv]
    by_cases hl : a % 2 ^ f.mb + 1 < 2 ^ f.mb
    · have ha' : a + 1 = (x + 1) * 2 ^ f.mb + (2 ^ f.mb + (a % 2 ^ f.mb + 1) - 2 ^ f.mb) := by omega
      rw [ha', magVal_normal f x (by omega) (by rw [pow_succ]; omega)]
      have : (0 : ℝ) < 2 ^ (f.emin + (x : ℤ)) := by positivity
      push_cast
      nlinarith
    · have ha' : a + 1 = (x + 1 + 1) * 2 ^ f.mb + (2 ^ f.mb - 2 ^ f.mb) := by
        rw [add_mul (x + 1) 1]; omega
      rw [ha', magVal_normal f (x + 1) le_rfl (by rw [pow_succ]; omega)]
      have hr : a % 2 ^ f.mb = 2 ^ f.mb - 1 := by omega
      have hz : (2 : ℝ) ^ (f.emin + ((x + 1 : ℕ) : ℤ)) = 2 * 2 ^ (f.emin + (x : ℤ)) := by
        rw [Nat.cast_add, ← add_assoc, zpow_add₀ two_ne_zero]; simp; ring
      have : (0 : ℝ) < 2 ^ (f.emin + (x : ℤ)) := by positivity
      have hc : ((2 ^ f.mb + a % 2 ^ f.mb : ℕ) : ℝ) + 1 = 2 * (2 ^ f.mb : ℕ) := by
        rw [hr]; exact_mod_cast (by omega : 2 ^ f.mb + (2 ^ f.mb - 1) + 1 = 2 * 2 ^ f.mb)
      rw [hz]
      nlinarith

theorem largest_eq (hf : Proper f) (he : 2 ≤ f.eb) : ((largest f : ℚ) : ℝ) = magVal f f.maxFin := by
  have hpos : 0 < 2 ^ f.mb := by positivity
  have h2 : 2 ≤ 2 ^ f.mb := by simpa using Nat.pow_le_pow_right (n := 2) (by decide) hf.mb
  have h4 : 4 ≤ 2 ^ f.eb := by simpa using Nat.pow_le_pow_right (n := 2) (by decide) he
  obtain ⟨x, hx⟩ : ∃ x, 2 ^ f.eb = x + 3 := ⟨2 ^ f.eb - 3, by omega⟩
  have hxr : (2 : ℤ) ^ f.eb = x + 3 := by exact_mod_cast hx
  unfold largest Fmt.maxFin
  split
  · have ha : f.expMask * 2 ^ f.mb - 1 = (x + 1) * 2 ^ f.mb + ((2 ^ (f.mb + 1) - 1) - 2 ^ f.mb) := by
      rw [Fmt.expMask, hx, show x + 3 - 1 = (x + 1) + 1 from rfl, add_mul (x + 1) 1, pow_succ]; omega
    rw [ha, magVal_normal f x (by rw [pow_succ]; omega) (by omega), hxr]
    have hc : ((2 ^ (f.mb + 1) - 1 : ℕ) : ℝ) = 2 ^ (f.mb + 1) - 1 := by
      rw [Nat.cast_sub (by rw [pow_succ]; omega)]; push_cast; ring
    rw [hc]
    push_cast
    congr 2
    ring
  · have ha : f.expMask * 2 ^ f.mb + (2 ^ f.mb - 2) =
        (x + 1 + 1) * 2 ^ f.mb + ((2 ^ (f.mb + 1) - 2) - 2 ^ f.mb) := by
      rw [Fmt.expMask, hx, show x + 3 - 1 = (x + 1) + 1 from rfl, pow_succ]; omega
    rw [ha, magVal_normal f (x + 1) (by rw [pow_succ]; omega) (by rw [pow_succ]; omega), hxr]
    have hc : ((2 ^ (f.mb + 1) - 2 : ℕ) : ℝ) = 2 ^ (f.mb + 1) - 2 := by
      rw [Nat.cast_sub (by rw [pow_succ]; omega)]; push_cast; ring
    rw [hc]
    push_cast
    congr 2
    ring

/-! Rounding an exact magnitude -/

theorem bitLen_spec {m : Nat} (hm : m ≠ 0) : 2 ^ (bitLen m - 1) ≤ m ∧ m < 2 ^ bitLen m ∧ 1 ≤ bitLen m := by
  rw [bitLen, if_neg hm]
  exact ⟨Nat.log2_self_le hm, Nat.lt_log2_self, by omega⟩

theorem bitLen_unique {m n : Nat} (h1 : 2 ^ n ≤ m) (h2 : m < 2 ^ (n + 1)) : bitLen m = n + 1 := by
  have hm : m ≠ 0 := by have : 0 < 2 ^ n := by positivity
                        omega
  rw [bitLen, if_neg hm, (Nat.log2_eq_iff hm).mpr ⟨h1, h2⟩]

/-- The binade of a magnitude. -/
theorem log_of_binade {x : ℝ} {k : ℤ} (h1 : (2 : ℝ) ^ k ≤ x) (h2 : x < (2 : ℝ) ^ (k + 1)) : Int.log 2 x = k := by
  have hx : 0 < x := lt_of_lt_of_le (by positivity) h1
  apply le_antisymm
  · have := (Int.lt_zpow_iff_log_lt (b := 2) (by norm_num) hx).mp (by exact_mod_cast h2)
    omega
  · exact (Int.zpow_le_iff_le_log (b := 2) (by norm_num) hx).mp (by exact_mod_cast h1)

theorem RoundedTo.nearest {rm : Rmode} {neg : Bool} {x : ℝ} {q : ℤ} {n : Nat} {nx : Bool}
    (h : RoundedTo rm neg x ((2 : ℝ) ^ q) n nx) : Nearest rm neg x q n := ⟨h.close, h.rtz, h.rup, h.rdn, h.rne⟩

/-- A rounded magnitude below a multiple of the unit does not pass it. -/
theorem RoundedTo.le {rm : Rmode} {neg : Bool} {x u : ℝ} {n k : Nat} {nx : Bool} (h : RoundedTo rm neg x u n nx)
    (hu : 0 < u) (hx : x ≤ k * u) : n ≤ k := by
  have := (abs_lt.mp h.close).1
  have hlt : (n : ℝ) * u < (k + 1) * u := by linarith
  have := lt_of_mul_lt_mul_right hlt hu.le
  exact_mod_cast Nat.lt_succ_iff.mp (by exact_mod_cast this)

theorem RoundedTo.ge {rm : Rmode} {neg : Bool} {x u : ℝ} {n k : Nat} {nx : Bool} (h : RoundedTo rm neg x u n nx)
    (hu : 0 < u) (hx : k * u ≤ x) : k ≤ n := by
  have := (abs_lt.mp h.close).2
  have hlt : (k : ℝ) * u < (n + 1) * u := by linarith
  have := lt_of_mul_lt_mul_right hlt hu.le
  exact_mod_cast Nat.lt_succ_iff.mp (by exact_mod_cast this)

/-- The magnitude bits of `n` units of `2 ^ q`, after a carry into the next binade. -/
def packedMag (f : Fmt) (q : ℤ) (n : Nat) : Nat :=
  let r := if n = 2 ^ (f.mb + 1) then (2 ^ f.mb, q + 1) else (n, q)
  if r.1 < 2 ^ f.mb then r.1 else ((r.2 - f.emin).toNat + 1) * 2 ^ f.mb + (r.1 - 2 ^ f.mb)

/-- The tail of `fpRound`, from its two roundings on: `top` is the exponent of the last place of the binade. -/
def packed (f : Fmt) (rm : Rmode) (sat neg : Bool) (top : ℤ) (n k : Nat) (nx : Bool) : Nat × Flags :=
  let mag := packedMag f (max top f.emin) n
  let tiny := decide (top < f.emin) && !(k = 2 ^ (f.mb + 1) && top + 1 = f.emin)
  if f.maxFin < mag then fpOver f rm sat neg
  else (signed f neg mag, flagIf nx fNX ||| flagIf (nx && tiny) fUF)

theorem magVal_packedMag {q : ℤ} {n : Nat} (hq : f.emin ≤ q) (hn : n ≤ 2 ^ (f.mb + 1)) (hl : n < 2 ^ f.mb → q = f.emin) :
    magVal f (packedMag f q n) = n * (2 : ℝ) ^ q := by
  unfold packedMag
  by_cases hc : n = 2 ^ (f.mb + 1)
  · simp only [hc, if_true, lt_irrefl, if_false]
    rw [magVal_normal f _ le_rfl (by rw [pow_succ]; have : 0 < 2 ^ f.mb := by positivity
                                     omega), Int.toNat_of_nonneg (by omega), add_sub_cancel, zpow_add₀ two_ne_zero]
    push_cast
    ring
  · simp only [hc, if_false]
    split
    · next h => rw [magVal_subnormal h, hl h]
    · next h => rw [magVal_normal f _ (not_lt.mp h) (by omega), Int.toNat_of_nonneg (by omega), add_sub_cancel]

theorem fpRound_eq_packed (f : Fmt) (rm : Rmode) (sat neg : Bool) {m : Nat} (e : ℤ) (hm : m ≠ 0) :
    fpRound f rm sat neg m e = packed f rm sat neg (e + (bitLen m : ℤ) - (f.mb + 1 : Nat))
      (roundAt rm neg m e (max (e + (bitLen m : ℤ) - (f.mb + 1 : Nat)) f.emin)).1
      (roundAt rm neg m e (e + (bitLen m : ℤ) - (f.mb + 1 : Nat))).1
      (roundAt rm neg m e (max (e + (bitLen m : ℤ) - (f.mb + 1 : Nat)) f.emin)).2 := by
  unfold fpRound packed packedMag
  simp only [Bool.false_eq_true, if_false, hm]

theorem fpOver_eq (f : Fmt) (rm : Rmode) (sat neg : Bool) : fpOver f rm sat neg = overflowed f rm sat neg := by
  unfold fpOver overflowed infinite
  cases rm <;> cases sat <;> cases neg <;> cases f.inf <;> rfl

theorem nx_flags (a b : Bool) : (flagIf a fNX ||| flagIf b fUF).getLsbD 0 = a := by cases a <;> cases b <;> rfl
theorem uf_flags (a b : Bool) : (flagIf a fNX ||| flagIf b fUF).getLsbD 1 = b := by cases a <;> cases b <;> rfl
theorem upper_flags (a b : Bool) : (flagIf a fNX ||| flagIf b fUF).extractLsb' 2 3 = 0 := by cases a <;> cases b <;> rfl

/-- A result is tiny when its rounding without a bound on the exponent lies below the smallest normal (R139). -/
theorem tiny_iff {top : ℤ} {k : Nat} (h1 : k ≤ 2 ^ (f.mb + 1)) (h2 : 2 ^ f.mb ≤ k) :
    (decide (top < f.emin) && !(decide (k = 2 ^ (f.mb + 1)) && decide (top + 1 = f.emin))) = true ↔
      (k : ℝ) * 2 ^ top < 2 ^ (f.emin + f.mb) := by
  have ht : (0 : ℝ) < 2 ^ top := by positivity
  have hpow (j : ℕ) : ((2 ^ j : ℕ) : ℝ) * 2 ^ top = 2 ^ (top + j) := by
    rw [zpow_add₀ two_ne_zero, zpow_natCast]; push_cast; ring
  simp only [Bool.and_eq_true, Bool.not_eq_true', Bool.and_eq_false_iff, decide_eq_true_eq, decide_eq_false_iff_not]
  constructor
  · rintro ⟨hlt, hk⟩
    by_cases hc : k = 2 ^ (f.mb + 1)
    · have : top + 1 ≠ f.emin := hk.resolve_left (not_not.mpr hc)
      rw [hc, hpow]
      exact zpow_lt_zpow_right₀ one_lt_two (by push_cast; omega)
    · have : (k : ℝ) < (2 ^ (f.mb + 1) : ℕ) := by exact_mod_cast lt_of_le_of_ne h1 hc
      calc (k : ℝ) * 2 ^ top < (2 ^ (f.mb + 1) : ℕ) * 2 ^ top := mul_lt_mul_of_pos_right this ht
        _ = 2 ^ (top + (f.mb + 1 : ℕ)) := hpow _
        _ ≤ 2 ^ (f.emin + f.mb) := zpow_le_zpow_right₀ one_le_two (by push_cast; omega)
  · intro h
    have hlt : top < f.emin := by
      have : ((2 ^ f.mb : ℕ) : ℝ) * 2 ^ top ≤ k * 2 ^ top := mul_le_mul_of_nonneg_right (by exact_mod_cast h2) ht.le
      rw [hpow] at this
      have := (zpow_lt_zpow_iff_right₀ one_lt_two).mp (this.trans_lt h)
      omega
    refine ⟨hlt, ?_⟩
    by_contra hcon
    push Not at hcon
    rw [hcon.1, hpow] at h
    have := (zpow_lt_zpow_iff_right₀ (one_lt_two (α := ℝ))).mp h
    push_cast at this
    omega

/-- What `packed` gives is the rounded magnitude: `x` lies in the binade of `top`, and rounds to `n` units of the last place
and to `k` units of `top`. -/
theorem rounded_packed (hf : Proper f) (he : 2 ≤ f.eb) {rm : Rmode} {sat neg : Bool} {x : ℝ} {top : ℤ} {n k : Nat} {nx nx' : Bool}
    (h1 : (2 : ℝ) ^ (top + f.mb) ≤ x) (h2 : x < (2 : ℝ) ^ (top + f.mb + 1))
    (hn : RoundedTo rm neg x ((2 : ℝ) ^ max top f.emin) n nx) (hk : RoundedTo rm neg x ((2 : ℝ) ^ top) k nx') :
    Rounded f rm sat neg x (packed f rm sat neg top n k nx) := by
  have hlog : Int.log 2 x = top + f.mb := log_of_binade h1 h2
  have hunit : Int.log 2 x - f.mb = top := by omega
  unfold Rounded
  simp only [hunit]
  have hu : (0 : ℝ) < 2 ^ max top f.emin := by positivity
  have ht : (0 : ℝ) < 2 ^ top := by positivity
  have hpow (q : ℤ) (j : ℕ) : ((2 ^ j : ℕ) : ℝ) * 2 ^ q = 2 ^ (q + j) := by
    rw [zpow_add₀ two_ne_zero, zpow_natCast]; push_cast; ring
  have hle {q : ℤ} (h : top ≤ q) : x ≤ ((2 ^ (f.mb + 1) : ℕ) : ℝ) * 2 ^ q := by
    rw [hpow]
    exact h2.le.trans (zpow_le_zpow_right₀ one_le_two (by push_cast; omega))
  have hge : ((2 ^ f.mb : ℕ) : ℝ) * 2 ^ top ≤ x := by rw [hpow]; exact h1
  have hnle := hn.le hu (hle (le_max_left _ _))
  have hkle := hk.le ht (hle le_rfl)
  have hkge := hk.ge ht hge
  have hnl : n < 2 ^ f.mb → max top f.emin = f.emin := by
    intro h
    refine max_eq_right (le_of_not_gt fun hlt => ?_)
    rw [max_eq_left hlt.le] at hn
    exact absurd (hn.ge ht hge) (not_le.mpr h)
  have hval := magVal_packedMag (le_max_right _ _) hnle hnl
  have hover : (largest f : ℝ) < magVal f (packedMag f (max top f.emin) n) ↔
      f.maxFin < packedMag f (max top f.emin) n := by
    rw [largest_eq hf he, (magVal_strictMono f).lt_iff_lt]
  rw [hval] at hover
  refine ⟨n, k, hn.nearest, hk.nearest, fun h => ?_, fun h => ?_⟩
  · rw [packed, if_pos (hover.mp h), fpOver_eq]
  · have hfin : ¬ f.maxFin < packedMag f (max top f.emin) n := fun hlt => absurd h (not_le.mpr (hover.mpr hlt))
    have hmag := not_lt.mp hfin
    rw [packed, if_neg hfin]
    refine ⟨signed_lt hf neg hmag, ⟨_, _, fpDec_signed hf neg hmag, hval⟩, ?_, ?_, ?_⟩
    · rw [nx_flags, hn.inexact]
    · rw [uf_flags, Bool.and_eq_true, hn.inexact, tiny_iff hkle hkge]
    · exact upper_flags _ _

/-- `fpRound` rounds an exact magnitude. -/
theorem rounded_fpRound (hf : Proper f) (he : 2 ≤ f.eb) (rm : Rmode) (sat neg : Bool) {m : Nat} (hm : m ≠ 0) (e : ℤ) :
    Rounded f rm sat neg (m * (2 : ℝ) ^ e) (fpRound f rm sat neg m e) := by
  obtain ⟨hlo, hhi, hone⟩ := bitLen_spec hm
  have hpos : (0 : ℝ) < 2 ^ e := by positivity
  have hpow (j : ℕ) : ((2 ^ j : ℕ) : ℝ) * 2 ^ e = 2 ^ (e + j) := by
    rw [zpow_add₀ two_ne_zero, zpow_natCast]; push_cast; ring
  have hlo : ((2 ^ (bitLen m - 1) : ℕ) : ℝ) * 2 ^ e ≤ m * 2 ^ e := mul_le_mul_of_nonneg_right (by exact_mod_cast hlo) hpos.le
  have hhi : (m : ℝ) * 2 ^ e < ((2 ^ bitLen m : ℕ) : ℝ) * 2 ^ e := mul_lt_mul_of_pos_right (by exact_mod_cast hhi) hpos
  rw [fpRound_eq_packed f rm sat neg e hm]
  refine rounded_packed hf he ?_ ?_ (roundAt_spec rm neg m e _) (roundAt_spec rm neg m e _)
  · rw [hpow] at hlo
    rwa [show e + (bitLen m : ℤ) - (f.mb + 1 : ℕ) + f.mb = e + (bitLen m - 1 : ℕ) by omega]
  · rw [hpow] at hhi
    rwa [show e + (bitLen m : ℤ) - (f.mb + 1 : ℕ) + f.mb + 1 = e + (bitLen m : ℕ) by omega]

/-- Magnitudes between the same multiples of half a unit round alike. -/
theorem RoundedTo.of_same_half {rm : Rmode} {neg : Bool} {x x' u : ℝ} {n : Nat} {nx : Bool} (h : RoundedTo rm neg x' u n nx)
    (hu : 0 < u) {j : ℤ} (hl : j * (u / 2) < x) (hr : x < (j + 1) * (u / 2)) (hl' : j * (u / 2) < x')
    (hr' : x' < (j + 1) * (u / 2)) : RoundedTo rm neg x u n nx := by
  have hh : 0 < u / 2 := by positivity
  have below {y : ℝ} (hy : j * (u / 2) < y) (hy' : y < (j + 1) * (u / 2)) (i : ℤ) : i * (u / 2) < y ↔ i ≤ j := by
    constructor
    · intro hi
      have : (i : ℝ) < j + 1 := lt_of_mul_lt_mul_right (hi.trans hy') hh.le
      exact Int.lt_add_one_iff.mp (by exact_mod_cast this)
    · intro hi
      exact lt_of_le_of_lt (mul_le_mul_of_nonneg_right (by exact_mod_cast hi) hh.le) hy
  have above {y : ℝ} (hy : j * (u / 2) < y) (hy' : y < (j + 1) * (u / 2)) (i : ℤ) : y < i * (u / 2) ↔ j < i := by
    constructor
    · intro hi
      have : (j : ℝ) < i := lt_of_mul_lt_mul_right (hy.trans hi) hh.le
      exact_mod_cast this
    · intro hi
      exact lt_of_lt_of_le hy' (mul_le_mul_of_nonneg_right (by exact_mod_cast hi) hh.le)
  have lt_iff (i : ℤ) : i * (u / 2) < x ↔ i * (u / 2) < x' := (below hl hr i).trans (below hl' hr' i).symm
  have gt_iff (i : ℤ) : x < i * (u / 2) ↔ x' < i * (u / 2) := (above hl hr i).trans (above hl' hr' i).symm
  have hn : (n : ℝ) * u = ((2 * n : ℤ) : ℝ) * (u / 2) := by push_cast; ring
  have hn1 : (n : ℝ) * u + u = ((2 * n + 2 : ℤ) : ℝ) * (u / 2) := by push_cast; ring
  have hn2 : (n : ℝ) * u - u = ((2 * n - 2 : ℤ) : ℝ) * (u / 2) := by push_cast; ring
  have hn3 : (n : ℝ) * u + u / 2 = ((2 * n + 1 : ℤ) : ℝ) * (u / 2) := by push_cast; ring
  have hn4 : (n : ℝ) * u - u / 2 = ((2 * n - 1 : ℤ) : ℝ) * (u / 2) := by push_cast; ring
  have le_iff : n * u ≤ x ↔ n * u ≤ x' := by rw [← not_lt, ← not_lt, hn, gt_iff]
  have ge_iff : x ≤ n * u ↔ x' ≤ n * u := by rw [← not_lt, ← not_lt, hn, lt_iff]
  refine ⟨?_, ?_, fun hm => le_iff.mpr (h.rtz hm), fun hm => ?_, fun hm => ?_, fun hm => ?_⟩
  · rw [h.inexact, not_iff_not, le_antisymm_iff, le_antisymm_iff, le_iff, ge_iff]
  · obtain ⟨h1, h2⟩ := abs_lt.mp h.close
    have h1 : x' > n * u - u := by linarith
    have h2 : x' < n * u + u := by linarith
    rw [hn2] at h1
    rw [hn1] at h2
    have h1 := (lt_iff _).mpr h1
    have h2 := (gt_iff _).mpr h2
    rw [← hn2] at h1
    rw [← hn1] at h2
    exact abs_lt.mpr ⟨by linarith, by linarith⟩
  · have := h.rup hm
    cases neg
    · simpa [ge_iff] using this
    · simpa [le_iff] using this
  · have := h.rdn hm
    cases neg
    · simpa [le_iff] using this
    · simpa [ge_iff] using this
  · obtain ⟨h1, h2⟩ := abs_le.mp (h.rne hm).1
    have h1 : ¬ x' < n * u - u / 2 := by linarith
    have h2 : ¬ n * u + u / 2 < x' := by linarith
    rw [hn4, ← gt_iff, ← hn4] at h1
    rw [hn3, ← lt_iff, ← hn3] at h2
    refine ⟨abs_le.mpr ⟨by linarith, by linarith⟩, fun ht => ?_⟩
    exfalso
    rcases (abs_eq hh.le).mp ht with ht | ht
    · have hx : x = ((2 * n + 1 : ℤ) : ℝ) * (u / 2) := by rw [← hn3]; linarith
      have h3 := (below hl hr (2 * n + 1)).not
      have h4 := (above hl hr (2 * n + 1)).not
      rw [← hx] at h3 h4
      have := h3.mp (lt_irrefl x)
      have := h4.mp (lt_irrefl x)
      omega
    · have hx : x = ((2 * n - 1 : ℤ) : ℝ) * (u / 2) := by rw [← hn4]; linarith
      have h3 := (below hl hr (2 * n - 1)).not
      have h4 := (above hl hr (2 * n - 1)).not
      rw [← hx] at h3 h4
      have := h3.mp (lt_irrefl x)
      have := h4.mp (lt_irrefl x)
      omega

/-- `fpRound` rounds a magnitude of which only the digits above `e` are known, when they hold two more than the target. -/
theorem rounded_fpRound_sticky (hf : Proper f) (he : 2 ≤ f.eb) (rm : Rmode) (sat neg : Bool) {x : ℝ} {m : Nat} {e : ℤ}
    (h1 : m * (2 : ℝ) ^ e < x) (h2 : x < (m + 1) * (2 : ℝ) ^ e) (hb : f.mb + 2 ≤ bitLen m) :
    Rounded f rm sat neg x (fpRound f rm sat neg m e true) := by
  have hm : m ≠ 0 := by rintro rfl; simp [bitLen] at hb
  obtain ⟨hlo, hhi, hone⟩ := bitLen_spec hm
  have hbl : bitLen (2 * m + 1) = bitLen m + 1 := by
    refine bitLen_unique ?_ ?_
    · have : 2 ^ bitLen m = 2 * 2 ^ (bitLen m - 1) := by rw [← pow_succ', Nat.sub_add_cancel hone]
      omega
    · rw [pow_succ]; omega
  have hs : fpRound f rm sat neg m e true = fpRound f rm sat neg (2 * m + 1) (e - 1) := rfl
  have hpos : (0 : ℝ) < 2 ^ e := by positivity
  have hpow (j : ℕ) : ((2 ^ j : ℕ) : ℝ) * 2 ^ e = 2 ^ (e + j) := by
    rw [zpow_add₀ two_ne_zero, zpow_natCast]; push_cast; ring
  have hmid : ((2 * m + 1 : ℕ) : ℝ) * 2 ^ (e - 1) = (m + 1 / 2) * 2 ^ e := by
    rw [zpow_sub₀ two_ne_zero]; push_cast; ring
  have hlo' : ((2 ^ (bitLen m - 1) : ℕ) : ℝ) * 2 ^ e ≤ m * 2 ^ e := mul_le_mul_of_nonneg_right (by exact_mod_cast hlo) hpos.le
  have hhi' : ((m + 1 : ℕ) : ℝ) * 2 ^ e ≤ ((2 ^ bitLen m : ℕ) : ℝ) * 2 ^ e :=
    mul_le_mul_of_nonneg_right (by exact_mod_cast hhi) hpos.le
  have half {q : ℤ} (hq : e + 1 ≤ q) (n : Nat) (nx : Bool)
      (h : RoundedTo rm neg (((2 * m + 1 : ℕ) : ℝ) * 2 ^ (e - 1)) ((2 : ℝ) ^ q) n nx) :
      RoundedTo rm neg x ((2 : ℝ) ^ q) n nx := by
    obtain ⟨k, hk⟩ := Int.eq_ofNat_of_zero_le (show 0 ≤ q - 1 - e by omega)
    have hu : (2 : ℝ) ^ q / 2 = 2 ^ k * 2 ^ e := by
      rw [show q = k + e + 1 by omega, zpow_add₀ two_ne_zero, zpow_add₀ two_ne_zero, zpow_natCast]; simp
    have hd := Nat.div_add_mod m (2 ^ k)
    have hmlt : m % 2 ^ k < 2 ^ k := Nat.mod_lt _ (by positivity)
    have hdl : ((m / 2 ^ k : ℕ) : ℝ) * 2 ^ k ≤ m := by
      have : m / 2 ^ k * 2 ^ k ≤ m := Nat.div_mul_le_self _ _
      exact_mod_cast this
    have hdr : (m : ℝ) + 1 ≤ ((m / 2 ^ k : ℕ) + 1) * 2 ^ k := by
      have : m + 1 ≤ (m / 2 ^ k + 1) * 2 ^ k := by rw [add_mul, one_mul, mul_comm]; omega
      exact_mod_cast this
    rw [hmid] at h
    have hl : (((m / 2 ^ k : ℕ) : ℤ) : ℝ) * (2 ^ q / 2) ≤ m * 2 ^ e := by
      rw [hu, Int.cast_natCast, ← mul_assoc]
      exact mul_le_mul_of_nonneg_right hdl hpos.le
    have hr : (m + 1) * (2 : ℝ) ^ e ≤ ((((m / 2 ^ k : ℕ) : ℤ) : ℝ) + 1) * (2 ^ q / 2) := by
      rw [hu, Int.cast_natCast, ← mul_assoc]
      exact mul_le_mul_of_nonneg_right hdr hpos.le
    exact h.of_same_half (by positivity) (j := (m / 2 ^ k : ℕ)) (by linarith) (by linarith) (by nlinarith) (by nlinarith)
  rw [hs, fpRound_eq_packed f rm sat neg (e - 1) (by omega)]
  rw [hpow] at hlo' hhi'
  refine rounded_packed hf he ?_ ?_ (half ?_ _ _ (roundAt_spec rm neg _ _ _)) (half ?_ _ _ (roundAt_spec rm neg _ _ _))
  · rw [hbl, show e - 1 + ((bitLen m + 1 : ℕ) : ℤ) - (f.mb + 1 : ℕ) + f.mb = e + (bitLen m - 1 : ℕ) by omega]
    linarith
  · rw [hbl, show e - 1 + ((bitLen m + 1 : ℕ) : ℤ) - (f.mb + 1 : ℕ) + f.mb + 1 = e + (bitLen m : ℕ) by omega]
    push_cast at hhi'
    linarith
  · rw [hbl]; exact le_max_of_le_left (by push_cast; omega)
  · rw [hbl]; push_cast; omega

end

end Sys2Proof.Safety
end

section
/-! SUPPORT. The scalar FP forms (O16): how their instructions retire, and that every NaN they compute is canonical. -/

namespace Sys2Proof.Safety

open Sys2Proof.Machine

/-! How the shapes of the FP group retire (R237) -/

section
variable {i : Instr} {s : State} {g : Guard} {d : SOp} {f : Form} {fx : View → Except TrapInfo (List Eff)}
  {r : Nat × Flags} {p : Bool} {src : Nat}

theorem putFp_ok (ht : takesS d p) (src : Nat) : putFp d r p src = .ok [effS d (.ofNat 64 r.1) p, .flags r.2] := by
  rw [putFp, putS_ok ht]
  rfl

theorem retires_putFp (h : Clear s g f) (he : exec i s = .next (s.plain g f fx)) (hx : fx (s.view f.use) = putFp d r p src)
    (ht : takesS d p) : Retires i s f.use [effS d (.ofNat 64 r.1) p, .flags r.2] :=
  plain_retires h he (hx.trans (putFp_ok ht src)) (by simp only [List.all_cons, List.all_nil, effS_notLs]; rfl)

theorem holds_putFp (h : Clear s g f) (he : exec i s = .next (s.slow g f fx)) (hx : fx (s.view f.use) = putFp d r p src)
    (ht : takesS d p) : Holds i s f.use [effS d (.ofNat 64 r.1) p, .flags r.2] :=
  slow_holds h he (hx.trans (putFp_ok ht src))

end

/-- An integer result is extended to 64 bits by its sign or by zeros. -/
theorem cvtExtend_int {t : ETy} (ht : t.isInt = true) (sgn : Bool) (r : Nat × Flags) :
    BitVec.ofNat 64 (cvtExtend t sgn r).1 = .ofInt 64 (intOf (tyBits t) sgn r.1) ∧ (cvtExtend t sgn r).2 = r.2 := by
  rw [cvtExtend, if_pos ht]
  refine ⟨?_, rfl⟩
  apply BitVec.eq_of_toNat_eq
  rw [BitVec.toNat_ofNat, BitVec.toNat_ofInt, natOf]
  generalize intOf (tyBits t) sgn r.1 = v
  push_cast
  omega

theorem cvtExtend_fp {t : ETy} (ht : t.isInt = false) (sgn : Bool) (r : Nat × Flags) : cvtExtend t sgn r = r := by
  rw [cvtExtend, ht]
  rfl

theorem intOf_eq (w : Nat) (sgn : Bool) (x : Nat) : intOf w sgn x =
    if sgn = true ∧ 2 ^ (w - 1) ≤ x % 2 ^ w then ((x % 2 ^ w : Nat) : ℤ) - 2 ^ w else (x % 2 ^ w : Nat) := by
  simp [intOf]

theorem fpForms : Claim.FpResults := by
  intro s g t rm sat d a f m
  refine ⟨fun b h => ?_, fun b h => ?_, fun h => ?_⟩
  · intro u v x y p ends ht
    exact ⟨retires_putFp h rfl rfl ht, retires_putFp h rfl rfl ht, retires_putFp h rfl rfl ht, holds_putFp h rfl rfl ht,
      retires_putFp h rfl rfl ht, retires_putFp h rfl rfl ht, retires_putFp h rfl rfl ht⟩
  · intro u v x y z p r ht
    exact retires_putFp h rfl rfl ht
  · intro v x r ht
    refine ⟨holds_putFp h rfl rfl ht, retires_putFp (r := (fpClass f x.v.toNat, 0)) h rfl rfl ht, fun st sgn => ?_⟩
    intro c w r n
    have hr := retires_putFp (i := .fcvt g t st sgn rm sat d a) (r := cvtExtend t sgn c) h rfl rfl ht
    cases hi : t.isInt with
    | true =>
      obtain ⟨hv, hf⟩ := cvtExtend_int hi sgn c
      have hn : intOf (tyBits t) sgn c.1 = n := intOf_eq _ _ _
      rw [hn] at hv
      rw [if_pos rfl, ← hv, ← hf]
      exact hr
    | false =>
      rw [if_neg (by simp)]
      rw [cvtExtend_fp hi] at hr
      exact hr

/-! Canonical NaN (R137) -/

section
variable {f : Fmt}

theorem maxFin_le_expMask (hf : Proper f) : f.inf = true → f.maxFin < f.expMask * 2 ^ f.mb := by
  intro h
  have : 2 ≤ 2 ^ f.eb := by simpa using Nat.pow_le_pow_right (n := 2) (by decide) hf.eb
  have hpos : 0 < f.expMask * 2 ^ f.mb := by
    have : 0 < f.expMask := by rw [Fmt.expMask]; omega
    positivity
  rw [Fmt.maxFin, if_pos h]
  omega

/-- The bits of an infinity, where the format has one. -/
theorem fpDec_infinity (hi : f.inf = true) (neg : Bool) :
    fpDec f (signed f neg (f.expMask * 2 ^ f.mb)) = .inf neg := by
  have hlt : f.expMask * 2 ^ f.mb < f.signBit := by
    have : 1 ≤ 2 ^ f.eb := Nat.one_le_two_pow
    have : f.expMask < 2 ^ f.eb := by rw [Fmt.expMask]; omega
    rw [Fmt.signBit, pow_add]
    exact Nat.mul_lt_mul_of_pos_right this (by positivity)
  obtain ⟨hn, hex, hfr⟩ := fields_signed neg hlt
  rw [Nat.mul_div_cancel _ (by positivity)] at hex
  rw [Nat.mul_mod_left] at hfr
  simp only [fpDec, hex, hfr, hi, decide_true, Bool.and_self, if_true, hn]

/-- What is the bits of a finite number or of an infinity is no NaN. -/
def NotNan (f : Fmt) (r : Nat) : Prop := (fpDec f r).isNan = false

theorem notNan_signed (hf : Proper f) (neg : Bool) {a : Nat} (ha : a ≤ f.maxFin) : NotNan f (signed f neg a) := by
  rw [NotNan, fpDec_signed hf neg ha]
  rfl

theorem notNan_infinite (hf : Proper f) (sat neg : Bool) : NotNan f (infinite f sat neg).1 := by
  unfold infinite
  split
  · next h =>
    rw [Bool.and_eq_true] at h
    rw [NotNan, fpDec_infinity h.1]
    rfl
  · exact notNan_signed hf neg le_rfl

theorem fpInf_eq (f : Fmt) (sat neg : Bool) : fpInf f sat neg = infinite f sat neg := rfl

theorem notNan_overflowed (hf : Proper f) (rm : Rmode) (sat neg : Bool) : NotNan f (overflowed f rm sat neg).1 := by
  unfold overflowed
  simp only
  split
  · exact notNan_infinite hf sat neg
  · exact notNan_signed hf neg le_rfl

theorem fpRound_zero (f : Fmt) (rm : Rmode) (sat neg : Bool) (e : ℤ) : fpRound f rm sat neg 0 e = (signed f neg 0, 0) := rfl

theorem fpRound_sticky (f : Fmt) (rm : Rmode) (sat neg : Bool) (m : Nat) (e : ℤ) :
    fpRound f rm sat neg m e true = fpRound f rm sat neg (2 * m + 1) (e - 1) := rfl

/-- A rounded magnitude is no NaN. -/
theorem notNan_fpRound (hf : Proper f) (rm : Rmode) (sat neg : Bool) (m : Nat) (e : ℤ) (st : Bool) :
    NotNan f (fpRound f rm sat neg m e st).1 := by
  have plain (m : Nat) (e : ℤ) : NotNan f (fpRound f rm sat neg m e).1 := by
    by_cases hm : m = 0
    · rw [hm, fpRound_zero]
      exact notNan_signed hf neg (Nat.zero_le _)
    · rw [fpRound_eq_packed f rm sat neg e hm]
      unfold packed
      simp only
      split
      · rw [fpOver_eq]
        exact notNan_overflowed hf rm sat neg
      · next h => exact notNan_signed hf neg (not_lt.mp h)
  cases st with
  | false => exact plain m e
  | true => exact plain (2 * m + 1) (e - 1)

/-- A result is the canonical NaN or none. -/
def Canon (f : Fmt) (r : Nat × Flags) : Prop := (fpDec f r.1).isNan = true → r.1 = f.nan

theorem Canon.nan (f : Fmt) (fl : Flags) : Canon f (fpNan f fl) := fun _ => rfl

theorem NotNan.canon {r : Nat × Flags} (h : NotNan f r.1) : Canon f r := fun hn => by
  rw [NotNan, hn] at h
  contradiction

theorem Canon.withFlags {r : Nat × Flags} (h : Canon f r) (fl : Flags) : Canon f (withFlags r fl) := h

theorem canon_fpPut (hf : Proper f) (rm : Rmode) (sat : Bool) (x : FV) : Canon f (fpPut f rm sat x) := by
  cases x with
  | nan sg => exact .nan f _
  | inf n => exact (notNan_infinite hf sat n).canon
  | fin n m e => exact (notNan_fpRound hf rm sat n m e false).canon

theorem canon_fpDiv (hf : Proper f) (rm : Rmode) (sat : Bool) (a b : Nat) : Canon f (fpDiv f rm sat a b) := by
  unfold fpDiv
  simp only
  split
  · exact .nan f _
  · split
    · exact .nan f _
    · exact (notNan_infinite hf sat _).canon
    · exact (notNan_signed hf _ (Nat.zero_le _)).canon
    · split
      · split
        · exact .nan f _
        · exact (notNan_infinite hf sat _).canon.withFlags _
      · split
        · exact (notNan_signed hf _ (Nat.zero_le _)).canon
        · exact (notNan_fpRound hf ..).canon
    · exact .nan f _

theorem canon_fpSqrt (hf : Proper f) (rm : Rmode) (a : Nat) : Canon f (fpSqrt f rm a) := by
  unfold fpSqrt
  split
  · exact .nan f _
  · split
    · exact .nan f _
    · exact (notNan_infinite hf false false).canon
  · split
    · exact (notNan_signed hf _ (Nat.zero_le _)).canon
    · split
      · exact .nan f _
      · exact (notNan_fpRound hf ..).canon

/-- A format reads only the low bits of its width. -/
theorem fpDec_mod (f : Fmt) (x : Nat) : fpDec f (x % 2 ^ f.width) = fpDec f x := by
  have hs : 2 ^ f.width = f.signBit * 2 := by rw [Fmt.width, Fmt.signBit, add_assoc, add_comm, pow_succ]
  have hb : 2 ^ f.width = 2 ^ f.mb * (2 ^ f.eb * 2) := by rw [Fmt.width, pow_add, pow_add]; ring
  have h1 : x % 2 ^ f.width / f.signBit % 2 = x / f.signBit % 2 := by rw [hs, Nat.mod_mul_right_div_self, Nat.mod_mod]
  have h2 : x % 2 ^ f.width / 2 ^ f.mb % 2 ^ f.eb = x / 2 ^ f.mb % 2 ^ f.eb := by
    rw [hb, Nat.mod_mul_right_div_self, Nat.mod_mod_of_dvd _ (Dvd.intro _ rfl)]
  have h3 : x % 2 ^ f.width % 2 ^ f.mb = x % 2 ^ f.mb := by
    rw [hb, Nat.mod_mod_of_dvd _ (Dvd.intro _ rfl)]
  rw [fpDec, fpDec, h1, h2, h3]

theorem canon_fpMinMax (f : Fmt) (x : Bool) (a b : Nat) : Canon f (fpMinMax f x a b) := by
  unfold fpMinMax Canon
  simp only [fpDec_mod]
  split
  · exact fun _ => rfl
  · next h =>
    split
    · next ha =>
      rw [ha, Bool.true_and, Bool.not_eq_true] at h
      simp only [fpDec_mod, h]
      exact nofun
    · next ha =>
      rw [Bool.not_eq_true] at ha
      split
      · simp only [fpDec_mod, ha]
        exact nofun
      · next hb =>
        rw [Bool.not_eq_true] at hb
        split
        · simp only [fpDec_mod, ha]
          exact nofun
        · simp only [fpDec_mod, hb]
          exact nofun

/-- FMIN and FMAX of a NaN and a number give the number (R239). -/
theorem fpMinMax_nan {a b : Nat} (ha : (fpDec f a).isNan = true) (hb : (fpDec f b).isNan = false) (x : Bool) :
    (fpMinMax f x a b).1 = b % 2 ^ f.width ∧ (fpMinMax f x b a).1 = b % 2 ^ f.width := by
  unfold fpMinMax
  simp only [fpDec_mod, ha, hb, Bool.and_false, Bool.false_and, Bool.false_eq_true, if_false, if_true, and_self]

end

theorem canonicalNaN : Claim.CanonicalNaN := by
  intro t ht m sat a b d f canon
  have hf : Proper f := proper_fmtOf t
  refine ⟨(canon_fpPut hf m sat _).withFlags _, (canon_fpPut hf m sat _).withFlags _, (canon_fpPut hf m sat _).withFlags _,
    canon_fpDiv hf m sat a b, canon_fpSqrt hf m a, fun x y => (canon_fpPut hf m sat _).withFlags _,
    fun x => canon_fpMinMax f x a b, fun st => canon_fpPut hf m sat _, fun ha hb x => fpMinMax_nan ha hb x⟩

end Sys2Proof.Safety
end

section
/-! SUPPORT. The scalar FP forms (O16): their results are the exact ones, rounded once (R136 to R139, R149, R238, R241). -/

namespace Sys2Proof.Safety

open Sys2Proof.Machine

/-! Exact results from magnitudes -/

theorem worth_cast (n : Bool) (m : Nat) (e : ℤ) :
    ((worth n m e : ℚ) : ℝ) = (if n then -1 else 1) * (m * (2 : ℝ) ^ e) := by
  unfold worth
  cases n <;> push_cast <;> simp

theorem worth_zero (n : Bool) (e : ℤ) : worth n 0 e = 0 := by simp [worth]

theorem worth_eq_zero {n : Bool} {m : Nat} {e : ℤ} : worth n m e = 0 ↔ m = 0 := by
  have h : ((2 : ℚ) ^ e) ≠ 0 := by positivity
  cases n <;> simp [worth, h]

theorem worth_not (n : Bool) (m : Nat) (e : ℤ) : worth (!n) m e = -worth n m e := by
  cases n <;> simp [worth]

theorem worth_mul (n n' : Bool) (m m' : Nat) (e e' : ℤ) :
    worth (n != n') (m * m') (e + e') = worth n m e * worth n' m' e' := by
  unfold worth
  rw [zpow_add₀ two_ne_zero]
  cases n <;> cases n' <;> push_cast <;> simp <;> ring

section
variable {f : Fmt} {rm : Rmode} {sat : Bool}

/-- A signed magnitude is exact when its absolute value is rounded. -/
theorem exact_of_rounded {n : Bool} {x : ℝ} (z : Bool) {r : Nat × Flags} (hx : 0 < x) (h : Rounded f rm sat n x r) :
    Exact f rm sat ((if n then -1 else 1) * x) z r := by
  cases n with
  | false =>
    simp only [Bool.false_eq_true, if_false, one_mul]
    exact ⟨fun h0 => absurd h0 hx.ne', fun h0 => absurd h0 (by linarith), fun _ => h⟩
  | true =>
    simp only [if_true, neg_one_mul]
    refine ⟨fun h0 => absurd h0 (by linarith), fun _ => ?_, fun h0 => absurd h0 (by linarith)⟩
    rwa [neg_neg]

theorem Exact.of_sign {x : ℝ} {z n : Bool} {r : Nat × Flags} (h : Exact f rm sat x n r) (hz : x = 0 → n = z) :
    Exact f rm sat x z r := ⟨fun h0 => hz h0 ▸ h.1 h0, h.2⟩

theorem exact_zero (n : Bool) : Exact f rm sat 0 n (signed f n 0, 0) :=
  ⟨fun _ => rfl, fun h => absurd h (lt_irrefl _), fun h => absurd h (lt_irrefl _)⟩

/-- `fpRound` rounds a finite value. -/
theorem exact_fpRound (hf : Proper f) (he : 2 ≤ f.eb) (n : Bool) (m : Nat) (e : ℤ) :
    Exact f rm sat ((worth n m e : ℚ) : ℝ) n (fpRound f rm sat n m e) := by
  by_cases hm : m = 0
  · rw [hm, worth_zero, fpRound_zero, Rat.cast_zero]
    exact exact_zero n
  · rw [worth_cast]
    have : (0 : ℝ) < m := by exact_mod_cast Nat.pos_of_ne_zero hm
    exact exact_of_rounded n (by positivity) (rounded_fpRound hf he rm sat n hm e)

end

/-! Sums and products of decoded values -/

/-- The sum that `addFin` forms, and the sign of an exact zero. -/
theorem addFin_spec (rm : Rmode) (n1 : Bool) (m1 : Nat) (e1 : ℤ) (n2 : Bool) (m2 : Nat) (e2 : ℤ) :
    ∃ n m e, addFin rm n1 m1 e1 n2 m2 e2 = .fin n m e ∧ worth n m e = worth n1 m1 e1 + worth n2 m2 e2 ∧
      (m = 0 → n = if n1 = n2 then n1 else decide (rm = .rdn)) := by
  obtain ⟨i, hi⟩ := Int.eq_ofNat_of_zero_le (show 0 ≤ e1 - min e1 e2 by omega)
  obtain ⟨j, hj⟩ := Int.eq_ofNat_of_zero_le (show 0 ≤ e2 - min e1 e2 by omega)
  generalize hx : (if n1 then -((m1 * 2 ^ i : Nat) : ℤ) else (m1 * 2 ^ i : Nat)) +
    (if n2 then -((m2 * 2 ^ j : Nat) : ℤ) else (m2 * 2 ^ j : Nat)) = x
  have scaled (n : Bool) (m i : Nat) (e e' : ℤ) (h : e - e' = i) :
      worth n m e = ((if n then -((m * 2 ^ i : Nat) : ℤ) else (m * 2 ^ i : Nat) : ℤ) : ℚ) * 2 ^ e' := by
    rw [worth, show e = i + e' by omega, zpow_add₀ two_ne_zero, zpow_natCast]
    cases n <;> push_cast <;> simp <;> ring
  have hsum : worth n1 m1 e1 + worth n2 m2 e2 = (x : ℚ) * 2 ^ min e1 e2 := by
    rw [scaled n1 m1 i e1 _ hi, scaled n2 m2 j e2 _ hj, ← hx, Int.cast_add]
    ring
  unfold addFin
  simp only [hi, hj, Int.toNat_natCast, hx, hsum]
  by_cases h0 : x = 0
  · rw [if_pos h0]
    refine ⟨_, _, _, rfl, ?_, fun _ => ?_⟩
    · rw [worth_zero, h0]
      simp
    · split <;> simp_all
  · rw [if_neg h0]
    refine ⟨_, _, _, rfl, ?_, fun h => absurd (Int.natAbs_eq_zero.mp h) h0⟩
    rw [worth]
    congr 1
    by_cases hneg : x < 0
    · have : (x.natAbs : ℤ) = -x := by omega
      have : ((x.natAbs : ℕ) : ℚ) = -x := by rw [← Int.cast_natCast, this, Int.cast_neg]
      simp [hneg, this]
    · have : (x.natAbs : ℤ) = x := by omega
      have : ((x.natAbs : ℕ) : ℚ) = x := by rw [← Int.cast_natCast, this]
      simp [hneg, this]

section
variable {f : Fmt} {rm : Rmode} {sat : Bool}

theorem withFlags_zero (r : Nat × Flags) : withFlags r 0#5 = r := by simp [withFlags]

/-- The rounded sum of two finite values. -/
theorem exact_addFin (hf : Proper f) (he : 2 ≤ f.eb) (n1 : Bool) (m1 : Nat) (e1 : ℤ) (n2 : Bool) (m2 : Nat) (e2 : ℤ) :
    Exact f rm sat ((worth n1 m1 e1 + worth n2 m2 e2 : ℚ) : ℝ) (if n1 = n2 then n1 else decide (rm = .rdn))
      (fpPut f rm sat (addFin rm n1 m1 e1 n2 m2 e2)) := by
  obtain ⟨n, m, e, ha, hw, hz⟩ := addFin_spec rm n1 m1 e1 n2 m2 e2
  rw [ha, ← hw]
  exact (exact_fpRound hf he n m e).of_sign fun h => hz (worth_eq_zero.mp (by exact_mod_cast h))

/-! Quotients -/

theorem le_bitLen {m p : Nat} (h : 2 ^ p ≤ m) : p + 1 ≤ bitLen m := by
  have hm : m ≠ 0 := by
    have : 0 < 2 ^ p := by positivity
    omega
  obtain ⟨-, hlt, -⟩ := bitLen_spec hm
  exact (Nat.pow_lt_pow_iff_right (by decide)).mp (h.trans_lt hlt)

/-- The quotient of two magnitudes, rounded once. -/
theorem rounded_divMag (hf : Proper f) (he : 2 ≤ f.eb) (n : Bool) {m m' : Nat} (hm : m ≠ 0) (hm' : m' ≠ 0) (e e' : ℤ) :
    Rounded f rm sat n (m * (2 : ℝ) ^ e / (m' * (2 : ℝ) ^ e')) (fpRound f rm sat n (divMag m e m' e' (f.mb + 4)).1
      (divMag m e m' e' (f.mb + 4)).2.1 (divMag m e m' e' (f.mb + 4)).2.2) := by
  obtain ⟨-, hlt, -⟩ := bitLen_spec hm'
  unfold divMag
  simp only
  generalize hk : f.mb + 4 + bitLen m' = k
  have h2 : (0 : ℝ) < 2 ^ k := by positivity
  have hmr : (0 : ℝ) < m' := by exact_mod_cast Nat.pos_of_ne_zero hm'
  have hpos : (0 : ℝ) < 2 ^ (e - e' - k) := by positivity
  have hx : (m : ℝ) * 2 ^ e / (m' * 2 ^ e') = (m * 2 ^ k : Nat) / m' * 2 ^ (e - e' - k) := by
    rw [zpow_sub₀ two_ne_zero, zpow_sub₀ two_ne_zero, zpow_natCast]
    push_cast
    field_simp
  have hdm : (m * 2 ^ k : ℕ) = m' * (m * 2 ^ k / m') + m * 2 ^ k % m' := (Nat.div_add_mod _ _).symm
  have hq : 2 ^ (f.mb + 4) ≤ m * 2 ^ k / m' := by
    rw [Nat.le_div_iff_mul_le (Nat.pos_of_ne_zero hm'), ← hk, pow_add _ (f.mb + 4)]
    calc 2 ^ (f.mb + 4) * m' ≤ 2 ^ (f.mb + 4) * 2 ^ bitLen m' := Nat.mul_le_mul_left _ hlt.le
      _ ≤ m * (2 ^ (f.mb + 4) * 2 ^ bitLen m') := Nat.le_mul_of_pos_left _ (Nat.pos_of_ne_zero hm)
  have hmod := Nat.mod_lt (m * 2 ^ k) (Nat.pos_of_ne_zero hm')
  rw [hx]
  generalize m * 2 ^ k / m' = q at hdm hq ⊢
  generalize m * 2 ^ k % m' = r at hdm hmod ⊢
  rw [hdm]
  by_cases hr : r = 0
  · have hex : ((m' * q + r : ℕ) : ℝ) / m' = q := by
      rw [hr]
      push_cast
      field_simp
      ring
    rw [hex]
    simp only [hr, ne_eq, not_true_eq_false, decide_false]
    have : 0 < 2 ^ (f.mb + 4) := by positivity
    exact rounded_fpRound hf he rm sat n (by omega) _
  · have hr0 : (0 : ℝ) < r := by exact_mod_cast Nat.pos_of_ne_zero hr
    have hr1 : (r : ℝ) < m' := by exact_mod_cast hmod
    simp only [hr, ne_eq, not_false_eq_true, decide_true]
    refine rounded_fpRound_sticky hf he rm sat n ?_ ?_ ((le_bitLen hq).trans' (by omega))
    · refine mul_lt_mul_of_pos_right ?_ hpos
      rw [lt_div_iff₀ hmr]
      push_cast
      linarith
    · refine mul_lt_mul_of_pos_right ?_ hpos
      rw [div_lt_iff₀ hmr]
      push_cast
      linarith

theorem worth_div (n n' : Bool) (m m' : Nat) (e e' : ℤ) : ((worth n m e / worth n' m' e' : ℚ) : ℝ) =
    (if n != n' then -1 else 1) * (m * (2 : ℝ) ^ e / (m' * (2 : ℝ) ^ e')) := by
  rw [Rat.cast_div, worth_cast, worth_cast]
  cases n <;> cases n' <;> simp [neg_div, div_neg]

/-! Square roots -/

/-- The bits of a root are found from the highest: the root stays within the bits that remain. -/
theorem isqrtBits_spec (k n r : Nat) (h1 : r * r ≤ n) (h2 : n < (r + 2 ^ k) * (r + 2 ^ k)) :
    isqrtBits k n r * isqrtBits k n r ≤ n ∧ n < (isqrtBits k n r + 1) * (isqrtBits k n r + 1) := by
  induction k generalizing r with
  | zero => exact ⟨h1, h2⟩
  | succ k ih =>
    rw [isqrtBits]
    split
    · next h => exact ih _ h (by rw [add_assoc, ← two_mul, ← pow_succ']; exact h2)
    · next h => exact ih _ h1 (not_le.mp h)

/-- The integer root is the floor of the root. -/
theorem isqrt_spec (n : Nat) : isqrt n * isqrt n ≤ n ∧ n < (isqrt n + 1) * (isqrt n + 1) := by
  refine isqrtBits_spec _ n 0 (Nat.zero_le _) ?_
  rw [zero_add, ← pow_add]
  by_cases hn : n = 0
  · rw [hn]
    positivity
  · obtain ⟨-, hlt, -⟩ := bitLen_spec hn
    exact hlt.trans_le (Nat.pow_le_pow_right (by decide) (by omega))

/-- The root of a magnitude, rounded once. -/
theorem rounded_sqrtMag (hf : Proper f) (he : 2 ≤ f.eb) {m : Nat} (hm : m ≠ 0) (e : ℤ) :
    Rounded f rm sat false (Real.sqrt (m * (2 : ℝ) ^ e)) (fpRound f rm sat false (sqrtMag m e (f.mb + 4)).1
      (sqrtMag m e (f.mb + 4)).2.1 (sqrtMag m e (f.mb + 4)).2.2) := by
  unfold sqrtMag
  simp only
  generalize hk : 2 * (f.mb + 4) + (e % 2).toNat = k
  have heven : e = (e - k) / 2 + (e - k) / 2 + k := by omega
  generalize (e - (k : ℤ)) / 2 = j at heven ⊢
  have hj : (0 : ℝ) < 2 ^ j := by positivity
  have hx : Real.sqrt (m * (2 : ℝ) ^ e) = Real.sqrt (m * 2 ^ k : ℕ) * 2 ^ j := by
    rw [heven, zpow_add₀ two_ne_zero, zpow_add₀ two_ne_zero, zpow_natCast,
      show (m : ℝ) * (2 ^ j * 2 ^ j * 2 ^ k) = (m * 2 ^ k : ℕ) * (2 ^ j * 2 ^ j) by push_cast; ring,
      Real.sqrt_mul (Nat.cast_nonneg _), Real.sqrt_mul_self hj.le]
  obtain ⟨h1, h2⟩ := isqrt_spec (m * 2 ^ k)
  have hbig : 2 ^ (f.mb + 4) ≤ isqrt (m * 2 ^ k) := by
    have hp : 2 ^ (f.mb + 4) * 2 ^ (f.mb + 4) ≤ m * 2 ^ k := by
      rw [← pow_add]
      calc 2 ^ (f.mb + 4 + (f.mb + 4)) ≤ 2 ^ k := Nat.pow_le_pow_right (by decide) (by omega)
        _ ≤ m * 2 ^ k := Nat.le_mul_of_pos_left _ (Nat.pos_of_ne_zero hm)
    have hlt : 2 ^ (f.mb + 4) * 2 ^ (f.mb + 4) < (isqrt (m * 2 ^ k) + 1) * (isqrt (m * 2 ^ k) + 1) := hp.trans_lt h2
    exact Nat.lt_succ_iff.mp (Nat.mul_self_lt_mul_self_iff.mp hlt)
  rw [hx]
  generalize isqrt (m * 2 ^ k) = r at h1 h2 hbig ⊢
  generalize m * 2 ^ k = n at h1 h2 ⊢
  have h2r : Real.sqrt n < r + 1 := by
    rw [Real.sqrt_lt' (by positivity), sq]
    exact_mod_cast h2
  by_cases hr : r * r = n
  · simp only [hr, ne_eq, not_true_eq_false, decide_false]
    rw [← hr, Nat.cast_mul, Real.sqrt_mul_self (Nat.cast_nonneg _)]
    have : 0 < 2 ^ (f.mb + 4) := by positivity
    exact rounded_fpRound hf he rm sat false (by omega) _
  · simp only [hr, ne_eq, not_false_eq_true, decide_true]
    have h1r : (r : ℝ) < Real.sqrt n := by
      rw [Real.lt_sqrt (Nat.cast_nonneg _), sq]
      exact_mod_cast lt_of_le_of_ne h1 hr
    exact rounded_fpRound_sticky hf he rm sat false (mul_lt_mul_of_pos_right h1r hj) (mul_lt_mul_of_pos_right h2r hj)
      ((le_bitLen hbig).trans' (by omega))

end

/-! Decoded values with their signs -/

/-- A decoded value with its sign turned as a flag says. -/
def flip (b : Bool) (x : FV) : FV := if b then x.negate else x

section
variable (b n : Bool) (m : Nat) (e : ℤ) (x : FV)

@[simp] theorem flip_nan : flip b (.nan n) = .nan n := by cases b <;> rfl
@[simp] theorem flip_inf : flip b (.inf n) = .inf (n != b) := by cases b <;> cases n <;> rfl
@[simp] theorem flip_fin : flip b (.fin n m e) = .fin (n != b) m e := by cases b <;> cases n <;> rfl
@[simp] theorem isZero_nan : (FV.nan n).isZero = false := rfl
@[simp] theorem isZero_inf : (FV.inf n).isZero = false := rfl
@[simp] theorem isZero_fin : (FV.fin n m e).isZero = decide (m = 0) := by cases m <;> rfl
@[simp] theorem isNan_nan : (FV.nan n).isNan = true := rfl
@[simp] theorem isNan_inf : (FV.inf n).isNan = false := rfl
@[simp] theorem isNan_fin : (FV.fin n m e).isNan = false := rfl
@[simp] theorem isSnan_nan : (FV.nan n).isSnan = n := rfl
@[simp] theorem isSnan_inf : (FV.inf n).isSnan = false := rfl
@[simp] theorem isSnan_fin : (FV.fin n m e).isSnan = false := rfl
@[simp] theorem neg_inf : (FV.inf n).neg = n := rfl
@[simp] theorem neg_fin : (FV.fin n m e).neg = n := rfl

theorem flagIf_or (a b : Bool) (f : Flags) : flagIf a f ||| flagIf b f = flagIf (a || b) f := by
  cases a <;> cases b <;> simp [flagIf]

end

section
variable (f : Fmt) (rm : Rmode) (sat : Bool)

/-- The canonical NaN with its flag. -/
def nanOf (nv : Bool) : Nat × Flags := (f.nan, if nv then fNV else 0)

theorem fpNan_flagIf (nv : Bool) : fpNan f (flagIf nv fNV) = nanOf f nv := rfl

/-- What the sum of two values gives, one of them flipped. -/
def sumOf (x y : FV) : Nat × Flags := withFlags (fpPut f rm sat (fvAdd rm x y).1) (fvAdd rm x y).2

theorem fpAdd_eq (a b : Nat) : fpAdd f rm sat a b = sumOf f rm sat (fpDec f a) (fpDec f b) := rfl
theorem fpSub_eq (a b : Nat) : fpSub f rm sat a b = sumOf f rm sat (fpDec f a) (fpDec f b).negate := rfl

theorem sumOf_nan {x y : FV} (h : x.isNan = true ∨ y.isNan = true) : sumOf f rm sat x y = nanOf f (x.isSnan || y.isSnan) := by
  have hb : (x.isNan || y.isNan) = true := by simpa using h
  simp only [sumOf, fvAdd, hb, if_true]
  simp [fpPut, fpNan, withFlags, nanOf, flagIf]

theorem sumOf_inf_inf (p q : Bool) : sumOf f rm sat (.inf p) (.inf q) = if p = q then infinite f sat p else nanOf f true := by
  by_cases h : p = q
  · simp [sumOf, fvAdd, h, fpPut, fpInf_eq, withFlags_zero]
  · simp [sumOf, fvAdd, h, fpPut, fpNan, withFlags, nanOf, flagIf]

theorem sumOf_inf_fin (p n : Bool) (m : Nat) (e : ℤ) : sumOf f rm sat (.inf p) (.fin n m e) = infinite f sat p := by
  simp [sumOf, fvAdd, fpPut, fpInf_eq, withFlags_zero]

theorem sumOf_fin_inf (p n : Bool) (m : Nat) (e : ℤ) : sumOf f rm sat (.fin n m e) (.inf p) = infinite f sat p := by
  simp [sumOf, fvAdd, fpPut, fpInf_eq, withFlags_zero]

theorem sumOf_fin_fin (n n' : Bool) (m m' : Nat) (e e' : ℤ) :
    sumOf f rm sat (.fin n m e) (.fin n' m' e') = fpPut f rm sat (addFin rm n m e n' m' e') := by
  simp [sumOf, fvAdd, withFlags_zero]

theorem isNan_negate (x : FV) : x.negate.isNan = x.isNan := by cases x <;> rfl
theorem isSnan_negate (x : FV) : x.negate.isSnan = x.isSnan := by cases x <;> rfl

theorem fvMul_nan {x y : FV} (h : x.isNan = true ∨ y.isNan = true) :
    fvMul x y = (.nan false, flagIf (x.isSnan || y.isSnan) fNV) := by
  have hb : (x.isNan || y.isNan) = true := by simpa using h
  simp only [fvMul, hb, if_true]

theorem fvMul_fin (n n' : Bool) (m m' : Nat) (e e' : ℤ) :
    fvMul (.fin n m e) (.fin n' m' e') = (.fin (n != n') (m * m') (e + e'), 0) := rfl
theorem fvMul_inf (p q : Bool) : fvMul (.inf p) (.inf q) = (.inf (p != q), 0) := rfl
theorem fvMul_inf_fin (p n : Bool) (m : Nat) (e : ℤ) :
    fvMul (.inf p) (.fin n m e) = if m = 0 then (.nan false, fNV) else (.inf (p != n), 0) := by
  simp [fvMul]
theorem fvMul_fin_inf (p n : Bool) (m : Nat) (e : ℤ) :
    fvMul (.fin n m e) (.inf p) = if m = 0 then (.nan false, fNV) else (.inf (n != p), 0) := by
  simp [fvMul]

theorem fpMul_eq (a b : Nat) : fpMul f rm sat a b =
    withFlags (fpPut f rm sat (fvMul (fpDec f a) (fpDec f b)).1) (fvMul (fpDec f a) (fpDec f b)).2 := rfl

theorem fpFma_eq (np nd : Bool) (a b d : Nat) : fpFma f rm sat np nd a b d =
    withFlags (sumOf f rm sat (fvMul (flip np (fpDec f a)) (fpDec f b)).1 (flip nd (fpDec f d)))
      (fvMul (flip np (fpDec f a)) (fpDec f b)).2 := by
  simp only [fpFma, fvFma, sumOf, withFlags, flip]
  rw [BitVec.or_assoc, BitVec.or_comm (fvMul _ _).2]

end

end Sys2Proof.Safety
end

section
/-! SUPPORT. The scalar FP forms (O16), operation by operation. -/

namespace Sys2Proof.Safety

open Sys2Proof.Machine

theorem eb_fmtOf (t : ETy) : 2 ≤ (fmtOf t).eb := by cases t <;> decide

section
variable {f : Fmt} {rm : Rmode} {sat : Bool} {a b d : Nat}

/-- A NaN among two operands gives the canonical one, with nv when one of them signals (R137). -/
theorem fp2_nan (h : (fpDec f a).isNan = true ∨ (fpDec f b).isNan = true) :
    let r := nanOf f ((fpDec f a).isSnan || (fpDec f b).isSnan)
    fpAdd f rm sat a b = r ∧ fpSub f rm sat a b = r ∧ fpMul f rm sat a b = r ∧ fpDiv f rm sat a b = r := by
  have hb : ((fpDec f a).isNan || (fpDec f b).isNan) = true := by simpa using h
  refine ⟨?_, ?_, ?_, ?_⟩
  · rw [fpAdd_eq, sumOf_nan f rm sat h]
  · rw [fpSub_eq, sumOf_nan f rm sat (by rwa [isNan_negate]), isSnan_negate]
  · rw [fpMul_eq, fvMul_nan h]
    simp [fpPut, fpNan, withFlags, nanOf, flagIf]
  · simp only [fpDiv, hb, if_true]
    rfl

theorem fp2_inf_inf {p q : Bool} (ha : fpDec f a = .inf p) (hb : fpDec f b = .inf q) :
    fpAdd f rm sat a b = (if p = q then infinite f sat p else nanOf f true) ∧
    fpSub f rm sat a b = (if p = q then nanOf f true else infinite f sat p) ∧
    fpMul f rm sat a b = infinite f sat (p != q) ∧ fpDiv f rm sat a b = nanOf f true := by
  refine ⟨?_, ?_, ?_, ?_⟩
  · rw [fpAdd_eq, ha, hb, sumOf_inf_inf]
  · rw [fpSub_eq, ha, hb, FV.negate, sumOf_inf_inf]
    cases p <;> cases q <;> rfl
  · rw [fpMul_eq, ha, hb, fvMul_inf]
    exact withFlags_zero _
  · simp only [fpDiv, ha, hb]
    rfl

theorem fp2_inf_fin {p n : Bool} {m : Nat} {e : ℤ} (ha : fpDec f a = .inf p) (hb : fpDec f b = .fin n m e) :
    fpAdd f rm sat a b = infinite f sat p ∧ fpSub f rm sat a b = infinite f sat p ∧
    fpMul f rm sat a b = (if m = 0 then nanOf f true else infinite f sat (p != n)) ∧
    fpDiv f rm sat a b = infinite f sat (p != n) := by
  refine ⟨?_, ?_, ?_, ?_⟩
  · rw [fpAdd_eq, ha, hb, sumOf_inf_fin]
  · rw [fpSub_eq, ha, hb, FV.negate, sumOf_inf_fin]
  · rw [fpMul_eq, ha, hb, fvMul_inf_fin]
    split
    · simp [fpPut, fpNan, withFlags, nanOf, flagIf]
    · exact withFlags_zero _
  · simp only [fpDiv, ha, hb]
    rfl

theorem fp2_fin_inf {p n : Bool} {m : Nat} {e : ℤ} (ha : fpDec f a = .fin n m e) (hb : fpDec f b = .inf p) :
    fpAdd f rm sat a b = infinite f sat p ∧ fpSub f rm sat a b = infinite f sat (!p) ∧
    fpMul f rm sat a b = (if m = 0 then nanOf f true else infinite f sat (n != p)) ∧
    fpDiv f rm sat a b = (signed f (n != p) 0, 0) := by
  refine ⟨?_, ?_, ?_, ?_⟩
  · rw [fpAdd_eq, ha, hb, sumOf_fin_inf]
  · rw [fpSub_eq, ha, hb, FV.negate, sumOf_fin_inf]
  · rw [fpMul_eq, ha, hb, fvMul_fin_inf]
    split
    · simp [fpPut, fpNan, withFlags, nanOf, flagIf]
    · exact withFlags_zero _
  · simp only [fpDiv, ha, hb]
    rfl

theorem fpDiv_fin {n n' : Bool} {m m' : Nat} {e e' : ℤ} (ha : fpDec f a = .fin n m e) (hb : fpDec f b = .fin n' m' e') :
    fpDiv f rm sat a b = if m' = 0 then if m = 0 then nanOf f true else withFlags (infinite f sat (n != n')) fDZ
      else if m = 0 then (signed f (n != n') 0, 0)
      else fpRound f rm sat (n != n') (divMag m e m' e' (f.mb + 4)).1 (divMag m e m' e' (f.mb + 4)).2.1
        (divMag m e m' e' (f.mb + 4)).2.2 := by
  simp only [fpDiv, ha, hb]
  rfl

theorem fp2_fin_fin (hf : Proper f) (he : 2 ≤ f.eb) {n n' : Bool} {m m' : Nat} {e e' : ℤ} (ha : fpDec f a = .fin n m e)
    (hb : fpDec f b = .fin n' m' e') :
    Exact f rm sat ((worth n m e + worth n' m' e' : ℚ) : ℝ) (if n = n' then n else rm = .rdn) (fpAdd f rm sat a b) ∧
    Exact f rm sat ((worth n m e - worth n' m' e' : ℚ) : ℝ) (if n = !n' then n else rm = .rdn) (fpSub f rm sat a b) ∧
    Exact f rm sat ((worth n m e * worth n' m' e' : ℚ) : ℝ) (n != n') (fpMul f rm sat a b) ∧
    (m' ≠ 0 → Exact f rm sat ((worth n m e / worth n' m' e' : ℚ) : ℝ) (n != n') (fpDiv f rm sat a b)) ∧
    (m' = 0 → m ≠ 0 → fpDiv f rm sat a b = ((infinite f sat (n != n')).1, (infinite f sat (n != n')).2 ||| fDZ)) ∧
    (m' = 0 → m = 0 → fpDiv f rm sat a b = nanOf f true) := by
  refine ⟨?_, ?_, ?_, fun h => ?_, fun h h0 => ?_, fun h h0 => ?_⟩
  · rw [fpAdd_eq, ha, hb, sumOf_fin_fin]
    exact exact_addFin hf he ..
  · rw [fpSub_eq, ha, hb, FV.negate, sumOf_fin_fin, sub_eq_add_neg, ← worth_not]
    exact exact_addFin hf he ..
  · rw [fpMul_eq, ha, hb, fvMul_fin, ← worth_mul]
    rw [show withFlags _ 0 = _ from withFlags_zero _]
    exact exact_fpRound hf he ..
  · rw [fpDiv_fin ha hb, if_neg h]
    split
    · next hm =>
      rw [hm, worth_zero, zero_div, Rat.cast_zero]
      exact exact_zero _
    · next hm =>
      rw [worth_div]
      have h1 : (0 : ℝ) < m := by exact_mod_cast Nat.pos_of_ne_zero hm
      have h2 : (0 : ℝ) < m' := by exact_mod_cast Nat.pos_of_ne_zero h
      exact exact_of_rounded _ (by positivity) (rounded_divMag hf he _ hm h e e')
  · rw [fpDiv_fin ha hb, if_pos h, if_neg h0]
    rfl
  · rw [fpDiv_fin ha hb, if_pos h, if_pos h0]

theorem fpSqrt_fin {n : Bool} {m : Nat} {e : ℤ} (ha : fpDec f a = .fin n m e) :
    fpSqrt f rm a = if m = 0 then (signed f n 0, 0) else if n then nanOf f true
      else fpRound f rm false false (sqrtMag m e (f.mb + 4)).1 (sqrtMag m e (f.mb + 4)).2.1 (sqrtMag m e (f.mb + 4)).2.2 := by
  simp only [fpSqrt, ha]
  rfl

theorem fpSqrt_exact (hf : Proper f) (he : 2 ≤ f.eb) : match fpDec f a with
    | .nan sg => fpSqrt f rm a = nanOf f sg
    | .inf n => fpSqrt f rm a = if n then nanOf f true else infinite f false false
    | .fin n m e =>
      (m = 0 → fpSqrt f rm a = (signed f n 0, 0)) ∧ (m ≠ 0 → n = true → fpSqrt f rm a = nanOf f true) ∧
      (m ≠ 0 → n = false → Exact f rm false (Real.sqrt ((worth n m e : ℚ) : ℝ)) false (fpSqrt f rm a)) := by
  split
  · next h =>
    simp only [fpSqrt, h]
    rfl
  · next h =>
    simp only [fpSqrt, h]
    rfl
  · next n m e h =>
    rw [fpSqrt_fin h]
    refine ⟨fun h0 => if_pos h0, fun h0 hn => ?_, fun h0 hn => ?_⟩
    · rw [if_neg h0, if_pos hn]
    · subst hn
      rw [if_neg h0, if_neg (by simp), worth_cast, if_neg (by simp), one_mul]
      have h1 : (0 : ℝ) < m := by exact_mod_cast Nat.pos_of_ne_zero h0
      have hpos : 0 < Real.sqrt (m * (2 : ℝ) ^ e) := Real.sqrt_pos.mpr (by positivity)
      have := exact_of_rounded false hpos (rounded_sqrtMag (rm := rm) (sat := false) hf he h0 e)
      simpa using this

/-! FMA: the product of `x` and `y`, then the sum with `z` -/

/-- An infinity times a zero. -/
def badMul (x y : FV) : Bool := ((∃ p, x = .inf p) && y.isZero) || (x.isZero && ∃ p, y = .inf p)

/-- The rounded result of FMA on decoded values. -/
def fmaOf (f : Fmt) (rm : Rmode) (sat : Bool) (x y z : FV) : Nat × Flags :=
  withFlags (sumOf f rm sat (fvMul x y).1 z) (fvMul x y).2

theorem withFlags_nanOf (f : Fmt) (a b : Bool) : withFlags (nanOf f a) (flagIf b fNV) = nanOf f (a || b) := by
  cases a <;> cases b <;> simp [withFlags, nanOf, flagIf]

theorem fmaOf_nan {x y z : FV} (h : x.isNan = true ∨ y.isNan = true ∨ z.isNan = true ∨ badMul x y = true) :
    fmaOf f rm sat x y z = nanOf f ((x.isSnan || y.isSnan || z.isSnan) || badMul x y) := by
  unfold fmaOf
  by_cases hxy : x.isNan = true ∨ y.isNan = true
  · have hbad : badMul x y = false := by
      cases x <;> cases y <;> simp_all [badMul]
    rw [fvMul_nan hxy, sumOf_nan f rm sat (.inl rfl), withFlags_nanOf, hbad]
    congr 1
    cases x.isSnan <;> cases y.isSnan <;> cases z.isSnan <;> rfl
  · push Not at hxy
    obtain ⟨hx, hy⟩ := hxy
    have hxs : x.isSnan = false := by cases x <;> simp_all
    have hys : y.isSnan = false := by cases y <;> simp_all
    by_cases hbad : badMul x y = true
    · have hm : fvMul x y = (.nan false, fNV) := by
        cases x <;> cases y <;> simp_all [badMul, fvMul]
      rw [hm, hbad, sumOf_nan f rm sat (.inl rfl)]
      exact (withFlags_nanOf f _ true).trans (by simp)
    · have hz : z.isNan = true := by tauto
      rw [Bool.not_eq_true] at hbad
      have hm : (fvMul x y).2 = 0 ∧ (fvMul x y).1.isSnan = false := by
        cases x <;> cases y <;> simp_all [badMul, fvMul]
      rw [sumOf_nan f rm sat (.inr hz), hm.1, hm.2, hxs, hys, hbad]
      exact (withFlags_nanOf f _ false).trans (by simp)

/-- An infinite product. -/
theorem fvMul_far {x y : FV} (hx : x.isNan = false) (hy : y.isNan = false) (hb : badMul x y = false)
    (hfar : (∃ p, x = .inf p) ∨ ∃ p, y = .inf p) : fvMul x y = (.inf (x.neg != y.neg), 0) := by
  cases x <;> cases y <;> simp_all [badMul, fvMul]

theorem fmaOf_far {x y : FV} (hx : x.isNan = false) (hy : y.isNan = false) (hb : badMul x y = false)
    (hfar : (∃ p, x = .inf p) ∨ ∃ p, y = .inf p) :
    (∀ q, fmaOf f rm sat x y (.inf q) = if (x.neg != y.neg) = q then infinite f sat (x.neg != y.neg) else nanOf f true) ∧
      ∀ n m e, fmaOf f rm sat x y (.fin n m e) = infinite f sat (x.neg != y.neg) := by
  unfold fmaOf
  rw [fvMul_far hx hy hb hfar]
  refine ⟨fun q => ?_, fun n m e => ?_⟩
  · rw [sumOf_inf_inf]
    exact withFlags_zero _
  · rw [sumOf_inf_fin]
    exact withFlags_zero _

theorem fmaOf_fin_inf (n n' : Bool) (m m' : Nat) (e e' : ℤ) (q : Bool) :
    fmaOf f rm sat (.fin n m e) (.fin n' m' e') (.inf q) = infinite f sat q := by
  rw [fmaOf, fvMul_fin, sumOf_fin_inf]
  exact withFlags_zero _

theorem exact_fmaOf (hf : Proper f) (he : 2 ≤ f.eb) (n n' k : Bool) (m m' i : Nat) (e e' j : ℤ) :
    Exact f rm sat ((worth n m e * worth n' m' e' + worth k i j : ℚ) : ℝ) (if (n != n') = k then n != n' else rm = .rdn)
      (fmaOf f rm sat (.fin n m e) (.fin n' m' e') (.fin k i j)) := by
  rw [fmaOf, fvMul_fin, sumOf_fin_fin, ← worth_mul, show withFlags _ 0 = _ from withFlags_zero _]
  exact exact_addFin hf he ..

theorem isNan_flip (c : Bool) (x : FV) : (flip c x).isNan = x.isNan := by cases c <;> cases x <;> rfl
theorem isSnan_flip (c : Bool) (x : FV) : (flip c x).isSnan = x.isSnan := by cases c <;> cases x <;> rfl
theorem badMul_flip (c : Bool) (x y : FV) : badMul (flip c x) y = badMul x y := by
  cases x <;> simp [badMul]

theorem fpFma_exact (hf : Proper f) (he : 2 ≤ f.eb) (np nd : Bool) :
    let x := fpDec f a
    let y := fpDec f b
    let z := fpDec f d
    let r := fpFma f rm sat np nd a b d
    let bad := badMul x y
    let s := (x.neg != np) != y.neg
    (x.isNan = true ∨ y.isNan = true ∨ z.isNan = true ∨ bad = true →
      r = nanOf f ((x.isSnan || y.isSnan || z.isSnan) || bad)) ∧
    (x.isNan = false → y.isNan = false → bad = false → ((∃ p, x = .inf p) ∨ ∃ p, y = .inf p) →
      (∀ q, z = .inf q → r = if s = (q != nd) then infinite f sat s else nanOf f true) ∧
      (∀ n m e, z = .fin n m e → r = infinite f sat s)) ∧
    (∀ n m e n' m' e', x = .fin n m e → y = .fin n' m' e' →
      (∀ q, z = .inf q → r = infinite f sat (q != nd)) ∧
      (∀ k i j, z = .fin k i j →
        Exact f rm sat ((worth (n != np) m e * worth n' m' e' + worth (k != nd) i j : ℚ) : ℝ)
          (if s = (k != nd) then s else rm = .rdn) r)) := by
  intro x y z r bad s
  have hr : r = fmaOf f rm sat (flip np x) y (flip nd z) := fpFma_eq ..
  rw [hr]
  have hsign (h : x.isNan = false) : ((flip np x).neg != y.neg) = s := by
    cases hx : x <;> simp_all [s]
  refine ⟨fun h => ?_, fun hx hy hb hfar => ?_, fun n m e n' m' e' hx hy => ⟨fun q hz => ?_, fun k i j hz => ?_⟩⟩
  · have := fmaOf_nan (f := f) (rm := rm) (sat := sat) (x := flip np x) (y := y) (z := flip nd z)
      (by rw [isNan_flip, isNan_flip, badMul_flip]; exact h)
    rw [this, isSnan_flip, isSnan_flip, badMul_flip]
  · have hfar' : (∃ p, flip np x = .inf p) ∨ ∃ p, y = .inf p := by
      rcases hfar with ⟨p, hp⟩ | hy
      · exact .inl ⟨_, by rw [hp, flip_inf]⟩
      · exact .inr hy
    obtain ⟨h1, h2⟩ := fmaOf_far (f := f) (rm := rm) (sat := sat) (by rwa [isNan_flip]) hy (by rwa [badMul_flip]) hfar'
    rw [hsign hx] at h1 h2
    exact ⟨fun q hz => by rw [hz, flip_inf, h1], fun n m e hz => by rw [hz, flip_fin, h2]⟩
  · rw [hx, hy, hz, flip_fin, flip_inf, fmaOf_fin_inf]
  · have hs : s = ((n != np) != n') := by simp [s, hx, hy]
    rw [hx, hy, hz, flip_fin, flip_fin, hs]
    exact exact_fmaOf hf he ..

end

theorem fpExactResults : Claim.FpExactResults := by
  intro t ht rm sat a b d f x y z nan
  have hf : Proper f := proper_fmtOf t
  have he : 2 ≤ f.eb := eb_fmtOf t
  refine ⟨fp2_nan, fun p q ha hb => fp2_inf_inf ha hb, fun p n m e ha hb => fp2_inf_fin ha hb,
    fun p n m e ha hb => fp2_fin_inf ha hb, fun n m e n' m' e' ha hb => fp2_fin_fin hf he ha hb, fpSqrt_exact hf he,
    fun np nd => ?_⟩
  obtain ⟨h1, h2, h3⟩ := fpFma_exact (rm := rm) (sat := sat) (a := a) (b := b) (d := d) hf he np nd
  exact ⟨h1, fun hx hy hb hfar => h2 hx hy hb (by simpa using hfar), h3⟩

/-! Conversions (R241) -/

section
variable {rm : Rmode}

theorem natOf_spec (w : Nat) (i : ℤ) : natOf w i < 2 ^ w ∧ ((natOf w i : ℕ) : ℤ) % 2 ^ w = i % 2 ^ w := by
  have hpos : (0 : ℤ) < 2 ^ w := by positivity
  have h0 := Int.emod_nonneg i hpos.ne'
  have h1 := Int.emod_lt_of_pos i hpos
  have hn : ((natOf w i : ℕ) : ℤ) = i % 2 ^ w := by
    rw [natOf]
    push_cast
    exact Int.toNat_of_nonneg h0
  refine ⟨?_, by rw [hn, Int.emod_emod_of_dvd _ (dvd_refl _)]⟩
  zify
  rw [hn]
  exact h1

/-- The bounds of an integer type. -/
def intLo (w : Nat) (sgn : Bool) : ℤ := if sgn then -2 ^ (w - 1) else 0
def intHi (w : Nat) (sgn : Bool) : ℤ := if sgn then 2 ^ (w - 1) - 1 else 2 ^ w - 1

theorem intLo_le_intHi (w : Nat) (sgn : Bool) : intLo w sgn ≤ intHi w sgn := by
  have h1 : (0 : ℤ) < 2 ^ (w - 1) := by positivity
  have h2 : (0 : ℤ) < 2 ^ w := by positivity
  cases sgn <;> simp only [intLo, intHi, if_true, if_false, Bool.false_eq_true] <;> omega

theorem fpToInt_fin (rm : Rmode) (w : Nat) (sgn n : Bool) (m : Nat) (e : ℤ) :
    fpToInt rm w sgn (.fin n m e) =
      if (if n then -((roundAt rm n m e 0).1 : ℤ) else (roundAt rm n m e 0).1) < intLo w sgn ∨
        intHi w sgn < (if n then -((roundAt rm n m e 0).1 : ℤ) else (roundAt rm n m e 0).1) then
        (clampInt (intLo w sgn) (intHi w sgn) (if n then -((roundAt rm n m e 0).1 : ℤ) else (roundAt rm n m e 0).1), fNV)
      else (if n then -((roundAt rm n m e 0).1 : ℤ) else (roundAt rm n m e 0).1, flagIf (roundAt rm n m e 0).2 fNX) := by
  simp [fpToInt, fvToInt, intLo, intHi]
  congr

end

theorem fpConversions : Claim.FpConversions := by
  intro t st sgn rm sat a r f x w lo hi gives
  have hf : Proper f := proper_fmtOf t
  have he : 2 ≤ f.eb := eb_fmtOf t
  refine ⟨fun ht hst => ?_, fun ht hst => ?_, fun ht hst => ?_⟩
  · have hr : r = fpPut f rm sat x := by simp [r, fpCvt, ht, hst, x, f]
    rw [hr]
    refine ⟨fun sg h => by rw [h]; rfl, fun n h => by rw [h]; rfl, fun n m e h => ?_⟩
    rw [h]
    exact exact_fpRound hf he n m e
  · intro u i
    have hi : intOf (tyBits st) sgn a = i := intOf_eq _ _ _
    have hr : r = fpRound f rm sat (i < 0) i.natAbs 0 := by
      simp only [r, fpCvt, hst, if_true, hi]
      rfl
    have hw : worth (decide (i < 0)) i.natAbs 0 = i := by
      rw [worth, zpow_zero, mul_one]
      by_cases hneg : i < 0
      · have : (i.natAbs : ℤ) = -i := by omega
        rw [← Int.cast_natCast, this]
        simp [hneg]
      · have : (i.natAbs : ℤ) = i := by omega
        rw [← Int.cast_natCast, this]
        simp [hneg]
    have := exact_fpRound (f := f) (rm := rm) (sat := sat) hf he (decide (i < 0)) i.natAbs 0
    rw [hw] at this
    rw [hr, show (i : ℝ) = ((i : ℚ) : ℝ) by push_cast; rfl]
    refine this.of_sign fun h => ?_
    have : i = 0 := by exact_mod_cast h
    simp [this]
  · have hr : r = (natOf w (fpToInt rm w sgn x).1, (fpToInt rm w sgn x).2) := by
      simp only [r, fpCvt, ht, hst, if_true, Bool.false_eq_true, if_false]
      rfl
    have given {i : ℤ} {fl : Flags} (h : fpToInt rm w sgn x = (i, fl)) : gives i fl := by
      obtain ⟨h1, h2⟩ := natOf_spec w i
      simp only [gives, hr, h]
      exact ⟨h1, h2, trivial⟩
    refine ⟨fun sg h => given (by rw [h]; rfl), fun n h => given ?_, fun n m e h => ?_⟩
    · rw [h]
      cases n <;> cases hs : sgn <;> simp [fpToInt, lo, hi, hs]
    · have hround := roundAt_spec (K := ℝ) rm n m e 0
      have hworth : ((worth false m e : ℚ) : ℝ) = m * (2 : ℝ) ^ e := by rw [worth_cast]; simp
      rw [hworth]
      refine ⟨(roundAt rm n m e 0).1, hround.nearest, ?_⟩
      intro i
      have hfin := fpToInt_fin rm w sgn n m e
      have hlohi : lo ≤ hi := intLo_le_intHi w sgn
      have hx := hround.inexact
      rw [zpow_zero, mul_one] at hx
      change fpToInt rm w sgn (.fin n m e) = if i < lo ∨ hi < i then (clampInt lo hi i, fNV)
        else (i, flagIf (roundAt rm n m e 0).2 fNX) at hfin
      rw [← h] at hfin
      refine ⟨fun hl => given ?_, fun hh => given ?_, fun hl hh => ⟨fun heq => given ?_, fun hne => given ?_⟩⟩
      · rw [hfin, if_pos (.inl hl), clampInt, if_pos hl]
      · rw [hfin, if_pos (.inr hh), clampInt, if_neg (by omega), if_pos hh]
      · have : (roundAt rm n m e 0).2 = false := by
          rw [← Bool.not_eq_true, hx]
          exact not_not.mpr heq
        rw [hfin, if_neg (by omega), this]
        rfl
      · rw [hfin, if_neg (by omega), hx.mpr hne]
        rfl

/-- Settles O16: the forms retire with the operations of the model, whose results are the exact ones rounded once. -/
theorem fpResults : Obligations.FpResults := ⟨fpForms, canonicalNaN, fpExactResults, fpConversions⟩

end Sys2Proof.Safety
end

section
/-! SUPPORT. Local loads and stores (O24): the numbers that their bytes form, and how the LS forms end. -/

namespace Sys2Proof.Safety

open Sys2Proof.Machine

/-! Bytes and numbers (R4) -/

theorem leNat_map_range (f : Nat → Byte) (n : Nat) :
    leNat ((List.range n).map f) = ((List.range n).map fun j => (f j).toNat * 2 ^ (8 * j)).sum := by
  induction n generalizing f with
  | zero => rfl
  | succ n ih =>
    have h (j : Nat) : 256 * ((f (j + 1)).toNat * 2 ^ (8 * j)) = (f (j + 1)).toNat * 2 ^ (8 * (j + 1)) := by
      rw [Nat.mul_succ, pow_add]; ring
    rw [List.range_succ_eq_map, List.map_cons, List.map_map, leNat, List.foldr_cons, ← leNat, ih, List.map_cons,
      List.map_map, List.sum_cons, ← List.sum_map_mul_left]
    simp [Function.comp_def, h]

theorem leNat_lt (l : List Byte) : leNat l < 2 ^ (8 * l.length) := by
  induction l with
  | nil => simp [leNat]
  | cons b t ih =>
    have hb := b.isLt
    rw [leNat, List.foldr_cons, ← leNat, List.length_cons, Nat.mul_succ, pow_add]
    omega

/-- The number of `n` bytes of a local store, and whether a poisoned word holds one of them. -/
def lsNum (k : Core) (a n : Nat) : Nat := ((List.range n).map fun j => (lsByte k (a + j)).v.toNat * 2 ^ (8 * j)).sum
def lsBad (k : Core) (a n : Nat) : Bool := (List.range n).any fun j => (lsByte k (a + j)).p

theorem bytesVal_lsBytes (k : Core) (a n : Nat) : bytesVal (lsBytes k a n) = lsNum k a n := by
  rw [bytesVal, lsBytes, List.map_map, leNat_map_range]
  rfl

theorem bytesP_lsBytes (k : Core) (a n : Nat) : bytesP (lsBytes k a n) = lsBad k a n := by
  rw [bytesP, lsBytes, List.any_map]
  rfl

theorem lsNum_lt (k : Core) (a n : Nat) : lsNum k a n < 2 ^ (8 * n) := by
  have h := leNat_lt ((lsBytes k a n).map (·.v))
  rw [← bytesVal, bytesVal_lsBytes, List.length_map, lsBytes, List.length_map, List.length_range] at h
  exact h

theorem extend_lsNum (k : Core) (a : Nat) {n : Nat} (hn : n ≤ 8) (sgn : Bool) : extend (8 * n) sgn (lsNum k a n) =
    .ofInt 64 (if sgn = true ∧ 2 ^ (8 * n - 1) ≤ lsNum k a n then (lsNum k a n : Int) - 2 ^ (8 * n) else lsNum k a n) := by
  rw [extend_eq (by omega), Nat.mod_eq_of_lt (lsNum_lt k a n)]
  split
  · rfl
  · rw [BitVec.ofInt_natCast]

theorem foldr_bytes (l : List PByte) :
    leNat (l.map (·.v)) = (l.map (·.v.toNat)).foldr (fun x n => x % 2 ^ 8 + 2 ^ 8 * n) 0 := by
  induction l with
  | nil => rfl
  | cons b t ih =>
    have hb := b.v.isLt
    rw [List.map_cons, leNat, List.foldr_cons, ← leNat, ih, List.map_cons, List.foldr_cons, Nat.mod_eq_of_lt hb]
    rfl

/-- The bytes of a vector that 64 bytes fill. -/
theorem extractLsb'_vecOfBytes (f : Nat → PByte) {j : Nat} (hj : j < 64) :
    (vecOfBytes ((List.range 64).map f)).x.extractLsb' (8 * j) 8 = (f j).v := by
  have hx : (vecOfBytes ((List.range 64).map f)).x = ofElems 8 (((List.range 64).map f).map (·.v.toNat)) := by
    rw [vecOfBytes, bytesVal, foldr_bytes]
    rfl
  have he := elem_ofElems 8 (((List.range 64).map f).map (·.v.toNat)) j (by simpa using hj) (by simp)
  rw [← hx, elem] at he
  apply BitVec.eq_of_toNat_eq
  rw [BitVec.extractLsb'_toNat, Nat.shiftRight_eq_div_pow, he]
  simp only [List.getElem_map, List.getElem_range]
  exact Nat.mod_eq_of_lt (f j).v.isLt

/-- The poison of a vector that 64 bytes fill. -/
theorem getLsbD_vecOfBytes (f : Nat → PByte) {n : Nat} (hn : n < 8) :
    (vecOfBytes ((List.range 64).map f)).p.getLsbD n = (List.range 8).any fun j => (f (8 * n + j)).p := by
  rw [Bool.eq_iff_iff, vecOfBytes, wordsP_bit _ _ _ hn, List.any_eq_true]
  simp only [List.map_map, List.length_map, List.length_range, List.getElem_map, List.getElem_range, List.mem_range,
    Function.comp_apply, exists_prop]
  constructor
  · rintro ⟨j, hj, hp, hw⟩
    exact ⟨j - 8 * n, by omega, by rwa [show 8 * n + (j - 8 * n) = j by omega]⟩
  · rintro ⟨j, hj, hp⟩
    exact ⟨8 * n + j, by omega, hp, by omega⟩

theorem bytesOfScalar_eq (n : Nat) (x : PWord) : bytesOfScalar n x = lowBytes n x := by
  rw [bytesOfScalar, lowBytes, leBytes, List.map_map]
  refine List.map_congr_left fun j _ => ?_
  simp only [Function.comp_apply, PByte.mk.injEq, and_true]
  apply BitVec.eq_of_toNat_eq
  rw [BitVec.toNat_ofNat, BitVec.extractLsb'_toNat, Nat.shiftRight_eq_div_pow, pow_mul]
  rfl

/-- The bytes of an element of a vector. -/
theorem leBytes_elem (w : Nat) (x : VReg) (j : Nat) :
    leBytes (w / 8) (elem w x j) = (List.range (w / 8)).map fun i => x.extractLsb' (w * j + 8 * i) 8 := by
  refine List.map_congr_left fun i hi => ?_
  rw [List.mem_range] at hi
  apply BitVec.eq_of_toNat_eq
  rw [BitVec.toNat_ofNat, BitVec.extractLsb'_toNat, Nat.shiftRight_eq_div_pow, elem,
    show (256 : Nat) = 2 ^ 8 by rfl, ← pow_mul, pow_add, ← Nat.div_div_eq_div_mul]
  generalize x.toNat / 2 ^ (w * j) = y
  obtain ⟨c, hc⟩ : ∃ c, w = 8 * i + (8 + c) := ⟨w - 8 * i - 8, by omega⟩
  rw [hc, pow_add, Nat.mod_mul_right_div_self, pow_add, Nat.mod_mul_right_mod]

/-! The addresses of the LS forms (R85, R283, R284) -/

section
variable (m : LMem) (v : View)

/-- The address that an LS form names. -/
def lsAt : Nat := (v.s v.a m.a).v.toNat + m.disp.toNat

/-- A form of one range: POISON, then LS_RANGE, then what it does. -/
theorem lsRange_eq (n : Nat) (k : Nat → Except TrapInfo LsDo) :
    (lsAddr m v >>= fun a => lsCheck a n >>= fun _ => k a) =
      if (v.s v.a m.a).p then .error (tPoison 1)
      else if 0x5FFF < lsAt m v + n - 1 then .error (tLsRange (lsAt m v)) else k (lsAt m v) := by
  rw [lsAddr]
  split
  · rfl
  · show (lsCheck (lsAt m v) n >>= fun _ => k (lsAt m v)) = _
    rw [lsCheck]
    split <;> rfl

/-- A form of a range for each element: POISON, then LS_RANGE of the first that lies outside, then what it does. -/
theorem lsElems_eq (w : Nat) (x : PVec) (k : List Nat → Except TrapInfo LsDo) :
    (lsAddr m v >>= fun a => elemAddrs w a x >>= k) =
      if (v.s v.a m.a).p then .error (tPoison 1)
      else if x.p ≠ 0 then .error (tPoison 2)
      else match (List.range (512 / w)).find? fun j => 0x5FFF < lsAt m v + elem w x.x j * (w / 8) + w / 8 - 1 with
        | some j => .error (tLsRange (lsAt m v + elem w x.x j * (w / 8)))
        | none => k ((List.range (512 / w)).map fun j => lsAt m v + elem w x.x j * (w / 8)) := by
  rw [lsAddr]
  split
  · rfl
  · show (elemAddrs w (lsAt m v) x >>= k) = _
    rw [elemAddrs]
    split
    · rfl
    · simp only [lanes, List.find?_map, Function.comp_def]
      generalize (List.range (512 / w)).find? _ = r
      cases r <;> rfl

end

theorem foldl_no_flags (l : List ERes) (h : ∀ e ∈ l, e.2.2 = 0) : l.foldl (fun f e => f ||| e.2.2) (0 : Flags) = 0 := by
  induction l with
  | nil => rfl
  | cons e t ih =>
    rw [List.foldl_cons, h e List.mem_cons_self, show (0 ||| 0 : Flags) = 0 by rfl]
    exact ih fun x hx => h x (List.mem_cons_of_mem _ hx)

/-- Elements that raise no flag. -/
theorem elemsAre_noFlags (w : Nat) (e : Nat → Nat × Bool) {l : List ERes}
    (hl : l = (List.range (lanes w)).map fun j => ((e j).1, (e j).2, 0)) (d : VOp) (src : Nat) :
    ∃ z p, ElemsAre w (fun j => ((e j).1, (e j).2, 0)) z p 0 ∧
      (takesV d p → putElems d w l src = .ok [effV d z p, .flags 0]) := by
  subst hl
  have h := elemsAre_putElems w (mul_div_le' w) fun j => ((e j).1, (e j).2, 0)
  have hz : ((List.range (lanes w)).map fun j => (((e j).1, (e j).2, 0) : ERes)).foldl (fun f e => f ||| e.2.2) (0 : Flags) = 0 :=
    foldl_no_flags _ (by simp)
  rw [hz] at h
  refine ⟨_, _, h, fun ht => ?_⟩
  rw [putElems, putV_ok ht, hz]
  rfl

theorem localLoads : Claim.LocalLoads := by
  intro s g k mem bad
  refine ⟨fun w d m h => ?_, fun d m => ?_, fun t d m b => ?_⟩
  · intro u v x a n r
    have hn : n ≤ 8 := Nat.pow_le_pow_right (n := 2) (by decide) (Nat.lt_succ_iff.mp w.w.isLt)
    have hx : fxLd w d m k v = _ := lsRange_eq m v n fun a =>
      putS d (extend (8 * n) w.sgn (bytesVal (lsBytes k a n))) (bytesP (lsBytes k a n)) 3 >>= fun l => pure ⟨[(a, n)], l⟩
    split
    · next hp => exact ls_traps h rfl (hx.trans (if_pos hp))
    · next hp =>
      rw [if_neg hp] at hx
      split
      · next hr => exact ls_traps h rfl (hx.trans (if_pos hr))
      · next hr =>
        intro ht
        refine ls_load (r := ⟨[(a, n)], [effS d (.ofInt 64 r) (bad a n)]⟩) h rfl (hx.trans ((if_neg hr).trans ?_))
          (by simp only [List.all_cons, List.all_nil, effS_notLs]; rfl)
        rw [bytesVal_lsBytes, bytesP_lsBytes, extend_lsNum k _ hn, show lsBad k (lsAt m v) n = bad a n from rfl, putS_ok ht]
        rfl
  · intro u h v x a
    have hx : fxVld d m k v = _ := lsRange_eq m v 64 fun a =>
      putV d (vecOfBytes (lsBytes k a 64)) 3 >>= fun l => pure ⟨[(a, 64)], l⟩
    split
    · next hp => exact ls_traps h rfl (hx.trans (if_pos hp))
    · next hp =>
      rw [if_neg hp] at hx
      split
      · next hr => exact ls_traps h rfl (hx.trans (if_pos hr))
      · next hr =>
        refine ⟨(vecOfBytes (lsBytes k a 64)).x, (vecOfBytes (lsBytes k a 64)).p, fun j hj => extractLsb'_vecOfBytes _ hj,
          fun j hj => ?_, fun ht => ?_⟩
        · rw [lsBytes, getLsbD_vecOfBytes _ hj]
          simp only [bad, add_assoc]
        · refine ls_load (r := ⟨[(a, 64)], [effV d _ _]⟩) h rfl (hx.trans ((if_neg hr).trans ?_))
            (by simp only [List.all_cons, List.all_nil, effV_notLs]; rfl)
          rw [show lsAt m v = a from rfl, putV_ok ht]
          rfl
  · intro u h v x y w a far
    have hx : fxVgath t d m b k v = _ := lsElems_eq m v w y fun l =>
      putElems d w (l.map fun y => (bytesVal (lsBytes k y (w / 8)), bytesP (lsBytes k y (w / 8)), 0)) 3 >>= fun e =>
        pure ⟨l.map fun y => (y, w / 8), e⟩
    split
    · next hp => exact ls_traps h rfl (hx.trans (if_pos hp))
    · next hp =>
      rw [if_neg hp] at hx
      split
      · next hy => exact ls_traps h rfl (hx.trans (if_pos hy))
      · next hy =>
        have hfar : (List.range (512 / w)).find? (fun j => 0x5FFF < lsAt m v + elem w y.x j * (w / 8) + w / 8 - 1) = far := rfl
        rw [if_neg hy, hfar] at hx
        obtain hj | ⟨j, hj⟩ : far = none ∨ ∃ j, far = some j := by cases far <;> simp
        · rw [hj] at hx ⊢
          obtain ⟨z, p, hz, hput⟩ := elemsAre_noFlags w (fun j => (mem (a j) (w / 8), bad (a j) (w / 8)))
            (l := ((List.range (512 / w)).map a).map fun y =>
              (bytesVal (lsBytes k y (w / 8)), bytesP (lsBytes k y (w / 8)), 0))
            (by
              rw [List.map_map]
              refine List.map_congr_left fun j _ => ?_
              rw [Function.comp_apply, bytesVal_lsBytes, bytesP_lsBytes]
              rfl) d 3
          refine ⟨z, p, hz, fun ht => ls_load (r := ⟨(List.range (512 / w)).map fun j => (a j, w / 8), [effV d z p, .flags 0]⟩)
            h rfl (hx.trans ?_) (by simp only [List.all_cons, List.all_nil, effV_notLs]; rfl)⟩
          show (putElems d w _ 3 >>= _) = _
          rw [show (fun j => lsAt m v + elem w y.x j * (w / 8)) = a from rfl, hput ht, List.map_map]
          rfl
        · rw [hj] at hx ⊢
          exact ls_traps h rfl hx

theorem localStores : Claim.LocalStores := by
  intro s g
  refine ⟨fun w d m h => ?_, fun d m => ?_, fun t d m b => ?_⟩
  · intro u v x z a n
    have hx (k : Core) : fxSt w d m k v = _ := lsRange_eq m v n fun a => pure ⟨[], [.ls a (bytesOfScalar n z)]⟩
    split
    · next hp => exact ls_traps h rfl ((hx _).trans (if_pos hp))
    · next hp =>
      replace hx := fun k => (hx k).trans (if_neg hp)
      split
      · next hr => exact ls_traps h rfl ((hx _).trans (if_pos hr))
      · next hr =>
        refine ls_store (l := [(a, lowBytes n z)]) h rfl ((hx _).trans ((if_neg hr).trans ?_))
        rw [bytesOfScalar_eq]
        rfl
  · intro u h v x z a
    have hx (k : Core) : fxVst d m k v = _ := lsRange_eq m v 64 fun a => pure ⟨[], [.ls a (bytesOfVec z)]⟩
    split
    · next hp => exact ls_traps h rfl ((hx _).trans (if_pos hp))
    · next hp =>
      replace hx := fun k => (hx k).trans (if_neg hp)
      split
      · next hr => exact ls_traps h rfl ((hx _).trans (if_pos hr))
      · next hr => exact ls_store (l := [(a, bytesOfVec z)]) h rfl ((hx _).trans (if_neg hr))
  · intro u h v x y z w a far
    have hx (k : Core) : fxVscat t d m b k v = _ := lsElems_eq m v w y fun l => pure ⟨[], l.zipIdx.map fun e : Nat × Nat =>
      .ls e.1 ((leBytes (w / 8) (elem w z.x e.2)).map (⟨·, elemP w z.p e.2⟩))⟩
    split
    · next hp => exact ls_traps h rfl ((hx _).trans (if_pos hp))
    · next hp =>
      replace hx := fun k => (hx k).trans (if_neg hp)
      split
      · next hy => exact ls_traps h rfl ((hx _).trans (if_pos hy))
      · next hy =>
        have hfar : (List.range (512 / w)).find? (fun j => 0x5FFF < lsAt m v + elem w y.x j * (w / 8) + w / 8 - 1) = far := rfl
        replace hx := fun k => (hx k).trans (if_neg hy)
        simp only [hfar] at hx
        obtain hj | ⟨j, hj⟩ : far = none ∨ ∃ j, far = some j := by cases far <;> simp
        · rw [hj] at hx ⊢
          refine ls_store h rfl ((hx _).trans (congrArg Except.ok (congrArg (LsDo.mk []) ?_)))
          simp only [leBytes_elem, List.map_map]
          refine List.ext_getElem (by simp) fun j hj hj' => ?_
          simp only [List.getElem_map, List.getElem_zipIdx, List.getElem_range, Function.comp_apply, zero_add]
          rfl
        · rw [hj] at hx ⊢
          exact ls_traps h rfl (hx _)

/-- Settles O24: the LS forms check their operands, then their range, and move the bytes named. -/
theorem localLoadsAndStores : Obligations.LocalLoadsAndStores := ⟨localLoads, localStores⟩

end Sys2Proof.Safety
end

section
/-! SUPPORT. What a local store changes (O25), guard records and LSGUARD (O26), and how a form retires that changes its core
besides. -/

namespace Sys2Proof.Safety

open Sys2Proof.Machine

/-! Sets of naturals -/

theorem setHas_setAdd (m : NSet) (i j : Nat) : setHas (setAdd m i) j = (decide (j = i) || setHas m j) := by
  simp only [setHas, List.contains_eq_mem, ← Bool.decide_or]
  refine decide_eq_decide.mpr ?_
  induction m with
  | nil => simp [setAdd]
  | cons k t ih =>
    rw [setAdd]
    split
    · simp
    · split
      · next h => subst h; simp
      · rw [List.mem_cons, ih, List.mem_cons]
        tauto

theorem setHas_setDel (m : NSet) (i j : Nat) : setHas (setDel m i) j = (decide (j ≠ i) && setHas m j) := by
  simp only [setHas, setDel, List.contains_eq_mem, ← Bool.decide_and]
  refine decide_eq_decide.mpr ?_
  simp [and_comm]

/-! The bytes that a store writes (R86, R87) -/

/-- The bytes of a store that are not discarded, with their addresses. -/
def openCells (k : Core) (a : Nat) (l : List PByte) : List (Nat × PByte) :=
  l.zipIdx.filterMap fun e => if setHas k.guards ((a + e.2) / 64) then none else some (a + e.2, e.1)

/-- The new mark of a word, from the bytes written to it. -/
def markWord (cells : List (Nat × PByte)) (m : NSet) (w : Nat) : NSet :=
  let mine := cells.filter fun e => e.1 / 8 = w
  if mine.any (fun e => e.2.p) then setAdd m w else if 8 ≤ mine.length then setDel m w else m

theorem lsWrite_eq (k : Core) (a : Nat) (l : List PByte) : lsWrite k a l = { k with
    ls := (openCells k a l).foldl (fun m e => memWrite m e.1 e.2.v) k.ls
    lsP := ((openCells k a l).map fun e => e.1 / 8).dedup.foldl (markWord (openCells k a l)) k.lsP } := rfl

section
variable {k : Core} {a : Nat} {l : List PByte}

/-- An address that a store reaches. -/
def opened (k : Core) (a : Nat) (l : List PByte) (x : Nat) : Bool :=
  decide (a ≤ x) && decide (x < a + l.length) && !setHas k.guards (x / 64)

theorem mem_openCells {x : Nat} {b : PByte} : (x, b) ∈ openCells k a l ↔
    opened k a l x = true ∧ b = l.getD (x - a) ⟨0, false⟩ := by
  simp only [openCells, opened, List.mem_filterMap, Prod.exists, List.mem_zipIdx_iff_getElem?, Bool.and_eq_true,
    decide_eq_true_eq, Bool.not_eq_true']
  constructor
  · rintro ⟨c, j, hj, h⟩
    obtain ⟨hlt, rfl⟩ := List.getElem?_eq_some_iff.mp hj
    split at h
    · exact nomatch h
    · next hg =>
      obtain ⟨rfl, rfl⟩ := Prod.mk.inj (Option.some.inj h)
      rw [Bool.not_eq_true] at hg
      refine ⟨⟨⟨by omega, by omega⟩, hg⟩, ?_⟩
      rw [Nat.add_sub_cancel_left, List.getD_eq_getElem?_getD, List.getElem?_eq_getElem hlt, Option.getD_some]
  · rintro ⟨⟨⟨h1, h2⟩, hg⟩, hb⟩
    have hlt : x - a < l.length := by omega
    refine ⟨b, x - a, ?_, ?_⟩
    · rw [hb, List.getD_eq_getElem?_getD, List.getElem?_eq_getElem hlt, Option.getD_some]
    · rw [show a + (x - a) = x by omega, hg]
      rfl

theorem mem_addrs {x : Nat} : x ∈ (openCells k a l).map Prod.fst ↔ opened k a l x = true := by
  constructor
  · intro h
    obtain ⟨e, he, rfl⟩ := List.mem_map.mp h
    exact (mem_openCells.mp he).1
  · intro h
    exact List.mem_map_of_mem (f := Prod.fst) (mem_openCells.mpr ⟨h, rfl⟩)

theorem openCells_addrs (n : Nat) (l : List PByte) :
    ((l.zipIdx n).filterMap fun e => if setHas k.guards ((a + e.2) / 64) then none else some (a + e.2, e.1)).map Prod.fst =
      ((List.range' n l.length).map (a + ·)).filter fun x => !setHas k.guards (x / 64) := by
  induction l generalizing n with
  | nil => rfl
  | cons b t ih =>
    rw [List.zipIdx_cons, List.length_cons, List.range'_succ, List.map_cons, List.filterMap_cons, List.filter_cons]
    cases setHas k.guards ((a + n) / 64) with
    | true => simpa using ih (n + 1)
    | false => simpa using ih (n + 1)

theorem openCells_nodup : ((openCells k a l).map Prod.fst).Nodup := by
  rw [openCells, openCells_addrs]
  exact (List.Nodup.map (fun x y h => Nat.add_left_cancel h) List.nodup_range').filter _

/-- Reading after writes of which those to one address agree. -/
theorem memRead_foldl_write {m : Mem} (hm : memWf m = true) (cells : List (Nat × PByte)) {x : Nat} {v : Byte}
    (h : ∀ b, (x, b) ∈ cells → b.v = v) :
    memRead (cells.foldl (fun m e => memWrite m e.1 e.2.v) m) x =
      if x ∈ cells.map Prod.fst then v else memRead m x := by
  induction cells generalizing m with
  | nil => simp
  | cons e t ih =>
    rw [List.foldl_cons, ih (memWrite_wf _ _ hm) fun b hb => h b (List.mem_cons_of_mem _ hb), memRead_memWrite _ _ _ hm]
    by_cases ht : x ∈ t.map Prod.fst
    · rw [if_pos ht, List.map_cons, if_pos (List.mem_cons_of_mem _ ht)]
    · rw [if_neg ht]
      by_cases hx : x = e.1
      · subst hx
        rw [if_pos rfl, List.map_cons, if_pos List.mem_cons_self]
        exact h e.2 List.mem_cons_self
      · rw [if_neg hx, if_neg]
        exact fun hm => (List.mem_cons.mp hm).elim hx ht

/-- Marking words changes no other word. -/
theorem setHas_markWord (cells : List (Nat × PByte)) (m : NSet) {v w : Nat} (h : w ≠ v) :
    setHas (markWord cells m v) w = setHas m w := by
  unfold markWord
  simp only
  split
  · simp [setHas_setAdd, h]
  · split
    · simp [setHas_setDel, h]
    · rfl

theorem setHas_foldl_markWord (cells : List (Nat × PByte)) (words : List Nat) (hw : words.Nodup) (m : NSet) (w : Nat) :
    setHas (words.foldl (markWord cells) m) w = if w ∈ words then setHas (markWord cells m w) w else setHas m w := by
  induction words generalizing m with
  | nil => simp
  | cons v t ih =>
    obtain ⟨hv, ht⟩ := List.nodup_cons.mp hw
    rw [List.foldl_cons, ih ht]
    by_cases hvw : w = v
    · subst hvw
      rw [if_neg hv, if_pos List.mem_cons_self]
    · have hmw : setHas (markWord cells (markWord cells m v) w) w = setHas (markWord cells m w) w := by
        have := setHas_markWord cells m hvw
        unfold markWord at this ⊢
        simp only at this ⊢
        split
        · simp [setHas_setAdd]
        · split
          · simp [setHas_setDel]
          · exact this
      rw [hmw, setHas_markWord _ _ hvw]
      simp [hvw]

/-- The bytes of one word that a store reaches. -/
theorem openCells_word (k : Core) (a : Nat) (l : List PByte) (w : Nat) :
    (((openCells k a l).filter fun e => e.1 / 8 = w).map Prod.fst).Perm
      (((List.range 8).map (8 * w + ·)).filter (opened k a l)) := by
  refine (List.perm_ext_iff_of_nodup ?_ ?_).mpr fun x => ?_
  · exact openCells_nodup.sublist (List.filter_sublist.map _)
  · exact (List.Nodup.map (fun x y h => Nat.add_left_cancel h) List.nodup_range).filter _
  · rw [List.mem_filter, ← mem_addrs, List.mem_map, List.mem_map, List.mem_map]
    simp only [List.mem_filter, decide_eq_true_eq, List.mem_range]
    constructor
    · rintro ⟨e, ⟨he, hw⟩, rfl⟩
      exact ⟨⟨e.1 - 8 * w, by omega, by omega⟩, e, he, rfl⟩
    · rintro ⟨⟨j, hj, hx⟩, e, he, rfl⟩
      exact ⟨e, ⟨he, by omega⟩, rfl⟩

end

/-- Settles O25: a store writes the cells that no guard discards, and marks each of their words once. -/
theorem localStoreWrites : Obligations.LocalStoreWrites := by
  intro k a l hk open' b k'
  have hk' : k' = _ := lsWrite_eq k a l
  have hopen : open' = opened k a l := rfl
  refine ⟨?_, ?_, fun x => ?_, fun w => ?_⟩
  · rw [hk']
    exact foldl_memWrite_wf _ _ _ hk
  · rw [hk']
  · show memRead k'.ls x = _
    rw [hk', memRead_foldl_write hk _ (v := (b x).v) fun c hc => by rw [(mem_openCells.mp hc).2], hopen]
    exact if_congr mem_addrs rfl rfl
  · intro mine
    have hperm := openCells_word k a l w
    have hany : ((openCells k a l).filter fun e => e.1 / 8 = w).any (fun e => e.2.p) = mine.any fun x => (b x).p := by
      rw [Bool.eq_iff_iff, List.any_eq_true, List.any_eq_true]
      constructor
      · rintro ⟨e, he, hp⟩
        refine ⟨e.1, hperm.mem_iff.mp (List.mem_map_of_mem he), ?_⟩
        rw [← hp, (mem_openCells.mp (List.mem_filter.mp he).1).2]
      · rintro ⟨x, hx, hp⟩
        obtain ⟨e, he, rfl⟩ := List.mem_map.mp (hperm.mem_iff.mpr hx)
        refine ⟨e, he, ?_⟩
        rw [← hp, (mem_openCells.mp (List.mem_filter.mp he).1).2]
    have hlen : ((openCells k a l).filter fun e => e.1 / 8 = w).length = mine.length := by
      rw [← List.length_map (f := Prod.fst), hperm.length_eq]
      rfl
    have hle : mine.length ≤ 8 := (List.length_filter_le _ _).trans (by simp)
    have hmem : w ∈ ((openCells k a l).map fun e => e.1 / 8).dedup ↔ mine ≠ [] := by
      rw [List.mem_dedup, ← List.length_pos_iff, ← hlen, List.length_pos_iff_exists_mem]
      simp only [List.mem_map, List.mem_filter, decide_eq_true_eq]
    rw [hk', setHas_foldl_markWord _ _ (List.nodup_dedup _)]
    simp only [hmem, markWord, hany, hlen]
    by_cases hm : mine = []
    · simp [hm]
    · rw [if_pos hm]
      split
      · simp [setHas_setAdd]
      · by_cases h8 : mine.length = 8
        · rw [if_pos h8.ge, if_pos h8]
          simp [setHas_setDel]
        · rw [if_neg (by omega), if_neg h8]

/-! A form that changes its core and retires -/

section
variable {s t : State}

/-- A change of the issuing core that leaves its parties and channels keeps two states apart by their registers only. -/
theorem OwnOnly.setCore (h : OwnOnly s t) (F : Core → Core)
    (hF : ∀ (k : Core) st po ch, F { k with strands := st, porter := po, chans := ch } =
      { F k with strands := st, porter := po, chans := ch }) :
    OwnOnly (s.setCore s.cur.core (F (s.core s.cur.core))) (t.setCore s.cur.core (F (t.core s.cur.core))) := by
  have hs (k : Core) : (F k).strands = k.strands := by rw [show F k = _ from hF k k.strands k.porter k.chans]
  have hp (k : Core) : (F k).porter = k.porter := by rw [show F k = _ from hF k k.strands k.porter k.chans]
  have hc (k : Core) : (F k).chans = k.chans := by rw [show F k = _ from hF k k.strands k.porter k.chans]
  have st (x : State) (d q : Nat) : (x.setCore s.cur.core (F (x.core s.cur.core))).strand d q = x.strand d q := by
    by_cases hd : d = s.cur.core
    · subst hd; simp [State.strand, hs]
    · simp [State.strand, core_setCore_other _ _ _ _ hd]
  have po (x : State) (d : Nat) : (x.setCore s.cur.core (F (x.core s.cur.core))).porter d = x.porter d := by
    by_cases hd : d = s.cur.core
    · subst hd; simp [State.porter, hp]
    · simp [State.porter, core_setCore_other _ _ _ _ hd]
  have hlevel : (s.setCore s.cur.core (F (s.core s.cur.core))).level = s.level := by
    simp only [State.level, State.isPorter, setCore_cur, po]
    rfl
  have htag : (s.setCore s.cur.core (F (s.core s.cur.core))).tag = s.tag := by
    simp only [State.tag, State.isPorter, setCore_cur, po, st]
    rfl
  refine ⟨?_, fun c hc => ?_, ?_, fun hp => ?_, ⟨fun p hp => ?_, fun hp => ?_, fun hp => ?_, fun n hn => ?_, fun hn => ?_⟩⟩
  · have := h.rest
    unfold OnlyCores at *
    exact (congrArg (fun x : State => ({ x with cores := (s.setCore s.cur.core (F (s.core s.cur.core))).cores } : State)) this :)
  · rw [setCore_cur] at hc
    rw [core_setCore_other _ _ _ _ hc, core_setCore_other _ _ _ _ hc]
    exact h.cores c hc
  · simp only [setCore_cur, core_setCore]
    have := congrArg F h.core
    rw [hF] at this
    rw [hs, hp, hc]
    exact this
  · simp only [setCore_cur, st]
    exact h.strand hp
  · simp only [setCore_cur, st]
    exact h.others.strands p hp
  · simp only [setCore_cur, po]
    exact h.others.porter hp
  · simp only [setCore_cur, po]
    exact h.others.own hp
  · simp only [setCore_cur, po]
    rw [setCore_cur, hlevel, htag] at hn
    exact h.others.sets n hn
  · simp only [setCore_cur, po]
    rw [setCore_cur, hlevel] at hn
    exact h.others.landlord hn

theorem takeSrcs_cur (s : State) (u : Use) : (s.takeSrcs u).cur = s.cur := (ownOnly_chTake s _ _ u.srcs).cur

/-- A form that changes its core besides, and retires. -/
theorem retiresFrom_setCore {α : Type} {g : Guard} {f : Form} (h : Clear s g f) {i : Instr} {fx : View → Except TrapInfo α}
    {act : State → α → State} (he : exec i s = .next (s.issue g f fx act)) {r : α} (hx : fx (s.view f.use) = .ok r)
    (F : Core → Core)
    (hF : ∀ (k : Core) st po ch, F { k with strands := st, porter := po, chans := ch } =
      { F k with strands := st, porter := po, chans := ch })
    {l : List Eff} (hl : l.all (fun e => !isLs e) = true)
    (ha : act s r = ((s.takeSrcs f.use).setCore s.cur.core (F ((s.takeSrcs f.use).core s.cur.core))).retire l) :
    RetiresFrom i s (s.setCore s.cur.core (F (s.core s.cur.core))) f.use l := by
  have hs (k : Core) : (F k).strands = k.strands := by rw [show F k = _ from hF k k.strands k.porter k.chans]
  have hp (k : Core) : (F k).porter = k.porter := by rw [show F k = _ from hF k k.strands k.porter k.chans]
  have hc (k : Core) : (F k).chans = k.chans := by rw [show F k = _ from hF k k.strands k.porter k.chans]
  have st (x : State) (d q : Nat) : (x.setCore s.cur.core (F (x.core s.cur.core))).strand d q = x.strand d q := by
    by_cases hd : d = s.cur.core
    · subst hd; simp [State.strand, hs]
    · simp [State.strand, core_setCore_other _ _ _ _ hd]
  have po (x : State) (d : Nat) : (x.setCore s.cur.core (F (x.core s.cur.core))).porter d = x.porter d := by
    by_cases hd : d = s.cur.core
    · subst hd; simp [State.porter, hp]
    · simp [State.porter, core_setCore_other _ _ _ _ hd]
  have ch (x : State) (d : Nat) : ((x.setCore s.cur.core (F (x.core s.cur.core))).core d).chans = (x.core d).chans := by
    by_cases hd : d = s.cur.core
    · subst hd; simp [hc]
    · rw [core_setCore_other _ _ _ _ hd]
  have hvd : (s.setCore s.cur.core (F (s.core s.cur.core))).curVd = s.curVd :=
    curVd_congr rfl rfl (by rw [po]) (by rw [st])
  have h1 : OwnOnly s (s.takeSrcs f.use) := ownOnly_chTake ..
  have k : Settled (s.setCore s.cur.core (F (s.core s.cur.core)))
      (((s.takeSrcs f.use).setCore s.cur.core (F ((s.takeSrcs f.use).core s.cur.core))).retire l) f.use l := by
    refine settled_from l (h1.setCore F hF) ?_ (fun d q => ?_) hl
    · have hr : (s.takeSrcs f.use).regsOf s.cur.core s.cur.pos = s.regsOf s.cur.core s.cur.pos := regsOf_chTake ..
      simp only [State.regs, State.regsOf, setCore_cur, po, st, h1.cur] at hr ⊢
      exact hr
    · rw [ch]
      simp only [State.takeSrcs, chans_chTake, ch, hvd, setCore_cur]
  refine ⟨_, he, ?_⟩
  rw [issue_ok h hx, ha, holdChans_settled (s := s) k rfl (by rw [st])]
  exact k

end

/-! Guard records and LSGUARD (R88, R285) -/

theorem guardedFirst_eq (k : Core) (a n : Nat) :
    guardedFirst k a n = ((List.range n).find? fun j => setHas k.guards ((a + j) / 64)).map (a + ·) := by
  rw [guardedFirst, List.find?_map]
  rfl

theorem setHas_setGuards (k : Core) (i n : Nat) (b : Bool) (j : Nat) :
    setHas (setGuards k i n b).guards j = if i ≤ j ∧ j < i + n then b else setHas k.guards j := by
  unfold setGuards
  simp only
  induction n with
  | zero => simp
  | succ n ih =>
    rw [List.range_succ, List.map_append, List.foldl_append]
    simp only [List.map_cons, List.map_nil, List.foldl_cons, List.foldl_nil]
    cases b with
    | true =>
      rw [if_pos rfl, setHas_setAdd, ih]
      by_cases hj : j = i + n
      · subst hj; simp
      · have : (i ≤ j ∧ j < i + (n + 1)) ↔ (i ≤ j ∧ j < i + n) := by omega
        simp [hj, this]
    | false =>
      rw [if_neg (by simp), setHas_setDel, ih]
      by_cases hj : j = i + n
      · subst hj; simp
      · have : (i ≤ j ∧ j < i + (n + 1)) ↔ (i ≤ j ∧ j < i + n) := by omega
        simp [hj, this]

theorem fxLsguard_eq (d : SOp) (m : LMem) (v : View) : fxLsguard d m v =
    if (v.s v.a m.a).p then .error (tPoison 1)
    else if (v.s v.d d).p then .error (tPoison 0)
    else if 384 < lsAt m v / 64 + (v.s v.d d).v.toNat % 2 ^ 9 then .error (tLsRange (lsAt m v))
    else .ok (lsAt m v / 64, (v.s v.d d).v.toNat % 2 ^ 9, (v.s v.d d).v.getLsbD 16) := by
  have hn : ((v.s v.d d).v.extractLsb' 0 9).toNat = (v.s v.d d).v.toNat % 2 ^ 9 := by
    rw [BitVec.extractLsb'_toNat, Nat.shiftRight_zero]
  unfold fxLsguard lsAddr
  simp only [hn]
  by_cases h : (v.s v.a m.a).p
  · rw [if_pos h, if_pos h]
  · rw [if_neg h, if_neg h]
    rfl

/-- Settles O26: a touch notes the first guarded address, and LSGUARD sets the granules one by one. -/
theorem guardRecords : Obligations.GuardRecords := by
  refine ⟨fun s a n hp => ?_, fun s g d m h => ?_⟩
  · intro t x first
    have ht : t = s.guardTouch s.cur.core s.cur.pos a n := rfl
    have hfirst : guardedFirst (s.core s.cur.core) a n = first.map (a + ·) := guardedFirst_eq ..
    unfold State.guardTouch at ht
    rw [hfirst] at ht
    obtain hf | ⟨j, hf⟩ : first = none ∨ ∃ j, first = some j := by cases first <;> simp
    · rw [hf] at ht ⊢
      change t = s at ht
      rw [ht]
      exact ⟨rfl, rfl⟩
    · rw [hf] at ht ⊢
      simp only [Option.map_some, hp, if_true] at ht
      rw [ht, strand_setStrand]
      refine ⟨rfl, congrArg some ?_⟩
      rw [show s.strand s.cur.core s.cur.pos = x from rfl]
      unfold guardNote
      cases x.guard with
      | none => rfl
      | some r =>
        simp only
        split
        · next h => rw [← h]
        · rfl
  · intro u v x z a n
    have hx : fxLsguard d m v = _ := fxLsguard_eq d m v
    have he : exec (.lsguard g d m) s = .next (s.issue g (formLsguard d m) (fxLsguard d m) fun s r =>
      ((s.takeSrcs u).setCore (s.takeSrcs u).cur.core
        (setGuards ((s.takeSrcs u).core (s.takeSrcs u).cur.core) r.1 r.2.1 r.2.2)).retire []) := rfl
    have traps {e : TrapInfo} (hfx : fxLsguard d m v = .error e) : Traps (.lsguard g d m) s e := by
      apply traps_takeTrap
      rw [he, issue_error h hfx]
    split
    · next hp => exact traps (hx.trans (if_pos hp))
    · next hp =>
      replace hx := hx.trans (if_neg hp)
      split
      · next hz => exact traps (hx.trans (if_pos hz))
      · next hz =>
        replace hx := hx.trans (if_neg hz)
        split
        · next hr => exact traps (hx.trans (if_pos hr))
        · next hr =>
          replace hx := hx.trans (if_neg hr)
          refine ⟨(setGuards (s.core s.cur.core) (a / 64) n (z.v.getLsbD 16)).guards, setHas_setGuards _ _ _ _, ?_⟩
          exact retiresFrom_setCore h he hx (fun k => setGuards k (a / 64) n (z.v.getLsbD 16)) (fun _ _ _ _ => rfl) rfl
            (by rw [takeSrcs_cur]; rfl)

end Sys2Proof.Safety
end

section
/-! SUPPORT. Global accesses (O28, O29, O30): the forms whose operands give an address under R288, and the local-store side of
XGET and XPUT. -/

namespace Sys2Proof.Safety

open Sys2Proof.Machine

section
variable {s : State} {g : Guard} {f : Form} {i : Instr} {act : GAct} {m : GMem} {rights : List Nat} {data : List PByte}
  {pb pd : Bool}

/-- An access without an alignment of its own. -/
theorem globalForm_bytes (h : Clear s g f) {fx : View → Except TrapInfo (Nat × List PByte)}
    (he : exec i s = .next (s.access g f act (gLen m) fx))
    (hx : fx (s.view f.use) = gAddr rights m pb pd (s.view f.use) >>= fun a => pure (a, data)) :
    GlobalForm i s f.use m rights act (poisoned ((s.view f.use).s (s.view f.use).a m.a).p pb pd) 1 data := by
  refine globalForm_access h he (hx.trans ?_)
  simp only [alignTo, Nat.mod_one, if_true]
  rfl

/-- A form that computes more than its address and data is an access, when its operation is known from its operands. -/
theorem issue_eq_access (h : Clear s g f) {α : Type} {fx : View → Except TrapInfo α} {k : State → α → State}
    {n : Nat} {q : α → Nat × List PByte}
    (hk : ∀ r, fx (s.view f.use) = .ok r → k s r = s.startOp f.use act (q r).1 n (q r).2) :
    s.issue g f fx k = s.access g f act n fun v => (fx v).map q := by
  rw [State.access, issue_clear h, issue_clear h]
  cases hx : fx (s.view f.use) with
  | error t => rfl
  | ok r => exact congrArg (s.holdChans · f.use) (hk r hx)

end

theorem bytesOfVec_take (x : PVec) {n : Nat} (hn : n ≤ 64) : (bytesOfVec x).take n =
    (List.range n).map fun j => ⟨x.x.extractLsb' (8 * j) 8, x.p.getLsbD (j / 8)⟩ := by
  rw [bytesOfVec, ← List.map_take, List.take_range, Nat.min_eq_left hn]

/-! Value atomics, reductions and MWAIT (O29) -/

section
variable {s : State} {g : Guard} {sc : Scope} {d : SOp} {m : GMem} {b : SOp} {i : Instr}

/-- A value atomic starts with its operand, and with the value of D when it compares. -/
theorem globalForm_atomic {op : AOp} {z : PWord} (h : Clear s g (formAtom d m b (op = .cas)))
    (he : exec i s = .next (s.atomic g op sc d m b))
    (hz : (if op = .cas then (s.view (formAtom d m b (op = .cas)).use).s (s.view (formAtom d m b (op = .cas)).use).d d
      else ⟨0, false⟩) = z) :
    let u := (formAtom d m b (op = .cas)).use
    let v := s.view u
    let y := v.s v.b b
    GlobalForm i s u m [2] (.atom op sc d z.v) (poisoned (v.s v.a m.a).p y.p z.p) (m.len.toNat + 1)
      (lowBytes (m.len.toNat + 1) y) := by
  intro u v y
  have hx : fxAtom d m b (op = .cas) v = (gAddr [rAtomic] m y.p z.p v >>= fun a => alignTo (gLen m) a >>= fun a =>
      pure (a, lowBytes (gLen m) y, z.v)) := by
    rw [← bytesOfScalar_eq, ← hz]
    simp only [fxAtom, decide_eq_true_eq]
    rfl
  have ha := issue_eq_access (act := .atom op sc d z.v) (n := gLen m) (q := fun r => (r.1, r.2.1)) h
    (fx := fxAtom d m b (op = .cas)) (k := fun s r => s.startOp u (.atom op sc d r.2.2) r.1 (gLen m) r.2.1) ?_
  · refine globalForm_access h (he.trans (congrArg Host.Outcome.next ha)) ?_
    show (fxAtom d m b (op = .cas) v).map _ = (gAddr [rAtomic] m y.p z.p v >>= _)
    rw [hx]
    cases gAddr [rAtomic] m y.p z.p v with
    | error t => rfl
    | ok a =>
      show Except.map _ (alignTo (gLen m) a >>= _) = (alignTo (gLen m) a >>= _)
      cases alignTo (gLen m) a <;> rfl
  · intro r hr
    rw [show s.view (formAtom d m b (op = .cas)).use = v from rfl, hx] at hr
    have hw : r.2.2 = z.v := by
      cases hg : gAddr [rAtomic] m y.p z.p v with
      | error t => rw [hg] at hr; exact nomatch hr
      | ok a =>
        rw [hg] at hr
        change (alignTo (gLen m) a >>= fun a => pure (a, lowBytes (gLen m) y, z.v)) = .ok r at hr
        cases ha : alignTo (gLen m) a with
        | error t => rw [ha] at hr; exact nomatch hr
        | ok a =>
          rw [ha] at hr
          cases hr
          rfl
    rw [hw]

/-- A reduction starts with its delta. -/
theorem globalForm_reduce {op : AOp} (h : Clear s g (formGst d m)) (he : exec i s = .next (s.reduce g op sc d m)) :
    let u := (formGst d m).use
    let v := s.view u
    let z := v.s v.d d
    GlobalForm i s u m [2] (.red op sc) (poisoned (v.s v.a m.a).p false z.p) (m.len.toNat + 1)
      (lowBytes (m.len.toNat + 1) z) := by
  intro u v z
  refine globalForm_access h he ?_
  rw [← bytesOfScalar_eq]
  rfl

end

theorem valueAtomics : Claim.ValueAtomics := by
  intro s g sc d m b _ n
  refine ⟨fun h => ?_, fun h => ?_⟩
  · intro u v y acts
    have act {i : Instr} {op : AOp} (hop : op ≠ .cas) (he : exec i s = .next (s.atomic g op sc d m b)) : acts i op := by
      have hc : decide (op = .cas) = false := decide_eq_false hop
      have := globalForm_atomic (z := ⟨0, false⟩) (by rw [hc]; exact h) he (if_neg hop)
      rw [hc] at this
      exact this
    exact ⟨act nofun rfl, act nofun rfl, act nofun rfl, act nofun rfl, act nofun rfl, act nofun rfl, act nofun rfl,
      act nofun rfl, act nofun rfl, act nofun rfl, act nofun rfl, act nofun rfl⟩
  · exact globalForm_atomic (op := .cas) h rfl rfl

theorem reductionsAndMwait : Claim.ReductionsAndMwait := by
  intro s g m hm n
  refine ⟨fun sc d h => ?_, fun d b h => ?_⟩
  · intro u v z acts
    exact ⟨globalForm_reduce h rfl, globalForm_reduce h rfl, globalForm_reduce h rfl, globalForm_reduce h rfl,
      globalForm_reduce h rfl, globalForm_reduce h rfl, globalForm_reduce h rfl, globalForm_reduce h rfl,
      globalForm_reduce h rfl⟩
  · intro u v y
    refine globalForm_access h rfl ?_
    rw [← bytesOfScalar_eq]
    rfl

/-- Settles O29: each form is an access whose operands give an aligned address. -/
theorem atomicForms : Obligations.AtomicForms := ⟨valueAtomics, reductionsAndMwait⟩

/-- Settles O30: each form is an access of its own right. -/
theorem cacheAndLoftForms : Obligations.CacheAndLoftForms := by
  intro s g sc m
  refine ⟨fun h => ?_, fun d h => ?_, fun d h => ?_⟩
  · intro u x acts
    exact ⟨globalForm_access h rfl rfl, globalForm_bytes h rfl rfl, globalForm_bytes h rfl rfl,
      globalForm_bytes h rfl rfl, globalForm_bytes h rfl rfl⟩
  · exact globalForm_bytes h rfl rfl
  · exact ⟨globalForm_bytes h rfl rfl, globalForm_bytes h rfl rfl⟩

end Sys2Proof.Safety
end

section
/-! SUPPORT. Global loads, stores and GPREF (O28). -/

namespace Sys2Proof.Safety

open Sys2Proof.Machine

/-! What leaves the parties of every core as they were -/

/-- The issuing party, the strands and the porters stand as they were. -/
structure SameParties (s t : State) : Prop where
  cur : t.cur = s.cur
  strand : ∀ c p, t.strand c p = s.strand c p
  porter : ∀ c, t.porter c = s.porter c

section
variable {s t u : State}

theorem SameParties.refl (s : State) : SameParties s s := ⟨rfl, fun _ _ => rfl, fun _ => rfl⟩

theorem SameParties.trans (h : SameParties s t) (k : SameParties t u) : SameParties s u :=
  ⟨k.cur.trans h.cur, fun c p => (k.strand c p).trans (h.strand c p), fun c => (k.porter c).trans (h.porter c)⟩

theorem SameParties.regsOf (h : SameParties s t) (c p : Nat) : t.regsOf c p = s.regsOf c p := by
  simp only [State.regsOf, h.strand, h.porter]

theorem SameParties.regs (h : SameParties s t) : t.regs = s.regs := by
  rw [State.regs, h.cur, h.regsOf]
  rfl

/-- What keeps the cores keeps their parties. -/
theorem sameParties_of_cores (hc : t.cur = s.cur) (h : t.cores = s.cores) : SameParties s t := by
  have hk (c : Nat) : t.core c = s.core c := by rw [State.core, State.core, h]
  exact ⟨hc, fun c p => by rw [State.strand, State.strand, hk], fun c => by rw [State.porter, State.porter, hk]⟩

theorem sameParties_foldl {α : Type} {f : State → α → State} (h : ∀ s x, SameParties s (f s x)) (l : List α) (s : State) :
    SameParties s (l.foldl f s) := by
  induction l generalizing s with
  | nil => exact .refl s
  | cons x t ih => exact (h s x).trans (ih _)

/-- A change of a core that leaves its strands and porter. -/
theorem sameParties_setCore (s : State) (c : Nat) {k : Core} (hs : k.strands = (s.core c).strands)
    (hp : k.porter = (s.core c).porter) : SameParties s (s.setCore c k) := by
  refine ⟨rfl, fun d p => ?_, fun d => ?_⟩
  · by_cases hd : d = c
    · subst hd; simp [State.strand, hs]
    · simp [State.strand, core_setCore_other _ _ _ _ hd]
  · by_cases hd : d = c
    · subst hd; simp [State.porter, hp]
    · simp [State.porter, core_setCore_other _ _ _ _ hd]

/-- Sending a flit adds to the network, and may note its route. -/
theorem send_eq (s : State) (sdie sstop ddie dstop vc vd : Nat) (gti : BitVec 32) (cl : Nat) (m : Msg) :
    ∃ i net ks, s.send sdie sstop ddie dstop vc vd gti cl m = { s with nextId := i, net := net, clusters := ks } := by
  unfold State.send
  generalize (if sdie = 8 && ddie ≠ 8 then (nextDie 8 ddie, 615) else (sdie, sstop)) = q
  obtain ⟨d, src⟩ := q
  dsimp only
  generalize (if m.bodies = 0 then s.nextId else s.nextId + m.bodies + 1) = last
  split
  · split <;> exact ⟨_, _, _, rfl⟩
  · exact ⟨_, _, _, rfl⟩

theorem sameParties_send (s : State) (sdie sstop ddie dstop vc vd : Nat) (gti : BitVec 32) (cl : Nat) (m : Msg) :
    SameParties s (s.send sdie sstop ddie dstop vc vd gti cl m) := by
  obtain ⟨i, net, ks, h⟩ := send_eq s sdie sstop ddie dstop vc vd gti cl m
  rw [h]
  exact sameParties_of_cores rfl rfl

theorem sameParties_bump (s : State) (c event vd n : Nat) : SameParties s (s.bump c event vd n) := by
  unfold State.bump
  simp only
  split
  · exact .refl s
  · exact sameParties_setCore s c rfl rfl

theorem sameParties_prefetchSend (s : State) (c p vd : Nat) (l : Leaf) (dva n : Nat) :
    SameParties s (s.prefetchSend c p vd l dva n) := by
  unfold State.prefetchSend
  simp only
  split
  · exact .refl s
  · split
    · exact (sameParties_bump ..).trans
        ((sameParties_bump ..).trans (sameParties_foldl (fun s b => sameParties_send ..) _ _))
    · exact sameParties_bump ..

theorem sameParties_prefetch (s : State) (c p dva n : Nat) : SameParties s (s.prefetch c p dva n) := by
  unfold State.prefetch
  simp only
  split
  · split
    · exact sameParties_prefetchSend ..
    · exact .refl s
  · exact sameParties_of_cores rfl rfl

end

section
variable {s : State} {g : Guard} {m : GMem}

/-- The registers after an instruction that retires without a result. -/
theorem regs_retire_nil (s : State) : (s.retire []).regs = { s.regs with pc := s.pc + 1 } :=
  (settled_retire_none s [] rfl).regs

theorem gDva_ok {rights : List Nat} {v : View} (h : InSegment v.regs.g[m.seg] rights
    ((v.s v.a m.a).v.toInt + m.disp.toInt) (m.len.toNat + 1)) :
    gDva rights m v = .ok (v.regs.g[m.seg].base.toNat + ((v.s v.a m.a).v.toInt + m.disp.toInt).toNat) := inSegment_ok h

theorem gDva_error {rights : List Nat} {v : View} (h : ¬ InSegment v.regs.g[m.seg] rights
    ((v.s v.a m.a).v.toInt + m.disp.toInt) (m.len.toNat + 1)) : gDva rights m v = .error tSegment := inSegment_error h

theorem fxXget_eq (d : SOp) (m : GMem) (v : View) : fxXget d m v =
    if ((v.s v.a m.a).p || (v.s v.d d).p) = true then .error (tPoison (firstPoison (v.s v.a m.a).p false (v.s v.d d).p))
    else if 0x5FFF < (v.s v.d d).v.toNat + gLen m - 1 then .error (tLsRange (v.s v.d d).v.toNat)
    else gDva [rRead] m v >>= fun a => pure (a, (v.s v.d d).v.toNat) := by
  unfold fxXget needClean lsCheck
  simp only [Bool.or_false]
  split
  · rfl
  · split <;> rfl

theorem fxXput_eq (d : SOp) (m : GMem) (k : Core) (v : View) : fxXput d m k v =
    if ((v.s v.a m.a).p || (v.s v.d d).p) = true then .error (tPoison (firstPoison (v.s v.a m.a).p false (v.s v.d d).p))
    else if 0x5FFF < (v.s v.d d).v.toNat + gLen m - 1 then .error (tLsRange (v.s v.d d).v.toNat)
    else if bytesP (lsBytes k (v.s v.d d).v.toNat (gLen m)) then .error (tPoison 3)
    else gDva [rWrite] m v >>= fun a => pure (a, (v.s v.d d).v.toNat, lsBytes k (v.s v.d d).v.toNat (gLen m)) := by
  unfold fxXput needClean lsCheck
  simp only [Bool.or_false]
  split
  · rfl
  · split <;> rfl

theorem fxGpref_eq (v : View) : fxGpref m v = if (v.s v.a m.a).p then .error (tPoison 1)
    else .ok (match gDva [rRead] m v with | .ok a => some a | .error _ => none) := by
  unfold fxGpref
  cases (v.s v.a m.a).p
  · simp only [needClean, Bool.or_self, Bool.false_eq_true, if_false]
    show (match gDva [rRead] m v with | .ok a => _ | .error _ => _) = _
    cases gDva [rRead] m v <;> rfl
  · rfl

/-- A prefetch changes no register and no party (R291). -/
theorem gpref_acts (h : Clear s g (formG m)) {a : Nat} (hx : fxGpref m (s.view (formG m).use) = .ok (some a))
    (hf : ¬ (s.inRegion = false ∧ s.entryFree (dieOf s.cur.core) (stopOfCluster (clusterOf s.cur.core)) vcREQ = false)) :
    ∃ t, exec (.gpref g m) s = .next t ∧ t.regs = { s.regs with pc := s.pc + 1 } := by
  refine ⟨_, rfl, ?_⟩
  rw [issue_ok h hx]
  have hc : ((some a).isSome && !s.inRegion && !s.entryFree (dieOf s.cur.core) (stopOfCluster s.curCluster) vcREQ) = false := by
    rw [Option.isSome_some, Bool.true_and]
    cases hi : s.inRegion
    · cases he : s.entryFree (dieOf s.cur.core) (stopOfCluster (clusterOf s.cur.core)) vcREQ
      · exact absurd ⟨hi, he⟩ hf
      · rw [show s.curCluster = clusterOf s.cur.core from rfl, he]; rfl
    · rfl
  simp only [hc, Bool.false_eq_true, if_false]
  have same : ∃ b, SameParties (s.takeSrcs (formG m).use) b ∧
      (if (s.takeSrcs (formG m).use).inRegion then (s.takeSrcs (formG m).use).retire []
        else ((splitPages a (gLen m)).foldl (fun s q => s.prefetch s.cur.core s.cur.pos q.dva q.len)
          (s.takeSrcs (formG m).use)).retire []) = b.retire [] := by
    split
    · exact ⟨_, .refl _, rfl⟩
    · exact ⟨_, sameParties_foldl (fun s q => sameParties_prefetch ..) _ _, rfl⟩
  obtain ⟨b, hb, he⟩ := same
  rw [he]
  have htake : (s.takeSrcs (formG m).use).regs = s.regs := by
    rw [State.regs, takeSrcs_cur]
    exact regsOf_chTake ..
  have hretired := settled_retire_none b [] rfl
  have hcur : b.cur = s.cur := hb.cur.trans (takeSrcs_cur ..)
  have hown : OwnOnly s (s.takeSrcs (formG m).use) := ownOnly_chTake ..
  rw [holdChans_same, hretired.regs]
  · rw [State.pc, State.pc, hb.regs, htake]
    rfl
  · intro h6
    have h1 := congrArg Strand.st (hretired.own.strand (by rwa [hcur]))
    have h2 := congrArg Strand.st (hown.strand h6)
    rw [hcur] at h1
    exact h1.trans ((congrArg Strand.st (hb.strand _ _)).trans h2)

/-- A prefetch that its segment refuses retires at once (R291). -/
theorem gpref_drops (h : Clear s g (formG m)) (hx : fxGpref m (s.view (formG m).use) = .ok none) :
    Retires (.gpref g m) s (formG m).use [] := by
  refine ⟨_, rfl, ?_⟩
  rw [issue_ok h hx]
  have k := settled_retire s (formG m).use [] rfl
  show Settled s (s.holdChans ((s.takeSrcs (formG m).use).retire []) (formG m).use) (formG m).use []
  rw [holdChans_settled k rfl rfl]
  exact k

/-- A prefetch outside a region waits for room for its flit (R26). -/
theorem gpref_waits (h : Clear s g (formG m)) {a : Nat} (hx : fxGpref m (s.view (formG m).use) = .ok (some a))
    (hi : s.inRegion = false)
    (hf : s.entryFree (dieOf s.cur.core) (stopOfCluster (clusterOf s.cur.core)) vcREQ = false) :
    Waits (.gpref g m) s .waitMem .flit := by
  refine ⟨_, rfl, ?_⟩
  rw [issue_ok h hx]
  simp only [Option.isSome_some, hi, show s.curCluster = clusterOf s.cur.core from rfl, hf, Bool.not_false,
    Bool.and_self, if_true]
  exact Parked.holdChans (parked_park ..) _

/-- XGET and XPUT: the poison of their sources, the range of the local store, then the segment (R288 to R290). -/
theorem xgetXput_forms {d : SOp} (h : Clear s g (formGst d m)) :
    let n := m.len.toNat + 1
    let u := (formGst d m).use
    let x := (s.view u).s (s.view u).a m.a
    let z := (s.view u).s (s.view u).d d
    let l := z.v.toNat
    let bytes := lsBytes (s.core s.cur.core) l n
    let off : Int := x.v.toInt + m.disp.toInt
    let sg := s.regs.g[m.seg]
    let a := sg.base.toNat + off.toNat
    if x.p ∨ z.p then
      Traps (.xget g d m) s { cause := 0x09, sub := if x.p then 1 else 0 } ∧
      Traps (.xput g d m) s { cause := 0x09, sub := if x.p then 1 else 0 }
    else if 0x5FFF < l + n - 1 then
      Traps (.xget g d m) s { cause := 0x04, addr := l } ∧ Traps (.xput g d m) s { cause := 0x04, addr := l }
    else
      (¬ InSegment sg [0] off n → Traps (.xget g d m) s { cause := 0x03 }) ∧
      (InSegment sg [0] off n → StartsFrom (.xget g d m) s s u (.load (.ls l)) a n []) ∧
      (bytes.any (·.p) = true → Traps (.xput g d m) s { cause := 0x09, sub := 3 }) ∧
      (bytes.any (·.p) = false → ¬ InSegment sg [1] off n → Traps (.xput g d m) s { cause := 0x03 }) ∧
      (bytes.any (·.p) = false → InSegment sg [1] off n →
        StartsFrom (.xput g d m) s (touched s [(l, n)]) u .store a n bytes) := by
  intro n u x z l bytes off sg a
  have hget : fxXget d m (s.view u) = _ := fxXget_eq d m (s.view u)
  have hput : fxXput d m (s.core s.cur.core) (s.view u) = _ := fxXput_eq d m (s.core s.cur.core) (s.view u)
  have getTraps {e : TrapInfo} (hx : fxXget d m (s.view u) = .error e) : Traps (.xget g d m) s e := by
    apply traps_takeTrap
    exact congrArg Host.Outcome.next (issue_error h hx _)
  have putTraps {e : TrapInfo} (hx : fxXput d m (s.core s.cur.core) (s.view u) = .error e) : Traps (.xput g d m) s e := by
    apply traps_takeTrap
    exact congrArg Host.Outcome.next (issue_error h hx _)
  split
  · next hp =>
    have hb : (x.p || z.p) = true := by simpa using hp
    have hn : firstPoison x.p false z.p = if x.p then 1 else 0 := by
      unfold firstPoison
      cases hxp : x.p <;> simp_all
    rw [← hn]
    exact ⟨getTraps (hget.trans (if_pos hb)), putTraps (hput.trans (if_pos hb))⟩
  · next hp =>
    have hb : ¬ (x.p || z.p) = true := by simpa using hp
    replace hget := hget.trans (if_neg hb)
    replace hput := hput.trans (if_neg hb)
    split
    · next hr => exact ⟨getTraps (hget.trans (if_pos hr)), putTraps (hput.trans (if_pos hr))⟩
    · next hr =>
      replace hget := hget.trans (if_neg hr)
      replace hput := hput.trans (if_neg hr)
      refine ⟨fun hs => ?_, fun hs => ?_, fun hb => putTraps (hput.trans (if_pos hb)), fun hb hs => ?_, fun hb hs => ?_⟩
      · rw [gDva_error hs] at hget
        exact getTraps hget
      · rw [gDva_ok hs] at hget
        exact starts_startOp rfl (congrArg Host.Outcome.next (issue_ok h hget _))
      · replace hput := hput.trans (if_neg (Bool.eq_false_iff.mp hb))
        rw [gDva_error hs] at hput
        exact putTraps hput
      · replace hput := hput.trans (if_neg (Bool.eq_false_iff.mp hb))
        rw [gDva_ok hs] at hput
        exact starts_startOp (cur_guardTouch ..) (congrArg Host.Outcome.next (issue_ok h hput _))

/-- Settles O28: the forms are accesses; XGET and XPUT check their local-store range first, and GPREF drops what fails. -/
theorem globalAccesses : Obligations.GlobalAccesses := by
  intro s g m n
  refine ⟨fun w d h => ?_, fun d h => ?_, fun w d hn h => ?_, fun d hn h => ?_, fun d h => ?_, fun h => ?_⟩
  · exact globalForm_bytes h rfl rfl
  · exact globalForm_bytes h rfl rfl
  · intro u x z
    rw [← bytesOfScalar_eq]
    exact globalForm_bytes h rfl rfl
  · intro u x z lanes
    have hl : lanes = (bytesOfVec z).take n := (bytesOfVec_take z hn).symm
    rw [hl]
    exact globalForm_bytes h rfl rfl
  · exact xgetXput_forms h
  · intro u x off
    have hx : fxGpref m (s.view u) = _ := fxGpref_eq (s.view u)
    have he : exec (.gpref g m) s = .next (s.issue g (formG m) (fxGpref m) _) := rfl
    split
    · next hp =>
      apply traps_takeTrap
      rw [he, issue_error h (hx.trans (if_pos hp))]
      rfl
    · next hp =>
      replace hx := hx.trans (if_neg hp)
      intro full
      refine ⟨fun hs => ?_, fun hs hf => ?_, fun hs hf => ?_⟩
      · rw [gDva_error hs] at hx
        exact gpref_drops h hx
      · rw [gDva_ok hs] at hx
        exact gpref_waits h hx hf.1 hf.2
      · rw [gDva_ok hs] at hx
        exact gpref_acts h hx hf

end

end Sys2Proof.Safety
end

section
/-! SUPPORT. What the homes and caches do to the rest of the machine: nothing (R89 to R123). `HomeSide` says once what an
action of a home or of a cluster's cache can change; each such action of the model has its lemma. -/

namespace Sys2Proof.Safety

open Sys2Proof.Machine

/-! Maps -/

theorem mapGet?_map {α β : Type} (l : SMap α) (f : Nat → α → β) (i : Nat) :
    mapGet? (l.map fun e => (e.1, f e.1 e.2)) i = (mapGet? l i).map (f i) := by
  induction l with
  | nil => rfl
  | cons e t ih =>
    rw [List.map_cons, mapGet?, mapGet?]
    split
    · next h => subst h; rfl
    · exact ih

/-! Bytes that a strand has written and not yet written through (R92, R118) -/

/-- Some extent of a list holds byte `a` of `sp` as D of slot `t`, owed as `o` says, under page kind `k` of home `h`. -/
def HasD (l : List CExt) (sp : ASpace) (t : Nat) (o : Option (ASpace × Nat)) (k : PKind) (h a : Nat) : Prop :=
  ∃ e ∈ l, e.st = .d t o ∧ e.sp = sp ∧ e.leaf.kind = k ∧ e.leaf.home = h ∧ e.start ≤ a ∧ a < e.start + e.data.length

/-- List `l'` holds no D byte that `l` does not hold; what is owed may have been released (R120). -/
def FewerD (l l' : List CExt) : Prop :=
  ∀ sp t o k h a, HasD l' sp t o k h a → ∃ o', (o = none ∨ o' = o) ∧ HasD l sp t o' k h a

theorem FewerD.refl (l : List CExt) : FewerD l l := fun _ _ o _ _ _ hd => ⟨o, .inr rfl, hd⟩

theorem FewerD.trans {l l' l'' : List CExt} (h : FewerD l l') (h' : FewerD l' l'') : FewerD l l'' := by
  intro sp t o k hm a hd
  obtain ⟨o', ho', hd'⟩ := h' sp t o k hm a hd
  obtain ⟨o'', ho'', hd''⟩ := h sp t o' k hm a hd'
  refine ⟨o'', ?_, hd''⟩
  rcases ho' with rfl | rfl
  · exact .inl rfl
  · exact ho''

/-- Every D extent of the new list lies within an old one of the same kind. -/
theorem fewerD_of_within {l l' : List CExt} (h : ∀ e ∈ l', ∀ t o, e.st = .d t o → ∃ x ∈ l, x.st = .d t o ∧ x.sp = e.sp ∧
    x.leaf = e.leaf ∧ x.start ≤ e.start ∧ e.start + e.data.length ≤ x.start + x.data.length) : FewerD l l' := by
  rintro sp t o k hm a ⟨e, he, hst, hsp, hk, hh, h1, h2⟩
  obtain ⟨x, hx, xst, xsp, xl, x1, x2⟩ := h e he t o hst
  exact ⟨o, .inr rfl, x, hx, xst, xsp.trans hsp, by rw [xl, hk], by rw [xl, hh], by omega, by omega⟩

theorem fewerD_of_subset {l l' : List CExt} (h : ∀ e ∈ l', e ∈ l) : FewerD l l' :=
  fewerD_of_within fun e he _ _ hst => ⟨e, h e he, hst, rfl, rfl, le_rfl, le_rfl⟩

/-- The parts of a run that a cut leaves lie within it and outside the range. -/
theorem cutRun_within {start : Nat} {data : List PByte} {a n : Nat} {r : Nat × List PByte} (h : r ∈ cutRun start data a n) :
    start ≤ r.1 ∧ r.1 + r.2.length ≤ start + data.length ∧
      ∀ x, r.1 ≤ x → x < r.1 + r.2.length → x < a ∨ a + n ≤ x := by
  unfold cutRun at h
  simp only at h
  split at h
  · next ho =>
    simp only [overlaps, Bool.and_eq_true, decide_eq_true_eq] at ho
    rcases List.mem_append.mp h with h | h
    · split at h
      · next hlt =>
        obtain rfl := List.mem_singleton.mp h
        simp only [List.length_take]
        exact ⟨le_rfl, by omega, fun x h1 h2 => by omega⟩
      · exact absurd h List.not_mem_nil
    · split at h
      · next hlt =>
        obtain rfl := List.mem_singleton.mp h
        simp only [List.length_drop]
        exact ⟨by omega, by omega, fun x h1 h2 => by omega⟩
      · exact absurd h List.not_mem_nil
  · next ho =>
    obtain rfl := List.mem_singleton.mp h
    simp only [overlaps, Bool.and_eq_true, decide_eq_true_eq] at ho
    refine ⟨le_rfl, le_rfl, fun x h1 h2 => ?_⟩
    dsimp only at h1 h2
    omega

theorem CExt.mem_cut {e x : CExt} {a n : Nat} (h : x ∈ e.cut a n) :
    x.st = e.st ∧ x.sp = e.sp ∧ x.leaf = e.leaf ∧ e.start ≤ x.start ∧
      x.start + x.data.length ≤ e.start + e.data.length ∧
      ∀ y, x.start ≤ y → y < x.start + x.data.length → y < a ∨ a + n ≤ y := by
  obtain ⟨r, hr, rfl⟩ := List.mem_map.mp h
  obtain ⟨h1, h2, h3⟩ := cutRun_within hr
  exact ⟨rfl, rfl, rfl, h1, h2, h3⟩

/-- Cutting some extents and keeping the others leaves no new D byte. -/
theorem fewerD_flatMap_cut (l : List CExt) (p : CExt → Bool) (a n : Nat) :
    FewerD l (l.flatMap fun e => if p e then e.cut a n else [e]) := by
  refine fewerD_of_within fun x hx t o hst => ?_
  obtain ⟨e, he, hxe⟩ := List.mem_flatMap.mp hx
  split at hxe
  · obtain ⟨h1, h2, h3, h4, h5, -⟩ := CExt.mem_cut hxe
    exact ⟨e, he, h1 ▸ hst, h2.symm, h3.symm, h4, h5⟩
  · obtain rfl := List.mem_singleton.mp hxe
    exact ⟨x, he, hst, rfl, rfl, le_rfl, le_rfl⟩

/-- What a carve leaves lies outside its range. -/
theorem hasD_carveC {l : List CExt} {sp' : ASpace} {b n : Nat} {sp : ASpace} {t : Nat} {o : Option (ASpace × Nat)} {k : PKind}
    {h a : Nat} (hd : HasD (carveC l sp' b n) sp t o k h a) :
    HasD l sp t o k h a ∧ ¬ (sp = sp' ∧ b ≤ a ∧ a < b + n) := by
  obtain ⟨x, hx, hst, hsp, hk, hh, h1, h2⟩ := hd
  obtain ⟨e, he, hxe⟩ := List.mem_flatMap.mp hx
  split at hxe
  · obtain ⟨c1, c2, c3, c4, c5, c6⟩ := CExt.mem_cut hxe
    refine ⟨⟨e, he, c1 ▸ hst, c2 ▸ hsp, c3 ▸ hk, c3 ▸ hh, by omega, by omega⟩, ?_⟩
    have := c6 a h1 h2
    omega
  · next hne =>
    obtain rfl := List.mem_singleton.mp hxe
    refine ⟨⟨x, he, hst, hsp, hk, hh, h1, h2⟩, fun hc => hne ?_⟩
    rw [hsp, hc.1]

/-- The first half of `addC`: the extent below it joins the new one. -/
def addBelow (l : List CExt) (e : CExt) : CExt × List CExt :=
  match l.find? fun x => mergeableC x e with
  | some x => ({ e with start := x.start, data := x.data ++ e.data }, l.erase x)
  | none => (e, l)

/-- The second half of `addC`: the extent above it joins. -/
def addAbove (l : List CExt) (e : CExt) : CExt × List CExt :=
  match l.find? fun x => mergeableC e x with
  | some x => ({ e with data := e.data ++ x.data }, l.erase x)
  | none => (e, l)

theorem addC_eq (l : List CExt) (e : CExt) : addC l e =
    (addAbove (addBelow l e).2 (addBelow l e).1).2 ++ [(addAbove (addBelow l e).2 (addBelow l e).1).1] := rfl

/-- Two extents that merge hold the bytes of one kind, one after the other. -/
theorem mergeableC_spec {x e : CExt} (h : mergeableC x e = true) : x.st = e.st ∧ x.sp = e.sp ∧
    x.leaf.kind = e.leaf.kind ∧ x.leaf.home = e.leaf.home ∧ x.start + x.data.length = e.start := by
  simp only [mergeableC, Bool.and_eq_true, decide_eq_true_eq] at h
  obtain ⟨⟨⟨⟨⟨⟨⟨m1, m2⟩, m3⟩, -⟩, m4⟩, m5⟩, -⟩, -⟩ := h
  exact ⟨m3, m1, m4, m5, m2⟩

theorem hasD_addBelow {l : List CExt} {e : CExt} {sp : ASpace} {t : Nat} {o : Option (ASpace × Nat)} {k : PKind} {h a : Nat}
    (hd : HasD ((addBelow l e).1 :: (addBelow l e).2) sp t o k h a) : HasD (e :: l) sp t o k h a := by
  unfold addBelow at hd
  split at hd
  · next x hf =>
    have hm := List.find?_some hf
    obtain ⟨m1, m2, m3, m4, m5⟩ := mergeableC_spec hm
    obtain ⟨y, hy, hst, hsp, hk, hh, h1, h2⟩ := hd
    rcases List.mem_cons.mp hy with rfl | hy
    · simp only [List.length_append] at h1 h2 hst hsp hk hh
      by_cases hlt : a < e.start
      · exact ⟨x, List.mem_cons_of_mem _ (List.mem_of_find?_eq_some hf), m1.trans hst, m2.trans hsp, m3.trans hk, m4.trans hh,
          h1, by omega⟩
      · exact ⟨e, List.mem_cons_self, hst, hsp, hk, hh, by omega, by omega⟩
    · exact ⟨y, List.mem_cons_of_mem _ (List.mem_of_mem_erase hy), hst, hsp, hk, hh, h1, h2⟩
  · exact hd

theorem hasD_addAbove {l : List CExt} {e : CExt} {sp : ASpace} {t : Nat} {o : Option (ASpace × Nat)} {k : PKind} {h a : Nat}
    (hd : HasD ((addAbove l e).1 :: (addAbove l e).2) sp t o k h a) : HasD (e :: l) sp t o k h a := by
  unfold addAbove at hd
  split at hd
  · next x hf =>
    have hm := List.find?_some hf
    obtain ⟨m1, m2, m3, m4, m5⟩ := mergeableC_spec hm
    obtain ⟨y, hy, hst, hsp, hk, hh, h1, h2⟩ := hd
    rcases List.mem_cons.mp hy with rfl | hy
    · simp only [List.length_append] at h1 h2 hst hsp hk hh
      by_cases hlt : a < e.start + e.data.length
      · exact ⟨e, List.mem_cons_self, hst, hsp, hk, hh, h1, hlt⟩
      · exact ⟨x, List.mem_cons_of_mem _ (List.mem_of_find?_eq_some hf), m1.symm.trans hst, m2.symm.trans hsp,
          m3.symm.trans hk, m4.symm.trans hh, by omega, by omega⟩
    · exact ⟨y, List.mem_cons_of_mem _ (List.mem_of_mem_erase hy), hst, hsp, hk, hh, h1, h2⟩
  · exact hd

/-- Entering an extent holds no D byte that it and the others did not hold. -/
theorem hasD_addC {l : List CExt} {e : CExt} {sp : ASpace} {t : Nat} {o : Option (ASpace × Nat)} {k : PKind} {h a : Nat}
    (hd : HasD (addC l e) sp t o k h a) : HasD l sp t o k h a ∨ HasD [e] sp t o k h a := by
  rw [addC_eq] at hd
  obtain ⟨y, hy, hrest⟩ := hd
  have hy' := List.mem_cons.mpr ((List.mem_append.mp hy).symm.imp_left List.mem_singleton.mp)
  obtain ⟨z, hz, hrest⟩ := hasD_addBelow (hasD_addAbove ⟨y, hy', hrest⟩)
  rcases List.mem_cons.mp hz with rfl | hz
  · exact .inr ⟨z, List.mem_cons_self, hrest⟩
  · exact .inl ⟨z, hz, hrest⟩

theorem hasD_foldl_addC {es l : List CExt} {sp : ASpace} {t : Nat} {o : Option (ASpace × Nat)} {k : PKind} {h a : Nat}
    (hd : HasD (es.foldl addC l) sp t o k h a) : HasD l sp t o k h a ∨ HasD es sp t o k h a := by
  induction es generalizing l with
  | nil => exact .inl hd
  | cons e es ih =>
    rcases ih hd with hd | ⟨x, hx, hrest⟩
    · rcases hasD_addC hd with hd | ⟨x, hx, hrest⟩
      · exact .inl hd
      · exact .inr ⟨x, List.mem_singleton.mp hx ▸ List.mem_cons_self, hrest⟩
    · exact .inr ⟨x, List.mem_cons_of_mem _ hx, hrest⟩

end Sys2Proof.Safety
end

section
/-! SUPPORT. What the homes and caches leave as it was (R89 to R123): `CacheSide` and `HomeSide` say once what an action of a home or of a
cluster's cache can change, and each such action of the model has its lemma. -/

namespace Sys2Proof.Safety

open Sys2Proof.Machine

/-! The canonical form of the memories -/

/-- An action keeps HBM and every local store in canonical form. -/
def KeepsMem (s t : State) : Prop := MemOk s → MemOk t

theorem KeepsMem.refl (s : State) : KeepsMem s s := id

theorem KeepsMem.trans {s t u : State} (h : KeepsMem s t) (k : KeepsMem t u) : KeepsMem s u := fun hs => k (h hs)

/-- What leaves HBM and the cores as they were. -/
theorem keepsMem_of {s t : State} (hm : t.mem = s.mem) (hc : t.cores = s.cores) : KeepsMem s t := by
  rintro ⟨h1, h2⟩
  exact ⟨hm ▸ h1, hc ▸ h2⟩

theorem MemOk.core {s : State} (h : MemOk s) (c : Nat) : memWf (s.core c).ls = true := by
  unfold State.core mapGet
  cases hc : mapGet? s.cores c with
  | none => rfl
  | some k => exact h.2 _ (mem_of_mapGet? hc)

theorem keepsMem_setCore {s : State} {c : Nat} {k : Core} (h : memWf (s.core c).ls = true → memWf k.ls = true) :
    KeepsMem s (s.setCore c k) := by
  refine fun hs => ⟨hs.1, fun e he => ?_⟩
  rcases mem_mapPut he with rfl | he
  · exact h (hs.core c)
  · exact hs.2 e he

theorem keepsMem_setCore_ls {s : State} {c : Nat} {k : Core} (h : k.ls = (s.core c).ls) : KeepsMem s (s.setCore c k) :=
  keepsMem_setCore fun hs => h ▸ hs

theorem keepsMem_foldl {α : Type} {f : State → α → State} (h : ∀ s x, KeepsMem s (f s x)) (l : List α) (s : State) :
    KeepsMem s (l.foldl f s) := by
  induction l generalizing s with
  | nil => exact .refl s
  | cons x t ih => exact (h s x).trans (ih _)

/-! What an action of the homes and caches changes -/

/-- The parties and cores stand as they were but for the strands' RELL words, and the memories stay in canonical form. -/
structure CacheSide (s t : State) : Prop where
  cur : t.cur = s.cur
  cycle : t.cycle = s.cycle
  strand : ∀ c p, ({ t.strand c p with rell := (s.strand c p).rell } : Strand) = s.strand c p
  core : ∀ c, ({ t.core c with strands := (s.core c).strands } : Core) = s.core c
  cluster : ∀ k, ({ t.cluster k with
    cache := (s.cluster k).cache, routes := (s.cluster k).routes, hand := (s.cluster k).hand } : Cluster) = s.cluster k
  mem : KeepsMem s t

/-- And no cluster holds a D byte that it did not hold. -/
structure HomeSide (s t : State) : Prop extends CacheSide s t where
  dirty : ∀ k, FewerD (s.cluster k).cache (t.cluster k).cache

theorem CacheSide.refl (s : State) : CacheSide s s := ⟨rfl, rfl, fun _ _ => rfl, fun _ => rfl, fun _ => rfl, .refl s⟩

theorem CacheSide.trans {s t u : State} (h : CacheSide s t) (k : CacheSide t u) : CacheSide s u where
  cur := k.cur.trans h.cur
  cycle := k.cycle.trans h.cycle
  strand c p := by
    have e := congrArg (fun x : Strand => ({ x with rell := (s.strand c p).rell } : Strand)) (k.strand c p)
    exact e.trans (h.strand c p)
  core c := by
    have e := congrArg (fun x : Core => ({ x with strands := (s.core c).strands } : Core)) (k.core c)
    exact e.trans (h.core c)
  cluster c := by
    have e := congrArg (fun x : Cluster => ({ x with
      cache := (s.cluster c).cache, routes := (s.cluster c).routes, hand := (s.cluster c).hand } : Cluster)) (k.cluster c)
    exact e.trans (h.cluster c)
  mem := h.mem.trans k.mem

theorem cacheSide_foldl {α : Type} {f : State → α → State} (h : ∀ s x, CacheSide s (f s x)) (l : List α) (s : State) :
    CacheSide s (l.foldl f s) := by
  induction l generalizing s with
  | nil => exact .refl s
  | cons x t ih => exact (h s x).trans (ih _)

theorem HomeSide.refl (s : State) : HomeSide s s := ⟨.refl s, fun _ => .refl _⟩

theorem HomeSide.trans {s t u : State} (h : HomeSide s t) (k : HomeSide t u) : HomeSide s u :=
  ⟨h.toCacheSide.trans k.toCacheSide, fun c => (h.dirty c).trans (k.dirty c)⟩

theorem homeSide_foldl {α : Type} {f : State → α → State} (h : ∀ s x, HomeSide s (f s x)) (l : List α) (s : State) :
    HomeSide s (l.foldl f s) := by
  induction l generalizing s with
  | nil => exact .refl s
  | cons x t ih => exact (h s x).trans (ih _)

/-- An action that leaves the cores. -/
theorem homeSide_of_mem {s t : State} (hcur : t.cur = s.cur) (hcy : t.cycle = s.cycle) (hc : t.cores = s.cores)
    (hm : KeepsMem s t) (hd : ∀ k, FewerD (s.cluster k).cache (t.cluster k).cache)
    (hk : ∀ k, ({ t.cluster k with
      cache := (s.cluster k).cache, routes := (s.cluster k).routes, hand := (s.cluster k).hand } : Cluster) =
        s.cluster k) : HomeSide s t := by
  have hcore (c : Nat) : t.core c = s.core c := by rw [State.core, State.core, hc]
  exact ⟨⟨hcur, hcy, fun c p => by rw [State.strand, hcore]; rfl, fun c => by rw [hcore], hk, hm⟩, hd⟩

/-- An action that leaves the cores and HBM. -/
theorem homeSide_of_dirty {s t : State} (hcur : t.cur = s.cur) (hcy : t.cycle = s.cycle) (hc : t.cores = s.cores)
    (hm : t.mem = s.mem) (hd : ∀ k, FewerD (s.cluster k).cache (t.cluster k).cache)
    (hk : ∀ k, ({ t.cluster k with
      cache := (s.cluster k).cache, routes := (s.cluster k).routes, hand := (s.cluster k).hand } : Cluster) =
        s.cluster k) : HomeSide s t :=
  homeSide_of_mem hcur hcy hc (keepsMem_of hm hc) hd hk

/-- An action that leaves the cores, HBM and the clusters. -/
theorem homeSide_of {s t : State} (hcur : t.cur = s.cur) (hcy : t.cycle = s.cycle) (hc : t.cores = s.cores)
    (hm : t.mem = s.mem) (hk : t.clusters = s.clusters) : HomeSide s t :=
  have h (k : Nat) : t.cluster k = s.cluster k := by rw [State.cluster, State.cluster, hk]
  homeSide_of_dirty hcur hcy hc hm (fun k => h k ▸ .refl _) fun k => by rw [h]

theorem homeSide_setSlice (s : State) (i : Nat) (x : Slice) : HomeSide s (s.setSlice i x) := homeSide_of rfl rfl rfl rfl rfl
theorem homeSide_setDie (s : State) (d : Nat) (x : Die) : HomeSide s (s.setDie d x) := homeSide_of rfl rfl rfl rfl rfl
theorem homeSide_setVf (s : State) (v : Nat) (x : Vf) : HomeSide s (s.setVf v x) := homeSide_of rfl rfl rfl rfl rfl
theorem homeSide_fresh (s : State) : HomeSide s s.fresh.2 := homeSide_of rfl rfl rfl rfl rfl
theorem homeSide_lacks (s : State) (k : Option Nat) : HomeSide s (s.lacks k) := homeSide_of rfl rfl rfl rfl rfl
theorem homeSide_unkeepAll (s : State) (f : Nat → HReq → Bool) : HomeSide s (s.unkeepAll f) := homeSide_of rfl rfl rfl rfl rfl
theorem homeSide_rekey (s : State) (l : List Nat) : HomeSide s (s.rekey l) := homeSide_of rfl rfl rfl rfl rfl

theorem cluster_setCluster_eq (s : State) (k d : Nat) (x : Cluster) :
    (s.setCluster k x).cluster d = if d = k then x else s.cluster d := by
  unfold State.setCluster State.cluster
  simp only [mapGet_mapPut]

theorem homeSide_setCluster {s : State} {k : Nat} {x : Cluster} (h : FewerD (s.cluster k).cache x.cache)
    (hx : ({ x with cache := (s.cluster k).cache, routes := (s.cluster k).routes, hand := (s.cluster k).hand } : Cluster) =
      s.cluster k := by rfl) : HomeSide s (s.setCluster k x) := by
  refine homeSide_of_dirty rfl rfl rfl rfl (fun d => ?_) fun d => ?_
  · rw [cluster_setCluster_eq]
    split
    · next hd => exact hd ▸ h
    · exact .refl _
  · rw [cluster_setCluster_eq]
    split
    · next hd => exact hd ▸ hx
    · rfl

/-! Traffic -/

theorem homeSide_send (s : State) (sdie sstop ddie dstop vc vd : Nat) (gti : BitVec 32) (cl : Nat) (m : Msg) :
    HomeSide s (s.send sdie sstop ddie dstop vc vd gti cl m) := by
  unfold State.send
  generalize (if sdie = 8 && ddie ≠ 8 then (nextDie 8 ddie, 615) else (sdie, sstop)) = q
  obtain ⟨d, src⟩ := q
  dsimp only
  generalize (if m.bodies = 0 then s.nextId else s.nextId + m.bodies + 1) = last
  split
  · split
    · refine HomeSide.trans ?_ (homeSide_setCluster ?_)
      · exact homeSide_of rfl rfl rfl rfl rfl
      · exact .refl _
    · exact homeSide_of rfl rfl rfl rfl rfl
  · exact homeSide_of rfl rfl rfl rfl rfl

theorem homeSide_sendBulk (s : State) (sdie sstop ddie dstop vc vd : Nat) (gti : BitVec 32) (cl n : Nat) :
    HomeSide s (s.sendBulk sdie sstop ddie dstop vc vd gti cl n) := by
  induction n generalizing s with
  | zero => exact .refl s
  | succ n ih => exact (homeSide_send ..).trans (ih _)

theorem homeSide_askHbm (s : State) (d : Nat) (r : HbmReq) : HomeSide s (s.askHbm d r) := homeSide_send ..

theorem homeSide_cohTo (s : State) (sl vd : Nat) (ks : List Nat) : HomeSide s (s.cohTo sl vd ks) :=
  homeSide_foldl (fun _ _ => homeSide_sendBulk ..) _ _

/-! Homes -/

theorem homeSide_hbmWrite (s : State) (l : List (Nat × PByte)) : HomeSide s (s.hbmWrite l) :=
  homeSide_of_mem rfl rfl rfl (fun hs => ⟨foldl_memWrite_wf _ _ _ hs.1, hs.2⟩) (fun _ => .refl _) fun _ => rfl

theorem homeSide_fire (s : State) (sp : ASpace) (l : Leaf) (a n : Nat) : HomeSide s (s.fire sp l a n) := by
  refine homeSide_foldl (fun s w => ?_) _ _
  simp only
  split
  · exact .refl s
  · exact homeSide_setSlice ..

/-- Every cluster's cache changed by a function that leaves no new D byte. -/
theorem homeSide_mapClusters (s : State) (f : Nat → Cluster → Cluster) (hf : ∀ k x, FewerD x.cache (f k x).cache)
    (hx : ∀ k x, ({ f k x with cache := x.cache, routes := x.routes, hand := x.hand } : Cluster) = x) :
    HomeSide s { s with clusters := s.clusters.map fun k => (k.1, f k.1 k.2) } := by
  refine homeSide_of_dirty rfl rfl rfl rfl (fun k => ?_) fun k => ?_
  · unfold State.cluster mapGet
    simp only [mapGet?_map]
    cases mapGet? s.clusters k with
    | none => exact .refl _
    | some x => exact hf k x
  · unfold State.cluster mapGet
    simp only [mapGet?_map]
    cases mapGet? s.clusters k with
    | none => rfl
    | some x => exact hx k x

theorem homeSide_trimSharers (s : State) (sp : ASpace) (a n but : Nat) : HomeSide s (s.trimSharers sp a n but) := by
  refine (homeSide_mapClusters s (fun k x => if k = but then x else
    { x with cache := trimC (fun e => e.leaf.kind = .strong) sp a n x.cache }) (fun k x => ?_) fun k x => ?_).trans
      (homeSide_unkeepAll ..)
  · split
    · exact .refl _
    · exact fewerD_flatMap_cut _ _ _ _
  · split <;> rfl

theorem homeSide_trimFrom (s : State) (sl vd : Nat) (sp : ASpace) (a n but : Nat) :
    HomeSide s (s.trimFrom sl vd sp a n but) := (homeSide_cohTo ..).trans (homeSide_trimSharers ..)

theorem homeSide_writeBack (s : State) (sl : Nat) (e : HExt) : HomeSide s (s.writeBack sl e) := by
  unfold State.writeBack
  split
  · exact .refl s
  · exact (homeSide_hbmWrite ..).trans (homeSide_askHbm ..)

theorem homeSide_writePast (s : State) (sl vd : Nat) (sp : ASpace) (l : Leaf) (a : Nat) (data : List (Option PByte)) :
    HomeSide s (s.writePast sl vd sp l a data) := by
  unfold State.writePast
  simp only
  split
  · exact .refl s
  · exact (homeSide_hbmWrite ..).trans (homeSide_askHbm ..)

theorem homeSide_pokeHome (s : State) (sl vd : Nat) (sp : ASpace) (l : Leaf) (a : Nat) (data : List PByte) :
    HomeSide s (s.pokeHome sl vd sp l a data) := (homeSide_setSlice ..).trans (homeSide_writePast ..)

theorem homeSide_unlistWord (s : State) (c : Combine) : HomeSide s (s.unlistWord c) :=
  ((homeSide_foldl (fun _ _ => homeSide_setCluster (fewerD_flatMap_cut _ _ _ _)) c.clusters s).trans
    (homeSide_setSlice ..)).trans (homeSide_unkeepAll ..)

theorem homeSide_evictH (s : State) (sl : Nat) (e : HExt) : HomeSide s (s.evictH sl e) := by
  unfold State.evictH
  extract_lets cs s1 s2
  have h1 : HomeSide s s1 := homeSide_foldl (fun s c => ((homeSide_unlistWord s c).trans (homeSide_cohTo ..)).trans
    (homeSide_foldl (fun s r => (homeSide_pokeHome ..).trans (homeSide_fire ..)) _ _)) _ _
  have h2 : HomeSide s1 s2 := by
    show HomeSide s1 (if e.sharers ≠ 0 then _ else s1)
    split
    · exact homeSide_trimFrom ..
    · exact .refl _
  refine (h1.trans h2).trans ?_
  split
  · exact .refl _
  · refine HomeSide.trans ?_ (homeSide_setSlice ..)
    split
    · exact .refl _
    · exact homeSide_writeBack ..

theorem homeSide_roomH {s t : State} {sl vd : Nat} {sp : ASpace} {a n : Nat} {loft : Bool} {f : List HExt → List HExt}
    {fuel : Nat} (h : s.roomH sl vd sp a n loft f fuel = .ok t) : HomeSide s t := by
  induction fuel generalizing s with
  | zero => exact nomatch h
  | succ fuel ih =>
    rw [State.roomH] at h
    simp only at h
    split at h
    · cases h; exact .refl _
    · split at h
      · exact nomatch h
      · split at h
        · exact nomatch h
        · exact (homeSide_evictH ..).trans (ih h)

theorem homeSide_changeH (s : State) (sl vd a : Nat) (f : List HExt → List HExt) : HomeSide s (s.changeH sl vd a f) := by
  unfold State.changeH
  split
  · exact homeSide_setSlice ..
  · exact .refl s

theorem homeSide_zeroFrame (s : State) (f : Nat) : HomeSide s (s.zeroFrame f) := by
  unfold State.zeroFrame
  extract_lets n s1 clear zero l s2 s3 s4 d
  have h1 : HomeSide s s1 := homeSide_trimSharers ..
  have h2 : HomeSide s1 s2 := homeSide_of rfl rfl rfl rfl rfl
  have h3 : HomeSide s2 s3 :=
    homeSide_of_mem rfl rfl rfl (fun hs => ⟨filter_wf _ hs.1, hs.2⟩) (fun _ => .refl _) fun _ => rfl
  exact (((h1.trans h2).trans h3).trans (homeSide_rekey ..)).trans (homeSide_send ..)

theorem homeSide_pteWrite (s : State) (x : Leaf) (pte : Nat) (data : List PByte) : HomeSide s (s.pteWrite x pte data) := by
  unfold State.pteWrite
  extract_lets sl s1 f
  have h1 : HomeSide s s1 := homeSide_trimFrom ..
  refine h1.trans (HomeSide.trans ?_ (homeSide_fire ..))
  split
  · exact (homeSide_setSlice ..).trans (homeSide_writePast ..)
  · exact homeSide_pokeHome ..

theorem homeSide_backPage {s t : State} {l : Leaf} (h : s.backPage l = some t) : HomeSide s t := by
  unfold State.backPage at h
  split at h
  · cases h; exact .refl _
  · simp only at h
    split at h
    · exact nomatch h
    · split at h
      · cases h; exact homeSide_lacks ..
      · cases h
        exact ((homeSide_setDie ..).trans (homeSide_zeroFrame ..)).trans (homeSide_pteWrite ..)

theorem homeSide_frameTraffic (s : State) (sl vd : Nat) : HomeSide s (s.frameTraffic sl vd) :=
  (homeSide_sendBulk ..).trans (homeSide_sendBulk ..)

theorem homeSide_changeFramed {s t : State} {sl vd : Nat} {sp : ASpace} {a n : Nat} {loft : Bool}
    {f : List HExt → List HExt} {fuel : Nat} (h : s.changeFramed sl vd sp a n loft f fuel = .ok t) : HomeSide s t := by
  induction fuel generalizing s with
  | zero => exact nomatch h
  | succ fuel ih =>
    rw [State.changeFramed] at h
    split at h
    · next hr => cases h; exact (homeSide_roomH hr).trans (homeSide_changeH ..)
    · exact nomatch h
    · split at h
      · next hb =>
        split at h
        · exact nomatch h
        · exact ((homeSide_backPage hb).trans (homeSide_frameTraffic ..)).trans (ih h)
      · exact nomatch h

theorem homeSide_spreadPoison (s : State) (sl : Nat) (sp : ASpace) (l : Leaf) (a : Nat) (data : List PByte) :
    HomeSide s (s.spreadPoison sl sp l a data) := by
  unfold State.spreadPoison
  split
  · refine homeSide_foldl (fun s w => ?_) _ _
    split
    · exact homeSide_setSlice ..
    · exact .refl s
  · exact .refl s

theorem homeSide_homeWriteBay (s : State) (sp : ASpace) (l : Leaf) (vd a : Nat) (data : List PByte) (kb : BitVec 64) :
    HomeSide s (s.homeWriteBay sp l vd a data kb) := by
  unfold State.homeWriteBay
  extract_lets sl keep
  have framed {t : State} (h : (if s.bareWrite sl sp l vd a data.length then s.backPage l else some s) = some t) :
      HomeSide s t := by
    split at h
    · exact homeSide_backPage h
    · cases h; exact .refl _
  split
  · exact homeSide_lacks ..
  · next t ht =>
    refine (framed ht).trans ((homeSide_fresh t).trans ?_)
    unfold State.fresh
    dsimp only
    refine HomeSide.trans ?_ ((homeSide_spreadPoison ..).trans (homeSide_fire ..))
    split
    · next hc =>
      refine (homeSide_changeFramed hc).trans ?_
      split
      · exact .refl _
      · exact homeSide_writePast ..
    · split
      · exact (homeSide_pokeHome ..).trans (homeSide_lacks ..)
      · exact homeSide_pokeHome ..

theorem homeSide_homeWrite (s : State) (sp : ASpace) (l : Leaf) (vd a : Nat) (data : List PByte) (kb : BitVec 64) :
    HomeSide s (s.homeWrite sp l vd a data kb) := homeSide_foldl (fun _ _ => homeSide_homeWriteBay ..) _ _

theorem homeSide_share (s : State) (sl : Nat) (sp : ASpace) (a n bit : Nat) : HomeSide s (s.share sl sp a n bit) := by
  unfold State.share
  simp only
  split
  · exact homeSide_setSlice ..
  · exact .refl s

theorem homeSide_noteBad (s : State) (vd : Nat) (sp : ASpace) (l : Leaf) (a n : Nat) : HomeSide s (s.noteBad vd sp l a n) := by
  unfold State.noteBad
  simp only
  split
  · exact .refl s
  · refine homeSide_foldl (fun s b => ?_) _ _
    split
    · exact .refl s
    · exact homeSide_setDie ..

theorem homeSide_chargeBursts (s : State) (d vd n : Nat) : HomeSide s (s.chargeBursts d vd n) := by
  unfold State.chargeBursts
  simp only
  split
  · exact .refl s
  · split
    · exact (homeSide_setDie ..).trans (homeSide_setVf ..)
    · exact homeSide_setVf ..

theorem homeSide_burstsIn (s : State) (sl : Nat) (sp : ASpace) (l : Leaf) (vd a n : Nat) :
    HomeSide s (s.burstsIn sl sp l vd a n) := by
  unfold State.burstsIn
  split
  · exact .refl s
  · exact ((homeSide_chargeBursts ..).trans (homeSide_sendBulk ..)).trans (homeSide_sendBulk ..)

theorem homeSide_fillHome (s : State) (sp : ASpace) (l : Leaf) (vd a n : Nat) : HomeSide s (s.fillHome sp l vd a n) := by
  unfold State.fillHome
  extract_lets sl
  split
  · exact .refl s
  · split
    · exact .refl s
    · extract_lets s1 f
      have h1 : HomeSide s s1 := homeSide_noteBad ..
      refine h1.trans ?_
      split
      · exact homeSide_burstsIn ..
      · split
        · exact homeSide_lacks ..
        · next t ht =>
          exact (((homeSide_fresh _).trans (homeSide_changeFramed ht)).trans (homeSide_setSlice ..)).trans
            (homeSide_foldl (fun t e => homeSide_burstsIn ..) _ _)

theorem homeSide_fillRange (s : State) (sp : ASpace) (l : Leaf) (vd a n : Nat) : HomeSide s (s.fillRange sp l vd a n) :=
  homeSide_foldl (fun _ _ => homeSide_fillHome ..) _ _

end Sys2Proof.Safety
end

section
/-! SUPPORT. What the actions of a cluster's cache leave as it was (R89 to R94, R116 to R123). -/

namespace Sys2Proof.Safety

open Sys2Proof.Machine

/-! Changes of one cluster's cache -/

theorem cacheSide_setCache (s : State) (cl : Nat) (l : List CExt) : CacheSide s (s.setCache cl l) := by
  refine ⟨rfl, rfl, fun _ _ => rfl, fun _ => rfl, fun d => ?_, keepsMem_of rfl rfl⟩
  unfold State.setCache
  rw [cluster_setCluster_eq]
  split
  · next hd => rw [hd]
  · rfl

theorem homeSide_setCache {s : State} {cl : Nat} {l : List CExt} (h : FewerD (s.cluster cl).cache l) :
    HomeSide s (s.setCache cl l) := homeSide_setCluster h

theorem homeSide_mergeC (s : State) (cl : Nat) : HomeSide s (s.mergeC cl) := by
  refine homeSide_setCache fun sp t o k h a hd => ?_
  rcases hasD_foldl_addC hd with hd | ⟨e, he, hrest⟩
  · exact absurd hd (by rintro ⟨e, he, -⟩; exact nomatch he)
  · exact ⟨o, .inr rfl, e, List.mem_of_mem_filter he, hrest⟩

/-- Cleaned bytes are D no longer, and no other byte has become so. -/
theorem hasD_cleaned {l : List CExt} {e : CExt} {sp : ASpace} {t : Nat} {o : Option (ASpace × Nat)} {k : PKind} {h a : Nat}
    (hd : HasD (addC (carveC l e.sp e.start e.data.length) { e with st := .c }) sp t o k h a) :
    HasD l sp t o k h a ∧ ¬ (sp = e.sp ∧ e.start ≤ a ∧ a < e.start + e.data.length) := by
  rcases hasD_addC hd with hd | ⟨x, hx, hst, -⟩
  · exact hasD_carveC hd
  · rw [List.mem_singleton.mp hx] at hst
    exact nomatch hst

theorem homeSide_cleaned (s : State) (cl : Nat) (e : CExt) : HomeSide s (s.cleaned cl e) :=
  homeSide_setCache fun _ _ o _ _ _ hd => ⟨o, .inr rfl, (hasD_cleaned hd).1⟩

/-! Ownership (R120) -/

theorem homeSide_setRell (s : State) (c p : Nat) (w : Option (ASpace × Nat)) :
    HomeSide s (s.setStrand c p { s.strand c p with rell := w }) := by
  refine ⟨⟨rfl, rfl, fun d q => ?_, fun d => ?_, fun _ => rfl, keepsMem_setCore_ls rfl⟩, fun k => .refl _⟩
  · rw [strand_setStrand_eq]
    split
    · next h => obtain ⟨rfl, rfl⟩ := h; rfl
    · rfl
  · rw [State.setStrand, core_setCore_eq]
    split
    · next h => subst h; rfl
    · rfl

/-- What `unown` does to an extent: nothing is owed to the word any more. -/
def disown (w : ASpace × Nat) (t : Nat) (e : CExt) : CExt :=
  match e.st with
  | .d u o => if o = some w && u = t then { e with st := .d u none } else e
  | _ => e

theorem disown_same (w : ASpace × Nat) (t : Nat) (e : CExt) : (disown w t e).sp = e.sp ∧ (disown w t e).leaf = e.leaf ∧
    (disown w t e).start = e.start ∧ (disown w t e).data = e.data := by
  unfold disown
  split
  · split <;> exact ⟨rfl, rfl, rfl, rfl⟩
  · exact ⟨rfl, rfl, rfl, rfl⟩

theorem disown_st {w : ASpace × Nat} {t u : Nat} {o : Option (ASpace × Nat)} {e : CExt} (h : (disown w t e).st = .d u o) :
    ∃ o', (o = none ∨ o' = o) ∧ e.st = .d u o' ∧ (u = t → o' = some w → o = none) := by
  unfold disown at h
  split at h
  · next v o' he =>
    split at h
    · cases h; exact ⟨o', .inl rfl, he, fun _ _ => rfl⟩
    · next hne =>
      rw [he] at h
      cases h
      refine ⟨o, .inr rfl, he, fun hu ho => absurd ?_ hne⟩
      simp [hu, ho]
  · next hne => exact absurd h (hne _ _)

theorem hasD_disown {l : List CExt} {w : ASpace × Nat} {v : Nat} {sp : ASpace} {t : Nat} {o : Option (ASpace × Nat)} {k : PKind}
    {h a : Nat} (hd : HasD (l.map (disown w v)) sp t o k h a) :
    ∃ o', (o = none ∨ o' = o) ∧ HasD l sp t o' k h a ∧ (t = v → o' = some w → o = none) := by
  obtain ⟨x, hx, hst, hrest⟩ := hd
  obtain ⟨e, he, rfl⟩ := List.mem_map.mp hx
  obtain ⟨e1, e2, e3, e4⟩ := disown_same w v e
  obtain ⟨o', ho, he', hw⟩ := disown_st hst
  rw [e1, e2, e3, e4] at hrest
  exact ⟨o', ho, ⟨e, he, he', hrest⟩, hw⟩

theorem homeSide_setSlices (s : State) (l : SMap Slice) : HomeSide s { s with slices := l } := homeSide_of rfl rfl rfl rfl rfl

theorem unown_none {s : State} {c p : Nat} (h : (s.strand c p).rell = none) : s.unown c p = s := by
  unfold State.unown
  rw [h]

theorem unown_some {s : State} {c p : Nat} {w : ASpace × Nat} (h : (s.strand c p).rell = some w) : ∃ l,
    s.unown c p = ({ (s.setStrand c p { s.strand c p with rell := none }).setCache (clusterOf c)
      ((s.cluster (clusterOf c)).cache.map (disown w (slotOf c p))) with slices := l } : State).mergeC (clusterOf c) := by
  unfold State.unown
  rw [h]
  exact ⟨_, rfl⟩

theorem fewerD_disown (l : List CExt) (w : ASpace × Nat) (v : Nat) : FewerD l (l.map (disown w v)) := by
  intro sp t o k h a hd
  obtain ⟨o', ho, hd', -⟩ := hasD_disown hd
  exact ⟨o', ho, hd'⟩

theorem homeSide_unown (s : State) (c p : Nat) : HomeSide s (s.unown c p) := by
  cases h : (s.strand c p).rell with
  | none =>
    rw [unown_none h]
    exact .refl s
  | some w =>
    obtain ⟨l, hl⟩ := unown_some h
    rw [hl]
    exact (homeSide_setRell s c p none).trans (((homeSide_setCache (fewerD_disown _ _ _)).trans
      (homeSide_setSlices _ l)).trans (homeSide_mergeC ..))

/-! Traffic, recalls and combines -/

theorem homeSide_homeTraffic (s : State) (cl vd vc : Nat) (l : Leaf) (a n : Nat) : HomeSide s (s.homeTraffic cl vd vc l a n) := by
  unfold State.homeTraffic
  split
  · exact .refl s
  · exact homeSide_foldl (fun s b => homeSide_sendBulk ..) _ _

theorem homeSide_clusterTraffic (s : State) (cl vd vc : Nat) (l : Leaf) (a n : Nat) :
    HomeSide s (s.clusterTraffic cl vd vc l a n) := by
  unfold State.clusterTraffic
  split
  · exact .refl s
  · exact homeSide_foldl (fun s b => homeSide_sendBulk ..) _ _

theorem homeSide_stackTraffic (s : State) (h vd : Nat) (l : Leaf) (a n : Nat) : HomeSide s (s.stackTraffic h vd l a n) :=
  homeSide_foldl (fun _ _ => homeSide_sendBulk ..) _ _

theorem homeSide_unkeepAt (s : State) (cl : Nat) (sp : ASpace) (a n : Nat) : HomeSide s (s.unkeepAt cl sp a n) :=
  homeSide_unkeepAll ..

theorem homeSide_unkeep (s : State) (cl : Nat) (f : HReq → Bool) : HomeSide s (s.unkeep cl f) := homeSide_unkeepAll ..

theorem homeSide_recallTraffic (s : State) (o : Owner) : HomeSide s (s.recallTraffic o) := by
  unfold State.recallTraffic
  split
  · exact homeSide_cohTo ..
  · exact .refl s

theorem homeSide_sendHome (s : State) (cl : Nat) (e : CExt) : HomeSide s (s.sendHome cl e) :=
  ((homeSide_homeTraffic ..).trans (homeSide_homeWrite ..)).trans (homeSide_unkeepAt ..)

theorem homeSide_combineWord (s : State) (c : Combine) : HomeSide s (s.combineWord c) :=
  ((homeSide_unlistWord ..).trans (homeSide_cohTo ..)).trans (homeSide_foldl (fun _ _ => homeSide_homeWrite ..) _ _)

theorem homeSide_settle (s : State) (cl : Nat) (sp : ASpace) (l : Leaf) (a n fuel : Nat) :
    HomeSide s (s.settle cl sp l a n fuel) := by
  induction fuel generalizing s cl sp l a n with
  | zero => exact .refl s
  | succ fuel ih =>
    rw [State.settle]
    split
    · exact (((homeSide_recallTraffic ..).trans (homeSide_unown ..)).trans (homeSide_foldl (fun s e =>
        ((ih ..).trans (homeSide_sendHome ..)).trans (homeSide_cleaned ..)) _ _)).trans (ih ..)
    · split
      · exact (homeSide_combineWord ..).trans (ih ..)
      · exact .refl s

theorem homeSide_recall (s : State) (o : Owner) : HomeSide s (s.recall o) :=
  ((homeSide_recallTraffic ..).trans (homeSide_unown ..)).trans (homeSide_foldl (fun _ _ =>
    ((homeSide_settle ..).trans (homeSide_sendHome ..)).trans (homeSide_cleaned ..)) _ _)

/-! Write-through and eviction (R92, R94) -/

theorem homeSide_throughC (s : State) (cl : Nat) (e : CExt) : HomeSide s (s.throughC cl e) :=
  (homeSide_settle ..).trans (homeSide_sendHome ..)

theorem homeSide_combineExt (s : State) (cl : Nat) (e : CExt) : HomeSide s (s.combineExt cl e) :=
  homeSide_foldl (fun _ _ => homeSide_combineWord ..) _ _

theorem homeSide_payC (s : State) (cl : Nat) (e : CExt) : HomeSide s (s.payC cl e) := by
  unfold State.payC
  split
  · exact .refl s
  · exact homeSide_throughC ..
  · exact homeSide_combineExt ..

theorem homeSide_evictC (s : State) (cl : Nat) (e : CExt) : HomeSide s (s.evictC cl e) :=
  (homeSide_payC ..).trans (homeSide_setCache (fewerD_of_subset fun _ h => List.mem_of_mem_erase h))

theorem homeSide_fitC (s : State) (cl new fuel : Nat) : HomeSide s (s.fitC cl new fuel) := by
  induction fuel generalizing s with
  | zero => exact homeSide_lacks ..
  | succ fuel ih =>
    rw [State.fitC]
    split
    · split
      · split
        · exact homeSide_lacks ..
        · exact (homeSide_evictC ..).trans (ih _)
      · exact homeSide_lacks ..
    · split
      · exact .refl s
      · split
        · split
          · exact homeSide_lacks ..
          · refine HomeSide.trans ?_ ((homeSide_evictC ..).trans (ih _))
            exact homeSide_setCluster (.refl _)
        · exact homeSide_lacks ..

theorem homeSide_refit (s : State) : HomeSide s s.refit := by
  refine homeSide_foldl (fun s k => ?_) _ _
  simp only
  split
  · split
    · exact .refl s
    · exact homeSide_fitC ..
  · exact .refl s

theorem homeSide_throughCleaned (s : State) (cl : Nat) (e : CExt) : HomeSide s ((s.throughC cl e).cleaned cl e) :=
  (homeSide_throughC ..).trans (homeSide_cleaned ..)

theorem homeSide_payOwed (s : State) (cl : Nat) (sp : ASpace) (a n : Nat) : HomeSide s (s.payOwed cl sp a n) := by
  refine homeSide_foldl (fun s e => ?_) _ _
  simp only
  split
  · exact homeSide_lacks ..
  · exact homeSide_throughCleaned ..

theorem cacheSide_putC (s : State) (cl : Nat) (e : CExt) : CacheSide s (s.putC cl e) := by
  unfold State.putC
  split
  · exact .refl s
  · exact (((homeSide_payOwed ..).trans (homeSide_fresh _)).toCacheSide.trans (cacheSide_setCache ..)).trans
      (homeSide_fitC ..).toCacheSide

theorem cacheSide_putRun (s : State) (cl : Nat) (sp : ASpace) (l : Leaf) (vd : Nat) (st : CState) (fuel a : Nat)
    (data : List PByte) : CacheSide s (s.putRun cl sp l vd st fuel a data) := by
  induction fuel generalizing s a data with
  | zero => exact .refl s
  | succ fuel ih =>
    unfold State.putRun
    exact (cacheSide_putC ..).trans (ih ..)

theorem cacheSide_touchC (s : State) (cl : Nat) (sp : ASpace) (a n : Nat) : CacheSide s (s.touchC cl sp a n) :=
  (homeSide_fresh s).toCacheSide.trans (cacheSide_setCache ..)

theorem homeSide_combineOwn (s : State) (cl : Nat) (sp : ASpace) (a n : Nat) : HomeSide s (s.combineOwn cl sp a n) :=
  homeSide_foldl (fun _ _ => homeSide_evictC ..) _ _

theorem homeSide_throughRange (s : State) (cl : Nat) (sp : ASpace) (a n : Nat) : HomeSide s (s.throughRange cl sp a n) :=
  homeSide_foldl (fun _ _ => (homeSide_throughCleaned ..).trans (homeSide_fitC ..)) _ _

theorem homeSide_dropC (s : State) (cl : Nat) (sp : ASpace) (a n : Nat) : HomeSide s (s.dropC cl sp a n) :=
  (homeSide_setCache fun _ _ o _ _ _ hd => ⟨o, .inr rfl, (hasD_carveC hd).1⟩).trans (homeSide_fitC ..)

theorem homeSide_dropClean (s : State) (cl : Nat) (sp : ASpace) (a n : Nat) : HomeSide s (s.dropClean cl sp a n) :=
  (homeSide_setCache (fewerD_flatMap_cut _ _ _ _)).trans (homeSide_fitC ..)

theorem homeSide_throughAll (s : State) (cl : Nat) (p : CExt → Bool) : HomeSide s (s.throughAll cl p) :=
  homeSide_foldl (fun _ _ => homeSide_throughCleaned ..) _ _

theorem homeSide_dropAll (s : State) (cl : Nat) (p : CExt → Bool) : HomeSide s (s.dropAll cl p) :=
  homeSide_setCache (fewerD_of_subset fun _ h => List.mem_of_mem_filter h)

theorem homeSide_supersede (s : State) (cl : Nat) (sp : ASpace) (l : Leaf) (a n : Nat) : HomeSide s (s.supersede cl sp l a n) := by
  unfold State.supersede
  split
  · exact .refl s
  · extract_lets lo home old s1
    have h1 : HomeSide s s1 := by
      refine homeSide_foldl (fun s w => ?_) _ _
      split
      · exact homeSide_dropClean ..
      · exact .refl s
    exact h1.trans (homeSide_of rfl rfl rfl rfl rfl)

theorem cacheSide_patchOwn (s : State) (cl : Nat) (sp : ASpace) (a : Nat) (data : List PByte) :
    CacheSide s (s.patchOwn cl sp a data) := (cacheSide_setCache ..).trans (homeSide_unkeepAt ..).toCacheSide

/-! Accesses made whole at their homes -/

theorem homeSide_readHomes (s : State) (cl : Nat) (sp : ASpace) (l : Leaf) (a n vd : Nat) :
    HomeSide s (s.readHomes cl sp l a n vd).2 := (homeSide_settle ..).trans (homeSide_fillRange ..)

theorem cacheSide_writeHomes (s : State) (cl : Nat) (sp : ASpace) (l : Leaf) (vd a : Nat) (data : List PByte) :
    CacheSide s (s.writeHomes cl sp l vd a data) := by
  unfold State.writeHomes
  extract_lets s1 s2
  have h1 : HomeSide s s1 := homeSide_settle ..
  split
  · have h2 : HomeSide s1 s2 := (homeSide_trimFrom ..).trans (homeSide_homeWrite ..)
    split
    · exact (h1.trans h2).toCacheSide
    · exact (h1.trans h2).toCacheSide.trans (cacheSide_patchOwn ..)
  · exact (h1.trans ((homeSide_homeWrite ..).trans (homeSide_unkeepAt ..))).toCacheSide

theorem homeSide_staleOut (s : State) (cl : Nat) (sp : ASpace) (l : Leaf) (a n : Nat) : HomeSide s (s.staleOut cl sp l a n) := by
  unfold State.staleOut
  split
  · exact .refl s
  · exact (homeSide_dropClean ..).trans (homeSide_unkeepAt ..)

theorem cacheSide_physStore (s : State) (pa : Nat) (data : List PByte) : CacheSide s (s.physStore pa data) :=
  cacheSide_writeHomes ..

theorem cacheSide_refresh (s : State) (cl : Nat) (sp : ASpace) (l : Leaf) (a : Nat) (data : List PByte) (held : List CExt) :
    CacheSide s (s.refresh cl sp l a data held) := by
  refine cacheSide_foldl (fun s e => ?_) _ _
  simp only
  split
  · exact (cacheSide_putC ..).trans (cacheSide_foldl (fun s y => (homeSide_share ..).toCacheSide) _ _)
  · exact cacheSide_putC ..

theorem cacheSide_portStore (s : State) (cl vd : Nat) (sp : ASpace) (l : Leaf) (a : Nat) (data : List PByte)
    (stack : Option Nat) : CacheSide s (s.portStore cl vd sp l a data stack) := by
  unfold State.portStore
  extract_lets s1 s2 held s3
  have h1 : HomeSide s s1 := homeSide_combineOwn ..
  have h2 : HomeSide s1 s2 := by
    simp only [s2]
    split
    · exact homeSide_homeTraffic ..
    · exact homeSide_stackTraffic ..
  have h3 : HomeSide s2 s3 := homeSide_dropC ..
  exact ((h1.trans (h2.trans h3)).toCacheSide.trans (cacheSide_writeHomes ..)).trans (cacheSide_refresh ..)

end Sys2Proof.Safety
end

section
/-! SUPPORT. Release, acquire, fence and FLUSHP (O31). -/

namespace Sys2Proof.Safety

open Sys2Proof.Machine

/-! What a release leaves of a strand's bytes (R118, R120) -/

/-- A D byte of a strand that a scope's release writes through: on a release page in its scope, or owed. -/
def RelByte (c : Nat) (sc : Scope) (o : Option (ASpace × Nat)) (k : PKind) (h : Nat) : Prop :=
  (k = .release ∧ scopeCovers sc (dieOf c) h = true) ∨ o.isSome = true

theorem relAll_of_relByte {c p : Nat} {sc : Scope} (hs : scopeActs sc = true) {e : CExt} {o : Option (ASpace × Nat)}
    (he : e.st = .d (slotOf c p) o) (h : RelByte c sc o e.leaf.kind e.leaf.home) : relAll c p sc e = true := by
  unfold relAll relSelects owedSelects
  rw [he, hs]
  rcases h with ⟨hk, hc⟩ | ho
  · simp [hk, hc]
  · simp [ho]

/-- The bytes that a release still has to write through lie in the extents that it has not reached. -/
def RelLeft (c p : Nat) (sc : Scope) (es : List CExt) (l : List CExt) : Prop :=
  ∀ sp o k h a, HasD l sp (slotOf c p) o k h a → RelByte c sc o k h →
    ∃ e ∈ es, e.sp = sp ∧ e.start ≤ a ∧ a < e.start + e.data.length

theorem relLeft_cleaned {c p : Nat} {sc : Scope} {e : CExt} {es l m : List CExt} (h : RelLeft c p sc (e :: es) l)
    (hm : FewerD l m) : RelLeft c p sc es (addC (carveC m e.sp e.start e.data.length) { e with st := .c }) := by
  intro sp o k hm' a hd hr
  obtain ⟨hd, hout⟩ := hasD_cleaned hd
  obtain ⟨o', ho, hd⟩ := hm sp _ o k hm' a hd
  have hr' : RelByte c sc o' k hm' := by
    rcases hr with hr | hr
    · exact .inl hr
    · rcases ho with rfl | rfl
      · exact nomatch hr
      · exact .inr hr
  obtain ⟨x, hx, hsp, h1, h2⟩ := h sp o' k hm' a hd hr'
  rcases List.mem_cons.mp hx with rfl | hx
  · exact absurd ⟨hsp.symm, h1, h2⟩ hout
  · exact ⟨x, hx, hsp, h1, h2⟩

theorem cluster_setCache (s : State) (cl : Nat) (l : List CExt) : ((s.setCache cl l).cluster cl).cache = l := by
  rw [State.setCache, cluster_setCluster_eq, if_pos rfl]

theorem cluster_cleaned (s : State) (cl : Nat) (e : CExt) : ((s.cleaned cl e).cluster cl).cache =
    addC (carveC (s.cluster cl).cache e.sp e.start e.data.length) { e with st := .c } := cluster_setCache ..

theorem relLeft_foldl {c p : Nat} {sc : Scope} (es : List CExt) (s : State)
    (h : RelLeft c p sc es (s.cluster (clusterOf c)).cache) :
    RelLeft c p sc [] ((es.foldl (fun s e => (s.throughC (clusterOf c) e).cleaned (clusterOf c) e) s).cluster
      (clusterOf c)).cache := by
  induction es generalizing s with
  | nil => exact h
  | cons e es ih =>
    refine ih _ ?_
    rw [cluster_cleaned]
    exact relLeft_cleaned h ((homeSide_throughC ..).dirty _)

theorem relLeft_release (s : State) (c p : Nat) {sc : Scope} (hs : scopeActs sc = true) :
    RelLeft c p sc [] ((s.release c p sc).cluster (clusterOf c)).cache := by
  rw [State.release, if_pos hs]
  have h : RelLeft c p sc [] ((s.throughAll (clusterOf c) (relAll c p sc)).cluster (clusterOf c)).cache := by
    refine relLeft_foldl _ s ?_
    rintro sp o k h a ⟨e, he, hst, hsp, rfl, rfl, h1, h2⟩ hr
    refine ⟨e, List.mem_filter.mpr ⟨he, ?_⟩, hsp, h1, h2⟩
    rw [hst]
    exact relAll_of_relByte hs hst hr
  intro sp o k hm a hd hr
  obtain ⟨o', ho, hd⟩ := (homeSide_unown _ c p).dirty _ sp _ o k hm a hd
  refine h sp o' k hm a hd ?_
  rcases hr with hr | hr
  · exact .inl hr
  · rcases ho with rfl | rfl
    · exact nomatch hr
    · exact .inr hr

theorem release_bytes (s : State) (c p : Nat) {sc : Scope} (hs : scopeActs sc = true) {e : CExt}
    (he : e ∈ ((s.release c p sc).cluster (clusterOf c)).cache) (hne : e.data ≠ []) {o : Option (ASpace × Nat)}
    (hst : e.st = .d (slotOf c p) o) :
    (e.leaf.kind = .release → scopeCovers sc (dieOf c) e.leaf.home = false) ∧ o = none := by
  have hlen := List.length_pos_iff.mpr hne
  have hnot : ¬ RelByte c sc o e.leaf.kind e.leaf.home := fun hr => by
    obtain ⟨x, hx, -⟩ := relLeft_release s c p hs e.sp o e.leaf.kind e.leaf.home e.start
      ⟨e, he, hst, rfl, rfl, rfl, le_rfl, by omega⟩ hr
    exact nomatch hx
  refine ⟨fun hk => ?_, ?_⟩
  · cases hc : scopeCovers sc (dieOf c) e.leaf.home
    · rfl
    · exact absurd (.inl ⟨hk, hc⟩) hnot
  · cases o with
    | none => rfl
    | some w => exact absurd (.inr rfl) hnot

theorem acquire_cache (s : State) (c : Nat) {sc : Scope} (hs : scopeActs sc = true) :
    ((s.acquire c sc).cluster (clusterOf c)).cache = (s.cluster (clusterOf c)).cache.filter fun e =>
      !(e.st = .c && (e.leaf.kind = .release && e.leaf.write && scopeCovers sc (dieOf c) e.leaf.home)) := by
  rw [State.acquire, if_pos hs]
  exact cluster_setCache ..

/-! The parties and clusters under a release, an acquire and a fence -/

theorem homeSide_release (s : State) (c p : Nat) (sc : Scope) : HomeSide s (s.release c p sc) := by
  unfold State.release
  split
  · exact (homeSide_throughAll ..).trans (homeSide_unown ..)
  · exact .refl s

theorem homeSide_releaseAll (s : State) (c p : Nat) : HomeSide s (s.releaseAll c p) :=
  (homeSide_throughAll ..).trans (homeSide_unown ..)

theorem homeSide_acquire (s : State) (c : Nat) (sc : Scope) : HomeSide s (s.acquire c sc) := by
  unfold State.acquire
  split
  · exact (homeSide_dropAll ..).trans (homeSide_unkeep ..)
  · exact .refl s

theorem homeSide_fenceActs (s : State) (c p : Nat) (sc : Scope) : HomeSide s (s.fenceActs c p sc) := by
  unfold State.fenceActs
  split
  · exact ((((homeSide_throughAll ..).trans (homeSide_release ..)).trans (homeSide_dropAll ..)).trans
      (homeSide_unkeep ..)).trans (homeSide_acquire ..)
  · exact .refl s

/-! Forms without operands -/

theorem orderZ_clear {s : State} {g : Guard} (h : Clear s g {}) (act : State → State) : s.orderZ g act = act s := by
  rw [State.orderZ, issue_ok (x := ()) h rfl, holdChans_none rfl]

/-- An operation of the issuing party has started: nothing of it is done yet. -/
theorem inFlight_start (b : State) (u : Use) (act : GAct) (a n : Nat) (data : List PByte) :
    InFlight b (((b.newOp u act a n data).2.setOp b.cur.core b.cur.pos (some (b.newOp u act a n data).1)).park
      b.cur.core b.cur.pos (waitSt act) .reply) u act a n data := by
  let s1 : State := { b with nextId := b.nextId + 1 }
  let o := (b.newOp u act a n data).1
  obtain ⟨k1, k2, k3, k4⟩ := setOp_spec s1 b.cur.core b.cur.pos (some o)
  have hp := parked_park (s1.setOp b.cur.core b.cur.pos (some o)) b.cur.core b.cur.pos (waitSt act) .reply
  refine ⟨k1.trans hp.own, (regsOf_park ..).trans (k3 _ _), fun e q => (hp.chans e q).trans (by rw [k4]; rfl), hp.st, hp.wait, o,
    (opOf_park ..).trans k2, rfl, rfl, rfl, rfl, rfl, rfl, rfl, rfl, rfl, rfl, rfl, rfl, ?_⟩
  simp only [o, State.newOp, Bool.and_eq_true, decide_eq_true_eq]
  rfl

theorem inFlight_startPlain (b : State) (u : Use) {act : GAct} (h : waitSt act = .waitMem) :
    InFlight b (b.startPlain u act) u act 0 0 [] := by
  have k := inFlight_start b u act 0 0 []
  rw [h] at k
  exact k

theorem actsAndWaits_of {i : Instr} {s b : State} {u : Use} (hc : b.cur = s.cur) (he : exec i s = .next (b.actAndWait u)) :
    ActsAndWaits i s b u :=
  ⟨_, inFlight_startPlain b u rfl, hc ▸ he⟩

/-- FENCE and REL: what comes before they act. -/
theorem ordering_chain {i : Instr} {g : Guard} {s : State} (h : Clear s g {}) {act : State → State} {sc : Scope} {blocked : Bool}
    {short : Option Nat} {b : State} (hi : exec i s = .next (s.orderZ g act))
    (ha : act s = if s.curEntries then s.parkLog else if scopeActs sc && blocked then s.parkRegion
      else match (generalizing := false) short with
        | some k => s.takeTrap (tOver k)
        | none => b.actAndWait {}) (hc : b.cur = s.cur) {acts : Bool} (hacts : acts = scopeActs sc) :
    if s.hasEntries s.cur.core s.cur.pos then Waits i s .waitMem .sidelog
    else if acts ∧ blocked then Waits i s .waitMem .region
    else match (generalizing := false) short with
      | some n => Traps i s { cause := 0x0D, info := n % 96 + n / 96 * 256 }
      | none => ActsAndWaits i s b {} := by
  have hx : exec i s = .next (act s) := hi.trans (congrArg _ (orderZ_clear h act))
  rw [ha] at hx
  split
  · next hl => exact ⟨_, hx.trans (congrArg _ (if_pos hl)), parked_park ..⟩
  · next hl =>
    replace hx := hx.trans (congrArg _ (if_neg hl))
    split
    · next hb =>
      exact ⟨_, hx.trans (congrArg _ (if_pos (by rw [← hacts, hb.1, hb.2]; rfl))), parked_park ..⟩
    · next hb =>
      replace hx := hx.trans (congrArg _ (if_neg (by rw [← hacts]; simpa using hb)))
      cases short with
      | some n => exact traps_takeTrap hx
      | none => exact actsAndWaits_of hc hx

/-! FLUSHP (R126, R300) -/

theorem SameParties.opOf {s t : State} (h : SameParties s t) (c p : Nat) : t.opOf c p = s.opOf c p := by
  simp only [State.opOf, h.strand, h.porter]

theorem sameParties_setCluster (s : State) (k : Nat) (x : Cluster) : SameParties s (s.setCluster k x) :=
  sameParties_of_cores rfl rfl

theorem opOf_modOp {s : State} {c p : Nat} {o : Op} (h : s.opOf c p = some o) (f : Op → Op) :
    (s.modOp c p f).opOf c p = some (f o) := by
  unfold State.modOp
  rw [h]
  exact (setOp_spec s c p _).2.1

theorem cluster_modOp (s : State) (c p k : Nat) (f : Op → Op) : (s.modOp c p f).cluster k = s.cluster k := by
  unfold State.modOp
  split
  · unfold State.setOp
    split <;> rfl
  · rfl

/-- The probes of a cluster's routes go out, and the routes are forgotten. -/
theorem flushNow_eq {s : State} {o : Op} (ho : (s.startPlain {} .flushp).opOf s.cur.core s.cur.pos = some o)
    (hr : ((s.startPlain {} .flushp).cluster (clusterOf s.cur.core)).routes ≠ []) :
    ∃ t, SameParties (s.startPlain {} .flushp) t ∧ s.flushNow =
      (t.setCluster (clusterOf s.cur.core) { t.cluster (clusterOf s.cur.core) with routes := [] }).expect s.cur.core s.cur.pos
        (3 * ((s.startPlain {} .flushp).cluster (clusterOf s.cur.core)).routes.length) := by
  unfold State.flushNow
  simp only [ho, List.isEmpty_iff, hr, if_false]
  exact ⟨_, sameParties_foldl (fun t r => sameParties_foldl (fun t vc => sameParties_send ..) _ _) _ _, rfl⟩

theorem flushNow_local {s : State} {o : Op} (ho : (s.startPlain {} .flushp).opOf s.cur.core s.cur.pos = some o)
    (hr : ((s.startPlain {} .flushp).cluster (clusterOf s.cur.core)).routes = []) :
    s.flushNow = (s.startPlain {} .flushp).ackLocal s.cur.core s.cur.pos 0 := by
  unfold State.flushNow
  simp only [ho, hr, List.isEmpty_nil, if_true]

theorem clusters_startPlain (s : State) (u : Use) (act : GAct) (h : waitSt act = .waitMem) :
    (s.startPlain u act).clusters = s.clusters := by
  have k := congrArg State.clusters (inFlight_startPlain s u h).own.rest
  exact k

theorem flushp_probes {s : State} {g : Guard} {sc : Scope} (h : Clear s g {}) :
    ∃ t, exec (.flushp g sc) s = .next t ∧
      if (s.cluster (clusterOf s.cur.core)).routes = [] then t = (s.startPlain {} .flushp).ackLocal s.cur.core s.cur.pos 0
      else (t.cluster (clusterOf s.cur.core)).routes = [] ∧ ∃ o, t.opOf s.cur.core s.cur.pos = some o ∧
        o.left = 3 * (s.cluster (clusterOf s.cur.core)).routes.length := by
  obtain ⟨o, ho, -, -, -, -, -, -, -, hl, -⟩ := (inFlight_startPlain s {} (act := .flushp) rfl).op
  have hk : (s.startPlain {} .flushp).cluster (clusterOf s.cur.core) = s.cluster (clusterOf s.cur.core) :=
    congrArg (fun l => mapGet Cluster.init l (clusterOf s.cur.core)) (clusters_startPlain s {} .flushp rfl)
  refine ⟨s.flushNow, congrArg _ (orderZ_clear h _), ?_⟩
  rw [← hk]
  split
  · next hr => exact flushNow_local ho hr
  · next hr =>
    obtain ⟨t, ht, he⟩ := flushNow_eq ho hr
    rw [he]
    refine ⟨?_, _, opOf_modOp (((ht.trans (sameParties_setCluster ..)).opOf ..).trans ho) _, ?_⟩
    · rw [State.expect, cluster_modOp, cluster_setCluster_eq, if_pos rfl]
    · show o.left + _ = _
      rw [hl, Nat.zero_add]

/-- Settles O31: the release's fold leaves no selected byte outside the extents that it has still to reach. -/
theorem orderingForms : Obligations.OrderingForms := by
  refine ⟨fun s g sc h _ => ?_, fun s c p sc => ?_⟩
  · intro c p logged acts lacks
    have hacts : acts = scopeActs sc := by cases sc <;> rfl
    refine ⟨ordering_chain h rfl rfl (homeSide_fenceActs ..).cur hacts, ordering_chain h rfl rfl (homeSide_release ..).cur hacts,
      actsAndWaits_of (homeSide_acquire ..).cur (congrArg _ (orderZ_clear h _)), _, inFlight_startPlain s {} rfl,
      flushp_probes h⟩
  · intro covers mine
    refine ⟨?_, fun h1 h2 => ?_⟩
    · rintro (rfl | rfl) <;> exact ⟨rfl, rfl, rfl⟩
    · have hs : scopeActs sc = true := by cases sc <;> first | rfl | exact absurd rfl h1 | exact absurd rfl h2
      have hc (e : CExt) : covers e = scopeCovers sc (dieOf c) e.leaf.home := by
        cases sc <;> simp [covers, scopeCovers, eq_comm]
      refine ⟨fun e he hne hm => ?_, ?_⟩
      · obtain ⟨o, ho⟩ := hm
        obtain ⟨k1, k2⟩ := release_bytes s c p hs he hne ho
        exact ⟨fun hk => (hc e).trans (k1 hk), k2 ▸ ho⟩
      · rw [acquire_cache s c hs]
        refine List.filter_congr fun e _ => ?_
        rw [hc]
        simp only [Bool.and_assoc]

end Sys2Proof.Safety
end

section
/-! SUPPORT. Messages and remote accesses (O32). -/

namespace Sys2Proof.Safety

open Sys2Proof.Machine

/-! Taking the words of the sources does not bear on what is sent -/

theorem SameParties.tagOf {s t : State} (h : SameParties s t) (c p : Nat) : t.tagOf c p = s.tagOf c p := by
  simp only [State.tagOf, h.strand, h.porter]

theorem SameParties.gtiOf {s t : State} (h : SameParties s t) (c p : Nat) : t.gtiOf c p = s.gtiOf c p := by
  simp only [State.gtiOf, h.strand, h.porter]

theorem SameParties.isLandlord {s t : State} (h : SameParties s t) (c p : Nat) : t.isLandlord c p = s.isLandlord c p := by
  simp only [State.isLandlord, h.porter]

theorem SameParties.vdOf {s t : State} (h : SameParties s t) (hk : ∀ k i, t.ctx k i = s.ctx k i) (c p : Nat) :
    t.vdOf c p = s.vdOf c p := by
  simp only [State.vdOf, h.isLandlord, h.tagOf, hk]

theorem SameParties.curVd {s t : State} (h : SameParties s t) (hk : ∀ k i, t.ctx k i = s.ctx k i) : t.curVd = s.curVd := by
  simp only [State.curVd, State.level, State.isPorter, State.curCtx, State.curCluster, State.tag, h.cur, h.strand, h.porter, hk]
  rfl

theorem SameParties.curCtx {s t : State} (h : SameParties s t) (hk : ∀ k i, t.ctx k i = s.ctx k i) : t.curCtx = s.curCtx := by
  simp only [State.isPorter, State.curCtx, State.curCluster, State.tag, h.cur, h.strand, h.porter, hk]
  rfl

/-- Taking words changes the cores alone. -/
theorem chTake_rest (s : State) (c vd : Nat) (l : List (Nat × Nat)) :
    s.chTake c vd l = { s with cores := (s.chTake c vd l).cores } := by
  induction l generalizing s with
  | nil => rfl
  | cons e t ih => exact (ih _).trans rfl

theorem chTake_cores {s t : State} (h : t.cores = s.cores) (c vd : Nat) (l : List (Nat × Nat)) :
    (t.chTake c vd l).cores = (s.chTake c vd l).cores := by
  induction l generalizing s t with
  | nil => exact h
  | cons e r ih =>
    refine ih ?_
    have hk : t.core c = s.core c := by rw [State.core, State.core, h]
    show mapPut t.cores c _ = mapPut s.cores c _
    rw [hk, h]

theorem sameParties_chTake (s : State) (c vd : Nat) (l : List (Nat × Nat)) : SameParties s (s.chTake c vd l) :=
  sameParties_foldl (fun s (e : Nat × Nat) => sameParties_setCore s c (k := { s.core c with
    chans := mapPut (s.core c).chans e.1 (dropWords vd e.2 (mapGet [] (s.core c).chans e.1)) }) rfl rfl) _ _

theorem ctx_chTake (s : State) (c vd : Nat) (l : List (Nat × Nat)) (k i : Nat) : (s.chTake c vd l).ctx k i = s.ctx k i := by
  rw [chTake_rest]
  rfl

theorem send_cores (s : State) (k : SMap Core) (sdie sstop ddie dstop vc vd : Nat) (gti : BitVec 32) (cl : Nat) (m : Msg) :
    ({ s with cores := k } : State).send sdie sstop ddie dstop vc vd gti cl m =
      { s.send sdie sstop ddie dstop vc vd gti cl m with cores := k } := by
  unfold State.send State.setCluster State.cluster
  generalize (if sdie = 8 && ddie ≠ 8 then (nextDie 8 ddie, 615) else (sdie, sstop)) = q
  obtain ⟨d, src⟩ := q
  dsimp only
  cases vcOrdered vc
  · rfl
  · simp only [if_true]
    generalize (decide (sstop < 512) && !(mapGet Cluster.init s.clusters cl).routes.contains (ddie, dstop)) = r
    cases r <;> rfl

theorem ctx_send (s : State) (sdie sstop ddie dstop vc vd : Nat) (gti : BitVec 32) (cl : Nat) (m : Msg) (k i : Nat) :
    (s.send sdie sstop ddie dstop vc vd gti cl m).ctx k i = s.ctx k i := by
  unfold State.send
  generalize (if sdie = 8 && ddie ≠ 8 then (nextDie 8 ddie, 615) else (sdie, sstop)) = q
  obtain ⟨d, src⟩ := q
  dsimp only
  generalize (if m.bodies = 0 then s.nextId else s.nextId + m.bodies + 1) = last
  split
  · split
    · rw [State.ctx, cluster_setCluster_eq]
      split
      · next h => subst h; rfl
      · rfl
    · rfl
  · rfl

theorem sendMsg_eq (s : State) (dest : Nat) (m : Msg) : s.sendMsg dest m = s.send (dieOfCluster (clusterOf s.cur.core))
    (stopOfCluster (clusterOf s.cur.core)) (dieOf dest) (stopOfCluster (clusterOf dest)) vcMSG (s.vdOf s.cur.core s.cur.pos)
    (s.gtiOf s.cur.core s.cur.pos) (clusterOf s.cur.core) m := rfl

theorem sameParties_sendMsg (s : State) (dest : Nat) (m : Msg) : SameParties s (s.sendMsg dest m) := by
  rw [sendMsg_eq]
  exact sameParties_send ..

theorem ctx_sendMsg (s : State) (dest : Nat) (m : Msg) (k i : Nat) : (s.sendMsg dest m).ctx k i = s.ctx k i := by
  rw [sendMsg_eq, ctx_send]

theorem cores_sendMsg (s : State) (dest : Nat) (m : Msg) : (s.sendMsg dest m).cores = s.cores := by
  rw [sendMsg_eq]
  obtain ⟨i, net, ks, h⟩ := send_eq s (dieOfCluster (clusterOf s.cur.core)) (stopOfCluster (clusterOf s.cur.core)) (dieOf dest)
    (stopOfCluster (clusterOf dest)) vcMSG (s.vdOf s.cur.core s.cur.pos) (s.gtiOf s.cur.core s.cur.pos) (clusterOf s.cur.core) m
  rw [h]

theorem sendMsg_takeSrcs (s : State) (u : Use) (dest : Nat) (m : Msg) :
    (s.takeSrcs u).sendMsg dest m = (s.sendMsg dest m).takeSrcs u := by
  have same : SameParties s (s.takeSrcs u) := sameParties_chTake ..
  have hk (k i : Nat) : (s.takeSrcs u).ctx k i = s.ctx k i := ctx_chTake ..
  have h1 : (s.takeSrcs u).sendMsg dest m = { s.sendMsg dest m with cores := (s.takeSrcs u).cores } := by
    rw [sendMsg_eq, sendMsg_eq, same.cur, same.vdOf hk, same.gtiOf, State.takeSrcs, chTake_rest, send_cores]
  have hs : SameParties s (s.sendMsg dest m) := sameParties_sendMsg ..
  have hv : (s.sendMsg dest m).curVd = s.curVd := hs.curVd fun k i => ctx_sendMsg ..
  rw [h1, State.takeSrcs, State.takeSrcs, hv, hs.cur, chTake_rest (s.sendMsg dest m), chTake_cores (cores_sendMsg ..)]

section
variable {s : State} {g : Guard} {d a b : SOp}

theorem fxAmsg_eq (v : View) : fxAmsg d a b v =
    if ((v.s v.a a).p || (v.s v.b b).p || (v.s v.d d).p) = true then
      .error (tPoison (firstPoison (v.s v.a a).p (v.s v.b b).p (v.s v.d d).p))
    else .ok (destCore (v.s v.d d).v, (v.s v.a a).v, (v.s v.b b).v) := by
  unfold fxAmsg needClean
  dsimp only
  split
  · rfl
  · rfl

theorem destCore_eq (x : Word) : destCore x = x.toNat % 2 ^ 16 := by
  simp [destCore]

theorem poisoned_none {a b d : Bool} (h : poisoned a b d = none) : (a || b || d) = false := by
  cases a <;> cases b <;> cases d <;> simp_all [poisoned]

theorem traps_poison {α : Type} {i : Instr} {f : Form} {fx : View → Except TrapInfo α} {act : State → α → State} {k : Nat}
    (h : Clear s g f) (he : exec i s = .next (s.issue g f fx act)) (hx : fx (s.view f.use) = .error (tPoison k)) :
    Traps i s { cause := 0x09, sub := k } :=
  traps_takeTrap (he.trans (congrArg _ (issue_error h hx _)))

/-- AMSG: the message goes out with what its operands give, and the instruction retires. -/
theorem amsg_forms (hidx : BitVec 8) (h : Clear s g (formAmsg d a b)) :
    let c := s.cur.core
    let p := s.cur.pos
    let u := (formAmsg d a b).use
    let v := s.view u
    let x := v.s v.a a
    let y := v.s v.b b
    let z := v.s v.d d
    let dest := z.v.toNat % 2 ^ 16
    match poisoned x.p y.p z.p with
    | some k => Traps (.amsg g d a b hidx) s { cause := 0x09, sub := k }
    | none =>
      if s.entryFree (dieOf c) (stopOfCluster (clusterOf c)) vcMSG = false then
        Waits (.amsg g d a b hidx) s .waitMem .flit
      else RetiresFrom (.amsg g d a b hidx) s
        (s.sendMsg dest (.amsg dest hidx.toNat x.v y.v (BitVec.ofNat 64 (locWord c p)) s.curCtx.img)) u [] := by
  intro c p u v x y z dest
  have hx : fxAmsg d a b v = _ := fxAmsg_eq v
  split
  · next k hk =>
    obtain ⟨k1, k2⟩ := firstPoison_of_poisoned hk
    rw [k1, if_pos rfl, k2] at hx
    exact traps_poison h rfl hx
  · next hk =>
    rw [poisoned_none hk, if_neg Bool.false_ne_true, destCore_eq] at hx
    have he : exec (.amsg g d a b hidx) s = .next (s.issue g (formAmsg d a b) (fxAmsg d a b) _) := rfl
    rw [issue_ok h hx] at he
    split
    · next hf =>
      rw [show s.entryFree (dieOf s.cur.core) (stopOfCluster s.curCluster) vcMSG = false from hf, Bool.not_false, if_pos rfl] at he
      exact ⟨_, he, Parked.holdChans (parked_park ..) _⟩
    · next hf =>
      have hf' : s.entryFree (dieOf s.cur.core) (stopOfCluster s.curCluster) vcMSG = true := Bool.eq_true_of_not_eq_false hf
      rw [hf', Bool.not_true, if_neg Bool.false_ne_true] at he
      have same : SameParties s (s.takeSrcs u) := sameParties_chTake ..
      have hloc : BitVec.ofNat 64 (locWord (s.takeSrcs u).cur.core (s.takeSrcs u).cur.pos) = BitVec.ofNat 64 (locWord c p) := by
        rw [same.cur]
      have himg : (s.takeSrcs u).curCtx = s.curCtx := same.curCtx fun k i => ctx_chTake ..
      have hb := sameParties_sendMsg s dest (.amsg dest hidx.toNat x.v y.v (BitVec.ofNat 64 (locWord c p)) s.curCtx.img)
      have k := settled_retire (s.sendMsg dest (.amsg dest hidx.toNat x.v y.v (BitVec.ofNat 64 (locWord c p)) s.curCtx.img)) u [] rfl
      refine ⟨_, he, ?_⟩
      show Settled _ (s.holdChans (((s.takeSrcs u).sendMsg dest (.amsg dest hidx.toNat x.v y.v
        (BitVec.ofNat 64 (locWord (s.takeSrcs u).cur.core (s.takeSrcs u).cur.pos)) (s.takeSrcs u).curCtx.img)).retire []) u) u []
      rw [hloc, himg, sendMsg_takeSrcs, holdChans_settled k hb.cur (congrArg Strand.st (hb.strand ..))]
      exact k

/-! Remote accesses (R333) -/

/-- What starts an operation leaves the party's entry and context. -/
theorem parked_tagOf {c p : Nat} {s t : State} {st : RunState} {w : Wait} (h : Parked c p s t st w) :
    t.tagOf c p = s.tagOf c p := by
  unfold State.tagOf
  split
  · next hp => rw [h.porter, if_pos hp]
  · next hp =>
    have k := congrArg (fun x : Strand => x.tag.toNat) (h.strand hp)
    exact k

theorem tag_eq (s : State) : s.tag = s.tagOf s.cur.core s.cur.pos := by
  simp only [State.tag, State.tagOf, State.isPorter, decide_eq_true_eq]

theorem tagOf_setOp (s : State) (c p : Nat) (o : Option Op) : (s.setOp c p o).tagOf c p = s.tagOf c p := by
  unfold State.tagOf State.setOp
  split
  · next hp => rw [porter_setPorter]
  · next hp => rw [strand_setStrand]

theorem curCtx_startPlain (s : State) (u : Use) {act : GAct} (h : waitSt act = .waitMem) :
    (s.startPlain u act).curCtx = s.curCtx := by
  have hcur : (s.startPlain u act).cur = s.cur := by
    have k := congrArg State.cur (inFlight_startPlain s u h).own.rest
    exact k
  have htag : (s.startPlain u act).tagOf s.cur.core s.cur.pos = s.tagOf s.cur.core s.cur.pos :=
    (parked_tagOf (parked_park ..)).trans ((tagOf_setOp ..).trans rfl)
  rw [State.curCtx, State.curCtx, State.curCluster, State.curCluster, tag_eq, tag_eq, hcur, htag, State.ctx, State.ctx,
    State.cluster, State.cluster, clusters_startPlain s u act h]

theorem remote_eq (s : State) (u : Use) (k : RemoteKind) (dst : Option SOp) (core a : Nat) (data : Word) :
    s.remote u k dst core a data = (((s.startPlain u (.remote dst)).sendMsg core (.remote k core a data s.cur.core s.cur.pos
      s.nextId s.curCtx.img)).expect s.cur.core s.cur.pos 1) := by
  obtain ⟨o, ho, hid, -⟩ := (inFlight_startPlain s u (act := .remote dst) rfl).op
  unfold State.remote
  dsimp only
  rw [ho]
  dsimp only
  rw [hid, curCtx_startPlain s u rfl]

/-- An instruction whose operation is under way holds nothing of its channels. -/
theorem holdChans_op {s t : State} {o : Op} (h : t.opOf s.cur.core s.cur.pos = some o) (u : Use) : s.holdChans t u = t := by
  refine if_neg fun hw => ?_
  obtain ⟨-, hp, -, hs⟩ := holds_true hw
  rw [State.opOf, if_neg (by omega)] at h
  simp [Strand.waitsToBegin, h] at hs

theorem remote_sends {i : Instr} {f : Form} {fx : View → Except TrapInfo (Nat × Nat × Word)} {k : RemoteKind} {dst : Option SOp}
    {dest addr : Nat} {z data : Word} (h : Clear s g f) (hx : fx (s.view f.use) = .ok (dest, addr, z))
    {act : State → (Nat × Nat × Word) → State} (he : exec i s = .next (s.issue g f fx act))
    (ha : act s (dest, addr, z) = s.remote f.use k dst dest addr data) :
    ∃ x, InFlight s x f.use (.remote dst) 0 0 [] ∧ exec i s = .next
      ((x.sendMsg dest (.remote k dest addr data s.cur.core s.cur.pos s.nextId s.curCtx.img)).expect s.cur.core s.cur.pos 1) := by
  refine ⟨_, inFlight_startPlain s f.use rfl, ?_⟩
  obtain ⟨o, ho, -⟩ := (inFlight_startPlain s f.use (act := .remote dst) rfl).op
  rw [he, issue_ok h hx, ha, remote_eq]
  exact congrArg _ (holdChans_op (opOf_modOp (((sameParties_sendMsg ..).opOf ..).trans ho) _) _)

theorem fxRemote_eq (dst : Option SOp) (disp : BitVec 15) (v : View) (z : PWord)
    (hz : z = match dst with | some d => v.s v.d d | none => ⟨0, false⟩) : fxRemote a b dst disp v =
    if ((v.s v.a a).p || (v.s v.b b).p || z.p) = true then .error (tPoison (firstPoison (v.s v.a a).p (v.s v.b b).p z.p))
    else if 0x5FFF < (v.s v.a a).v.toNat + disp.toNat + 7 then .error (tLsRange ((v.s v.a a).v.toNat + disp.toNat))
    else .ok (destCore (v.s v.b b).v, (v.s v.a a).v.toNat + disp.toNat, z.v) := by
  subst hz
  unfold fxRemote needClean lsCheck
  have last (k : Nat) : k + 8 - 1 = k + 7 := rfl
  cases dst
  all_goals
    simp only [last]
    split
    · rfl
    · split <;> rfl

theorem fxRstn_eq (disp : BitVec 15) (v : View) : fxRstn d a b disp v =
    if ((v.s v.a a).p || (v.s v.b b).p || (v.s v.d d).p) = true then
      .error (tPoison (firstPoison (v.s v.a a).p (v.s v.b b).p (v.s v.d d).p))
    else if 0x5FFF < ((v.s v.a a).v.toNat + disp.toNat) / 2 then .error (tLsRange (((v.s v.a a).v.toNat + disp.toNat) / 2))
    else .ok (destCore (v.s v.b b).v, (v.s v.a a).v.toNat + disp.toNat, (v.s v.d d).v) := by
  unfold fxRstn needClean lsCheck
  simp only [Nat.add_sub_cancel]
  split
  · rfl
  · split <;> rfl

/-- RLD, RST and RSTN: the poison of their sources, the range of the address, then the request goes out. -/
theorem remote_form {i : Instr} {f : Form} {fx : View → Except TrapInfo (Nat × Nat × Word)} {px py pz : Bool} {r addr : Nat}
    {k : RemoteKind} {dst : Option SOp} {dest : Word} {z data : Word} (h : Clear s g f)
    {act : State → (Nat × Nat × Word) → State} (he : exec i s = .next (s.issue g f fx act)) {lim : Prop} [Decidable lim]
    (hx : fx (s.view f.use) = if (px || py || pz) = true then .error (tPoison (firstPoison px py pz))
      else if lim then .error (tLsRange r) else .ok (destCore dest, addr, z))
    (ha : act s (destCore dest, addr, z) = s.remote f.use k dst (destCore dest) addr data) :
    (∀ n, poisoned px py pz = some n → Traps i s { cause := 0x09, sub := n }) ∧
    (poisoned px py pz = none → if lim then Traps i s { cause := 0x04, addr := r } else
      ∃ x, InFlight s x f.use (.remote dst) 0 0 [] ∧ exec i s = .next ((x.sendMsg (dest.toNat % 2 ^ 16) (.remote k
        (dest.toNat % 2 ^ 16) addr data s.cur.core s.cur.pos s.nextId s.curCtx.img)).expect s.cur.core s.cur.pos 1)) := by
  refine ⟨fun n hn => ?_, fun hn => ?_⟩
  · obtain ⟨k1, k2⟩ := firstPoison_of_poisoned hn
    rw [k1, if_pos rfl, k2] at hx
    exact traps_poison h he hx
  · rw [poisoned_none hn, if_neg Bool.false_ne_true] at hx
    split
    · next hl =>
      rw [if_pos hl] at hx
      exact traps_takeTrap (he.trans (congrArg _ (issue_error h hx _)))
    · next hl =>
      rw [if_neg hl] at hx
      rw [destCore_eq] at hx ha
      exact remote_sends h hx he ha

theorem messageFamily : Claim.MessageForms := by
  intro s g d a b c p
  refine ⟨fun hidx h => amsg_forms hidx h, fun disp => ?_⟩
  intro sends
  refine ⟨fun h => ?_, fun h => ?_⟩
  · intro u v x y k
    obtain ⟨h1, h2⟩ := remote_form (i := .rld g d a b disp) (pz := false) h rfl (fxRemote_eq none disp v ⟨0, false⟩ rfl) rfl
    split
    · next n hn => exact h1 n hn
    · next hn => exact h2 hn
  · intro u v x y z k
    obtain ⟨h1, h2⟩ := remote_form (i := .rst g d a b disp) h rfl (fxRemote_eq (some d) disp v z rfl) rfl
    obtain ⟨h3, h4⟩ := remote_form (i := .rstn g d a b disp) h rfl (fxRstn_eq disp v) rfl
    split
    · next n hn => exact ⟨h1 n hn, h3 n hn⟩
    · next hn => exact ⟨h2 hn, h4 hn⟩

end

end Sys2Proof.Safety
end

section
/-! SUPPORT. Remote accesses at their destination, and the ports (O32). -/

namespace Sys2Proof.Safety

open Sys2Proof.Machine

theorem free6_iff (s : State) (c : Nat) : s.free6 c = true ↔ s.cycle % 8 = 6 ∧ (s.core c).builtin ≤ s.cycle ∧
    (s.porter c).notBefore ≤ s.cycle ∧ ∀ q, (s.core c).rep = some q → q.notBefore ≤ s.cycle := by
  simp only [State.free6, State.porter, Bool.and_eq_true, decide_eq_true_eq, and_assoc, Option.all_eq_true]

theorem natBytes_toNat (x : Word) : natBytes 8 x.toNat = (List.range 8).map fun j => ⟨x.extractLsb' (8 * j) 8, false⟩ := by
  rw [natBytes, leBytes, List.map_map]
  refine List.map_congr_left fun j _ => ?_
  simp only [Function.comp_apply, PByte.mk.injEq, and_true]
  apply BitVec.eq_of_toNat_eq
  rw [BitVec.toNat_ofNat, BitVec.extractLsb'_toNat, Nat.shiftRight_eq_div_pow, pow_mul]
  rfl

theorem core_tookSix (s : State) (c : Nat) : ∃ b r, (s.tookSix c).core c = { s.core c with builtin := b, rep := r } :=
  ⟨_, _, core_setCore ..⟩

theorem lsBytes_tookSix (s : State) (c a n : Nat) : lsBytes ((s.tookSix c).core c) a n = lsBytes (s.core c) a n := by
  obtain ⟨b, r, h⟩ := core_tookSix s c
  rw [h]
  rfl

theorem remoteGuard_tookSix (s : State) (c a n : Nat) : (s.tookSix c).remoteGuard c a n = s.remoteGuard c a n := by
  obtain ⟨b, r, h⟩ := core_tookSix s c
  rw [State.remoteGuard, h]
  rfl

theorem ls_tookSix (s : State) (c : Nat) : ((s.tookSix c).core c).ls = (s.core c).ls := by
  obtain ⟨b, r, h⟩ := core_tookSix s c
  rw [h]

/-- The byte of RSTN, with one nibble replaced (R333). -/
theorem nibbleByte_eq (old : Byte) (a : Nat) (x : Word) : nibbleByte old (a % 2 = 1) x =
    BitVec.ofNat 8 (if a % 2 = 1 then old.toNat % 16 + 16 * (x.extractLsb' 0 4).toNat
      else old.toNat / 16 * 16 + (x.extractLsb' 0 4).toNat) := by
  unfold nibbleByte
  by_cases h : a % 2 = 1 <;> simp only [h, decide_true, decide_false, if_true, if_false, Bool.false_eq_true]

theorem remoteAccesses : Claim.RemoteAccesses := by
  intro s i f k c a data score spos op img hf hm hr bytes e old nib new
  refine ⟨free6_iff s c, fun h6 => ?_, fun h6 => ?_⟩
  · show Host.Outcome.next ((s.remoteAccess i).getD s) = _
    unfold State.remoteAccess
    simp only [hf, hm, hr, h6, Bool.not_true, Bool.not_false, Bool.false_eq_true, if_false, if_true, Option.getD_none]
  · show Host.Outcome.next ((s.remoteAccess i).getD s) = _
    unfold State.remoteAccess
    simp only [hf, hm, hr, h6, Bool.not_true, Bool.false_eq_true, if_false]
    rw [show (s.tookSix c).findSpace (clusterOf c) img.vd img.asid = s.findSpace (clusterOf c) img.vd img.asid from rfl]
    cases s.findSpace (clusterOf c) img.vd img.asid with
    | none => rfl
    | some t =>
      cases k with
      | rld => simp only [State.remoteDo, lsBytes_tookSix, remoteGuard_tookSix, Option.getD_some]; rfl
      | rst => simp only [State.remoteDo, natBytes_toNat, remoteGuard_tookSix, Option.getD_some]
      | rstn => simp only [State.remoteDo, nibbleByte_eq, ls_tookSix, remoteGuard_tookSix, Option.getD_some]; rfl

/-! Ports (R329) -/

/-- What CHPOLL reports of a port: the words that wait, and the room beyond it. -/
def portLow (s : State) (c p : Nat) : Nat := if neighbour c p = none then 0x80 else (mapGet [] (s.core c).chans p).length
def portHigh (s : State) (c p : Nat) : Nat := if neighbour c p = none then 0 else s.chRoom c p

theorem portWord_eq (s : State) (c p : Nat) : s.portWord c p = portLow s c p * 2 ^ (8 * p) + portHigh s c p * 2 ^ (32 + 8 * p) := by
  unfold State.portWord portLow portHigh
  by_cases h : neighbour c p = none
  · simp only [h, Option.isNone_none, if_true, Nat.zero_mul, Nat.add_zero, pow_add]
    ring
  · have hn : (neighbour c p).isNone = false := Option.isNone_eq_false_iff.mpr (Option.isSome_iff_ne_none.mpr h)
    simp only [h, hn, if_false, Bool.false_eq_true]

theorem chRoom_le (s : State) (c p : Nat) : s.chRoom c p ≤ 16 := by
  unfold State.chRoom
  split
  · omega
  · dsimp only
    split <;> omega

theorem portLow_lt {s : State} {c p : Nat} (h : (mapGet [] (s.core c).chans p).length ≤ 16) : portLow s c p < 256 := by
  unfold portLow
  split <;> omega

theorem portHigh_lt (s : State) (c p : Nat) : portHigh s c p < 256 := by
  have := chRoom_le s c p
  unfold portHigh
  split <;> omega

/-- A number made of eight bytes has them where they were put. -/
theorem byte_of_sum {l k : Nat → Nat} (hl : ∀ q < 4, l q < 256) (hk : ∀ q < 4, k q < 256) {x : Word}
    (hx : x = BitVec.ofNat 64 (l 0 * 2 ^ (8 * 0) + k 0 * 2 ^ (32 + 8 * 0) + (l 1 * 2 ^ (8 * 1) + k 1 * 2 ^ (32 + 8 * 1) +
      (l 2 * 2 ^ (8 * 2) + k 2 * 2 ^ (32 + 8 * 2) + (l 3 * 2 ^ (8 * 3) + k 3 * 2 ^ (32 + 8 * 3)))))) {p : Nat} (hp : p < 4) :
    (x.extractLsb' (8 * p) 8).toNat = l p ∧ (x.extractLsb' (32 + 8 * p) 8).toNat = k p := by
  have l0 := hl 0 (by omega)
  have l1 := hl 1 (by omega)
  have l2 := hl 2 (by omega)
  have l3 := hl 3 (by omega)
  have k0 := hk 0 (by omega)
  have k1 := hk 1 (by omega)
  have k2 := hk 2 (by omega)
  have k3 := hk 3 (by omega)
  rw [BitVec.extractLsb'_toNat, BitVec.extractLsb'_toNat, Nat.shiftRight_eq_div_pow, Nat.shiftRight_eq_div_pow, hx,
    BitVec.toNat_ofNat]
  interval_cases p <;> simp only [Nat.mul_zero, Nat.mul_one, Nat.reduceMul, Nat.reduceAdd, Nat.reducePow] <;> omega

/-- The bytes of the word that CHPOLL gives. -/
theorem chState_bytes {s : State} (h : ∀ p < 4, (mapGet [] (s.core s.cur.core).chans p).length ≤ 16) (p : Nat) (hp : p < 4) :
    (s.chState.extractLsb' (8 * p) 8).toNat = portLow s s.cur.core p ∧
      (s.chState.extractLsb' (32 + 8 * p) 8).toNat = portHigh s s.cur.core p := by
  refine byte_of_sum (fun q hq => portLow_lt (h q hq)) (fun q _ => portHigh_lt s s.cur.core q) ?_ hp
  simp only [← portWord_eq]
  rfl

theorem chpoll_forms {s : State} {g : Guard} {d : SOp} (h : Clear s g { use := { dst := chS d }, strandOnly := true }) :
    Retires (.chpoll g d) s { dst := chS d } [effS d s.chState false] := by
  have he : exec (.chpoll g d) s = .next (s.plain g { use := { dst := chS d }, strandOnly := true } _) := rfl
  exact plain_retires h he (putS_ok (p := false) (fun _ _ => rfl) 4) (by simp [effS_notLs])

theorem chlim_sets {s : State} {g : Guard} {b : SImm} (h : Clear s g (formChlim b)) (ho : OnStrand s)
    (hp : ((s.view (formChlim b).use).i (s.view (formChlim b).use).b b).p = false) : ∃ t, exec (.chlim g b) s = .next t ∧
      (t.strand s.cur.core s.cur.pos).limit = ((s.view (formChlim b).use).i (s.view (formChlim b).use).b b).v.extractLsb' 0 32 ∧
      t.regs = { s.regs with pc := s.pc + 1 } ∧ ∀ q, q ≠ s.cur.pos → t.strand s.cur.core q = s.strand s.cur.core q := by
  have hpos : s.cur.pos ≠ 6 := Nat.ne_of_lt ho
  have hx : fxChlim b (s.view (formChlim b).use) = .ok (((s.view (formChlim b).use).i (s.view (formChlim b).use).b b).v.extractLsb' 0 32) := by
    unfold fxChlim
    dsimp only
    rw [hp]
    rfl
  refine ⟨_, congrArg Host.Outcome.next (issue_ok h hx _), ?_⟩
  have same : SameParties s (s.takeSrcs (formChlim b).use) := sameParties_chTake ..
  generalize ((s.view (formChlim b).use).i (s.view (formChlim b).use).b b).v.extractLsb' 0 32 = w
  let t1 : State := (s.takeSrcs (formChlim b).use).setStrand (s.takeSrcs (formChlim b).use).cur.core
    (s.takeSrcs (formChlim b).use).cur.pos { (s.takeSrcs (formChlim b).use).strand (s.takeSrcs (formChlim b).use).cur.core
      (s.takeSrcs (formChlim b).use).cur.pos with limit := w }
  have hcur : t1.cur = s.cur := same.cur
  have hown : t1.strand s.cur.core s.cur.pos = { s.strand s.cur.core s.cur.pos with limit := w } := by
    simp only [t1, same.cur, strand_setStrand, same.strand]
  have hother (q : Nat) (hq : q ≠ s.cur.pos) : t1.strand s.cur.core q = s.strand s.cur.core q := by
    simp only [t1, same.cur, strand_setStrand_eq, hq, and_false, if_false, same.strand]
  obtain ⟨k1, -, k3⟩ := settled_retire_none t1 [] rfl
  have k := k3.strand (by rwa [hcur])
  rw [hcur, hown] at k
  have hst : ((t1.retire []).strand s.cur.core s.cur.pos).st = (s.strand s.cur.core s.cur.pos).st := (congrArg Strand.st k :)
  have hlim : ((t1.retire []).strand s.cur.core s.cur.pos).limit = w := (congrArg Strand.limit k :)
  show ((s.holdChans (t1.retire []) (formChlim b).use).strand s.cur.core s.cur.pos).limit = w ∧ _
  rw [holdChans_same (formChlim b).use fun _ => hst]
  refine ⟨hlim, ?_, fun q hq => ?_⟩
  · have hr : t1.regs = s.regs := by
      rw [State.regs, State.regs, hcur, State.regsOf, State.regsOf, if_neg hpos, if_neg hpos, hown]
    rw [k1]
    simp only [List.foldl_nil, effJump, State.pc, hr]
    rfl
  · have k := k3.others.strands q (by rwa [hcur])
    rw [hcur] at k
    exact k.trans (hother q hq)

theorem inMessage_iff (s : State) : s.inMessage = true ↔ (s.porter s.cur.core).cur.map (·.kind) = some .message := by
  unfold State.inMessage
  cases (s.porter s.cur.core).cur with
  | none => simp
  | some e => simp

theorem portsAndHret : Claim.PortsAndHret := by
  intro s g c
  refine ⟨fun d h _ => ⟨s.chState, chpoll_forms h, fun hl p hp => ?_⟩, fun b h ho => ?_, fun h => ?_⟩
  · obtain ⟨k1, k2⟩ := chState_bytes hl p hp
    exact ⟨k1, k2⟩
  · intro u y
    split
    · next hp =>
      refine traps_poison (f := formChlim b) (fx := fxChlim b) h rfl ?_
      unfold fxChlim
      exact if_pos hp
    · next hp => exact chlim_sets h ho (Bool.eq_false_of_not_eq_true hp)
  · have he : exec (.hret g) s = .next (s.issue g { level := 1 } (fun _ => if s.inMessage then .ok () else .error tIllegal) _) := rfl
    split
    · next hm =>
      rw [he, issue_ok (x := ()) h (if_pos ((inMessage_iff s).mpr hm)), holdChans_none rfl]
    · next hm =>
      exact traps_takeTrap (he.trans (congrArg _ (issue_error h (if_neg (mt (inMessage_iff s).mp hm)) _)))

/-- Settles O32: the words of the sources are taken beside the request, which they do not bear on. -/
theorem messageForms : Obligations.MessageForms := ⟨messageFamily, remoteAccesses, portsAndHret⟩

end Sys2Proof.Safety
end

section
/-! SUPPORT. The barriers (O33). -/

namespace Sys2Proof.Safety

open Sys2Proof.Machine

/-! Units -/

/-- The first entry that a test finds is still found when another value that passes is put in its place. -/
theorem find?_mapPut {α : Type} {q : Nat × α → Bool} {m : SMap α} {i : Nat} {x y : α} (h : m.find? q = some (i, x))
    (hy : q (i, y) = true) : (mapPut m i y).find? q = some (i, y) := by
  induction m with
  | nil => exact nomatch h
  | cons e t ih =>
    obtain ⟨j, z⟩ := e
    unfold mapPut
    split
    · simp [hy]
    · split
      · simp [hy]
      · next hne =>
        have hj : q (j, z) = false := by
          cases hq : q (j, z)
          · rfl
          · rw [List.find?_cons_of_pos hq] at h
            cases h
            omega
        rw [List.find?_cons_of_neg (by simp [hj])] at h ⊢
        exact ih h

theorem strand_setUnit (s : State) (k i c p : Nat) (u : BarUnit) : (s.setUnit k i u).strand c p = s.strand c p := rfl

theorem bars_setUnit (s : State) (k i : Nat) (u : BarUnit) :
    ((s.setUnit k i u).cluster k).bars = mapPut (s.cluster k).bars i u := by
  rw [State.setUnit, cluster_setCluster_eq, if_pos rfl]

theorem setUnit_setUnit (s : State) (k i : Nat) (u v : BarUnit) : (s.setUnit k i u).setUnit k i v = s.setUnit k i v := by
  rw [State.setUnit, bars_setUnit, mapPut_mapPut]
  unfold State.setUnit State.setCluster State.cluster
  simp only [mapGet_mapPut_same, mapPut_mapPut]

/-- The unit of a strand depends on its membership and on its cluster's units. -/
theorem unitOf_congr {s t : State} {c p : Nat} (hm : (t.strand c p).member = (s.strand c p).member)
    (hb : (t.cluster (clusterOf c)).bars = (s.cluster (clusterOf c)).bars) : t.unitOf c p = s.unitOf c p := by
  unfold State.unitOf
  rw [hm, hb]

theorem unitOf_setStrand {s : State} {c p : Nat} {x : Strand} (h : x.member = (s.strand c p).member) :
    (s.setStrand c p x).unitOf c p = s.unitOf c p :=
  unitOf_congr (by rw [strand_setStrand, h]) rfl

/-- A unit that keeps its band is still the unit of its member. -/
theorem unitOf_setUnit {s t : State} {c p i : Nat} {u v : BarUnit} (h : s.unitOf c p = some (i, u))
    (hm : (t.strand c p).member = (s.strand c p).member)
    (hb : (t.cluster (clusterOf c)).bars = mapPut (s.cluster (clusterOf c)).bars i v)
    (hu : v.used = u.used ∧ v.launch = u.launch ∧ v.band = u.band) : t.unitOf c p = some (i, v) := by
  unfold State.unitOf at h ⊢
  rw [hm, hb]
  split at h
  · refine find?_mapPut h ?_
    have hq := List.find?_some h
    simpa only [hu] using hq
  · exact nomatch h

/-! Completing and waiting from the state that an instruction has left -/

theorem retiresFrom_retireOf {i : Instr} {s b : State} {l : List Eff} (hc : b.cur = s.cur)
    (he : exec i s = .next (b.retireOf s.cur.core s.cur.pos l)) (hl : l.all (fun e => !isLs e) = true) :
    RetiresFrom i s b {} l := by
  have k := settled_retire_none b l hl
  rw [State.retire, hc] at k
  exact ⟨_, he, k⟩

theorem barForm_clear {s : State} {g : Guard} (h : Clear s g { strandOnly := true, reports := true, tracked := false })
    (act : State → Nat → Nat → State) : s.barForm g act = act s s.cur.core s.cur.pos := by
  rw [State.barForm, issue_ok (x := ()) h rfl, holdChans_none rfl]

theorem acquire_cl (s : State) (c : Nat) : s.acquire c .cl = s := rfl
theorem release_cl (s : State) (c p : Nat) : s.release c p .cl = s := rfl

theorem barWait_none {s : State} {c p : Nat} (h : s.unitOf c p = none) (kept : Bool) : s.barWait c p kept = s.retireOf c p [] := by
  unfold State.barWait
  rw [h]

theorem barWait_done {s : State} {c p i : Nat} {u : BarUnit} (h : s.unitOf c p = some (i, u)) (hp : u.phase = (s.strand c p).gen)
    (kept : Bool) : s.barWait c p kept = (s.setStrand c p { s.strand c p with arrived := false }).retireOf c p [] := by
  unfold State.barWait
  simp only [h, hp, if_true, acquire_cl]

theorem barWait_park {s : State} {c p i : Nat} {u : BarUnit} (h : s.unitOf c p = some (i, u)) (hp : u.phase ≠ (s.strand c p).gen)
    (kept : Bool) : s.barWait c p kept =
      (s.setStrand c p { s.strand c p with arrived := kept }).park c p .waitMsg .barrier := by
  unfold State.barWait
  simp only [h, hp, if_false]

theorem setStrand_setStrand (s : State) (c p : Nat) (x y : Strand) : (s.setStrand c p x).setStrand c p y = s.setStrand c p y := by
  simp only [State.setStrand, core_setCore, mapPut_mapPut, setCore_setCore]

section
variable {s : State} {g : Guard} {c p : Nat}

/-- A strand whose unit's phase has caught up goes on. -/
theorem barWait_retires {i : Instr} {b : State} (hcur : b.cur = s.cur) {kept : Bool}
    (he : exec i s = .next (b.barWait s.cur.core s.cur.pos kept)) {n : Nat} {w : BarUnit}
    (hu : b.unitOf s.cur.core s.cur.pos = some (n, w)) (hp : w.phase = (b.strand s.cur.core s.cur.pos).gen) :
    RetiresFrom i s (b.setStrand s.cur.core s.cur.pos { b.strand s.cur.core s.cur.pos with arrived := false }) {} [] := by
  rw [barWait_done hu hp] at he
  exact retiresFrom_retireOf hcur he rfl

/-- One whose unit's phase has not waits. -/
theorem barWait_parks {i : Instr} {b : State} {kept : Bool}
    (he : exec i s = .next (b.barWait s.cur.core s.cur.pos kept)) {n : Nat} {w : BarUnit}
    (hu : b.unitOf s.cur.core s.cur.pos = some (n, w)) (hp : w.phase ≠ (b.strand s.cur.core s.cur.pos).gen) :
    ∃ t, exec i s = .next t ∧ Parked s.cur.core s.cur.pos
      (b.setStrand s.cur.core s.cur.pos { b.strand s.cur.core s.cur.pos with arrived := kept }) t .waitMsg .barrier := by
  rw [barWait_park hu hp] at he
  exact ⟨_, he, parked_park ..⟩

/-- BARA, and BARC before it has arrived: what comes before the arrival (R335, R337). -/
theorem barArrive_cases (s : State) (c p : Nat) (after : State → State) : s.barArrive c p after =
    if s.hasEntries c p then s.park c p .waitMem .sidelog
    else match s.unitOf c p with
      | none => s.retireOf c p []
      | some (i, u) => if (s.strand c p).gen ≠ u.phase then s.takeTrap tOverrun else after (s.arriveAt c p i u) := rfl

/-- The unit after an arrival: the last live member's completes the phase (R335). -/
def arrived (w : BarUnit) : BarUnit :=
  if w.count + 1 = w.live ∧ 0 < w.live then { w with phase := !w.phase, count := 0 } else { w with count := w.count + 1 }

theorem arriveAt_eq (s : State) (c p i : Nat) (w : BarUnit) : s.arriveAt c p i w =
    (s.setStrand c p { s.strand c p with gen := !(s.strand c p).gen }).setUnit (clusterOf c) i (arrived w) := by
  unfold State.arriveAt BarUnit.settle arrived
  simp only [Bool.and_eq_true, decide_eq_true_eq]

theorem arrived_same (w : BarUnit) : (arrived w).used = w.used ∧ (arrived w).launch = w.launch ∧ (arrived w).band = w.band := by
  unfold arrived
  split <;> exact ⟨rfl, rfl, rfl⟩

theorem unitOf_arriveAt {s : State} {c p i : Nat} {w : BarUnit} (h : s.unitOf c p = some (i, w)) :
    (s.arriveAt c p i w).unitOf c p = some (i, arrived w) := by
  rw [arriveAt_eq]
  refine unitOf_setUnit h ?_ ?_ (arrived_same w)
  · rw [strand_setUnit, strand_setStrand]
  · rw [bars_setUnit]
    rfl

theorem strand_arriveAt (s : State) (c p i : Nat) (w : BarUnit) :
    (s.arriveAt c p i w).strand c p = { s.strand c p with gen := !(s.strand c p).gen } := by
  rw [arriveAt_eq, strand_setUnit, strand_setStrand]

/-- An arrival of a strand whose mark of one is not set leaves it so. -/
theorem arriveAt_arrived {s : State} {c p i : Nat} {w : BarUnit} (h : (s.strand c p).arrived = false) :
    (s.arriveAt c p i w).setStrand c p { (s.arriveAt c p i w).strand c p with arrived := false } = s.arriveAt c p i w := by
  have hx : ({ (s.arriveAt c p i w).strand c p with arrived := false } : Strand) =
      { s.strand c p with gen := !(s.strand c p).gen } := by
    rw [strand_arriveAt, ← h]
  rw [hx, arriveAt_eq]
  exact congrArg (fun t : State => t.setUnit (clusterOf c) i (arrived w)) (setStrand_setStrand ..)

theorem crewBarriers : Claim.CrewBarriers := by
  intro s g h ho c p x logged
  have bara : exec (.bara g) s = .next (s.barArrive c p fun t => t.retireOf c p []) := congrArg _ (barForm_clear h _)
  have barw : exec (.barw g) s = .next (if (s.unitOf c p).isNone && s.hasEntries c p then s.park c p .waitMem .sidelog
    else s.barWait c p false) := congrArg _ (barForm_clear h _)
  have barc : exec (.barc g) s = .next (if x.arrived then s.barWait c p true
    else s.barArrive c p fun t => t.barWait c p true) := congrArg _ (barForm_clear h _)
  rw [barArrive_cases] at bara barc
  split
  · next hu =>
    simp only [hu, barWait_none hu, Option.isNone_none, Bool.true_and] at bara barw barc
    have alone {i : Instr} (he : exec i s = .next (if s.hasEntries c p then s.park c p .waitMem .sidelog
        else s.retireOf c p [])) : if logged then Waits i s .waitMem .sidelog else Retires i s {} [] := by
      split
      · next hl =>
        exact ⟨_, he.trans (congrArg _ (if_pos hl)), parked_park ..⟩
      · next hl => exact retiresFrom_retireOf rfl (he.trans (congrArg _ (if_neg hl))) rfl
    refine ⟨fun i hi => ?_, ?_⟩
    · rcases List.mem_cons.mp hi with rfl | hi
      · exact alone bara
      · rw [List.mem_singleton.mp hi]
        exact alone barw
    · cases ha : x.arrived
      · rw [ha] at barc
        simpa using alone barc
      · rw [ha, if_pos rfl] at barc
        exact retiresFrom_retireOf rfl barc rfl
  · next i w hu =>
    intro full w' came held
    have hcame : s.arriveAt c p i w = came := by
      rw [arriveAt_eq]
      simp only [came, w', full, arrived, decide_eq_true_eq]
      rfl
    simp only [hu, Option.isNone_some, Bool.false_and, if_false, Bool.false_eq_true] at bara barw barc
    have early {e : Instr} {after : State → State} (he : exec e s = .next (if s.hasEntries c p then s.park c p .waitMem .sidelog
        else if (s.strand c p).gen ≠ w.phase then s.takeTrap tOverrun else after (s.arriveAt c p i w))) {P : Prop}
        (hP : x.gen = w.phase → exec e s = .next (after came) → P) :
        if logged then Waits e s .waitMem .sidelog else if x.gen ≠ w.phase then Traps e s { cause := 0x0C } else P := by
      split
      · next hl => exact ⟨_, he.trans (congrArg _ (if_pos hl)), parked_park ..⟩
      · next hl =>
        replace he := he.trans (congrArg _ (if_neg hl))
        split
        · next hg => exact traps_takeTrap (he.trans (congrArg _ (if_pos hg)))
        · next hg => exact hP (not_not.mp hg) (hcame ▸ he.trans (congrArg _ (if_neg hg)))
    refine ⟨early (after := fun t => t.retireOf c p []) bara fun _ he => retiresFrom_retireOf rfl he rfl, ?_, ?_⟩
    · split
      · next hp => exact barWait_retires rfl barw hu hp
      · next hp => exact barWait_parks barw hu hp
    cases ha : x.arrived
    · rw [ha, if_neg Bool.false_ne_true] at barc
      rw [if_neg Bool.false_ne_true]
      refine early (after := fun t => t.barWait c p true) barc fun hg he => ?_
      have huc : came.unitOf c p = some (i, arrived w) := hcame ▸ unitOf_arriveAt hu
      have hx : (came.strand c p).gen = !w.phase := by rw [← hcame, strand_arriveAt, ← hg]
      have hheld : came.setStrand c p { came.strand c p with arrived := false } = came := by
        rw [← hcame]
        exact arriveAt_arrived ha
      split
      · next hfull =>
        have hw : (arrived w).phase = (came.strand c p).gen := by
          rw [hx, arrived, if_pos (of_decide_eq_true hfull)]
        exact hheld ▸ barWait_retires (s := s) rfl he huc hw
      · next hfull =>
        have hw : (arrived w).phase ≠ (came.strand c p).gen := by
          rw [hx, arrived, if_neg fun k => hfull (decide_eq_true k)]
          cases w.phase <;> decide
        exact barWait_parks he huc hw
    · rw [ha, if_pos rfl] at barc
      rw [if_pos rfl]
      split
      · next hp => exact barWait_retires rfl barc hu hp
      · next hp => exact barWait_parks barc hu hp

end

/-! Band barriers (R336) -/

theorem bars_send (s : State) (sdie sstop ddie dstop vc vd : Nat) (gti : BitVec 32) (cl : Nat) (m : Msg) (k : Nat) :
    ((s.send sdie sstop ddie dstop vc vd gti cl m).cluster k).bars = (s.cluster k).bars := by
  unfold State.send
  generalize (if sdie = 8 && ddie ≠ 8 then (nextDie 8 ddie, 615) else (sdie, sstop)) = q
  obtain ⟨d, src⟩ := q
  dsimp only
  generalize (if m.bodies = 0 then s.nextId else s.nextId + m.bodies + 1) = last
  split
  · split
    · rw [cluster_setCluster_eq]
      split
      · next h => subst h; rfl
      · rfl
    · rfl
  · rfl

theorem sendBand_cases (s : State) (c p : Nat) : s.sendBand c p = s ∨ ∃ sdie sstop ddie dstop vc vd gti cl m,
    s.sendBand c p = s.send sdie sstop ddie dstop vc vd gti cl m := by
  unfold State.sendBand
  split
  · exact .inr ⟨_, _, _, _, _, _, _, _, _, rfl⟩
  · exact .inl rfl

theorem sameParties_sendBand (s : State) (c p : Nat) : SameParties s (s.sendBand c p) := by
  rcases sendBand_cases s c p with h | ⟨_, _, _, _, _, _, _, _, _, h⟩ <;> rw [h]
  · exact .refl s
  · exact sameParties_send ..

theorem bars_sendBand (s : State) (c p k : Nat) : ((s.sendBand c p).cluster k).bars = (s.cluster k).bars := by
  rcases sendBand_cases s c p with h | ⟨_, _, _, _, _, _, _, _, _, h⟩ <;> rw [h]
  exact bars_send ..

theorem unitOf_sendBand (s : State) (c p d q : Nat) : (s.sendBand c p).unitOf d q = s.unitOf d q :=
  unitOf_congr (congrArg Strand.member ((sameParties_sendBand ..).strand ..)) (bars_sendBand ..)

theorem bandDone_eq (s : State) (c p : Nat) : s.bandDone c p =
    ((s.setStrand c p { s.strand c p with bandArrived := false }).acquire c .die).retireOf c p [] := rfl

theorem bandWait_unit {s : State} {c p i : Nat} {u : BarUnit} (h : s.unitOf c p = some (i, u)) : s.bandWait c p =
    if u.bandPhase ≠ (s.strand c p).bandPhase then s.bandDone c p else s.park c p .waitMsg .band := by
  unfold State.bandWait
  simp only [h, decide_eq_true_eq]

theorem bandWait_alone {s : State} {c p : Nat} (h : s.unitOf c p = none) : s.bandWait c p =
    if (s.strand c p).bandPhase = true then s.bandDone c p else s.park c p .waitMsg .band := by
  unfold State.bandWait
  simp only [h]

theorem bandSize_congr {s t : State} {c p : Nat} (hm : (t.strand c p).member = (s.strand c p).member) (hd : t.dies = s.dies) :
    t.bandSize c p = s.bandSize c p := by
  unfold State.bandSize State.die
  rw [hm, hd]

section
variable {s r : State} {i : Instr}

/-- A completed BARB acquires at .die and goes on. -/
theorem band_done {b : State} (hcur : b.cur = s.cur) (he : exec i s = .next (b.bandDone s.cur.core s.cur.pos)) :
    RetiresFrom i s ((b.setStrand s.cur.core s.cur.pos { b.strand s.cur.core s.cur.pos with bandArrived := false }).acquire
      s.cur.core .die) {} [] := by
  rw [bandDone_eq] at he
  exact retiresFrom_retireOf ((homeSide_acquire ..).cur.trans hcur) he rfl

/-- BARB's arrival once the release is done, for a strand without a unit. -/
theorem band_alone (hcur : r.cur = s.cur) (hu : r.unitOf s.cur.core s.cur.pos = none)
    (he : exec i s = .next (if r.bandSize s.cur.core s.cur.pos < 2 then r.bandDone s.cur.core s.cur.pos
      else ((r.setStrand s.cur.core s.cur.pos { r.strand s.cur.core s.cur.pos with
        bandArrived := true, bandPhase := false }).sendBand s.cur.core s.cur.pos).bandWait s.cur.core s.cur.pos)) :
    (r.bandSize s.cur.core s.cur.pos < 2 → RetiresFrom i s ((r.setStrand s.cur.core s.cur.pos
      { r.strand s.cur.core s.cur.pos with bandArrived := false }).acquire s.cur.core .die) {} []) ∧
    (2 ≤ r.bandSize s.cur.core s.cur.pos → ∃ t, exec i s = .next t ∧ Parked s.cur.core s.cur.pos
      ((r.setStrand s.cur.core s.cur.pos { r.strand s.cur.core s.cur.pos with
        bandArrived := true, bandPhase := false }).sendBand s.cur.core s.cur.pos) t .waitMsg .band) := by
  refine ⟨fun hs => band_done hcur (he.trans (congrArg _ (if_pos hs))), fun hs => ?_⟩
  rw [if_neg (by omega), bandWait_alone, (sameParties_sendBand ..).strand, strand_setStrand] at he
  · exact ⟨_, he, parked_park ..⟩
  · rw [unitOf_sendBand, unitOf_setStrand (by rfl)]
    exact hu

/-- The arrival of a member has been counted, and what follows waits or goes on with its unit. -/
theorem bandFlow_cases (s : State) (c p n : Nat) (w : BarUnit)
    (hw : mapGet BarUnit.init (s.cluster (clusterOf c)).bars n = w) : s.bandFlow c p n =
    if w.bandCount = w.live ∧ 0 < w.live then
      if s.bandSize c p < 2 then s.setUnit (clusterOf c) n { w with bandPhase := !w.bandPhase, bandCount := 0 }
      else (s.setUnit (clusterOf c) n { w with bandCount := 0 }).sendBand c p
    else s := by
  unfold State.bandFlow
  simp only [hw, BarUnit.bandFull, Bool.and_eq_true, decide_eq_true_eq]

/-- A member's arrival is noted in its strand and its unit. -/
def came (r : State) (c p n : Nat) (w w' : BarUnit) : State :=
  (r.setStrand c p { r.strand c p with bandArrived := true, bandPhase := w.bandPhase }).setUnit (clusterOf c) n w'

theorem strand_came (r : State) (c p n : Nat) (w w' : BarUnit) : (came r c p n w w').strand c p =
    { r.strand c p with bandArrived := true, bandPhase := w.bandPhase } := by
  rw [came, strand_setUnit, strand_setStrand]

theorem unitOf_came {r : State} {c p n : Nat} {w : BarUnit} (h : r.unitOf c p = some (n, w)) {w' : BarUnit}
    (hw : w'.used = w.used ∧ w'.launch = w.launch ∧ w'.band = w.band) : (came r c p n w w').unitOf c p = some (n, w') := by
  refine unitOf_setUnit h ?_ ?_ hw
  · rw [strand_came]
  · rw [came, bars_setUnit]
    rfl

theorem bandSize_came (r : State) (c p n : Nat) (w w' : BarUnit) : (came r c p n w w').bandSize c p = r.bandSize c p := by
  refine bandSize_congr ?_ rfl
  rw [strand_came]

theorem setUnit_came (r : State) (c p n : Nat) (w w' w'' : BarUnit) :
    (came r c p n w w').setUnit (clusterOf c) n w'' = came r c p n w w'' := setUnit_setUnit ..

/-- BARB's arrival once the release is done, for a member of a unit. -/
theorem band_member (hcur : r.cur = s.cur) {n : Nat} {w : BarUnit} (hu : r.unitOf s.cur.core s.cur.pos = some (n, w))
    (he : exec i s = .next (((came r s.cur.core s.cur.pos n w { w with bandCount := w.bandCount + 1 }).bandFlow s.cur.core
      s.cur.pos n).bandWait s.cur.core s.cur.pos)) :
    (¬ (w.bandCount + 1 = w.live ∧ 0 < w.live) → ∃ t, exec i s = .next t ∧ Parked s.cur.core s.cur.pos
      (came r s.cur.core s.cur.pos n w { w with bandCount := w.bandCount + 1 }) t .waitMsg .band) ∧
    (w.bandCount + 1 = w.live ∧ 0 < w.live → r.bandSize s.cur.core s.cur.pos < 2 → RetiresFrom i s
      (((came r s.cur.core s.cur.pos n w { w with bandPhase := !w.bandPhase, bandCount := 0 }).setStrand s.cur.core s.cur.pos
        { (came r s.cur.core s.cur.pos n w { w with bandPhase := !w.bandPhase, bandCount := 0 }).strand s.cur.core s.cur.pos
          with bandArrived := false }).acquire s.cur.core .die) {} []) ∧
    (w.bandCount + 1 = w.live ∧ 0 < w.live → 2 ≤ r.bandSize s.cur.core s.cur.pos → ∃ t, exec i s = .next t ∧
      Parked s.cur.core s.cur.pos ((came r s.cur.core s.cur.pos n w { w with bandCount := 0 }).sendBand s.cur.core s.cur.pos) t
        .waitMsg .band) := by
  rw [bandFlow_cases _ _ _ _ { w with bandCount := w.bandCount + 1 } (by
    rw [came, bars_setUnit, mapGet_mapPut_same]), bandSize_came, setUnit_came, setUnit_came] at he
  dsimp only at he
  refine ⟨fun hf => ?_, fun hf hs => ?_, fun hf hs => ?_⟩
  · have hu' := unitOf_came hu (w' := { w with bandCount := w.bandCount + 1 }) ⟨rfl, rfl, rfl⟩
    rw [if_neg hf, bandWait_unit hu', strand_came, if_neg (by simp)] at he
    exact ⟨_, he, parked_park ..⟩
  · have hu' := unitOf_came hu (w' := { w with bandPhase := !w.bandPhase, bandCount := 0 }) ⟨rfl, rfl, rfl⟩
    rw [if_pos hf, if_pos hs, bandWait_unit hu', strand_came, if_pos (by simp)] at he
    exact band_done hcur he
  · have hu' := unitOf_came hu (w' := { w with bandCount := 0 }) ⟨rfl, rfl, rfl⟩
    rw [if_pos hf, if_neg (by omega), bandWait_unit ((unitOf_sendBand ..).trans hu'), (sameParties_sendBand ..).strand,
      strand_came, if_neg (by simp)] at he
    exact ⟨_, he, parked_park ..⟩

end

theorem bandBarriers : Claim.BandBarriers := by
  intro s g h ho hshort c p x i parks done passed
  have hpos : s.cur.pos ≠ 6 := Nat.ne_of_lt ho
  have he : exec i s = .next (if x.bandArrived then s.bandWait c p else s.bandArrive c p) := congrArg _ (barForm_clear h _)
  split
  · next ha =>
    rw [if_pos ha] at he
    cases hu : s.unitOf c p with
    | none =>
      rw [bandWait_alone hu] at he
      simp only [passed, hu]
      exact ⟨fun hp => band_done rfl (he.trans (congrArg _ (if_pos hp))),
        fun hp => ⟨_, he.trans (congrArg _ (if_neg hp)), parked_park ..⟩⟩
    | some e =>
      obtain ⟨n, w⟩ := e
      rw [bandWait_unit hu] at he
      simp only [passed, hu]
      exact ⟨fun hp => band_done rfl (he.trans (congrArg _ (if_pos hp))),
        fun hp => ⟨_, he.trans (congrArg _ (if_neg hp)), parked_park ..⟩⟩
  · next ha =>
    rw [if_neg ha] at he
    unfold State.bandArrive at he
    split
    · next hl => exact ⟨_, he.trans (congrArg _ (if_pos hl)), parked_park ..⟩
    · next hl =>
      replace he := he.trans (congrArg _ (if_neg hl))
      split
      · next hb => exact ⟨_, he.trans (congrArg _ (if_pos hb)), parked_park ..⟩
      · next hb =>
        replace he := he.trans (congrArg _ (if_neg hb))
        split
        · next n hn =>
          rw [hn] at he
          exact traps_takeTrap he
        · next hn =>
          rw [hn] at he
          dsimp only at he
          have hcur : (s.release c p .die).cur = s.cur := (homeSide_release ..).cur
          intro r y
          split
          · next hu =>
            rw [hu] at he
            exact band_alone hcur hu he
          · next n w hu =>
            rw [hu] at he
            exact band_member hcur hu he

/-- Settles O33: a unit that keeps its band is found again after every arrival. -/
theorem barrierForms : Obligations.BarrierForms := ⟨crewBarriers, bandBarriers⟩

end Sys2Proof.Safety
end

section
/-! SUPPORT. SPAWN, JOIN, LAUNCH and JOB as they start, and the ends of a task (O34). -/

namespace Sys2Proof.Safety

open Sys2Proof.Machine

/-! What waits for a release (R128) -/

/-- A strand that has trapped holds nothing of its channels. -/
theorem holdChans_takeTrap (s : State) (e : TrapInfo) (u : Use) : s.holdChans (s.takeTrap e) u = s.takeTrap e := by
  refine if_neg fun hw => ?_
  obtain ⟨-, hp, -, hs⟩ := holds_true hw
  have hp6 : s.cur.pos ≠ 6 := by omega
  have ht : s.takeTrap e = s.trapStrand s.cur.core s.cur.pos false (s.strand s.cur.core s.cur.pos).regs.pc 0 e := by
    simp [State.takeTrap, State.takeTrapOf, hp6, State.regsOf]
  have hst := (trapped_trapStrand s s.cur.core s.cur.pos e).st
  rw [← ht] at hst
  simp [Strand.waitsToBegin, hst] at hs

theorem afterRelease_of {s : State} {i : Instr} {u : Use} {act : State → State} {go : State → Prop}
    (he : exec i s = .next (s.holdChans (s.afterRelease act) u))
    (hgo : exec i s = .next (s.holdChans (act (s.release s.cur.core s.cur.pos .dev)) u) →
      go (s.release s.cur.core s.cur.pos .dev)) : AfterRelease i s go := by
  unfold State.afterRelease at he
  unfold AfterRelease
  split
  · next hl =>
    exact ⟨_, he.trans (congrArg (fun t => Host.Outcome.next (s.holdChans t u)) (if_pos hl)), Parked.holdChans (parked_park ..) u⟩
  · next hl =>
    replace he := he.trans (congrArg (fun t => Host.Outcome.next (s.holdChans t u)) (if_neg hl))
    split
    · next hb =>
      exact ⟨_, he.trans (congrArg (fun t => Host.Outcome.next (s.holdChans t u)) (if_pos hb)), Parked.holdChans (parked_park ..) u⟩
    · next hb =>
      replace he := he.trans (congrArg (fun t => Host.Outcome.next (s.holdChans t u)) (if_neg hb))
      split
      · next n hn =>
        rw [hn] at he
        dsimp only at he
        rw [holdChans_takeTrap] at he
        exact traps_takeTrap he
      · next hn =>
        rw [hn] at he
        exact hgo he

section
variable {s : State} {g : Guard}

/-! SPAWN, JOIN, LAUNCH and JOB -/

theorem needClean_two {α : Type} (a b : Bool) (k : Except TrapInfo α) : (needClean a b false >>= fun _ => k) =
    if a = true then .error (tPoison 1) else if b = true then .error (tPoison 2) else k := by
  cases a <;> cases b <;> rfl

theorem fxSpawn_eq (a : VOp) (b : SOp) (v : View) : fxSpawn a b v =
    if decide ((v.v v.a a).p.extractLsb' 0 4 ≠ 0) = true then .error (tPoison 1)
    else if (v.s v.b b).p = true then .error (tPoison 2)
    else .ok ((vToWords (v.v v.a a).x).take 4, destCore (v.s v.b b).v) := needClean_two _ _ _

theorem word_take (x : VReg) {j : Nat} (hj : j < 4) : word ((vToWords x).take 4) j = x.extractLsb' (64 * j) 64 := by
  have h8 : j < (vToWords x).length := by simp [vToWords]; omega
  rw [word, List.getD_eq_getElem?_getD, List.getElem?_take_of_lt hj, vToWords, List.getElem?_map, List.getElem?_range (by omega)]
  rfl

theorem gtiOf_startPlain (b : State) (u : Use) {act : GAct} (hp : b.cur.pos ≠ 6) :
    (b.startPlain u act).gtiOf b.cur.core b.cur.pos = b.gtiOf b.cur.core b.cur.pos := by
  have k := (parked_park (((b.newOp u act 0 0 []).2.setOp b.cur.core b.cur.pos (some (b.newOp u act 0 0 []).1)))
    b.cur.core b.cur.pos .waitMem .reply).strand hp
  have hg := (congrArg Strand.gti k :)
  unfold State.gtiOf
  rw [if_neg hp, if_neg hp]
  refine Eq.trans hg ?_
  rw [State.setOp, if_neg hp, strand_setStrand]
  rfl

/-- SPAWN sends its record under the identity of the operation that it starts. -/
theorem spawnNow_eq (s : State) (u : Use) (d : POp) (l : List Word) (core : Nat) : s.spawnNow u d l core =
    ((((s.takeSrcs u).startPlain {} (.spawn d)).sendMsg core (.spawn core
      (taskOf l ((word l 0).extractLsb' 56 4) 0 (((s.takeSrcs u).startPlain {} (.spawn d)).gtiOf s.cur.core s.cur.pos) 0)
      s.cur.core s.cur.pos s.nextId
      (let x := s.ctx (clusterOf s.cur.core) ((word l 0).extractLsb' 56 4).toNat
       if x.loaded && x.img.vd = s.curVd then some x.img else none))).expect s.cur.core s.cur.pos 1) := by
  have hcur : (s.takeSrcs u).cur = s.cur := (sameParties_chTake ..).cur
  have hid : (s.takeSrcs u).nextId = s.nextId := by rw [State.takeSrcs, chTake_rest]
  obtain ⟨o, ho, ho', -⟩ := (inFlight_startPlain (s.takeSrcs u) {} (act := .spawn d) rfl).op
  rw [hcur] at ho
  rw [hid] at ho'
  unfold State.spawnNow
  simp only [ho, ho']

theorem spawn_forms {d : POp} {a : VOp} {b : SOp} (h : Clear s g (formSpawn d a b)) :
    let c := s.cur.core
    let p := s.cur.pos
    let u := (formSpawn d a b).use
    let v := s.view u
    let x := v.v v.a a
    let y := v.s v.b b
    let i := Instr.spawn g d a b
    if x.p.extractLsb' 0 4 ≠ 0 then Traps i s { cause := 0x09, sub := 1 }
    else if y.p then Traps i s { cause := 0x09, sub := 2 }
    else AfterRelease i s fun r =>
      let w (j : Nat) : Word := x.x.extractLsb' (64 * j) 64
      let tag := (w 0).extractLsb' 56 4
      let k := r.ctx (clusterOf c) tag.toNat
      let img := if k.loaded && k.img.vd = r.curVd then some k.img else none
      ∃ z, InFlight (r.takeSrcs u) z {} (.spawn d) 0 0 [] ∧ ∃ task : Task, exec i s = .next
        ((z.sendMsg (y.v.toNat % 2 ^ 16) (.spawn (y.v.toNat % 2 ^ 16) task c p r.nextId img)).expect c p 1) ∧
        task.prio = ((w 0).extractLsb' 60 2).toNat ∧ task.pc = (w 0).extractLsb' 0 24 ∧ task.tag = tag ∧
        task.frame = w 1 ∧ task.join = w 2 ∧ task.arg = w 3 ∧ task.parent = s.gtiOf c p := by
  intro c p u v x y i
  have hx : fxSpawn a b v = _ := fxSpawn_eq a b v
  split
  · next hp =>
    exact traps_poison h rfl (hx.trans (if_pos (decide_eq_true hp)))
  · next hp =>
    replace hx := hx.trans (if_neg (mt of_decide_eq_true hp))
    split
    · next hy => exact traps_poison h rfl (hx.trans (if_pos hy))
    · next hy =>
      replace hx := hx.trans (if_neg hy)
      rw [destCore_eq] at hx
      have he : exec i s = .next (s.issue g (formSpawn d a b) (fxSpawn a b) _) := rfl
      rw [issue_ok h hx] at he
      refine afterRelease_of he fun he => ?_
      intro w tag k img
      have hp6 : s.cur.pos ≠ 6 := fun hc => nomatch (h.issuer (decide_eq_true hc)).1
      have hr := homeSide_release s c p .dev
      have same : SameParties (s.release c p .dev) ((s.release c p .dev).takeSrcs u) := sameParties_chTake ..
      have hcur : ((s.release c p .dev).takeSrcs u).cur = s.cur := same.cur.trans hr.cur
      have hgti : (((s.release c p .dev).takeSrcs u).startPlain {} (.spawn d)).gtiOf c p = s.gtiOf c p := by
        have k1 := gtiOf_startPlain ((s.release c p .dev).takeSrcs u) {} (act := .spawn d) (by rwa [hcur])
        rw [hcur] at k1
        have k2 := (congrArg Strand.gti (hr.strand c p) :)
        rw [k1, same.gtiOf, State.gtiOf, State.gtiOf, if_neg hp6, if_neg hp6]
        exact k2
      obtain ⟨o, ho, -⟩ := (inFlight_startPlain ((s.release c p .dev).takeSrcs u) {} (act := .spawn d) rfl).op
      rw [hcur] at ho
      have hw (j : Nat) (hj : j < 4) : word ((vToWords (v.v v.a a).x).take 4) j = w j := word_take _ hj
      refine ⟨_, inFlight_startPlain _ {} rfl, taskOf ((vToWords (v.v v.a a).x).take 4) tag 0 (s.gtiOf c p) 0, he.trans ?_, ?_,
        ?_, rfl, hw 1 (by omega), hw 2 (by omega), hw 3 (by omega), rfl⟩
      · rw [spawnNow_eq, hr.cur]
        refine (congrArg Host.Outcome.next (holdChans_op (opOf_modOp (((sameParties_sendMsg ..).opOf ..).trans ho) _) _)).trans ?_
        simp only [c, p] at hgti
        rw [hgti]
        simp only [hw 0 (by omega)]
        rfl
      · rw [taskOf, hw 0 (by omega)]
      · rw [taskOf, hw 0 (by omega)]

theorem fxJoin_eq (m : GMem) (v : View) (hx : (v.s v.a m.a).p = false) : fxJoin m v = gDva [rAtomic] m v >>= alignTo 8 := by
  unfold fxJoin gAddr needClean
  rw [hx]
  rfl

theorem join_forms {d : POp} {m : GMem} (h : Clear s g (formJoin d m)) :
    let u := (formJoin d m).use
    let x := (s.view u).s (s.view u).a m.a
    let off : Int := x.v.toInt + m.disp.toInt
    let n := m.len.toNat + 1
    let sg := s.regs.g[m.seg]
    let a := sg.base.toNat + off.toNat
    let i := Instr.join g d m
    if x.p then Traps i s { cause := 0x09, sub := 1 }
    else
      (¬ InSegment sg [2] off n → Traps i s { cause := 0x03 }) ∧
      (InSegment sg [2] off n → a % 8 ≠ 0 → Traps i s { cause := 0x06, addr := a }) ∧
      (InSegment sg [2] off n → a % 8 = 0 →
        AfterRelease i s fun r => StartsFrom i s r u (.join (some d)) a n []) := by
  intro u x off n sg a i
  have he : exec i s = .next (s.issue g (formJoin d m) (fxJoin m) _) := rfl
  split
  · next hp =>
    refine traps_poison h rfl ?_
    unfold fxJoin gAddr needClean firstPoison
    rw [show ((s.view u).s (s.view u).a m.a).p = true from hp]
    rfl
  · next hp =>
    have hx : fxJoin m (s.view u) = _ := fxJoin_eq m (s.view u) (Bool.eq_false_of_not_eq_true hp)
    refine ⟨fun hs => ?_, fun hs hal => ?_, fun hs hal => ?_⟩
    · rw [gDva_error hs] at hx
      exact traps_takeTrap (he.trans (congrArg _ (issue_error h hx _)))
    · rw [gDva_ok hs] at hx
      exact traps_takeTrap (he.trans (congrArg _ (issue_error h (hx.trans (if_neg hal)) _)))
    · rw [gDva_ok hs] at hx
      rw [issue_ok h (hx.trans (if_pos hal))] at he
      exact afterRelease_of he fun he => starts_startOp (homeSide_release ..).cur he

theorem taskFamily : Claim.TaskForms := by
  intro s g c p
  refine ⟨fun d a b h => spawn_forms h, fun d m h => join_forms h, fun d m h => ⟨globalForm_bytes h rfl rfl, ?_⟩⟩
  exact globalForm_access h rfl rfl

end

/-! The ends of a task (R233, R341) -/

theorem strand_leaveUnit (s : State) (c p e q : Nat) : (s.leaveUnit c p).strand e q = s.strand e q := by
  unfold State.leaveUnit
  split
  · rfl
  · rfl

theorem cores_launchLess (s : State) (n cl : Nat) : (s.launchLess n cl).cores = s.cores := by
  unfold State.launchLess
  split <;> rfl

theorem cores_freeToken (s : State) (c l b : Nat) : (s.freeToken c l b).cores = s.cores := by
  unfold State.freeToken
  split <;> rfl

theorem strand_of_cores {s t : State} (h : t.cores = s.cores) (c p : Nat) : t.strand c p = s.strand c p := by
  unfold State.strand State.core
  rw [h]

/-- What is left of a strand whose work has ended. -/
theorem strand_endStrand (s : State) (c p : Nat) (leave : Bool) :
    ((s.endStrand c p leave).strand c p).st = .idle ∧ ((s.endStrand c p leave).strand c p).wait = .none ∧
    ((s.endStrand c p leave).strand c p).regs = (s.strand c p).regs ∧
    ((s.endStrand c p leave).strand c p).member = if leave then .none else (s.strand c p).member := by
  obtain ⟨-, hst, -, -⟩ := setSt_spec (s.leaveUnit c p) c p .idle
  have key (t : State) (ht : t.strand c p = { ((s.leaveUnit c p).setSt c p .idle).strand c p with
      wait := .none, op := none, line := none, guard := none, region := none, stopPending := false
      stopBy := .none, fault := ⟨0, 0, 0, 0, 0⟩, bandArrived := false, dying := none
      idleSince := ((s.leaveUnit c p).setSt c p .idle).cycle, member := if leave then .none else (s.strand c p).member }) :
      (t.strand c p).st = .idle ∧ (t.strand c p).wait = .none ∧ (t.strand c p).regs = (s.strand c p).regs ∧
      (t.strand c p).member = if leave then .none else (s.strand c p).member := by
    rw [hst, strand_leaveUnit] at ht
    rw [ht]
    exact ⟨rfl, rfl, rfl, rfl⟩
  refine key _ ?_
  unfold State.endStrand
  dsimp only
  generalize (s.strand c p).member = m
  cases m with
  | none => exact strand_setStrand ..
  | pool l =>
    cases leave with
    | false => exact strand_setStrand ..
    | true => exact (strand_of_cores (cores_launchLess ..) c p).trans (strand_setStrand ..)
  | crew l b k r =>
    cases leave with
    | false => exact strand_setStrand ..
    | true => exact (strand_of_cores ((cores_freeToken ..).trans (cores_launchLess ..)) c p).trans (strand_setStrand ..)

theorem afterRelease_mono {i : Instr} {s : State} {go go' : State → Prop} (h : AfterRelease i s go)
    (hgo : ∀ r, go r → go' r) : AfterRelease i s go' := by
  unfold AfterRelease at h ⊢
  split
  · next hl => rwa [if_pos hl] at h
  · next hl =>
    rw [if_neg hl] at h
    split
    · next hb => rwa [if_pos hb] at h
    · next hb =>
      rw [if_neg hb] at h
      split
      · next n hn => rwa [hn] at h
      · next hn =>
        rw [hn] at h
        exact hgo _ h

section
variable {s : State} {g : Guard}

theorem repBusy_iff (s : State) (c p : Nat) : s.repBusy c p = true ↔ ∃ r, (s.core c).rep = some r ∧ r.owner = p := by
  unfold State.repBusy
  split
  · next r hr => simp [hr]
  · next hr => simp [hr]

/-- Whether a strand belongs to a crew. -/
def ofCrew (m : Member) : Bool := match m with | .crew _ _ _ _ => true | _ => false

theorem ofCrew_iff (m : Member) : ofCrew m = true ↔ ∃ l b k r, m = .crew l b k r := by
  cases m <;> simp [ofCrew]

theorem finish_eq (s : State) (leave : Bool) : s.finish leave =
    if s.inRegion then s.abortOwn s.cur.core s.cur.pos 6
    else if s.repBusy s.cur.core s.cur.pos then s.park s.cur.core s.cur.pos .waitMsg .repeater
    else if !ofCrew (s.strand s.cur.core s.cur.pos).member && (s.strand s.cur.core s.cur.pos).join ≠ 0 &&
        !(s.strand s.cur.core s.cur.pos).joined then
      if (s.strand s.cur.core s.cur.pos).join.toNat % 2 ^ 56 % 8 ≠ 0 then
        s.takeTrap (tAlign ((s.strand s.cur.core s.cur.pos).join.toNat % 2 ^ 56))
      else s.afterRelease fun s' => s'.startOp {} (.join none) ((s.strand s.cur.core s.cur.pos).join.toNat % 2 ^ 56) 8 []
    else s.afterRelease fun s' => s'.endStrand s.cur.core s.cur.pos (ofCrew (s.strand s.cur.core s.cur.pos).member || leave) :=
  rfl

/-- What a strand's end leaves, once its release is done. -/
theorem endsAfter {i : Instr} (leave : Bool)
    (he : exec i s = .next (s.afterRelease fun r => r.endStrand s.cur.core s.cur.pos leave)) :
    AfterRelease i s fun r => ∃ t, exec i s = .next t ∧
      (t.strand s.cur.core s.cur.pos).st = .idle ∧ (t.strand s.cur.core s.cur.pos).wait = .none ∧
      (t.strand s.cur.core s.cur.pos).regs = (r.strand s.cur.core s.cur.pos).regs ∧
      (t.strand s.cur.core s.cur.pos).member = if leave then .none else (s.strand s.cur.core s.cur.pos).member := by
  have he' : exec i s = .next (s.holdChans (s.afterRelease fun r => r.endStrand s.cur.core s.cur.pos leave) {}) := by
    rw [holdChans_none rfl]
    exact he
  refine afterRelease_of he' fun h => ?_
  rw [holdChans_none rfl] at h
  obtain ⟨h1, h2, h3, h4⟩ := strand_endStrand (s.release s.cur.core s.cur.pos .dev) s.cur.core s.cur.pos leave
  have hm := (congrArg Strand.member ((homeSide_release s s.cur.core s.cur.pos .dev).strand s.cur.core s.cur.pos) :)
  refine ⟨_, h, h1, h2, h3, h4.trans ?_⟩
  rw [show ((s.release s.cur.core s.cur.pos .dev).strand s.cur.core s.cur.pos).member =
    (s.strand s.cur.core s.cur.pos).member from hm]

theorem endForm_ends (h : Clear s g { strandOnly := true, reports := true }) (hp : OnStrand s) {i : Instr} (leave : Bool)
    (he0 : exec i s = .next (s.endForm g leave)) :
    let c := s.cur.core
    let p := s.cur.pos
    let x := s.strand c p
    let busy : Prop := ∃ r, (s.core c).rep = some r ∧ r.owner = p
    let crew : Prop := ∃ l b k r, x.member = .crew l b k r
    let a := x.join.toNat % 2 ^ 56
    let ends (leave : Prop) : Prop := AfterRelease i s fun r => ∃ t, exec i s = .next t ∧
      (t.strand c p).st = .idle ∧ (t.strand c p).wait = .none ∧ (t.strand c p).regs = (r.strand c p).regs ∧
      (leave → (t.strand c p).member = .none) ∧ (¬ leave → (t.strand c p).member = x.member)
    (∀ slot, x.region = some slot → exec i s = .next (s.abortRegion (dieOf c) slot 6 slot 256)) ∧
    (x.region = none → busy → Waits i s .waitMsg .repeater) ∧
    (x.region = none → ¬ busy → crew → ends True) ∧
    (x.region = none → ¬ busy → ¬ crew → (x.join = 0 ∨ x.joined = true) → ends (leave = true)) ∧
    (x.region = none → ¬ busy → ¬ crew → x.join ≠ 0 → x.joined = false →
      if a % 8 ≠ 0 then Traps i s { cause := 0x06, addr := a }
      else AfterRelease i s fun r => StartsFrom i s r {} (.join none) a 8 []) := by
  intro c p x busy crew a ends
  have hp6 : s.isPorter = false := decide_eq_false (by unfold OnStrand at hp; omega)
  have he : exec i s = .next (s.finish leave) := by
    refine he0.trans (congrArg Host.Outcome.next ?_)
    unfold State.endForm
    exact (issue_ok h (fx := fun _ => .ok ()) rfl _).trans (holdChans_none rfl)
  rw [finish_eq] at he
  have hreg (hx : x.region = none) : ¬ s.inRegion = true := by
    simp [State.inRegion, show (s.strand s.cur.core s.cur.pos).region = none from hx]
  have past (hx : x.region = none) (hb : ¬ busy) := he.trans (congrArg Host.Outcome.next
    ((if_neg (hreg hx)).trans (if_neg (mt (repBusy_iff s c p).mp hb))))
  refine ⟨fun slot hx => ?_, fun hx hb => ?_, fun hx hb hcr => ?_, fun hx hb hcr hj => ?_, fun hx hb hcr hj hjd => ?_⟩
  · have hin : s.inRegion = true := by
      simp [State.inRegion, hp6, show (s.strand s.cur.core s.cur.pos).region = some slot from hx]
    refine he.trans (congrArg Host.Outcome.next ((if_pos hin).trans ?_))
    unfold State.abortOwn
    rw [show (s.strand s.cur.core s.cur.pos).region = some slot from hx]
  · exact ⟨_, he.trans (congrArg Host.Outcome.next ((if_neg (hreg hx)).trans (if_pos ((repBusy_iff s c p).mpr hb)))),
      parked_park ..⟩
  · have hc : ofCrew (s.strand s.cur.core s.cur.pos).member = true := (ofCrew_iff _).mpr hcr
    have he := past hx hb
    rw [hc] at he
    refine afterRelease_mono (endsAfter true he) fun r => ?_
    rintro ⟨t, h1, h2, h3, h4, h5⟩
    exact ⟨t, h1, h2, h3, h4, fun _ => h5, fun hn => absurd trivial hn⟩
  · have hc : ofCrew (s.strand s.cur.core s.cur.pos).member = false := Bool.eq_false_of_not_eq_true (mt (ofCrew_iff _).mp hcr)
    have he := past hx hb
    have hj' : (!ofCrew (s.strand s.cur.core s.cur.pos).member && (s.strand s.cur.core s.cur.pos).join ≠ 0 &&
        !(s.strand s.cur.core s.cur.pos).joined) = false := by
      rcases hj with hj | hj
      · simp [show (s.strand s.cur.core s.cur.pos).join = 0 from hj]
      · simp [show (s.strand s.cur.core s.cur.pos).joined = true from hj]
    rw [hj', hc] at he
    refine afterRelease_mono (endsAfter leave he) fun r => ?_
    rintro ⟨t, h1, h2, h3, h4, h5⟩
    exact ⟨t, h1, h2, h3, h4, fun hl => h5.trans (if_pos hl), fun hl => h5.trans (if_neg hl)⟩
  · have hc : ofCrew (s.strand s.cur.core s.cur.pos).member = false := Bool.eq_false_of_not_eq_true (mt (ofCrew_iff _).mp hcr)
    have he := past hx hb
    have hj' : (!ofCrew (s.strand s.cur.core s.cur.pos).member && (s.strand s.cur.core s.cur.pos).join ≠ 0 &&
        !(s.strand s.cur.core s.cur.pos).joined) = true := by
      rw [hc, show (s.strand s.cur.core s.cur.pos).joined = false from hjd]
      simpa using hj
    rw [if_pos hj'] at he
    split
    · next hal => exact traps_takeTrap (he.trans (congrArg _ (if_pos hal)))
    · next hal =>
      replace he := he.trans (congrArg Host.Outcome.next (if_neg hal))
      refine afterRelease_of (u := {}) (he.trans (congrArg Host.Outcome.next (holdChans_none rfl).symm)) fun h' => ?_
      rw [holdChans_none rfl] at h'
      exact starts_startOp (homeSide_release ..).cur (h'.trans (congrArg Host.Outcome.next (holdChans_none rfl).symm))

theorem taskEnds : Claim.TaskEnds := by
  intro s g h hp c p x busy crew a e he ends
  simp only [List.mem_cons, List.not_mem_nil, or_false] at he
  rcases he with rfl | rfl
  · have k := endForm_ends h hp (i := .texit g) false rfl
    simpa only [Bool.false_eq_true] using k
  · have k := endForm_ends h hp (i := .halt g) true rfl
    simpa only using k

end

/-- Settles O34: each form up to its release through `afterRelease_of`, and what a strand's end leaves of it. -/
theorem taskForms : Obligations.TaskForms := ⟨taskFamily, taskEnds⟩

end Sys2Proof.Safety
end

section
/-! SUPPORT. What waking parties changes (R43, R174): `WakeSide` says it once, for one party and for all that a test
selects. -/

namespace Sys2Proof.Safety

open Sys2Proof.Machine

/-- Parties leave or enter the rotation: nothing changes but whether they run and for what they wait, and what the trace
takes of it. -/
structure WakeSide (s t : State) : Prop where
  rest : { t with cores := s.cores, dies := s.dies } = s
  dies : ∀ d, ({ t.die d with trace := (s.die d).trace } : Die) = s.die d
  strand : ∀ c p, ({ t.strand c p with
    st := (s.strand c p).st, wait := (s.strand c p).wait, notBefore := (s.strand c p).notBefore
    again := (s.strand c p).again, stopPending := (s.strand c p).stopPending, left := (s.strand c p).left
    leftWait := (s.strand c p).leftWait } : Strand) = s.strand c p
  porter : ∀ c, ({ t.porter c with
    st := (s.porter c).st, wait := (s.porter c).wait, notBefore := (s.porter c).notBefore } : Porter) = s.porter c
  core : ∀ c, ({ t.core c with
    strands := (s.core c).strands, porter := (s.core c).porter, stamps := (s.core c).stamps
    stampLost := (s.core c).stampLost } : Core) = s.core c
  mem : KeepsMem s t

/-- A strand that runs and that nothing stops goes on running. -/
def Going (s t : State) : Prop := ∀ c p, (s.strand c p).stopPending = false →
  (t.strand c p).stopPending = false ∧ ((s.strand c p).st = .run → (t.strand c p).st = .run)

theorem WakeSide.refl (s : State) : WakeSide s s :=
  ⟨rfl, fun _ => rfl, fun _ _ => rfl, fun _ => rfl, fun _ => rfl, .refl s⟩

theorem WakeSide.trans {s t u : State} (h : WakeSide s t) (k : WakeSide t u) : WakeSide s u where
  rest := by
    have e := congrArg (fun x : State => ({ x with cores := s.cores, dies := s.dies } : State)) k.rest
    exact e.trans h.rest
  dies d := by
    have e := congrArg (fun x : Die => ({ x with trace := (s.die d).trace } : Die)) (k.dies d)
    exact e.trans (h.dies d)
  strand c p := by
    have e := congrArg (fun x : Strand => ({ x with
      st := (s.strand c p).st, wait := (s.strand c p).wait, notBefore := (s.strand c p).notBefore
      again := (s.strand c p).again, stopPending := (s.strand c p).stopPending, left := (s.strand c p).left
      leftWait := (s.strand c p).leftWait } : Strand)) (k.strand c p)
    exact e.trans (h.strand c p)
  porter c := by
    have e := congrArg (fun x : Porter => ({ x with
      st := (s.porter c).st, wait := (s.porter c).wait, notBefore := (s.porter c).notBefore } : Porter)) (k.porter c)
    exact e.trans (h.porter c)
  core c := by
    have e := congrArg (fun x : Core => ({ x with
      strands := (s.core c).strands, porter := (s.core c).porter, stamps := (s.core c).stamps
      stampLost := (s.core c).stampLost } : Core)) (k.core c)
    exact e.trans (h.core c)
  mem := h.mem.trans k.mem

theorem Going.refl (s : State) : Going s s := fun _ _ h => ⟨h, id⟩

theorem Going.trans {s t u : State} (h : Going s t) (k : Going t u) : Going s u := fun c p hs =>
  ⟨(k c p (h c p hs).1).1, (k c p (h c p hs).1).2 ∘ (h c p hs).2⟩

/-- A step that puts a strand at `st` under a wait changes no more of it. -/
theorem wakeSide_setStrand {s : State} {c p : Nat} {x : Strand} (hx : ({ x with
    st := (s.strand c p).st, wait := (s.strand c p).wait, notBefore := (s.strand c p).notBefore
    again := (s.strand c p).again, stopPending := (s.strand c p).stopPending, left := (s.strand c p).left
    leftWait := (s.strand c p).leftWait } : Strand) = s.strand c p) : WakeSide s (s.setStrand c p x) := by
  refine ⟨rfl, fun _ => rfl, fun e q => ?_, fun e => ?_, fun e => ?_, keepsMem_setCore_ls rfl⟩
  · rw [strand_setStrand_eq]
    split
    · next h =>
      obtain ⟨rfl, rfl⟩ := h
      exact hx
    · rfl
  · rw [porter_setStrand]
  · rw [setStrand_eq, core_setCore_eq]
    split
    · next h => subst h; rfl
    · rfl

theorem wakeSide_setPorter {s : State} {c : Nat} {x : Porter} (hx : ({ x with
    st := (s.porter c).st, wait := (s.porter c).wait, notBefore := (s.porter c).notBefore } : Porter) = s.porter c) :
    WakeSide s (s.setPorter c x) := by
  refine ⟨rfl, fun _ => rfl, fun e q => ?_, fun e => ?_, fun e => ?_, keepsMem_setCore_ls rfl⟩
  · rw [strand_setPorter]
  · by_cases h : e = c
    · subst h
      rw [porter_setPorter]
      exact hx
    · rw [porter_setPorter_other _ _ _ _ h]
  · rw [setPorter_eq, core_setCore_eq]
    split
    · next h => subst h; rfl
    · rfl

theorem keepsMem_stamp (s : State) (c kind : Nat) (gti : BitVec 32) (aux : BitVec 16) :
    KeepsMem s (s.stamp c kind gti aux) := by
  unfold State.stamp
  dsimp only
  split
  · split
    · split <;> exact keepsMem_setCore_ls rfl
    · split <;> exact keepsMem_setCore_ls rfl
  · split
    · exact keepsMem_of rfl rfl
    · exact .refl s

theorem wakeSide_stamp (s : State) (c kind : Nat) (gti : BitVec 32) (aux : BitVec 16) :
    WakeSide s (s.stamp c kind gti aux) := by
  have h := stampOnly_stamp s c kind gti aux
  refine ⟨h.rest, h.dies, fun e q => by rw [h.strand], fun e => by rw [h.porter], fun e => ?_, keepsMem_stamp s c kind gti aux⟩
  by_cases he : e = c
  · subst he
    have hs := congrArg Core.strands h.core
    have hp := congrArg Core.porter h.core
    dsimp only at hs hp
    rw [← hs, ← hp]
    exact h.core
  · rw [h.cores e he]

theorem wakeSide_setSt (s : State) (c p : Nat) (st : RunState) : WakeSide s (s.setSt c p st) := by
  unfold State.setSt
  dsimp only
  split
  · exact wakeSide_setStrand rfl
  · refine WakeSide.trans ?_ (wakeSide_stamp ..)
    exact wakeSide_setStrand rfl

theorem going_other {s t : State} {c p : Nat} (h : ∀ e q, (e, q) ≠ (c, p) → t.strand e q = s.strand e q)
    (hc : (s.strand c p).stopPending = false →
      (t.strand c p).stopPending = false ∧ ((s.strand c p).st = .run → (t.strand c p).st = .run)) : Going s t := by
  intro e q hs
  by_cases he : (e, q) = (c, p)
  · obtain ⟨rfl, rfl⟩ := Prod.mk.inj he
    exact hc hs
  · rw [h e q he]
    exact ⟨hs, id⟩

theorem strand_setSt_other (s : State) (c p : Nat) (st : RunState) {e q : Nat} (h : (e, q) ≠ (c, p)) :
    (s.setSt c p st).strand e q = s.strand e q := by
  unfold State.setSt
  dsimp only
  split
  · exact strand_setStrand_other _ _ _ _ _ _ h
  · rw [(stampOnly_stamp ..).strand, strand_setStrand_other _ _ _ _ _ _ h]

theorem wakeSide_wake (s : State) (c p : Nat) : WakeSide s (s.wake c p) := by
  unfold State.wake
  split
  · exact wakeSide_setPorter rfl
  · exact (wakeSide_setSt s c p .run).trans (wakeSide_setStrand rfl)

theorem strand_wake_other (s : State) (c p : Nat) {e q : Nat} (h : (e, q) ≠ (c, p)) :
    (s.wake c p).strand e q = s.strand e q := by
  unfold State.wake
  split
  · exact strand_setPorter ..
  · exact (strand_setStrand_other _ _ _ _ _ _ h).trans (strand_setSt_other _ _ _ _ h)

/-- A strand that wakes runs from the next cycle on. -/
theorem strand_wake (s : State) (c p : Nat) (hp : p ≠ 6) : (s.wake c p).strand c p =
    { s.strand c p with st := .run, wait := .none, notBefore := max (s.strand c p).notBefore (s.cycle + 1) } := by
  have hcy : (s.setSt c p .run).cycle = s.cycle := (congrArg State.cycle (wakeSide_setSt s c p .run).rest :)
  unfold State.wake
  rw [if_neg hp]
  dsimp only
  rw [strand_setStrand, (setSt_spec s c p .run).2.1, hcy]

theorem going_wake (s : State) (c p : Nat) : Going s (s.wake c p) := by
  by_cases hp : p = 6
  · subst hp
    intro e q hs
    have h : (s.wake c 6).strand e q = s.strand e q := strand_setPorter ..
    rw [h]
    exact ⟨hs, id⟩
  · refine going_other (fun e q => strand_wake_other s c p) fun hs => ?_
    rw [strand_wake s c p hp]
    exact ⟨hs, fun _ => rfl⟩

theorem wakeSide_unpark (s : State) (c p : Nat) : WakeSide s (s.unpark c p) := by
  unfold State.unpark
  dsimp only
  split
  · exact (wakeSide_setSt s c p .stopped).trans (wakeSide_setStrand rfl)
  · exact wakeSide_wake ..

theorem strand_unpark_other (s : State) (c p : Nat) {e q : Nat} (h : (e, q) ≠ (c, p)) :
    (s.unpark c p).strand e q = s.strand e q := by
  unfold State.unpark
  dsimp only
  split
  · exact (strand_setStrand_other _ _ _ _ _ _ h).trans (strand_setSt_other _ _ _ _ h)
  · exact strand_wake_other _ _ _ h

theorem unpark_eq_wake {s : State} {c p : Nat} (h : (s.strand c p).stopPending = false) : s.unpark c p = s.wake c p := by
  unfold State.unpark
  simp [h]

theorem going_unpark (s : State) (c p : Nat) : Going s (s.unpark c p) := by
  refine going_other (fun e q => strand_unpark_other s c p) fun hs => ?_
  rw [unpark_eq_wake hs]
  exact going_wake s c p c p hs

theorem wakeSide_relook (s : State) (c p : Nat) : WakeSide s (s.relook c p) := by
  unfold State.relook
  dsimp only
  split
  · exact (wakeSide_unpark s c p).trans (wakeSide_setStrand rfl)
  · exact wakeSide_unpark ..

theorem strand_relook_other (s : State) (c p : Nat) {e q : Nat} (h : (e, q) ≠ (c, p)) :
    (s.relook c p).strand e q = s.strand e q := by
  unfold State.relook
  dsimp only
  split
  · exact (strand_setStrand_other _ _ _ _ _ _ h).trans (strand_unpark_other _ _ _ h)
  · exact strand_unpark_other _ _ _ h

theorem going_relook (s : State) (c p : Nat) : Going s (s.relook c p) := by
  unfold State.relook
  dsimp only
  split
  · refine (going_unpark s c p).trans (going_other (fun e q => strand_setStrand_other _ _ _ _ _ _) fun hs => ?_)
    rw [strand_setStrand]
    exact ⟨hs, id⟩
  · exact going_unpark s c p

/-- Waking all that a test selects is a run of steps, each of which wakes one of them. -/
theorem wakeWaits_of {R : State → State → Prop} (refl : ∀ s, R s s) (trans : ∀ s t u, R s t → R t u → R s u)
    (s : State) (f : Nat → Wait → Bool)
    (strand : ∀ t, ∀ e ∈ s.cores, ∀ y ∈ e.2.strands, f e.1 y.2.wait = true → (y.2.st = .waitMem ∨ y.2.st = .waitMsg) →
      R t (t.relook e.1 y.1))
    (porter : ∀ t, ∀ e ∈ s.cores, R t (t.wake e.1 6)) : R s (s.wakeWaits f) := by
  have run {α : Type} (g : State → α → State) (l : List α) (h : ∀ t, ∀ x ∈ l, R t (g t x)) (t : State) :
      R t (l.foldl g t) := by
    induction l generalizing t with
    | nil => exact refl t
    | cons x l ih =>
      exact trans _ _ _ (h t x (.head _)) (ih (fun t y hy => h t y (.tail _ hy)) _)
  unfold State.wakeWaits
  refine run _ _ (fun t e he => ?_) s
  dsimp only
  have k : R t (e.2.strands.foldl (fun s y =>
      if f e.1 y.2.wait && (y.2.st = .waitMem || y.2.st = .waitMsg) then s.relook e.1 y.1 else s) t) := by
    refine run _ _ (fun t y hy => ?_) t
    split
    · next h =>
      simp only [Bool.and_eq_true, Bool.or_eq_true, decide_eq_true_eq] at h
      exact strand t e he y hy h.1 h.2
    · exact refl t
  split
  · exact trans _ _ _ k (porter _ e he)
  · exact k

theorem wakeSide_wakeWaits (s : State) (f : Nat → Wait → Bool) : WakeSide s (s.wakeWaits f) :=
  wakeWaits_of .refl (fun _ _ _ => .trans) s f (fun _ _ _ _ _ _ _ => wakeSide_relook ..) fun _ _ _ => wakeSide_wake ..

theorem going_wakeWaits (s : State) (f : Nat → Wait → Bool) : Going s (s.wakeWaits f) :=
  wakeWaits_of .refl (fun _ _ _ => .trans) s f (fun t e _ y _ _ _ => going_relook t e.1 y.1) fun t e _ => going_wake t e.1 6

/-! A strand that does not wait -/

/-- Wherever a strand stands in the state, it stands at `st`. -/
def AllStand (s : State) (c p : Nat) (st : RunState) : Prop :=
  ∀ e ∈ s.cores, e.1 = c → ∀ y ∈ e.2.strands, y.1 = p → y.2.st = st

theorem AllStand.core {s : State} {c p : Nat} {st : RunState} (h : AllStand s c p st) :
    ∀ y ∈ (s.core c).strands, y.1 = p → y.2.st = st := by
  unfold State.core mapGet
  cases hc : mapGet? s.cores c with
  | none => exact fun y hy => absurd hy List.not_mem_nil
  | some k => exact h _ (mem_of_mapGet? hc) rfl

theorem AllStand.of_once {s : State} {c p : Nat} (h : Once s c p) : AllStand s c p (s.strand c p).st := by
  intro e he hc y hy hp
  rw [h.1 e he hc] at hy
  rw [h.2 y hy hp]

theorem AllStand.of_cores {s t : State} {c p : Nat} {st : RunState} (h : AllStand s c p st) (k : t.cores = s.cores) :
    AllStand t c p st := by
  intro e he
  rw [k] at he
  exact h e he

theorem AllStand.setCore {s : State} {c p d : Nat} {st : RunState} {k : Core} (h : AllStand s c p st)
    (hk : d = c → ∀ y ∈ k.strands, y.1 = p → y.2.st = st) : AllStand (s.setCore d k) c p st := by
  intro e he hc
  rcases mem_mapPut he with rfl | he
  · exact hk hc
  · exact h e he hc

theorem AllStand.setCore_same {s : State} {c p d : Nat} {st : RunState} {k : Core} (h : AllStand s c p st)
    (hk : k.strands = (s.core d).strands) : AllStand (s.setCore d k) c p st :=
  h.setCore fun hd => by rw [hk, hd]; exact h.core

theorem AllStand.setStrand {s : State} {c p d q : Nat} {st : RunState} {x : Strand} (h : AllStand s c p st)
    (hx : d = c → q = p → x.st = st) : AllStand (s.setStrand d q x) c p st := by
  refine h.setCore fun hd y hy hp => ?_
  rcases mem_mapPut hy with rfl | hy
  · exact hx hd hp
  · exact (hd ▸ h).core y hy hp

theorem AllStand.setPorter {s : State} {c p d : Nat} {st : RunState} {x : Porter} (h : AllStand s c p st) :
    AllStand (s.setPorter d x) c p st := h.setCore_same rfl

/-- A strand that stands trapped stays so, whoever wakes. -/
theorem strand_wakeWaits {s : State} {c p : Nat} {st : RunState} (h : AllStand s c p st) (h1 : st ≠ .waitMem)
    (h2 : st ≠ .waitMsg) (hp : p ≠ 6) (f : Nat → Wait → Bool) : (s.wakeWaits f).strand c p = s.strand c p := by
  refine wakeWaits_of (R := fun s t => t.strand c p = s.strand c p) (fun _ => rfl) (fun _ _ _ h k => k.trans h) s f
    (fun t e he y hy _ hw => strand_relook_other _ _ _ ?_) fun t e he => strand_wake_other _ _ _ ?_
  · intro heq
    obtain ⟨rfl, rfl⟩ := Prod.mk.inj heq
    rw [h e he rfl y hy rfl] at hw
    exact hw.elim h1 h2
  · intro heq
    exact hp (Prod.mk.inj heq).2

end Sys2Proof.Safety
end

section
/-! SUPPORT. FRB, FRE, FRA and FRQ, and what an abort restores (O35). -/

namespace Sys2Proof.Safety

open Sys2Proof.Machine

/-! The slots of a ROU -/

theorem freeSlot_none (r : Rou) : freeSlot r = none ↔ ∀ n < 256, mapGet? r.slots n ≠ none := by
  simp [freeSlot, Option.ne_none_iff_isSome]

theorem freeSlot_some {r : Rou} {n : Nat} (hn : n < 256) (hfree : mapGet? r.slots n = none)
    (hleast : ∀ k < n, mapGet? r.slots k ≠ none) : freeSlot r = some n := by
  rw [freeSlot, List.find?_range_eq_some]
  refine ⟨by simp [hfree], List.mem_range.mpr hn, fun k hk => ?_⟩
  simpa [Option.ne_none_iff_isSome] using hleast k hk

theorem rou_setRou (s : State) (d : Nat) (r : Rou) : (s.setRou d r).rou d = r := by
  unfold State.rou State.setRou
  rw [die_setDie]

theorem rou_park (s : State) (c p : Nat) (st : RunState) (w : Wait) (d : Nat) : (s.park c p st w).rou d = s.rou d :=
  (congrArg Die.rou ((parked_park s c p st w).own.dies d) :)

section
variable {s : State} {g : Guard}

theorem fxFrb_ok {off : BitVec 32} {v : View} {t : Pc} (h : relTarget v.regs.pc off = .ok t) : fxFrb false off v = .ok t :=
  h

theorem beforeRegion_eq (s : State) (act : State → State) : s.beforeRegion act =
    if s.hasEntries s.cur.core s.cur.pos then s.park s.cur.core s.cur.pos .waitMem .sidelog
    else if s.releaseHeld s.cur.core s.cur.pos || (s.releaseAll s.cur.core s.cur.pos).short = some none then
      s.park s.cur.core s.cur.pos .waitMem .region
    else match (s.releaseAll s.cur.core s.cur.pos).short.join with
      | some k => s.takeTrap (tOver k)
      | none => act (s.releaseAll s.cur.core s.cur.pos) := rfl

theorem pc_fields (b : Bool) {x : Int} (h0 : 0 ≤ x) (h1 : x < 2 ^ 23) :
    (((BitVec.ofBool b ++ BitVec.ofInt 23 x).extractLsb' 0 23).toNat : Int) = x ∧
    (BitVec.ofBool b ++ BitVec.ofInt 23 x).getLsbD 23 = b := by
  obtain ⟨n, rfl⟩ := Int.eq_ofNat_of_zero_le h0
  have hn : n < 2 ^ 23 := by omega
  refine ⟨?_, ?_⟩
  · have h : (BitVec.ofBool b ++ BitVec.ofInt 23 (n : Int)).extractLsb' 0 23 = BitVec.ofInt 23 (n : Int) := by
      apply BitVec.eq_of_getLsbD_eq
      intro i hi
      rw [BitVec.getLsbD_extractLsb', BitVec.getLsbD_append]
      simp [hi]
    rw [h, BitVec.ofInt_natCast, BitVec.toNat_ofNat, Nat.mod_eq_of_lt hn]
  · rw [BitVec.getLsbD_append]
    simp

/-- A form that names no channel has retired from the state that it made. -/
theorem retiresFrom_retire {i : Instr} {b : State} {l : List Eff} (hc : b.cur = s.cur)
    (he : exec i s = .next (b.retire l)) (hl : l.all (fun e => !isLs e) = true) : RetiresFrom i s b {} l :=
  retiresFrom_retireOf hc (by rw [he, State.retire, hc]) hl

/-- FRB's own part: it waits, or takes the slot. -/
theorem openRegion_forms {i : Instr} {r : State} (hr : HomeSide s r) (hp : OnStrand s) (code : SOp) (fail : Pc)
    (he : exec i s = .next (r.openRegion code fail)) :
    let c := s.cur.core
    let p := s.cur.pos
    let d := dieOf c
    let u := r.rou d
    let me := (c, p, (r.strand c p).gti)
    let l := r.slotQueue d me
    ((256 - u.slots.length ≤ l.idxOf me ∨ ∀ n < 256, mapGet? u.slots n ≠ none) →
      ∃ t, exec i s = .next t ∧ Parked c p (r.setRou d { u with queue := l }) t .waitMem .rouSlot) ∧
    (l.idxOf me < 256 - u.slots.length →
    ∀ n < 256, mapGet? u.slots n = none → (∀ k < n, mapGet? u.slots k ≠ none) →
      ∃ k : RegSlot, k.core = c ∧ k.pos = p ∧ k.seq = u.counter ∧ k.fail = fail ∧ k.code = code ∧
        k.ckpt = s.regs ∧ k.depth = 0 ∧ RetiresFrom i s
          ((r.setRou d { u with
            slots := mapPut u.slots n k, counter := u.counter + 1, queue := l.erase me }).setStrand c p
            { r.strand c p with region := some n }) {} []) := by
  intro c p d u me l
  have hp6 : s.cur.pos ≠ 6 := by unfold OnStrand at hp; omega
  unfold State.openRegion at he
  simp only [hr.cur] at he
  refine ⟨fun hw => ?_, fun hroom n hn hfree hleast => ?_⟩
  · have hnone : (if l.idxOf me < 256 - u.slots.length then freeSlot u else none) = none := by
      rcases hw with hw | hw
      · exact if_neg (by omega)
      · rw [(freeSlot_none u).mpr hw, ite_self]
    rw [show (if List.idxOf (s.cur.core, s.cur.pos, (r.strand s.cur.core s.cur.pos).gti) _ < _ then _ else _) = _ from hnone]
      at he
    exact ⟨_, he, parked_park ..⟩
  · have hsome : (if l.idxOf me < 256 - u.slots.length then freeSlot u else none) = some n := by
      rw [if_pos hroom, freeSlot_some hn hfree hleast]
    rw [show (if List.idxOf (s.cur.core, s.cur.pos, (r.strand s.cur.core s.cur.pos).gti) _ < _ then _ else _) = _ from hsome]
      at he
    have hregs : (r.strand c p).regs = s.regs := by
      have k := (congrArg Strand.regs (hr.strand c p) :)
      rw [State.regs, regsOf_strand _ _ _ hp6]
      exact k
    refine ⟨⟨c, p, u.counter, fail, code, (r.strand c p).regs, 0, false, false⟩, rfl, rfl, rfl, rfl, rfl, hregs, rfl, ?_⟩
    exact retiresFrom_retire hr.cur he rfl

theorem frb_forms (hp : OnStrand s) (code : SOp) (off : BitVec 32) (h : Clear s g { strandOnly := true }) :
    let c := s.cur.core
    let p := s.cur.pos
    let x := s.strand c p
    let d := dieOf c
    let i := Instr.frb g code off
    let target : Int := (s.pc.extractLsb' 0 23).toNat + off.toInt
    if x.region ≠ none ∨ target < 0 ∨ 2 ^ 23 ≤ target then Traps i s { cause := 0x01 }
    else if s.hasEntries c p then Waits i s .waitMem .sidelog
    else if s.releaseHeld c p ∨ (s.releaseAll c p).short = some none then Waits i s .waitMem .region
    else match (s.releaseAll c p).short.join with
    | some n => Traps i s { cause := 0x0D, info := n % 96 + n / 96 * 256 }
    | none =>
      let r := s.releaseAll c p
      let u := r.rou d
      let me := (c, p, (r.strand c p).gti)
      let l := r.slotQueue d me
      ((256 - u.slots.length ≤ l.idxOf me ∨ ∀ n < 256, mapGet? u.slots n ≠ none) →
        ∃ t, exec i s = .next t ∧ Parked c p (r.setRou d { u with queue := l }) t .waitMem .rouSlot) ∧
      (l.idxOf me < 256 - u.slots.length →
      ∀ n < 256, mapGet? u.slots n = none → (∀ k < n, mapGet? u.slots k ≠ none) →
        ∃ k : RegSlot, k.core = c ∧ k.pos = p ∧ k.seq = u.counter ∧ ((k.fail.extractLsb' 0 23).toNat : Int) = target ∧
          k.fail.getLsbD 23 = s.pc.getLsbD 23 ∧ k.code = code ∧
          k.ckpt = s.regs ∧ k.depth = 0 ∧ RetiresFrom i s
            ((r.setRou d { u with
              slots := mapPut u.slots n k, counter := u.counter + 1, queue := l.erase me }).setStrand c p
              { r.strand c p with region := some n }) {} []) := by
  intro c p x d i target
  have hp6 : s.isPorter = false := decide_eq_false (by unfold OnStrand at hp; omega)
  have he : exec i s = .next (s.issue g { strandOnly := true } (fxFrb s.inRegion off) fun s t =>
    s.beforeRegion fun s => s.openRegion code t) := rfl
  split
  · next hbad =>
    have hx : fxFrb s.inRegion off (s.view {}) = .error tIllegal := by
      rcases hbad with hreg | hbad
      · have hin : s.inRegion = true := by
          rw [State.inRegion, hp6]
          exact Option.isSome_iff_ne_none.mpr hreg
        rw [hin]
        rfl
      · have ht : relTarget (s.view {}).regs.pc off = .error tIllegal := relTarget_error fun hin => hbad.elim (fun k => absurd hin.1 (not_le.mpr k)) fun k => absurd hin.2 (not_lt.mpr k)
        cases hin : s.inRegion with
        | true => rfl
        | false => exact ht
    exact traps_takeTrap (he.trans (congrArg _ (issue_error h hx _)))
  · next hok =>
    obtain ⟨hreg, hlo, hhi⟩ := not_or.mp hok |>.imp id not_or.mp
    have hin : s.inRegion = false := by
      rw [State.inRegion, hp6, show (s.strand s.cur.core s.cur.pos).region = none from not_not.mp hreg]
      rfl
    have ht : relTarget (s.view {}).regs.pc off = .ok _ := relTarget_ok ⟨not_lt.mp hlo, not_le.mp hhi⟩
    obtain ⟨htarget, hspace⟩ := pc_fields (s.pc.getLsbD 23) (not_lt.mp hlo) (not_le.mp hhi)
    rw [hin, issue_ok h ht, holdChans_none rfl, beforeRegion_eq] at he
    split
    · next hl => exact ⟨_, he.trans (congrArg Host.Outcome.next (if_pos hl)), parked_park ..⟩
    · next hl =>
      replace he := he.trans (congrArg Host.Outcome.next (if_neg hl))
      split
      · next hb => exact ⟨_, he.trans (congrArg Host.Outcome.next (if_pos (by simpa using hb))), parked_park ..⟩
      · next hb =>
        replace he := he.trans (congrArg Host.Outcome.next (if_neg (by simpa using hb)))
        split
        · next n hn =>
          rw [hn] at he
          exact traps_takeTrap he
        · next hn =>
          rw [hn] at he
          intro r u me l
          obtain ⟨hwait, hopen⟩ := openRegion_forms (homeSide_releaseAll s c p) hp code _ he
          refine ⟨hwait, fun hroom n hn hfree hleast => ?_⟩
          obtain ⟨k, h1, h2, h3, h4, h5⟩ := hopen hroom n hn hfree hleast
          refine ⟨k, h1, h2, h3, ?_, ?_, h5⟩
          · rw [h4]; exact htarget
          · rw [h4]; exact hspace

theorem inRegion_eq (hp : OnStrand s) : s.inRegion = (s.strand s.cur.core s.cur.pos).region.isSome := by
  rw [State.inRegion, State.isPorter, decide_eq_false (by unfold OnStrand at hp; omega)]
  rfl

theorem freFra_forms (hp : OnStrand s) (h : Clear s g { strandOnly := true }) :
    let c := s.cur.core
    let p := s.cur.pos
    let x := s.strand c p
    let d := dieOf c
    (x.region = none → Traps (.fre g) s { cause := 0x01 } ∧ Traps (.fra g) s { cause := 0x01 }) ∧
    ∀ n, x.region = some n →
      exec (.fra g) s = .next (s.abortRegion d n 6 n 256) ∧
      ∃ t, exec (.fre g) s = .next t ∧ stOf t c p = .waitMsg ∧ t.waitOf c p = .fre ∧ t.regs = s.regs ∧
        ∀ k, mapGet? (s.rou d).slots n = some k → mapGet? (t.rou d).slots n = some { k with fre := true } := by
  intro c p x d
  have hfre : exec (.fre g) s = .next (s.issue g { strandOnly := true } (fxInside s.inRegion) fun s _ => s.freNow) := rfl
  have hfra : exec (.fra g) s = .next (s.issue g { strandOnly := true } (fxInside s.inRegion)
    fun s _ => s.abortOwn s.cur.core s.cur.pos 6) := rfl
  refine ⟨fun hn => ?_, fun n hn => ?_⟩
  · have hx : fxInside s.inRegion (s.view {}) = .error tIllegal := by
      rw [inRegion_eq hp, show (s.strand s.cur.core s.cur.pos).region = none from hn]
      rfl
    exact ⟨traps_takeTrap (hfre.trans (congrArg _ (issue_error h hx _))),
      traps_takeTrap (hfra.trans (congrArg _ (issue_error h hx _)))⟩
  · have hx : fxInside s.inRegion (s.view {}) = .ok () := by
      rw [inRegion_eq hp, show (s.strand s.cur.core s.cur.pos).region = some n from hn]
      rfl
    rw [issue_ok h hx, holdChans_none rfl] at hfre hfra
    refine ⟨?_, ?_⟩
    · rw [hfra, State.abortOwn, show (s.strand s.cur.core s.cur.pos).region = some n from hn]
    · have park (b : State) (hc : b.cur = s.cur) (hb : b.regsOf c p = s.regsOf c p) (hslot : ∀ k, mapGet? (s.rou d).slots n = some k →
          mapGet? (b.rou d).slots n = some { k with fre := true })
          (he : exec (.fre g) s = .next (b.park c p .waitMsg .fre)) :
          ∃ t, exec (.fre g) s = .next t ∧ stOf t c p = .waitMsg ∧ t.waitOf c p = .fre ∧ t.regs = s.regs ∧
            ∀ k, mapGet? (s.rou d).slots n = some k → mapGet? (t.rou d).slots n = some { k with fre := true } := by
        have k := parked_park b c p .waitMsg .fre
        have hcur : (b.park c p .waitMsg .fre).cur = b.cur := (congrArg State.cur k.own.rest :)
        refine ⟨_, he, k.st, k.wait, ?_, fun j hj => ?_⟩
        · rw [State.regs, hcur, hc]
          exact k.regs.trans hb
        · rw [rou_park]
          exact hslot j hj
      unfold State.freNow at hfre
      dsimp only at hfre
      rw [show (s.strand s.cur.core s.cur.pos).region = some n from hn] at hfre
      dsimp only at hfre
      split at hfre
      · next k hk =>
        refine park _ ?_ ?_ (fun k' hk' => ?_) hfre
        · rfl
        · rfl
        · obtain rfl := Option.some.inj (hk.symm.trans hk')
          rw [rou_setRou]
          exact mapGet?_mapPut_same ..
      · next hk =>
        refine park _ ?_ ?_ (fun k' hk' => nomatch hk.symm.trans hk') hfre
        · rfl
        · rfl

/-- The fields of the word that FRQ gives (R354). -/
theorem regionWord_fields {a b e n : Nat} (ha : a < 2 ^ 8) (hb : b < 2 ^ 8) (he : e < 8) (hn : n < 256) {w : Word}
    (hw : w = BitVec.ofNat 64 (a * 2 ^ 32 + b * 2 ^ 24 + e * 2 ^ 16 + n * 2 ^ 8 + 1)) :
    w.getLsbD 0 = true ∧ w.extractLsb' 1 7 = 0 ∧ (w.extractLsb' 8 8).toNat = n ∧ (w.extractLsb' 16 3).toNat = e ∧
    w.extractLsb' 19 5 = 0 ∧ (w.extractLsb' 24 8).toNat = b ∧ (w.extractLsb' 32 8).toNat = a ∧
    w.extractLsb' 40 24 = 0 := by
  have hv : w.toNat = a * 2 ^ 32 + b * 2 ^ 24 + e * 2 ^ 16 + n * 2 ^ 8 + 1 := by
    rw [hw, BitVec.toNat_ofNat]
    omega
  have field (i l : Nat) : (w.extractLsb' i l).toNat = w.toNat / 2 ^ i % 2 ^ l := by
    rw [BitVec.extractLsb'_toNat, Nat.shiftRight_eq_div_pow]
  refine ⟨?_, ?_, ?_, ?_, ?_, ?_, ?_, ?_⟩
  · rw [BitVec.getLsbD, Nat.testBit_zero, hv]
    exact decide_eq_true (by omega)
  · exact BitVec.eq_of_toNat_eq (by rw [field, hv, show (0 : BitVec _).toNat = 0 from rfl]; omega)
  · rw [field, hv]; omega
  · rw [field, hv]; omega
  · exact BitVec.eq_of_toNat_eq (by rw [field, hv, show (0 : BitVec _).toNat = 0 from rfl]; omega)
  · rw [field, hv]; omega
  · rw [field, hv]; omega
  · exact BitVec.eq_of_toNat_eq (by rw [field, hv, show (0 : BitVec _).toNat = 0 from rfl]; omega)

theorem frq_forms (r : SOp) (h : Clear s g { use := { dst := chS r }, strandOnly := true }) :
    let c := s.cur.core
    let p := s.cur.pos
    let x := s.strand c p
    let d := dieOf c
    ∃ w : Word, Retires (.frq g r) s { dst := chS r } [effS r w false] ∧
      (x.region = none → w = 0) ∧
      ∀ n < 256, x.region = some n → slotDepth (s.rou d) n < 8 → w.getLsbD 0 = true ∧ w.extractLsb' 1 7 = 0 ∧
        (w.extractLsb' 8 8).toNat = n ∧ (w.extractLsb' 16 3).toNat = slotDepth (s.rou d) n ∧
        w.extractLsb' 19 5 = 0 ∧ (w.extractLsb' 24 8).toNat = min 64 (s.regChunks d n).length ∧
        (w.extractLsb' 32 8).toNat = min 255 ((s.rou d).e.filter fun e => e.2 = n).length ∧ w.extractLsb' 40 24 = 0 := by
  intro c p x d
  refine ⟨s.regionWord, ?_, fun hn => ?_, fun n hlt hn hdepth => ?_⟩
  · exact plain_retires h rfl (putS_ok (fun _ _ => rfl) 4) (by simp only [List.all_cons, effS_notLs]; rfl)
  · unfold State.regionWord
    dsimp only
    rw [show (s.strand s.cur.core s.cur.pos).region = none from hn]
  · have hw : s.regionWord = BitVec.ofNat 64 (min 255 ((s.rou d).e.filter fun e => e.2 = n).length * 2 ^ 32 +
        min 64 (s.regChunks d n).length * 2 ^ 24 + slotDepth (s.rou d) n * 2 ^ 16 + n * 2 ^ 8 + 1) := by
      unfold State.regionWord
      dsimp only
      rw [show (s.strand s.cur.core s.cur.pos).region = some n from hn]
    exact regionWord_fields (by omega) (by omega) hdepth hlt hw

theorem regionFamily : Claim.RegionForms := fun _ _ hp =>
  ⟨fun code off h => frb_forms hp code off h, fun h => freFra_forms hp h, fun r h => frq_forms r h⟩

end

/-! What an abort restores (R362) -/

theorem cores_sendBulk (s : State) (sdie sstop ddie dstop vc vd : Nat) (gti : BitVec 32) (cl n : Nat) :
    (s.sendBulk sdie sstop ddie dstop vc vd gti cl n).cores = s.cores := by
  induction n generalizing s with
  | zero => rfl
  | succ n ih =>
    obtain ⟨i, net, ks, h⟩ := send_eq s sdie sstop ddie dstop vc vd gti cl (.bulk none)
    rw [State.sendBulk, ih, h]

theorem cores_foldl {α : Type} {f : State → α → State} (h : ∀ s x, (f s x).cores = s.cores) (l : List α) (s : State) :
    (l.foldl f s).cores = s.cores := by
  induction l generalizing s with
  | nil => rfl
  | cons x t ih => exact (ih _).trans (h s x)

theorem cores_rouTraffic (s : State) (d slot : Nat) : (s.rouTraffic d slot).cores = s.cores :=
  cores_foldl (fun _ _ => (cores_sendBulk ..).trans (cores_sendBulk ..)) _ _

/-- A strand stands at its fail target with what its checkpoint and the abort word give it. -/
structure Redirected (x : Strand) (k : RegSlot) (word : Word) (y : Strand) : Prop where
  regs : y.regs = abortRegs x.regs k word
  region : y.region = none
  abortWord : y.abortWord = (abortStrand x k word).abortWord
  fault : y.fault = x.fault

theorem Redirected.same {x y z : Strand} {k : RegSlot} {word : Word} (h : Redirected x k word y) (hr : z.regs = y.regs)
    (hg : z.region = y.region) (ha : z.abortWord = y.abortWord) (hf : z.fault = y.fault) : Redirected x k word z :=
  ⟨hr.trans h.regs, hg.trans h.region, ha.trans h.abortWord, hf.trans h.fault⟩

theorem Redirected.wakeSide {x : Strand} {k : RegSlot} {word : Word} {s t : State} {c p : Nat}
    (h : Redirected x k word (s.strand c p)) (w : WakeSide s t) : Redirected x k word (t.strand c p) :=
  h.same (congrArg Strand.regs (w.strand c p) :) (congrArg Strand.region (w.strand c p) :)
    (congrArg Strand.abortWord (w.strand c p) :) (congrArg Strand.fault (w.strand c p) :)

/-- A move that leaves the registers as they stand at most enters a line. -/
theorem goto_same {s : State} {c p : Nat} {pc : Pc} (hp : p ≠ 6) (hpc : (s.strand c p).regs.pc = pc) :
    ∃ l, (s.goto c p pc).strand c p = { s.strand c p with line := l } ∧
      ∀ st, AllStand s c p st → (s.strand c p).st = st → AllStand (s.goto c p pc) c p st := by
  have hset : s.setRegsOf c p { s.regsOf c p with pc := pc } = s.setStrand c p (s.strand c p) := by
    rw [State.setRegsOf, if_neg hp, regsOf_strand _ _ _ hp, ← hpc]
  unfold State.goto
  rw [hset]
  dsimp only
  split
  · exact ⟨(s.strand c p).line, strand_setStrand .., fun st h hst => h.setStrand fun _ _ => hst⟩
  · unfold State.enterLine
    rw [if_neg hp]
    dsimp only
    generalize readLine _ _ _ = l
    refine ⟨some l, ?_, fun st h hst => ?_⟩
    · rw [strand_setStrand, strand_setStrand]
    · refine (h.setStrand fun _ _ => hst).setStrand fun _ _ => ?_
      rw [strand_setStrand]
      exact hst

theorem reArea_eq (s : State) (c p : Nat) : ∃ v, s.reArea c p = s.setCore c { s.core c with saved := v } ∨ s.reArea c p = s := by
  unfold State.reArea
  dsimp only
  split
  · exact ⟨none, .inr rfl⟩
  · split
    · exact ⟨none, .inr rfl⟩
    · exact ⟨_, .inl rfl⟩

theorem sameParties_reArea (s : State) (c p : Nat) : SameParties s (s.reArea c p) := by
  obtain ⟨v, h | h⟩ := reArea_eq s c p
  · rw [h]
    exact sameParties_setCore s c rfl rfl
  · rw [h]
    exact .refl s

theorem AllStand.reArea {s : State} {c p d q : Nat} {st : RunState} (h : AllStand s c p st) :
    AllStand (s.reArea d q) c p st := by
  obtain ⟨v, e | e⟩ := reArea_eq s d q
  · rw [e]
    exact h.setCore_same rfl
  · rwa [e]

/-- Going on after its strand's redirection, an abort lets a strand run that waited. -/
def afterAbort (s : State) (c p : Nat) (st : RunState) : State :=
  match st with
  | .waitMem | .waitMsg => s.unpark c p
  | .stopped => s.setStrand c p { s.strand c p with left := .run, leftWait := .none }
  | _ => s

theorem wakeSide_afterAbort (s : State) (c p : Nat) (st : RunState) : WakeSide s (afterAbort s c p st) := by
  unfold afterAbort
  split
  · exact wakeSide_unpark ..
  · exact wakeSide_unpark ..
  · exact wakeSide_setStrand rfl
  · exact .refl s

/-- The abort of a region whose values nothing has consumed, in the strand that is in it. -/
theorem abortRegion_eq (s : State) {d slot : Nat} (code cause fuel : Nat) {k : RegSlot}
    (hk : mapGet? (s.rou d).slots slot = some k) (hd : dieOf k.core = d) (hreg : (s.strand k.core k.pos).region = some slot)
    (hf : ((s.rou d).f.filter fun q => q.1 = slot) = []) :
    ∃ (b : State) (r : Rou) (vd : Nat), b.cores = s.cores ∧ b.rou d = rouClear r slot ∧ s.abortRegion d slot code cause (fuel + 1) =
      (((afterAbort ((b.bump k.core 0x0E vd 1).setStrand k.core k.pos (abortStrand (s.strand k.core k.pos) k
        (BitVec.ofNat 64 (code + cause * 256)))) k.core k.pos (s.strand k.core k.pos).st).goto k.core k.pos
          k.fail).reArea k.core k.pos).regionFreed := by
  obtain ⟨b, hb⟩ : ∃ b : State, b = (((s.rouTraffic d slot).mapSlices d fun x => { x with regs := dropRegion x.regs slot }).setRou d
    (rouClear (((s.rouTraffic d slot).mapSlices d fun x => { x with regs := dropRegion x.regs slot }).rou d) slot)) := ⟨_, rfl⟩
  have hcores : b.cores = s.cores := by rw [hb]; exact cores_rouTraffic ..
  have hx : b.strand k.core k.pos = s.strand k.core k.pos := strand_of_cores hcores ..
  refine ⟨b, _, (b.ctx (clusterOf k.core) (s.strand k.core k.pos).tag.toNat).img.vd, hcores, by rw [hb]; exact rou_setRou .., ?_⟩
  rw [State.abortRegion, hk]
  dsimp only
  rw [hf, ← hb, hx, hreg, if_pos (by simp [hd])]
  rfl

theorem mapGet?_mapDel {α : Type} (m : SMap α) (i : Nat) : mapGet? (mapDel m i) i = none := by
  induction m with
  | nil => rfl
  | cons e m ih =>
    unfold mapDel at ih ⊢
    rw [List.filter_cons]
    split
    · next h =>
      obtain ⟨j, x⟩ := e
      rw [mapGet?, if_neg (by simpa using h)]
      exact ih
    · exact ih

theorem rouClear_clear (r : Rou) (slot : Nat) : mapGet? (rouClear r slot).slots slot = none ∧
    ∀ e ∈ (rouClear r slot).e ++ (rouClear r slot).f, e.1 ≠ slot ∧ e.2 ≠ slot := by
  refine ⟨mapGet?_mapDel .., fun e he => ?_⟩
  simp only [rouClear, ← List.filter_append, List.mem_filter, Bool.and_eq_true, decide_eq_true_eq] at he
  exact he.2

/-- The registers that an abort leaves to the strand, and those that it takes from the checkpoint. -/
theorem abortRegs_rest (x : RegSet) (k : RegSlot) (word : Word) :
    (abortRegs x k word).p = k.ckpt.p ∧ (abortRegs x k word).k = k.ckpt.k ∧ (abortRegs x k word).fs = k.ckpt.fs ∧
    (abortRegs x k word).v = x.v ∧ (abortRegs x k word).vp = x.vp ∧ (abortRegs x k word).g = x.g := by
  unfold abortRegs RegSet.setS
  split
  · split <;> exact ⟨rfl, rfl, rfl, rfl, rfl, rfl⟩
  · exact ⟨rfl, rfl, rfl, rfl, rfl, rfl⟩

theorem abortRegs_s (x : RegSet) (k : RegSlot) (word : Word) (j : Fin 32) :
    (abortRegs x k word).s[j] = if k.code = .s j ∧ j ≠ 0 then word else k.ckpt.s[j] := by
  unfold abortRegs RegSet.setS
  cases hc : k.code with
  | ch q => simp
  | s i =>
    dsimp only
    by_cases hi : i = 0
    · rw [if_pos hi, if_neg (by rintro ⟨h, h0⟩; exact h0 ((SOp.s.inj h).symm.trans hi))]
    · rw [if_neg hi]
      by_cases hj : i = j
      · subst hj
        rw [if_pos ⟨rfl, hi⟩]
        exact Vector.getElem_set_self ..
      · rw [if_neg (by rintro ⟨h, -⟩; exact hj (SOp.s.inj h))]
        exact Vector.getElem_set_ne i.isLt j.isLt (fun h => hj (Fin.ext h))

theorem abortRegs_sp (x : RegSet) (k : RegSlot) (word : Word) (j : Fin 32) :
    (abortRegs x k word).sp.getLsbD j.val = if k.code = .s j ∧ j ≠ 0 then false else k.ckpt.sp.getLsbD j.val := by
  unfold abortRegs RegSet.setS
  cases hc : k.code with
  | ch q => simp
  | s i =>
    dsimp only
    by_cases hi : i = 0
    · rw [if_pos hi, if_neg (by rintro ⟨h, h0⟩; exact h0 ((SOp.s.inj h).symm.trans hi))]
    · rw [if_neg hi]
      by_cases hj : i = j
      · subst hj
        rw [if_pos ⟨rfl, hi⟩, BitVec.getLsbD_eq_getElem i.isLt, getElem_bitSet, if_pos rfl]
      · rw [if_neg (by rintro ⟨h, -⟩; exact hj (SOp.s.inj h))]
        rw [BitVec.getLsbD_eq_getElem j.isLt, getElem_bitSet, if_neg (fun h => hj (Fin.ext h.symm)),
          BitVec.getLsbD_eq_getElem j.isLt]

theorem abortRegs_pc (x : RegSet) (k : RegSlot) (word : Word) : (abortRegs x k word).pc = k.fail := by
  unfold abortRegs RegSet.setS
  split
  · split <;> rfl
  · rfl

theorem rou_reArea (s : State) (c p d : Nat) : (s.reArea c p).rou d = s.rou d := by
  obtain ⟨v, h | h⟩ := reArea_eq s c p <;> rw [h] <;> rfl

theorem rou_goto (s : State) (c p : Nat) (pc : Pc) (hp : p ≠ 6) (d : Nat) : (s.goto c p pc).rou d = s.rou d := by
  unfold State.goto State.enterLine State.setRegsOf
  simp only [if_neg hp]
  split <;> rfl

theorem WakeSide.rou {s t : State} (h : WakeSide s t) (d : Nat) : t.rou d = s.rou d := (congrArg Die.rou (h.dies d) :)

theorem regionAborts : Claim.RegionAborts := by
  intro s d slot code cause fuel k hk hp hd _ _ hreg hf x t y word
  have hp6 : k.pos ≠ 6 := by omega
  obtain ⟨b, r, vd, hcores, hrou, ht⟩ := abortRegion_eq s code cause fuel hk hd hreg hf
  obtain ⟨s1, h1⟩ : ∃ s1 : State, s1 = (b.bump k.core 0x0E vd 1).setStrand k.core k.pos (abortStrand x k word) := ⟨_, rfl⟩
  obtain ⟨s2, h2⟩ : ∃ s2 : State, s2 = afterAbort s1 k.core k.pos x.st := ⟨_, rfl⟩
  obtain ⟨s3, h3⟩ : ∃ s3 : State, s3 = (s2.goto k.core k.pos k.fail).reArea k.core k.pos := ⟨_, rfl⟩
  have ht : t = s3.regionFreed := by rw [h3, h2, h1]; exact ht
  have w2 : WakeSide s1 s2 := h2 ▸ wakeSide_afterAbort ..
  have w4 : WakeSide s3 t := ht ▸ wakeSide_wakeWaits ..
  have hx1 : s1.strand k.core k.pos = abortStrand x k word := by rw [h1, strand_setStrand]
  have r1 : Redirected x k word (s1.strand k.core k.pos) := by
    rw [hx1]
    exact ⟨rfl, rfl, rfl, rfl⟩
  have r2 := r1.wakeSide w2
  obtain ⟨l, hgoto, hstands⟩ := goto_same (s := s2) (c := k.core) hp6 (pc := k.fail) (by rw [r2.regs, abortRegs_pc])
  have hx3 : s3.strand k.core k.pos = { s2.strand k.core k.pos with line := l } := by
    rw [h3, (sameParties_reArea ..).strand, hgoto]
  have r4 : Redirected x k word y := Redirected.wakeSide (by rw [hx3]; exact ⟨r2.regs, r2.region, r2.abortWord, r2.fault⟩) w4
  have hrou4 : t.rou d = rouClear r slot := by
    rw [w4.rou, h3, rou_reArea, rou_goto _ _ _ _ hp6, w2.rou, h1]
    refine Eq.trans ?_ hrou
    unfold State.bump
    dsimp only
    split <;> rfl
  obtain ⟨hslot, hedges⟩ := rouClear_clear r slot
  obtain ⟨hp', hk', hfs, hv, hvp, hg⟩ := abortRegs_rest x.regs k word
  rw [hrou4, r4.regs]
  refine ⟨hslot, hedges, r4.region, abortRegs_pc .., hp', hk', hfs, hv, hvp, hg, abortRegs_s x.regs k word,
    abortRegs_sp x.regs k word,
    fun q hq => ?_, fun hstop hst => ?_, fun honce hst => ?_⟩
  · rw [r4.abortWord, abortStrand, hq]
  · have hwake : s2 = s1.wake k.core k.pos := by
      rw [h2]
      unfold afterAbort
      have hu : s1.unpark k.core k.pos = s1.wake k.core k.pos := unpark_eq_wake (by rw [hx1]; exact hstop)
      rcases hst with hst | hst <;> rw [hst] <;> exact hu
    have h2x := strand_wake s1 k.core k.pos hp6
    rw [← hwake] at h2x
    have hs3 : (s3.strand k.core k.pos).stopPending = false ∧ (s3.strand k.core k.pos).st = .run := by
      rw [hx3, h2x, hx1]
      exact ⟨hstop, rfl⟩
    have hgo := going_wakeWaits s3 (fun _ w => match w with | .region | .rouSlot => true | _ => false) k.core k.pos hs3.1
    exact (congrArg (fun t : State => (t.strand k.core k.pos).st) ht).trans (hgo.2 hs3.2)
  · have h21 : s2 = s1 := by
      rw [h2]
      unfold afterAbort
      rw [hst]
    have hx2 : (s2.strand k.core k.pos).st = .trapped := by rw [h21, hx1]; exact hst
    have hb : AllStand b k.core k.pos .trapped := (hst ▸ AllStand.of_once honce).of_cores hcores
    have hb1 : AllStand s2 k.core k.pos .trapped := by
      rw [h21, h1]
      refine AllStand.setStrand ?_ fun _ _ => hst
      unfold State.bump
      dsimp only
      split
      · exact hb
      · exact hb.setCore_same rfl
    have hb3 : AllStand s3 k.core k.pos .trapped := h3 ▸ (hstands _ hb1 hx2).reArea
    have hstay := strand_wakeWaits hb3 (by decide) (by decide) hp6
      (fun _ w => match w with | .region | .rouSlot => true | _ => false)
    have hy : y = s3.strand k.core k.pos := (congrArg (fun t : State => t.strand k.core k.pos) ht).trans hstay
    exact ⟨by rw [hy, hx3]; exact hx2, r4.fault⟩

/-- Settles O35: FRB through `openRegion_forms`, FRE and FRA by the strand's region, the word of FRQ field by field, and
the abort by the one line of steps that `abortRegion_eq` gives. -/
theorem regionForms : Obligations.RegionForms := ⟨regionFamily, regionAborts⟩

end Sys2Proof.Safety
end

section
/-! SUPPORT. Two statements that fail on a strand that has gone past a breakpoint: the return from a trap (O37), and a
write of its PC (O38). -/

namespace Sys2Proof.Safety

open Sys2Proof.Machine

/-- A state in which a strand stands at position 0 of core 0. -/
def standing (x : Strand) : State := { State.reset with cores := [(0, { Core.init with strands := [(0, x)] })] }

/-- A strand that BREAK stopped at address 0 and whose PC the keeper has moved to 1. -/
def movedPastBreak : Strand :=
  { Strand.init with fault := ⟨0x11, 0, 0, 0, 0⟩, regs := { RegSet.zero with pc := 1 } }

theorem movedPastBreak_return :
    (((standing movedPastBreak).returnTrap 0 0).strand 0 0).breakDone = false := by decide +kernel

/-- Refutes O37: the last clause says that the return from a BREAK marks the breakpoint as done whatever the strand's PC
is, but the mark is set only where the PC still is the one that fd1 names. At PC 1 after a BREAK at 0 it is not set. -/
theorem not_trapAndKret : ¬ Obligations.TrapAndKret := by
  intro h
  obtain ⟨-, -, hret⟩ := h (standing movedPastBreak) ⟨0, false⟩ 0
  obtain ⟨-, -, -, -, -, hbreak⟩ := hret 0 (by decide)
  have hdone := hbreak.mpr (by decide +kernel)
  exact absurd (hdone.symm.trans movedPastBreak_return) (by decide)

/-- The porter of core 0 in a keeper entry, over a trapped strand that has gone past a breakpoint. -/
def keeperPastBreak : State :=
  { State.reset with
    cur := ⟨0, 6⟩
    porch := { Porch.init with step := 7 }
    cores := [(0, { Core.init with
      strands := [(0, { Strand.init with st := .trapped, breakDone := true })]
      porter := { Porter.init with cur := some ⟨.trap 0, false, 0, 0⟩, st := .run } })] }

theorem clear_keeperPastBreak : Clear keeperPastBreak ⟨0, false⟩ (formSwrite (.s 1) (.s 0) 0x51) where
  issuer := by decide +kernel
  level := by decide +kernel
  guard := by decide +kernel
  record := by decide +kernel
  region := by decide +kernel
  claim := by decide +kernel
  ready := by decide +kernel

/-- What SWRITE of selector 0x51 leaves of the breakpoint mark of the strand at position 0. -/
theorem keeperPastBreak_swrite : (match exec (.swrite ⟨0, false⟩ (.s 1) (.s 0) 0x51) keeperPastBreak with
    | .next t => (t.strand 0 0).breakDone
    | _ => true) = false := by decide +kernel

/-- Refutes O38: a write of the PC (selector 0x51) also takes back the mark that the breakpoint there has been taken,
and keeps the line, while the statement has the strand unchanged but for its PC and without a line. In
`keeperPastBreak` the mark is set before the write, so the statement would keep it. -/
theorem not_strandStateAccess : ¬ Obligations.StrandStateAccess := by
  intro h
  obtain ⟨-, hw⟩ := h keeperPastBreak ⟨0, false⟩ (.s 0) 0x51
  have hputs := hw (.s 1) clear_keeperPastBreak
  dsimp only at hputs
  rw [if_neg (by decide +kernel), if_neg (by decide +kernel)] at hputs
  obtain ⟨-, -, hclean⟩ := hputs.2 1 rfl
  obtain ⟨-, -, -, -, -, hpc, -⟩ := hclean (by decide +kernel)
  obtain ⟨t, he, hx, -⟩ := hpc (by decide)
  have hrun := keeperPastBreak_swrite
  rw [he] at hrun
  have hmark : (t.strand 0 0).breakDone = true := (congrArg Strand.breakDone hx).trans (by decide +kernel)
  exact absurd (hmark.symm.trans hrun) (by decide)

end Sys2Proof.Safety
end

section
/-! SUPPORT. SYSR and SYSW of the registers of a core, of contexts and of the device (O39). -/

namespace Sys2Proof.Safety

open Sys2Proof.Machine

section
variable {s : State} {g : Guard}

/-- A form of level K or L is the porter's, and names no channel. -/
theorem Clear.noChans {f : Form} (h : Clear s g f) (hl : 1 ≤ f.level) : f.use.usesChan = false := by
  refine (h.issuer ?_).2
  by_contra hp
  have hu : s.level.toNat = 0 := by
    unfold State.level
    rw [if_neg hp]
    rfl
  have := h.level
  omega

theorem takeSrcs_noChans {u : Use} (h : u.usesChan = false) (s : State) : s.takeSrcs u = s := by
  have hs : u.srcs = [] := by
    simp only [Use.usesChan, Bool.or_eq_false_iff, Option.isSome_eq_false_iff, Option.isNone_iff_eq_none] at h
    obtain ⟨⟨⟨ha, hb⟩, hd⟩, -⟩ := h
    simp only [Use.srcs, ha, hb, hd]
    rfl
  rw [State.takeSrcs, hs]
  rfl

/-- A form of the porter has retired from the state that it made. -/
theorem retiresFrom_noChans {i : Instr} {u : Use} {b : State} {l : List Eff} (hu : u.usesChan = false)
    (he : exec i s = .next (b.retire l)) (hl : l.all (fun e => !isLs e) = true) : RetiresFrom i s b u l := by
  have k := settled_retire b u l hl
  rw [takeSrcs_noChans hu] at k
  exact ⟨_, he, k⟩

/-! The index of a register (R313) -/

section
variable {n : Nat} {a : SOp} {v : View}

theorem fxIndex_none (h : sysRange n = none) : fxIndex s n a v = .ok 0 := by
  rw [fxIndex, h]
  rfl

theorem fxIndex_poison {m : Nat} (h : sysRange n = some m) (hp : (v.s v.a a).p = true) :
    fxIndex s n a v = .error (tPoison 1) := by
  rw [fxIndex, h, hp]
  rfl

theorem fxIndex_range {m : Nat} (h : sysRange n = some m) (hp : (v.s v.a a).p = false)
    (hk : sysIndexOk n (v.s v.a a).v = false) : fxIndex s n a v = .error tIllegal := by
  rw [fxIndex, h, hp, hk]
  rfl

theorem fxIndex_priv {m : Nat} (h : sysRange n = some m) (hp : (v.s v.a a).p = false)
    (hk : sysIndexOk n (v.s v.a a).v = true) (hl : s.level = .k)
    (ho : sysOwnIndex n s.tag s.curVd (v.s v.a a).v = false) : fxIndex s n a v = .error tPriv := by
  rw [fxIndex, h, hp, hk, hl, ho]
  rfl

theorem fxIndex_ok {m : Nat} (h : sysRange n = some m) (hp : (v.s v.a a).p = false)
    (hk : sysIndexOk n (v.s v.a a).v = true)
    (ho : s.level = .k → sysOwnIndex n s.tag s.curVd (v.s v.a a).v = true) :
    fxIndex s n a v = .ok (v.s v.a a).v.toNat := by
  have hown : ¬ (decide (s.level = .k) && !sysOwnIndex n s.tag s.curVd (v.s v.a a).v) = true := by
    intro hc
    simp only [Bool.and_eq_true, decide_eq_true_eq, Bool.not_eq_true'] at hc
    exact absurd (ho hc.1) (by simp [hc.2])
  rw [fxIndex, h, hp, hk, if_neg hown]
  rfl

end

/-! SYSR and SYSW by the outcome of their index -/

theorem ofNat_sel {n : Nat} (hn : n < 2 ^ 16) : (BitVec.ofNat 16 n).toNat = n := by
  rw [BitVec.toNat_ofNat, Nat.mod_eq_of_lt hn]

theorem sysr_traps {n : Nat} {d a : SOp} (hn : n < 2 ^ 16) (h : Clear s g (formSysr n d a)) {t : TrapInfo}
    (hx : fxIndex s n a (s.view (formSysr n d a).use) = .error t) : Traps (.sysr g d a (BitVec.ofNat 16 n)) s t := by
  have he : exec (.sysr g d a (BitVec.ofNat 16 n)) s = .next (s.plain g (formSysr n d a) (fxSysr s n d a)) := by
    have e : exec (.sysr g d a (BitVec.ofNat 16 n)) s = .next (s.plain g (formSysr (BitVec.ofNat 16 n).toNat d a)
      (fxSysr s (BitVec.ofNat 16 n).toNat d a)) := rfl
    rw [e, ofNat_sel hn]
  refine plain_traps h he ?_
  rw [fxSysr, hx]
  rfl

/-- What SYSR reads of a register: fs, or the register of its number, bit 1 of preempt at L alone (R313). -/
def sysrValue (s : State) (n i : Nat) : Word :=
  if n = 0 then s.regs.fs
  else if n = 0x21 && s.level ≠ .l then s.sysRead s.cur.core s.curVd n i &&& ~~~2
  else s.sysRead s.cur.core s.curVd n i

theorem sysr_gives {n i : Nat} {d a : SOp} (hn : n < 2 ^ 16) (h : Clear s g (formSysr n d a))
    (hx : fxIndex s n a (s.view (formSysr n d a).use) = .ok i) :
    Retires (.sysr g d a (BitVec.ofNat 16 n)) s (formSysr n d a).use [effS d (sysrValue s n i) false] := by
  have he : exec (.sysr g d a (BitVec.ofNat 16 n)) s = .next (s.plain g (formSysr n d a) (fxSysr s n d a)) := by
    have e : exec (.sysr g d a (BitVec.ofNat 16 n)) s = .next (s.plain g (formSysr (BitVec.ofNat 16 n).toNat d a)
      (fxSysr s (BitVec.ofNat 16 n).toNat d a)) := rfl
    rw [e, ofNat_sel hn]
  refine retires_putS h he (src := 4) ?_ fun _ _ => rfl
  rw [fxSysr, hx]
  rfl

theorem sysw_exec {n : Nat} (hn : n < 2 ^ 16) (g : Guard) (d a : SOp) (s : State) :
    exec (.sysw g d a (BitVec.ofNat 16 n)) s = .next (s.issue g (formSysw n d a) (fxSysw s n d a) fun s r =>
      s.syswNow (formSysw n d a).use n r) := by
  have e : exec (.sysw g d a (BitVec.ofNat 16 n)) s = .next (s.issue g (formSysw (BitVec.ofNat 16 n).toNat d a)
    (fxSysw s (BitVec.ofNat 16 n).toNat d a) fun s r =>
      s.syswNow (formSysw (BitVec.ofNat 16 n).toNat d a).use (BitVec.ofNat 16 n).toNat r) := rfl
  rw [e, ofNat_sel hn]

theorem sysw_traps_of {n : Nat} {d a : SOp} (hn : n < 2 ^ 16) (h : Clear s g (formSysw n d a)) {t : TrapInfo}
    (hx : fxSysw s n d a (s.view (formSysw n d a).use) = .error t) : Traps (.sysw g d a (BitVec.ofNat 16 n)) s t :=
  traps_takeTrap ((sysw_exec hn g d a s).trans (congrArg _ (issue_error h hx _)))

theorem sysw_traps {n : Nat} {d a : SOp} (hn : n < 2 ^ 16) (h : Clear s g (formSysw n d a)) {t : TrapInfo}
    (hx : fxIndex s n a (s.view (formSysw n d a).use) = .error t) : Traps (.sysw g d a (BitVec.ofNat 16 n)) s t := by
  refine sysw_traps_of hn h ?_
  rw [fxSysw, hx]
  rfl

section
variable {n i : Nat} {d a : SOp} (hn : n < 2 ^ 16) (h : Clear s g (formSysw n d a))
  (hx : fxIndex s n a (s.view (formSysw n d a).use) = .ok i)
include hn h hx

theorem sysw_poison (hp : ((s.view (formSysw n d a).use).s (s.view (formSysw n d a).use).d d).p = true) :
    Traps (.sysw g d a (BitVec.ofNat 16 n)) s { cause := 0x09, sub := 0 } := by
  refine sysw_traps_of hn h ?_
  rw [fxSysw, hx]
  exact if_pos hp

theorem sysw_illegal (hp : ((s.view (formSysw n d a).use).s (s.view (formSysw n d a).use).d d).p = false) (h0 : n ≠ 0)
    (hw : s.sysWrite s.cur.core s.curVd n i (s.level = .l) s.tag
      ((s.view (formSysw n d a).use).s (s.view (formSysw n d a).use).d d).v = none) :
    Traps (.sysw g d a (BitVec.ofNat 16 n)) s { cause := 0x01 } := by
  refine sysw_traps_of hn h ?_
  rw [fxSysw, hx]
  refine (if_neg (by simp [hp])).trans ((if_neg h0).trans ?_)
  rw [hw]
  rfl

/-- A write that the register takes is made, and the instruction retires from there. -/
theorem sysw_next (hp : ((s.view (formSysw n d a).use).s (s.view (formSysw n d a).use).d d).p = false) (h0 : n ≠ 0)
    (hl : 1 ≤ sysWriteLevel n) {t : State} (hw : s.sysWrite s.cur.core s.curVd n i (s.level = .l) s.tag
      ((s.view (formSysw n d a).use).s (s.view (formSysw n d a).use).d d).v = some t) :
    exec (.sysw g d a (BitVec.ofNat 16 n)) s = .next (t.retire []) := by
  have hu : (formSysw n d a).use.usesChan = false := h.noChans hl
  have hxw : fxSysw s n d a (s.view (formSysw n d a).use) =
      .ok (i, ((s.view (formSysw n d a).use).s (s.view (formSysw n d a).use).d d).v) := by
    rw [fxSysw, hx]
    refine (if_neg (by simp [hp])).trans ((if_neg h0).trans ?_)
    rw [hw]
    rfl
  rw [sysw_exec hn, issue_ok h hxw, holdChans_none hu]
  congr 1
  unfold State.syswNow
  rw [takeSrcs_noChans hu]
  refine (if_neg h0).trans ?_
  dsimp only
  rw [hw]
  rfl

theorem sysw_retires (hp : ((s.view (formSysw n d a).use).s (s.view (formSysw n d a).use).d d).p = false) (h0 : n ≠ 0)
    (hl : 1 ≤ sysWriteLevel n) {t : State} (hw : s.sysWrite s.cur.core s.curVd n i (s.level = .l) s.tag
      ((s.view (formSysw n d a).use).s (s.view (formSysw n d a).use).d d).v = some t) :
    RetiresFrom (.sysw g d a (BitVec.ofNat 16 n)) s t (formSysw n d a).use [] :=
  retiresFrom_noChans (h.noChans hl) (sysw_next hn h hx hp h0 hl hw) rfl

end

/-! The registers of a core, of contexts and of the device -/

/-- The registers of a core, of its cluster's contexts and of the device. -/
def coreRegs : List Nat := [0x10, 0x11, 0x12, 0x13, 0x14, 0x15, 0x20, 0x21, 0x42, 0x50, 0x51, 0x70]

/-- Those among them that take an index. -/
def ctxRegs : List Nat := [0x10, 0x11, 0x12, 0x13, 0x14]

def IndexInRange (n k : Nat) : Prop := (n ∈ ctxRegs → k < 16) ∧ (n = 0x15 → k < 128) ∧ (n = 0x42 ∨ n = 0x51 → k < 64) ∧
  (n = 0x70 → k < 8)

def IndexOwn (s : State) (n k : Nat) : Prop := s.level = .k → (n ∈ ctxRegs → k = s.tag) ∧ (n = 0x15 → k / 8 = s.tag) ∧
  (n = 0x42 → k = s.curVd)

theorem sysRange_core {n : Nat} (hn : n ∈ coreRegs) : (n ∈ ctxRegs ++ [0x15, 0x42, 0x51, 0x70] → ∃ m, sysRange n = some m) ∧
    (n ∉ ctxRegs ++ [0x15, 0x42, 0x51, 0x70] → sysRange n = none) := by
  have key : ∀ n ∈ coreRegs, (n ∈ ctxRegs ++ [0x15, 0x42, 0x51, 0x70] → (sysRange n).isSome = true) ∧
      (n ∉ ctxRegs ++ [0x15, 0x42, 0x51, 0x70] → sysRange n = none) := by decide
  exact ⟨fun h => Option.isSome_iff_exists.mp ((key n hn).1 h), (key n hn).2⟩

theorem sysIndexOk_core {n : Nat} (hn : n ∈ ctxRegs ++ [0x15, 0x42, 0x51, 0x70]) (x : Word) :
    sysIndexOk n x = true ↔ IndexInRange n x.toNat := by
  simp only [ctxRegs, List.mem_append, List.mem_cons, List.not_mem_nil, or_false] at hn
  rcases hn with (rfl | rfl | rfl | rfl | rfl) | rfl | rfl | rfl | rfl <;>
    simp [sysIndexOk, sysRange, IndexInRange, ctxRegs]

theorem sysOwnIndex_core {n : Nat} (hn : n ∈ ctxRegs ++ [0x15, 0x42, 0x51, 0x70]) (x : Word) :
    (s.level = .k → sysOwnIndex n s.tag s.curVd x = true) ↔ IndexOwn s n x.toNat := by
  simp only [ctxRegs, List.mem_append, List.mem_cons, List.not_mem_nil, or_false] at hn
  rcases hn with (rfl | rfl | rfl | rfl | rfl) | rfl | rfl | rfl | rfl <;>
    simp [sysOwnIndex, IndexOwn, ctxRegs]

/-- The index of a register of a core, a context or the device: its POISON, ILLEGAL and PRIV, or its value. -/
theorem fxIndex_core {n : Nat} {a : SOp} {v : View} (hn : n ∈ coreRegs) :
    let x := v.s v.a a
    let indexed : Prop := n ∈ ctxRegs ++ [0x15, 0x42, 0x51, 0x70]
    (indexed → x.p = true → fxIndex s n a v = .error (tPoison 1)) ∧
    (indexed → x.p = false → ¬ IndexInRange n x.v.toNat → fxIndex s n a v = .error tIllegal) ∧
    (indexed → x.p = false → IndexInRange n x.v.toNat → ¬ IndexOwn s n x.v.toNat → fxIndex s n a v = .error tPriv) ∧
    ((indexed → x.p = false ∧ IndexInRange n x.v.toNat ∧ IndexOwn s n x.v.toNat) →
      fxIndex s n a v = .ok (if indexed then x.v.toNat else 0)) := by
  intro x indexed
  obtain ⟨hsome, hnone⟩ := sysRange_core hn
  refine ⟨fun hi hp => ?_, fun hi hp hk => ?_, fun hi hp hk ho => ?_, fun hgood => ?_⟩
  · obtain ⟨m, hm⟩ := hsome hi
    exact fxIndex_poison hm hp
  · obtain ⟨m, hm⟩ := hsome hi
    exact fxIndex_range hm hp (Bool.eq_false_of_not_eq_true (mt (sysIndexOk_core hi _).mp hk))
  · obtain ⟨m, hm⟩ := hsome hi
    have hno := mt (sysOwnIndex_core hi x.v).mp ho
    rw [Classical.not_imp] at hno
    exact fxIndex_priv hm hp ((sysIndexOk_core hi _).mpr hk) hno.1 (Bool.eq_false_of_not_eq_true hno.2)
  · split
    · next hi =>
      obtain ⟨m, hm⟩ := hsome hi
      obtain ⟨hp, hk, ho⟩ := hgood hi
      exact fxIndex_ok hm hp ((sysIndexOk_core hi _).mpr hk) ((sysOwnIndex_core hi _).mpr ho)
    · next hi => exact fxIndex_none (hnone hi)

theorem sysLevel_core {n : Nat} (hn : n ∈ coreRegs) : 1 ≤ sysWriteLevel n ∧ n ≠ 0 := by
  revert n
  decide

/-- The DVA registers: their fields as masks of the word written (log 116). -/
theorem dvaField_eq (w : Word) : dvaField w 64 = w &&& 0x00FFFFFFFFFFFFC0 ∧
    dvaField w 65536 = w &&& 0x00FFFFFFFFFF0000 ∧ dvaField w 256 = w &&& 0x00FFFFFFFFFFFF00 := by
  have key (k : Nat) (hk : k ≤ 56) : (BitVec.ofNat 64 (w.toNat % 2 ^ 56 / 2 ^ k * 2 ^ k) : Word) =
      w &&& BitVec.ofNat 64 (2 ^ 56 - 2 ^ k) := by
    apply BitVec.eq_of_getLsbD_eq
    intro i hi
    have hpow : 2 ^ 56 - 2 ^ k = (2 ^ (56 - k) - 1) <<< k := by
      rw [Nat.shiftLeft_eq, Nat.sub_mul, ← Nat.pow_add, Nat.sub_add_cancel hk, one_mul]
    rw [BitVec.getLsbD_and, BitVec.getLsbD_ofNat, BitVec.getLsbD_ofNat, hpow, ← Nat.shiftLeft_eq, ← Nat.shiftRight_eq_div_pow]
    simp only [hi, decide_true, Bool.true_and, Nat.testBit_shiftLeft, Nat.testBit_shiftRight, Nat.testBit_mod_two_pow,
      Nat.testBit_two_pow_sub_one, BitVec.getLsbD]
    by_cases hki : k ≤ i
    · by_cases h56 : i < 56
      · have : i - k < 56 - k := by omega
        simp [hki, h56, this, show k + (i - k) = i by omega]
      · have : ¬ i - k < 56 - k := by omega
        simp [hki, h56, this, show k + (i - k) = i by omega]
    · simp [hki]
  exact ⟨key 6 (by omega), key 16 (by omega), key 8 (by omega)⟩

/-- What SYSR reads of each register of a core, a context or the device. -/
theorem sysrValue_core {n k : Nat} {w : Word} (he : (n, w) ∈ [(0x10, (s.ctx (clusterOf s.cur.core) k).root),
    (0x11, (s.ctx (clusterOf s.cur.core) k).spillbase), (0x12, (s.ctx (clusterOf s.cur.core) k).spillcap),
    (0x13, (s.ctx (clusterOf s.cur.core) k).ringbase), (0x14, (s.ctx (clusterOf s.cur.core) k).ringsize),
    (0x15, s.nbr (clusterOf s.cur.core) (k / 8) (k % 8)), (0x20, (s.core s.cur.core).ctxbuf),
    (0x21, BitVec.ofNat 64 ((s.core s.cur.core).preK.toNat +
      2 * (decide (s.level = .l) && (s.core s.cur.core).preL).toNat)),
    (0x42, mapGet 0 s.porch.hostctx k), (0x50, (s.core s.cur.core).lltab), (0x51, mapGet 0 (s.core s.cur.core).llsave k),
    (0x70, mapGet 0 s.porch.brk (8 * s.curVd + k))]) :
    sysrValue s n (if n ∈ ctxRegs ++ [0x15, 0x42, 0x51, 0x70] then k else 0) = w := by
  simp only [List.mem_cons, Prod.mk.injEq, List.not_mem_nil, or_false] at he
  rcases he with ⟨rfl, rfl⟩ | ⟨rfl, rfl⟩ | ⟨rfl, rfl⟩ | ⟨rfl, rfl⟩ | ⟨rfl, rfl⟩ | ⟨rfl, rfl⟩ | ⟨rfl, rfl⟩ | ⟨rfl, rfl⟩ |
    ⟨rfl, rfl⟩ | ⟨rfl, rfl⟩ | ⟨rfl, rfl⟩ | ⟨rfl, rfl⟩
  case inr.inr.inr.inr.inr.inr.inr.inl =>
    by_cases hl : s.level = .l
    · simp [sysrValue, State.sysRead, hl]
    · cases hk : (s.core s.cur.core).preK <;> cases hL : (s.core s.cur.core).preL <;>
        simp [sysrValue, State.sysRead, hl, hk, hL]
  all_goals rfl

theorem systemRegister_reads {n : Nat} {d a : SOp} (hn : n < 2 ^ 16) (h : Clear s g (formSysr n d a)) (hc : n ∈ coreRegs) :
    let c := s.cur.core
    let cl := clusterOf c
    let u := (formSysr n d a).use
    let x := (s.view u).s (s.view u).a a
    let k := x.v.toNat
    let cx := s.ctx cl k
    let i := Instr.sysr g d a (BitVec.ofNat 16 n)
    let indexed : Prop := n ∈ ctxRegs ++ [0x15, 0x42, 0x51, 0x70]
    (indexed → x.p = true → Traps i s { cause := 0x09, sub := 1 }) ∧
    (indexed → x.p = false → ¬ IndexInRange n k → Traps i s { cause := 0x01 }) ∧
    (indexed → x.p = false → IndexInRange n k → ¬ IndexOwn s n k → Traps i s { cause := 0x02 }) ∧
    ((indexed → x.p = false ∧ IndexInRange n k ∧ IndexOwn s n k) →
      ∀ e ∈ [(0x10, cx.root), (0x11, cx.spillbase), (0x12, cx.spillcap), (0x13, cx.ringbase), (0x14, cx.ringsize),
          (0x15, s.nbr cl (k / 8) (k % 8)), (0x20, (s.core c).ctxbuf),
          (0x21, BitVec.ofNat 64 ((s.core c).preK.toNat +
            2 * (decide (s.level = .l) && (s.core c).preL).toNat)),
          (0x42, mapGet 0 s.porch.hostctx k), (0x50, (s.core c).lltab), (0x51, mapGet 0 (s.core c).llsave k),
          (0x70, mapGet 0 s.porch.brk (8 * s.curVd + k))],
        n = e.1 → Retires i s u [effS d e.2 false]) := by
  intro c cl u x k cx i indexed
  obtain ⟨h1, h2, h3, h4⟩ := fxIndex_core (s := s) (a := a) (v := s.view u) hc
  refine ⟨fun hi hp => sysr_traps hn h (h1 hi hp), fun hi hp hk => sysr_traps hn h (h2 hi hp hk),
    fun hi hp hk ho => sysr_traps hn h (h3 hi hp hk ho), fun hgood e he hne => ?_⟩
  have hgives := sysr_gives hn h (h4 hgood)
  rw [sysrValue_core (w := e.2) (by rw [hne]; exact he)] at hgives
  exact hgives

/-- What a write makes of each register of a core, a context or the device. -/
theorem sysWrite_core {n k : Nat} {w : Word} {t : State} (hroot : n = 0x10 → w.getLsbD 16 = false)
    (he : (n, t) ∈ [(0x10, s.setCtx (clusterOf s.cur.core) k { s.ctx (clusterOf s.cur.core) k with
        root := w &&& 0x0000FFFFFFFF0000 }),
      (0x11, s.setCtx (clusterOf s.cur.core) k { s.ctx (clusterOf s.cur.core) k with
        spillbase := w &&& 0x00FFFFFFFFFFFFC0 }),
      (0x12, s.setCtx (clusterOf s.cur.core) k { s.ctx (clusterOf s.cur.core) k with spillcap := w &&& 0xFFFF }),
      (0x13, s.setCtx (clusterOf s.cur.core) k { s.ctx (clusterOf s.cur.core) k with
        ringbase := w &&& 0x00FFFFFFFFFFFFC0 }),
      (0x14, s.setCtx (clusterOf s.cur.core) k { s.ctx (clusterOf s.cur.core) k with ringsize := w &&& 0xFFFF }),
      (0x15, s.setCtx (clusterOf s.cur.core) (k / 8) { s.ctx (clusterOf s.cur.core) (k / 8) with
        nbr := mapPut (s.ctx (clusterOf s.cur.core) (k / 8)).nbr (k % 8) (w &&& 0x81FF) }),
      (0x20, s.setCore s.cur.core { s.core s.cur.core with ctxbuf := w &&& 0x00FFFFFFFFFF0000 }),
      (0x21, s.setCore s.cur.core { s.core s.cur.core with
        preK := (s.core s.cur.core).preK || w.getLsbD 0
        preL := (s.core s.cur.core).preL || (s.level = .l && w.getLsbD 1)
        preTag := if w.getLsbD 0 && !(s.core s.cur.core).preK then BitVec.ofNat 4 s.tag
          else (s.core s.cur.core).preTag }),
      (0x42, { s with porch := { s.porch with
        hostctx := mapPut s.porch.hostctx k (w &&& 0x00000FFFFFFFFFC0) } }),
      (0x50, s.setCore s.cur.core { s.core s.cur.core with lltab := w &&& 0x00FFFFFFFFFFFF00 }),
      (0x51, s.setCore s.cur.core { s.core s.cur.core with llsave := mapPut (s.core s.cur.core).llsave k w }),
      (0x70, { s with porch := { s.porch with
        brk := mapPut s.porch.brk (8 * s.curVd + k) (w &&& 0x80FFFFFFFFFFFFFF) } })]) :
    s.sysWrite s.cur.core s.curVd n (if n ∈ ctxRegs ++ [0x15, 0x42, 0x51, 0x70] then k else 0) (s.level = .l) s.tag w =
      some t := by
  obtain ⟨h64, h65536, h256⟩ := dvaField_eq w
  simp only [List.mem_cons, Prod.mk.injEq, List.not_mem_nil, or_false] at he
  rcases he with ⟨rfl, rfl⟩ | ⟨rfl, rfl⟩ | ⟨rfl, rfl⟩ | ⟨rfl, rfl⟩ | ⟨rfl, rfl⟩ | ⟨rfl, rfl⟩ | ⟨rfl, rfl⟩ | ⟨rfl, rfl⟩ |
    ⟨rfl, rfl⟩ | ⟨rfl, rfl⟩ | ⟨rfl, rfl⟩ | ⟨rfl, rfl⟩
  case inl =>
    refine Eq.trans (if_neg ?_) rfl
    rw [hroot rfl]
    exact Bool.false_ne_true
  case inr.inl => rw [← h64]; rfl
  case inr.inr.inr.inl => rw [← h64]; rfl
  case inr.inr.inr.inr.inr.inr.inl => rw [← h65536]; rfl
  case inr.inr.inr.inr.inr.inr.inr.inr.inr.inl => rw [← h256]; rfl
  all_goals rfl

theorem systemRegister_writes {n : Nat} {d a : SOp} (hn : n < 2 ^ 16) (h : Clear s g (formSysw n d a)) (hc : n ∈ coreRegs) :
    let c := s.cur.core
    let cl := clusterOf c
    let u := (formSysw n d a).use
    let x := (s.view u).s (s.view u).a a
    let w := (s.view u).s (s.view u).d d
    let k := x.v.toNat
    let cx := s.ctx cl k
    let co := s.core c
    let i := Instr.sysw g d a (BitVec.ofNat 16 n)
    let indexed : Prop := n ∈ ctxRegs ++ [0x15, 0x42, 0x51, 0x70]
    let good : Prop := (indexed → x.p = false ∧ IndexInRange n k ∧ IndexOwn s n k) ∧ w.p = false
    (indexed → x.p = true → Traps i s { cause := 0x09, sub := 1 }) ∧
    (indexed → x.p = false → ¬ IndexInRange n k → Traps i s { cause := 0x01 }) ∧
    (indexed → x.p = false → IndexInRange n k → ¬ IndexOwn s n k → Traps i s { cause := 0x02 }) ∧
    ((indexed → x.p = false ∧ IndexInRange n k ∧ IndexOwn s n k) → w.p = true → Traps i s { cause := 0x09, sub := 0 }) ∧
    (good → n = 0x10 → w.v.getLsbD 16 = true → Traps i s { cause := 0x01 }) ∧
    (good → (n = 0x10 → w.v.getLsbD 16 = false) →
      ∀ e ∈ [(0x10, s.setCtx cl k { cx with root := w.v &&& 0x0000FFFFFFFF0000 }),
          (0x11, s.setCtx cl k { cx with spillbase := w.v &&& 0x00FFFFFFFFFFFFC0 }),
          (0x12, s.setCtx cl k { cx with spillcap := w.v &&& 0xFFFF }),
          (0x13, s.setCtx cl k { cx with ringbase := w.v &&& 0x00FFFFFFFFFFFFC0 }),
          (0x14, s.setCtx cl k { cx with ringsize := w.v &&& 0xFFFF }),
          (0x15, s.setCtx cl (k / 8) { s.ctx cl (k / 8) with
            nbr := mapPut (s.ctx cl (k / 8)).nbr (k % 8) (w.v &&& 0x81FF) }),
          (0x20, s.setCore c { co with ctxbuf := w.v &&& 0x00FFFFFFFFFF0000 }),
          (0x21, s.setCore c { co with
            preK := co.preK || w.v.getLsbD 0, preL := co.preL || (s.level = .l && w.v.getLsbD 1)
            preTag := if w.v.getLsbD 0 && !co.preK then BitVec.ofNat 4 s.tag else co.preTag }),
          (0x42, { s with porch := { s.porch with
            hostctx := mapPut s.porch.hostctx k (w.v &&& 0x00000FFFFFFFFFC0) } }),
          (0x50, s.setCore c { co with lltab := w.v &&& 0x00FFFFFFFFFFFF00 }),
          (0x51, s.setCore c { co with llsave := mapPut co.llsave k w.v }),
          (0x70, { s with porch := { s.porch with
            brk := mapPut s.porch.brk (8 * s.curVd + k) (w.v &&& 0x80FFFFFFFFFFFFFF) } })],
        n = e.1 → RetiresFrom i s e.2 u []) := by
  intro c cl u x w k cx co i indexed good
  obtain ⟨h1, h2, h3, h4⟩ := fxIndex_core (s := s) (a := a) (v := s.view u) hc
  obtain ⟨hl, h0⟩ := sysLevel_core hc
  refine ⟨fun hi hp => sysw_traps hn h (h1 hi hp), fun hi hp hk => sysw_traps hn h (h2 hi hp hk),
    fun hi hp hk ho => sysw_traps hn h (h3 hi hp hk ho), fun hi hp => sysw_poison hn h (h4 hi) hp,
    fun hgood hroot hbit => ?_, fun hgood hroot e he hne => ?_⟩
  · exact sysw_illegal hn h (h4 hgood.1) hgood.2 h0 (by rw [hroot]; exact if_pos hbit)
  · exact sysw_retires hn h (h4 hgood.1) hgood.2 h0 hl (sysWrite_core hroot (by rw [hne]; exact he))

theorem fsWrite_fields (old x : Word) : (fsWrite old x).extractLsb' 0 5 = x.extractLsb' 0 5 ∧
    (fsWrite old x).extractLsb' 5 3 = (if x.getLsbD 7 then old.extractLsb' 5 3 else x.extractLsb' 5 3) ∧
    (fsWrite old x).extractLsb' 8 56 = 0 := by
  unfold fsWrite
  generalize (if x.getLsbD 7 then old.extractLsb' 5 3 else x.extractLsb' 5 3) = rm
  refine ⟨?_, ?_, ?_⟩ <;> apply BitVec.eq_of_getLsbD_eq <;> intro i hi <;>
    simp only [BitVec.getLsbD_extractLsb', BitVec.getLsbD_append, hi, decide_true, Bool.true_and]
  · rw [if_pos (by omega)]
    simp [hi]
  · rw [if_neg (by omega), if_pos (by omega), show 5 + i - 5 = i by omega]
  · rw [if_neg (by omega), if_neg (by omega)]
    simp

theorem plain_ok {f : Form} (h : Clear s g f) (l : List Eff) :
    s.plain g f (fun _ => .ok l) = s.holdChans ((s.takeSrcs f.use).retire l) f.use :=
  issue_ok h (fx := fun _ => .ok l) rfl _

/-- A form whose action retires has retired. -/
theorem retires_of_act {f : Form} (h : Clear s g f) {i : Instr} {l : List Eff}
    (he : exec i s = .next (s.holdChans ((s.takeSrcs f.use).retire l) f.use)) (hl : l.all (fun e => !isLs e) = true) :
    Retires i s f.use l :=
  plain_retires h (he.trans (congrArg Host.Outcome.next (plain_ok h l).symm)) rfl hl

theorem fs_forms (d a : SOp) :
    (Clear s g (formSysr 0 d a) → Retires (.sysr g d a 0) s (formSysr 0 d a).use [effS d s.regs.fs false]) ∧
    (Clear s g (formSysw 0 d a) →
      let w := (s.view (formSysw 0 d a).use).s (s.view (formSysw 0 d a).use).d d
      if w.p then Traps (.sysw g d a 0) s { cause := 0x09, sub := 0 }
      else ∃ y : Word, Retires (.sysw g d a 0) s (formSysw 0 d a).use [.fs y] ∧ y.extractLsb' 0 5 = w.v.extractLsb' 0 5 ∧
        y.extractLsb' 5 3 = (if w.v.getLsbD 7 then s.regs.fs.extractLsb' 5 3 else w.v.extractLsb' 5 3) ∧
        y.extractLsb' 8 56 = 0) := by
  refine ⟨fun h => sysr_gives (by decide) h (fxIndex_none rfl), fun h => ?_⟩
  intro w
  have hx : fxIndex s 0 a (s.view (formSysw 0 d a).use) = .ok 0 := fxIndex_none rfl
  split
  · next hp => exact sysw_poison (by decide) h hx hp
  · next hp =>
    have hxw : fxSysw s 0 d a (s.view (formSysw 0 d a).use) = .ok (0, w.v) := by
      rw [fxSysw, hx]
      exact (if_neg hp).trans rfl
    have he := sysw_exec (n := 0) (by decide) g d a s
    rw [issue_ok h hxw] at he
    refine ⟨fsWrite s.regs.fs w.v, ?_, fsWrite_fields ..⟩
    have hregs : (s.takeSrcs (formSysw 0 d a).use).regs = s.regs := (sameParties_chTake ..).regs
    unfold State.syswNow at he
    rw [if_pos rfl, hregs] at he
    exact retires_of_act h he rfl

/-- Settles O39: the index of each register by `fxIndex_core`, what it reads by `sysrValue_core`, and what it takes by
`sysWrite_core`. -/
theorem systemRegisters : Obligations.SystemRegisters := by
  intro s g d a n hn c cl sel perCtx own inRange indexed
  obtain ⟨hr, hw⟩ := fs_forms (s := s) (g := g) d a
  exact ⟨hr, hw, fun h hc => systemRegister_reads hn h hc, fun h hc => systemRegister_writes hn h hc⟩

end

end Sys2Proof.Safety
end

section
/-! SUPPORT. SYSR and SYSW of the registers of die scope, and their copies in control space (O40). -/

namespace Sys2Proof.Safety

open Sys2Proof.Machine

/-- The registers of die scope that SYSR or SYSW reaches. -/
def dieRegs : List Nat := [0x30, 0x31, 0x32, 0x40, 0x41, 0x60, 0x71, 0x72, 0x73, 0x74, 0x75, 0x76, 0x77, 0x800, 0xF00]

/-- Those among them without an index. -/
def diePlain : List Nat := [0x30, 0x31, 0x32, 0x71, 0x72, 0x73, 0x74, 0x75, 0x77]

def DieIndexOk (n k : Nat) : Prop := (n = 0x40 → k < 512) ∧ (n = 0x41 → k < 64) ∧ (n = 0x60 → k < 4096) ∧
  (n = 0xF00 ∨ n = 0x76 → k < 64) ∧ (n = 0x800 → k < 2464 ∧ k % 4 ≠ 3)

def DieIndexOwn (s : State) (n k : Nat) : Prop := s.level = .k → (n = 0x40 → k / 8 = s.curVd) ∧
  (n = 0x41 ∨ n = 0x76 → k = s.curVd)

section
variable {s : State} {g : Guard}

theorem sysIndexOk_die {n : Nat} (hn : n ∈ [0x40, 0x41, 0x60, 0x76, 0x800, 0xF00]) (x : Word) :
    sysIndexOk n x = true ↔ DieIndexOk n x.toNat := by
  simp only [List.mem_cons, List.not_mem_nil, or_false] at hn
  rcases hn with rfl | rfl | rfl | rfl | rfl | rfl <;> simp [sysIndexOk, sysRange, DieIndexOk]

theorem sysOwnIndex_die {n : Nat} (hn : n ∈ [0x40, 0x41, 0x60, 0x76, 0x800, 0xF00]) (x : Word) :
    (s.level = .k → sysOwnIndex n s.tag s.curVd x = true) ↔ DieIndexOwn s n x.toNat := by
  simp only [List.mem_cons, List.not_mem_nil, or_false] at hn
  rcases hn with rfl | rfl | rfl | rfl | rfl | rfl <;> simp [sysOwnIndex, DieIndexOwn]

theorem dieRegs_range {n : Nat} (hn : n ∈ dieRegs) : n ∈ diePlain ∧ sysRange n = none ∨
    n ∉ diePlain ∧ n ∈ [0x40, 0x41, 0x60, 0x76, 0x800, 0xF00] ∧ ∃ m, sysRange n = some m := by
  have key : ∀ n ∈ dieRegs, n ∈ diePlain ∧ sysRange n = none ∨
      n ∉ diePlain ∧ n ∈ [0x40, 0x41, 0x60, 0x76, 0x800, 0xF00] ∧ (sysRange n).isSome = true := by decide
  rcases key n hn with h | ⟨h1, h2, h3⟩
  · exact .inl h
  · exact .inr ⟨h1, h2, Option.isSome_iff_exists.mp h3⟩

/-- The index of a register of die scope, where it is legal. -/
theorem fxIndex_die {n : Nat} {a : SOp} {v : View} (hn : n ∈ dieRegs)
    (hok : n ∈ diePlain ∨ ((v.s v.a a).p = false ∧ DieIndexOk n (v.s v.a a).v.toNat ∧
      DieIndexOwn s n (v.s v.a a).v.toNat)) :
    fxIndex s n a v = .ok (if n ∈ diePlain then 0 else (v.s v.a a).v.toNat) := by
  rcases dieRegs_range hn with ⟨hp, hr⟩ | ⟨hp, hi, m, hm⟩
  · rw [fxIndex_none hr, if_pos hp]
  · obtain ⟨hc, hk, ho⟩ := hok.resolve_left hp
    rw [fxIndex_ok hm hc ((sysIndexOk_die hi _).mpr hk) ((sysOwnIndex_die hi _).mpr ho), if_neg hp]

/-- What SYSR reads of each register of die scope. -/
theorem sysrValue_die {n k : Nat} {w : Word} (he : (n, w) ∈ [(0x30, (s.die (dieOf s.cur.core)).miglimit.zeroExtend 64),
      (0x32, BitVec.ofNat 64 (s.die (dieOf s.cur.core)).pool.length),
      (0x40, mapGet 0 (s.die (k % 8)).alloc (k / 8)), (0x41, mapGet 0 (s.die (dieOf s.cur.core)).weight k),
      (0x60, (s.cluster k).inc.zeroExtend 64), (0x71, (s.die (dieOf s.cur.core)).trace.base),
      (0x72, (s.die (dieOf s.cur.core)).trace.size), (0x73, (s.die (dieOf s.cur.core)).trace.ctl),
      (0x74, (s.die (dieOf s.cur.core)).trace.head), (0x75, (s.die (dieOf s.cur.core)).trace.vds),
      (0x76, mapGet 0 s.porch.lease.words k ||| if s.porch.lease.active = some k then 2 ^ 32 else 0),
      (0x77, (s.die (dieOf s.cur.core)).leasemax.zeroExtend 64), (0xF00, mapGet 0 (s.die (dieOf s.cur.core)).hbmerr k),
      (0x800, loopWord (dieOf s.cur.core) (k / 4) (k % 4))]) :
    sysrValue s n (if n ∈ diePlain then 0 else k) = w := by
  simp only [List.mem_cons, Prod.mk.injEq, List.not_mem_nil, or_false] at he
  rcases he with ⟨rfl, rfl⟩ | ⟨rfl, rfl⟩ | ⟨rfl, rfl⟩ | ⟨rfl, rfl⟩ | ⟨rfl, rfl⟩ | ⟨rfl, rfl⟩ | ⟨rfl, rfl⟩ | ⟨rfl, rfl⟩ |
    ⟨rfl, rfl⟩ | ⟨rfl, rfl⟩ | ⟨rfl, rfl⟩ | ⟨rfl, rfl⟩ | ⟨rfl, rfl⟩ | ⟨rfl, rfl⟩
  case inr.inr.inr.inr.inl =>
    have hk : 512 * (k / 512) + k % 512 = k := Nat.div_add_mod ..
    exact congrArg (fun j => (s.cluster j).inc.zeroExtend 64) hk
  all_goals rfl

/-- The number of an entry of a table is one of the table's numbers. -/
theorem key_mem {α : Type} {l : List (Nat × α)} {keys m : List Nat} (hl : l.map (·.1) = keys) (hm : ∀ n ∈ keys, n ∈ m)
    {r : Nat × α} (hr : r ∈ l) : r.1 ∈ m := hm _ (hl ▸ List.mem_map_of_mem hr)

theorem dieRegister_reads {n : Nat} {d a : SOp} (hn : n < 2 ^ 16) (h : Clear s g (formSysr n d a)) :
    let c := s.cur.core
    let e := dieOf c
    let x := s.die e
    let u := (formSysr n d a).use
    let i := (s.view u).s (s.view u).a a
    let k := i.v.toNat
    (n ∈ diePlain ∨ (i.p = false ∧ DieIndexOk n k ∧ DieIndexOwn s n k)) →
    ∀ r ∈ [(0x30, x.miglimit.zeroExtend 64), (0x32, BitVec.ofNat 64 x.pool.length),
        (0x40, mapGet 0 (s.die (k % 8)).alloc (k / 8)), (0x41, mapGet 0 x.weight k),
        (0x60, (s.cluster k).inc.zeroExtend 64), (0x71, x.trace.base), (0x72, x.trace.size), (0x73, x.trace.ctl),
        (0x74, x.trace.head), (0x75, x.trace.vds),
        (0x76, mapGet 0 s.porch.lease.words k ||| if s.porch.lease.active = some k then 2 ^ 32 else 0),
        (0x77, x.leasemax.zeroExtend 64), (0xF00, mapGet 0 x.hbmerr k), (0x800, loopWord e (k / 4) (k % 4))],
      n = r.1 → Retires (.sysr g d a (BitVec.ofNat 16 n)) s u [effS d r.2 false] := by
  intro c e x u i k hok r hr hne
  have hmem : n ∈ dieRegs := hne ▸ key_mem
    (keys := [0x30, 0x32, 0x40, 0x41, 0x60, 0x71, 0x72, 0x73, 0x74, 0x75, 0x76, 0x77, 0xF00, 0x800]) rfl (by decide) hr
  have hgives := sysr_gives hn h (fxIndex_die hmem hok)
  rw [sysrValue_die (w := r.2) (by rw [hne]; exact hr)] at hgives
  exact hgives

/-! Writes -/

theorem weight_level (held depth : BitVec 16) :
    (BitVec.ofNat 64 (min held.toNat depth.toNat * 2 ^ 16) : Word) =
      (if depth.toNat < held.toNat then depth else held).zeroExtend 64 <<< 16 := by
  apply BitVec.eq_of_toNat_eq
  have h1 := held.isLt
  have h2 := depth.isLt
  split <;> rw [BitVec.toNat_shiftLeft, BitVec.toNat_setWidth, BitVec.toNat_ofNat, Nat.shiftLeft_eq]
  · rw [min_eq_right (by omega), Nat.mod_eq_of_lt (a := depth.toNat) (by omega)]
  · rw [min_eq_left (by omega), Nat.mod_eq_of_lt (a := held.toNat) (by omega)]

/-- Tracing begins with a write of its control that enables it where a buffer stands. -/
theorem renew_ctl (t : Trace) (w : Word) (cycle : Nat) :
    t.renew { t with ctl := w &&& 0x0000000300000001 } cycle =
      if w.getLsbD 0 && t.size ≠ 0 && !t.ctl.getLsbD 0 then
        { t with ctl := w &&& 0x0000000300000001, sync := none, began := cycle }
      else { t with ctl := w &&& 0x0000000300000001 } := by
  unfold Trace.renew
  have hbit : (w &&& 0x0000000300000001).getLsbD 0 = w.getLsbD 0 := by
    rw [BitVec.getLsbD_and, show (0x0000000300000001 : Word).getLsbD 0 = true from rfl, Bool.and_true]
  simp only [hbit]
  congr 1
  cases w.getLsbD 0 <;> cases t.ctl.getLsbD 0 <;> by_cases hs : t.size = 0 <;> simp [hs]

/-- The queue of lease requests after one more (R405). -/
theorem lease_queue (q : List Nat) (k a b : Nat) :
    (if a = 0 || b = 0 then q.filter (· ≠ k) else if q.contains k then q else q.filter (· ≠ k) ++ [k]) =
      if a = 0 ∨ b = 0 then q.filter (· ≠ k) else if k ∈ q then q else q.filter (· ≠ k) ++ [k] := by
  simp only [Bool.or_eq_true, decide_eq_true_eq, List.contains_iff_mem]

/-- What a write makes of each register of die scope but the pool and the incarnations. -/
theorem sysWrite_die {n k : Nat} {w : Word} {t : State} :
    let e := dieOf s.cur.core
    let x := s.die e
    let alloc := mapGet 0 (s.die (k % 8)).alloc (k / 8)
    let alloc' : Word := (alloc &&& 0x00007FFF00000000) ||| (w &&& 0x000000007FFFFFFF)
    let err' : Word := (w &&& 0x003FFFFFFFFF0000) ||| (mapGet 0 x.hbmerr k &&& ~~~w &&& 0x8000000000000000)
    let depth := w.extractLsb' 48 16
    let held := (mapGet 0 x.weight k).extractLsb' 16 16
    let level : BitVec 16 := if depth.toNat < held.toNat then depth else held
    let weight' : Word := (w &&& 0xFFFFFFFF000000FF) ||| (level.zeroExtend 64 <<< 16)
    let tr := { x.trace with ctl := w &&& 0x0000000300000001 }
    let tr' := if w.getLsbD 0 && x.trace.size ≠ 0 && !x.trace.ctl.getLsbD 0 then
      { tr with sync := none, began := s.cycle } else tr
    let l := s.porch.lease
    let len := min (w.extractLsb' 0 32).toNat x.leasemax.toNat
    let slices := (w.extractLsb' 48 16).toNat
    (n, t) ∈ [(0x30, s.setDie e { x with miglimit := w.extractLsb' 0 32 }),
      (0x40, s.setDie (k % 8) { s.die (k % 8) with alloc := mapPut (s.die (k % 8)).alloc (k / 8) alloc' }),
      (0x41, s.setDie e { x with weight := mapPut x.weight k weight' }),
      (0x73, s.setDie e { x with trace := tr' }),
      (0x71, s.setDie e { x with trace := { x.trace with base := w &&& 0x0000FFFFFFFF0000 } }),
      (0x72, s.traceSize e (w &&& 0xFFFF)),
      (0x76, { s with porch := { s.porch with lease := { l with
        words := mapPut l.words k (BitVec.ofNat 64 (slices * 2 ^ 48 + len))
        queue := if slices = 0 ∨ len = 0 then l.queue.filter (· ≠ k)
          else if k ∈ l.queue then l.queue else l.queue.filter (· ≠ k) ++ [k] } } }),
      (0x74, s.setDie e { x with trace := { x.trace with head := w &&& ~~~7, full := false } }),
      (0x75, s.setDie e { x with trace := { x.trace with vds := w } }),
      (0x77, s.setDie e { x with leasemax := w.extractLsb' 0 32 }),
      (0xF00, s.setDie e { x with hbmerr := mapPut x.hbmerr k err' })] →
    s.sysWrite s.cur.core s.curVd n (if n ∈ diePlain then 0 else k) (s.level = .l) s.tag w = some t := by
  intro e x alloc alloc' err' depth held level weight' tr tr' l len slices he
  simp only [List.mem_cons, Prod.mk.injEq, List.not_mem_nil, or_false] at he
  rcases he with ⟨rfl, rfl⟩ | ⟨rfl, rfl⟩ | ⟨rfl, rfl⟩ | ⟨rfl, rfl⟩ | ⟨rfl, rfl⟩ | ⟨rfl, rfl⟩ | ⟨rfl, rfl⟩ | ⟨rfl, rfl⟩ |
    ⟨rfl, rfl⟩ | ⟨rfl, rfl⟩ | ⟨rfl, rfl⟩
  case inr.inr.inl =>
    exact congrArg (fun l : Word => some (s.setDie e { x with
      weight := mapPut x.weight k ((w &&& 0xFFFFFFFF000000FF) ||| l) })) (weight_level held depth)
  case inr.inr.inr.inl =>
    exact congrArg (fun t => some (s.setDie e { x with trace := t })) (renew_ctl x.trace w s.cycle)
  case inr.inr.inr.inr.inr.inr.inl =>
    exact congrArg (fun q => some { s with porch := { s.porch with lease := { l with
      words := mapPut l.words k (BitVec.ofNat 64 (slices * 2 ^ 48 + len)), queue := q } } }) (lease_queue l.queue k slices len)
  all_goals rfl

theorem sysLevel_die {n : Nat} (hn : n ∈ dieRegs) : 1 ≤ sysWriteLevel n ∧ n ≠ 0 := by
  have key : ∀ n ∈ dieRegs, 1 ≤ sysWriteLevel n ∧ n ≠ 0 := by decide
  exact key n hn

/-- A write of poolpush: its frame joins the pool, or it is refused. -/
theorem poolPush_cases (s : State) (e : Nat) (w : Word) :
    let frame := w &&& 0x0000FFFFFFFF0000
    (frame = 0 ∨ populated frame.toNat = false → s.poolPush e w = none) ∧
    (¬ (frame = 0 ∨ populated frame.toNat = false) → ∃ t, s.poolPush e w = some t ∧
      (t.die e).pool = (s.die e).pool ++ [frame.toNat] ∧ t.cur = s.cur ∧ t.cores = s.cores) := by
  intro frame
  have hf : (decide ((frameField w).toNat = 0) || !populated (frameField w).toNat) = true ↔
      (frame = 0 ∨ populated frame.toNat = false) := by
    rw [Bool.or_eq_true, Bool.not_eq_true']
    exact or_congr_left ⟨fun h => BitVec.eq_of_toNat_eq (of_decide_eq_true h),
      fun h => decide_eq_true (congrArg BitVec.toNat h)⟩
  refine ⟨fun h => if_pos (hf.mpr h), fun h => ⟨_, if_neg (mt hf.mp h), ?_, rfl, rfl⟩⟩
  exact congrArg Die.pool (die_setDie ..)

theorem sysWrite_noReset {n : Nat} {w : Word} (hn : n = 0x60) (hw : w.getLsbD 8 = false) (j : Nat) :
    s.sysWrite s.cur.core s.curVd n j (s.level = .l) s.tag w = some s := by
  subst hn
  exact congrArg some (if_neg fun hc => Bool.false_ne_true (hw.symm.trans hc))

theorem dieRegister_writes {n : Nat} {d a : SOp} (hn : n < 2 ^ 16) (h : Clear s g (formSysw n d a)) :
    let e := dieOf s.cur.core
    let x := s.die e
    let u := (formSysw n d a).use
    let i := (s.view u).s (s.view u).a a
    let w := (s.view u).s (s.view u).d d
    let k := i.v.toNat
    let o := Instr.sysw g d a (BitVec.ofNat 16 n)
    let err := mapGet 0 x.hbmerr k
    let alloc := mapGet 0 (s.die (k % 8)).alloc (k / 8)
    let frame := w.v &&& 0x0000FFFFFFFF0000
    let alloc' : Word := (alloc &&& 0x00007FFF00000000) ||| (w.v &&& 0x000000007FFFFFFF)
    let err' : Word := (w.v &&& 0x003FFFFFFFFF0000) ||| (err &&& ~~~w.v &&& 0x8000000000000000)
    let depth := w.v.extractLsb' 48 16
    let held := (mapGet 0 x.weight k).extractLsb' 16 16
    let level : BitVec 16 := if depth.toNat < held.toNat then depth else held
    let weight' : Word := (w.v &&& 0xFFFFFFFF000000FF) ||| (level.zeroExtend 64 <<< 16)
    let tr := { x.trace with ctl := w.v &&& 0x0000000300000001 }
    let tr' := if w.v.getLsbD 0 && x.trace.size ≠ 0 && !x.trace.ctl.getLsbD 0 then
      { tr with sync := none, began := s.cycle } else tr
    let l := s.porch.lease
    let len := min (w.v.extractLsb' 0 32).toNat x.leasemax.toNat
    let slices := (w.v.extractLsb' 48 16).toNat
    let ok : Prop := (n ∈ diePlain ∨ (i.p = false ∧ DieIndexOk n k ∧ DieIndexOwn s n k)) ∧ w.p = false
    (ok → n = 0x31 → if frame = 0 ∨ populated frame.toNat = false then Traps o s { cause := 0x01 }
      else ∃ t, exec o s = .next t ∧ (t.die e).pool = x.pool ++ [frame.toNat] ∧
        t.regs = { s.regs with pc := s.pc + 1 }) ∧
    (ok → n = 0x60 → w.v.getLsbD 8 = false → Retires o s u []) ∧
    (ok → ∀ r ∈ [(0x30, s.setDie e { x with miglimit := w.v.extractLsb' 0 32 }),
        (0x40, s.setDie (k % 8) { s.die (k % 8) with alloc := mapPut (s.die (k % 8)).alloc (k / 8) alloc' }),
        (0x41, s.setDie e { x with weight := mapPut x.weight k weight' }),
        (0x73, s.setDie e { x with trace := tr' }),
        (0x71, s.setDie e { x with trace := { x.trace with base := frame } }),
        (0x72, s.traceSize e (w.v &&& 0xFFFF)),
        (0x76, { s with porch := { s.porch with lease := { l with
          words := mapPut l.words k (BitVec.ofNat 64 (slices * 2 ^ 48 + len))
          queue := if slices = 0 ∨ len = 0 then l.queue.filter (· ≠ k)
            else if k ∈ l.queue then l.queue else l.queue.filter (· ≠ k) ++ [k] } } }),
        (0x74, s.setDie e { x with trace := { x.trace with head := w.v &&& ~~~7, full := false } }),
        (0x75, s.setDie e { x with trace := { x.trace with vds := w.v } }),
        (0x77, s.setDie e { x with leasemax := w.v.extractLsb' 0 32 }),
        (0xF00, s.setDie e { x with hbmerr := mapPut x.hbmerr k err' })],
      n = r.1 → RetiresFrom o s r.2 u []) := by
  intro e x u i w k o err alloc frame alloc' err' depth held level weight' tr tr' l len slices ok
  refine ⟨fun hok hne => ?_, fun hok hne hbit => ?_, fun hok r hr hne => ?_⟩
  · have hmem : n ∈ dieRegs := hne ▸ by decide
    have hx := fxIndex_die (s := s) hmem hok.1
    obtain ⟨hl, h0⟩ := sysLevel_die hmem
    have hpush (j : Nat) : s.sysWrite s.cur.core s.curVd n j (s.level = .l) s.tag w.v = s.poolPush e w.v := by
      rw [hne]
      rfl
    obtain ⟨hnone, hsome⟩ := poolPush_cases s e w.v
    split
    · next hf => exact sysw_illegal hn h hx hok.2 h0 ((hpush _).trans (hnone hf))
    · next hf =>
      obtain ⟨t, ht, hpool, hcur, hcores⟩ := hsome hf
      obtain ⟨t', he, hset⟩ := sysw_retires hn h hx hok.2 h0 hl ((hpush _).trans ht)
      have hregs : t.regs = s.regs := (sameParties_of_cores hcur hcores).regs
      refine ⟨t', he, ?_, ?_⟩
      · have hd : t'.die e = t.die e := by
          have hr : t'.dies = t.dies := (congrArg State.dies hset.own.rest :)
          rw [State.die, hr]
          rfl
        rw [hd, hpool]
      · have hr := hset.regs
        rw [hregs, State.pc, hregs] at hr
        exact hr
  · have hmem : n ∈ dieRegs := hne ▸ by decide
    obtain ⟨hl, h0⟩ := sysLevel_die hmem
    exact sysw_retires hn h (fxIndex_die hmem hok.1) hok.2 h0 hl (sysWrite_noReset hne hbit _)
  · have hmem : n ∈ dieRegs := hne ▸ key_mem
      (keys := [0x30, 0x40, 0x41, 0x73, 0x71, 0x72, 0x76, 0x74, 0x75, 0x77, 0xF00]) rfl (by decide) hr
    obtain ⟨hl, h0⟩ := sysLevel_die hmem
    exact sysw_retires hn h (fxIndex_die hmem hok.1) hok.2 h0 hl (sysWrite_die (by rw [hne]; exact hr))

/-! Another buffer of the trace (R407) -/

theorem renew_size (old t : Trace) (cycle : Nat) : (old.renew t cycle).size = t.size := by
  unfold Trace.renew
  dsimp only
  split <;> rfl

/-- A core of die `e` drops what it has stamped; others keep it. -/
def dropStamps (e : Nat) (t : Trace) (k : Nat) (c : Core) : Core :=
  if dieOf k = e then { c with stamps := [], stampLost := c.stampLost + t.lostBy c.stamps } else c

theorem core_traceSize (s : State) (e : Nat) (v : Word) (k : Nat) : (s.traceSize e v).core k =
    dropStamps e (s.die e).trace k (s.core k) := by
  have hmap : (s.traceSize e v).cores = s.cores.map fun c => (c.1, dropStamps e (s.die e).trace c.1 c.2) := by
    refine List.map_congr_left fun c _ => ?_
    unfold dropStamps
    split <;> rfl
  unfold State.core mapGet
  rw [hmap, mapGet?_map]
  cases mapGet? s.cores k with
  | none =>
    unfold dropStamps
    split <;> rfl
  | some c => rfl

theorem traceSize_facts (s : State) (e : Nat) (v : Word) :
    let y := s.traceSize e v
    let t := (s.die e).trace
    (y.die e).trace.size = v ∧ (∀ k, dieOf k ≠ e → y.core k = s.core k) ∧
    (∀ k, dieOf k = e → y.core k = { s.core k with
      stamps := [], stampLost := (s.core k).stampLost + t.lostBy (s.core k).stamps }) ∧
    (t.ctl.getLsbD 0 = true → v ≠ 0 → t.size = 0 → (y.die e).trace.sync = none ∧ (y.die e).trace.began = s.cycle) := by
  intro y t
  have hdie : (y.die e).trace = t.renew { t with size := v } s.cycle := congrArg Die.trace (die_setDie ..)
  refine ⟨?_, fun k hk => ?_, fun k hk => ?_, fun hc hv ht => ?_⟩
  · rw [hdie, renew_size]
  · rw [core_traceSize, dropStamps, if_neg hk]
  · rw [core_traceSize, dropStamps, if_pos hk]
  · have hon : t.renew { t with size := v } s.cycle = { t with size := v, sync := none, began := s.cycle } := by
      refine if_pos ?_
      simp only [hc, ht, decide_eq_true hv]
      rfl
    rw [hdie, hon]
    exact ⟨rfl, rfl⟩

/-! Control space (R314) -/

section
variable {die n k : Nat} (hd : die < 8) (hn : n < 2 ^ 16) (hk : k < 2 ^ 21)
include hd hn hk

theorem ctl_fields : ctlDie (0xF00000000000 + die * 2 ^ 40 + n * 2 ^ 24 + k * 8) = die ∧
    ctlNum (0xF00000000000 + die * 2 ^ 40 + n * 2 ^ 24 + k * 8) = n ∧
    ctlIndex (0xF00000000000 + die * 2 ^ 40 + n * 2 ^ 24 + k * 8) = k := by
  unfold ctlDie ctlNum ctlIndex
  omega

theorem ctlKnown_eq (h42 : n ≠ 0x42) (h60 : n ≠ 0x60) : ctlKnown (0xF00000000000 + die * 2 ^ 40 + n * 2 ^ 24 + k * 8) =
    (dieScope n && sysIndexOk n (BitVec.ofNat 64 k) && ((sysRange n).isSome || decide (k = 0))) := by
  obtain ⟨h1, h2, h3⟩ := ctl_fields hd hn hk
  unfold ctlKnown
  simp only [h1, h2, h3, if_neg h42, if_neg h60, decide_eq_true hd, Bool.true_and]

theorem ctlReadWord_eq (s : State) (h42 : n ≠ 0x42) (h60 : n ≠ 0x60) :
    s.ctlReadWord (0xF00000000000 + die * 2 ^ 40 + n * 2 ^ 24 + k * 8) =
      if (dieScope n && sysIndexOk n (BitVec.ofNat 64 k) && ((sysRange n).isSome || decide (k = 0))) = true then
        s.dieRead die n k else 0 := by
  obtain ⟨h1, h2, h3⟩ := ctl_fields hd hn hk
  unfold State.ctlReadWord
  rw [ctlKnown_eq hd hn hk h42 h60, h1, h2, h3, if_neg h42]
  cases dieScope n && sysIndexOk n (BitVec.ofNat 64 k) && ((sysRange n).isSome || decide (k = 0)) <;> rfl

theorem ctlSpace_facts (s : State) :
    let pa := 0xF00000000000 + die * 2 ^ 40 + n * 2 ^ 24 + k * 8
    (n ∈ [0x30, 0x32, 0x71, 0x72, 0x73, 0x74, 0x75, 0x77] → s.ctlReadWord pa = if k = 0 then s.dieRead die n 0 else 0) ∧
    (n = 0x31 → s.ctlReadWord pa = 0) ∧
    (n ∈ [0x40, 0x41, 0xF00, 0x800] → ∀ ok : Prop, (ok ↔ DieIndexOk n k) → [Decidable ok] →
      s.ctlReadWord pa = if ok then s.dieRead die n k else 0) ∧
    (n ∈ [0x32, 0x800] → ∀ w, s.ctlWriteWord pa w = s) := by
  intro pa
  refine ⟨fun hm => ?_, fun hm => ?_, fun hm ok hiff _ => ?_, fun hm w => ?_⟩
  · have key : ∀ m ∈ [0x30, 0x32, 0x71, 0x72, 0x73, 0x74, 0x75, 0x77], m ≠ 0x42 ∧ m ≠ 0x60 ∧ dieScope m = true ∧
        sysRange m = none := by decide
    obtain ⟨h42, h60, hs, hr⟩ := key n hm
    rw [ctlReadWord_eq hd hn hk s h42 h60, hs, sysIndexOk, hr]
    by_cases h0 : k = 0
    · rw [if_pos h0, if_pos (by simp [h0]), h0]
    · rw [if_neg h0, if_neg (by simp [h0])]
  · subst hm
    rw [ctlReadWord_eq hd hn hk s (by decide) (by decide)]
    exact ite_eq_right_iff.mpr fun _ => rfl
  · have key : ∀ m ∈ [0x40, 0x41, 0xF00, 0x800], m ≠ 0x42 ∧ m ≠ 0x60 ∧ dieScope m = true ∧
        (sysRange m).isSome = true ∧ m ∈ [0x40, 0x41, 0x60, 0x76, 0x800, 0xF00] := by decide
    obtain ⟨h42, h60, hs, hr, hm'⟩ := key n hm
    have hkn : (BitVec.ofNat 64 k : Word).toNat = k := by
      rw [BitVec.toNat_ofNat]
      omega
    have hiff' := sysIndexOk_die hm' (BitVec.ofNat 64 k)
    rw [hkn, ← hiff] at hiff'
    rw [ctlReadWord_eq hd hn hk s h42 h60, hs, hr]
    simp only [Bool.true_and, Bool.true_or, Bool.and_true, hiff']
  · have hw : ∀ m ∈ [0x32, 0x800], ∀ i, s.dieWrite die m i w = some s := by
      intro m hm i
      simp only [List.mem_cons, List.not_mem_nil, or_false] at hm
      rcases hm with rfl | rfl <;> rfl
    have h42 : n ≠ 0x42 := by rintro rfl; exact absurd hm (by decide)
    obtain ⟨h1, h2, h3⟩ := ctl_fields hd hn hk
    unfold State.ctlWriteWord
    split
    · rfl
    · rw [h1, h2, h3, if_neg h42, hw n hm]
      rfl

end

end

end Sys2Proof.Safety
end

section
/-! SUPPORT. Reset (O6), and a halted part whose cache is over full (O5). -/

namespace Sys2Proof.Safety

open Sys2Proof.Machine

/-- Settles O6: every part of the reset state is the default of its map. -/
theorem resetState : Obligations.ResetState := by
  unfold Obligations.ResetState
  intro s
  have hz (i : Fin 32) : RegSet.zero.getS i = ⟨0, false⟩ := by
    revert i
    decide
  refine ⟨⟨rfl, fun e he => ?_⟩, rfl, rfl, rfl, rfl, rfl, rfl, fun a => ⟨rfl, rfl⟩, fun d => ⟨rfl, rfl⟩, fun c p => ?_⟩
  · exact absurd he List.not_mem_nil
  · refine ⟨rfl, rfl, ?_, hz, fun a => rfl, rfl, rfl, ?_⟩
    · unfold State.regsOf
      split <;> rfl
    · unfold State.canIssue
      dsimp only
      split
      · rfl
      · split
        · rfl
        · split
          · rfl
          · exact Bool.and_false _

/-- An extent of one dirty byte. -/
def dirtyExt : CExt :=
  ⟨.phys, 0, [⟨1, false⟩], .d 0 none, ⟨0, 0, false, false, 0, false, .release, true, true, true, 0⟩, 1, 0⟩

/-- A part that has halted, with nine dirty extents in one set of eight tags. -/
def haltedOverfull : State :=
  { State.reset with
    nextId := 1
    porch := { Porch.init with halted := true }
    clusters := [(0, { Cluster.init with cache := List.replicate 9 dirtyExt })] }

theorem haltedOverfull_net : (match step haltedOverfull with | .next t => t.net | _ => []) ≠ [] := by decide +kernel

/-- Refutes O5: the clause that a halted part without an agenda only lets time pass fails on a state whose cache is over
full, since every step, of a halted part too, ends with the eviction of what exceeds a set (`State.refit`). In
`haltedOverfull` the ninth dirty extent of a set goes home, so a flit is on the network after the step. -/
theorem not_stepBesideInstructions : ¬ Obligations.StepBesideInstructions := by
  intro h
  obtain ⟨-, -, -, -, hhalt, -⟩ := h haltedOverfull
  obtain ⟨t, ht, -, -, hnet, -⟩ := (hhalt rfl).2.2 rfl
  have hflit := haltedOverfull_net
  rw [ht] at hflit
  exact hflit hnet

end Sys2Proof.Safety
end

section
/-! SUPPORT. What the beginning of a party's turn leaves of the state, and the word that it fetches (O4). -/

namespace Sys2Proof.Safety

open Sys2Proof.Machine

/-! What begins a turn changes -/

/-- A party's turn has begun: time has passed, its line and the marks of its waits are its own again, and nothing else of
a party, a cluster or a memory has changed. -/
structure TurnSide (c p : Nat) (s t : State) : Prop where
  rest : { t with cores := s.cores, cycle := s.cycle, cur := s.cur, due := s.due, since := s.since } = s
  core : ∀ e, ({ t.core e with
    counters := (s.core e).counters, strands := (s.core e).strands, porter := (s.core e).porter
    chans := (s.core e).chans } : Core) = s.core e
  strands : ∀ e q, (e, q) ≠ (c, p) → t.strand e q = s.strand e q
  strand : ({ t.strand c p with
    line := (s.strand c p).line, notBefore := (s.strand c p).notBefore, again := (s.strand c p).again
    last := (s.strand c p).last, breakDone := (s.strand c p).breakDone, holdSrc := (s.strand c p).holdSrc
    holdDst := (s.strand c p).holdDst, abortWord := (s.strand c p).abortWord } : Strand) = s.strand c p
  porter : ∀ e, ({ t.porter e with line := (s.porter e).line, notBefore := (s.porter e).notBefore } : Porter) = s.porter e

section
variable {c p : Nat} {s t u : State}

theorem TurnSide.refl : TurnSide c p s s := ⟨rfl, fun _ => rfl, fun _ _ _ => rfl, rfl, fun _ => rfl⟩

theorem TurnSide.trans (h : TurnSide c p s t) (k : TurnSide c p t u) : TurnSide c p s u where
  rest := by
    have e := congrArg (fun x : State => ({ x with
      cores := s.cores, cycle := s.cycle, cur := s.cur, due := s.due, since := s.since } : State)) k.rest
    exact e.trans h.rest
  core e := by
    have e' := congrArg (fun x : Core => ({ x with
      counters := (s.core e).counters, strands := (s.core e).strands, porter := (s.core e).porter
      chans := (s.core e).chans } : Core)) (k.core e)
    exact e'.trans (h.core e)
  strands e q hq := (k.strands e q hq).trans (h.strands e q hq)
  strand := by
    have e := congrArg (fun x : Strand => ({ x with
      line := (s.strand c p).line, notBefore := (s.strand c p).notBefore, again := (s.strand c p).again
      last := (s.strand c p).last, breakDone := (s.strand c p).breakDone, holdSrc := (s.strand c p).holdSrc
      holdDst := (s.strand c p).holdDst, abortWord := (s.strand c p).abortWord } : Strand)) k.strand
    exact e.trans h.strand
  porter e := by
    have e' := congrArg (fun x : Porter => ({ x with
      line := (s.porter e).line, notBefore := (s.porter e).notBefore } : Porter)) (k.porter e)
    exact e'.trans (h.porter e)

/-- A change that no party and no memory meets. -/
theorem turnSide_setCore {d : Nat} {k : Core} (hk : ({ k with
    counters := (s.core d).counters, chans := (s.core d).chans } : Core) = s.core d) : TurnSide c p s (s.setCore d k) := by
  have hs : k.strands = (s.core d).strands := (congrArg Core.strands hk :)
  have hp : k.porter = (s.core d).porter := (congrArg Core.porter hk :)
  have same := sameParties_setCore s d hs hp
  refine ⟨rfl, fun e => ?_, fun e q _ => same.strand e q, by rw [same.strand], fun e => by rw [same.porter]⟩
  rw [core_setCore_eq]
  split
  · next he =>
    subst he
    rw [← hs, ← hp]
    exact hk
  · rfl

theorem turnSide_setStrand {x : Strand} (hx : ({ x with
    line := (s.strand c p).line, notBefore := (s.strand c p).notBefore, again := (s.strand c p).again
    last := (s.strand c p).last, breakDone := (s.strand c p).breakDone, holdSrc := (s.strand c p).holdSrc
    holdDst := (s.strand c p).holdDst, abortWord := (s.strand c p).abortWord } : Strand) = s.strand c p) :
    TurnSide c p s (s.setStrand c p x) := by
  refine ⟨rfl, fun e => ?_, fun e q hq => strand_setStrand_other _ _ _ _ _ _ hq, by rw [strand_setStrand]; exact hx,
    fun e => by rw [porter_setStrand]⟩
  rw [setStrand_eq, core_setCore_eq]
  split
  · next he => rw [he]
  · rfl

theorem turnSide_setPorter {x : Porter} (hx : ({ x with
    line := (s.porter c).line, notBefore := (s.porter c).notBefore } : Porter) = s.porter c) :
    TurnSide c p s (s.setPorter c x) := by
  refine ⟨rfl, fun e => ?_, fun e q _ => strand_setPorter .., by rw [strand_setPorter], fun e => ?_⟩
  · rw [setPorter_eq, core_setCore_eq]
    split
    · next he => rw [he]
    · rfl
  · by_cases he : e = c
    · rw [he, porter_setPorter]
      exact hx
    · rw [porter_setPorter_other _ _ _ _ he]

theorem turnSide_foldl {α : Type} {f : State → α → State} (h : ∀ s x, TurnSide c p s (f s x)) (l : List α) (s : State) :
    TurnSide c p s (l.foldl f s) := by
  induction l generalizing s with
  | nil => exact .refl
  | cons x t ih => exact (h s x).trans (ih _)

theorem turnSide_bump (s : State) (d event vd n : Nat) : TurnSide c p s (s.bump d event vd n) := by
  unfold State.bump
  dsimp only
  split
  · exact .refl
  · exact turnSide_setCore rfl

theorem turnSide_tick (s : State) (d n used : Nat) : TurnSide c p s (s.tick d n used) := by
  unfold State.tick
  dsimp only
  split
  · exact .refl
  · refine TurnSide.trans ?_ (turnSide_foldl (fun s e => ?_) _ _)
    · exact turnSide_setCore rfl
    split
    · exact turnSide_bump ..
    · exact turnSide_bump ..
    · exact .refl

theorem turnSide_enterLine (s : State) : TurnSide c p s (s.enterLine c p) := by
  unfold State.enterLine
  dsimp only
  split
  · exact turnSide_setPorter rfl
  · exact turnSide_setStrand rfl

theorem turnSide_chPlace (s : State) (d vd port : Nat) (ws : List Word) : TurnSide c p s (s.chPlace d vd port ws) := by
  unfold State.chPlace
  split
  · exact .refl
  · exact turnSide_setCore rfl

theorem turnSide_placeAbort (s : State) : TurnSide c p s (s.placeAbort c p) := by
  unfold State.placeAbort
  split
  · refine TurnSide.trans (turnSide_setStrand ?_) (turnSide_chPlace ..)
    rfl
  · exact .refl

/-! What a party finds unchanged -/

theorem TurnSide.regsOf (h : TurnSide c p s t) : t.regsOf c p = s.regsOf c p := by
  have hs : (t.strand c p).regs = (s.strand c p).regs := (congrArg Strand.regs h.strand :)
  have h1 : (t.porter c).cur = (s.porter c).cur := (congrArg Porter.cur (h.porter c) :)
  have h2 : (t.porter c).landlord = (s.porter c).landlord := (congrArg Porter.landlord (h.porter c) :)
  have h3 : (t.porter c).keepers = (s.porter c).keepers := (congrArg Porter.keepers (h.porter c) :)
  unfold State.regsOf
  simp only [hs, h1, h2, h3]

theorem TurnSide.tagOf (h : TurnSide c p s t) : t.tagOf c p = s.tagOf c p := by
  have hs : (t.strand c p).tag = (s.strand c p).tag := (congrArg Strand.tag h.strand :)
  have h1 : (t.porter c).cur = (s.porter c).cur := (congrArg Porter.cur (h.porter c) :)
  unfold State.tagOf
  simp only [hs, h1]

theorem TurnSide.opOf (h : TurnSide c p s t) : t.opOf c p = s.opOf c p := by
  have hs : (t.strand c p).op = (s.strand c p).op := (congrArg Strand.op h.strand :)
  have h1 : (t.porter c).op = (s.porter c).op := (congrArg Porter.op (h.porter c) :)
  unfold State.opOf
  simp only [hs, h1]

theorem TurnSide.clusters (h : TurnSide c p s t) : t.clusters = s.clusters := (congrArg State.clusters h.rest :)

theorem TurnSide.ctx (h : TurnSide c p s t) (k n : Nat) : t.ctx k n = s.ctx k n := by
  rw [State.ctx, State.ctx, State.cluster, State.cluster, h.clusters]

theorem TurnSide.vdOf (h : TurnSide c p s t) : t.vdOf c p = s.vdOf c p := by
  have h1 : (t.porter c).cur = (s.porter c).cur := (congrArg Porter.cur (h.porter c) :)
  unfold State.vdOf State.isLandlord
  simp only [h.tagOf, h.ctx, h1]

theorem TurnSide.brkHit (h : TurnSide c p s t) : t.brkHit c p = s.brkHit c p := by
  have hr : (t.strand c p).regs = (s.strand c p).regs := (congrArg Strand.regs h.strand :)
  have hg : (t.strand c p).gti = (s.strand c p).gti := (congrArg Strand.gti h.strand :)
  have ht : (t.strand c p).tag = (s.strand c p).tag := (congrArg Strand.tag h.strand :)
  have hp : t.porch = s.porch := (congrArg State.porch h.rest :)
  unfold State.brkHit
  simp only [hr, hg, ht, hp, h.ctx]

theorem TurnSide.ls (h : TurnSide c p s t) (e : Nat) : (t.core e).ls = (s.core e).ls ∧ (t.core e).lsP = (s.core e).lsP :=
  ⟨(congrArg Core.ls (h.core e) :), (congrArg Core.lsP (h.core e) :)⟩

end

/-! The clock and the channels -/

/-- The cycle, the party whose turn it is, and what channels hold are as they were. -/
structure Steady (s t : State) : Prop where
  cycle : t.cycle = s.cycle
  cur : t.cur = s.cur
  chans : ∀ e, (t.core e).chans = (s.core e).chans

theorem Steady.refl (s : State) : Steady s s := ⟨rfl, rfl, fun _ => rfl⟩

theorem Steady.trans {s t u : State} (h : Steady s t) (k : Steady t u) : Steady s u :=
  ⟨k.cycle.trans h.cycle, k.cur.trans h.cur, fun e => (k.chans e).trans (h.chans e)⟩

theorem steady_setCore {s : State} {d : Nat} {k : Core} (hk : k.chans = (s.core d).chans) : Steady s (s.setCore d k) := by
  refine ⟨rfl, rfl, fun e => ?_⟩
  rw [core_setCore_eq]
  split
  · next he => rw [he, hk]
  · rfl

theorem steady_foldl {α : Type} {f : State → α → State} (h : ∀ s x, Steady s (f s x)) (l : List α) (s : State) :
    Steady s (l.foldl f s) := by
  induction l generalizing s with
  | nil => exact .refl s
  | cons x t ih => exact (h s x).trans (ih _)

theorem steady_bump (s : State) (d event vd n : Nat) : Steady s (s.bump d event vd n) := by
  unfold State.bump
  dsimp only
  split
  · exact .refl s
  · exact steady_setCore rfl

theorem steady_tick (s : State) (d n used : Nat) : Steady s (s.tick d n used) := by
  unfold State.tick
  dsimp only
  split
  · exact .refl s
  · refine Steady.trans ?_ (steady_foldl (fun s x => ?_) _ _)
    · exact steady_setCore rfl
    split
    · exact steady_bump ..
    · exact steady_bump ..
    · exact .refl s

theorem steady_enterLine (s : State) (c p : Nat) : Steady s (s.enterLine c p) := by
  unfold State.enterLine
  dsimp only
  split
  · exact steady_setCore rfl
  · exact steady_setCore rfl

theorem turnSide_clock {c p : Nat} (s : State) (n m : Nat) (q : Party) (d : Option Party) :
    TurnSide c p s { s with cycle := n, cur := q, due := d, since := m } :=
  ⟨rfl, fun _ => rfl, fun _ _ _ => rfl, rfl, fun _ => rfl⟩

/-- Time passes to a cycle. -/
theorem turnSide_advance {c p : Nat} (s : State) (n : Nat) (q : Option Nat) : TurnSide c p s (s.advance n q) := by
  unfold State.advance
  refine TurnSide.trans (turnSide_foldl (f := fun s' e => s'.tick e.1 (n - s.cycle) (if q = some e.1 then 1 else 0))
    (fun s e => turnSide_tick ..) s.cores s) ?_
  exact turnSide_clock _ _ _ _ _

theorem advance_clock (s : State) (n : Nat) (q : Option Nat) : (s.advance n q).cycle = max s.cycle n ∧
    ∀ e, ((s.advance n q).core e).chans = (s.core e).chans := by
  have h := steady_foldl (f := fun s' e => s'.tick e.1 (n - s.cycle) (if q = some e.1 then 1 else 0))
    (fun s e => steady_tick ..) s.cores s
  exact ⟨congrArg (fun x => max x n) h.cycle, h.chans⟩

theorem chans_placeAbort {s b : State} {c p : Nat} (hx : (b.strand c p).abortWord = (s.strand c p).abortWord)
    (hv : b.vdOf c p = s.vdOf c p) (hc : ∀ e, (b.core e).chans = (s.core e).chans) (e : Nat) :
    ((b.placeAbort c p).core e).chans = ((s.placeAbort c p).core e).chans := by
  unfold State.placeAbort
  rw [hx]
  cases (s.strand c p).abortWord with
  | none => exact hc e
  | some w =>
    dsimp only
    rw [hv]
    unfold State.chPlace
    cases neighbour c w.1 with
    | none =>
      dsimp only
      rw [chans_setStrand, chans_setStrand, hc]
    | some n =>
      dsimp only
      rw [core_setCore_eq, core_setCore_eq, chans_setStrand, chans_setStrand, hc]
      split
      · rfl
      · rw [chans_setStrand, chans_setStrand, hc]

theorem steady_placeAbort (s : State) (c p : Nat) : (s.placeAbort c p).cycle = s.cycle ∧ (s.placeAbort c p).cur = s.cur := by
  unfold State.placeAbort State.chPlace
  split
  · split <;> exact ⟨rfl, rfl⟩
  · exact ⟨rfl, rfl⟩

/-! The beginning of a turn -/

/-- The cycle in which a party's turn is. -/
def turnCycle (s : State) (q : Party) : Nat := if s.due = some q then s.cycle else s.turn q

/-- What a party owes a channel is placed as its turn begins. -/
def placedOwn (s : State) (c p : Nat) : State := if p < 6 then s.placeAbort c p else s

theorem sameParties_tick (s : State) (d n used : Nat) : SameParties s (s.tick d n used) := by
  unfold State.tick
  dsimp only
  split
  · exact .refl s
  · refine SameParties.trans ?_ (sameParties_foldl (fun s x => ?_) _ _)
    · exact sameParties_setCore s d rfl rfl
    split
    · exact sameParties_bump ..
    · exact sameParties_bump ..
    · exact .refl s

theorem advance_parties (s : State) (n : Nat) (q : Option Nat) : (∀ c p, (s.advance n q).strand c p = s.strand c p) ∧
    ∀ c, (s.advance n q).porter c = s.porter c := by
  have h := sameParties_foldl (f := fun s' e => s'.tick e.1 (n - s.cycle) (if q = some e.1 then 1 else 0))
    (fun s e => sameParties_tick ..) s.cores s
  exact ⟨h.strand, h.porter⟩

theorem line_placeAbort (s : State) (c p : Nat) : ((s.placeAbort c p).strand c p).line = (s.strand c p).line := by
  unfold State.placeAbort
  split
  · unfold State.chPlace
    split
    · rw [strand_setStrand]
    · rw [(sameParties_setCore _ _ ?_ ?_).strand, strand_setStrand]
      · rfl
      · rfl
  · rfl

/-- Time has passed to a party's cycle. -/
def begun (s : State) (c p : Nat) : State :=
  { s.advance (turnCycle s ⟨c, p⟩) (some c) with
    cur := ⟨c, p⟩, due := if s.due = some ⟨c, p⟩ then none else s.due, since := turnCycle s ⟨c, p⟩ }

/-- A strand's waits are over, and its next turn is in a later cycle. -/
def begunStrand (s : State) (c p : Nat) : State :=
  ({ begun s c p with since := ((begun s c p).strand c p).again.getD (turnCycle s ⟨c, p⟩) } : State).setStrand c p
    { (begun s c p).strand c p with notBefore := turnCycle s ⟨c, p⟩ + 1, again := none, holdSrc := [], holdDst := [] }

def begunPorter (s : State) (c : Nat) : State :=
  (begun s c 6).setPorter c { (begun s c 6).porter c with notBefore := turnCycle s ⟨c, 6⟩ + 1 }

theorem begin_strand (s : State) (c p : Nat) (hp : p < 6) : s.begin ⟨c, p⟩ =
    if lineHolds ((begun s c p).strand c p).line ((begun s c p).strand c p).regs.pc then
      (begunStrand s c p).placeAbort c p
    else ((begunStrand s c p).placeAbort c p).enterLine c p := if_pos hp

theorem begin_porter (s : State) (c : Nat) : s.begin ⟨c, 6⟩ =
    if lineHolds ((begun s c 6).porter c).line (begunPorter s c).pc then begunPorter s c
    else (begunPorter s c).enterLine c 6 := rfl

theorem begun_spec (s : State) (c p : Nat) : TurnSide c p s (begun s c p) ∧ (begun s c p).cur = ⟨c, p⟩ ∧
    (begun s c p).cycle = max s.cycle (turnCycle s ⟨c, p⟩) ∧ (∀ e, ((begun s c p).core e).chans = (s.core e).chans) ∧
    (begun s c p).strand c p = s.strand c p ∧ (begun s c p).porter c = s.porter c := by
  obtain ⟨hcy, hch⟩ := advance_clock s (turnCycle s ⟨c, p⟩) (some c)
  obtain ⟨hst, hpo⟩ := advance_parties s (turnCycle s ⟨c, p⟩) (some c)
  exact ⟨(turnSide_advance s _ _).trans (turnSide_clock ..), rfl, hcy, hch, hst c p, hpo c⟩

theorem begin_spec (s : State) {c p : Nat} (hp : p ≤ 6) : ∃ b, TurnSide c p s b ∧ b.cur = ⟨c, p⟩ ∧
    b.cycle = max s.cycle (turnCycle s ⟨c, p⟩) ∧ (∀ e, (b.core e).chans = ((placedOwn s c p).core e).chans) ∧
    b.lineOf c p = s.lineOf c p ∧
    s.begin ⟨c, p⟩ = if lineHolds (s.lineOf c p) (s.regsOf c p).pc then b else b.enterLine c p := by
  obtain ⟨h2, hcur2, hcy2, hch2, hst2, hpo2⟩ := begun_spec s c p
  by_cases hlt : p < 6
  · have hp6 : p ≠ 6 := by omega
    have h24 : TurnSide c p (begun s c p) (begunStrand s c p) :=
      (turnSide_clock (c := c) (p := p) _ _ _ _ _).trans (turnSide_setStrand rfl)
    have hx4 : (begunStrand s c p).strand c p = { s.strand c p with
        notBefore := turnCycle s ⟨c, p⟩ + 1, again := none, holdSrc := [], holdDst := [] } := by
      rw [begunStrand, strand_setStrand, hst2]
    have hch4 (e : Nat) : ((begunStrand s c p).core e).chans = (s.core e).chans := by
      rw [begunStrand, chans_setStrand]
      exact hch2 e
    obtain ⟨hcy5, hcur5⟩ := steady_placeAbort (begunStrand s c p) c p
    refine ⟨(begunStrand s c p).placeAbort c p, (h2.trans h24).trans (turnSide_placeAbort _), hcur5.trans hcur2,
      hcy5.trans hcy2, fun e => ?_, ?_, ?_⟩
    · rw [placedOwn, if_pos hlt]
      exact chans_placeAbort (by rw [hx4]) (h2.trans h24).vdOf hch4 e
    · rw [State.lineOf, State.lineOf, if_neg hp6, if_neg hp6, line_placeAbort, hx4]
    · rw [begin_strand s c p hlt, hst2, State.lineOf, if_neg hp6, regsOf_strand _ _ _ hp6]
  · obtain rfl : p = 6 := by omega
    have h23 : TurnSide c 6 (begun s c 6) (begunPorter s c) := turnSide_setPorter rfl
    refine ⟨begunPorter s c, h2.trans h23, hcur2, hcy2, fun e => ?_, ?_, ?_⟩
    · rw [placedOwn, if_neg hlt, begunPorter, chans_setPorter, hch2]
    · rw [State.lineOf, State.lineOf, if_pos rfl, if_pos rfl, begunPorter, porter_setPorter, hpo2]
    · have hcur3 : (begunPorter s c).cur = ⟨c, 6⟩ := hcur2
      have hpc : (begunPorter s c).pc = (s.regsOf c 6).pc := by
        rw [State.pc, State.regs, hcur3, (h2.trans h23).regsOf]
      rw [begin_porter, hpo2, hpc, State.lineOf, if_pos rfl]

/-! The word that a party fetches -/

theorem leNat_digits (x n : Nat) : leNat ((List.range n).map fun j => BitVec.ofNat 8 (x / 2 ^ (8 * j))) = x % 2 ^ (8 * n) := by
  induction n generalizing x with
  | zero => simp [leNat, Nat.mod_one]
  | succ n ih =>
    rw [List.range_succ_eq_map, List.map_cons, List.map_map, leNat, List.foldr_cons, ← leNat]
    have hstep : ((fun j => BitVec.ofNat 8 (x / 2 ^ (8 * j))) ∘ Nat.succ) =
        fun j => BitVec.ofNat 8 (x / 256 / 2 ^ (8 * j)) := by
      funext j
      rw [Function.comp, Nat.div_div_eq_div_mul, Nat.succ_eq_add_one, Nat.mul_succ, Nat.pow_add, Nat.mul_comm (2 ^ (8 * j))]
    rw [hstep, ih, BitVec.toNat_ofNat, Nat.mul_zero, Nat.pow_zero, Nat.div_one, Nat.mul_succ, Nat.pow_add,
      Nat.mul_comm (2 ^ (8 * n)), Nat.mod_mul]

/-- Twelve bytes of a word, in order, are the word. -/
theorem leNat_word (w : BitVec 96) {l : List Byte} (hl : l.length = 12) (h : ∀ j, (hj : j < 12) → l[j] = w.extractLsb' (8 * j) 8) :
    BitVec.ofNat 96 (leNat l) = w := by
  have he : l = (List.range 12).map fun j => BitVec.ofNat 8 (w.toNat / 2 ^ (8 * j)) := by
    refine List.ext_getElem (by simpa using hl) fun j h1 h2 => ?_
    rw [h j (by omega), List.getElem_map, List.getElem_range]
    apply BitVec.eq_of_toNat_eq
    rw [BitVec.extractLsb'_toNat, Nat.shiftRight_eq_div_pow, BitVec.toNat_ofNat]
  rw [he, leNat_digits, Nat.mod_eq_of_lt w.isLt, BitVec.ofNat_toNat, BitVec.setWidth_eq]

/-- The word at a PC of a line that is read now. -/
theorem readLine_word (k : Core) (x : Ctx) (pc : Pc) : (readLine k x pc).words[(pc.extractLsb' 0 23).toNat % 8]? =
    some (wordAt k x (pc.getLsbD 23) (pc.extractLsb' 0 23).toNat) := by
  unfold readLine
  dsimp only
  rw [List.getElem?_map, List.getElem?_range (Nat.mod_lt _ (by decide)), Option.map_some, Nat.div_add_mod]

/-- What memory holds at a PC, by the text of the statement, is what a line reads there. -/
theorem wordAt_eq {k : Core} {x : Ctx} {code : Bool} {n : Nat} {w : BitVec 96} {bad : Bool}
    (h : if code then x.img.code[n]? = some w ∧ bad = false
      else (∀ j < 12, w.extractLsb' (8 * j) 8 = (lsByte k (12 * n + j)).v) ∧
        (bad = true ↔ ∃ j < 12, (lsByte k (12 * n + j)).p = true)) : wordAt k x code n = (w, bad) := by
  unfold wordAt
  cases code with
  | true =>
    obtain ⟨hw, hb⟩ := h
    rw [if_pos rfl, hb, List.getD_eq_getElem?_getD, hw, Option.getD_some]
  | false =>
    obtain ⟨hw, hb⟩ := h
    rw [if_neg Bool.false_ne_true]
    refine Prod.ext (leNat_word w (by simp [lsBytes]) fun j hj => ?_) ?_
    · simp only [lsBytes, List.map_map, List.getElem_map, List.getElem_range, Function.comp]
      exact (hw j hj).symm
    · dsimp only
      rw [Bool.eq_iff_iff, hb, List.any_eq_true]
      simp only [lsBytes, List.mem_map, List.mem_range]
      exact ⟨fun ⟨b, ⟨j, hj, hjb⟩, hp⟩ => ⟨j, hj, hjb ▸ hp⟩, fun ⟨j, hj, hp⟩ => ⟨_, ⟨j, hj, rfl⟩, hp⟩⟩

/-- A strand's instruction issues: what it issued last is known. -/
theorem issued_spec (s : State) (c p : Nat) (hp : p ≤ 6) (first : Bool) :
    TurnSide c p s (s.issued ⟨c, p⟩ first) ∧ Steady s (s.issued ⟨c, p⟩ first) ∧
    (s.issued ⟨c, p⟩ first).lineOf c p = s.lineOf c p := by
  unfold State.issued
  dsimp only
  split
  · next hlt =>
    have hp6 : p ≠ 6 := by omega
    have h1 : TurnSide c p s (s.setStrand c p { s.strand c p with last := s.pc, breakDone := false }) := turnSide_setStrand rfl
    have h2 : Steady s (s.setStrand c p { s.strand c p with last := s.pc, breakDone := false }) := steady_setCore rfl
    have h3 : (s.setStrand c p { s.strand c p with last := s.pc, breakDone := false }).lineOf c p = s.lineOf c p := by
      rw [State.lineOf, State.lineOf, if_neg hp6, if_neg hp6, strand_setStrand]
    split
    · refine ⟨h1.trans (turnSide_bump ..), h2.trans (steady_bump ..), ?_⟩
      rw [← h3, State.lineOf, State.lineOf, if_neg hp6, if_neg hp6, (sameParties_bump ..).strand]
    · exact ⟨h1, h2, h3⟩
  · exact ⟨.refl, .refl s, rfl⟩

/-- What a party finds at its PC when its turn has begun and its instruction issues. -/
structure TurnState (s : State) (c p : Nat) (t : State) : Prop where
  side : TurnSide c p s t
  cur : t.cur = ⟨c, p⟩
  cycle : t.cycle = max s.cycle (turnCycle s ⟨c, p⟩)
  chans : ∀ e, (t.core e).chans = ((placedOwn s c p).core e).chans
  line : t.lineOf c p = if lineHolds (s.lineOf c p) (s.regsOf c p).pc then s.lineOf c p
    else some (readLine (s.core c) (s.ctx (clusterOf c) (s.tagOf c p)) (s.regsOf c p).pc)

theorem turnState_begin (s : State) {c p : Nat} (hp : p ≤ 6) : TurnState s c p (s.begin ⟨c, p⟩) := by
  obtain ⟨b, hside, hcur, hcy, hch, hline, hb⟩ := begin_spec s (c := c) hp
  split at hb
  · next hl =>
    rw [hb]
    exact ⟨hside, hcur, hcy, hch, by rw [hline, if_pos hl]⟩
  · next hl =>
    rw [hb]
    have hst := steady_enterLine b c p
    refine ⟨hside.trans (turnSide_enterLine b), hst.cur.trans hcur, hst.cycle.trans hcy,
      fun e => (hst.chans e).trans (hch e), ?_⟩
    rw [lineOf_enterLine, if_neg hl, hside.regsOf, hside.tagOf, hside.ctx, readLine_congr (hside.ls c).1 (hside.ls c).2]

theorem TurnState.issued {s t : State} {c p : Nat} (h : TurnState s c p t) (hp : p ≤ 6) (first : Bool) :
    TurnState s c p (t.issued ⟨c, p⟩ first) := by
  obtain ⟨hside, hst, hline⟩ := issued_spec t c p hp first
  exact ⟨h.side.trans hside, hst.cur.trans h.cur, hst.cycle.trans h.cycle, fun e => (hst.chans e).trans (h.chans e),
    hline.trans h.line⟩

/-! The turn -/

theorem ownCycle_spec (t p : Nat) (hp : p < 8) : t ≤ ownCycle t p ∧ ownCycle t p % 8 = p := by
  unfold ownCycle
  omega

theorem turn_spec (s : State) {c p : Nat} (hp : p ≤ 6) : s.cycle ≤ s.turn ⟨c, p⟩ ∧ s.turn ⟨c, p⟩ % 8 = p := by
  unfold State.turn
  dsimp only
  split
  · next hlt =>
    obtain ⟨h1, h2⟩ := ownCycle_spec (max s.cycle (s.strand c p).notBefore) p (by omega)
    exact ⟨le_trans (le_max_left _ _) h1, h2⟩
  · next hlt =>
    obtain rfl : p = 6 := by omega
    obtain ⟨h1, h2⟩ := ownCycle_spec (max s.cycle (s.core c).porter.notBefore) 6 (by omega)
    rw [if_pos rfl]
    exact ⟨le_trans (le_max_left _ _) h1, h2⟩

/-- A turn that no event, upset or earlier claim of its party forestalls is what the step does. -/
theorem step_turn {s : State} {c p : Nat} (hh : s.porch.halted = false) (ha : s.agenda = []) (hu : s.upsets = [])
    (hdue : s.due = some ⟨c, p⟩ ∨ (s.due = none ∧ s.nextEvent = none ∧ s.pick = some ⟨c, p⟩))
    (hi : s.canIssue ⟨c, p⟩ = true) : step s = calm (runTurn s ⟨c, p⟩) := by
  unfold step eventOrTurn
  rw [hh, ha, hu]
  rcases hdue with hd | ⟨hd, hn, hpk⟩
  · simp only [hd, hi, Bool.false_eq_true, if_false, if_true]
  · simp only [hd, hn, hpk, Bool.false_eq_true, if_false]

/-- The turn of a strand or porter without an operation or a trap to take first: its word runs, or traps. -/
theorem runTurn_fetch {s : State} {c p : Nat} (hp : p ≤ 6) (hop : s.opOf c p = none)
    (hfirst : p < 6 → (s.strand c p).again.isSome = true ∨
      ((s.strand c p).migrated = false ∧ ((s.strand c p).breakDone = true ∨ s.brkHit c p = false))) :
    ∃ t, TurnState s c p t ∧ runTurn s ⟨c, p⟩ = spentIn ⟨c, p⟩ (s.due = some ⟨c, p⟩)
      (match t.fetch c p with | .ok i => exec i t | .error e => .next (t.fetchTrap e)) := by
  obtain ⟨first, hf⟩ : ∃ b : Bool, b = (decide (p < 6) && (s.strand c p).again.isNone) := ⟨_, rfl⟩
  have hb := turnState_begin s (c := c) hp
  refine ⟨(s.begin ⟨c, p⟩).issued ⟨c, p⟩ first, hb.issued hp first, ?_⟩
  have hmig : (first && (s.strand c p).migrated) = false := by
    rw [hf]
    by_cases hlt : p < 6
    · rcases hfirst hlt with h | ⟨h, -⟩
      · obtain ⟨x, hx⟩ := Option.isSome_iff_exists.mp h
        simp [hx]
      · simp [h]
    · simp [hlt]
  have hbrk : (first && !(s.strand c p).breakDone && s.brkHit c p) = false := by
    rw [hf]
    by_cases hlt : p < 6
    · rcases hfirst hlt with h | ⟨-, h | h⟩
      · obtain ⟨x, hx⟩ := Option.isSome_iff_exists.mp h
        simp [hx]
      · simp [h]
      · simp [h]
    · simp [hlt]
  have h7 : p ≠ 7 := by omega
  have h8 : p ≠ 8 := by omega
  have hturn : s.turnOf ⟨c, p⟩ = match ((s.begin ⟨c, p⟩).issued ⟨c, p⟩ first).fetch c p with
      | .error e => .done (((s.begin ⟨c, p⟩).issued ⟨c, p⟩ first).fetchTrap e)
      | .ok i => .run ((s.begin ⟨c, p⟩).issued ⟨c, p⟩ first) i := by
    unfold State.turnOf
    dsimp only
    rw [hb.side.opOf, hop, hb.side.brkHit, ← hf, hmig, hbrk]
    rfl
  unfold runTurn
  simp only [if_neg h7, if_neg h8]
  rw [hturn]
  cases ((s.begin ⟨c, p⟩).issued ⟨c, p⟩ first).fetch c p with
  | ok i => rfl
  | error e => rfl

section
variable {s t : State} {c p : Nat}

/-- An index that is not legal in its space. -/
theorem fetch_illegal (h : TurnState s c p t) (hl : legalPc (s.ctx (clusterOf c) (s.tagOf c p)) (s.regsOf c p).pc = false) :
    t.fetch c p = .error tIllegal := by
  unfold State.fetch
  dsimp only
  rw [h.side.tagOf, h.side.ctx, h.side.regsOf, hl]
  rfl

/-- The word at the PC in its line, or where the line is entered the one that memory holds. -/
theorem fetch_word (h : TurnState s c p t) (hl : legalPc (s.ctx (clusterOf c) (s.tagOf c p)) (s.regsOf c p).pc = true)
    {w : BitVec 96} {bad : Bool} (hw : ∃ l, t.lineOf c p = some l ∧
      l.words[((s.regsOf c p).pc.extractLsb' 0 23).toNat % 8]? = some (w, bad)) :
    t.fetch c p = if bad then .error (tPoison 3) else match decode w with
      | .ok i => .ok i
      | .error _ => .error tIllegal := by
  obtain ⟨l, hline, hword⟩ := hw
  have hmod : (s.regsOf c p).pc.toNat % 8 = ((s.regsOf c p).pc.extractLsb' 0 23).toNat % 8 := by
    rw [BitVec.extractLsb'_toNat, Nat.shiftRight_zero]
    omega
  unfold State.fetch
  dsimp only
  rw [h.side.tagOf, h.side.ctx, h.side.regsOf, hl, hline]
  dsimp only
  rw [hmod, List.getD_eq_getElem?_getD, hword, Option.getD_some]
  rfl

theorem lineHolds_iff (l : Option Line) (pc : Pc) : lineHolds l pc = true ↔
    ∃ x, l = some x ∧ x.code = pc.getLsbD 23 ∧ x.num = (pc.extractLsb' 0 23).toNat / 8 := by
  cases l with
  | none => simp [lineHolds]
  | some x => simp [lineHolds]

theorem TurnState.word (h : TurnState s c p t) {w : BitVec 96} {bad : Bool}
    (h1 : ∀ l, s.lineOf c p = some l → l.code = (s.regsOf c p).pc.getLsbD 23 ∧
      l.num = ((s.regsOf c p).pc.extractLsb' 0 23).toNat / 8 →
      l.words[((s.regsOf c p).pc.extractLsb' 0 23).toNat % 8]? = some (w, bad))
    (h2 : (∀ l, s.lineOf c p = some l → ¬ (l.code = (s.regsOf c p).pc.getLsbD 23 ∧
      l.num = ((s.regsOf c p).pc.extractLsb' 0 23).toNat / 8)) →
      if (s.regsOf c p).pc.getLsbD 23 then
        (s.ctx (clusterOf c) (s.tagOf c p)).img.code[((s.regsOf c p).pc.extractLsb' 0 23).toNat]? = some w ∧ bad = false
      else (∀ j < 12, w.extractLsb' (8 * j) 8 =
          (lsByte (s.core c) (12 * ((s.regsOf c p).pc.extractLsb' 0 23).toNat + j)).v) ∧
        (bad = true ↔ ∃ j < 12, (lsByte (s.core c) (12 * ((s.regsOf c p).pc.extractLsb' 0 23).toNat + j)).p = true)) :
    ∃ l, t.lineOf c p = some l ∧ l.words[((s.regsOf c p).pc.extractLsb' 0 23).toNat % 8]? = some (w, bad) := by
  rw [h.line]
  split
  · next hl =>
    obtain ⟨l, hs, hc⟩ := (lineHolds_iff _ _).mp hl
    exact ⟨l, hs, h1 l hs hc⟩
  · next hl =>
    refine ⟨_, rfl, ?_⟩
    rw [readLine_word, wordAt_eq (h2 fun l hs hc => hl ((lineHolds_iff _ _).mpr ⟨l, hs, hc⟩))]

/-- The trap of a word that is no instruction names that, whatever record is pending. -/
theorem fetchTrap_illegal (t : State) : t.fetchTrap tIllegal = t.takeTrap tIllegal := rfl

theorem fetchTrap_poison (t : State) : t.fetchTrap (tPoison 3) = t.takeTrap (match t.guardPending with
    | some r => tGuard r
    | none => tPoison 3) := by
  unfold State.fetchTrap
  rw [if_pos (show (tPoison 3).cause = 0x09 from rfl)]
  cases t.guardPending <;> rfl

theorem legalPc_iff (x : Ctx) (pc : Pc) : legalPc x pc = true ↔
    if pc.getLsbD 23 then (pc.extractLsb' 0 23).toNat < x.img.code.length else (pc.extractLsb' 0 23).toNat ≤ 2047 := by
  unfold legalPc
  cases pc.getLsbD 23 <;> simp

end

/-- Settles O4: the state in which a turn's instruction issues by `TurnState`, and its word by `fetch_word`. -/
theorem stepRunsTheDecodedInstruction : Obligations.StepRunsTheDecodedInstruction := by
  intro s c p hh ha hu hp hdue hi hop hfirst pc n code inLine legal owed ends kept
  obtain ⟨t, ht, hrun⟩ := runTurn_fetch hp hop hfirst
  have hstep (o : Host.Outcome State Fault Refusal)
      (ho : (match t.fetch c p with | .ok i => exec i t | .error e => .next (t.fetchTrap e)) = o) : ends o := by
    show step s = _
    rw [step_turn hh ha hu hdue hi, hrun, ho]
  have hkept : kept t := by
    obtain ⟨hle, hown⟩ := turn_spec s (c := c) hp
    refine ⟨ht.cur, ?_, fun hd => ?_, fun hd => ?_, ht.side.regsOf, (congrArg State.mem ht.side.rest :), ht.side.strands,
      fun _ => ht.side.strand, fun e => ⟨ht.chans e, ht.side.ls e⟩⟩
    · rw [ht.cycle]
      exact le_max_left _ _
    · have hd' : s.due = some ⟨c, p⟩ := hdue.resolve_right fun k => hd k.1
      rw [ht.cycle, turnCycle, if_pos hd', max_self]
    · have hd' : s.due ≠ some ⟨c, p⟩ := by rw [hd]; exact fun k => nomatch k
      rw [ht.cycle, turnCycle, if_neg hd', max_eq_right hle]
      exact hown
  refine ⟨fun hill => ⟨t, hstep _ ?_, hkept⟩, fun hleg w bad h1 h2 => ?_⟩
  · rw [fetch_illegal ht (Bool.eq_false_of_not_eq_true (mt (legalPc_iff _ _).mp hill))]
    rfl
  · have hf := fetch_word ht ((legalPc_iff _ _).mpr hleg) (ht.word h1 h2)
    refine ⟨fun i hb hd => ⟨t, hstep _ ?_, hkept⟩, fun e hb hd => ⟨t, hstep _ ?_, hkept⟩, fun hb => ⟨t, hkept, hstep _ ?_⟩⟩
    · rw [hf, hb, hd]
      rfl
    · rw [hf, hb, hd]
      rfl
    · rw [hf, hb]
      exact congrArg Host.Outcome.next (fetchTrap_poison t)

end Sys2Proof.Safety
end

section
/-! SUPPORT. SSTART and a strand at position 6 of a core, where `State.wake` wakes the porter (O42). -/

namespace Sys2Proof.Safety

open Sys2Proof.Machine

/-- A strand at position 6 of core 0 that SSTOP stopped while it ran, under a keeper entry of the porter of the core. -/
def stoppedAtSix : State :=
  { State.reset with
    cur := ⟨0, 6⟩
    dies := [(0, { Die.init with stops := [0] })]
    cores := [(0, { Core.init with
      strands := [(6, { Strand.init with st := .stopped, stopBy := .sstop, left := .run })]
      porter := { Porter.init with cur := some ⟨.trap 0, false, 0, 0⟩, st := .run } })] }

theorem once_stoppedAtSix : Once stoppedAtSix 0 6 := by
  constructor
  · intro e he _
    obtain rfl := List.mem_singleton.mp he
    rfl
  · intro y hy _
    obtain rfl := List.mem_singleton.mp (show y ∈ [(6, _)] from hy)
    rfl

/-- SSTART of GTI 0 reaches the list of stops in `s`, and leaves the strand at position 6 STOPPED. -/
structure StartLeavesSix (s : State) : Prop where
  clear : Clear s ⟨0, false⟩ (formGti (.s 1) (.s 0))
  stays : (match exec (.sstart ⟨0, false⟩ (.s 1) (.s 0)) s with
    | .next t => (t.strand 0 6).st
    | _ => .run) = .stopped

theorem stoppedAtSix_sstart : StartLeavesSix stoppedAtSix where
  clear := {
    issuer := by decide +kernel
    level := by decide +kernel
    guard := by decide +kernel
    record := by decide +kernel
    region := by decide +kernel
    claim := by decide +kernel
    ready := by decide +kernel }
  stays := by decide +kernel

/-- Refutes O42: the statement has a strand that SSTOP stopped while it ran go on at every position where a strand
stands. At position 6, which is the porter's, SSTART wakes the porter, and the strand stays STOPPED. -/
theorem not_stopStartAndCounters : ¬ Obligations.StopStartAndCounters := by
  rintro ⟨h, -⟩
  obtain ⟨-, hclean⟩ := h stoppedAtSix ⟨0, false⟩ (.s 1) (.s 0) stoppedAtSix_sstart.clear
  obtain ⟨-, -, -, hstart⟩ := hclean (by decide +kernel) (by decide +kernel)
  obtain ⟨t, n, he, -, -, hgo⟩ := hstart ⟨0, by decide, by decide +kernel⟩
  obtain ⟨-, -, -, hgoes, -⟩ := hgo 0 6 once_stoppedAtSix (by decide +kernel) (by decide +kernel) (by decide +kernel)
  have hst := hgoes (by decide +kernel) (by decide +kernel) (by decide +kernel)
  rw [if_neg (by decide +kernel)] at hst
  have hrun := stoppedAtSix_sstart.stays
  rw [he] at hrun
  exact absurd (hst.symm.trans hrun) (by decide)

end Sys2Proof.Safety
end

section
/-! SUPPORT. A request of a controller's queue for no device (O44). -/

namespace Sys2Proof.Safety

open Sys2Proof.Machine

/-- A request of one burst for virtual device 64, which stands for none, at a bucket of that number that holds it. -/
def unchargedRequest : HbmReq := ⟨64, 0, .phys, 0, 0, 1, none, false, false⟩

def unchargedQueue : State :=
  { State.reset with dies := [(0, { Die.init with hbm := [unchargedRequest], weight := [(64, 0x10000)] })] }

/-- A controller serves a request that its bucket pays for, and leaves the level of the bucket at 1. -/
structure ServedUncharged (s : State) (r : HbmReq) : Prop where
  waits : r ∈ (s.die 0).hbm
  paid : r.bursts ≤ ((mapGet 0 (s.die 0).weight r.vd).extractLsb' 16 16).toNat
  served : (match exec (.hbmServiceSlot 0) s with
    | .next t => ((mapGet 0 (t.die 0).weight 64).extractLsb' 16 16).toNat
    | _ => 0) = 1

theorem unchargedQueue_served : ServedUncharged unchargedQueue unchargedRequest where
  waits := by decide +kernel
  paid := by decide +kernel
  served := by decide +kernel

/-- Refutes O44: serving a request that its bucket pays for lowers the level by its bursts only for the devices 0 to 63.
A request for no device (64) leaves a bucket of that number as it was, which the statement has lowered. -/
theorem not_hbmEvents : ¬ Obligations.HbmEvents := by
  intro h
  obtain ⟨hslot, -⟩ := h unchargedQueue 0
  obtain ⟨t, k, r, he, ⟨hk, -, -, -, hpaid, -⟩, -⟩ := hslot ⟨unchargedRequest, unchargedQueue_served.waits, rfl⟩
  have hr : r = unchargedRequest := List.mem_singleton.mp (List.mem_of_getElem? hk)
  subst hr
  have hlevel := hpaid rfl unchargedQueue_served.paid
  have hrun := unchargedQueue_served.served
  rw [he] at hrun
  exact absurd (Eq.trans (Eq.symm hrun) hlevel) (by decide +kernel)

end Sys2Proof.Safety
end

section
/-! SUPPORT. An access refused for want of a frame at a slice of another die than 0 (O45). -/

namespace Sys2Proof.Safety

open Sys2Proof.Machine

/-- A store of the strand at position 0 of core 0 that waits for one reply. -/
def waitingStore : Op := ⟨0, .store, 0, 8, [], [], [], 1, false, 0, none, [], 0, false, 0, 0, false⟩

/-- The request that was made for it. -/
def waitingRequest : HReq :=
  ⟨.write, 0, 0, 0, .phys, 0, 8, [], ⟨0, 0, false, false, 0, false, .strong, false, true, true, 0⟩, 0, 0, none, false⟩

/-- Its reply: slice 0 of die 1, which is slice 96 of the device, found no frame. -/
def noFrameReply : Flit :=
  ⟨0, 1, 512, 0, 0, 0, 0, 0, vcRSP, 0, 0, 0, 0, .held, 0, 0, .rsp waitingRequest .loftOverflow 96 []⟩

def noFrameState : State :=
  { standing { Strand.init with st := .waitMem, wait := .reply, op := some waitingStore } with net := [noFrameReply] }

/-- A reply that ends the access of a strand, whose trap then names slice 256. -/
structure NamesSlice256 (s : State) (f : Flit) (o : Op) : Prop where
  flit : s.flit? 0 = some f
  op : s.opOf 0 0 = some o
  recent : ¬ f.inc ≠ (s.cluster (512 * f.ddie + f.dstop)).inc
  fault : (match exec (.memoryReply 0) s with
    | .next t => (t.strand 0 0).fault.fd3
    | _ => 0) = 256

theorem noFrameState_fault : NamesSlice256 noFrameState noFrameReply waitingStore where
  flit := by decide +kernel
  op := by decide +kernel
  recent := by decide +kernel
  fault := by decide +kernel

/-- Refutes O45: the trap of an access refused for want of a frame names the slice within its die and the die, as
`tOver` has it, while the statement has the number of the slice over the device. For slice 96, which is slice 0 of
die 1, the one is 256 and the other 96. -/
theorem not_accessCompletion : ¬ Obligations.AccessCompletion := by
  intro h
  obtain ⟨-, -, -, htraps⟩ := h noFrameState 0 noFrameReply 0 0 waitingStore noFrameState_fault.flit rfl
  have hover := htraps noFrameState_fault.op rfl (by decide) noFrameState_fault.recent (by decide) waitingRequest
    96 [] rfl rfl rfl (by decide)
  obtain ⟨b, t, he, htrap, -⟩ := hover.2 rfl
  have hrun := noFrameState_fault.fault
  rw [he] at hrun
  exact absurd (hrun.symm.trans htrap.fd3) (by decide)

end Sys2Proof.Safety
end

section
/-! SUPPORT. The recall of a word that no strand holds as its RELL word any more (O48). -/

namespace Sys2Proof.Safety

open Sys2Proof.Machine

/-- The word at physical address 0, owned by the strand at position 0 of core 0. -/
def strayOwner : Owner := ⟨.phys, 0, 0, 0⟩

/-- A request of cluster 1 for the word, at its home. -/
def foreignRequest : Flit :=
  ⟨0, 0, 1, 0, 512, 0, 0, 0, vcREQ, 0, 0, 1, 0, .held, 0, 0, .req { waitingRequest with core := 16 }⟩

/-- The home lists the owner, whose strand holds no RELL word. -/
def strayOwnerState : State :=
  { State.reset with net := [foreignRequest], slices := [(0, { Slice.init with owners := [strayOwner] })] }

/-- An owner that waits for its recall, which leaves it listed. -/
structure StaysListed (s : State) (f : Flit) (o : Owner) : Prop where
  listed : (s.slice 0).owners[0]? = some o
  ready : ready s f = true
  other : f.cluster ≠ clusterOf o.core
  owes : ∀ e ∈ (s.cluster (clusterOf o.core)).cache, owedSelects o.core o.pos e = true → s.owesBlocked e = false
  whole : (s.recall o).short = none
  stays : ((s.recall o).slice 0).owners = [o]

theorem strayOwnerState_recall : StaysListed strayOwnerState foreignRequest strayOwner where
  listed := by decide +kernel
  ready := by decide +kernel
  other := by decide +kernel
  owes := by decide +kernel
  whole := by decide +kernel
  stays := by decide +kernel

/-- Refutes O48: the recall of an owner ends the ownership of its strand by `State.unown`, which does nothing for a strand
that holds no RELL word. In `strayOwnerState` the home lists such a strand, and the statement has it listed no more. -/
theorem not_homeEvents : ¬ Obligations.HomeEvents := by
  intro h
  obtain ⟨-, hrecall, -⟩ := h strayOwnerState
  obtain ⟨t, -, ht, hgone⟩ := hrecall 0 0 strayOwner strayOwnerState_recall.listed
    ⟨foreignRequest, List.mem_singleton.mpr rfl, by decide, by decide, by decide, strayOwnerState_recall.ready, strayOwnerState_recall.other,
      _, rfl, by decide, by decide⟩ strayOwnerState_recall.owes strayOwnerState_recall.whole
  rw [ht] at hgone
  refine hgone 0 strayOwner ?_ ⟨rfl, rfl⟩
  rw [strayOwnerState_recall.stays]
  exact List.mem_singleton.mpr rfl

end Sys2Proof.Safety
end

section
/-! SUPPORT. A machine check over a strand that runs with an access under way (O49). -/

namespace Sys2Proof.Safety

open Sys2Proof.Machine

/-- Core 0 with a trap of landlord code, over a strand in RUN with an access under way. -/
def checkedOverAccess : State :=
  { State.reset with cores := [(0, { Core.init with
      strands := [(0, { Strand.init with st := .run, op := some waitingStore })]
      porter := { Porter.init with cur := some ⟨.landlord tIllegal, true, 0, 0⟩, queue := [.landlord tIllegal] } })] }

/-- Strand 0 of core 0 runs, and runs on after a machine check. -/
structure RunsOn (s : State) : Prop where
  before : (s.strand 0 0).st = .run ∨ (s.strand 0 0).st = .trapped
  after : (match exec (.machineCheck 0) s with
    | .next t => (t.strand 0 0).st
    | _ => .stopped) = .run

theorem checkedOverAccess_st : RunsOn checkedOverAccess where
  before := by decide +kernel
  after := by decide +kernel

/-- Refutes O49: a machine check stops a strand whose access is under way only when that is done (`State.stopStrand`), while
the statement has every strand in RUN stand STOPPED. -/
theorem not_porterEntries : ¬ Obligations.PorterEntries := by
  intro h
  obtain ⟨-, hlandlord⟩ := h checkedOverAccess 0
  obtain ⟨-, hcheck⟩ := hlandlord tIllegal [] ⟨.landlord tIllegal, true, 0, 0⟩ rfl rfl
  obtain ⟨t, he, -, -, -, hstopped, -⟩ := hcheck rfl
  have hst := hstopped 0 (by decide) checkedOverAccess_st.before
  have hrun := checkedOverAccess_st.after
  rw [he] at hrun
  exact absurd (hrun.symm.trans hst) (by decide)

end Sys2Proof.Safety
end

section
/-! SUPPORT. The replay of a logged store on a core that counts the probes of its cache (O50). -/

namespace Sys2Proof.Safety

open Sys2Proof.Machine

/-- A writable release page at physical address 0. -/
def releasePage : Leaf := ⟨0, 0, false, false, 0, false, .release, false, true, true, 0⟩

/-- A store of a doubleword in the side log of cluster 0, due for replay. -/
def loggedStore : LogEntry := ⟨0, 0, 0, 0, false, .store, 0, List.replicate 8 ⟨0, false⟩, 0, none, 0⟩

/-- Its core counts event 5, the probes, and its TLB holds the page. -/
def countedReplay : State :=
  { State.reset with
    cores := [(0, { Core.init with
      counters := [(0, ⟨0, true, false, 5, 0⟩)], tlb := [⟨0, 0, false, 0, releasePage, 0⟩] })]
    clusters := [(0, { Cluster.init with log := [(0, loggedStore)] })] }

/-- A translation that the TLBs hold and that passes its checks changes nothing. -/
theorem translate_of_tlb {s : State} {core cl tag : Nat} {ll : Bool} {a : GAct} {dva : Nat} {l : Leaf}
    (h : s.tlbLook core (s.spaceOf cl tag ll).1 (s.spaceOf cl tag ll).2.1 dva = some l)
    (hc : s.checkLeaf (s.spaceOf cl tag ll).1 a l = 0) : s.translate core cl tag ll a dva = (.ok l, s) := by
  unfold State.translate
  dsimp only
  rw [h]
  dsimp only
  rw [if_pos hc]

theorem countedReplay_translate : countedReplay.translate 0 0 0 false .store 0 = (.ok releasePage, countedReplay) :=
  translate_of_tlb (by decide +kernel) (by decide +kernel)

/-- The store as the statement has it performed. -/
def uncountedReplay : State :=
  (countedReplay.putStore 0 0 releasePage .phys 0 0 (List.replicate 8 ⟨0, false⟩)).freeLog 0 0

theorem countedReplay_count : (match exec (.sidelogReplay 0 0) countedReplay with
    | .next t => (mapGet Counter.zero (t.core 0).counters 0).count
    | _ => 0) = 1 := by decide +kernel

theorem uncountedReplay_count : (mapGet Counter.zero (uncountedReplay.core 0).counters 0).count = 0 := by decide +kernel

/-- Refutes O50: the lookup of a replayed store counts its probes like every other (R91), and the statement has the store
performed without that count. -/
theorem not_replayDeathsAndErrors : ¬ Obligations.ReplayDeathsAndErrors := by
  rintro ⟨hreplay, -, -⟩
  obtain ⟨hlog, -⟩ := hreplay countedReplay
  obtain ⟨-, hstore⟩ := hlog 0 0 loggedStore (by decide +kernel)
  have he : exec (.sidelogReplay 0 0) countedReplay = .next uncountedReplay :=
    hstore releasePage countedReplay countedReplay_translate rfl (by decide) (by decide) (by decide +kernel)
      (by decide +kernel) (by decide +kernel)
  have hrun := countedReplay_count
  rw [he] at hrun
  exact absurd (hrun.symm.trans uncountedReplay_count) (by decide)

end Sys2Proof.Safety
end

section
/-! SUPPORT. A MATMUL step whose C format is no plain FP format (O54). -/

namespace Sys2Proof.Safety

open Sys2Proof.Machine

/-- A write outside the footprints of its card ends the step with FOOTPRINT. -/
theorem engWrite_outside {r : Run} {a : Int} {data : List PByte} (s : State)
    (h : (decide (a < 0) || decide ((2 : Int) ^ 56 < a + data.length) ||
      !cardHolds r.job.card true 5 a.toNat (a.toNat + data.length)) = true) :
    (engWrite r a data).run s = .error (.stop .error 0x8003 0) := by
  unfold engWrite engPages
  rw [if_pos h]
  rfl

/-- With zeroc the accumulators start at zero. -/
theorem engInit_zeroc {r : Run} (h : cardZeroc r.job.card = true) (a : Int) (n code : Nat) :
    engInit r a n code = pure (List.replicate n (some 0)) := by
  unfold engInit
  rw [if_pos h]

/-- A step that reads nothing and whose write fails has failed. -/
theorem run_error_of_write {α β γ : Type} {x : Eng α} {y : Eng β} {z : Eng γ} {u : α} {v : β} {w : γ}
    {f : α → β → γ → Eng Unit} {g : α → β → γ → StepRes} {s : State} {e : EngErr} (hx : x = pure u) (hy : y = pure v)
    (hz : z = pure w) (hf : (f u v w).run s = .error e) :
    ((do
      let a ← x
      let b ← y
      let c ← z
      f a b c
      pure (g a b c)) : Eng StepRes).run s = .error e := by
  rw [hx, hy, hz, pure_bind, pure_bind, pure_bind, StateT.run_bind, hf]
  rfl

/-- A MATMUL step of no blocks into a C of format 0, which is a block format: its one footprint has 512 bytes, room for 256
elements of two bytes. -/
def blockTile : Run := ⟨0, { Job.init with card := [0x200, 0, 0, 0x8000000000000200] }⟩

/-- Elements of a format that is none of the two-byte ones take four bytes each. -/
theorem wideBytes_length {code : Nat} (h : ¬ (code = 0x21 ∨ code = 0x22)) (l : List (Nat × Bool)) :
    (l.flatMap fun x => natBytes (if code = 0x21 ∨ code = 0x22 then 2 else 4) x.1).length = l.length * 4 := by
  simp [h, List.length_flatMap, natBytes, leBytes]

/-- Whether a step has failed with FOOTPRINT. -/
def isFootprint {α : Type} : Except EngErr α → Bool
  | .error (.stop .error 0x8003 0) => true
  | _ => false

theorem blockTile_step : isFootprint ((matmulStep blockTile []).run State.reset) = false := by decide +kernel

/-- Refutes O54: the statement has a MATMUL step write four bytes an element where the C format is none of the two-byte
ones, and the model writes two where it is none of the four-byte ones (`plainSize`). Into a C of format 0 with a
footprint of 512 bytes the model writes 512 bytes, and the program of the statement, with 1,024, fails. -/
theorem not_regionAndJobEvents : ¬ Obligations.RegionAndJobEvents := by
  rintro ⟨-, -, h⟩
  obtain ⟨⟨tile, htile, hstep⟩, -⟩ := h blockTile []
  have hlen := (htile (List.replicate 16 []) (List.replicate 16 []) (List.replicate 256 (some 0)) List.length_replicate List.length_replicate List.length_replicate).1
  have hrun := blockTile_step
  rw [hstep] at hrun
  dsimp only at hrun
  refine absurd (Eq.trans (congrArg isFootprint (run_error_of_write (u := List.replicate 16 [])
    (v := List.replicate 16 []) (w := List.replicate 256 (some 0)) (e := .stop .error 0x8003 0) ?_ ?_ ?_ ?_)).symm
    hrun) (by decide)
  · rfl
  · rfl
  · exact engInit_zeroc (by decide +kernel) ..
  · apply engWrite_outside
    rw [show nestAddr blockTile.job.card [] 2 = 0 from by decide +kernel, wideBytes_length (by decide +kernel), hlen]
    decide +kernel

end Sys2Proof.Safety
end

section
/-! SUPPORT. Bring-up, the life cycle, the side door and power (R408 to R414). -/

namespace Sys2Proof.Safety
open Sys2Proof.Machine

/-! What each event of this family makes of the state -/

/-- Nothing of the dies' own memories is left. -/
def Emptied (t : State) : Prop :=
  t.cores = [] ∧ t.clusters = [] ∧ t.slices = [] ∧ t.dies = [] ∧ t.net = [] ∧
    t.porch.vfs = [] ∧ t.porch.launches = [] ∧ t.porch.held = []

theorem emptied_wiped (s : State) : Emptied s.wiped := ⟨rfl, rfl, rfl, rfl, rfl, rfl, rfl, rfl⟩

/-- What no bring-up changes of the porch die. -/
theorem powerGood_keeps (s : State) (a b : Bool) (fail : Nat) (links : BitVec 16) :
    (s.powerGood a b fail links).porch.lifeCycle = s.porch.lifeCycle ∧
      (s.powerGood a b fail links).porch.rom = s.porch.rom ∧
      (s.powerGood a b fail links).porch.fuses = s.porch.fuses ∧
      (s.powerGood a b fail links).porch.images = s.porch.images := by
  unfold State.powerGood
  extract_lets img f done t u
  have ht : t.porch.lifeCycle = s.porch.lifeCycle ∧ t.porch.rom = s.porch.rom ∧ t.porch.fuses = s.porch.fuses ∧
      t.porch.images = s.porch.images := by
    unfold t
    split <;> exact ⟨rfl, rfl, rfl, rfl⟩
  have hu : u.porch = t.porch := by
    unfold u
    split <;> rfl
  exact ⟨(congrArg Porch.lifeCycle hu).trans ht.1, (congrArg Porch.rom hu).trans ht.2.1,
    (congrArg Porch.fuses hu).trans ht.2.2.1, (congrArg Porch.images hu).trans ht.2.2.2⟩

/-- Bring-up without an image, or with step 1 failing, only halts. -/
theorem powerGood_first (s : State) (a b : Bool) (fail : Nat) (links : BitVec 16)
    (h : s.porch.accepted a b = none ∨ fail = 1) :
    s.powerGood a b fail links =
      { s with porch := { s.porch with step := 0, halted := true, running := none, linksUp := 0 } } := by
  have h1 : (decide (fail = 1) || (s.porch.accepted a b).isNone) = true := by
    rcases h with h | h <;> simp [h]
  unfold State.powerGood
  simp [h1]

/-- Bring-up with an image whose steps succeed goes to the end. -/
theorem powerGood_done (s : State) (a b : Bool) (fail : Nat) (links : BitVec 16) {img : Option Config.Image}
    (hi : s.porch.accepted a b = img) (hn : img ≠ none) (hf : fail = 0 ∨ fail = 6 ∨ 8 ≤ fail) :
    s.powerGood a b fail links =
      { s.wiped.zeroed with porch := { s.wiped.zeroed.porch with
        step := 7, halted := false, running := img, linksUp := links } } := by
  have h1 : (decide (fail = 1) || img.isNone) = false := by
    cases img with
    | none => exact absurd rfl hn
    | some x => simp; omega
  have h2 : (if (decide (fail = 6) || decide (7 < fail)) = true then 0 else fail) = 0 := by
    rcases hf with h | h | h
    · simp [h]
    · simp [h]
    · rw [if_pos (by simp; omega)]
  unfold State.powerGood
  simp only [hi, h1, h2, Bool.false_eq_true, if_false]
  rfl

/-- The state in which a part halts when a step after the first fails. -/
def haltedAt (s : State) (fail : Nat) (img : Option Config.Image) : State :=
  let t := if 3 ≤ fail then s.wiped else s
  let t := if 5 ≤ fail then t.zeroed else t
  { t with porch := { t.porch with step := fail - 1, halted := true, running := img, linksUp := 0 } }

theorem powerGood_fails (s : State) (a b : Bool) (fail : Nat) (links : BitVec 16) {img : Option Config.Image}
    (hi : s.porch.accepted a b = img) (hn : img ≠ none) (h2 : 2 ≤ fail) (h7 : fail ≤ 7) (h6 : fail ≠ 6) :
    s.powerGood a b fail links = haltedAt s fail img := by
  obtain ⟨x, rfl⟩ := Option.ne_none_iff_exists'.mp hn
  have : fail = 2 ∨ fail = 3 ∨ fail = 4 ∨ fail = 5 ∨ fail = 7 := by omega
  unfold State.powerGood haltedAt
  rcases this with h | h | h | h | h <;> subst h <;> simp [hi]

/-- The image that the root of trust runs, by what each slot is worth. -/
theorem accepts_iff (x : Porch) (i : Config.Image) :
    x.accepts i = true ↔
      Config.hssVerifies x.fuses.key i = true ∧ i.sig.length = 5396 ∧ x.fuses.least ≤ i.version := by
  unfold Porch.accepts
  simp [and_assoc]

theorem accepted_eq (x : Porch) (a b : Bool) {img : Option Config.Image}
    (h1 : (a = true ∧ x.accepts x.images.1 = true) → img = some x.images.1)
    (h2 : ¬ (a = true ∧ x.accepts x.images.1 = true) → (b = true ∧ x.accepts x.images.2 = true) →
      img = some x.images.2)
    (h3 : ¬ (a = true ∧ x.accepts x.images.1 = true) → ¬ (b = true ∧ x.accepts x.images.2 = true) → img = none) :
    x.accepted a b = img := by
  unfold Porch.accepted
  by_cases ha : a = true ∧ x.accepts x.images.1 = true
  · rw [if_pos (by simpa using ha), h1 ha]
  · rw [if_neg (by simpa using ha)]
    by_cases hb : b = true ∧ x.accepts x.images.2 = true
    · rw [if_pos (by simpa using hb), h2 ha hb]
    · rw [if_neg (by simpa using hb), h3 ha hb]

/-- What POWER_GOOD leaves, when an image is accepted and when it is not (R408, R409). -/
theorem powerGood_spec (s : State) (a b : Bool) (fail : Nat) (links : BitVec 16) {img : Option Config.Image}
    (hi : s.porch.accepted a b = img) :
    ∃ t, exec (.powerGood a b fail links) s = .next t ∧ t.porch.lifeCycle = s.porch.lifeCycle ∧
      t.porch.rom = s.porch.rom ∧ t.porch.fuses = s.porch.fuses ∧ t.porch.images = s.porch.images ∧
      (img ≠ none → (fail = 0 ∨ fail = 6 ∨ 8 ≤ fail) → Emptied t ∧ (t.mem = [] ∧ t.memP = [] ∧ t.badBursts = []) ∧
        t.porch.step = 7 ∧ t.porch.halted = false ∧ t.porch.linksUp = links ∧ t.porch.running = img) ∧
      (img ≠ none → 2 ≤ fail → fail ≤ 7 → fail ≠ 6 → t.porch.halted = true ∧ t.porch.step = fail - 1 ∧
        t.porch.running = img ∧ t.porch.linksUp = 0 ∧ (3 ≤ fail → Emptied t) ∧
        (5 ≤ fail → t.mem = [] ∧ t.memP = [] ∧ t.badBursts = []) ∧
        (fail < 5 → t.mem = s.mem) ∧ (fail = 2 → { t with porch := s.porch } = s)) ∧
      (img = none ∨ fail = 1 → t.porch.halted = true ∧ t.porch.step = 0 ∧ t.porch.running = none ∧
        { t with porch := s.porch } = s) := by
  obtain ⟨hl, hr, hf, hg⟩ := powerGood_keeps s a b fail links
  refine ⟨_, rfl, hl, hr, hf, hg, fun hn hd => ?_, fun hn h2 h7 h6 => ?_, fun h => ?_⟩
  · rw [powerGood_done s a b fail links hi hn hd]
    exact ⟨⟨rfl, rfl, rfl, rfl, rfl, rfl, rfl, rfl⟩, ⟨rfl, rfl, rfl⟩, rfl, rfl, rfl, rfl⟩
  · rw [powerGood_fails s a b fail links hi hn h2 h7 h6]
    refine ⟨rfl, rfl, rfl, rfl, fun h3 => ?_, fun h5 => ?_, fun h5 => ?_, fun h => ?_⟩
    · unfold haltedAt
      simp only [if_pos h3]
      by_cases h5 : 5 ≤ fail
      · simp only [if_pos h5]
        exact emptied_wiped s
      · simp only [if_neg h5]
        exact emptied_wiped s
    · unfold haltedAt
      simp only [if_pos h5]
      exact ⟨rfl, rfl, rfl⟩
    · unfold haltedAt
      simp only [if_neg (by omega : ¬ 5 ≤ fail)]
      by_cases h3 : 3 ≤ fail
      · simp only [if_pos h3]
        rfl
      · simp only [if_neg h3]
    · subst h
      rfl
  · rw [powerGood_first s a b fail links (by rwa [hi])]
    exact ⟨rfl, rfl, rfl, rfl⟩

/-- LIFE_CYCLE_CHANGE goes forward only (R411). -/
theorem lifeCycleChange_spec (s : State) (y : LifeCycle) :
    (lifeRank y ≤ lifeRank s.porch.lifeCycle → exec (.lifeCycleChange y) s = .next s) ∧
      (lifeRank s.porch.lifeCycle < lifeRank y → ∃ t, exec (.lifeCycleChange y) s = .next t ∧ Emptied t ∧
        t.mem = s.mem ∧ t.porch.lifeCycle = y ∧ t.porch.step = 0 ∧ t.porch.halted = false) := by
  show (_ → Host.Outcome.next ((s.lifeChange y).getD s) = _) ∧ (_ → ∃ t, Host.Outcome.next ((s.lifeChange y).getD s) = _ ∧ _)
  unfold State.lifeChange
  refine ⟨fun h => ?_, fun h => ?_⟩
  · rw [if_pos h]
    rfl
  · rw [if_neg (Nat.not_le.mpr h)]
    exact ⟨_, rfl, emptied_wiped s, rfl, rfl, rfl, rfl⟩

/-- An event of the side door changes the answer alone. -/
def AnswersOnly (i : Instr) (s : State) : Prop :=
  ∃ t, exec i s = .next t ∧
    { t with porch := { t.porch with answer := s.porch.answer, answered := s.porch.answered } } = s ∧
    t.porch.answered = s.porch.answered + 1

theorem answersOnly_requests (s : State) (req : List Byte) :
    AnswersOnly (.getVersion req) s ∧ AnswersOnly (.getCapabilities req) s ∧
      AnswersOnly (.negotiateAlgorithms req) s ∧ AnswersOnly (.getCertificate req) s ∧
      AnswersOnly (.challenge req) s ∧ AnswersOnly (.getMeasurements req) s :=
  ⟨⟨_, rfl, rfl, rfl⟩, ⟨_, rfl, rfl, rfl⟩, ⟨_, rfl, rfl, rfl⟩, ⟨_, rfl, rfl, rfl⟩, ⟨_, rfl, rfl, rfl⟩,
    ⟨_, rfl, rfl, rfl⟩⟩

/-- The descriptor's bytes: life cycle, step reached, and of a halted part the step that failed. -/
theorem moduleDescriptorRead_answer (s t : State) (h : exec .moduleDescriptorRead s = .next t) :
    t.porch.answer[1]? = some (BitVec.ofNat 8 (lifeRank s.porch.lifeCycle)) ∧
      t.porch.answer[2]? = some (BitVec.ofNat 8 s.porch.step) ∧
      t.porch.answer[3]? = if s.porch.halted then some (BitVec.ofNat 8 (s.porch.step + 1)) else none := by
  cases h
  refine ⟨rfl, rfl, ?_⟩
  show (List.map (BitVec.ofNat 8) (_ ++ if s.porch.halted = true then _ else _))[3]? = _
  cases s.porch.halted <;> rfl

/-- The draw is above a limit. -/
theorem exceeds_iff (s : State) :
    s.exceeds = true ↔ ∃ l, s.porch.powerLimit = some l ∧ l < Config.draw s.cycle := by
  unfold State.exceeds
  cases s.porch.powerLimit <;> simp

theorem drawEvents_above (s : State) (h : s.exceeds = true) :
    exec .powerLimitExceeded s = .next { s with porch := { s.porch with overDraw := true } } ∧
      exec .drawWithinLimit s = .next s := by
  have h1 : exec .powerLimitExceeded s =
    .next { s with porch := { s.porch with overDraw := s.porch.overDraw || s.exceeds } } := rfl
  have h2 : exec .drawWithinLimit s =
    .next { s with porch := { s.porch with overDraw := s.porch.overDraw && s.exceeds } } := rfl
  rw [h1, h2, h, Bool.or_true, Bool.and_true]
  exact ⟨rfl, rfl⟩

theorem drawEvents_within (s : State) (h : s.exceeds = false) :
    exec .powerLimitExceeded s = .next s ∧
      exec .drawWithinLimit s = .next { s with porch := { s.porch with overDraw := false } } := by
  have h1 : exec .powerLimitExceeded s =
    .next { s with porch := { s.porch with overDraw := s.porch.overDraw || s.exceeds } } := rfl
  have h2 : exec .drawWithinLimit s =
    .next { s with porch := { s.porch with overDraw := s.porch.overDraw && s.exceeds } } := rfl
  rw [h1, h2, h, Bool.or_false, Bool.and_false]
  exact ⟨rfl, rfl⟩

/-- POWER_LIMIT_SET by the form of the part (R1, R414). -/
theorem powerLimitSet_package (s : State) (w : Nat) (hf : Config.form = .package) :
    exec (.powerLimitSet w) s = .next { s with porch := { s.porch with limit := some w } } := by
  have h1 : exec (.powerLimitSet w) s = execPowerLimitSet w s := rfl
  rw [h1, execPowerLimitSet, hf]

theorem powerLimitSet_module (s : State) (w : Nat) (hf : Config.form = .module) :
    exec (.powerLimitSet w) s = .next s := by
  have h1 : exec (.powerLimitSet w) s = execPowerLimitSet w s := rfl
  rw [h1, execPowerLimitSet, hf]

theorem powerLimitSet_limit (s t : State) (w : Nat) (h : exec (.powerLimitSet w) s = .next t) :
    t.porch.powerLimit = if Config.form = .package then some w else some 2400 := by
  unfold Porch.powerLimit
  cases hf : Config.form with
  | package =>
    rw [powerLimitSet_package s w hf] at h
    cases h
    rfl
  | module => rfl

/-- Settles O57: each event of bring-up, the side door and power is the update that the statement gives. -/
theorem bringUpAndSideDoor : Obligations.BringUpAndSideDoor := by
  intro s x empty zero ok
  refine ⟨?_, fun y => lifeCycleChange_spec s y, ⟨fun req => ?_, ?_⟩, ?_,
    fun w => ⟨powerLimitSet_package s w, powerLimitSet_module s w, fun t => powerLimitSet_limit s t w⟩⟩
  · intro a b img fail links fst alt h1 h2 h3
    refine powerGood_spec s a b fail links (accepted_eq s.porch a b ?_ ?_ ?_) <;> simp only [accepts_iff]
    · exact h1
    · exact h2
    · exact h3
  · obtain ⟨hv, hc, ha, he, hl, hm⟩ := answersOnly_requests s req
    exact ⟨hv, hc, ha, he, hl, hm, fun t h => by cases h; rfl⟩
  · exact ⟨⟨_, rfl, rfl, rfl⟩, moduleDescriptorRead_answer s⟩
  · refine ⟨fun h => drawEvents_above s ((exceeds_iff s).mpr h), fun h => drawEvents_within s ?_⟩
    exact Bool.eq_false_iff.mpr fun h' => h ((exceeds_iff s).mp h')

end Sys2Proof.Safety
end

section
/-! SUPPORT. Bytes written to memory outside the device, answers of flits, and the windows of virtual functions (R181,
R393 to R400). -/

namespace Sys2Proof.Safety
open Sys2Proof.Machine

/-! Bytes of host and peer memory -/

theorem length_leBytes (n x : Nat) : (leBytes n x).length = n := by
  simp [leBytes]

theorem getElem?_leBytes (n x j : Nat) (h : j < n) : (leBytes n x)[j]? = some (BitVec.ofNat 8 (x / 2 ^ (8 * j))) := by
  unfold leBytes
  rw [List.getElem?_map, List.getElem?_range h, Option.map_some, Nat.pow_mul]

theorem mapGet?_putBytes_below (l : List Byte) (m : SMap Byte) (a k i : Nat) (h : i < a + k) :
    mapGet? ((l.zipIdx k).foldl (fun m b => mapPut m (a + b.2) b.1) m) i = mapGet? m i := by
  induction l generalizing m k with
  | nil => rfl
  | cons b r ih =>
    rw [List.zipIdx_cons, List.foldl_cons, ih _ _ (by omega), mapGet?_mapPut_other _ _ _ _ (by omega)]

theorem mapGet?_putBytes_from (l : List Byte) (m : SMap Byte) (a k j : Nat) (h : j < l.length) :
    mapGet? ((l.zipIdx k).foldl (fun m b => mapPut m (a + b.2) b.1) m) (a + k + j) = l[j]? := by
  induction l generalizing m k j with
  | nil => exact absurd h (Nat.not_lt_zero _)
  | cons b r ih =>
    rw [List.zipIdx_cons, List.foldl_cons]
    cases j with
    | zero =>
      rw [mapGet?_putBytes_below _ _ _ _ _ (by omega), Nat.add_zero, mapGet?_mapPut_same]
      rfl
    | succ j =>
      rw [show a + k + (j + 1) = a + (k + 1) + j by omega, ih _ _ _ (by simpa using h)]
      rfl

theorem mapGet?_putBytes_outside (l : List Byte) (m : SMap Byte) (a k i : Nat) (h : i < a + k ∨ a + k + l.length ≤ i) :
    mapGet? ((l.zipIdx k).foldl (fun m b => mapPut m (a + b.2) b.1) m) i = mapGet? m i := by
  induction l generalizing m k with
  | nil => rfl
  | cons b r ih =>
    rw [List.length_cons] at h
    rw [List.zipIdx_cons, List.foldl_cons, ih _ _ (by omega), mapGet?_mapPut_other _ _ _ _ (by omega)]

/-- Written bytes are read back. -/
theorem mapGet_putBytes (d : Byte) (m : SMap Byte) (a : Nat) (l : List Byte) {j : Nat} (h : j < l.length) :
    l[j]? = some (mapGet d (putBytes m a l) (a + j)) := by
  have := mapGet?_putBytes_from l m a 0 j h
  rw [Nat.add_zero] at this
  unfold mapGet putBytes
  rw [this, List.getElem?_eq_getElem h]
  rfl

theorem mapGet_putBytes_outside (d : Byte) (m : SMap Byte) (a : Nat) (l : List Byte) {i : Nat}
    (h : i < a ∨ a + l.length ≤ i) : mapGet d (putBytes m a l) i = mapGet d m i := by
  unfold mapGet putBytes
  rw [mapGet?_putBytes_outside l m a 0 i (by omega)]

/-! Flits that are answered -/

/-- A sent flit stands in the network with the fields that were given. -/
theorem mem_send (s : State) (sdie sstop ddie dstop vc vd : Nat) (gti : BitVec 32) (cl : Nat) (m : Msg) :
    ∃ g ∈ (s.send sdie sstop ddie dstop vc vd gti cl m).net, g.id = s.nextId ∧ g.msg = m ∧ g.vc = vc ∧
      g.ddie = ddie ∧ g.dstop = dstop ∧ g.gti = gti := by
  unfold State.send
  generalize (if sdie = 8 && ddie ≠ 8 then (nextDie 8 ddie, 615) else (sdie, sstop)) = q
  obtain ⟨d, src⟩ := q
  dsimp only
  generalize (if m.bodies = 0 then s.nextId else s.nextId + m.bodies + 1) = last
  have last_mem (l : List Flit) (f : Flit) : f ∈ l ++ [f] := List.mem_append_right _ (List.mem_singleton.mpr rfl)
  split
  · split <;> exact ⟨_, last_mem _ _, rfl, rfl, rfl, rfl, rfl, rfl⟩
  · exact ⟨_, last_mem _ _, rfl, rfl, rfl, rfl, rfl, rfl⟩

/-- An answer goes back on RSP. -/
theorem answered_answer (s : State) (f : Flit) (m : Msg) : Answered s (s.answer f m) f m := by
  obtain ⟨g, hg, hid, hmsg, hvc, hd, hs, ht⟩ := mem_send (s.drop f.id) f.ddie f.dstop f.sdie f.sstop vcRSP f.vd f.gti
    f.cluster m
  refine ⟨{ g with inc := f.inc }, ?_, hid, hmsg, hvc, hd, hs, rfl, ht⟩
  refine List.mem_map.mpr ⟨g, hg, ?_⟩
  exact if_pos (Nat.le_of_eq hid.symm)

end Sys2Proof.Safety
end

section
/-! SUPPORT. The window of a virtual function, and what the host and the peers do to memory (R12, R130, R181, R391 to
R400). -/

namespace Sys2Proof.Safety
open Sys2Proof.Machine

/-! The window (R181, R393) -/

@[simp] theorem vf_setVf (s : State) (v : Nat) (x : Vf) : (s.setVf v x).vf v = x :=
  mapGet_mapPut_same _ _ _ _

@[simp] theorem vf_setRead (s : State) (v : Nat) (b : List Byte) (p : Bool) : (s.setRead b p).vf v = s.vf v := rfl

/-- A doubleword of a slot is replaced in place. -/
theorem getElem?_slotWrite (old : List Byte) (k j : Nat) (v : Word) (hl : old.length = 64) (hk : k < 8) :
    (old.take (8 * k) ++ leBytes 8 v.toNat ++ old.drop (8 * k + 8))[j]? =
      if 8 * k ≤ j ∧ j < 8 * k + 8 then some (v.extractLsb' (8 * (j - 8 * k)) 8) else old[j]? := by
  have ht : (old.take (8 * k)).length = 8 * k := by rw [List.length_take, hl]; omega
  have hm : (old.take (8 * k) ++ leBytes 8 v.toNat).length = 8 * k + 8 := by
    rw [List.length_append, ht, length_leBytes]
  by_cases h1 : j < 8 * k
  · rw [if_neg (by omega), List.getElem?_append_left (by omega), List.getElem?_append_left (by omega),
      List.getElem?_take, if_pos h1]
  · by_cases h2 : j < 8 * k + 8
    · rw [if_pos ⟨by omega, h2⟩, List.getElem?_append_left (by omega), List.getElem?_append_right (by omega), ht,
        getElem?_leBytes _ _ _ (by omega), ← Nat.shiftRight_eq_div_pow]
      rfl
    · rw [if_neg (by omega), List.getElem?_append_right (by omega), hm, List.getElem?_drop]
      congr 1
      omega

/-- The low bits of an address cleared. -/
theorem clear_low5 (v : Word) : BitVec.ofNat 64 (v.toNat / 32 * 32) = v &&& ~~~31 := by
  refine BitVec.eq_of_getLsbD_eq fun i hi => ?_
  have h31 : (31 : BitVec 64).getLsbD i = decide (i < 5) := by
    rw [show (31 : BitVec 64) = BitVec.ofNat 64 (2 ^ 5 - 1) from rfl, BitVec.getLsbD_ofNat, Nat.testBit_two_pow_sub_one]
    simp [hi]
  rw [BitVec.getLsbD_ofNat, BitVec.getLsbD_and, BitVec.getLsbD_not, h31, show (32 : Nat) = 2 ^ 5 from rfl,
    Nat.testBit_mul_two_pow, Nat.testBit_div_two_pow]
  by_cases h : i < 5
  · simp [h, Nat.not_le.mpr h]
  · simp [h, hi, Nat.not_lt.mp h, BitVec.getLsbD]

/-- What TAIL_WRITE makes of the window. -/
theorem tailWrite_spec (s : State) (vf : Nat) (hv : vf < 64) (off : Nat) (v : Word) (h8 : off % 8 = 0) :
    ∃ t, exec (.tailWrite vf off v) s = .next t ∧ t.vf vf = (s.vf vf).write off v := by
  refine ⟨s.setVf vf ((s.vf vf).write off v), ?_, vf_setVf s vf _⟩
  show Host.Outcome.next (if _ then _ else _) = _
  rw [if_pos (by simp [hv, h8])]

theorem write_register (x : Vf) (off : Nat) (v : Word) :
    (off = 0x1000 → x.write off v = { x with tail := v.toNat % 64 }) ∧
      (off = 0x1010 → x.write off v = { x with cbase := v &&& ~~~31 }) ∧
      (off = 0x1018 → x.write off v = { x with csize := v.extractLsb' 0 16 }) ∧
      (off = 0x1028 → x.write off v = { x with chead := v.toNat % 65536 }) ∧
      (0x1000 < off → off ∉ [0x1010, 0x1018, 0x1028] → x.write off v = x) := by
  refine ⟨?_, ?_, ?_, ?_, fun h hn => ?_⟩
  · rintro rfl; rfl
  · rintro rfl
    rw [← clear_low5]
    rfl
  · rintro rfl; rfl
  · rintro rfl; rfl
  · simp only [List.mem_cons, List.not_mem_nil, or_false, not_or] at hn
    obtain ⟨h1, h2, h3⟩ := hn
    unfold Vf.write
    rw [if_neg (by omega), if_neg (by omega), if_neg h1, if_neg h2, if_neg h3]

theorem write_slot (x : Vf) (off : Nat) (v : Word) (h : off < 0x1000) (h8 : off % 8 = 0)
    (hl : (mapGet (List.replicate 64 0) x.slots (off / 64)).length = 64) (j : Nat) :
    (mapGet (List.replicate 64 0) (x.write off v).slots (off / 64))[j]? =
      if off % 64 ≤ j ∧ j < off % 64 + 8 then some (v.extractLsb' (8 * (j - off % 64)) 8)
      else (mapGet (List.replicate 64 0) x.slots (off / 64))[j]? := by
  have hk : off % 64 = 8 * (off / 8 % 8) := by omega
  unfold Vf.write
  rw [if_pos h]
  show (mapGet _ (mapPut x.slots (off / 64) _) (off / 64))[j]? = _
  rw [mapGet_mapPut_same, getElem?_slotWrite _ _ _ _ hl (Nat.mod_lt _ (by decide)), ← hk]

/-- What COUNTER_LOW_READ gives. -/
theorem counterLowRead_spec (s : State) (vf : Nat) (hv : vf < 64) (off : Nat) (h4 : off % 4 = 0) :
    exec (.counterLowRead vf off) s =
      .next ((s.setVf vf ((s.vf vf).readHalf off).2).setRead (leBytes 4 ((s.vf vf).readHalf off).1)) := by
  show Host.Outcome.next (if _ then _ else _) = _
  rw [if_pos (by simp [hv, h4])]

/-- A 32-bit half of the window: a counter's low half, its high half through the latch, or a register's. -/
theorem readHalf_low (x : Vf) : ∀ e ∈ [(0x1100, x.nlaunch), (0x1108, x.nburst), (0x1110, x.nidle)],
    x.readHalf e.1 = (e.2.toNat % 2 ^ 32, { x with latch := e.2.extractLsb' 32 32 }) ∧
      x.readHalf (e.1 + 4) = (x.latch.toNat, x) := by
  simp only [List.forall_mem_cons, List.not_mem_nil, false_implies, implies_true, and_true]
  refine ⟨⟨?_, rfl⟩, ⟨?_, rfl⟩, ⟨?_, rfl⟩⟩ <;>
    exact Prod.ext (by simp [Vf.readHalf, isCounter, Vf.counter]) rfl

theorem readHalf_register (x : Vf) : ∀ e ∈ [(0x1000, x.tail), (0x1008, x.head), (0x1010, x.cbase.toNat),
    (0x1018, x.csize.toNat), (0x1020, x.ctail), (0x1028, x.chead)], x.readHalf e.1 = (e.2 % 2 ^ 32, x) := by
  simp only [List.forall_mem_cons, List.not_mem_nil, false_implies, implies_true, and_true]
  exact ⟨by simp [Vf.readHalf, isCounter, Vf.read], by simp [Vf.readHalf, isCounter, Vf.read],
    by simp [Vf.readHalf, isCounter, Vf.read], by simp [Vf.readHalf, isCounter, Vf.read],
    by simp [Vf.readHalf, isCounter, Vf.read], by simp [Vf.readHalf, isCounter, Vf.read]⟩

theorem readHalf_none (x : Vf) (off : Nat) (h4 : off % 4 = 0) (h : off < 0x1000 ∨ 0x1118 ≤ off) :
    (x.readHalf off).1 = 0 := by
  have h1 : isCounter off = false := by
    unfold isCounter
    simp only [Bool.or_eq_false_iff, decide_eq_false_iff_not]
    omega
  have h2 : (decide (off % 8 = 4) && isCounter (off - 4)) = false := by
    unfold isCounter
    simp only [Bool.and_eq_false_iff, Bool.or_eq_false_iff, decide_eq_false_iff_not]
    omega
  have h3 : x.read (off / 8 * 8) = 0 := by
    unfold Vf.read
    rw [if_neg (by omega), if_neg (by omega), if_neg (by omega), if_neg (by omega), if_neg (by omega),
      if_neg (by omega)]
  unfold Vf.readHalf
  rw [if_neg (by simp [h1]), if_neg (by simp [h2]), h3]
  simp

/-! Records and completions (R394, R395, R400, R419) -/

theorem launchEnqueue_full (s : State) (l : List Word) (parent : BitVec 32) (img : CtxImage) (host : Option (Nat × Nat))
    (h : 16 ≤ (if lNamed l then mapGet [] (s.die (lDie l)).launchQ (lVd l) else mapGet [] s.porch.anyQ (lVd l)).length) :
    s.launchEnqueue l parent img host = none := by
  unfold State.launchEnqueue
  cases hn : lNamed l <;> rw [hn] at h <;> simp only [Bool.false_eq_true, if_false, if_true] at h ⊢ <;> exact if_pos h

theorem launchEnqueue_joins (s : State) (l : List Word) (parent : BitVec 32) (img : CtxImage)
    (host : Option (Nat × Nat)) {q : List LRec}
    (hq : (if lNamed l then mapGet [] (s.die (lDie l)).launchQ (lVd l) else mapGet [] s.porch.anyQ (lVd l)) = q)
    (h : q.length < 16) :
    ∃ t, s.launchEnqueue l parent img host = some t ∧
      (if lNamed l then mapGet [] (t.die (lDie l)).launchQ (lVd l) else mapGet [] t.porch.anyQ (lVd l)) =
        q ++ [⟨l, parent, img, host, none, 0⟩] := by
  have h' := Nat.not_le.mpr h
  unfold State.launchEnqueue
  cases hn : lNamed l <;> rw [hn] at hq <;> simp only [Bool.false_eq_true, if_false, if_true] at hq ⊢ <;>
    rw [hq, if_neg h'] <;> refine ⟨_, rfl, ?_⟩
  · exact mapGet_mapPut_same _ _ _ _
  · rw [die_setDie]
    exact mapGet_mapPut_same _ _ _ _

/-- The porch die refuses a record. -/
theorem recordTake_refuses (s : State) (vf : Nat) (hv : vf < 64) (hx : (s.vf vf).head ≠ (s.vf vf).tail)
    (hs : 7 ≤ s.porch.step) {n : Nat} (hn : n ≠ 0)
    (h : s.hostStatus vf (dwordsOf (mapGet (List.replicate 64 0) (s.vf vf).slots (s.vf vf).head) 8) = n) :
    ∃ t, exec (.hostRecordTake vf) s = .next t ∧ (t.vf vf).head = ((s.vf vf).head + 1) % 64 ∧
      (t.vf vf).pend = (s.vf vf).pend ++ [completionBytes 0 (s.vf vf).head 3 n 0 0 0] := by
  have hc : (decide ((s.vf vf).head = (s.vf vf).tail) || decide (64 ≤ vf) || decide (s.porch.step < 7)) = false := by
    simp only [Bool.or_eq_false_iff, decide_eq_false_iff_not]
    omega
  show ∃ t, Host.Outcome.next ((s.recordTake vf).getD s) = _ ∧ _
  unfold State.recordTake
  simp only [hc, Bool.false_eq_true, if_false, h]
  rw [if_pos hn]
  refine ⟨_, rfl, ?_, ?_⟩ <;> simp [State.complete?]

/-- The porch die sends an admissible record to its queue, or keeps it. -/
theorem recordTake_enqueues (s : State) (vf : Nat) (hv : vf < 64) (hx : (s.vf vf).head ≠ (s.vf vf).tail)
    (hs : 7 ≤ s.porch.step) {img : CtxImage} (hi : s.hostImage vf = some img)
    (h : s.hostStatus vf (dwordsOf (mapGet (List.replicate 64 0) (s.vf vf).slots (s.vf vf).head) 8) = 0) :
    exec (.hostRecordTake vf) s = .next (((s.launchEnqueue
      (dwordsOf (mapGet (List.replicate 64 0) (s.vf vf).slots (s.vf vf).head) 8) 0 img (some (vf, (s.vf vf).head))).map
      fun t => t.setVf vf { t.vf vf with head := ((s.vf vf).head + 1) % 64 }).getD s) := by
  have hc : (decide ((s.vf vf).head = (s.vf vf).tail) || decide (64 ≤ vf) || decide (s.porch.step < 7)) = false := by
    simp only [Bool.or_eq_false_iff, decide_eq_false_iff_not]
    omega
  show Host.Outcome.next ((s.recordTake vf).getD s) = _
  unfold State.recordTake
  simp only [hc, Bool.false_eq_true, if_false, h, hi, ne_eq, not_true_eq_false]

theorem hostStatus_invalid (s : State) (vf : Nat) (l : List Word) (h : lInvalid l = true) : s.hostStatus vf l = 2 := by
  unfold State.hostStatus
  rw [if_pos h]

theorem hostStatus_device (s : State) (vf : Nat) (l : List Word) (h : lInvalid l = false) (hv : lVd l ≠ vf) :
    s.hostStatus vf l = 3 := by
  unfold State.hostStatus
  rw [if_neg (by simp [h]), if_pos hv]

theorem hostStatus_valid (s : State) (vf : Nat) (l : List Word) (h : lInvalid l = false) (hv : lVd l = vf) :
    s.hostStatus vf l = if (s.hostImage vf).isNone then 2 else 0 := by
  unfold State.hostStatus
  rw [if_neg (by simp [h]), if_neg (by simp [hv])]

/-- COMPLETION_ENTRY of the oldest entry that waits. -/
theorem completionEntry_spec (s : State) (vf : Nat) {b : List Byte} {r : List (List Byte)} (hp : (s.vf vf).pend = b :: r)
    (hb : (s.vf vf).cbase ≠ 0) :
    (((s.vf vf).csize.toNat = 0 ∨ ((s.vf vf).ctail + 1) % (s.vf vf).csize.toNat = (s.vf vf).chead) →
        exec (.completionEntry vf) s = .next s) ∧
      ((s.vf vf).csize.toNat ≠ 0 → ((s.vf vf).ctail + 1) % (s.vf vf).csize.toNat ≠ (s.vf vf).chead →
        ∃ t, exec (.completionEntry vf) s = .next t ∧
          (t.vf vf).ctail = ((s.vf vf).ctail + 1) % (s.vf vf).csize.toNat ∧ (t.vf vf).pend = r ∧
          ∀ j < b.length, b[j]? = some
            (t.hostByteAt (2 ^ 44 + ((s.vf vf).cbase.toNat + 32 * (s.vf vf).ctail) % 2 ^ 44 + j))) := by
  show (_ → Host.Outcome.next ((s.completionEntry vf).getD s) = _) ∧
    (_ → _ → ∃ t, Host.Outcome.next ((s.completionEntry vf).getD s) = _ ∧ _)
  unfold State.completionEntry
  simp only [hp]
  rw [if_neg hb]
  refine ⟨fun h => ?_, fun h0 h1 => ?_⟩
  · rw [if_pos (by simpa using h)]
    rfl
  · rw [if_neg (by simp [h0, h1])]
    refine ⟨_, rfl, ?_, ?_, fun j hj => mapGet_putBytes _ _ _ _ hj⟩ <;> rw [Option.getD_some, vf_setVf]

/-- Completion entries added one after another. -/
theorem pend_foldl_complete (l : List Nat) (f : Nat → List Byte) (s : State) (vf : Nat) :
    ((l.foldl (fun s i => s.complete? vf (f i)) s).vf vf).pend = (s.vf vf).pend ++ l.map f := by
  induction l generalizing s with
  | nil => simp
  | cons i l ih =>
    rw [List.foldl_cons, ih, State.complete?, vf_setVf, List.map_cons, List.append_assoc]
    rfl

theorem vfReset_spec (s : State) (vf : Nat) (hv : vf < 64) :
    ∃ t, exec (.vfReset vf) s = .next t ∧ (t.vf vf).head = (s.vf vf).tail ∧
      (t.vf vf).pend = (s.vf vf).pend ++ (List.range (((s.vf vf).tail + 64 - (s.vf vf).head) % 64)).map fun j =>
        completionBytes 0 (((s.vf vf).head + j) % 64) 3 2 0 0 0 := by
  have h : exec (.vfReset vf) s = .next (if vf < 64 then s.vfReset vf else s) := rfl
  rw [h, if_pos hv]
  unfold State.vfReset
  refine ⟨_, rfl, ?_, ?_⟩
  · rw [vf_setVf]
  · rw [vf_setVf]
    show ((List.foldl _ s _).vf vf).pend = _
    rw [pend_foldl_complete _ (fun i => completionBytes 0 i 3 2 0 0 0), List.map_map]
    rfl

/-- The clauses on a function's window. -/
theorem hostWindow : Claim.HostWindow := by
  intro s vf hv x
  refine ⟨fun off v h8 => ?_, fun off h4 => ?_, ?_, fun b r hp hb => completionEntry_spec s vf hp hb,
    vfReset_spec s vf hv⟩
  · obtain ⟨t, ht, hw⟩ := tailWrite_spec s vf hv off v h8
    obtain ⟨h1, h2, h3, h4, h5⟩ := write_register (s.vf vf) off v
    refine ⟨t, ht, fun h => hw.trans (h1 h), fun h => hw.trans (h2 h), fun h => hw.trans (h3 h), fun h => hw.trans (h4 h),
      fun h old ho hl j hj => ?_, fun h hn => hw.trans (h5 h hn)⟩
    subst ho
    show (mapGet _ (t.vf vf).slots (off / 64))[j]? = _
    rw [hw]
    exact write_slot (s.vf vf) off v h h8 hl j
  · refine ⟨_, counterLowRead_spec s vf hv off h4, fun e he => ⟨fun h => ?_, fun h => ?_⟩, fun e he h => ?_, fun h j hj => ?_⟩
    · have hr := (readHalf_low (s.vf vf) e he).1
      subst h
      rw [hr]
      exact ⟨fun j hj => getElem?_leBytes _ _ _ hj, by rw [vf_setRead, vf_setVf]⟩
    · have hr := (readHalf_low (s.vf vf) e he).2
      subst h
      rw [hr]
      exact ⟨fun j hj => getElem?_leBytes _ _ _ hj, by rw [vf_setRead, vf_setVf]⟩
    · have hr := readHalf_register (s.vf vf) e he
      subst h
      rw [hr]
      exact ⟨fun j hj => getElem?_leBytes _ _ _ hj, by rw [vf_setRead, vf_setVf]⟩
    · rw [readHalf_none (s.vf vf) off h4 h]
      exact getElem?_leBytes _ _ _ hj
  · intro hx hs l e refuses
    refine ⟨fun hi => recordTake_refuses s vf hv hx hs (by decide) (hostStatus_invalid s vf l hi),
      fun hi hd => recordTake_refuses s vf hv hx hs (by decide) (hostStatus_device s vf l hi hd),
      fun hi hd hn => recordTake_refuses s vf hv hx hs (by decide) ?_, ?_⟩
    · exact (hostStatus_valid s vf l hi hd).trans (by rw [hn]; rfl)
    · intro img hi hd hm r q
      have h0 : s.hostStatus vf l = 0 := (hostStatus_valid s vf l hi hd).trans (by rw [hm]; rfl)
      have hq : (if lNamed l then mapGet [] (s.die (lDie l)).launchQ (lVd l) else mapGet [] s.porch.anyQ (lVd l)) = q := by
        rw [hd]
      have hexec := recordTake_enqueues s vf hv hx hs hm h0
      refine ⟨fun h => ?_, fun h => ?_⟩
      · rw [launchEnqueue_full s l 0 img _ (by rwa [hq])] at hexec
        exact hexec
      · obtain ⟨t, ht, htq⟩ := launchEnqueue_joins s l 0 img (some (vf, x.head)) hq h
        rw [ht, Option.map_some, Option.getD_some] at hexec
        refine ⟨_, hexec, by rw [vf_setVf], ?_⟩
        rw [hd] at htq
        exact htq

end Sys2Proof.Safety
end

section
/-! SUPPORT. What the host and the peers do to memory (R12, R130, R391, R392, R398, R399, R408). -/

namespace Sys2Proof.Safety
open Sys2Proof.Machine

/-! Accesses of the host (R12, R130, R408) -/

theorem setHas_foldl_setAdd (l : List Nat) (m : NSet) (u : Nat) :
    setHas (l.foldl setAdd m) u = true ↔ u ∈ l ∨ setHas m u = true := by
  induction l generalizing m with
  | nil => simp
  | cons i l ih =>
    rw [List.foldl_cons, ih, setHas_setAdd, List.mem_cons, Bool.or_eq_true, decide_eq_true_eq]
    tauto

theorem setHas_filter_not (m : NSet) (l : List Nat) {u : Nat} (hu : u ∈ l) :
    setHas (m.filter fun v => !l.contains v) u = false := by
  rw [setHas, Bool.eq_false_iff, Ne, List.contains_iff_mem, List.mem_filter]
  simp [hu]

/-- Before bring-up is done a host access reaches no stack. -/
theorem hostAccess_closed (s : State) (a : BitVec 40) (n : Nat) (h : s.porch.step < 7) :
    (∀ b, exec (.hostMemAccess a n (some b)) s = .next s) ∧
      ∃ t, exec (.hostMemAccess a n none) s = .next t ∧ { t with porch := s.porch, free := s.free } = s ∧
        t.porch.hostRead.length = n := by
  have he : ∀ w, exec (.hostMemAccess a n w) s = .next ((s.hostAccess a.toNat n w).getD s) := fun _ => rfl
  refine ⟨fun b => ?_, ?_⟩
  · rw [he, State.hostAccess, if_pos h]
    rfl
  · rw [he, State.hostAccess, if_pos h]
    refine ⟨_, rfl, rfl, ?_⟩
    show (List.map _ (List.range n)).length = n
    rw [List.length_map, List.length_range]

/-- What logging an error leaves. -/
theorem logError_spec (s : State) (d a vd : Nat) :
    (s.logError d a vd).mem = s.mem ∧ (s.logError d a vd).slices = s.slices ∧
      (s.logError d a vd).peerMem = s.peerMem := by
  unfold State.logError
  dsimp only
  split <;> exact ⟨rfl, rfl, rfl⟩

theorem stackOf_lt (m : Nat) (h : m < 2 ^ 40) : stackOf m = m / 2 ^ 37 := by
  unfold stackOf
  omega

/-- A host access to memory that is not there is logged (R12). -/
theorem hostAccess_unpopulated (s : State) (a : BitVec 40) (n : Nat) (h : 7 ≤ s.porch.step)
    (hu : ((unitsOf a.toNat n).all fun u => populated (64 * u)) = false) :
    (∃ t, exec (.hostMemAccess a n none) s = .next t ∧ t.porch.hostPoison = true ∧ t.porch.hostRead.length = n ∧
        t.mem = s.mem ∧ t.slices = s.slices) ∧
      ∀ b, exec (.hostMemAccess a n (some b)) s = .next (s.logError (a.toNat / 2 ^ 37) a.toNat 0) := by
  have he : ∀ w, exec (.hostMemAccess a n w) s = .next ((s.hostAccess a.toNat n w).getD s) := fun _ => rfl
  obtain ⟨hm, hs, -⟩ := logError_spec s (stackOf a.toNat) a.toNat 0
  refine ⟨?_, fun b => ?_⟩
  · rw [he, State.hostAccess, if_neg (Nat.not_lt.mpr h), if_pos (by simp only [hu, Bool.not_false])]
    refine ⟨_, rfl, rfl, ?_, hm, hs⟩
    show (List.map _ (List.range n)).length = n
    rw [List.length_map, List.length_range]
  · rw [he, State.hostAccess, if_neg (Nat.not_lt.mpr h), if_pos (by simp only [hu, Bool.not_false]),
      ← stackOf_lt a.toNat a.isLt]
    rfl

/-- A host access to memory that is there is a read or a write at the homes. -/
theorem hostAccess_populated (s : State) (a : BitVec 40) (n : Nat) (h : 7 ≤ s.porch.step)
    (hu : ((unitsOf a.toNat n).all fun u => populated (64 * u)) = true) :
    exec (.hostMemAccess a n none) s = .next ((s.hostRead a.toNat n).getD s) ∧
      ∀ b, exec (.hostMemAccess a n (some b)) s = .next ((s.hostWrite a.toNat b).getD s) := by
  have hp : ¬ (!(unitsOf a.toNat n).all fun u => populated (64 * u)) = true := by
    simp only [hu, Bool.not_true, Bool.false_eq_true, not_false_eq_true]
  refine ⟨congrArg (fun o : Option State => Host.Outcome.next (o.getD s)) ?_,
    fun b => congrArg (fun o : Option State => Host.Outcome.next (o.getD s)) ?_⟩
  · exact (if_neg (Nat.not_lt.mpr h)).trans (if_neg hp)
  · exact (if_neg (Nat.not_lt.mpr h)).trans (if_neg hp)

theorem hostRead_waits (s : State) (a n : Nat) (h : s.hostWaits a n false = true) : s.hostRead a n = none :=
  if_pos h

theorem hostRead_spec (s x : State) (a n : Nat) (b : List PByte) (h : s.hostWaits a n false = false)
    (hr : s.readHomes noCluster .phys (s.leafAt a) a n = (b, x)) (hx : x.short = none) :
    ∃ t, s.hostRead a n = some t ∧ t.porch.hostRead = b.map (·.v) ∧ t.porch.hostPoison = b.any (·.p) ∧
      ∀ u ∈ unitsOf a n, setHas t.porch.held u = true := by
  unfold State.hostRead
  rw [if_neg (by simp [h])]
  simp only [hr, hx, Option.isSome_none, Bool.false_eq_true, if_false]
  exact ⟨_, rfl, rfl, rfl, fun u hu => (setHas_foldl_setAdd _ _ _).mpr (.inl hu)⟩

theorem hostWrite_spec (s : State) (a : Nat) (b : List Byte) (h : s.hostWaits a b.length true = false)
    (hx : (s.physStore a (b.map (⟨·, false⟩))).short = none) :
    ∃ t, s.hostWrite a b = some t ∧ { t with porch := (s.physStore a (b.map (⟨·, false⟩))).porch } =
        s.physStore a (b.map (⟨·, false⟩)) ∧
      ∀ u ∈ unitsOf a b.length, setHas t.porch.held u = false := by
  unfold State.hostWrite
  dsimp only
  rw [if_neg (by simp [h]), if_neg (by simp [hx])]
  exact ⟨_, rfl, rfl, fun u hu => setHas_filter_not _ _ hu⟩

/-! Requests of the device outside its memory (R392, R399) -/

/-- The byte of host memory, or of a peer's, at an address. -/
def outsideByte (s : State) (space a : Nat) : Byte := if space = 1 then s.hostByteAt a else s.peerByteAt a

theorem farRead_outside (s : State) (pa n : Nat) (h : paSpace pa = 1 ∨ paSpace pa = 2) :
    s.farRead pa n = ((List.range n).map fun j => ⟨outsideByte s (paSpace pa) (pa + j), false⟩, s) := by
  unfold State.farRead outsideByte
  rcases h with h | h <;> rw [h] <;> rfl

theorem farWrite_outside (s : State) (pa : Nat) (data : List PByte) (h : paSpace pa = 1 ∨ paSpace pa = 2) :
    ∀ j < data.length, data[j]?.map (·.v) = some (outsideByte (s.farWrite pa data) (paSpace pa) (pa + j)) := by
  intro j hj
  have hl : j < (data.map (·.v)).length := by rwa [List.length_map]
  rw [← List.getElem?_map]
  unfold State.farWrite outsideByte
  rcases h with h | h <;> rw [h]
  · exact mapGet_putBytes _ _ _ _ hl
  · exact mapGet_putBytes _ _ _ _ hl

theorem bytes_natBytes (n z j : Nat) (h : j < n) :
    (natBytes n z)[j]?.map (·.v) = some (BitVec.ofNat 8 (z / 2 ^ (8 * j))) := by
  unfold natBytes
  rw [List.getElem?_map, getElem?_leBytes _ _ _ h]
  rfl

theorem length_natBytes (n z : Nat) (p : Bool) : (natBytes n z p).length = n := by
  rw [natBytes, List.length_map, length_leBytes]

/-- Event `e` answers flit `f` of a state. -/
def AnswersFlit (e : Instr) (s : State) (f : Flit) (r : HReq) (w : Word) (b : List PByte) : Prop :=
  ∃ t q, exec e s = .next t ∧ Answered { s with nextId := q } t f (.rsp r .ok w b)

theorem answersFlit_of {e : Instr} {s u : State} {f : Flit} {r : HReq} {w : Word} {b : List PByte}
    (h : exec e s = .next (u.answer f (.rsp r .ok w b))) : AnswersFlit e s f r w b :=
  ⟨_, u.nextId, h, answered_answer u f (.rsp r .ok w b)⟩

/-- An answer leaves host memory and the peers'. -/
theorem outsideByte_answer (s : State) (f : Flit) (m : Msg) (space a : Nat) :
    outsideByte (s.answer f m) space a = outsideByte s space a := by
  obtain ⟨i, net, ks, h⟩ := send_eq (s.drop f.id) f.ddie f.dstop f.sdie f.sstop vcRSP f.vd f.gti f.cluster m
  unfold State.answer
  simp only [h]
  rfl

/-- What the porch die does with a request of the device to host memory or to a peer, by its kind. -/
theorem serves_outside {e : Instr} {s : State} {f : Flit} {r : HReq} (hp : paSpace r.addr = 1 ∨ paSpace r.addr = 2)
    (he : exec e s = .next ((s.farServe r).2.2.answer f (.rsp r .ok (s.farServe r).1 (s.farServe r).2.1))) :
    let bytes : List PByte := (List.range r.len).map fun j => ⟨outsideByte s (paSpace r.addr) (r.addr + j), false⟩
    ((r.kind = .read ∨ r.kind = .fetch ∨ r.kind = .join) → AnswersFlit e s f r 0 bytes) ∧
      (r.kind = .write → AnswersFlit e s f r 0 [] ∧ ∃ t, exec e s = .next t ∧
        ∀ j < r.data.length, r.data[j]?.map (·.v) = some (outsideByte t (paSpace r.addr) (r.addr + j))) ∧
      (∀ op cmp, r.kind = .atom op cmp → AnswersFlit e s f r (BitVec.ofNat 64 (bytesNat bytes)) [] ∧
        ∃ t, exec e s = .next t ∧
          ∀ j < r.len, outsideByte t (paSpace r.addr) (r.addr + j) = BitVec.ofNat 8
            (aopVal op (8 * r.len) (bytesNat bytes) (bytesNat r.data) cmp.toNat / 2 ^ (8 * j))) := by
  intro bytes
  have hread := farRead_outside s r.addr r.len hp
  refine ⟨fun hk => ?_, fun hk => ?_, fun op cmp hk => ?_⟩
  · have hserve : s.farServe r = (0, bytes, s) := by
      unfold State.farServe
      rcases hk with hk | hk | hk <;> rw [hk] <;> simp only [hread] <;> rfl
    rw [hserve] at he
    exact answersFlit_of he
  · have hserve : s.farServe r = (0, [], s.farWrite r.addr r.data) := by
      unfold State.farServe
      rw [hk]
    rw [hserve] at he
    refine ⟨answersFlit_of he, _, he, fun j hj => ?_⟩
    rw [outsideByte_answer]
    exact farWrite_outside s r.addr r.data hp j hj
  · have hserve : s.farServe r = (BitVec.ofNat 64 (bytesNat bytes), [], s.farWrite r.addr
        (natBytes r.len (aopVal op (8 * r.len) (bytesNat bytes) (bytesNat r.data) cmp.toNat))) := by
      unfold State.farServe State.farAtomic
      rw [hk]
      simp only [hread]
      rfl
    rw [hserve] at he
    refine ⟨answersFlit_of he, _, he, fun j hj => ?_⟩
    have hl := length_natBytes r.len (aopVal op (8 * r.len) (bytesNat bytes) (bytesNat r.data) cmp.toNat) false
    have := farWrite_outside s r.addr _ hp j (hl ▸ hj)
    rw [bytes_natBytes _ _ _ hj] at this
    rw [outsideByte_answer]
    exact (Option.some.inj this).symm

theorem hostAtomic_serves (s : State) (i : Nat) (f : Flit) (r : HReq) (hf : s.flit? i = some f) (hm : f.msg = .host r) :
    exec (.hostAtomic i) s =
      .next ((s.farServe r).2.2.answer f (.rsp r .ok (s.farServe r).1 (s.farServe r).2.1)) := by
  have he : exec (.hostAtomic i) s = .next ((s.hostAtomic i).getD s) := rfl
  rw [he, State.hostAtomic]
  simp only [hf, hm]
  rfl

/-- A request of the device to a peer, by its place in its cluster's order and by whether it is granted. -/
theorem outbound_spec (s : State) (i : Nat) (f : Flit) (r : HReq) (ok : Bool) (hf : s.flit? i = some f)
    (hm : f.msg = .span r) :
    exec (.spanRequest (.outbound i ok)) s = .next
      (if s.spanFirst f (r.addr / 2 ^ 40 % 16) = false then s
      else if ok = true ∧ s.spanLink (r.addr / 2 ^ 40 % 16) f.cluster ≠ none then
        (s.farServe r).2.2.answer f (.rsp r .ok (s.farServe r).1 (s.farServe r).2.1)
      else s.spanRefused f r) := by
  have he : exec (.spanRequest (.outbound i ok)) s = .next ((s.spanEvent (.outbound i ok)).getD s) := rfl
  rw [he, State.spanEvent]
  simp only [hf, hm]
  cases s.spanFirst f (r.addr / 2 ^ 40 % 16) with
  | false => rfl
  | true =>
    cases ok with
    | false => simp
    | true => cases s.spanLink (r.addr / 2 ^ 40 % 16) f.cluster <;> simp

theorem spanRefused_peerMem (s : State) (f : Flit) (r : HReq) : (s.spanRefused f r).peerMem = s.peerMem := by
  obtain ⟨-, -, h⟩ := logError_spec s (dieOf r.core) r.addr r.vd
  have answer_peerMem (u : State) (m : Msg) : (u.answer f m).peerMem = u.peerMem := by
    obtain ⟨i, net, ks, hs⟩ := send_eq (u.drop f.id) f.ddie f.dstop f.sdie f.sstop vcRSP f.vd f.gti f.cluster m
    unfold State.answer
    simp only [hs]
    rfl
  unfold State.spanRefused
  dsimp only
  split
  · exact (answer_peerMem _ _).trans h
  · exact (answer_peerMem _ _).trans h
  · exact (answer_peerMem _ _).trans h

theorem spanRefused_read (s : State) (f : Flit) (r : HReq) (hk : r.kind = .read) :
    Answered (s.logError (dieOf r.core) r.addr r.vd) (s.spanRefused f r) f
      (.rsp r .ok 0 (List.replicate r.len ⟨0, false⟩)) := by
  unfold State.spanRefused
  rw [hk]
  exact answered_answer _ f _

theorem spanLink_eq (s : State) (peer cl : Nat) :
    s.spanLink peer cl = if ((mapGet [] s.porch.route peer).filter fun k => s.porch.linksUp.getLsbD k) = [] then none
      else ((mapGet [] s.porch.route peer).filter fun k => s.porch.linksUp.getLsbD k)[cl % 512 %
        ((mapGet [] s.porch.route peer).filter fun k => s.porch.linksUp.getLsbD k).length]? := by
  unfold State.spanLink
  split
  · next h => rw [h]; rfl
  · rfl

/-! Requests of a peer (R398, R399) -/

theorem admitted_none (s : State) (peer a n : Nat)
    (h : ∀ x, mapGet? s.porch.admits peer = some x → a < x.base ∨ x.base + x.len < a + n) :
    s.admitted peer a n = none := by
  unfold State.admitted
  cases hx : mapGet? s.porch.admits peer with
  | none => rfl
  | some x =>
    have := h x hx
    refine if_neg ?_
    simp only [Bool.and_eq_true, decide_eq_true_eq]
    omega

theorem admitted_some (s : State) (peer a n : Nat) {x : Admit} (hx : mapGet? s.porch.admits peer = some x)
    (h1 : x.base ≤ a) (h2 : a + n ≤ x.base + x.len) (hu : ∀ u ∈ unitsOf a n, populated (64 * u) = true) :
    s.admitted peer a n = some x.vd := by
  unfold State.admitted
  rw [hx]
  exact if_pos (by simp only [Bool.and_eq_true, decide_eq_true_eq, List.all_eq_true]; exact ⟨⟨h1, h2⟩, hu⟩)

/-- What a peer's request comes to while a link is up, by the device that it is charged to. -/
theorem inbound_of_none (s : State) (peer a n : Nat) (w : Option (List Byte)) (hl : s.porch.linksUp ≠ 0)
    (hn : ∀ b, w = some b → b.length = n) (h : s.admitted peer a n = none) :
    s.inbound peer a n w = some (match w with
      | some _ => s.logError (stackOf a) a 0
      | none => (s.logError (stackOf a) a 0).setRead (List.replicate n 0)) := by
  unfold State.inbound
  extract_lets k l
  have hk : k = n := by
    unfold k
    cases w with
    | none => rfl
    | some b => exact hn b rfl
  rw [if_neg hl, hk, h]
  cases w <;> rfl

theorem inbound_read_of_some (s : State) (peer a n : Nat) {vd : Nat} (hl : s.porch.linksUp ≠ 0)
    (h : s.admitted peer a n = some vd) :
    s.inbound peer a n none = if s.homesBusy .phys (s.leafAt a) a n false then none else
      ((s.readHomes noCluster .phys (s.leafAt a) a n vd).2.setRead
        ((s.readHomes noCluster .phys (s.leafAt a) a n vd).1.map (·.v))
        (anyPoison (s.readHomes noCluster .phys (s.leafAt a) a n vd).1)).whole := by
  unfold State.inbound
  extract_lets k l
  rw [if_neg hl, show s.admitted peer a k = some vd from h]

theorem inbound_write_of_some (s : State) (peer a : Nat) (b : List Byte) {vd : Nat} (hl : s.porch.linksUp ≠ 0)
    (h : s.admitted peer a b.length = some vd) (n : Nat) :
    s.inbound peer a n (some b) = if s.homesBusy .phys (s.leafAt a) a b.length true then none else
      (s.writeHomes noCluster .phys (s.leafAt a) vd a (b.map (⟨·, false⟩))).whole := by
  unfold State.inbound
  extract_lets k l
  rw [if_neg hl, show s.admitted peer a k = some vd from h]

theorem exec_inbound (s : State) (peer : BitVec 4) (a : BitVec 40) (n : Nat) (w : Option (List Byte)) :
    exec (.spanRequest (.inbound peer a n w)) s = .next ((s.inbound peer.toNat a.toNat n w).getD s) := rfl

theorem inbound_refused (s : State) (peer : BitVec 4) (a : BitVec 40) (n : Nat) (hl : s.porch.linksUp ≠ 0)
    (h : s.admitted peer.toNat a.toNat n = none) :
    exec (.spanRequest (.inbound peer a n none)) s =
        .next ((s.logError (a.toNat / 2 ^ 37) a.toNat 0).setRead (List.replicate n 0)) ∧
      ∀ b : List (BitVec 8), b.length = n →
        exec (.spanRequest (.inbound peer a n (some b))) s = .next (s.logError (a.toNat / 2 ^ 37) a.toNat 0) := by
  rw [← stackOf_lt a.toNat a.isLt]
  refine ⟨?_, fun b hb => ?_⟩
  · rw [exec_inbound, inbound_of_none s _ _ n none hl (fun _ h => nomatch h) h]
    rfl
  · rw [exec_inbound, inbound_of_none s _ _ n (some b) hl (fun _ h => Option.some.inj h ▸ hb) h]
    rfl

theorem inbound_down (s : State) (peer : BitVec 4) (a : BitVec 40) (n : Nat) (w : Option (List Byte))
    (hl : s.porch.linksUp = 0) : exec (.spanRequest (.inbound peer a n w)) s = .next s := by
  rw [exec_inbound]
  unfold State.inbound
  extract_lets k l
  rw [if_pos hl]
  rfl

theorem whole_of_short {s : State} (h : s.short = none) : s.whole = some s := by
  rw [State.whole, h]
  rfl

theorem inbound_read (s : State) (peer : BitVec 4) (a : BitVec 40) (n vd : Nat) (hl : s.porch.linksUp ≠ 0)
    (h : s.admitted peer.toNat a.toNat n = some vd) :
    (s.homesBusy .phys (s.leafAt a.toNat) a.toNat n false = true →
        exec (.spanRequest (.inbound peer a n none)) s = .next s) ∧
      (s.homesBusy .phys (s.leafAt a.toNat) a.toNat n false = false →
        ∀ b y, s.readHomes noCluster .phys (s.leafAt a.toNat) a.toNat n vd = (b, y) → y.short = none →
          exec (.spanRequest (.inbound peer a n none)) s = .next (y.setRead (b.map (·.v)) (b.any (·.p)))) := by
  rw [exec_inbound, inbound_read_of_some s _ _ n hl h]
  refine ⟨fun hb => ?_, fun hb b y hr hy => ?_⟩
  · rw [if_pos hb]
    rfl
  · rw [if_neg (by simp [hb]), hr, whole_of_short (show (y.setRead (b.map (·.v)) (anyPoison b)).short = none from hy)]
    rfl

theorem inbound_write (s : State) (peer : BitVec 4) (a : BitVec 40) (n vd : Nat) (hl : s.porch.linksUp ≠ 0)
    (h : s.admitted peer.toNat a.toNat n = some vd)
    (hb : s.homesBusy .phys (s.leafAt a.toNat) a.toNat n true = false) (b : List Byte) (hn : b.length = n)
    (hy : (s.writeHomes noCluster .phys (s.leafAt a.toNat) vd a.toNat (b.map (⟨·, false⟩))).short = none) :
    exec (.spanRequest (.inbound peer a n (some b))) s =
      .next (s.writeHomes noCluster .phys (s.leafAt a.toNat) vd a.toNat (b.map (⟨·, false⟩))) := by
  subst hn
  rw [exec_inbound, inbound_write_of_some s _ _ b hl h, if_neg (by simp [hb]), whole_of_short hy]
  rfl

theorem natBytes_eq (n z : Nat) :
    natBytes n z = (List.range n).map fun j => (⟨BitVec.ofNat 8 (z / 2 ^ (8 * j)), false⟩ : PByte) := by
  unfold natBytes leBytes
  rw [List.map_map]
  refine List.map_congr_left fun j _ => ?_
  rw [Function.comp, Nat.pow_mul]

theorem inboundAtom_spec (s : State) (peer : BitVec 4) (a : BitVec 40) (n vd : Nat) (hl : s.porch.linksUp ≠ 0)
    (h : s.admitted peer.toNat a.toNat n = some vd)
    (hb : s.homesBusy .phys (s.leafAt a.toNat) a.toNat n true = false) (op : AOp) (v cmp : Word) (b : List PByte)
    (y z : State) (hr : s.readHomes noCluster .phys (s.leafAt a.toNat) a.toNat n vd = (b, y)) (hp : b.any (·.p) = false)
    (hz : (y.setRead (b.map (·.v))).writeHomes noCluster .phys (s.leafAt a.toNat) vd a.toNat
      ((List.range n).map fun j =>
        ⟨BitVec.ofNat 8 (aopVal op (8 * n) (bytesNat b) v.toNat cmp.toNat / 2 ^ (8 * j)), false⟩) = z)
    (hs : z.short = none) : exec (.spanRequest (.inboundAtom peer a n op v cmp)) s = .next z := by
  have he : exec (.spanRequest (.inboundAtom peer a n op v cmp)) s =
    .next ((s.inboundAtom peer.toNat a.toNat n op v cmp).getD s) := rfl
  have hp' : anyPoison b = false := hp
  rw [he, State.inboundAtom]
  simp only [if_neg hl, h, hb, Bool.false_eq_true, if_false, hr, hp', natBytes_eq]
  rw [show (y.setRead (b.map (·.v)) false) = y.setRead (b.map (·.v)) from rfl, hz, whole_of_short hs]
  rfl

/-- The clauses on the host, host memory and the peers. -/
theorem hostAndPeers_accesses : Claim.HostAndPeers := by
  intro s
  refine ⟨fun a n => ?_, fun u b hu => ?_, fun i f r hf => ?_, fun peer cl => spanLink_eq s peer cl, fun peer a n => ?_⟩
  · intro m rd held l
    refine ⟨fun h => hostAccess_closed s a n h, fun h hu hw b x hr hx => ?_, fun h hu hw => ?_,
      fun h hu => hostAccess_unpopulated s a n h hu, fun b hb h hu hw => ?_⟩
    · obtain ⟨t, ht, hread, hpoison, hheld⟩ := hostRead_spec s x m n b hw hr hx
      refine ⟨t, (hostAccess_populated s a n h hu).1.trans ?_, hread, hpoison, hheld⟩
      exact congrArg (fun o : Option State => Host.Outcome.next (o.getD s)) ht
    · refine (hostAccess_populated s a n h hu).1.trans ?_
      exact congrArg (fun o : Option State => Host.Outcome.next (o.getD s)) (hostRead_waits s m n hw)
    · subst hb
      intro x hx
      obtain ⟨t, ht, hsame, hfree⟩ := hostWrite_spec s m b hw hx
      refine ⟨t, ((hostAccess_populated s a b.length h hu).2 b).trans ?_, hsame, hfree⟩
      exact congrArg (fun o : Option State => Host.Outcome.next (o.getD s)) ht
  · have he : exec (.backInvalidation u b) s = .next ((s.backInvalidate u b).getD s) := rfl
    rw [he, State.backInvalidate, if_neg (by simp [hu])]
    rfl
  · intro answers old now bytes serves
    refine ⟨fun hm hp => ?_, fun hm hp => ?_⟩
    · exact serves_outside (.inl hp) (hostAtomic_serves s i f r hf hm)
    · intro peer
      refine ⟨fun hfirst ok => ?_, fun hfirst hlink => serves_outside (.inr hp) ?_, fun hfirst ok hno => ⟨?_, spanRefused_peerMem s f r,
        fun hk => ⟨_, spanRefused_read s f r hk⟩⟩⟩
      · rw [outbound_spec s i f r ok hf hm, if_pos hfirst]
      · rw [outbound_spec s i f r true hf hm, if_neg (Bool.not_eq_false _ |>.mpr hfirst), if_pos ⟨rfl, hlink⟩]
      · rw [outbound_spec s i f r ok hf hm, if_neg (Bool.not_eq_false _ |>.mpr hfirst), if_neg]
        rintro ⟨h1, h2⟩
        rcases hno with h | h
        · exact absurd (h1.symm.trans h) (by decide)
        · exact h2 h
  · intro m l rd bad
    refine ⟨fun hl b => inbound_down s peer a n b hl, fun hl h => inbound_refused s peer a n hl (admitted_none s _ _ _ h),
      fun x hl hx h1 h2 hu => ?_⟩
    have hadm := admitted_some s peer.toNat m n hx h1 h2 hu
    obtain ⟨hbusy, hread⟩ := inbound_read s peer a n x.vd hl hadm
    refine ⟨hbusy, hread, fun hb => ⟨fun b hn hy => inbound_write s peer a n x.vd hl hadm hb b hn hy, ?_⟩⟩
    intro op v cmp b y hr hp z hz
    exact inboundAtom_spec s peer a n x.vd hl hadm hb op v cmp b y z hr hp rfl hz

/-- Settles O55: the window by its reads and writes, the accesses by what each is performed as. -/
theorem hostAndPeers : Obligations.HostAndPeers :=
  ⟨hostWindow, hostAndPeers_accesses⟩

end Sys2Proof.Safety
end

section
/-! SUPPORT. Trace records and leases (R401, R402, R404, R405). -/

namespace Sys2Proof.Safety
open Sys2Proof.Machine

/-! The trace unit of a die (R402, R404) -/

/-- The size of the unit's buffer in bytes. -/
def traceSize (t : Trace) : Nat := (t.size.extractLsb' 0 16).toNat * 65536

theorem traceSize_le (t : Trace) : traceSize t ≤ 2 ^ 32 := by
  have := (t.size.extractLsb' 0 16).isLt
  unfold traceSize
  omega

theorem wrap_inside (t : Trace) (h : t.head.toNat < traceSize t) : t.wrap = t :=
  if_pos h

theorem wrap_outside (t : Trace) (h : ¬ t.head.toNat < traceSize t) :
    (t.ctl.extractLsb' 32 2 = 0 → t.wrap.head = 0) ∧ (t.ctl.extractLsb' 32 2 ≠ 0 → t.wrap.full = true) := by
  unfold traceSize at h
  unfold Trace.wrap
  rw [if_neg h]
  exact ⟨fun hc => by rw [if_pos hc], fun hc => by rw [if_neg hc]⟩

theorem wrap_full (t : Trace) (h : t.full = true) : t.wrap.full = true ∧ t.wrap.lost = t.lost ∧ t.wrap.sync = t.sync := by
  unfold Trace.wrap
  split
  · exact ⟨h, rfl, rfl⟩
  · split
    · exact ⟨h, rfl, rfl⟩
    · exact ⟨rfl, rfl, rfl⟩

theorem head_moved (t : Trace) (h : t.head.toNat < traceSize t) : (t.head + 8).toNat = t.head.toNat + 8 := by
  have := traceSize_le t
  rw [BitVec.toNat_add, show (8 : Word).toNat = 8 from rfl]
  omega

/-- The unit after it has written a record at its head. -/
def written (t : Trace) : Trace := ({ t with head := t.head + 8 } : Trace).wrap

theorem written_sync (t : Trace) : (written t).sync = t.sync := by
  unfold written Trace.wrap
  split
  · rfl
  · split <;> rfl

theorem written_inside (t : Trace) (h : t.head.toNat < traceSize t) (h8 : t.head.toNat + 8 < traceSize t) :
    written t = { t with head := t.head + 8 } :=
  wrap_inside { t with head := t.head + 8 } (by show (t.head + 8).toNat < _; rw [head_moved t h]; exact h8)

theorem written_atEnd (t : Trace) (h : t.head.toNat < traceSize t) (h8 : traceSize t ≤ t.head.toNat + 8) :
    (t.ctl.extractLsb' 32 2 = 0 → (written t).head = 0) ∧ (t.ctl.extractLsb' 32 2 ≠ 0 → (written t).full = true) := by
  have hn : ¬ ({ t with head := t.head + 8 } : Trace).head.toNat < traceSize t := by
    show ¬ (t.head + 8).toNat < _
    rw [head_moved t h]
    omega
  exact wrap_outside _ hn

/-- A doubleword written to host memory. -/
def hostPut (s : State) (pa w : Nat) : State := { s with hostMem := putBytes s.hostMem pa (leBytes 8 w) }

theorem hostByteAt_hostPut (s : State) (pa w j : Nat) (hj : j < 8) :
    (hostPut s pa w).hostByteAt (pa + j) = BitVec.ofNat 8 (w / 2 ^ (8 * j)) := by
  have h := mapGet_putBytes (Config.hostByte (pa + j)) s.hostMem pa (leBytes 8 w)
    (j := j) (by rw [length_leBytes]; exact hj)
  rw [getElem?_leBytes _ _ _ hj] at h
  exact (Option.some.inj h).symm

theorem hostByteAt_setDie (s : State) (d : Nat) (x : Die) (a : Nat) : (s.setDie d x).hostByteAt a = s.hostByteAt a := rfl

/-- A state with another host memory and another die, with nothing short. -/
def writtenOf (s : State) (m : SMap Byte) (d : Nat) (x : Die) : State := (({ s with hostMem := m } : State).setDie d x).anyway

theorem writtenOf_spec (s : State) (m : SMap Byte) (d : Nat) (x : Die) : (writtenOf s m d x).hostMem = m ∧
    (writtenOf s m d x).cores = s.cores ∧ (writtenOf s m d x).dies = mapPut s.dies d x := ⟨rfl, rfl, rfl⟩

theorem written_eq (s : State) (pa w d : Nat) (x : Die) :
    ((hostPut s pa w).setDie d x).anyway = writtenOf s (putBytes s.hostMem pa (leBytes 8 w)) d x := by
  rw [writtenOf, hostPut]

theorem short_withHostMem (s : State) (m : SMap Byte) (d : Nat) (x : Die) :
    (({ s with hostMem := m } : State).setDie d x).short = s.short := rfl

theorem short_written (s : State) (pa w d : Nat) (x : Die) : ((hostPut s pa w).setDie d x).short = s.short := by
  rw [hostPut, short_withHostMem]

theorem hostByteAt_writtenOf (s : State) (m : SMap Byte) (d : Nat) (x : Die) (a : Nat) :
    (writtenOf s m d x).hostByteAt a = mapGet (Config.hostByte a) m a := by
  rw [State.hostByteAt, (writtenOf_spec s m d x).1]

theorem hostByteAt_written (s : State) (pa w d : Nat) (x : Die) {j : Nat} (hj : j < 8) :
    (((hostPut s pa w).setDie d x).anyway).hostByteAt (pa + j) = BitVec.ofNat 8 (w / 2 ^ (8 * j)) := by
  rw [written_eq, hostByteAt_writtenOf, ← hostByteAt_hostPut s pa w j hj, State.hostByteAt, hostPut]

theorem core_written (s : State) (pa w d : Nat) (x : Die) (c : Nat) :
    (((hostPut s pa w).setDie d x).anyway).core c = s.core c := by
  rw [written_eq, State.core, (writtenOf_spec ..).2.1, State.core]

theorem die_written (s : State) (pa w d : Nat) (x : Die) : (((hostPut s pa w).setDie d x).anyway).die d = x := by
  rw [written_eq, State.die, (writtenOf_spec ..).2.2, mapGet_mapPut, if_pos rfl]

theorem hostByteAt_written_below (s : State) (pa w d : Nat) (x : Die) {i : Nat} (h : i < pa) :
    (((hostPut s pa w).setDie d x).anyway).hostByteAt i = s.hostByteAt i := by
  rw [written_eq, hostByteAt_writtenOf, mapGet_putBytes_outside _ _ _ _ (.inl h), State.hostByteAt]

/-- A record that lies in host memory is written at the head. -/
theorem putRecord_host (s : State) (d w n : Nat) (hf : (s.die d).trace.full = false)
    (hi : (s.die d).trace.head.toNat < traceSize (s.die d).trace)
    (hp : paSpace ((s.die d).trace.base.toNat + (s.die d).trace.head.toNat) = 1) :
    s.putRecord d w n =
      (true, (hostPut s ((s.die d).trace.base.toNat + (s.die d).trace.head.toNat) w).setDie d
        { s.die d with trace := written (s.die d).trace }) := by
  unfold State.putRecord
  rw [wrap_inside _ hi]
  dsimp only
  rw [if_neg (by simp [hf]), if_neg (by rw [hp]; decide), State.farWrite, if_pos hp]
  have hb : (natBytes 8 w).map (·.v) = leBytes 8 w := by
    unfold natBytes
    rw [List.map_map]
    exact List.map_id' _
  rw [hb]
  rfl

/-- A step of a unit whose buffer is full: `n` more records are lost, and nothing is written. -/
structure CountsOnly (d : Nat) (s t : State) (n : Nat) : Prop where
  cores : t.cores = s.cores
  host : t.hostMem = s.hostMem
  mem : t.mem = s.mem
  short : t.short = s.short
  full : (t.die d).trace.full = true
  lost : (t.die d).trace.lost = (s.die d).trace.lost + n

theorem CountsOnly.trans {d : Nat} {s t u : State} {m n : Nat} (h : CountsOnly d s t m) (h' : CountsOnly d t u n) :
    CountsOnly d s u (m + n) :=
  ⟨h'.cores.trans h.cores, h'.host.trans h.host, h'.mem.trans h.mem, h'.short.trans h.short, h'.full, by
    rw [h'.lost, h.lost, Nat.add_assoc]⟩

theorem countsOnly_self {d : Nat} {s : State} (h : (s.die d).trace.full = true) : CountsOnly d s s 0 :=
  ⟨rfl, rfl, rfl, rfl, h, rfl⟩

/-- A die whose unit has only counted. -/
theorem countsOnly_setTrace {s : State} {d n : Nat} {t : Trace} (hf : t.full = true) (hl : t.lost = (s.die d).trace.lost) :
    CountsOnly d s (s.setDie d { s.die d with trace := { t with lost := t.lost + n } }) n :=
  ⟨rfl, rfl, rfl, rfl, by rw [die_setDie]; exact hf, by rw [die_setDie, ← hl]⟩

theorem putRecord_full {s : State} {d : Nat} (w n : Nat) (h : (s.die d).trace.wrap.full = true) : s.putRecord d w n =
    (false, s.setDie d { s.die d with trace :=
      { (s.die d).trace.wrap with lost := (s.die d).trace.wrap.lost + n } }) := if_pos h

theorem countsOnly_putRecord (s : State) (d w n : Nat) (h : (s.die d).trace.full = true) :
    (s.putRecord d w n).1 = false ∧ CountsOnly d s (s.putRecord d w n).2 n := by
  obtain ⟨hf, hl, -⟩ := wrap_full _ h
  rw [putRecord_full w n hf]
  exact ⟨rfl, countsOnly_setTrace hf hl⟩

theorem countsOnly_writeSync (s : State) (d cycle : Nat) (h : (s.die d).trace.full = true) :
    CountsOnly d s (s.writeSync d cycle) 0 := by
  have h1 := countsOnly_putRecord s d (syncWord cycle) 0 h
  obtain ⟨⟨ok, u⟩, hp⟩ : ∃ x, s.putRecord d (syncWord cycle) 0 = x := ⟨_, rfl⟩
  rw [hp] at h1
  rw [State.writeSync, hp]
  obtain ⟨hok, hu⟩ := h1
  rw [show ok = false from hok]
  exact hu

theorem countsOnly_putSync (s : State) (d cycle : Nat) (h : (s.die d).trace.full = true) :
    CountsOnly d s (s.putSync d cycle) 0 := by
  unfold State.putSync
  extract_lets t u
  have hu : CountsOnly d s u 0 := by
    unfold u
    split
    · exact countsOnly_writeSync s d _ h
    · exact countsOnly_self h
  split
  · split
    · exact hu
    · exact hu.trans (countsOnly_writeSync u d cycle hu.full)
  · exact hu

/-- The SYNCs that a record needs before it: none, when the last reaches it. -/
theorem putSync_reached (s : State) (d cycle c0 : Nat) (h : (s.die d).trace.sync = some c0) (h1 : c0 ≤ cycle)
    (h2 : cycle ≤ c0 + 4095) : s.putSync d cycle = s := by
  unfold State.putSync
  simp [h, h1, h2]

theorem putLost_none (s : State) (d : Nat) (h : (s.die d).trace.lost = 0 ∨ (s.die d).trace.full = true) :
    s.putLost d = s := by
  unfold State.putLost
  dsimp only
  rw [if_pos (by simpa using h)]

theorem setDie_setDie (s : State) (d : Nat) (x y : Die) : (s.setDie d x).setDie d y = s.setDie d y := by
  unfold State.setDie
  dsimp only
  rw [mapPut_mapPut]

theorem writeSync_written {s u : State} {d cycle : Nat} (h : s.putRecord d (syncWord cycle) 0 = (true, u)) :
    s.writeSync d cycle = u.setDie d { u.die d with trace := { (u.die d).trace with sync := some cycle } } := by
  rw [State.writeSync, h]
  exact if_pos rfl

/-- The first SYNC, of the cycle in which tracing began. -/
theorem putSync_first (s : State) (d cycle : Nat) (hs : (s.die d).trace.sync = none)
    (hf : (s.die d).trace.full = false) (h1 : (s.die d).trace.began ≤ cycle) (h2 : cycle ≤ (s.die d).trace.began + 4095)
    (hi : (s.die d).trace.head.toNat < traceSize (s.die d).trace)
    (hp : paSpace ((s.die d).trace.base.toNat + (s.die d).trace.head.toNat) = 1) :
    s.putSync d cycle =
      (hostPut s ((s.die d).trace.base.toNat + (s.die d).trace.head.toNat) (syncWord (s.die d).trace.began)).setDie d
        { s.die d with trace := { written (s.die d).trace with sync := some (s.die d).trace.began } } := by
  have hw : s.writeSync d (s.die d).trace.began =
      (hostPut s ((s.die d).trace.base.toNat + (s.die d).trace.head.toNat) (syncWord (s.die d).trace.began)).setDie d
        { s.die d with trace := { written (s.die d).trace with sync := some (s.die d).trace.began } } := by
    rw [writeSync_written (putRecord_host s d _ 0 hf hi hp), die_setDie, setDie_setDie]
  unfold State.putSync
  simp [hs, hw, die_setDie, h1, h2]

/-- The unit does not trace a record. -/
def Untraced (t : Trace) (r : Stamp) : Prop :=
  t.ctl.getLsbD 0 = false ∨ t.size.extractLsb' 0 16 = 0 ∨
    (r.kind ≠ 8 ∧ t.vds.getLsbD (r.gti.extractLsb' 26 6).toNat = false)

/-- The record of a stamp. -/
def recordOf (r : Stamp) (delta : Nat) : Nat := recordWord r.gti.toNat r.aux.toNat r.kind delta

/-- What TRACE_WRITE comes to while no place in the buffer is held: the record leaves its core, and is written when the
unit traces it. -/
theorem traceWrite_eq (s : State) (c : Nat) {r : Stamp} {l : List Stamp} (hst : (s.core c).stamps = r :: l)
    (hh : s.traceHeld (dieOf c) = false) {b : State} (hb : s.setCore c { s.core c with stamps := l } = b) :
    (Untraced (s.die (dieOf c)).trace r → exec (.traceWrite (dieOf c) c) s = .next b) ∧
      (¬ Untraced (s.die (dieOf c)).trace r → exec (.traceWrite (dieOf c) c) s = .next ((
        (((b.putSync (dieOf c) r.cycle).putLost (dieOf c)).putRecord (dieOf c) (recordOf r (if r.kind = 8 then 0
            else r.cycle - (((b.putSync (dieOf c) r.cycle).putLost (dieOf c)).die (dieOf c)).trace.sync.getD r.cycle))
          (if r.kind = 8 then r.aux.toNat else 1)).2.ease.whole).getD s)) := by
  have he : exec (.traceWrite (dieOf c) c) s = .next ((s.traceWrite (dieOf c) c).getD s) := rfl
  have hc : (!((s.die (dieOf c)).trace.ctl.getLsbD 0 && decide ((s.die (dieOf c)).trace.size.extractLsb' 0 16 ≠ 0)) ||
      !(decide (r.kind = 8) || (s.die (dieOf c)).trace.vds.getLsbD (r.gti.extractLsb' 26 6).toNat)) = true ↔
      Untraced (s.die (dieOf c)).trace r := by
    unfold Untraced
    generalize (s.die (dieOf c)).trace.ctl.getLsbD 0 = p
    generalize (s.die (dieOf c)).trace.vds.getLsbD (r.gti.extractLsb' 26 6).toNat = q
    cases p <;> cases q <;> simp
  have hd : (b.die (dieOf c)).trace = (s.die (dieOf c)).trace := by subst hb; rfl
  rw [he, State.traceWrite]
  simp only [hst]
  rw [if_neg (by simp [hh]), hb, hd]
  refine ⟨fun h => ?_, fun h => ?_⟩
  · rw [if_pos (hc.mpr h)]
    rfl
  · rw [if_neg (fun h' => h (hc.mp h'))]
    rfl

theorem traceWrite_held (s : State) (c : Nat) {r : Stamp} {l : List Stamp} (hst : (s.core c).stamps = r :: l)
    (hh : s.traceHeld (dieOf c) = true) : exec (.traceWrite (dieOf c) c) s = .next s := by
  have he : exec (.traceWrite (dieOf c) c) s = .next ((s.traceWrite (dieOf c) c).getD s) := rfl
  rw [he, State.traceWrite]
  simp only [hst]
  rw [if_pos (by simp [hh])]
  rfl

theorem ease_whole {t : State} (h : t.short = none) : t.ease.whole = some t.anyway := by
  unfold State.ease
  rw [if_neg (by rw [h]; exact fun h => nomatch h)]
  rfl

/-- What the unit makes of a record that has left its core, in state `b`. -/
def recordTaken (b : State) (c : Nat) (r : Stamp) : Option State :=
  (((b.putSync (dieOf c) r.cycle).putLost (dieOf c)).putRecord (dieOf c) (recordOf r (if r.kind = 8 then 0
      else r.cycle - (((b.putSync (dieOf c) r.cycle).putLost (dieOf c)).die (dieOf c)).trace.sync.getD r.cycle))
    (if r.kind = 8 then r.aux.toNat else 1)).2.ease.whole

/-- The state in which a core's oldest record, of a device that the unit traces, has left it. -/
structure RecordLeft (s b : State) (c : Nat) (r : Stamp) (l : List Stamp) : Prop where
  die : ∀ d, b.die d = s.die d
  short : b.short = none
  host : b.hostMem = s.hostMem
  mem : b.mem = s.mem
  stamps : (b.core c).stamps = l
  exec : exec (.traceWrite (dieOf c) c) s = .next ((recordTaken b c r).getD s)

theorem recordLeft (s : State) (c : Nat) {r : Stamp} {l : List Stamp} (hst : (s.core c).stamps = r :: l)
    (hon : ¬ Untraced (s.die (dieOf c)).trace r) (hh : s.traceHeld (dieOf c) = false) (hs : s.short = none) :
    ∃ b, RecordLeft s b c r l := by
  obtain ⟨b, hb⟩ : ∃ b, s.setCore c { s.core c with stamps := l } = b := ⟨_, rfl⟩
  have he := (traceWrite_eq s c hst hh hb).2 hon
  refine ⟨b, fun d => ?_, ?_, ?_, ?_, ?_, he⟩ <;> rw [← hb]
  · rfl
  · exact hs
  · rfl
  · rfl
  · rw [core_setCore]

/-- A record that meets a full buffer is counted. -/
theorem traceWrite_full {s b : State} {c : Nat} {r : Stamp} {l : List Stamp} (h : RecordLeft s b c r l)
    (hf : (s.die (dieOf c)).trace.full = true) :
    ∃ t, exec (.traceWrite (dieOf c) c) s = .next t ∧ (t.core c).stamps = l ∧ t.hostMem = s.hostMem ∧
      t.mem = s.mem ∧ (t.die (dieOf c)).trace.full = true ∧
      (t.die (dieOf c)).trace.lost = (s.die (dieOf c)).trace.lost + if r.kind = 8 then r.aux.toNat else 1 := by
  obtain ⟨hd, hbs, hhost, hmem, hc, he⟩ := h
  rw [recordTaken] at he
  have hbf : (b.die (dieOf c)).trace.full = true := by rw [hd]; exact hf
  have h1 := countsOnly_putSync b (dieOf c) r.cycle hbf
  rw [putLost_none _ _ (.inr h1.full)] at he
  obtain ⟨w, n, u, hn, hu, hw⟩ : ∃ w n u, n = (if r.kind = 8 then r.aux.toNat else 1) ∧
      ((b.putSync (dieOf c) r.cycle).putRecord (dieOf c) w n).2 = u ∧
      exec (.traceWrite (dieOf c) c) s = .next (u.ease.whole.getD s) := ⟨_, _, _, rfl, rfl, he⟩
  have h2 := h1.trans (countsOnly_putRecord _ (dieOf c) w n h1.full).2
  rw [hu] at h2
  rw [ease_whole (h2.short.trans hbs)] at hw
  refine ⟨_, hw, ?_, h2.host.trans hhost, h2.mem.trans hmem, h2.full, ?_⟩
  · exact (congrArg (fun l : SMap Core => (mapGet Core.init l c).stamps) h2.cores).trans hc
  · refine h2.lost.trans ?_
    rw [hd, Nat.zero_add, hn]

/-- A record that the last SYNC reaches is written at the head. -/
theorem traceWrite_reached {s b : State} {c : Nat} {r : Stamp} {l : List Stamp} (h : RecordLeft s b c r l) {tr : Trace}
    (htr : (s.die (dieOf c)).trace = tr) (hf : tr.full = false) (hl : tr.lost = 0) (hi : tr.head.toNat < traceSize tr)
    (hp : paSpace (tr.base.toNat + tr.head.toNat) = 1) (c0 : Nat) (hsync : tr.sync = some c0) (h1 : c0 ≤ r.cycle)
    (h2 : r.cycle ≤ c0 + 4095) :
    ∃ t, exec (.traceWrite (dieOf c) c) s = .next t ∧ (t.core c).stamps = l ∧
      (∀ j < 8, t.hostByteAt (tr.base.toNat + tr.head.toNat + j) =
        BitVec.ofNat 8 (recordOf r (if r.kind = 8 then 0 else r.cycle - c0) / 2 ^ (8 * j))) ∧
      (t.die (dieOf c)).trace = written tr := by
  subst htr
  obtain ⟨hd, hbs, -, -, hc, he⟩ := h
  rw [recordTaken] at he
  have hsy := putSync_reached b (dieOf c) r.cycle c0 (by rw [hd]; exact hsync) h1 h2
  have hlo := putLost_none b (dieOf c) (.inl (by rw [hd]; exact hl))
  rw [hsy, hlo, putRecord_host b (dieOf c) _ _ (by rw [hd]; exact hf) (by rw [hd]; exact hi) (by rw [hd]; exact hp),
    ease_whole ((short_written b _ _ _ _).trans hbs), hd, hsync] at he
  dsimp only [Option.getD_some] at he
  refine ⟨_, he, ?_, fun j hj => hostByteAt_written b _ _ _ _ hj, ?_⟩
  · rw [core_written]
    exact hc
  · rw [die_written]

/-- The first record of all goes behind a SYNC. -/
theorem traceWrite_first {s b : State} {c : Nat} {r : Stamp} {l : List Stamp} (h : RecordLeft s b c r l) {tr : Trace}
    (htr : (s.die (dieOf c)).trace = tr) (hf : tr.full = false) (hl : tr.lost = 0) (hi : tr.head.toNat < traceSize tr)
    (hp : paSpace (tr.base.toNat + tr.head.toNat) = 1) (hsync : tr.sync = none) (h1 : tr.began ≤ r.cycle)
    (h2 : r.cycle ≤ tr.began + 4095) (h8 : tr.head.toNat + 8 < traceSize tr)
    (hp8 : paSpace (tr.base.toNat + (tr.head.toNat + 8)) = 1) :
    ∃ t, exec (.traceWrite (dieOf c) c) s = .next t ∧ (t.core c).stamps = l ∧
      (t.die (dieOf c)).trace.sync = some tr.began ∧
      (∀ j < 8, t.hostByteAt (tr.base.toNat + tr.head.toNat + j) =
        BitVec.ofNat 8 (syncWord tr.began / 2 ^ (8 * j))) ∧
      ∀ j < 8, t.hostByteAt (tr.base.toNat + (tr.head.toNat + 8) + j) =
        BitVec.ofNat 8 (recordOf r (if r.kind = 8 then 0 else r.cycle - tr.began) / 2 ^ (8 * j)) := by
  obtain ⟨hd, hbs, -, -, hc, he⟩ := h
  rw [recordTaken] at he
  have hsy := putSync_first b (dieOf c) r.cycle (by rw [hd, htr]; exact hsync) (by rw [hd, htr]; exact hf) (by rw [hd, htr]; exact h1)
    (by rw [hd, htr]; exact h2) (by rw [hd, htr]; exact hi) (by rw [hd, htr]; exact hp)
  rw [hd, htr] at hsy
  obtain ⟨u, hu⟩ : ∃ u, u = b.putSync (dieOf c) r.cycle := ⟨_, rfl⟩
  have hut : (u.die (dieOf c)).trace = { tr with head := tr.head + 8, sync := some tr.began } := by
    rw [hu, hsy, die_setDie]
    show { written tr with sync := some tr.began } = _
    rw [written_inside tr hi h8]
  have hhead : (tr.head + 8).toNat = tr.head.toNat + 8 := head_moved tr hi
  have hlo := putLost_none u (dieOf c) (.inl (by rw [hut]; exact hl))
  have hput := putRecord_host u (dieOf c) (recordOf r (if r.kind = 8 then 0 else r.cycle - tr.began))
    (if r.kind = 8 then r.aux.toNat else 1) (by rw [hut]; exact hf)
    (by rw [hut]; show (tr.head + 8).toNat < _; rw [hhead]; exact h8)
    (by rw [hut]; show paSpace (_ + (tr.head + 8).toNat) = 1; rw [hhead]; exact hp8)
  have hus : u.short = none := by rw [hu, hsy]; exact hbs
  rw [← hu, hlo, show (u.die (dieOf c)).trace.sync.getD r.cycle = tr.began by rw [hut]; rfl] at he
  rw [hput] at he
  dsimp only at he
  rw [ease_whole ((short_written u _ _ _ _).trans hus), hut] at he
  dsimp only [Option.getD_some] at he
  rw [hhead] at he
  refine ⟨_, he, ?_, ?_, fun j hj => ?_, fun j hj => ?_⟩
  · rw [core_written, hu, hsy]
    exact hc
  · rw [die_written]
    exact written_sync _
  · have hlt : tr.base.toNat + tr.head.toNat + j < tr.base.toNat + (tr.head.toNat + 8) := by
      rw [Nat.add_assoc]
      exact Nat.add_lt_add_left (Nat.add_lt_add_left hj _) _
    have h3 : u.hostByteAt (tr.base.toNat + tr.head.toNat + j) =
        BitVec.ofNat 8 (syncWord tr.began / 2 ^ (8 * j)) := by
      rw [hu, hsy]
      exact (hostByteAt_setDie ..).trans (hostByteAt_hostPut b (tr.base.toNat + tr.head.toNat) (syncWord tr.began) j hj)
    rw [hostByteAt_written_below u _ _ _ _ hlt]
    exact h3
  · exact hostByteAt_written u _ _ _ _ hj

/-! Leases (R405) -/

theorem askPreempt_core (s : State) (c d : Nat) :
    ((s.askPreempt c true).core d).saved = (s.core d).saved ∧
      ((s.core d).preL = true → ((s.askPreempt c true).core d).preL = true) ∧
      (c = d → (s.core d).saved.any (·.landlord) = false → ((s.askPreempt c true).core d).preL = true) := by
  unfold State.askPreempt
  dsimp only
  rw [if_pos rfl]
  split
  · next h => exact ⟨rfl, id, fun hcd hn => absurd (hn.symm.trans (hcd ▸ h)) (by decide)⟩
  · rw [core_setCore_eq]
    split
    · next h => exact ⟨h ▸ rfl, fun _ => rfl, fun _ _ => rfl⟩
    · next h => exact ⟨rfl, id, fun hcd => absurd hcd.symm h⟩

/-- Every core of a list that the landlord has not saved is asked. -/
theorem foldl_askPreempt_core (l : List Nat) (s : State) (d : Nat) :
    ((l.foldl (fun s c => s.askPreempt c true) s).core d).saved = (s.core d).saved ∧
      ((s.core d).preL = true → ((l.foldl (fun s c => s.askPreempt c true) s).core d).preL = true) ∧
      (d ∈ l → (s.core d).saved.any (·.landlord) = false →
        ((l.foldl (fun s c => s.askPreempt c true) s).core d).preL = true) := by
  induction l generalizing s with
  | nil => exact ⟨rfl, id, fun h => absurd h List.not_mem_nil⟩
  | cons c l ih =>
    obtain ⟨h1, h2, h3⟩ := askPreempt_core s c d
    obtain ⟨i1, i2, i3⟩ := ih (s.askPreempt c true)
    refine ⟨i1.trans h1, fun h => i2 (h2 h), fun hm hn => ?_⟩
    rcases List.mem_cons.mp hm with rfl | hm
    · exact i2 (h3 rfl hn)
    · exact i3 hm (h1 ▸ hn)

theorem foldl_askPreempt_porch (l : List Nat) (s : State) :
    (l.foldl (fun s c => s.askPreempt c true) s).porch = s.porch := by
  induction l generalizing s with
  | nil => rfl
  | cons c l ih =>
    refine (ih _).trans ?_
    unfold State.askPreempt
    dsimp only
    rw [if_pos rfl]
    split <;> rfl

/-- The cores that a slice asks for now. -/
def asked (s : State) (vd : Nat) : List Nat :=
  (s.leaseCores vd).filter fun c => !(s.core c).preL && !s.anyTrapped c

theorem mem_asked (s : State) (vd c : Nat) :
    c ∈ asked s vd ↔ c ∈ s.leaseCores vd ∧ (s.core c).preL = false ∧ s.anyTrapped c = false := by
  simp [asked]

theorem leaseAsk_spec (s : State) (vd : Nat) :
    { (s.leaseAsk (asked s vd)).porch.lease with saved := s.porch.lease.saved } = s.porch.lease ∧
      ∀ c, (c ∈ asked s vd → ((s.leaseAsk (asked s vd)).core c).preL = true) ∧
        (setHas (s.leaseAsk (asked s vd)).porch.lease.saved c = true ↔
          setHas s.porch.lease.saved c = true ∨ c ∈ asked s vd) := by
  have hp := foldl_askPreempt_porch (asked s vd) s
  refine ⟨?_, fun c => ⟨fun hc => ?_, ?_⟩⟩
  · unfold State.leaseAsk
    dsimp only
    rw [hp]
  · refine (foldl_askPreempt_core (asked s vd) s c).2.2 hc ?_
    have := ((mem_asked s vd c).mp hc).1
    rw [State.leaseCores, List.mem_filter] at this
    simp only [Bool.and_eq_true, Bool.not_eq_true'] at this
    exact this.2.2
  · show setHas (List.foldl setAdd (State.porch (List.foldl _ s _)).lease.saved _) c = true ↔ _
    rw [hp, setHas_foldl_setAdd, or_comm]

/-- What LEASE_SLICE_START does when a device's turn has come. -/
theorem leaseStart_eq (s : State) {vd : Nat} {l : List Nat} (ha : s.porch.lease.active = none)
    (hq : s.porch.lease.queue = vd :: l) :
    exec .leaseSliceStart s = .next ((
      let w := mapGet 0 s.porch.lease.words vd
      if (w.extractLsb' 48 16).toNat = 0 ∨ (w.extractLsb' 0 32).toNat = 0 ∨ s.cycle < s.porch.lease.notBefore ∨
          s.porch.lease.owed ≠ [] then none
      else if asked s vd ≠ [] then some (s.leaseAsk (asked s vd))
      else if s.leaseCores vd ≠ [] ∨ s.othersInFlight vd = true then none
      else some { s with porch := { s.porch with lease := { s.porch.lease with
        words := mapPut s.porch.lease.words vd
          (BitVec.ofNat 64 (((w.extractLsb' 48 16).toNat - 1) * 2 ^ 48 + (w.extractLsb' 0 32).toNat))
        active := some vd, endAt := s.cycle + (w.extractLsb' 0 32).toNat } } }).getD s) := by
  have he : exec .leaseSliceStart s = .next (s.leaseStart.getD s) := rfl
  rw [he]
  unfold State.leaseStart
  simp only [ha, hq]
  congr 2
  refine if_congr ?_ rfl ?_
  · simp [or_assoc]
  · rw [show (s.leaseCores vd).filter (fun c => !(s.core c).preL && !s.anyTrapped c) = asked s vd from rfl]
    cases asked s vd with
    | nil =>
      refine Eq.trans ?_ (if_neg (fun h => h rfl)).symm
      exact if_congr (by simp) rfl rfl
    | cons c t => rfl

theorem leaseRequest_spec (s : State) (vd : Nat) (v : Word) :
    ∃ t, exec (.leaseRequest vd v) s = .next t ∧ { t with porch := { t.porch with lease := s.porch.lease } } = s ∧
      mapGet? t.porch.lease.words vd = some (BitVec.ofNat 64 ((v.extractLsb' 48 16).toNat * 2 ^ 48 +
        min (v.extractLsb' 0 32).toNat (s.die 0).leasemax.toNat)) ∧
      t.porch.lease.queue =
        if (v.extractLsb' 48 16).toNat = 0 ∨ min (v.extractLsb' 0 32).toNat (s.die 0).leasemax.toNat = 0 then
          s.porch.lease.queue.filter (· ≠ vd)
        else if vd ∈ s.porch.lease.queue then s.porch.lease.queue else s.porch.lease.queue.filter (· ≠ vd) ++ [vd] := by
  have he : exec (.leaseRequest vd v) s = .next (s.leaseWrite 0 vd v) := rfl
  rw [he]
  refine ⟨_, rfl, rfl, mapGet?_mapPut_same _ _ _, ?_⟩
  show (if (_ || _) = true then _ else if _ then _ else _) = _
  simp only [Bool.or_eq_true, decide_eq_true_eq, List.contains_iff_mem]

/-- LEASE_SLICE_END of a slice whose cycles have passed. -/
theorem leaseEnd_active (s : State) {vd : Nat} (ha : s.porch.lease.active = some vd)
    (hc : s.porch.lease.endAt ≤ s.cycle) :
    exec .leaseSliceEnd s = .next ({ s with porch := { s.porch with lease := { s.porch.lease with
      active := none
      notBefore := s.cycle + ((mapGet 0 s.porch.lease.words vd).extractLsb' 0 32).toNat, saved := []
      owed := s.porch.lease.saved
      queue := if (mapGet 0 s.porch.lease.words vd).extractLsb' 48 16 = 0 then s.porch.lease.queue.filter (· ≠ vd)
        else s.porch.lease.queue } } } : State).resumeOwed := by
  have he : exec .leaseSliceEnd s = .next (s.leaseEnd.getD s) := rfl
  rw [he]
  unfold State.leaseEnd
  simp only [ha]
  rw [if_neg (Nat.not_lt.mpr hc)]
  simp

/-- LEASE_SLICE_END for the one core that has still to resume. -/
theorem leaseEnd_owed (s t : State) (c : Nat) (ha : s.porch.lease.active = none) (ho : s.porch.lease.owed = [c])
    (h : s.resumeOwed = t) (hne : t.porch.lease.owed ≠ [c]) : exec .leaseSliceEnd s = .next t := by
  have he : exec .leaseSliceEnd s = .next (s.leaseEnd.getD s) := rfl
  rw [he]
  unfold State.leaseEnd
  simp only [ha]
  rw [h, ho, if_neg hne]
  rfl

theorem leaseEnd_waits (s : State) (ha : s.porch.lease.active = none) (h : s.resumeOwed = s) :
    exec .leaseSliceEnd s = .next s := by
  have he : exec .leaseSliceEnd s = .next (s.leaseEnd.getD s) := rfl
  rw [he]
  unfold State.leaseEnd
  simp only [ha]
  rw [h, if_pos rfl]
  rfl

/-- A core has been paid what a slice owed it. -/
def paid (c : Nat) (t : State) : State :=
  { t with porch := { t.porch with lease := { t.porch.lease with owed := setDel t.porch.lease.owed c } } }

theorem paid_owed_ne (c : Nat) (t : State) : (paid c t).porch.lease.owed ≠ [c] := by
  intro h
  have := setHas_setDel t.porch.lease.owed c c
  rw [show setDel t.porch.lease.owed c = [c] from h] at this
  simp [setHas] at this

theorem resumeOwed_one (s : State) (c : Nat) (ho : s.porch.lease.owed = [c]) :
    s.resumeOwed = if (s.core c).saved.any (·.landlord) then (match s.resume c c with | some t => paid c t | none => s)
      else if (s.core c).preL then s else paid c s := by
  unfold State.resumeOwed
  rw [ho]
  rfl

/-- Settles O56: a record by the trace unit's steps, a slice by the cores that it asks and owes. -/
theorem traceAndLease : Obligations.TraceAndLease := by
  intro s
  refine ⟨fun c h1 h2 => ?_, fun d c r l hst hd => ?_, leaseRequest_spec s, fun vd l ha hq => ?_,
    fun vd ha hc => leaseEnd_active s ha hc, fun c ha ho => ?_⟩
  · have he : exec (.traceRecord c) s = .next ((s.traceRecord c).getD s) := rfl
    rw [he, State.traceRecord, if_pos (by simp [h1, h2])]
    exact ⟨_, rfl, congrArg Core.stamps (core_setCore _ _ _), congrArg Core.stampLost (core_setCore _ _ _)⟩
  · subst hd
    intro tr b off
    refine ⟨traceWrite_held s c hst, fun ho hh => (traceWrite_eq s c hst hh rfl).1 ho, ?_⟩
    · intro size at8 record
      refine ⟨fun ho hh hs hf => ?_, fun ho hh hs hf hl hi hp => ?_⟩
      · obtain ⟨x, hx⟩ := recordLeft s c hst ho hh hs
        exact traceWrite_full hx hf
      obtain ⟨x, hx⟩ := recordLeft s c hst ho hh hs
      refine ⟨fun c0 hsync h1 h2 => ?_, fun hsync h1 h2 h8 hp8 _ => ?_⟩
      rotate_left
      · obtain ⟨t, ht, hc, hsy, hat, hat8⟩ := traceWrite_first hx rfl hf hl hi hp hsync h1 h2 h8 hp8
        refine ⟨t, ht, hc, hsy, fun j hj => (hat j hj).trans ?_, hat8⟩
        unfold syncWord recordWord
        rw [Nat.add_zero]
      obtain ⟨t, ht, hc, hat, htr⟩ := traceWrite_reached hx rfl hf hl hi hp c0 hsync h1 h2
      refine ⟨t, ht, hc, hat, fun h8 => ?_, fun h8 => ?_, fun h8 => ?_⟩ <;> rw [htr]
      · rw [written_inside _ hi h8]
        exact head_moved _ hi
      · exact (written_atEnd _ hi h8).1
      · exact (written_atEnd _ hi h8).2
  · intro w len n more
    have he := leaseStart_eq s ha hq
    refine ⟨fun ho => ?_, fun hn hl hb ho => ⟨?_, fun hcores hof => ?_⟩⟩
    · dsimp only at he
      rw [if_pos (.inr (.inr (.inr ho)))] at he
      exact he
    · rintro ⟨c, hc⟩
      have hne : asked s vd ≠ [] := List.ne_nil_of_mem ((mem_asked s vd c).mpr hc)
      dsimp only at he
      rw [if_neg (by simp only [not_or]; exact ⟨hn, hl, Nat.not_lt.mpr hb, fun h => h ho⟩), if_pos hne] at he
      obtain ⟨h1, h2⟩ := leaseAsk_spec s vd
      refine ⟨_, he, h1, fun d => ⟨fun hd => (h2 d).1 ((mem_asked s vd d).mpr hd), ?_⟩⟩
      exact (h2 d).2.trans (or_congr_right (mem_asked s vd d))
    · have hask : asked s vd = [] := by rw [asked, hcores]; rfl
      dsimp only at he
      rw [if_neg (by simp only [not_or]; exact ⟨hn, hl, Nat.not_lt.mpr hb, fun h => h ho⟩), if_neg (fun h => h hask),
        if_neg (by simp [hcores, hof])] at he
      exact ⟨_, he, rfl, rfl, mapGet?_mapPut_same _ _ _⟩
  · have hr := resumeOwed_one s c ho
    refine ⟨fun hs hn => ?_, fun hs t ht => ?_, fun hs hp => ?_, fun hs hp => ?_⟩
    · rw [if_pos hs, hn] at hr
      exact leaseEnd_waits s ha hr
    · rw [if_pos hs, ht] at hr
      exact leaseEnd_owed s _ c ha ho hr (paid_owed_ne c t)
    · rw [if_neg (by simp [hs]), if_pos hp] at hr
      exact leaseEnd_waits s ha hr
    · rw [if_neg (by simp [hs]), if_neg (by simp [hp])] at hr
      exact leaseEnd_owed s _ c ha ho hr (paid_owed_ne c s)

end Sys2Proof.Safety
end

section
/-! SUPPORT. A trace buffer that lies in control space, over the register of its own size (O59). -/

namespace Sys2Proof.Safety

open Sys2Proof.Machine

/-- A trace unit whose next record goes to register 0x72 of its die, the size of its buffer. -/
def selfSizing : Trace :=
  { Trace.init with base := BitVec.ofNat 64 (15 * 2 ^ 44 + 0x72 * 2 ^ 24), size := 1, ctl := 1, vds := 1, sync := some 0 }

/-- Core 0 holds two stamps for that unit. -/
def selfSizingTrace : State :=
  { State.reset with
    cores := [(0, { Core.init with stamps := [⟨0, 0, 0, 0⟩, ⟨0, 0, 0, 0⟩] })]
    dies := [(0, { Die.init with trace := selfSizing })] }

theorem selfSizingTrace_write : (match exec (.traceWrite (dieOf 0) 0) selfSizingTrace with
    | .next t => (t.core 0).stamps
    | _ => [⟨1, 0, 0, 0⟩]) = [] := by decide +kernel

/-- Refutes O59: TRACE_WRITE takes the oldest record alone from its core, and here the record's write takes the rest too.
The buffer lies at register 0x72 of the die, and a new buffer size discards what the die's cores have stamped. -/
theorem not_eventsComplete : ¬ Obligations.EventsComplete := by
  rintro ⟨-, -, h⟩
  obtain ⟨-, hwrite, -⟩ := h selfSizingTrace rfl
  obtain ⟨t, he, hstamps⟩ := hwrite 0 ⟨0, 0, 0, 0⟩ [⟨0, 0, 0, 0⟩] rfl (by decide +kernel) (.inr (by decide +kernel))
  have hrun := selfSizingTrace_write
  rw [he] at hrun
  exact absurd (hrun.symm.trans hstamps) (by decide)

end Sys2Proof.Safety
end

section
/-! SUPPORT. A stopped strand whose JOIN waits for a queue entry, on a core that resumes (O60). -/

namespace Sys2Proof.Safety

open Sys2Proof.Machine

/-- A JOIN that has read a zero continuation and waits for an entry of its cluster's queue. -/
def waitingJoin : Op := ⟨0, .join (some (.p 1)), 0, 32, [], [], [], 0, true, 0, none, [], 0, false, 0, 0, true⟩

/-- What a pre-emption of core 0 has saved, without a save area. -/
def savedBare : SavedCore := ⟨0, false, none, [], [], [], none, [], 0, [], [], 0, none⟩

/-- A saved core whose strand 0 was stopped by the pre-emption while its JOIN waits. -/
def resumingJoin : State :=
  { State.reset with
    cores := [(0, { Core.init with
      saved := some savedBare
      strands := [(0, { Strand.init with
        st := .stopped, stopBy := .preempt, wait := .queue, op := some waitingJoin })] })] }

/-- A saved core may resume, without a save area, and a strand that pre-emption stopped then stands at instruction 1. -/
structure ResumesAtOne (s : State) (x : SavedCore) : Prop where
  saved : (s.core 0).saved = some x
  free : (s.core 0).porter.cur = none
  bare : (s.core 0).ctxbuf = 0
  lease : s.leaseBars 0 = false
  peers : ∀ d ∈ s.peersOf 0, s.peerReady d = true
  stopped : (s.strand 0 0).st = .stopped
  cause : (s.strand 0 0).stopBy = .preempt
  areas : (x.areas.map (·.1)).Nodup
  runs : (match exec (.resume 0 0) s with
    | .next t => (t.strand 0 0).regs.pc
    | _ => 0) = 1

theorem resumingJoin_resume : ResumesAtOne resumingJoin savedBare where
  saved := by decide +kernel
  free := by decide +kernel
  bare := by decide +kernel
  lease := by decide +kernel
  peers := by decide +kernel
  stopped := by decide +kernel
  cause := by decide +kernel
  areas := by decide +kernel
  runs := by decide +kernel

/-- Refutes O60: a resume gives a strand that pre-emption stopped its registers as they were, and here one of them moves
on. The resume lets the queues of the neighbours' cluster look again, and there the JOIN of the stopped strand finds its
entry and retires. -/
theorem not_preemptionAndRegisterEvents : ¬ Obligations.PreemptionAndRegisterEvents := by
  rintro ⟨h, -⟩
  obtain ⟨-, -, -, -, -, -, hresume⟩ := h resumingJoin 0
  obtain ⟨hsaved, hfree, hbare, hlease, hpeers, hst, hby, hareas, hrun⟩ := resumingJoin_resume
  obtain ⟨t, he, -, -, -, -, -, -, hstrands⟩ := hresume savedBare hsaved hfree rfl hbare hlease hpeers (by decide +kernel)
  obtain ⟨hregs, -⟩ := hstrands 0 (by decide) hst hby hareas
  rw [he] at hrun
  exact absurd (hrun.symm.trans (congrArg RegSet.pc hregs)) (by decide +kernel)

end Sys2Proof.Safety
end

section
/-! SUPPORT. The corridors: slots, aging tenures and the end of a leg (R22 to R29, R171). -/

namespace Sys2Proof.Safety
open Sys2Proof.Machine

/-! Order by age -/

theorem mem_ageInsert {f x : Flit} (l : List Flit) : x ∈ ageInsert f l ↔ x = f ∨ x ∈ l := by
  induction l with
  | nil => simp [ageInsert]
  | cons g l ih =>
    unfold ageInsert
    split
    · rw [List.mem_cons]
    · rw [List.mem_cons, ih, List.mem_cons]
      tauto

theorem pairwise_ageInsert (f : Flit) (l : List Flit) (h : l.Pairwise fun a b => a.age ≤ b.age) :
    (ageInsert f l).Pairwise fun a b => a.age ≤ b.age := by
  induction l with
  | nil => exact List.pairwise_singleton _ _
  | cons g l ih =>
    obtain ⟨hg, hl⟩ := List.pairwise_cons.mp h
    unfold ageInsert
    split
    · next hf =>
      refine List.pairwise_cons.mpr ⟨fun x hx => ?_, h⟩
      rcases List.mem_cons.mp hx with rfl | hx
      · exact hf
      · exact Nat.le_trans hf (hg x hx)
    · next hf =>
      refine List.pairwise_cons.mpr ⟨fun x hx => ?_, ih hl⟩
      rcases (mem_ageInsert l).mp hx with rfl | hx
      · exact Nat.le_of_not_le hf
      · exact hg x hx

theorem mem_byAge {x : Flit} (l : List Flit) : x ∈ byAge l ↔ x ∈ l := by
  unfold byAge
  induction l with
  | nil => rfl
  | cons f l ih => rw [List.foldr_cons, mem_ageInsert, ih, List.mem_cons]

theorem pairwise_byAge (l : List Flit) : (byAge l).Pairwise fun a b => a.age ≤ b.age := by
  unfold byAge
  induction l with
  | nil => exact List.Pairwise.nil
  | cons f l ih => exact pairwise_ageInsert f _ ih

/-- A flit of a list that none of it is older than. -/
def FirstOf (f : Flit) (l : List Flit) : Prop := f ∈ l ∧ ∀ g ∈ l, f.age ≤ g.age

theorem firstOf_of_cons {f : Flit} {l t : List Flit} (h : byAge l = f :: t) : FirstOf f l := by
  have hp := pairwise_byAge l
  rw [h] at hp
  refine ⟨(mem_byAge l).mp (h ▸ List.mem_cons_self), fun g hg => ?_⟩
  rcases List.mem_cons.mp (h ▸ (mem_byAge l).mpr hg) with rfl | hg
  · exact Nat.le_refl _
  · exact (List.pairwise_cons.mp hp).1 g hg

theorem byAge_eq_nil {l : List Flit} : byAge l = [] ↔ l = [] := by
  refine ⟨fun h => List.eq_nil_iff_forall_not_mem.mpr fun x hx => ?_, fun h => by rw [h]; rfl⟩
  exact absurd (h ▸ (mem_byAge l).mpr hx) List.not_mem_nil

theorem oldest_cases (l : List Flit) : (l = [] ∧ oldest l = none) ∨ ∃ f, oldest l = some f ∧ FirstOf f l := by
  unfold oldest
  cases h : byAge l with
  | nil => exact .inl ⟨byAge_eq_nil.mp h, rfl⟩
  | cons f t => exact .inr ⟨f, rfl, firstOf_of_cons h⟩

theorem oldest_some {l : List Flit} {f : Flit} (h : oldest l = some f) : FirstOf f l := by
  rcases oldest_cases l with ⟨-, hn⟩ | ⟨g, hg, hfirst⟩
  · exact absurd (hn.symm.trans h) (by simp)
  · exact Option.some.inj (hg.symm.trans h) ▸ hfirst

theorem oldest_none {l : List Flit} (h : oldest l = none) : l = [] := by
  rcases oldest_cases l with ⟨hl, -⟩ | ⟨g, hg, -⟩
  · exact hl
  · exact absurd (hg.symm.trans h) (by simp)

theorem oldest_of_ne {l : List Flit} (h : l ≠ []) : ∃ f, oldest l = some f ∧ FirstOf f l :=
  (oldest_cases l).resolve_left fun hl => h hl.1

/-! The deficit round robin (R28) -/

theorem isDrr_iff (vc : Nat) : isDrr vc = true ↔ vc ∈ ([0, 3, 4] : List Nat) := by
  simp [isDrr, or_assoc]

theorem mem_drrOrder (r vc : Nat) : vc ∈ drrOrder r ↔ isDrr vc = true := by
  rw [isDrr_iff, drrOrder, List.mem_append, or_comm, ← List.mem_append, List.take_append_drop]

/-- What the round robin sends: the oldest flit of a device with a positive count, which goes down by one. -/
theorem drrPick_some {q q' : Stop} {can : List Flit} {f : Flit} (h : drrPick q can = some (f, q')) :
    FirstOf f (can.filter fun g => g.vd = f.vd && g.vc = f.vc) ∧ isDrr f.vc = true ∧ 0 < mapGet 0 q.deficit f.vd ∧
      mapGet 0 q'.deficit f.vd = mapGet 0 q.deficit f.vd - 1 := by
  obtain ⟨v, hv, h⟩ := List.exists_of_findSome?_eq_some h
  split at h
  · next hpos =>
    obtain ⟨vc, hvc, h⟩ := List.exists_of_findSome?_eq_some h
    split at h
    · next g ho =>
      obtain ⟨rfl, rfl⟩ := Prod.mk.inj (Option.some.inj h)
      have hfirst := oldest_some ho
      have hmem := List.mem_filter.mp hfirst.1
      obtain ⟨rfl, rfl⟩ : g.vd = v ∧ g.vc = vc := by simpa using hmem.2
      exact ⟨hfirst, (mem_drrOrder _ _).mp hvc, hpos, mapGet_mapPut_same _ _ _ _⟩
    · exact absurd h (by simp)
  · exact absurd h (by simp)

theorem drrPick_none {q : Stop} {can : List Flit} (h : drrPick q can = none) (f : Flit) (hf : f ∈ can)
    (hd : isDrr f.vc = true) (hr : f.vd ∈ q.round) : mapGet 0 q.deficit f.vd ≤ 0 := by
  by_contra hpos
  have h1 := List.findSome?_eq_none_iff.mp h f.vd hr
  rw [if_pos (not_le.mp hpos)] at h1
  have h2 := List.findSome?_eq_none_iff.mp h1 f.vc ((mem_drrOrder _ _).mpr hd)
  split at h2
  · exact absurd h2 (by simp)
  · next ho =>
    have hnil := oldest_none ho
    exact absurd (hnil ▸ List.mem_filter.mpr ⟨hf, by simp⟩) List.not_mem_nil

theorem mem_foldl_setAdd (l : List Nat) (m : NSet) (v : Nat) : v ∈ l.foldl setAdd m ↔ v ∈ l ∨ v ∈ m := by
  have := setHas_foldl_setAdd l m v
  simpa [setHas] using this

/-- Sets that are built up from nothing are strictly ascending. -/
theorem pairwise_setAdd (m : NSet) (i : Nat) (h : m.Pairwise (· < ·)) : (setAdd m i).Pairwise (· < ·) := by
  induction m with
  | nil => exact List.pairwise_singleton _ _
  | cons j m ih =>
    obtain ⟨hj, hm⟩ := List.pairwise_cons.mp h
    unfold setAdd
    split
    · next hi =>
      refine List.pairwise_cons.mpr ⟨fun x hx => ?_, h⟩
      rcases List.mem_cons.mp hx with rfl | hx
      · exact hi
      · exact Nat.lt_trans hi (hj x hx)
    · split
      · exact h
      · next hi hne =>
        refine List.pairwise_cons.mpr ⟨fun x hx => ?_, ih hm⟩
        have hx' : setHas (setAdd m i) x = true := List.contains_iff_mem.mpr hx
        rw [setHas_setAdd, Bool.or_eq_true, decide_eq_true_eq] at hx'
        rcases hx' with rfl | hx'
        · omega
        · exact hj x (List.contains_iff_mem.mp hx')

theorem nodup_foldl_setAdd (l : List Nat) : (l.foldl setAdd []).Nodup := by
  have h : ∀ m : NSet, m.Pairwise (· < ·) → (l.foldl setAdd m).Pairwise (· < ·) := by
    induction l with
    | nil => exact fun m hm => hm
    | cons i l ih => exact fun m hm => ih _ (pairwise_setAdd m i hm)
  exact (h [] List.Pairwise.nil).imp fun hlt => Nat.ne_of_lt hlt

/-- Weights added to the counts of some devices, each once. -/
theorem mapGet_foldl_add (w : Nat → Int) (l : List Nat) (hl : l.Nodup) (m : SMap Int) (v : Nat) :
    mapGet 0 (l.foldl (fun m v => mapPut m v (mapGet 0 m v + w v)) m) v =
      mapGet 0 m v + if v ∈ l then w v else 0 := by
  induction l generalizing m with
  | nil => simp
  | cons i l ih =>
    obtain ⟨hi, hl⟩ := List.nodup_cons.mp hl
    rw [List.foldl_cons, ih hl, mapGet_mapPut]
    by_cases h : v = i
    · subst h
      simp [hi]
    · simp [h]

/-- A round that is not over goes on. -/
theorem drrRound_goes (s : State) (d : Nat) (st : Stop) (w : List Flit)
    (h : ∃ v ∈ st.round, (∃ f ∈ w, f.vd = v ∧ f.stage = .queued) ∧ 0 < mapGet 0 st.deficit v) : s.drrRound d st w = st := by
  unfold State.drrRound
  dsimp only
  refine if_pos ?_
  obtain ⟨v, hv, ⟨f, hf, hvd, hst⟩, hpos⟩ := h
  refine List.any_eq_true.mpr ⟨v, hv, ?_⟩
  simp only [Bool.and_eq_true, decide_eq_true_eq, List.any_eq_true]
  exact ⟨⟨f, hf, hvd, hst⟩, hpos⟩

/-- A new round gives each device that waits its weight. -/
theorem drrRound_new (s : State) (d : Nat) (st : Stop) (w : List Flit)
    (h : ¬ ∃ v ∈ st.round, (∃ f ∈ w, f.vd = v ∧ f.stage = .queued) ∧ 0 < mapGet 0 st.deficit v) :
    (∀ v, v ∈ (s.drrRound d st w).round ↔ ∃ f ∈ w, f.vd = v) ∧
      ∀ v, mapGet 0 (s.drrRound d st w).deficit v =
        mapGet 0 st.deficit v + if ∃ f ∈ w, f.vd = v then (s.weightOf d v : ℤ) else 0 := by
  have hmem (v : Nat) : v ∈ (w.map (·.vd)).foldl setAdd [] ↔ ∃ f ∈ w, f.vd = v := by
    rw [mem_foldl_setAdd]
    simp
  unfold State.drrRound
  dsimp only
  rw [if_neg]
  · refine ⟨hmem, fun v => ?_⟩
    refine (mapGet_foldl_add (fun v => (s.weightOf d v : ℤ)) _ (nodup_foldl_setAdd _) _ v).trans ?_
    simp only [hmem]
  · intro hany
    obtain ⟨v, hv, h'⟩ := List.any_eq_true.mp hany
    simp only [Bool.and_eq_true, decide_eq_true_eq, List.any_eq_true] at h'
    obtain ⟨⟨f, hf, hvd, hst⟩, hpos⟩ := h'
    exact h ⟨v, hv, ⟨f, hf, hvd, hst⟩, hpos⟩

/-! Slots and their tenures (R27, R28, R29) -/

/-- The flits of the network with one of them in another place. -/
def movedIn (s : State) (f : Flit) (st : Stage) : List Flit :=
  s.net.map fun g => if g.id = f.id then { f with stage := st } else g

theorem clearCounts_net (s : State) (d stop : Nat) : (s.clearCounts d stop).net = s.net := by
  unfold State.clearCounts
  dsimp only
  split <;> rfl

theorem clearCounts_die (s : State) (d stop : Nat) :
    (mapGet Stop.init ((s.clearCounts d stop).die d).inj stop).slots = (mapGet Stop.init (s.die d).inj stop).slots ∧
      ((s.clearCounts d stop).die d).turned = (s.die d).turned := by
  unfold State.clearCounts
  dsimp only
  split
  · exact ⟨rfl, rfl⟩
  · next st hst =>
    rw [die_setDie]
    refine ⟨?_, rfl⟩
    show (mapGet Stop.init (mapPut _ _ _) _).slots = _
    rw [mapGet_mapPut_same, mapGet, hst]
    rfl

theorem slotEmpty_of (s : State) (d l slot : Nat)
    (h : ∀ f ∈ s.net, f.die = d → ∀ n b, f.stage ≠ .slot l slot n b) : s.slotEmpty d l slot = true := by
  unfold State.slotEmpty
  rw [Bool.not_eq_true', List.any_eq_false]
  intro f hf hany
  simp only [Bool.and_eq_true, decide_eq_true_eq] at hany
  obtain ⟨hd, hst⟩ := hany
  split at hst
  · next l' p n b hs =>
    simp only [Bool.and_eq_true, decide_eq_true_eq] at hst
    exact h f hf hd n b (by rw [hs, hst.1, hst.2])
  · exact absurd hst (by simp)

/-- The flits that may take an injection slot. -/
theorem placeable_waiting (s : State) (d stop l : Nat) :
    (s.waitingAt d stop).filter (s.placeable l) =
      ((s.entriesOf d stop).filter fun f => f.stage = .queued).filter (s.placeable l) := by
  unfold State.waitingAt
  rw [List.filter_filter, List.filter_filter]
  refine List.filter_congr fun f _ => ?_
  unfold State.placeable
  by_cases h : f.stage = .queued <;> simp [h]

/-- INJECTION_SLOT places the flit that `inject` gives. -/
theorem injectionSlot_spec (s : State) (d stop l slot : Nat) (h64 : slot < 64) (h16 : slot % 16 ≠ 0)
    (he : s.slotEmpty d l slot = true) {can : List Flit} (hcan : (s.waitingAt d stop).filter (s.placeable l) = can)
    (hne : can ≠ []) :
    ∃ t, exec (.injectionSlot d stop l slot) s = .next t ∧
      (mapGet Stop.init (t.die d).inj stop).slots =
        (s.inject d (mapGet Stop.init (s.die d).inj stop) can (s.waitingAt d stop)).2.slots + 1 ∧
      t.net = match (s.inject d (mapGet Stop.init (s.die d).inj stop) can (s.waitingAt d stop)).1 with
        | some f => movedIn s f (.slot l slot 0 false)
        | none => s.net := by
  have hc : (decide (slot % 16 = 0) || decide (64 ≤ slot) || !s.slotEmpty d l slot || can.isEmpty) = false := by
    rw [he]
    cases can with
    | nil => exact absurd rfl hne
    | cons f t =>
      simp only [Bool.or_eq_false_iff, decide_eq_false_iff_not]
      exact ⟨⟨⟨h16, Nat.not_le.mpr h64⟩, rfl⟩, rfl⟩
  have hx : exec (.injectionSlot d stop l slot) s = .next ((s.injectionSlot d stop l slot).getD s) := rfl
  rw [hx]
  unfold State.injectionSlot
  dsimp only
  rw [hcan, if_neg (by rw [hc]; decide)]
  generalize s.inject d (mapGet Stop.init (s.die d).inj stop) can (s.waitingAt d stop) = r
  obtain ⟨o, st⟩ := r
  cases o with
  | none =>
    refine ⟨_, rfl, ?_, rfl⟩
    show (mapGet Stop.init (State.die (State.setDie _ _ _) d).inj stop).slots = _
    rw [die_setDie]
    exact congrArg Stop.slots (mapGet_mapPut_same _ _ _ _)
  | some f =>
    refine ⟨_, rfl, (clearCounts_die _ d stop).1.trans ?_, clearCounts_net _ d stop⟩
    show (mapGet Stop.init (State.die (State.setDie _ _ _) d).inj stop).slots = _
    rw [die_setDie]
    exact congrArg Stop.slots (mapGet_mapPut_same _ _ _ _)

/-- Slot 15 takes the oldest flit. -/
theorem inject_oldest (s : State) (d : Nat) (st : Stop) (can waiting : List Flit) (h : st.slots % 16 = 15) :
    s.inject d st can waiting = (oldest can, st) := if_pos h

/-- SYS, COH and RSP come first, in this order. -/
theorem inject_first (s : State) (d : Nat) (st : Stop) (can waiting : List Flit) (h : st.slots % 16 ≠ 15) (f : Flit)
    (hf : (([vcSYS, vcCOH, vcRSP] : List Nat).findSome? fun vc => oldest (can.filter (·.vc = vc))) = some f) :
    s.inject d st can waiting = (some f, st) := by
  unfold State.inject
  rw [if_neg h, hf]

/-- The others by the round robin. -/
theorem inject_drr (s : State) (d : Nat) (st : Stop) (can waiting : List Flit) (h : st.slots % 16 ≠ 15)
    (hf : (([vcSYS, vcCOH, vcRSP] : List Nat).findSome? fun vc => oldest (can.filter (·.vc = vc))) = none) :
    s.inject d st can waiting =
      ((drrPick (s.drrRound d st (waiting.filter fun f => isDrr f.vc)) (can.filter fun f => isDrr f.vc)).map (·.1),
        ((drrPick (s.drrRound d st (waiting.filter fun f => isDrr f.vc)) (can.filter fun f => isDrr f.vc)).map
          (·.2)).getD (s.drrRound d st (waiting.filter fun f => isDrr f.vc))) := by
  unfold State.inject
  rw [if_neg h, hf]
  dsimp only
  cases drrPick (s.drrRound d st (waiting.filter fun f => isDrr f.vc)) (can.filter fun f => isDrr f.vc) <;> rfl

theorem drrRound_slots (s : State) (d : Nat) (st : Stop) (w : List Flit) : (s.drrRound d st w).slots = st.slots := by
  unfold State.drrRound
  dsimp only
  split <;> rfl

theorem drrPick_slots {q q' : Stop} {can : List Flit} {f : Flit} (h : drrPick q can = some (f, q')) :
    q'.slots = q.slots := by
  obtain ⟨v, hv, h⟩ := List.exists_of_findSome?_eq_some h
  split at h
  · obtain ⟨vc, hvc, h⟩ := List.exists_of_findSome?_eq_some h
    split at h
    · obtain ⟨-, rfl⟩ := Prod.mk.inj (Option.some.inj h)
      rfl
    · exact absurd h (by simp)
  · exact absurd h (by simp)

end Sys2Proof.Safety
end

section
/-! SUPPORT. What the events of the corridors leave (R22 to R24, R27 to R29, R171). -/

namespace Sys2Proof.Safety
open Sys2Proof.Machine

/-! Injection (R27, R28) -/

/-- The slots of a stop after an injection. -/
theorem inject_slots (s : State) (d : Nat) (st : Stop) (can waiting : List Flit) :
    (s.inject d st can waiting).2.slots = st.slots := by
  by_cases h : st.slots % 16 = 15
  · rw [inject_oldest s d st can waiting h]
  · cases hf : (([vcSYS, vcCOH, vcRSP] : List Nat).findSome? fun vc => oldest (can.filter (·.vc = vc))) with
    | some f => rw [inject_first s d st can waiting h f hf]
    | none =>
      rw [inject_drr s d st can waiting h hf]
      cases hp : drrPick (s.drrRound d st (waiting.filter fun f => isDrr f.vc)) (can.filter fun f => isDrr f.vc) with
      | none => exact drrRound_slots s d st _
      | some r => exact (drrPick_slots (f := r.1) hp).trans (drrRound_slots s d st _)

/-- What an injection gives is among the flits that may take the slot. -/
theorem inject_mem (s : State) (d : Nat) (st : Stop) (can waiting : List Flit) (f : Flit)
    (hi : (s.inject d st can waiting).1 = some f) : f ∈ can := by
  by_cases h : st.slots % 16 = 15
  · rw [inject_oldest s d st can waiting h] at hi
    exact (oldest_some hi).1
  · cases hf : (([vcSYS, vcCOH, vcRSP] : List Nat).findSome? fun vc => oldest (can.filter (·.vc = vc))) with
    | some g =>
      rw [inject_first s d st can waiting h g hf] at hi
      obtain ⟨vc, -, ho⟩ := List.exists_of_findSome?_eq_some hf
      exact Option.some.inj hi ▸ (List.mem_filter.mp (oldest_some ho).1).1
    | none =>
      rw [inject_drr s d st can waiting h hf] at hi
      obtain ⟨⟨g, q⟩, hp, rfl⟩ := Option.map_eq_some_iff.mp hi
      exact (List.mem_filter.mp (List.mem_filter.mp (drrPick_some hp).1.1).1).1

/-- The three channels that come before the round robin. -/
theorem findSome_sys (can : List Flit) (e : Nat × List Nat)
    (he : e ∈ [(vcSYS, []), (vcCOH, [vcSYS]), (vcRSP, [vcSYS, vcCOH])])
    (hne : (can.filter fun f => f.vc = e.1) ≠ []) (hno : ∀ v ∈ e.2, (can.filter fun f => f.vc = v) = []) :
    ∃ f, (([vcSYS, vcCOH, vcRSP] : List Nat).findSome? fun vc => oldest (can.filter (·.vc = vc))) = some f ∧
      FirstOf f (can.filter fun f => f.vc = e.1) := by
  obtain ⟨f, ho, hfirst⟩ := oldest_of_ne hne
  have hskip : ∀ v ∈ e.2, oldest (can.filter fun f => f.vc = v) = none := fun v hv => by
    rw [hno v hv]
    rfl
  refine ⟨f, ?_, hfirst⟩
  simp only [List.mem_cons, List.not_mem_nil, or_false] at he
  rcases he with rfl | rfl | rfl
  · rw [List.findSome?_cons, ho]
  · rw [List.findSome?_cons, hskip vcSYS (by simp), List.findSome?_cons, ho]
  · rw [List.findSome?_cons, hskip vcSYS (by simp), List.findSome?_cons, hskip vcCOH (by simp), List.findSome?_cons, ho]

theorem findSome_sys_none (can : List Flit) (h1 : (can.filter fun f => f.vc = vcSYS) = [])
    (h2 : (can.filter fun f => f.vc = vcCOH) = []) (h3 : (can.filter fun f => f.vc = vcRSP) = []) :
    (([vcSYS, vcCOH, vcRSP] : List Nat).findSome? fun vc => oldest (can.filter (·.vc = vc))) = none := by
  simp only [List.findSome?_cons, h1, h2, h3]
  rfl

/-! Aging slots (R29) -/

theorem mem_setAdd_self (m : NSet) (i : Nat) : setHas (setAdd m i) i = true := by
  rw [setHas_setAdd]
  simp

theorem agingTurn_spec (s : State) (d l slot : Nat) (h64 : slot < 64) (h16 : slot % 16 = 0)
    (he : s.slotEmpty d l slot = true) (hd : setHas (s.die d).turned (64 * l + slot) = false)
    (hne : ((s.waitingAt d (s.agingOwner d l slot)).filter (·.mayUse l)) ≠ []) :
    ∃ t f, exec (.agingTurn d l slot) s = .next t ∧
      FirstOf f ((s.waitingAt d (s.agingOwner d l slot)).filter (·.mayUse l)) ∧
      t.net = movedIn s f (.slot l slot 0 true) ∧ setHas (t.die d).turned (64 * l + slot) = true := by
  obtain ⟨f, ho, hfirst⟩ := oldest_of_ne hne
  have hx : exec (.agingTurn d l slot) s = .next ((s.agingTurn d l slot).getD s) := rfl
  rw [hx]
  unfold State.agingTurn
  rw [if_neg (by simp [h16, he, hd, Nat.not_le.mpr h64])]
  dsimp only
  rw [ho]
  refine ⟨_, f, rfl, hfirst, clearCounts_net _ _ _, ?_⟩
  rw [Option.getD_some, (clearCounts_die _ d _).2, die_setDie]
  exact mem_setAdd_self _ _

theorem agingTurn_done (s : State) (d l slot : Nat) (hd : setHas (s.die d).turned (64 * l + slot) = true) :
    exec (.agingTurn d l slot) s = .next s := by
  have hx : exec (.agingTurn d l slot) s = .next ((s.agingTurn d l slot).getD s) := rfl
  rw [hx]
  unfold State.agingTurn
  rw [if_pos (by simp [hd])]
  rfl

theorem agingTenureEnd_spec (s : State) (d l slot : Nat) (h64 : slot < 64) (h16 : slot % 16 = 0)
    (he : s.slotEmpty d l slot = true) :
    ∃ t, exec (.agingTenureEnd d l slot) s = .next t ∧ t.net = s.net ∧
      setHas (t.die d).turned (64 * l + slot) = false ∧
      t.agingOwner d l slot =
        stopOfRank d l ((loopRank d l (s.agingOwner d l slot) + 1) % (loopStops d l).length) := by
  have hx : exec (.agingTenureEnd d l slot) s = .next ((s.agingTenureEnd d l slot).getD s) := rfl
  rw [hx]
  unfold State.agingTenureEnd
  rw [if_neg (by simp [h16, he, Nat.not_le.mpr h64])]
  refine ⟨_, rfl, rfl, ?_, ?_⟩
  · rw [Option.getD_some, die_setDie]
    show setHas (setDel _ _) _ = false
    rw [setHas_setDel]
    simp
  · rw [Option.getD_some]
    unfold State.agingOwner
    rw [die_setDie]
    exact mapGet_mapPut_same _ _ _ _

/-! The end of a leg (R15, R22 to R24, R31, R171) -/

/-- What freeing entries leaves: the network and, but for their traces, the dies. -/
theorem entriesFreed_spec (s : State) :
    s.entriesFreed.net = s.net ∧
      ∀ d, (s.entriesFreed.die d).hbm = (s.die d).hbm ∧ (s.entriesFreed.die d).checks = (s.die d).checks ∧
        (s.entriesFreed.die d).discarded = (s.die d).discarded := by
  have h := wakeSide_wakeWaits s fun c w => w = .flit &&
    (s.entryFree (dieOf c) (stopOfCluster (clusterOf c)) vcREQ || s.entryFree (dieOf c) (stopOfCluster (clusterOf c)) vcMSG)
  have hd (d : Nat) := h.dies d
  exact ⟨(congrArg State.net h.rest :), fun d => ⟨(congrArg Die.hbm (hd d) :), (congrArg Die.checks (hd d) :),
    (congrArg Die.discarded (hd d) :)⟩⟩

/-- Where a flit is once it has been taken at the end of its leg. -/
def Left (s : State) (f : Flit) (t : State) : Prop :=
  if s.filtered f then t.net = s.net.filter (fun g => g.id ≠ f.id) ∧
    (t.die f.die).discarded = (s.die f.die).discarded + 1
  else if f.die = f.ddie then
    match f.msg with
    | .fetch r => t.net = s.net.filter (fun g => g.id ≠ f.id) ∧ (t.die f.ddie).hbm = (s.die f.ddie).hbm ++ [r]
    | .check c => t.net = s.net.filter (fun g => g.id ≠ f.id) ∧ (t.die f.ddie).checks = (s.die f.ddie).checks ++ [c]
    | .bulk _ => t.net = s.net.filter (fun g => g.id ≠ f.id)
    | _ => t.net = movedIn s f .ejected
  else if nextDie f.die f.ddie = 8 ∧ (match f.msg with | .bulk _ => true | _ => false) = true then
    t.net = s.net.filter (fun g => g.id ≠ f.id)
  else ∃ g : Flit, t.net = (s.net.map fun h => if h.id = f.id then g else h) ∧ g.die = nextDie f.die f.ddie ∧
    (g.die = 8 → g.stage = .ejected) ∧ (g.die ≠ 8 → g.stage = .queued ∧ g.leg = s.nextId ∧ g.lsrc = portTo g.die f.die ∧
      g.ldst = legDst g.die f.ddie f.dstop)

theorem left_discardFlit (s : State) (f : Flit) (h : s.filtered f = true) : Left s f (s.discardFlit f) := by
  unfold Left State.discardFlit
  rw [if_pos h]
  obtain ⟨hn, hd⟩ := entriesFreed_spec ((s.drop f.id).setDie f.die
    { s.die f.die with discarded := (s.die f.die).discarded + 1 })
  refine ⟨hn, (hd f.die).2.2.trans ?_⟩
  rw [die_setDie]

/-- A flit at its destination, by its message. -/
theorem eject_fetch (s : State) {f : Flit} {r : HbmReq} (hm : f.msg = .fetch r) :
    s.eject f = (s.drop f.id).setDie f.ddie { s.die f.ddie with hbm := (s.die f.ddie).hbm ++ [r] } := by
  unfold State.eject
  rw [hm]
  rfl

theorem eject_check (s : State) {f : Flit} {c : Nat} (hm : f.msg = .check c) :
    s.eject f = (s.drop f.id).setDie f.ddie { s.die f.ddie with checks := (s.die f.ddie).checks ++ [c] } := by
  unfold State.eject
  rw [hm]
  rfl

theorem eject_bulk (s : State) {f : Flit} {i : Option Nat} (hm : f.msg = .bulk i) : s.eject f = s.drop f.id := by
  unfold State.eject
  rw [hm]

theorem eject_other (s : State) {f : Flit} (h1 : ∀ r, f.msg = .fetch r → False) (h2 : ∀ c, f.msg = .check c → False)
    (h3 : ∀ i, f.msg = .bulk i → False) : s.eject f = s.setFlit { f with stage := .ejected } := by
  unfold State.eject
  split
  · next r hm => exact absurd hm (h1 r)
  · next c hm => exact absurd hm (h2 c)
  · next i hm => exact absurd hm (h3 i)
  · rfl

/-- The message carries bytes of another flit. -/
def Flit.isBulk (f : Flit) : Bool := match f.msg with | .bulk _ => true | _ => false

theorem isBulk_bulk {f : Flit} {i : Option Nat} (hm : f.msg = .bulk i) : Flit.isBulk f = true := by
  unfold Flit.isBulk
  rw [hm]

theorem isBulk_other {f : Flit} (h : ∀ i, f.msg = .bulk i → False) : Flit.isBulk f = false := by
  unfold Flit.isBulk
  split
  · next i hm => exact (h i hm).elim
  · rfl

/-- The end of a leg on the destination's die. -/
theorem legDone_here (s : State) (f : Flit) (h : f.die = f.ddie) : s.legDone f = (s.eject f).entriesFreed :=
  congrArg State.entriesFreed (if_pos h)

/-- What a flit is on the next die of its way. -/
def nextLeg (s : State) (f : Flit) : Flit :=
  if nextDie f.die f.ddie = 8 then { f with die := 8, lsrc := 0, ldst := 0, stage := .ejected }
  else { f with
    die := nextDie f.die f.ddie, lsrc := portTo (nextDie f.die f.ddie) f.die
    ldst := legDst (nextDie f.die f.ddie) f.ddie f.dstop, stage := .queued, age := s.nextId, leg := s.nextId }

theorem legDone_away (s : State) (f : Flit) (h : f.die ≠ f.ddie) :
    (s.legDone f).net = if nextDie f.die f.ddie = 8 ∧ Flit.isBulk f = true then s.net.filter (fun g => g.id ≠ f.id)
      else s.net.map fun g => if g.id = f.id then nextLeg s f else g := by
  unfold State.legDone
  rw [(entriesFreed_spec _).1, if_neg h]
  unfold nextLeg
  dsimp only
  split
  · next h8 =>
    split
    · next i hm =>
      rw [if_pos ⟨h8, isBulk_bulk hm⟩]
      rfl
    · next hm =>
      rw [if_neg (by rw [isBulk_other hm]; exact fun h => absurd h.2 (by decide))]
      rfl
  · next h8 =>
    rw [if_neg (fun h => h8 h.1)]
    rfl

theorem left_legDone (s : State) (f : Flit) (h : s.filtered f = false) : Left s f (s.legDone f) := by
  unfold Left
  rw [if_neg (by simp [h])]
  split
  · next hd =>
    rw [legDone_here s f hd]
    obtain ⟨hn, hdie⟩ := entriesFreed_spec (s.eject f)
    split
    · next r hm =>
      rw [eject_fetch s hm] at hn hdie ⊢
      exact ⟨hn, (hdie f.ddie).1.trans (congrArg Die.hbm (die_setDie _ _ _))⟩
    · next c hm =>
      rw [eject_check s hm] at hn hdie ⊢
      exact ⟨hn, (hdie f.ddie).2.1.trans (congrArg Die.checks (die_setDie _ _ _))⟩
    · next i hm =>
      rw [eject_bulk s hm] at hn ⊢
      exact hn
    · next h1 h2 h3 =>
      rw [eject_other s h1 h2 h3] at hn ⊢
      exact hn
  · next hd =>
    have hnet := legDone_away s f hd
    change if nextDie f.die f.ddie = 8 ∧ Flit.isBulk f = true then _ else _
    split
    · next hb =>
      rw [if_pos hb] at hnet
      exact hnet
    · next hb =>
      rw [if_neg hb] at hnet
      refine ⟨nextLeg s f, hnet, ?_⟩
      unfold nextLeg
      split
      · next h8 => exact ⟨h8.symm, fun _ => rfl, fun h => absurd rfl h⟩
      · next h8 => exact ⟨rfl, fun h => absurd h h8, fun _ => ⟨rfl, rfl, rfl, rfl⟩⟩

theorem landed_net (s : State) (f : Flit) (u : Nat) : (s.landed f u).net = movedIn s { f with age := u } .landed := by
  have hb (t : State) (c event vd n : Nat) : (t.bump c event vd n).net = t.net := by
    unfold State.bump
    dsimp only
    split <;> rfl
  unfold State.landed
  dsimp only
  split
  · exact (hb _ _ _ _ _).trans (entriesFreed_spec _).1
  · exact (entriesFreed_spec _).1

/-- The flit in a slot. -/
theorem find_inSlot (s : State) {f : Flit} {d l slot : Nat} (hf : f ∈ s.net)
    {p : Flit → Bool} (hp : p f = true)
    (hslot : ∀ g, p g = true → g.die = d ∧ ∃ m c, g.stage = .slot l slot m c)
    (honly : ∀ g ∈ s.net, g.die = d → ∀ m c, g.stage = .slot l slot m c → g = f) : s.net.find? p = some f := by
  cases h : s.net.find? p with
  | none => exact absurd hp (List.find?_eq_none.mp h f hf)
  | some g =>
    obtain ⟨hgd, m, c, hgs⟩ := hslot g (List.find?_some h)
    rw [honly g (List.mem_of_find?_eq_some h) hgd m c hgs]

/-- What FLIT_ARRIVAL does with the flit in a slot. -/
theorem flitArrival_spec (s : State) (d l slot : Nat) (accept : Bool) {f : Flit} {n : Nat} {aging : Bool} (hf : f ∈ s.net)
    (hd : f.die = d) (hst : f.stage = .slot l slot n aging) (hn : n < 4)
    (honly : ∀ g ∈ s.net, g.die = d → ∀ m c, g.stage = .slot l slot m c → g = f) :
    ∃ t, exec (.flitArrival d l slot accept) s = .next t ∧
      if s.filtered f = true ∨ (accept = true ∧ s.flowHeld f = false ∧ s.landedAt d f.ldst f.vc .landed = [] ∧
          s.landedAt d f.ldst f.vc .agingBuf = []) then Left s f t
      else if aging then t.net = movedIn s { f with age := s.nextId } .agingBuf
      else if n + 1 < 4 then t.net = movedIn s f (.slot l slot (n + 1) false)
      else if (s.landedAt d f.ldst f.vc .landed).length < 2 ∧ s.flowHeld f = false then
        t.net = movedIn s { f with age := s.nextId } .landed
      else t.net = movedIn s f (.slot l slot 4 false) := by
  have hx : exec (.flitArrival d l slot accept) s = .next ((s.flitArrival d l slot accept).getD s) := rfl
  rw [hx]
  unfold State.flitArrival
  rw [find_inSlot s hf ?holds ?slot honly]
  case holds =>
    rw [hst]
    simp [hd, hn]
  case slot =>
    intro g hg
    simp only [Bool.and_eq_true, decide_eq_true_eq] at hg
    obtain ⟨hgd, hgs⟩ := hg
    refine ⟨hgd, ?_⟩
    split at hgs
    · next l' p m c hs =>
      simp only [Bool.and_eq_true, decide_eq_true_eq] at hgs
      exact ⟨m, c, by rw [hs, hgs.1.1, hgs.1.2]⟩
    · exact absurd hgs (by simp)
  dsimp only
  split
  rotate_left
  · next hno => exact absurd hst (hno _ _ _ _)
  next l' p' n' aging' hst' =>
  obtain ⟨rfl, rfl, rfl, rfl⟩ : l' = l ∧ p' = slot ∧ n' = n ∧ aging' = aging := by
    have := hst'.symm.trans hst
    injection this with h1 h2 h3 h4
    exact ⟨h1, h2, h3, h4⟩
  by_cases hfil : s.filtered f = true
  · rw [if_pos hfil]
    refine ⟨_, rfl, ?_⟩
    rw [if_pos (Or.inl hfil)]
    exact left_discardFlit s f hfil
  · rw [if_neg hfil]
    have hfil' : s.filtered f = false := Bool.eq_false_iff.mpr hfil
    by_cases hok : accept = true ∧ s.flowHeld f = false ∧ s.landedAt d f.ldst f.vc .landed = [] ∧
        s.landedAt d f.ldst f.vc .agingBuf = []
    · obtain ⟨h1, h2, h3, h4⟩ := hok
      rw [if_pos (by simp [h1, h2, h3, h4])]
      refine ⟨_, rfl, ?_⟩
      rw [if_pos (Or.inr ⟨h1, h2, h3, h4⟩)]
      exact left_legDone s f hfil'
    · rw [if_neg (by simpa [and_assoc] using hok)]
      unfold State.fresh
      dsimp only
      have hno : ¬ (s.filtered f = true ∨ accept = true ∧ s.flowHeld f = false ∧
          s.landedAt d f.ldst f.vc .landed = [] ∧ s.landedAt d f.ldst f.vc .agingBuf = []) := fun h => h.elim hfil hok
      by_cases hag : aging' = true
      · rw [if_pos hag]
        refine ⟨_, rfl, ?_⟩
        rw [if_neg hno, if_pos hag]
        exact (entriesFreed_spec _).1
      · rw [if_neg hag]
        by_cases hn1 : n' + 1 < 4
        · rw [if_pos hn1]
          refine ⟨_, rfl, ?_⟩
          rw [if_neg hno, if_neg hag, if_pos hn1]
          rfl
        · rw [if_neg hn1, show State.landedAt { s with nextId := s.nextId + 1 } d f.ldst f.vc .landed =
            s.landedAt d f.ldst f.vc .landed from rfl, show State.flowHeld { s with nextId := s.nextId + 1 } f =
            s.flowHeld f from rfl]
          by_cases hl : (s.landedAt d f.ldst f.vc .landed).length < 2 ∧ s.flowHeld f = false
          · rw [if_pos (by simpa using hl)]
            refine ⟨_, rfl, ?_⟩
            rw [if_neg hno, if_neg hag, if_neg hn1, if_pos hl]
            exact landed_net _ f s.nextId
          · rw [if_neg (by simpa using hl)]
            refine ⟨_, rfl, ?_⟩
            rw [if_neg hno, if_neg hag, if_neg hn1, if_neg hl]
            rfl

/-- FLIT_TAKEN_BACK. -/
theorem flitTakenBack_spec (s : State) (d l slot : Nat) {f : Flit} (hf : f ∈ s.net) (hd : f.die = d)
    (hst : f.stage = .slot l slot 4 false)
    (honly : ∀ g ∈ s.net, g.die = d → ∀ m c, g.stage = .slot l slot m c → g = f) :
    ∃ t, exec (.flitTakenBack d l slot) s = .next t ∧ t.net = movedIn s f .takenBack := by
  have hx : exec (.flitTakenBack d l slot) s = .next ((s.flitTakenBack d l slot).getD s) := rfl
  rw [hx]
  unfold State.flitTakenBack
  rw [find_inSlot s hf ?holds ?slot honly]
  case holds => simp [hd, hst]
  case slot =>
    intro g hg
    simp only [Bool.and_eq_true, decide_eq_true_eq] at hg
    exact ⟨hg.1, _, _, hg.2⟩
  exact ⟨_, rfl, rfl⟩

/-- LANDED_FLIT_ACCEPT takes from the aging buffers first. -/
theorem landedAccept_spec (s : State) (d stop vc : Nat) {aged : List Flit}
    (haged : (s.landedAt d stop vc .agingBuf).filter (fun f => !(s.net.any fun g => g.before f &&
      (g.atSource f.die f.lsrc || g.stage = .landed || g.stage = .agingBuf))) = aged)
    (hne : aged ≠ [] ∨ s.landedAt d stop vc .landed ≠ []) :
    ∃ t f, exec (.landedFlitAccept d stop vc) s = .next t ∧ Left s f t ∧ (aged ≠ [] → FirstOf f aged) ∧
      (aged = [] → FirstOf f (s.landedAt d stop vc .landed)) := by
  obtain ⟨f, r, hl, h1, h2⟩ : ∃ f r, byAge aged ++ byAge (s.landedAt d stop vc .landed) = f :: r ∧
      (aged ≠ [] → FirstOf f aged) ∧ (aged = [] → FirstOf f (s.landedAt d stop vc .landed)) := by
    cases ha : byAge aged with
    | nil =>
      have haz := byAge_eq_nil.mp ha
      cases hb : byAge (s.landedAt d stop vc .landed) with
      | nil => exact absurd (byAge_eq_nil.mp hb) (hne.resolve_left fun h => h haz)
      | cons f r => exact ⟨f, r, rfl, fun h => absurd haz h, fun _ => firstOf_of_cons hb⟩
    | cons f r =>
      refine ⟨f, _, rfl, fun _ => firstOf_of_cons ha, fun h => ?_⟩
      rw [h] at ha
      exact absurd ha (by simp [byAge])
  have hx : exec (.landedFlitAccept d stop vc) s = .next ((s.landedAccept d stop vc).getD s) := rfl
  rw [hx]
  unfold State.landedAccept
  dsimp only
  rw [haged, hl]
  dsimp only
  by_cases hfil : s.filtered f = true
  · rw [if_pos hfil]
    exact ⟨_, f, rfl, left_discardFlit s f hfil, h1, h2⟩
  · rw [if_neg hfil]
    exact ⟨_, f, rfl, left_legDone s f (Bool.eq_false_iff.mpr hfil), h1, h2⟩

/-- Settles O43: each event of a corridor by the flit that it takes and where it puts it. -/
theorem corridorEvents : Obligations.CorridorEvents := by
  intro s d l slot moved empty first leaves
  refine ⟨?_, ?_, ?_, fun f hf hd hst honly => flitTakenBack_spec s d l slot hf hd hst honly, ?_⟩
  rotate_right
  · intro stop vc free aged down hne
    exact landedAccept_spec s d stop vc rfl hne
  · intro stop h64 h16 he st can of hne
    obtain ⟨t, ht, hslots, hnet⟩ := injectionSlot_spec s d stop l slot h64 h16 (slotEmpty_of s d l slot he)
      (placeable_waiting s d stop l) hne
    refine ⟨t, ht, hslots.trans (congrArg (· + 1) (inject_slots s d st can _)), ?_, ?_,
      fun h15 => ?_, fun h15 e he hof hno => ?_⟩
    · rw [hnet]
      cases hi : (s.inject d st can (s.waitingAt d stop)).1 with
      | none => exact .inl rfl
      | some f => exact .inr ⟨f, inject_mem s d st can _ f hi, rfl⟩
    · intro h15 hs hc hr w q left
      refine ⟨drrRound_goes s d st w, drrRound_new s d st w, ?_⟩
      rw [inject_drr s d st can _ h15 (findSome_sys_none can hs hc hr)] at hnet
      split
      · next f q' hp =>
        obtain ⟨hfirst, hd, hpos, hdef⟩ := drrPick_some hp
        rw [hp] at hnet
        refine ⟨hnet, ?_, hd, hpos, hdef⟩
        rw [List.filter_filter] at hfirst
        have hsame : (can.filter fun g => g.vd = f.vd && g.vc = f.vc) =
            can.filter fun g => (g.vd = f.vd && g.vc = f.vc) && isDrr g.vc := by
          refine List.filter_congr fun g _ => ?_
          by_cases hg : g.vc = f.vc
          · rw [hg, hd, Bool.and_true]
          · simp [hg]
        rw [hsame]
        exact hfirst
      · next hp =>
        rw [hp] at hnet
        exact ⟨hnet, fun f hf hd hr => drrPick_none hp f (List.mem_filter.mpr ⟨hf, hd⟩) hd hr⟩
    · rw [inject_oldest s d st can _ h15] at hnet
      obtain ⟨f, ho, hfirst⟩ := oldest_of_ne hne
      rw [ho] at hnet
      exact ⟨f, hfirst, hnet⟩
    · obtain ⟨f, hf, hfirst⟩ := findSome_sys can e he hof hno
      rw [inject_first s d st can _ h15 f hf] at hnet
      exact ⟨f, hfirst, hnet⟩
  · intro h64 h16 he own can done
    have hse := slotEmpty_of s d l slot he
    have hcan : (s.waitingAt d own).filter (·.mayUse l) = can := by
      unfold State.waitingAt
      rw [List.filter_filter]
      exact List.filter_congr fun f _ => Bool.and_comm _ _
    refine ⟨fun hne hd => ?_, agingTurn_done s d l slot, agingTenureEnd_spec s d l slot h64 h16 hse⟩
    have := agingTurn_spec s d l slot h64 h16 hse hd (by rw [hcan]; exact hne)
    rw [hcan] at this
    exact this
  · intro f hf n aging accept hd hst hn honly landed held
    exact flitArrival_spec s d l slot accept hf hd hst hn honly

end Sys2Proof.Safety
end

section
/-! SUPPORT. The CONTROL forms, TLBINV, LRES and LMOVE complete (O58). -/

namespace Sys2Proof.Safety

open Sys2Proof.Machine

/-! The CONTROL forms -/

theorem Retires.completes {i : Instr} {s : State} {u : Use} {l : List Eff} {r : RegSet} (h : Retires i s u l)
    (hr : ({ l.foldl RegSet.eff s.regs with pc := (effJump l).getD (s.pc + 1) } : RegSet) = r) :
    ∃ t, exec i s = .next t ∧ t.regs = r := by
  obtain ⟨t, he, ht⟩ := h
  exact ⟨t, he, ht.regs.trans hr⟩

theorem effJump_effS (d : SOp) (x : Word) (p : Bool) : effJump [effS d x p] = none := by cases d <;> rfl

theorem effJump_effP (d : POp) (b : Bool) : effJump [effP d b] = none := by cases d <;> rfl

theorem effJump_effS_jump (d : SOp) (x : Word) (p : Bool) (t : Pc) : effJump [effS d x p, .jump t] = some t := by
  cases d <;> rfl

theorem controlFormsComplete : Claim.ControlFormsComplete := by
  intro s g off a d pc space link n tgt completes
  obtain ⟨hb1, hb2, hb3⟩ := branchesAndCalls s g
  obtain ⟨hnop, hclk, _⟩ := plainControl s g d
  refine ⟨fun h h0 h1 => ?br, fun h h0 h1 => ?loop, fun h => ?bri, fun h => ?ret, fun h => ?nop, fun h => ?clk⟩
  case br =>
    have := (hb1 off d).1 h
    rw [if_pos ⟨h0, h1⟩] at this
    exact ⟨this.1.completes rfl, this.2.completes rfl⟩
  case loop =>
    intro x hp
    have := (hb1 off d).2 h
    rw [if_pos ⟨h0, h1⟩, if_neg (show ¬ x.p = true by rw [hp]; decide)] at this
    refine this.completes ?_
    split
    · next hx =>
      rw [effJump_effS, show x.v - 1 = 0 from hx]
      rfl
    · rw [effJump_effS_jump]
      rfl
  case bri =>
    intro x hp
    have := hb2 a h
    dsimp only at this
    rw [if_neg (by rw [hp]; decide)] at this
    exact ⟨this.1.completes rfl, this.2.completes rfl⟩
  case ret =>
    intro hp
    have := hb3 h
    dsimp only at this
    rw [if_neg (by rw [hp]; decide)] at this
    exact this.completes rfl
  case nop => 
    refine ⟨(hnop h).completes rfl, s.ifence, ?_, (settled_ifence s).regs⟩
    show Host.Outcome.next (s.issue g {} (fun _ => .ok ()) fun s _ => s.ifence) = _
    rw [issue_ok h (x := ()) rfl, holdChans_none rfl]
  case clk =>
    obtain ⟨h1, h2⟩ := hclk h
    refine ⟨h1.completes ?_, h2.completes ?_⟩ <;> rw [effJump_effS] <;> rfl

/-! The registers of the parties through the actions on a page -/

/-- The issuer and the registers of every party stand as they were. -/
structure SameRegs (s t : State) : Prop where
  cur : t.cur = s.cur
  regsOf : ∀ c p, t.regsOf c p = s.regsOf c p

theorem SameRegs.refl (s : State) : SameRegs s s := ⟨rfl, fun _ _ => rfl⟩

theorem SameRegs.trans {s t u : State} (h : SameRegs s t) (k : SameRegs t u) : SameRegs s u :=
  ⟨k.cur.trans h.cur, fun c p => (k.regsOf c p).trans (h.regsOf c p)⟩

theorem SameRegs.regs {s t : State} (h : SameRegs s t) : t.regs = s.regs := by
  rw [State.regs, State.regs, h.cur, h.regsOf]

theorem sameRegs_of_cores {s t : State} (hcur : t.cur = s.cur) (h : ∀ c, (t.core c).strands = (s.core c).strands ∧
    (t.core c).porter = (s.core c).porter) : SameRegs s t := by
  refine ⟨hcur, fun c p => ?_⟩
  obtain ⟨hs, hp⟩ := h c
  simp only [State.regsOf, State.porter, State.strand, hs, hp]

theorem CacheSide.porter {s t : State} (h : CacheSide s t) (c : Nat) : t.porter c = s.porter c :=
  (congrArg Core.porter (h.core c) :)

theorem CacheSide.sameRegs {s t : State} (h : CacheSide s t) : SameRegs s t := by
  refine ⟨h.cur, fun c p => ?_⟩
  have hs : (t.strand c p).regs = (s.strand c p).regs := (congrArg Strand.regs (h.strand c p) :)
  simp only [State.regsOf, h.porter, hs]

theorem CacheSide.curSpace {s t : State} (h : CacheSide s t) : t.curSpace = s.curSpace := by
  have ht (p : Nat) : (t.strand s.cur.core p).tag = (s.strand s.cur.core p).tag :=
    (congrArg Strand.tag (h.strand s.cur.core p) :)
  have hc (k i : Nat) : t.ctx k i = s.ctx k i := by
    have : (t.cluster k).ctxs = (s.cluster k).ctxs := (congrArg Cluster.ctxs (h.cluster k) :)
    simp only [State.ctx, this]
  simp only [State.curSpace, State.spaceOf, State.curCluster, State.tag, State.level, State.isPorter, h.cur, h.porter, ht, hc]
  rfl

theorem regs_holdChans (s t : State) (u : Use) : (s.holdChans t u).regs = t.regs := by
  unfold State.holdChans
  split
  · show State.regsOf _ t.cur.core t.cur.pos = t.regsOf t.cur.core t.cur.pos
    by_cases hp : t.cur.pos = 6
    · simp only [State.regsOf, hp, porter_setStrand, if_true]
    · simp only [State.regsOf, if_neg hp, strand_setStrand_eq]
      split
      · next h => rw [h.1, h.2]
      · rfl
  · rfl

/-- What retires after an action that leaves the registers has its effect on them alone. -/
theorem completes_retireS {s t b : State} {u v : Use} {d : SOp} {w : Word} (h : SameRegs s t) :
    (b.holdChans (t.retireS u d w) v).regs = ({ s.regs.eff (effS d w false) with pc := s.pc + 1 } : RegSet) := by
  rw [regs_holdChans, State.retireS, putS_ok (fun _ _ => rfl) 4]
  have := (settled_retire t u [effS d w false] (by simp [effS_notLs])).regs
  rw [this, effJump_effS, h.regs, State.pc, h.regs]
  rfl

/-- Every core changed by a function that leaves its strands and its porter. -/
theorem sameRegs_mapCores {s t : State} (f : Core → Core) (hf : ∀ x, (f x).strands = x.strands ∧ (f x).porter = x.porter)
    (hcur : t.cur = s.cur) (h : t.cores = s.cores.map fun x => (x.1, f x.2)) : SameRegs s t := by
  refine sameRegs_of_cores hcur fun c => ?_
  unfold State.core mapGet
  rw [h, mapGet?_map s.cores (fun _ => f)]
  cases mapGet? s.cores c with
  | none => exact ⟨rfl, rfl⟩
  | some x => exact hf x

theorem sameRegs_tlbDrop (s : State) (f : TlbEntry → Bool) : SameRegs s (s.tlbDrop f) :=
  sameRegs_mapCores (fun x => { x with tlb := x.tlb.filter fun e => !f e }) (fun _ => ⟨rfl, rfl⟩) rfl rfl

theorem homeSide_endWatches (s : State) (f : Watch → Bool) : HomeSide s (s.endWatches f) := homeSide_setSlices ..

/-- Every cluster's cache changed. -/
theorem cacheSide_mapCaches {s t : State} (f : Cluster → List CExt) (hcur : t.cur = s.cur) (hcy : t.cycle = s.cycle)
    (hc : t.cores = s.cores) (hm : t.mem = s.mem)
    (hk : t.clusters = s.clusters.map fun x => (x.1, { x.2 with cache := f x.2 })) : CacheSide s t := by
  have hcore (c : Nat) : t.core c = s.core c := by rw [State.core, State.core, hc]
  refine ⟨hcur, hcy, fun c p => by rw [State.strand, hcore]; rfl, fun c => by rw [hcore], fun k => ?_, keepsMem_of hm hc⟩
  have h := mapGet?_map s.clusters (fun _ (x : Cluster) => ({ x with cache := f x } : Cluster)) k
  rw [State.cluster, mapGet, hk]
  refine (congrArg (fun x : Option Cluster => ({ x.getD Cluster.init with cache := _, routes := _, hand := _ } : Cluster)) h).trans ?_
  unfold State.cluster mapGet
  cases mapGet? s.clusters k with
  | none => rfl
  | some x => rfl

theorem homeSide_setNet (s : State) (l : List Flit) : HomeSide s { s with net := l } := homeSide_of rfl rfl rfl rfl rfl

theorem homeSide_forgetAll (s : State) (f : Nat → HReq → Bool) : HomeSide s (s.forgetAll f) := homeSide_setNet ..

theorem homeSide_leaveTomb (s : State) (sl : Nat) (k : PageKey) : HomeSide s (s.leaveTomb sl k) := homeSide_setSlice ..

theorem homeSide_recallPage (s : State) (k : PageKey) : HomeSide s (s.recallPage k) :=
  homeSide_foldl (fun s o => homeSide_recall s o) _ _

theorem cacheSide_bindFrame (s : State) (k : PageKey) (frame : Nat) : CacheSide s (s.bindFrame k frame) :=
  cacheSide_mapCaches (fun x => x.cache.map fun e => if k.holds e.sp e.start e.data.length then
    { e with leaf := { e.leaf with frame := frame, pte := noPte } } else e) rfl rfl rfl rfl rfl

theorem homeSide_purgeClusters (s : State) (k : PageKey) : HomeSide s (s.purgeClusters k) :=
  (homeSide_foldl (fun s (c : Nat × Cluster) => homeSide_foldl (fun s e => homeSide_evictC s c.1 e) _ s) s.clusters s).trans
    (homeSide_forgetAll ..)

theorem homeSide_purgeSlice (s : State) (sl : Nat) (k : PageKey) : HomeSide s (s.purgeSlice sl k).2 := by
  refine (homeSide_foldl (fun s (e : HExt) => ?_) _ s).trans (homeSide_leaveTomb ..)
  split
  · exact .refl s
  · exact homeSide_writeBack ..

theorem homeSide_foldl_snd {α β : Type} {f : β × State → α → β × State} (h : ∀ r x, HomeSide r.2 (f r x).2) (l : List α)
    (r : β × State) : HomeSide r.2 (l.foldl f r).2 := by
  induction l generalizing r with
  | nil => exact .refl _
  | cons x t ih => exact (h r x).trans (ih _)

theorem cacheSide_dropPage (s : State) (l : Leaf) (k : PageKey) : CacheSide s (s.dropPage l k).2 := by
  unfold State.dropPage
  obtain ⟨sls, hsl⟩ : ∃ sls, (List.range 96).map (96 * l.home + ·) = sls := ⟨_, rfl⟩
  rw [hsl]
  extract_lets n cl a b
  have h : CacheSide s { s with clusters := cl } := cacheSide_mapCaches
    (fun x => x.cache.filter fun e => !k.holds e.sp e.start e.data.length) rfl rfl rfl rfl rfl
  have hb : HomeSide a b := homeSide_foldl (fun s sl => homeSide_leaveTomb s sl k) _ a
  exact h.trans ((homeSide_forgetAll ..).trans (hb.trans (homeSide_recallPage b k))).toCacheSide

theorem cacheSide_purgePage (s : State) (l : Leaf) (k : PageKey) : CacheSide s (s.purgePage l k).2 := by
  unfold State.purgePage
  obtain ⟨sls, hsl⟩ : ∃ sls, (List.range 96).map (96 * l.home + ·) = sls := ⟨_, rfl⟩
  rw [hsl]
  split
  · exact cacheSide_dropPage ..
  · extract_lets a b
    have ha : CacheSide s a := by
      show CacheSide s (if l.loft then s.bindFrame k l.frame else s)
      split
      · exact cacheSide_bindFrame ..
      · exact .refl s
    have hb : HomeSide a b := (homeSide_recallPage a k).trans (homeSide_purgeClusters _ k)
    refine ha.trans (hb.trans (homeSide_foldl_snd ?_ sls (0, b))).toCacheSide
    exact fun r sl => homeSide_purgeSlice r.2 sl k

theorem homeSide_entryRead {s t : State} {d vd pa : Nat} (h : s.entryRead d vd pa = some t) : HomeSide s t := by
  unfold State.entryRead at h
  dsimp only at h
  split at h
  · cases h
  · cases h
    exact (homeSide_settle ..).trans <| (homeSide_fillHome ..).trans <| (homeSide_sendBulk ..).trans (homeSide_sendBulk ..)

theorem homeSide_walkReads {s t : State} {d vd root dva : Nat} (h : s.walkReads d vd root dva = some t) : HomeSide s t := by
  unfold State.walkReads at h
  split at h
  · cases h
    exact .refl s
  · obtain ⟨a, ha, h⟩ := Option.bind_eq_some_iff.mp h
    refine (homeSide_entryRead ha).trans ?_
    dsimp only at h
    split at h
    · cases h
      exact .refl _
    · split at h
      · cases h
        exact .refl _
      · obtain ⟨b, hb, h⟩ := Option.bind_eq_some_iff.mp h
        refine (homeSide_entryRead hb).trans ?_
        split at h
        · cases h
          exact .refl _
        · split at h
          · cases h
            exact .refl _
          · exact homeSide_entryRead h

theorem homeSide_moveExt (s : State) (sl new : Nat) (e : HExt) : HomeSide s (s.moveExt sl new e) := by
  unfold State.moveExt
  extract_lets t y x a
  refine HomeSide.trans (t := a) (homeSide_sendBulk s _ _ _ _ _ _ _ _ _) ?_
  split
  · next h => exact homeSide_changeFramed h
  · exact homeSide_lacks ..

theorem homeSide_moveExts (s : State) (k : PageKey) (old new : Nat) : HomeSide s (s.moveExts k old new) :=
  homeSide_foldl (fun s sl => (homeSide_foldl (fun s (_ : Pin) => homeSide_setSlice s ..) _ s).trans <|
    (homeSide_leaveTomb ..).trans (homeSide_foldl (fun s e => homeSide_moveExt s sl new e) _ _)) _ s

theorem sameRegs_lmovePage (s : State) (vd dva new : Nat) (l : Leaf) : SameRegs s (s.lmovePage vd dva new l) := by
  unfold State.lmovePage
  extract_lets k a cs b c d w e f g move cl u
  have h1 : HomeSide s d := (homeSide_recallPage ..).trans <| (homeSide_foldl (fun s c => homeSide_combineWord s c) _ _).trans <|
    (homeSide_trimSharers ..).trans (homeSide_moveExts ..)
  have h2 : SameRegs d f := (cacheSide_physStore ..).sameRegs.trans (sameRegs_tlbDrop ..)
  have h3 : CacheSide g u := cacheSide_mapCaches (fun x => x.cache.map move) rfl rfl rfl rfl rfl
  exact h1.sameRegs.trans <| h2.trans <|
    (((homeSide_endWatches ..).toCacheSide.trans h3).trans (homeSide_forgetAll ..).toCacheSide).sameRegs

/-! The forms on pages -/

theorem tlbinv_completes {s : State} {g : Guard} {d a b : SOp} {sel : BitVec 16} (h : Clear s g (formTlbinv d a b))
    {x y : PWord} (hx : (s.view (formTlbinv d a b).use).s (s.view (formTlbinv d a b).use).a a = x)
    (hy : (s.view (formTlbinv d a b).use).s (s.view (formTlbinv d a b).use).b b = y) (hxp : x.p = false)
    (hyp : y.p = false) {t : State} {w : Word} (hr : SameRegs s t)
    (he : s.tlbinvNow (formTlbinv d a b).use d sel.toNat x.v y.v = t.retireS (formTlbinv d a b).use d w) :
    ∃ t w', exec (.tlbinv g d a b sel) s = .next t ∧ w' = w ∧
      t.regs = ({ s.regs.eff (effS d w' false) with pc := s.pc + 1 } : RegSet) := by
  have hfx : fxTlbinv a b (s.view (formTlbinv d a b).use) = .ok (x.v, y.v) := by
    unfold fxTlbinv
    subst hx hy
    simp only [hxp, hyp]
    rfl
  have hact := issue_ok h hfx fun s r => s.tlbinvNow (formTlbinv d a b).use d sel.toNat r.1 r.2
  refine ⟨_, w, congrArg Host.Outcome.next hact, rfl, ?_⟩
  dsimp only
  rw [he]
  exact completes_retireS hr

/-- TLBINV that purges no page. -/
theorem tlbinvNow_plain {s : State} (hs : s.short = none) (u : Use) (d : SOp) {mode : Nat} (a b : Word)
    (h : mode ≠ 1 ∨ oldLeaf b = none) : ∃ t, SameRegs s t ∧ s.tlbinvNow u d mode a b = t.retireS u d 0 := by
  obtain ⟨⟨vd, asid, root⟩, hsp⟩ : ∃ x, s.curSpace = x := ⟨_, rfl⟩
  obtain ⟨k, hk⟩ : ∃ k, (oldLeaf b).map (fun l => (l, pageOf l vd (a.toNat % 2 ^ 56))) = k := ⟨_, rfl⟩
  have hp : (decide (mode = 1) && k.isSome) = false := by
    subst hk
    rcases h with h | h
    · rw [decide_eq_false h, Bool.false_and]
    · rw [h]
      exact Bool.and_false _
  unfold State.tlbinvNow
  rw [hsp]
  dsimp only
  rw [hk, hp]
  generalize hr : (s.tlbDrop _).endWatches _ = r
  have hsame : SameRegs s r ∧ r.short = s.short :=
    hr ▸ ⟨(sameRegs_tlbDrop ..).trans (homeSide_endWatches ..).sameRegs, rfl⟩
  refine ⟨r.anyway, hsame.1.trans ⟨rfl, fun _ _ => rfl⟩,
    (if_neg Bool.false_ne_true).trans <| (if_neg Bool.false_ne_true).trans (if_neg ?_)⟩
  show ¬ r.short = some none
  rw [hsame.2, hs]
  nofun

/-- TLBINV that purges the page of a leaf. -/
theorem tlbinvNow_purge {s : State} (u : Use) (d : SOp) {a b : Word} {l : Leaf} (h : oldLeaf b = some l) {k : PageKey}
    (hk : pageOf l s.curSpace.1 (a.toNat % 2 ^ 56) = k)
    (hj : s.pageJobs s.curSpace.1 s.curSpace.2.1 (a.toNat % 2 ^ 56 / k.size * k.size) k.size = false)
    (hh : s.pageHeld k = false) (hjoin : s.pageJoins k = false) {t : Nat × State}
    (ht : ((s.tlbDrop fun e => e.vd = s.curSpace.1 && e.asid = s.curSpace.2.1 &&
      (e.page ≤ a.toNat % 2 ^ 56 && a.toNat % 2 ^ 56 < e.page + pageSize e.large)).endWatches
        (s.dyingWatch false s.curSpace.1 s.curSpace.2.1 (a.toNat % 2 ^ 56) (some k))).purgePage l k = t)
    (hshort : t.2.short ≠ some none) : s.tlbinvNow u d 1 a b = t.2.anyway.retireS u d (BitVec.ofNat 64 t.1) := by
  obtain ⟨⟨vd, asid, root⟩, hsp⟩ : ∃ x, s.curSpace = x := ⟨_, rfl⟩
  rw [hsp] at hk hj ht
  unfold State.tlbinvNow
  rw [hsp, h]
  dsimp only [Option.map_some] at hk hj ht ⊢
  rw [hk]
  refine (if_neg ?_).trans ((if_neg ?_).trans ?_)
  · exact ne_true_of_eq_false hj
  · exact ne_true_of_eq_false (congrArg₂ (· || ·) hh hjoin)
  · subst ht
    exact if_neg hshort

theorem lres_completes {s : State} {g : Guard} {d : POp} {a b : SOp} {sel : BitVec 16} (h : Clear s g (formLres d a b))
    {x y : PWord} (hx : (s.view (formLres d a b).use).s (s.view (formLres d a b).use).a a = x)
    (hy : (s.view (formLres d a b).use).s (s.view (formLres d a b).use).b b = y) (hxp : x.p = false)
    (hyp : y.p = false) (hvd : x.v.toNat < 64) (hk : s.level = .k → x.v.toNat = s.curVd) :
    ∃ t, exec (.lres g d a b sel) s = .next t ∧
      t.regs = ({ s.regs.eff (effP d (s.reserve sel.toNat x.v.toNat y.v.toNat).1) with pc := s.pc + 1 } : RegSet) := by
  have hfx : fxLres s a b (s.view (formLres d a b).use) = .ok (x.v.toNat, y.v) := by
    unfold fxLres
    rw [hx, hy]
    dsimp only
    rw [hxp, hyp]
    show (if _ then _ else _) = _
    rw [if_neg (by omega), if_neg]
    · rfl
    · rw [Bool.and_eq_true, not_and]
      exact fun h => by simpa using hk (of_decide_eq_true h)
  have hact := issue_ok h hfx fun s r =>
    let (ok, s) := s.reserve sel.toNat r.1 r.2.toNat
    (s.takeSrcs (formLres d a b).use).retire (putP d ok)
  refine ⟨_, congrArg Host.Outcome.next hact, ?_⟩
  rw [regs_holdChans]
  dsimp only
  have hs : SameRegs s (s.reserve sel.toNat x.v.toNat y.v.toNat).2 := by
    unfold State.reserve
    split
    · exact .refl s
    · exact (homeSide_setDie ..).sameRegs
  rw [putP_eq]
  refine ((settled_retire _ (formLres d a b).use _ (by simp [effP_notLs])).regs).trans ?_
  rw [effJump_effP, hs.regs, State.pc, hs.regs]
  rfl

theorem reserve_fst (s : State) (die vd n : Nat) : (s.reserve die vd n).1 = decide (n ≤ 8192 ∧
    (((s.die die).alloc.filter fun r => r.1 ≠ vd).map fun r => (r.2.extractLsb' 32 15).toNat).sum + n ≤ 8192) := by
  unfold State.reserve
  split
  · next h =>
    refine (decide_eq_false fun hn => ?_).symm
    rw [Bool.or_eq_true, decide_eq_true_eq, decide_eq_true_eq] at h
    have h2 : s.otherLoft die vd + n ≤ 8192 := hn.2
    omega
  · next h =>
    refine (decide_eq_true ?_).symm
    rw [Bool.or_eq_true, decide_eq_true_eq, decide_eq_true_eq, not_or] at h
    exact ⟨by omega, Nat.le_of_not_lt h.2⟩

theorem lmove_completes {s b : State} {g : Guard} {d a : SOp} {sel : BitVec 16} (h : Clear s g (formLmove d a)) {x : PWord}
    (hx : (s.view (formLmove d a).use).s (s.view (formLmove d a).use).a a = x) (hxp : x.p = false)
    (hbusy : s.walkersBusy (dieOf s.cur.core) = false)
    (hr : s.walkReads (dieOf s.cur.core) s.curSpace.1 s.curSpace.2.2 (x.v.toNat % 2 ^ 56) = some b) {l : Leaf}
    (hw : b.walk s.curSpace.2.2 (x.v.toNat % 2 ^ 56) = .ok l) {t : State} {w : Word} (hb : SameRegs b t)
    (he : b.lmoveLeaf (formLmove d a).use d sel.toNat (x.v.toNat % 2 ^ 56) l = t.retireS (formLmove d a).use d w) :
    ∃ t, exec (.lmove g d a sel) s = .next t ∧
      t.regs = ({ s.regs.eff (effS d w false) with pc := s.pc + 1 } : RegSet) := by
  have hfx : fxLmove a (s.view (formLmove d a).use) = .ok (x.v.toNat % 2 ^ 56) := by
    unfold fxLmove
    subst hx
    simp only [hxp]
    rfl
  have hact := issue_ok h hfx fun s dva => s.lmoveNow (formLmove d a).use d sel.toNat dva
  refine ⟨_, congrArg Host.Outcome.next hact, ?_⟩
  dsimp only
  have hnow : s.lmoveNow (formLmove d a).use d sel.toNat (x.v.toNat % 2 ^ 56) =
      t.retireS (formLmove d a).use d w := by
    unfold State.lmoveNow
    simp only [hbusy, hr, hw, Bool.false_eq_true, if_false]
    exact he
  rw [hnow]
  exact completes_retireS ((homeSide_walkReads hr).sameRegs.trans hb)

theorem lmoveLeaf_moves {b : State} (u : Use) (d : SOp) {new dva : Nat} {l : Leaf} (hl : l.loft = true) (hh : l.home ≠ new)
    (ha : allotLoft (b.allot new b.curSpace.1) ≠ 0) {k : PageKey} (hk : pageOf l b.curSpace.1 dva = k)
    (hr : (b.slices.any fun y => y.2.regs.any fun r => k.holds r.sp r.addr 8) = false) (hc : b.recallHeld k = false)
    (hb : b.blocked .phys (b.leafAt l.pte) l.pte 8 true = false)
    (hs : (b.lmovePage b.curSpace.1 dva new l).short = none) :
    b.lmoveLeaf u d new dva l = (b.lmovePage b.curSpace.1 dva new l).retireS u d 0 := by
  unfold State.lmoveLeaf
  dsimp only
  rw [hk, hl, hr, hc, hb, if_neg (by decide), if_neg hh, if_neg ha, if_neg (by decide)]
  simp only [hs]

theorem pageFormsComplete : Claim.PageFormsComplete := by
  intro s g sel hshort vd
  refine ⟨?tlbinv, ?lres, ?lmove⟩
  case tlbinv =>
    intro d a b hsel h v x y dva hx hy completes
    refine ⟨fun hm => ?_, fun l hs hl => ?_⟩
    · obtain ⟨t, hr, he⟩ := tlbinvNow_plain hshort (formTlbinv d a b).use d (mode := sel.toNat) x.v y.v
        (hm.imp_left fun h0 h1 => h0 (BitVec.eq_of_toNat_eq h1))
      exact tlbinv_completes h rfl rfl hx hy hr he
    · intro k t hj hh hjoin ht
      have he := tlbinvNow_purge (formTlbinv d a b).use d (a := x.v) hl rfl hj hh hjoin rfl ht
      have h1 : sel.toNat = 1 := congrArg BitVec.toNat hs
      refine tlbinv_completes h rfl rfl hx hy (t := t.2.anyway) ?_ (h1 ▸ he)
      exact (sameRegs_tlbDrop ..).trans <| ((homeSide_endWatches ..).toCacheSide.trans
        (cacheSide_purgePage ..)).sameRegs.trans ⟨rfl, fun _ _ => rfl⟩
  case lres =>
    intro d a b _ h v x y hx hy hvd hk sum
    have := lres_completes (sel := sel) h rfl rfl hx hy hvd hk
    rwa [reserve_fst] at this
  case lmove =>
    intro d a _ h x dva hx hbusy b hb l hw k completes
    have hv : b.curSpace.1 = vd := congrArg Prod.fst (homeSide_walkReads hb).curSpace
    have hc {t : State} {w : Word} := lmove_completes (sel := sel) (t := t) (w := w) h rfl hx hbusy hb hw
    refine ⟨fun hl => hc (.refl b) (if_pos (by rw [hl]; rfl)), fun hl hh => hc (.refl b) ?same, fun hl hh ha => hc (.refl b) ?room,
      fun hl hh ha hr hr2 hbl hs => hc (sameRegs_lmovePage b vd dva sel.toNat l) ?moves⟩
    case same => exact (if_neg (by rw [hl]; decide)).trans (if_pos hh)
    case room =>
      have hz : allotLoft (b.allot sel.toNat vd) = 0 := congrArg BitVec.toNat ha
      rw [← hv] at hz
      exact (if_neg (by rw [hl]; decide)).trans <| (if_neg hh).trans (if_pos hz)
    case moves =>
      have hz : allotLoft (b.allot sel.toNat vd) ≠ 0 := fun h => ha (BitVec.eq_of_toNat_eq h)
      have := lmoveLeaf_moves (b := b) (formLmove d a).use d hl hh (hv ▸ hz) rfl (hv ▸ hr) (hv ▸ hr2) hbl (hv ▸ hs)
      rwa [hv] at this

/-- Settles O58. -/
theorem formsComplete : Obligations.FormsComplete := ⟨controlFormsComplete, pageFormsComplete⟩

end Sys2Proof.Safety
end

section
/-! SUPPORT. What the end of a job changes (R374, R376). -/

namespace Sys2Proof.Safety

open Sys2Proof.Machine

/-! What a job's end changes beside its slot: completion words are written or logged, and those who wait look again -/

/-- The strands stand as they were but for whether they run; of the clusters only caches, TLBs, logs and jobs change. -/
structure JobSide (s t : State) : Prop where
  strand : ∀ c p, ({ t.strand c p with
    st := (s.strand c p).st, wait := (s.strand c p).wait, notBefore := (s.strand c p).notBefore
    again := (s.strand c p).again, stopPending := (s.strand c p).stopPending, left := (s.strand c p).left
    leftWait := (s.strand c p).leftWait, rell := (s.strand c p).rell } : Strand) = s.strand c p
  going : Going s t
  cluster : ∀ k, ({ t.cluster k with
    cache := (s.cluster k).cache, routes := (s.cluster k).routes, hand := (s.cluster k).hand, tlb := (s.cluster k).tlb
    log := (s.cluster k).log, jobs := (s.cluster k).jobs } : Cluster) = s.cluster k
  saved : ∀ c, (t.core c).saved = (s.core c).saved

theorem JobSide.refl (s : State) : JobSide s s := ⟨fun _ _ => rfl, .refl s, fun _ => rfl, fun _ => rfl⟩

theorem JobSide.trans {s t u : State} (h : JobSide s t) (k : JobSide t u) : JobSide s u where
  strand c p := by
    have e := congrArg (fun x : Strand => ({ x with
      st := (s.strand c p).st, wait := (s.strand c p).wait, notBefore := (s.strand c p).notBefore
      again := (s.strand c p).again, stopPending := (s.strand c p).stopPending, left := (s.strand c p).left
      leftWait := (s.strand c p).leftWait, rell := (s.strand c p).rell } : Strand)) (k.strand c p)
    exact e.trans (h.strand c p)
  going := h.going.trans k.going
  cluster c := by
    have e := congrArg (fun x : Cluster => ({ x with
      cache := (s.cluster c).cache, routes := (s.cluster c).routes, hand := (s.cluster c).hand, tlb := (s.cluster c).tlb
      log := (s.cluster c).log, jobs := (s.cluster c).jobs } : Cluster)) (k.cluster c)
    exact e.trans (h.cluster c)
  saved c := (k.saved c).trans (h.saved c)

theorem jobSide_foldl {α : Type} {f : State → α → State} (h : ∀ s x, JobSide s (f s x)) (l : List α) (s : State) :
    JobSide s (l.foldl f s) := by
  induction l generalizing s with
  | nil => exact .refl s
  | cons x t ih => exact (h s x).trans (ih _)

theorem Going.of_strand {s t : State} (h : ∀ c p, (t.strand c p).stopPending = (s.strand c p).stopPending ∧
    (t.strand c p).st = (s.strand c p).st) : Going s t :=
  fun c p hs => ⟨(h c p).1.trans hs, (h c p).2.trans⟩

theorem CacheSide.jobSide {s t : State} (h : CacheSide s t) : JobSide s t where
  strand c p := by
    have e := congrArg (fun x : Strand => ({ x with
      st := (s.strand c p).st, wait := (s.strand c p).wait, notBefore := (s.strand c p).notBefore
      again := (s.strand c p).again, stopPending := (s.strand c p).stopPending, left := (s.strand c p).left
      leftWait := (s.strand c p).leftWait, rell := (s.strand c p).rell } : Strand)) (h.strand c p)
    exact e
  going := .of_strand fun c p => ⟨(congrArg Strand.stopPending (h.strand c p) :), (congrArg Strand.st (h.strand c p) :)⟩
  cluster k := by
    have e := congrArg (fun x : Cluster => ({ x with
      cache := (s.cluster k).cache, routes := (s.cluster k).routes, hand := (s.cluster k).hand, tlb := (s.cluster k).tlb
      log := (s.cluster k).log, jobs := (s.cluster k).jobs } : Cluster)) (h.cluster k)
    exact e
  saved c := (congrArg Core.saved (h.core c) :)

theorem WakeSide.clusters {s t : State} (h : WakeSide s t) : t.clusters = s.clusters := (congrArg State.clusters h.rest :)

theorem cluster_of_clusters {s t : State} (h : t.clusters = s.clusters) (k : Nat) : t.cluster k = s.cluster k := by
  rw [State.cluster, State.cluster, h]

theorem WakeSide.jobSide {s t : State} (h : WakeSide s t) (hg : Going s t) : JobSide s t where
  strand c p := by
    have e := congrArg (fun x : Strand => ({ x with rell := (s.strand c p).rell } : Strand)) (h.strand c p)
    exact e
  going := hg
  cluster k := by rw [cluster_of_clusters h.clusters]
  saved c := (congrArg Core.saved (h.core c) :)

/-- An action on the cores that leaves the strands and what is saved. -/
theorem jobSide_of_cores {s t : State} (hk : t.clusters = s.clusters)
    (h : ∀ c, (t.core c).strands = (s.core c).strands ∧ (t.core c).saved = (s.core c).saved) : JobSide s t := by
  have hs (c p : Nat) : t.strand c p = s.strand c p := by rw [State.strand, State.strand, (h c).1]
  exact ⟨fun c p => by rw [hs], .of_strand fun c p => by rw [hs]; exact ⟨rfl, rfl⟩,
    fun k => by rw [cluster_of_clusters hk], fun c => (h c).2⟩

theorem jobSide_of {s t : State} (hc : t.cores = s.cores) (hk : t.clusters = s.clusters) : JobSide s t :=
  jobSide_of_cores hk fun c => by rw [State.core, State.core, hc]; exact ⟨rfl, rfl⟩

theorem jobSide_setCore {s : State} {c : Nat} {k : Core} (hs : k.strands = (s.core c).strands)
    (hv : k.saved = (s.core c).saved) : JobSide s (s.setCore c k) :=
  jobSide_of_cores rfl fun d => by
    rw [core_setCore_eq]
    split
    · next h => exact h ▸ ⟨hs, hv⟩
    · exact ⟨rfl, rfl⟩

theorem jobSide_setCluster {s : State} {k : Nat} {x : Cluster} (h : ({ x with
    cache := (s.cluster k).cache, routes := (s.cluster k).routes, hand := (s.cluster k).hand, tlb := (s.cluster k).tlb
    log := (s.cluster k).log, jobs := (s.cluster k).jobs } : Cluster) = s.cluster k) : JobSide s (s.setCluster k x) := by
  refine ⟨fun c p => rfl, .of_strand fun _ _ => ⟨rfl, rfl⟩, fun d => ?_, fun c => rfl⟩
  rw [cluster_setCluster_eq]
  split
  · next hd => exact hd ▸ h
  · rfl

theorem jobSide_fresh (s : State) : JobSide s s.fresh.2 := jobSide_of rfl rfl

theorem jobSide_setJob (s : State) (cl i : Nat) (j : Job) : JobSide s (s.setJob cl i j) := jobSide_setCluster rfl

theorem jobSide_setCw (s : State) (cl i : Nat) (l : List Word) : JobSide s (s.setCw cl i l) := jobSide_setCluster rfl

theorem jobSide_bump (s : State) (c event vd n : Nat) : JobSide s (s.bump c event vd n) := by
  unfold State.bump
  dsimp only
  split
  · exact .refl s
  · exact jobSide_setCore rfl rfl

theorem jobSide_setPorter (s : State) (c : Nat) (x : Porter) : JobSide s (s.setPorter c x) := jobSide_setCore rfl rfl

theorem jobSide_addLog (s : State) (c p : Nat) (act : GAct) (dva : Nat) (data : List PByte) (sub : Nat) (gti : BitVec 32)
    (tag : BitVec 4) (ll : Bool) : JobSide s (s.addLog c p act dva data sub gti tag ll) := by
  unfold State.addLog
  dsimp only
  split
  · exact .refl s
  · refine (jobSide_fresh s).trans <| JobSide.trans ?_ <| (jobSide_bump ..).trans (jobSide_setPorter ..)
    exact jobSide_setCluster rfl

theorem jobSide_tlbFill (s : State) (c vd asid dva : Nat) (l : Leaf) : JobSide s (s.tlbFill c vd asid dva l) := by
  unfold State.tlbFill
  have hf := jobSide_fresh s
  obtain ⟨⟨u, b⟩, hu⟩ : ∃ x, s.fresh = x := ⟨_, rfl⟩
  rw [hu] at hf ⊢
  dsimp -zeta only
  extract_lets e k t x
  have ht : JobSide b t := jobSide_setCore rfl rfl
  exact hf.trans (ht.trans (jobSide_setCluster rfl))

theorem jobSide_translate (s : State) (core cl tag : Nat) (ll : Bool) (a : GAct) (dva : Nat) :
    JobSide s (s.translate core cl tag ll a dva).2 := by
  unfold State.translate
  obtain ⟨⟨vd, asid, root⟩, hsp⟩ : ∃ x, s.spaceOf cl tag ll = x := ⟨_, rfl⟩
  rw [hsp]
  dsimp only
  split
  · exact .refl s
  · split
    · exact jobSide_of rfl rfl
    · split
      · exact jobSide_of rfl rfl
      · next t ht =>
        have h := (homeSide_walkReads ht).jobSide
        split
        · exact h
        · exact h.trans (jobSide_tlbFill ..)

theorem jobSide_farPut (s : State) (pa : Nat) (data : List PByte) : JobSide s (s.farPut pa data) := by
  unfold State.farPut
  split
  · exact jobSide_of rfl rfl
  · split
    · exact jobSide_of rfl rfl
    · exact .refl s

theorem jobSide_cwPut {s t : State} {cl i : Nat} {v : Word} (h : s.cwPut cl i v = some t) : JobSide s t := by
  unfold State.cwPut at h
  dsimp only at h
  obtain ⟨j, hj⟩ : ∃ j, mapGet Job.init (s.cluster cl).jobs i = j := ⟨_, rfl⟩
  rw [hj] at h
  have htr := jobSide_translate s j.core cl j.tag.toNat false .store (word j.card 1).toNat
  obtain ⟨⟨r, b⟩, hr⟩ : ∃ x, s.translate j.core cl j.tag.toNat false .store (word j.card 1).toNat = x := ⟨_, rfl⟩
  rw [hr] at h htr
  refine htr.trans ?_
  cases r with
  | ok l =>
    dsimp only at h
    obtain ⟨⟨sp, a⟩, hk⟩ : ∃ x, keyOf l j.vd (word j.card 1).toNat = x := ⟨_, rfl⟩
    rw [hk] at h
    dsimp only at h
    split at h
    · split at h
      · cases h
      · cases h
        exact jobSide_farPut ..
    · split at h
      · cases h
      · split at h
        · cases h
        · cases h
          exact (cacheSide_portStore ..).jobSide
  | error n =>
    dsimp only at h
    split at h
    · cases h
    · cases h
      exact jobSide_addLog ..

theorem jobSide_cwDrain (cl i : Nat) (l : List Word) (s : State) : JobSide s (s.cwDrain cl i l) := by
  induction l generalizing s with
  | nil => exact jobSide_setCw ..
  | cons v t ih =>
    unfold State.cwDrain
    split
    · next h => exact (jobSide_cwPut h).trans (ih _)
    · exact jobSide_setCw ..

theorem jobSide_cwWrite (s : State) (cl i : Nat) : JobSide s (s.cwWrite cl i) := by
  unfold State.cwWrite
  dsimp only
  split
  · exact jobSide_cwDrain ..
  · exact .refl s

theorem jobSide_wakeWaits (s : State) (f : Nat → Wait → Bool) : JobSide s (s.wakeWaits f) :=
  (wakeSide_wakeWaits s f).jobSide (going_wakeWaits s f)

theorem jobSide_jobEnd (fuel : Nat) (s : State) (cl i : Nat) (st : JobState) (status : Nat) :
    JobSide s (s.jobEnd cl i st status fuel) := by
  induction fuel generalizing s i st status with
  | zero => exact .refl s
  | succ n ih =>
    unfold State.jobEnd
    extract_lets j
    have hf := jobSide_fresh s
    obtain ⟨⟨u, b⟩, hu⟩ : ∃ x, s.fresh = x := ⟨_, rfl⟩
    rw [hu] at hf ⊢
    dsimp -zeta only
    extract_lets c d e
    have he : JobSide b e := (jobSide_setJob ..).trans <| (jobSide_cwWrite c cl i).trans (jobSide_wakeWaits ..)
    refine hf.trans (he.trans ?_)
    split
    · exact .refl _
    · refine jobSide_foldl (fun s e => ?_) _ _
      dsimp only
      split
      · split
        · exact (jobSide_fresh s).trans (jobSide_setJob ..)
        · exact ih ..
      · exact .refl s

theorem jobSide_jobCancel (s : State) (cl i : Nat) : JobSide s (s.jobCancel cl i) := by
  unfold State.jobCancel
  split
  · exact jobSide_jobEnd ..
  · exact .refl s

end Sys2Proof.Safety
end

section
/-! SUPPORT. The reset of a cluster (R179), and the registers of die scope with it (O40). -/

namespace Sys2Proof.Safety

open Sys2Proof.Machine

/-! The incarnation of a cluster goes up with its reset alone -/

/-- Every cluster is in the incarnation in which it was. -/
structure SameInc (s t : State) : Prop where
  inc : ∀ k, (t.cluster k).inc = (s.cluster k).inc

theorem SameInc.refl (s : State) : SameInc s s := ⟨fun _ => rfl⟩

theorem SameInc.trans {s t u : State} (h : SameInc s t) (k : SameInc t u) : SameInc s u :=
  ⟨fun c => (k.inc c).trans (h.inc c)⟩

theorem sameInc_foldl {α : Type} {f : State → α → State} (h : ∀ s x, SameInc s (f s x)) (l : List α) (s : State) :
    SameInc s (l.foldl f s) := by
  induction l generalizing s with
  | nil => exact .refl s
  | cons x t ih => exact (h s x).trans (ih _)

theorem sameInc_of_clusters {s t : State} (h : t.clusters = s.clusters) : SameInc s t :=
  ⟨fun k => by rw [cluster_of_clusters h]⟩

theorem sameInc_setCluster {s : State} {k : Nat} {x : Cluster} (h : x.inc = (s.cluster k).inc) :
    SameInc s (s.setCluster k x) where
  inc d := by
    rw [cluster_setCluster_eq]
    split
    · next hd => exact hd ▸ h
    · rfl

theorem JobSide.sameInc {s t : State} (h : JobSide s t) : SameInc s t :=
  ⟨fun k => (congrArg Cluster.inc (h.cluster k) :)⟩

theorem CacheSide.sameInc {s t : State} (h : CacheSide s t) : SameInc s t := h.jobSide.sameInc

theorem WakeSide.sameInc {s t : State} (h : WakeSide s t) : SameInc s t := sameInc_of_clusters h.clusters

/-! Cores -/

theorem sameInc_setStrand (s : State) (c p : Nat) (x : Strand) : SameInc s (s.setStrand c p x) := sameInc_of_clusters rfl

theorem sameInc_anyway (s : State) : SameInc s s.anyway := sameInc_of_clusters rfl

theorem sameInc_setPorter (s : State) (c : Nat) (x : Porter) : SameInc s (s.setPorter c x) := sameInc_of_clusters rfl

theorem clusters_setRegsOf (s : State) (c p : Nat) (r : RegSet) : (s.setRegsOf c p r).clusters = s.clusters := by
  unfold State.setRegsOf
  split
  · dsimp only
    split
    · split <;> rfl
    · rfl
  · rfl

theorem clusters_enterLine (s : State) (c p : Nat) : (s.enterLine c p).clusters = s.clusters := by
  unfold State.enterLine
  split <;> rfl

theorem clusters_goto (s : State) (c p : Nat) (pc : Pc) : (s.goto c p pc).clusters = s.clusters := by
  unfold State.goto
  dsimp only
  split
  · exact clusters_setRegsOf ..
  · exact (clusters_enterLine ..).trans (clusters_setRegsOf ..)

theorem clusters_reArea (s : State) (c p : Nat) : (s.reArea c p).clusters = s.clusters := by
  obtain ⟨v, e | e⟩ := reArea_eq s c p
  · rw [e]
    rfl
  · rw [e]

theorem clusters_endEntry (s : State) (c : Nat) : (s.endEntry c).clusters = s.clusters := by
  unfold State.endEntry
  dsimp only
  split
  · rfl
  · exact (clusters_enterLine ..).trans (clusters_setRegsOf ..)

theorem clusters_withdraw (s : State) (c p : Nat) : (s.withdraw c p).clusters = s.clusters := by
  unfold State.withdraw
  extract_lets q keep a k b
  have hb : b.clusters = s.clusters := by
    show State.clusters (match k.saved with | some v => _ | none => _) = _
    split <;> rfl
  split
  · split
    · exact (clusters_endEntry ..).trans hb
    · exact hb
  · exact hb

theorem sameInc_releaseRep (s : State) (c : Nat) : SameInc s (s.releaseRep c) := by
  unfold State.releaseRep
  split
  · exact .refl s
  · extract_lets a b
    have hb : SameInc a b := sameInc_foldl (fun s p => by
      dsimp only
      split
      · exact (wakeSide_relook ..).sameInc
      · exact .refl s) _ a
    have ha : SameInc s a := sameInc_of_clusters rfl
    split
    · exact ha.trans (hb.trans (wakeSide_wake ..).sameInc)
    · exact ha.trans hb

/-! Regions -/

theorem sameInc_abortRegion (d code cause fuel : Nat) (s : State) (slot : Nat) :
    SameInc s (s.abortRegion d slot code cause fuel) := by
  induction fuel generalizing s slot code cause with
  | zero => exact .refl s
  | succ n ih =>
    unfold State.abortRegion
    split
    · exact .refl s
    · next k _ =>
      extract_lets next a b word x g h y i e f
      have ha : SameInc s a := (sameInc_foldl (fun s (x : Nat × Slice) => ((homeSide_sendBulk ..).trans
        (homeSide_sendBulk ..)).toCacheSide.sameInc) _ s).trans (sameInc_of_clusters rfl)
      have hb : SameInc a b := sameInc_of_clusters rfl
      refine ha.trans <| hb.trans ?_
      have he : SameInc b e := by
        dsimp only [e]
        split
        · have hg : SameInc b g := (jobSide_bump ..).sameInc
          have hi : SameInc h i := (wakeSide_afterAbort h k.core k.pos x.st).sameInc
          exact hg.trans <| (sameInc_of_clusters (s := g) (t := h) rfl).trans <| hi.trans <|
            sameInc_of_clusters ((clusters_reArea ..).trans (clusters_goto ..))
        · exact .refl b
      exact he.trans <| (wakeSide_wakeWaits ..).sameInc.trans (sameInc_foldl (fun s q => ih 2 slot s q) _ _)

theorem sameInc_abortOwn (s : State) (c p code : Nat) : SameInc s (s.abortOwn c p code) := by
  unfold State.abortOwn
  split
  · exact .refl s
  · exact sameInc_abortRegion ..

/-! Replies and logs -/

theorem clusters_chPlace (s : State) (c vd port : Nat) (ws : List Word) : (s.chPlace c vd port ws).clusters = s.clusters := by
  unfold State.chPlace
  split <;> rfl

theorem clusters_guardTouch (s : State) (c p a n : Nat) : (s.guardTouch c p a n).clusters = s.clusters := by
  unfold State.guardTouch
  split
  · rfl
  · split <;> rfl

theorem clusters_foldl {α : Type} {f : State → α → State} (h : ∀ s x, (f s x).clusters = s.clusters) (l : List α) (s : State) :
    (l.foldl f s).clusters = s.clusters := by
  induction l generalizing s with
  | nil => rfl
  | cons x t ih => exact (ih _).trans (h s x)

theorem clusters_retireOf (s : State) (c p : Nat) (l : List Eff) : (s.retireOf c p l).clusters = s.clusters := by
  rw [retireOf_eq]
  refine (clusters_goto ..).trans <| (clusters_foldl (fun s e => ?_) _ _).trans (clusters_setRegsOf ..)
  split
  · exact clusters_chPlace ..
  · exact clusters_guardTouch ..
  · rfl

theorem clusters_setOp (s : State) (c p : Nat) (o : Option Op) : (s.setOp c p o).clusters = s.clusters := by
  unfold State.setOp
  split <;> rfl

theorem sameInc_complete (s : State) (c p : Nat) (l : List Eff) : SameInc s (s.complete c p l) := by
  unfold State.complete
  split
  · exact sameInc_of_clusters rfl
  · refine SameInc.trans (sameInc_of_clusters ?_) (wakeSide_unpark ..).sameInc
    refine (clusters_retireOf ..).trans ?_
    rw [chTake_rest]
    exact clusters_setOp ..

theorem sameInc_loggedDone (s : State) (c p : Nat) (a : GAct) : SameInc s (s.loggedDone c p a) := by
  unfold State.loggedDone
  split
  · unfold State.joinDone
    split
    · exact sameInc_complete ..
    · exact (sameInc_of_clusters (clusters_setOp ..)).trans <|
        (sameInc_setStrand ..).trans (wakeSide_relook ..).sameInc
  · exact sameInc_complete ..

theorem sameInc_park (s : State) (c p : Nat) (st : RunState) (w : Wait) : SameInc s (s.park c p st w) := by
  unfold State.park
  split
  · exact sameInc_of_clusters rfl
  · exact (wakeSide_setSt ..).sameInc.trans (sameInc_of_clusters rfl)

theorem sameInc_foldl_fst {α β : Type} {f : State × β → α → State × β} (h : ∀ r x, SameInc r.1 (f r x).1) (l : List α)
    (r : State × β) : SameInc r.1 (l.foldl f r).1 := by
  induction l generalizing r with
  | nil => exact .refl _
  | cons x t ih => exact (h r x).trans (ih _)

theorem sameInc_logRefused (s : State) (c p : Nat) : SameInc s (s.logRefused c p) := by
  unfold State.logRefused
  split
  · exact .refl s
  · next o' _ =>
    extract_lets r b o
    have hb : SameInc s b := by
      refine sameInc_foldl_fst (fun x q => ?_) o'.refused (s, [])
      split
      · exact .refl _
      · exact (jobSide_addLog ..).sameInc
    refine hb.trans ?_
    split
    · exact sameInc_loggedDone ..
    · split
      · exact sameInc_of_clusters (clusters_setOp ..)
      · exact (sameInc_of_clusters (clusters_setOp ..)).trans (sameInc_park ..)

theorem sameInc_logFreed (s : State) (cl : Nat) : SameInc s (s.logFreed cl) := by
  unfold State.logFreed
  extract_lets a b
  have ha : SameInc s a := (wakeSide_wakeWaits ..).sameInc
  have hb : SameInc a b := by
    refine sameInc_foldl (fun s e => ?_) _ a
    split
    · exact .refl s
    · exact (jobSide_cwDrain ..).sameInc
  refine ha.trans <| hb.trans <| sameInc_foldl (fun s e => ?_) _ b
  split
  · refine sameInc_foldl (fun s p => ?_) _ s
    split
    · exact sameInc_logRefused ..
    · exact .refl s
  · exact .refl s

theorem sameInc_freeLog (s : State) (cl i : Nat) : SameInc s (s.freeLog cl i) := by
  unfold State.freeLog
  extract_lets k
  split
  · exact .refl s
  · next e _ =>
    extract_lets q b
    have ha : SameInc s (s.setCluster cl { k with log := mapDel k.log i }) := sameInc_setCluster rfl
    exact ha.trans <| (sameInc_setPorter ..).trans (sameInc_logFreed b cl)

/-! Deaths -/

theorem jobSide_reportDeath (s : State) (x : Strand) (c p cause sub bytes : Nat) :
    JobSide s (s.reportDeath x c p cause sub bytes) := by
  unfold State.reportDeath
  extract_lets cl y
  split
  · obtain ⟨⟨vf, slot⟩, hv⟩ : ∃ v, x.host.getD (y.img.vd, 0) = v := ⟨_, rfl⟩
    rw [hv]
    exact jobSide_of rfl rfl
  · exact (homeSide_send ..).jobSide

theorem sameInc_endStrand (s : State) (c p : Nat) (leave : Bool) : SameInc s (s.endStrand c p leave) := by
  have hless (s : State) (n cl : Nat) : SameInc s (s.launchLess n cl) := by
    unfold State.launchLess
    split
    · exact .refl s
    · exact sameInc_of_clusters rfl
  have htok (s : State) (c l b : Nat) : SameInc s (s.freeToken c l b) := by
    unfold State.freeToken
    split
    · exact .refl s
    · exact sameInc_of_clusters rfl
  unfold State.endStrand
  extract_lets x a b y d
  have ha : SameInc s a := by
    show SameInc s (s.leaveUnit c p)
    unfold State.leaveUnit
    split
    · exact .refl s
    · exact sameInc_setCluster rfl
  have hd : SameInc s d := ha.trans <| (wakeSide_setSt a c p .idle).sameInc.trans (sameInc_of_clusters (s := b) rfl)
  refine hd.trans ?_
  split
  · split
    · exact (hless ..).trans (htok ..)
    · exact .refl _
  · split
    · exact hless ..
    · exact .refl _
  · exact .refl _

theorem clusters_abandon (s : State) (c p : Nat) : (s.abandon c p).clusters = s.clusters := by
  unfold State.abandon
  dsimp only
  split <;> rfl

theorem sameInc_purge (s : State) (c p cause sub : Nat) : SameInc s (s.purge c p cause sub) := by
  unfold State.purge
  extract_lets x cl d s1 s2 s3 y s4 s5 s6 s7 l bytes s8 s9 s10
  have h1 : SameInc s s1 := sameInc_of_clusters rfl
  have h2 : SameInc s1 s2 := (wakeSide_setSt ..).sameInc.trans (sameInc_of_clusters (clusters_withdraw ..))
  have h3 : SameInc s2 s3 := by
    dsimp only [s3]
    split
    · split
      · exact sameInc_releaseRep ..
      · exact .refl _
    · exact .refl _
  have h4 : SameInc s3 s4 := by
    dsimp only [s4]
    split
    · exact sameInc_of_clusters rfl
    · exact .refl _
  have h5 : SameInc s4 s5 := sameInc_abortOwn ..
  have h6 : SameInc s5 s6 := sameInc_foldl (fun s i => (jobSide_jobCancel s cl i).sameInc) _ s5
  have h7 : SameInc s6 s7 := sameInc_of_clusters (clusters_abandon ..)
  have h8 : SameInc s7 s8 := sameInc_foldl (fun s (e : Nat × LogEntry) => sameInc_freeLog s cl e.1) _ s7
  have h9 : SameInc s8 s9 := (homeSide_releaseAll s8 c p).sameInc.trans (sameInc_anyway _)
  have h10 : SameInc s9 s10 := (jobSide_reportDeath ..).sameInc
  exact h1.trans <| h2.trans <| h3.trans <| h4.trans <| h5.trans <| h6.trans <| h7.trans <| h8.trans <| h9.trans <|
    h10.trans (sameInc_endStrand ..)

theorem sameInc_killOne (s : State) (c p cause sub : Nat) : SameInc s (s.killOne c p cause sub) := by
  unfold State.killOne
  extract_lets x a y
  split
  · exact .refl s
  · split
    · exact (wakeSide_setSt s c p .stopped).sameInc.trans <|
        (sameInc_setStrand a ..).trans (sameInc_of_clusters (clusters_withdraw ..))
    · exact sameInc_purge ..

theorem sameInc_kill (s : State) (c p cause sub : Nat) : SameInc s (s.kill c p cause sub) := by
  unfold State.kill
  split
  · exact sameInc_foldl (fun s (q : Nat × Nat) => sameInc_killOne s q.1 q.2 cause sub) _ s
  · exact sameInc_killOne ..

/-! The reset -/

/-- No strand dies or lives on meanwhile. -/
theorem JobSide.dying {s t : State} (h : JobSide s t) (c p : Nat) : (t.strand c p).dying = (s.strand c p).dying :=
  (congrArg Strand.dying (h.strand c p) :)

theorem jobSide_strand_st {s t : State} (h : CacheSide s t) (c p : Nat) : (t.strand c p).st = (s.strand c p).st :=
  (congrArg Strand.st (h.strand c p) :)

theorem strand_foldl_setCore {f : State → Nat → Core} (hf : ∀ s c, (f s c).strands = (s.core c).strands) (l : List Nat)
    (s : State) (c p : Nat) : (l.foldl (fun s c => s.setCore c (f s c)) s).strand c p = s.strand c p := by
  induction l generalizing s with
  | nil => rfl
  | cons x t ih =>
    refine (ih _).trans ?_
    rw [State.strand, State.strand, core_setCore_eq]
    split
    · next h => rw [h, hf]
    · rfl

theorem clusterOf_coresOf {cl c : Nat} (h : c ∈ coresOf cl) : clusterOf c = cl := by
  obtain ⟨k, hk, rfl⟩ := List.mem_map.mp h
  have := List.mem_range.mp hk
  unfold clusterOf
  omega

/-- What is left when nothing passes a test. -/
theorem foldl_id {α : Type} {f : State → α → State} (l : List α) (s : State) (h : ∀ x ∈ l, f s x = s) : l.foldl f s = s := by
  induction l with
  | nil => rfl
  | cons x t ih =>
    rw [List.foldl_cons, h x (.head _)]
    exact ih fun y hy => h y (.tail _ hy)

theorem clusterReset_spec (s : State) (cl : Nat) (hu : (s.cluster cl).unacked = []) :
    let t := s.clusterReset cl
    (t.cluster cl).inc = (s.cluster cl).inc + 1 ∧ (t.cluster cl).cache = [] ∧ (t.cluster cl).queue = [] ∧
    ((∀ c p, clusterOf c = cl → p < 6 → (s.strand c p).st = .idle ∧ (s.strand c p).dying = none) →
      (t.cluster cl).log = []) ∧ (t.cluster cl).unacked = List.range 768 := by
  unfold State.clusterReset
  obtain ⟨hears, hh⟩ : ∃ l, List.range 768 = l := ⟨_, rfl⟩
  rw [hh]
  extract_lets k a l b d m r z e f waits i t
  have ht : t = f.setCluster cl { Cluster.init with
      inc := m.inc + 1, jobs := m.jobs, unacked := hears
      log := m.log.filter fun e => waits fun x => x.gti = e.2.gti
      ctxs := m.ctxs.filter fun e => waits fun x => x.tag.toNat = e.1 } := if_neg (by rw [hu]; decide)
  have ha : CacheSide s a := cacheSide_setCache ..
  have hb : SameInc a b := by
    refine sameInc_foldl (fun s q => ?_) l a
    split
    · exact .refl s
    · exact sameInc_kill ..
  have hd : JobSide b d := jobSide_foldl (fun s (e : Nat × Job) => jobSide_jobCancel s cl e.1) _ b
  have he : JobSide d e := jobSide_foldl (fun s t => jobSide_reportDeath ..) _ d
  have hinc : m.inc = (s.cluster cl).inc := (ha.sameInc.trans (hb.trans hd.sameInc)).inc cl
  rw [ht, cluster_setCluster]
  dsimp only
  refine ⟨by rw [← hinc], rfl, rfl, fun hidle => ?_, rfl⟩
  have hmem (q : Nat × Nat) (hq : q ∈ l) : clusterOf q.1 = cl ∧ q.2 < 6 := by
    obtain ⟨c, hc, hq⟩ := List.mem_flatMap.mp hq
    obtain ⟨p, hp, rfl⟩ := List.mem_map.mp hq
    exact ⟨clusterOf_coresOf hc, List.mem_range.mp hp⟩
  have hba : b = a := foldl_id l a fun q hq =>
    if_pos ((jobSide_strand_st ha q.1 q.2).trans (hidle q.1 q.2 (hmem q hq).1 (hmem q hq).2).1)
  have hwaits (g : Strand → Bool) : waits g = false := by
    refine Bool.eq_false_iff.mpr fun h => ?_
    obtain ⟨q, hq, h⟩ := List.any_eq_true.mp h
    have hdy : (f.strand q.1 q.2).dying = (s.strand q.1 q.2).dying := by
      have hf : f.strand q.1 q.2 = e.strand q.1 q.2 := strand_foldl_setCore (f := fun s c =>
        { s.core c with porter := Porter.init, rep := none, saved := none, preK := false, preL := false }) (fun _ _ => rfl) _ _ _ _
      rw [hf, he.dying, hd.dying, hba, ha.jobSide.dying]
    rw [hdy, (hidle q.1 q.2 (hmem q hq).1 (hmem q hq).2).2] at h
    exact Bool.false_ne_true h
  simp only [hwaits, List.filter_false]

theorem sysWrite_reset {s : State} {n k : Nat} {w : Word} (hn : n = 0x60) (hw : w.getLsbD 8 = true) :
    s.sysWrite s.cur.core s.curVd n k (s.level = .l) s.tag w = some (s.clusterReset k) := by
  subst hn
  have h : s.sysWrite s.cur.core s.curVd 0x60 k (s.level = .l) s.tag w = some (s.clusterReset (512 * (k / 512) + k % 512)) :=
    congrArg some (if_pos hw)
  rw [h, Nat.div_add_mod]

/-- Settles O40. -/
theorem dieRegisters : Obligations.DieRegisters := by
  intro s g d a n hn c e x sel plain indexOk own
  refine ⟨fun h => dieRegister_reads hn h, fun h => ?write, fun e v => traceSize_facts s e v,
    fun die k hd hk => ?ctl⟩
  case write =>
    intro u i w k o err alloc frame alloc' err' depth held level weight' tr tr' l len slices ok
    obtain ⟨hpush, hno, hrest⟩ := dieRegister_writes (s := s) (g := g) hn h
    refine ⟨hpush, hno, fun hok hne hbit hun => ?_, hrest⟩
    have hmem : n ∈ dieRegs := hne ▸ by decide
    obtain ⟨hl, h0⟩ := sysLevel_die hmem
    have hidx := fxIndex_die (s := s) hmem hok.1
    rw [if_neg (by rw [hne]; decide)] at hidx
    obtain ⟨t, he, hset⟩ := sysw_retires hn h hidx hok.2 h0 hl (sysWrite_reset hne hbit)
    have hclusters : t.clusters = (s.clusterReset k).clusters := (congrArg State.clusters hset.own.rest :)
    have hk (j : Nat) : t.cluster j = (s.clusterReset k).cluster j := cluster_of_clusters hclusters j
    refine ⟨t, he, ?_⟩
    rw [hk]
    exact clusterReset_spec s k hun
  case ctl =>
    intro pa
    obtain ⟨h1, h2, h3, h4⟩ := ctlSpace_facts hd hn hk s
    exact ⟨h1, h2, fun hm => h3 hm (indexOk k) Iff.rfl, h4⟩

end Sys2Proof.Safety
end

section
/-! SUPPORT. The repeater (O27). -/

namespace Sys2Proof.Safety

open Sys2Proof.Machine

/-! The traps of sequence instructions are precise (R158, R160) -/

/-- What an effect raises is precise. -/
structure Precise (fx : View → Except TrapInfo (List Eff)) : Prop where
  cause : ∀ v e, fx v = .error e → impCause e.cause = false

theorem precise_put {d : VOp} {x : PVec} {src : Nat} {fl : Flags} {e : TrapInfo}
    (h : (match putV d x src with | .error t => Except.error t | .ok l => .ok (l ++ [.flags fl])) = Except.error e) :
    impCause e.cause = false := by
  by_cases ht : takesV d x.p
  · rw [putV_ok ht] at h
    cases h
  · rw [putV_error ht] at h
    cases h
    rfl

theorem precise_putElems {d : VOp} {w : Nat} {l : List ERes} {src : Nat} {e : TrapInfo}
    (h : putElems d w l src = .error e) : impCause e.cause = false := by
  unfold putElems at h
  dsimp only at h
  split at h
  · next hp =>
    by_cases ht : takesV d (wordsP w (l.map (·.2.1)))
    · rw [putV_ok ht] at hp
      cases hp
    · rw [putV_error ht] at hp
      cases hp
      cases h
      rfl
  · cases h

theorem precise_fxBin (w : Nat) (f : View → Nat → Nat → Nat × Flags) (d a : VOp) (b : VB) : Precise (fxBin w f d a b) :=
  ⟨fun _ _ => precise_putElems⟩

theorem precise_fxTer (w : Nat) (f : View → Nat → Nat → Nat → Nat × Flags) (d a : VOp) (b : VB) :
    Precise (fxTer w f d a b) := ⟨fun _ _ => precise_putElems⟩

theorem precise_fxUn (w : Nat) (f : View → Nat → Nat × Flags) (d a : VOp) (b : KOpt) : Precise (fxUn w f d a b) :=
  ⟨fun _ _ => precise_putElems⟩

theorem precise_fxBunpk (t : ETy) (rm : Rm) (sat : Bool) (d a : VOp) (b : SOp) : Precise (fxBunpk t rm sat d a b) := by
  refine ⟨fun v e h => ?_⟩
  unfold fxBunpk at h
  dsimp only at h
  split at h
  · cases h
    rfl
  · exact precise_putElems h

theorem precise_putV {d : VOp} {x : PVec} {src : Nat} {e : TrapInfo} (h : putV d x src = .error e) :
    impCause e.cause = false := by
  by_cases ht : takesV d x.p
  · rw [putV_ok ht] at h
    cases h
  · rw [putV_error ht] at h
    cases h
    rfl

theorem precise_fxBpack (t : ETy) (f : BitVec 8) (rm : Rm) (sat : Bool) (d a : VOp) (b : SOp) :
    Precise (fxBpack t f rm sat d a b) := by
  refine ⟨fun v e h => ?_⟩
  unfold fxBpack at h
  dsimp only at h
  split at h
  · cases h
    rfl
  · split at h
    · exact precise_putV h
    · split at h
      · next hp =>
        cases h
        exact precise_putV hp
      · cases h

theorem precise_fxBscale (rm : Rm) (d : VOp) (a b : SOp) : Precise (fxBscale rm d a b) := by
  refine ⟨fun v e h => ?_⟩
  unfold fxBscale at h
  dsimp only at h
  split at h
  · next hp =>
    cases h
    exact precise_putV hp
  · cases h

theorem precise_fxVint (op : Nat → Nat → Nat → Nat) (t : ETy) (d a : VOp) (b : VB) : Precise (fxVint op t d a b) :=
  precise_fxBin (tyBits t) (fun _ x y => (op (tyBits t) x y, 0)) d a b

theorem precise_fxVfp (f : Fmt → Rmode → Nat → Nat → Nat × Flags) (t : ETy) (rm : Rm) (d a : VOp) (b : VB) :
    Precise (fxVfp f t rm d a b) :=
  ⟨fun v => (precise_fxBin (tyBits t) (fun v x y => f (fmtOf t) (rmAt rm v.regs.fs) x y) d a b).cause v⟩

theorem precise_fxVfma (p q : Bool) (t : ETy) (rm : Rm) (sat : Bool) (d a : VOp) (b : VB) :
    Precise (fxVfma p q t rm sat d a b) :=
  ⟨fun v => (precise_fxTer (tyBits t) (fun v x y z => fpFma (fmtOf t) (rmAt rm v.regs.fs) sat p q x y z) d a b).cause v⟩

theorem precise_fxVfu (f : Fmt → Nat → Nat × Flags) (t : ETy) (d a : VOp) (b : KOpt) : Precise (fxVfu f t d a b) :=
  ⟨fun v => (precise_fxUn (tyBits t) (fun _ x => f (fmtOf t) x) d a b).cause v⟩

theorem precise_fxVfcvt (t st : ETy) (sgn : Bool) (rm : Rm) (sat : Bool) (d a : VOp) (b : KOpt) :
    Precise (fxVfcvt t st sgn rm sat d a b) := ⟨fun v e h => by unfold fxVfcvt at h; exact precise_putElems h⟩

theorem precise_fxVsel (t : ETy) (d a : VOp) (b : KOp) : Precise (fxVsel t d a b) :=
  ⟨fun v e h => by unfold fxVsel at h; exact precise_putElems h⟩

theorem precise_fxVbcast (t : ETy) (d : VOp) (b : SImm) : Precise (fxVbcast t d b) :=
  ⟨fun v e h => by unfold fxVbcast at h; exact precise_putElems h⟩

theorem precise_fxVins (t : ETy) (d : VOp) (a : SOp) (b : SImm) : Precise (fxVins t d a b) :=
  ⟨fun v e h => by unfold fxVins at h; exact precise_putElems h⟩

theorem precise_fxVshuf (t : ETy) (d a : VOp) (b : VB) : Precise (fxVshuf t d a b) :=
  ⟨fun v e h => by unfold fxVshuf at h; exact precise_putElems h⟩

theorem precise_fxVslide (t : ETy) (d a : VOp) (b : SImm) : Precise (fxVslide t d a b) :=
  ⟨fun v e h => by unfold fxVslide at h; exact precise_putElems h⟩

theorem precise_fxVchoose (f : Nat → Nat → Bool × Nat) (t : ETy) (d a b : VOp) : Precise (fxVchoose f t d a b) :=
  ⟨fun v e h => by unfold fxVchoose at h; exact precise_putElems h⟩

theorem precise_fxVcompress (t : ETy) (d a : VOp) (b : KOp) : Precise (fxVcompress t d a b) :=
  ⟨fun v e h => by unfold fxVcompress at h; exact precise_putElems h⟩

theorem precise_fxVexpand (t : ETy) (d a : VOp) (b : KOp) : Precise (fxVexpand t d a b) :=
  ⟨fun v e h => by unfold fxVexpand at h; exact precise_putElems h⟩

theorem precise_fxCblook (t : ETy) (d a : VOp) (b : SOp) : Precise (fxCblook t d a b) :=
  ⟨fun v e h => by unfold fxCblook at h; exact precise_putElems h⟩

theorem precise_fxQdeq (q : Bool) (d a : VOp) (b : SOp) : Precise (fxQdeq q d a b) :=
  ⟨fun v e h => by unfold fxQdeq at h; exact precise_putElems h⟩

/-- The effect of an instruction that may stand in a sequence. -/
theorem precise_seqForm {i : Instr} {f : Form} {fx : View → Except TrapInfo (List Eff)} (h : seqForm i = some (f, fx)) :
    Precise fx := by
  have go {x : Form} {y : View → Except TrapInfo (List Eff)} (hp : Precise y) (he : some (x, y) = some (f, fx)) :
      Precise fx := by
    cases he
    exact hp
  unfold seqForm at h
  split at h
  case h_1 | h_2 | h_3 | h_4 | h_5 | h_6 | h_7 | h_8 | h_9 | h_10 | h_11 | h_12 | h_13 | h_14 | h_15 => exact go (precise_fxVint ..) h
  case h_16 => exact go (precise_fxVsel ..) h
  case h_17 | h_18 | h_19 | h_23 | h_24 => exact go (precise_fxVfp ..) h
  case h_20 | h_21 | h_22 => exact go (precise_fxVfma ..) h
  case h_25 | h_26 | h_27 => exact go (precise_fxVfu ..) h
  case h_28 => exact go (precise_fxVfcvt ..) h
  case h_29 => exact go (precise_fxVbcast ..) h
  case h_30 => exact go (precise_fxVins ..) h
  case h_31 => exact go (precise_fxVshuf ..) h
  case h_32 => exact go (precise_fxVslide ..) h
  case h_33 | h_34 => exact go (precise_fxVchoose ..) h
  case h_35 => exact go (precise_fxVcompress ..) h
  case h_36 => exact go (precise_fxVexpand ..) h
  case h_37 => exact go (precise_fxBunpk ..) h
  case h_38 => exact go (precise_fxBpack ..) h
  case h_39 => exact go (precise_fxBscale ..) h
  case h_40 => exact go (precise_fxCblook ..) h
  case h_41 => exact go (precise_fxQdeq ..) h
  case h_42 => cases h

theorem precise_instr {r : RepSeq} {j k : Nat} {f : Form} {fx : View → Except TrapInfo (List Eff)}
    (h : r.instr j k = some (f, fx)) : Precise fx := by
  unfold RepSeq.instr at h
  split at h
  · cases h
  · exact precise_seqForm h

/-! The claim (R50): iterations sixteen apart name the same registers -/

theorem finAdd_mod (i : Fin 16) (n : Nat) : finAdd i (n % 16) = finAdd i n := by
  unfold finAdd
  rw [Fin.ofNat, Fin.ofNat, Fin.mk.injEq, Nat.add_mod_mod]

@[simp] theorem vopAdd_mod (v : VOp) (n : Nat) : vopAdd v (n % 16) = vopAdd v n := by
  cases v with
  | v i => exact congrArg VOp.v (finAdd_mod i n)
  | ch c => rfl

@[simp] theorem vbAdd_mod (v : VB) (n : Nat) : vbAdd v (n % 16) = vbAdd v n := by
  cases v with
  | v i => exact congrArg VB.v (finAdd_mod i n)
  | _ => rfl

theorem strided_mod (i : Instr) (nd na nb : Nat) : strided i (nd % 16) (na % 16) (nb % 16) = strided i nd na nb := by
  unfold strided
  split <;> simp only [vopAdd_mod, vbAdd_mod]

theorem instr_mod (r : RepSeq) (j k : Nat) : r.instr j (k % 16) = r.instr j k := by
  have h (s : Nat) : k % 16 * s % 16 = k * s % 16 := by rw [Nat.mul_mod, Nat.mod_mod, ← Nat.mul_mod]
  unfold RepSeq.instr
  split
  · rfl
  · next i _ => rw [← strided_mod i, h, h, h, strided_mod]

theorem foldl_bits {α : Type} {f : BitVec 16 → α → BitVec 16} {q : α → Prop} {v : Nat}
    (h : ∀ m x, (f m x).getLsbD v = true ↔ m.getLsbD v = true ∨ q x) (l : List α) (m : BitVec 16) :
    (l.foldl f m).getLsbD v = true ↔ m.getLsbD v = true ∨ ∃ x ∈ l, q x := by
  induction l generalizing m with
  | nil => simp
  | cons x t ih => simp [ih, h, or_assoc]

theorem getLsbD_bitSet_true (m : BitVec 16) (i : Nat) (v : Fin 16) : (bitSet m i true).getLsbD v = true ↔
    m.getLsbD v = true ∨ v.val = i := by
  have h := getElem_bitSet m i v v.isLt true
  rw [← BitVec.getLsbD_eq_getElem] at h
  rw [h]
  split
  · next hv => simp [hv]
  · next hv => simp [hv, ← BitVec.getLsbD_eq_getElem]

theorem claimOf_iff (r : RepSeq) (v : Fin 16) : (claimOf r).getLsbD v = true ↔
    ∃ it < r.count, ∃ j < r.words.length, ∃ f fx, r.instr j it = some (f, fx) ∧ v ∈ f.use.vecs := by
  unfold claimOf
  refine (foldl_bits (q := fun k => ∃ j ∈ List.range r.words.length, ∃ f fx, r.instr j k = some (f, fx) ∧
    v ∈ f.use.vecs) (fun m k => ?_) _ _).trans ⟨?_, ?_⟩
  · refine foldl_bits (q := fun j => ∃ f fx, r.instr j k = some (f, fx) ∧ v ∈ f.use.vecs) (fun m j => ?_) _ m
    cases hi : r.instr j k with
    | none => simp
    | some x =>
      obtain ⟨f, fx⟩ := x
      refine (foldl_bits (q := fun i => v.val = i) (fun m i => getLsbD_bitSet_true m i v) _ m).trans ?_
      simp [Fin.val_inj]
  · rintro (hf | ⟨k, hk, j, hj, hx⟩)
    · simp at hf
    · exact ⟨k, Nat.lt_of_lt_of_le (List.mem_range.mp hk) (Nat.min_le_left ..), j, List.mem_range.mp hj, hx⟩
  · rintro ⟨k, hk, j, hj, f, fx, hi, hv⟩
    refine .inr ⟨k % 16, List.mem_range.mpr ?_, j, List.mem_range.mpr hj, f, fx, by rw [instr_mod]; exact hi, hv⟩
    omega

/-! The release -/

theorem breakFirst_congr {s t : State} {c p : Nat} (hx : t.strand c p = s.strand c p) (w : WakeSide s t) :
    t.breakFirst c p = s.breakFirst c p := by
  have hp : t.porch = s.porch := (congrArg State.porch w.rest :)
  have hc (k i : Nat) : t.ctx k i = s.ctx k i := by
    rw [State.ctx, State.ctx, cluster_of_clusters w.clusters]
  simp only [State.breakFirst, State.brkHit, hx, hp, hc]

/-- Whether a strand that is put back into the rotation stops there instead. -/
def stopsThere (s : State) (c p : Nat) : Prop :=
  (s.strand c p).stopPending = true ∧ (s.strand c p).op = none ∧ s.breakFirst c p = false

theorem strand_unpark {s : State} {c p : Nat} (hp : p < 6) : ((s.unpark c p).strand c p).wait = .none ∧
    (stopsThere s c p → ((s.unpark c p).strand c p).st = .stopped) ∧
    (¬ stopsThere s c p → ((s.unpark c p).strand c p).st = .run) := by
  have hiff : (decide (p < 6) && (s.strand c p).stopPending && (s.strand c p).op.isNone && !s.breakFirst c p) = true ↔
      stopsThere s c p := by
    simp [stopsThere, hp, and_assoc, Option.isNone_iff_eq_none]
  unfold State.unpark
  dsimp only
  split
  · next h =>
    rw [strand_setStrand]
    exact ⟨rfl, fun _ => by rw [(setSt_spec s c p .stopped).2.1], fun hn => absurd (hiff.mp h) hn⟩
  · next h =>
    rw [strand_wake s c p (by omega)]
    exact ⟨rfl, fun hs => absurd (hiff.mpr hs) h, fun _ => rfl⟩

theorem strand_relook {s : State} {c p : Nat} (hp : p < 6) : ((s.relook c p).strand c p).wait = .none ∧
    (stopsThere s c p → ((s.relook c p).strand c p).st = .stopped) ∧
    (¬ stopsThere s c p → ((s.relook c p).strand c p).st = .run) := by
  have h := strand_unpark (s := s) (c := c) hp
  unfold State.relook
  dsimp only
  split
  · rw [strand_setStrand]
    exact h
  · exact h

/-- What one step of a run does at `p` lasts when the other steps leave it. -/
theorem foldl_at {f : State → Nat → State} {before after : State → Prop} {p : Nat}
    (other : ∀ t q, q ≠ p → before t → before (f t q)) (here : ∀ t, before t → after (f t p))
    (later : ∀ t q, q ≠ p → after t → after (f t q)) {l : List Nat} (hl : l.Nodup) (hp : p ∈ l) {s : State}
    (h : before s) : after (l.foldl f s) := by
  have last (l : List Nat) (hn : p ∉ l) : ∀ t, after t → after (l.foldl f t) := by
    induction l with
    | nil => exact fun _ h => h
    | cons x l ih =>
      obtain ⟨hx, hl⟩ := not_or.mp (fun h => hn (List.mem_cons.mpr h))
      exact fun t h => ih hl _ (later t x (Ne.symm hx) h)
  induction l generalizing s with
  | nil => cases hp
  | cons x l ih =>
    obtain ⟨hx, hl⟩ := List.nodup_cons.mp hl
    by_cases he : x = p
    · subst he
      exact last l hx _ (here s h)
    · exact ih hl ((List.mem_cons.mp hp).resolve_left (Ne.symm he)) (other s x he h)

/-- One strand of the core looks again when the repeater is released. -/
def freedStep (c : Nat) (r : RepSeq) (s : State) (p : Nat) : State :=
  if (s.strand c p).st = .waitMsg && ((s.strand c p).wait = .repeater || ((s.strand c p).wait = .claim && r.owner = p)) then
    s.relook c p
  else s

theorem wakeSide_freedStep (c : Nat) (r : RepSeq) (s : State) (p : Nat) : WakeSide s (freedStep c r s p) := by
  unfold freedStep
  split
  · exact wakeSide_relook ..
  · exact .refl s

theorem strand_freedStep_other {c : Nat} {r : RepSeq} {s : State} {p q : Nat} (h : q ≠ p) :
    (freedStep c r s q).strand c p = s.strand c p := by
  unfold freedStep
  split
  · exact strand_relook_other _ _ _ fun he => h (Prod.mk.inj he).2.symm
  · rfl

/-- The porter's claim ends too. -/
def freedPorter (c : Nat) (s : State) : State := if (s.porter c).wait = .claim then s.wake c 6 else s

theorem releaseRep_eq {s : State} {c : Nat} {r : RepSeq} (h : (s.core c).rep = some r) :
    s.releaseRep c = freedPorter c ((List.range 6).foldl (freedStep c r) (s.setRep c none)) := by
  unfold State.releaseRep
  rw [h]
  rfl

theorem wakeSide_freedPorter (c : Nat) (s : State) : WakeSide s (freedPorter c s) := by
  unfold freedPorter
  split
  · exact wakeSide_wake ..
  · exact .refl s

theorem strand_freedPorter (c : Nat) (s : State) (q : Nat) : (freedPorter c s).strand c q = s.strand c q := by
  unfold freedPorter
  split
  · exact strand_setPorter ..
  · rfl

theorem wakeSide_foldl {α : Type} {f : State → α → State} (h : ∀ s x, WakeSide s (f s x)) (l : List α) (s : State) :
    WakeSide s (l.foldl f s) := by
  induction l generalizing s with
  | nil => exact .refl s
  | cons x t ih => exact (h s x).trans (ih _)

theorem wakeSide_releaseRep {s : State} {c : Nat} {r : RepSeq} (h : (s.core c).rep = some r) :
    WakeSide (s.setRep c none) (s.releaseRep c) := by
  rw [releaseRep_eq h]
  exact (wakeSide_foldl (wakeSide_freedStep c r) _ _).trans (wakeSide_freedPorter ..)

theorem rep_setRep (s : State) (c : Nat) (r : Option RepSeq) : ((s.setRep c r).core c).rep = r := by
  rw [State.setRep, core_setCore]

theorem strand_setRep (s : State) (c : Nat) (r : Option RepSeq) (d p : Nat) : (s.setRep c r).strand d p = s.strand d p := by
  rw [State.strand, State.setRep, core_setCore_eq]
  split
  · next h => rw [h]; rfl
  · rfl

theorem rep_releaseRep {s : State} {c : Nat} {r : RepSeq} (h : (s.core c).rep = some r) :
    ((s.releaseRep c).core c).rep = none := by
  have e : ((s.releaseRep c).core c).rep = ((s.setRep c none).core c).rep :=
    (congrArg Core.rep ((wakeSide_releaseRep h).core c) :)
  rw [e, rep_setRep]

/-- A strand that does not wait stands through the release. -/
theorem strand_releaseRep_same {s : State} {c p : Nat} {r : RepSeq} (h : (s.core c).rep = some r)
    (hw : (s.strand c p).st ≠ .waitMsg) : (s.releaseRep c).strand c p = s.strand c p := by
  have run (l : List Nat) : ∀ t : State, t.strand c p = s.strand c p → (l.foldl (freedStep c r) t).strand c p = s.strand c p := by
    induction l with
    | nil => exact fun _ ht => ht
    | cons q l ih =>
      intro t ht
      refine ih _ ?_
      by_cases hq : q = p
      · subst hq
        unfold freedStep
        rw [ht, if_neg (by simp [hw])]
        exact ht
      · rw [strand_freedStep_other hq, ht]
  rw [releaseRep_eq h, strand_freedPorter]
  exact run _ _ (strand_setRep ..)

/-- A strand that waits for the repeater, or as its owner for its claim, looks again at the release. -/
theorem strand_releaseRep_waits {s : State} {c p : Nat} {r : RepSeq} (h : (s.core c).rep = some r) (hp : p < 6)
    (hst : (s.strand c p).st = .waitMsg) (hw : (s.strand c p).wait = .repeater ∨ (s.strand c p).wait = .claim ∧ p = r.owner) :
    ((s.releaseRep c).strand c p).wait = .none ∧
    (stopsThere s c p → ((s.releaseRep c).strand c p).st = .stopped) ∧
    (¬ stopsThere s c p → ((s.releaseRep c).strand c p).st = .run) := by
  rw [releaseRep_eq h, strand_freedPorter]
  have hrep : WakeSide (s.setRep c none) (s.setRep c none) := .refl _
  refine foldl_at (p := p) (before := fun t => t.strand c p = s.strand c p ∧ WakeSide (s.setRep c none) t)
    (after := fun t => (t.strand c p).wait = .none ∧ (stopsThere s c p → (t.strand c p).st = .stopped) ∧
      (¬ stopsThere s c p → (t.strand c p).st = .run)) ?_ ?_ ?_ List.nodup_range (List.mem_range.mpr hp)
    ⟨strand_setRep .., hrep⟩
  · exact fun t q hq ht => ⟨(strand_freedStep_other hq).trans ht.1, ht.2.trans (wakeSide_freedStep ..)⟩
  · rintro t ⟨ht, hwake⟩
    have hb : t.breakFirst c p = s.breakFirst c p :=
      (breakFirst_congr (s := s.setRep c none) (ht.trans (strand_setRep ..).symm) hwake).trans
        (by simp only [State.breakFirst, State.brkHit, strand_setRep]; rfl)
    have hiff : stopsThere t c p ↔ stopsThere s c p := by rw [stopsThere, stopsThere, ht, hb]
    have hcond : ((t.strand c p).st = .waitMsg && ((t.strand c p).wait = .repeater ||
        ((t.strand c p).wait = .claim && r.owner = p))) = true := by
      rw [ht, hst]
      rcases hw with hw | ⟨hw, hown⟩
      · simp [hw]
      · rw [hw]
        simp [hown]
    have hr := strand_relook (s := t) (c := c) hp
    rw [hiff] at hr
    rw [freedStep, if_pos hcond]
    exact hr
  · intro t q hq ht
    rw [strand_freedStep_other hq]
    exact ht

/-! The events of the repeater -/

theorem bump_eq (s : State) (c event vd n : Nat) :
    ∃ m, s.bump c event vd n = s.setCore c { s.core c with counters := m } ∨ s.bump c event vd n = s := by
  unfold State.bump
  dsimp only
  split
  · exact ⟨[], .inr rfl⟩
  · exact ⟨_, .inl rfl⟩

/-- The event counter of a core changes nothing else. -/
theorem bump_spec (s : State) (c event vd n : Nat) : let t := s.bump c event vd n
    OnlyCores s t ∧ (∀ e, e ≠ c → t.core e = s.core e) ∧ (t.core c).strands = (s.core c).strands ∧
    (t.core c).porter = (s.core c).porter ∧ (t.core c).rep = (s.core c).rep ∧ t.cycle = s.cycle := by
  intro t
  obtain ⟨m, h | h⟩ := bump_eq s c event vd n
  · have ht : t = s.setCore c { s.core c with counters := m } := h
    rw [ht]
    refine ⟨rfl, fun e he => core_setCore_other _ _ _ _ he, ?_, ?_, ?_, rfl⟩ <;> rw [core_setCore]
  · have ht : t = s := h
    rw [ht]
    exact ⟨rfl, fun _ _ => rfl, rfl, rfl, rfl, rfl⟩

theorem repeaterIssue_ok {s : State} {c : Nat} {r : RepSeq} (h : (s.core c).rep = some r) (hi : r.iter < r.count)
    {l : List Eff} (hn : s.repNext c r = .ok l) : ∃ b n, b = s.bump c 0x03 n 1 ∧ s.repeaterIssue c =
      (b.setStrand c r.owner { b.strand c r.owner with regs := l.foldl RegSet.eff (s.strand c r.owner).regs }).setRep c
        (some { r with
          idx := if r.words.length ≤ r.idx + 1 then 0 else r.idx + 1
          iter := if r.words.length ≤ r.idx + 1 then r.iter + 1 else r.iter
          notBefore := b.cycle + 1 }) := by
  refine ⟨_, (s.ctx (clusterOf c) (s.strand c r.owner).tag.toNat).img.vd, rfl, ?_⟩
  unfold State.repeaterIssue
  rw [h]
  dsimp only
  rw [if_neg (by omega), hn]
  rfl

theorem repeaterIssue_error {s : State} {c : Nat} {r : RepSeq} (h : (s.core c).rep = some r) (hi : r.iter < r.count)
    {e : TrapInfo} (hn : s.repNext c r = .error e) (ho : ownerOpen (s.strand c r.owner) = true) :
    ∃ b n, b = s.bump c 0x03 n 1 ∧ s.repeaterIssue c =
      (b.trapStrand c r.owner true r.pc 0 (repTrap r e)).releaseRep c := by
  refine ⟨_, (s.ctx (clusterOf c) (s.strand c r.owner).tag.toNat).img.vd, rfl, ?_⟩
  unfold State.repeaterIssue
  rw [h]
  dsimp only
  rw [if_neg (by omega), hn]
  exact if_pos ho

theorem repNext_eq {s : State} {c : Nat} {r : RepSeq} {f : Form} {fx : View → Except TrapInfo (List Eff)}
    (h : r.instr r.idx r.iter = some (f, fx)) : s.repNext c r = fx (s.repView c r) := by
  unfold State.repNext
  rw [h]

theorem issues_ok {s : State} {c : Nat} {r : RepSeq} (h : (s.core c).rep = some r) (hi : r.iter < r.count)
    {l : List Eff} (hn : s.repNext c r = .ok l) : ∃ t, exec (.repeaterIssue c) s = .next t ∧
      t.strand c r.owner = { s.strand c r.owner with regs := l.foldl RegSet.eff (s.strand c r.owner).regs } ∧
      (∀ q, q ≠ r.owner → t.strand c q = s.strand c q) ∧ t.porter c = s.porter c ∧
      (∀ e, e ≠ c → t.core e = s.core e) ∧ OnlyCores s t ∧
      ∃ n, (t.core c).rep = some (if r.idx + 1 < r.words.length then { r with idx := r.idx + 1, notBefore := n }
        else { r with idx := 0, iter := r.iter + 1, notBefore := n }) := by
  obtain ⟨b, vd, hb, he⟩ := repeaterIssue_ok h hi hn
  obtain ⟨hrest, hcores, hstr, hport, -, -⟩ := bump_spec s c 0x03 vd 1
  rw [← hb] at hrest hcores hstr hport
  have hs (q : Nat) : b.strand c q = s.strand c q := by rw [State.strand, State.strand, hstr]
  refine ⟨_, congrArg Host.Outcome.next he, ?_, fun q hq => ?_, ?_, fun e hne => ?_, ?_, b.cycle + 1, ?_⟩
  · rw [strand_setRep, strand_setStrand, hs]
  · rw [strand_setRep, strand_setStrand_other _ _ _ _ _ _ fun hx => hq (Prod.mk.inj hx).2, hs]
  · rw [State.porter, State.setRep, core_setCore]
    show ((b.setStrand c r.owner _).porter c) = _
    rw [porter_setStrand, State.porter, State.porter, hport]
  · rw [State.setRep, core_setCore_other _ _ _ _ hne, State.setStrand, core_setCore_other _ _ _ _ hne, hcores e hne]
  · exact hrest
  · rw [rep_setRep]
    by_cases hlast : r.words.length ≤ r.idx + 1
    · rw [if_pos hlast, if_pos hlast, if_neg (by omega)]
    · rw [if_neg hlast, if_neg hlast, if_pos (by omega)]

theorem trapStrand_spec (b : State) (c p : Nat) (seq : Bool) (pc : Pc) (sel : BitVec 16) (i : TrapInfo) :
    let t := b.trapStrand c p seq pc sel i
    (t.core c).rep = (b.core c).rep ∧ t.strand c p = { b.strand c p with
      st := .trapped, wait := .none, op := none
      fault := ⟨faultWord0 (b.strand c p).gti seq i.upper (impCause i.cause) i, faultWord1 c p pc,
        BitVec.ofNat 64 i.addr, BitVec.ofNat 64 i.info, sel⟩ } := by
  intro t
  obtain ⟨h1, h2, h3, h4⟩ := setSt_spec b c p .trapped
  have hw := wakeSide_setSt b c p .trapped
  refine ⟨?_, ?_⟩
  · have hr : ((b.setSt c p .trapped).core c).rep = (b.core c).rep := (congrArg Core.rep (hw.core c) :)
    rw [← hr]
    simp only [t, State.trapStrand, State.setPorter, State.setStrand, core_setCore]
  · simp only [t, State.trapStrand, strand_setPorter, strand_setStrand, h2]

theorem repeaterEvents : Claim.RepeaterEvents := by
  intro s c r h x view
  refine ⟨?ok, ?error, ?last⟩
  case ok =>
    intro f fx l hi hinst hfx
    exact issues_ok h hi ((repNext_eq hinst).trans hfx)
  case error =>
    intro f fx e hi hinst hfx hopen
    have ho : ownerOpen x = true := by
      unfold ownerOpen
      rcases hopen with ho | ⟨ho, hw | hw⟩
      · simp [ho]
      · simp [ho, hw]
      · simp [ho, hw]
    obtain ⟨b, vd, hb, he⟩ := repeaterIssue_error h hi ((repNext_eq hinst).trans hfx) ho
    obtain ⟨-, -, hstr, -, hrep, -⟩ := bump_spec s c 0x03 vd 1
    rw [← hb] at hstr hrep
    have hs : b.strand c r.owner = x := by rw [State.strand, hstr]; rfl
    obtain ⟨hrep', htrap⟩ := trapStrand_spec b c r.owner true r.pc 0 (repTrap r e)
    rw [hs] at htrap
    have hrep' : ((b.trapStrand c r.owner true r.pc 0 (repTrap r e)).core c).rep = some r := hrep'.trans (hrep.trans h)
    have hsame := strand_releaseRep_same (p := r.owner) hrep' (by rw [htrap]; nofun)
    refine ⟨_, congrArg Host.Outcome.next he, rep_releaseRep hrep', ?_⟩
    rw [hsame, htrap]
    have himp : impCause (repTrap r e).cause = false := (precise_instr hinst).cause _ e hfx
    refine ⟨rfl, ?_, faultWord1_toNat .., rfl, rfl⟩
    have hf := fault0_word x.gti true (repTrap r e).upper (impCause (repTrap r e).cause) (repTrap r e)
    rw [himp] at hf ⊢
    exact hf
  case last =>
    intro hi
    have he : exec (.lastIterationRetires c) s = .next (s.releaseRep c) := by
      show execLastIterationRetires c s = _
      unfold execLastIterationRetires
      rw [h]
      exact congrArg Host.Outcome.next (if_pos hi)
    refine ⟨_, he, rep_releaseRep h, fun p hp hst hw => ?_⟩
    obtain ⟨hwait, hstop, hrun⟩ := strand_releaseRep_waits h hp hst hw
    refine ⟨hwait, ?_⟩
    split
    · next hs => exact hstop hs
    · next hs => exact hrun hs

/-! RPT, RWAIT and RSTOP -/

theorem isPorter_false {s : State} (h : s.cur.pos ≠ 6) : s.isPorter = false := decide_eq_false h

theorem seqWords_cases (k : Core) (x : Ctx) (pc : Pc) (n : Nat) :
    let at' (j : Nat) : Pc := pc + 1 + .ofNat 24 j
    let legal (j : Nat) : Bool := legalPc x (at' j)
    let read (j : Nat) := wordAt k x ((at' j).getLsbD 23) ((at' j).extractLsb' 0 23).toNat
    ((∃ j < n, legal j = true ∧ (read j).2 = true) → seqWords k x pc n = .error (tPoison 3)) ∧
    (¬ (∃ j < n, legal j = true ∧ (read j).2 = true) → (∃ j < n, ¬ (legal j = true ∧ seqOk (read j).1 = true)) →
      seqWords k x pc n = .error tIllegal) ∧
    (¬ (∃ j < n, legal j = true ∧ (read j).2 = true) → ¬ (∃ j < n, ¬ (legal j = true ∧ seqOk (read j).1 = true)) →
      seqWords k x pc n = .ok ((List.range n).map fun j => (read j).1)) := by
  intro at' legal read
  have h1 : ((((List.range n).map at').map fun p => (legalPc x p, wordAt k x (p.getLsbD 23) (p.extractLsb' 0 23).toNat)).any
      fun w => w.1 && w.2.2) = true ↔ ∃ j < n, legal j = true ∧ (read j).2 = true := by
    simp [List.any_map, List.any_eq_true, legal, read, at']
  have h2 : ((((List.range n).map at').map fun p => (legalPc x p, wordAt k x (p.getLsbD 23) (p.extractLsb' 0 23).toNat)).any
      fun w => !w.1 || !seqOk w.2.1) = true ↔ ∃ j < n, ¬ (legal j = true ∧ seqOk (read j).1 = true) := by
    simp [List.any_map, List.any_eq_true, legal, read, at', imp_iff_not_or]
  refine ⟨fun h => if_pos (h1.mpr h), fun h g => (if_neg (mt h1.mp h)).trans (if_pos (h2.mpr g)), fun h g => ?_⟩
  refine (if_neg (mt h1.mp h)).trans <| (if_neg (mt h2.mp g)).trans ?_
  rw [List.map_map, List.map_map]
  rfl

theorem afterSeq_eq (pc : Pc) (n : Fin 8) : afterSeq pc n = pc + .ofNat 24 (n.val + 1 + 1) := rfl

/-- The sequence that RPT loads, before its claim is worked out. -/
def unclaimed (s : State) (strb stra strd : BitVec 4) (count : BitVec 13) (ws : List (BitVec 96)) : RepSeq :=
  { owner := s.cur.pos, pc := s.pc, words := ws, count := count.toNat, iter := 0, idx := 0
    strd := strd.toNat, stra := stra.toNat, strb := strb.toNat, claim := 0, cap := s.regs, notBefore := s.cycle + 1 }

/-- The sequence that RPT loads. -/
def loaded (s : State) (strb stra strd : BitVec 4) (count : BitVec 13) (ws : List (BitVec 96)) : RepSeq :=
  { unclaimed s strb stra strd count ws with claim := claimOf (unclaimed s strb stra strd count ws) }

theorem repeatLoads : Claim.RepeatLoads := by
  intro s g strb stra strd seqlen count i k at' legal read n past
  have hexec : exec i s = .next (s.rpt g strb stra strd seqlen count) := rfl
  refine ⟨fun hp => ?_, fun hp hg => ?_, fun hp hg hr => ?_, fun hp hg hr => ?_⟩
  · exact traps_takeTrap (hexec.trans (congrArg Host.Outcome.next (if_pos (decide_eq_true hp))))
  · have h : s.rpt g strb stra strd seqlen count = s.retire [past] := by
      unfold State.rpt
      rw [isPorter_false hp, hg]
      rfl
    exact ⟨_, hexec.trans (congrArg Host.Outcome.next h), settled_retire_none s [past] rfl⟩
  · have h : s.rpt g strb stra strd seqlen count = s.park s.cur.core s.cur.pos .waitMsg .repeater := by
      unfold State.rpt
      rw [isPorter_false hp, hg]
      exact if_pos hr
    exact ⟨_, hexec.trans (congrArg Host.Outcome.next h), parked_park ..⟩
  · obtain ⟨h1, h2, h3⟩ := seqWords_cases k s.curCtx s.pc n
    have hnone : ¬ k.rep.isSome = true := by
      rw [hr]
      decide
    have herr {e : TrapInfo} (hx : seqWords k s.curCtx s.pc n = .error e) : exec i s = .next (s.takeTrap e) := by
      refine hexec.trans (congrArg Host.Outcome.next ?_)
      unfold State.rpt
      rw [isPorter_false hp, hg]
      refine (if_neg hnone).trans ?_
      change seqWords (s.core s.cur.core) s.curCtx s.regs.pc (seqlen.val + 1) = _ at hx
      rw [hx]
    have hok {ws : List (BitVec 96)} (hx : seqWords k s.curCtx s.pc n = .ok ws) : exec i s = .next ((s.setRep s.cur.core
        (some (loaded s strb stra strd count ws))).retire [past]) := by
      refine hexec.trans (congrArg Host.Outcome.next ?_)
      unfold State.rpt
      rw [isPorter_false hp, hg]
      refine (if_neg hnone).trans ?_
      change seqWords (s.core s.cur.core) s.curCtx s.regs.pc (seqlen.val + 1) = _ at hx
      rw [hx]
      exact Eq.refl ((s.setRep s.cur.core (some (loaded s strb stra strd count ws))).retire [past])
    split
    · next hx => exact traps_takeTrap (herr (h1 hx))
    · next hx =>
      split
      · next hy => exact traps_takeTrap (herr (h2 hx hy))
      · next hy =>
        refine ⟨_, ⟨_, hok (h3 hx hy), settled_retire_none _ [past] rfl⟩, rfl, rfl, rfl, rfl, rfl, rfl, rfl, rfl, rfl, rfl,
          fun v => ?_⟩
        have hlen (f : Nat → BitVec 96) : (unclaimed s strb stra strd count ((List.range n).map f)).words.length = n := by
          simp [unclaimed]
        have hv := claimOf_iff (unclaimed s strb stra strd count ((List.range n).map fun j => (read j).1)) v
        rw [hlen] at hv
        exact hv

theorem ownsRep_none {s : State} (h : (s.core s.cur.core).rep = none) : s.ownsRep = none := by rw [State.ownsRep, h]

theorem ownsRep_some {s : State} {r : RepSeq} (h : (s.core s.cur.core).rep = some r) :
    s.ownsRep = if r.owner = s.cur.pos then some r else none := by rw [State.ownsRep, h]

theorem rwait_forms {s : State} {g : Guard} (h : Clear s g { strandOnly := true }) :
    (s.ownsRep.isSome = true → Waits (.rwait g) s .waitMsg .repeater) ∧
    (s.ownsRep.isSome = false → Retires (.rwait g) s {} []) := by
  have he : exec (.rwait g) s = .next (if s.ownsRep.isSome then s.park s.cur.core s.cur.pos .waitMsg .repeater
      else s.retire []) := by
    have hact := issue_ok h (fx := fun _ => .ok ()) (x := ()) rfl fun s _ =>
      if s.ownsRep.isSome then s.park s.cur.core s.cur.pos .waitMsg .repeater else s.retire []
    rw [holdChans_none rfl] at hact
    exact congrArg Host.Outcome.next hact
  exact ⟨fun ho => ⟨_, he.trans (congrArg Host.Outcome.next (if_pos ho)), parked_park ..⟩,
    fun ho => ⟨_, he.trans (congrArg Host.Outcome.next (if_neg (by rw [ho]; decide))), settled_retire_none s [] rfl⟩⟩

/-- Retiring from a base whose own party stands as it did. -/
theorem retiresFrom_retire_dst {i : Instr} {s b : State} {d : SOp} {x : Word} (hcur : b.cur = s.cur)
    (hst : (s.strand s.cur.core s.cur.pos).st = .run → (b.strand s.cur.core s.cur.pos).st = .run)
    (he : exec i s = .next (s.holdChans (b.retire [effS d x false]) { dst := chS d })) :
    RetiresFrom i s b { dst := chS d } [effS d x false] := by
  have hset : Settled b (b.retire [effS d x false]) { dst := chS d } [effS d x false] :=
    settled_from _ (OwnOnly.refl b) rfl (fun d q => rfl) (by simp [effS_notLs])
  refine ⟨_, he, ?_⟩
  have hh : s.holdChans (b.retire [effS d x false]) { dst := chS d } = b.retire [effS d x false] := by
    refine if_neg fun hw => ?_
    obtain ⟨-, hp, hr, hs⟩ := holds_true hw
    have hown := hset.own.strand (by rw [hcur]; omega)
    rw [hcur] at hown
    have hst' : ((b.retire [effS d x false]).strand s.cur.core s.cur.pos).st = .run :=
      (congrArg Strand.st hown).trans (hst hr)
    simp [Strand.waitsToBegin, hst'] at hs
  rw [hh]
  exact hset

theorem repeatWaitAndStop : Claim.RepeatWaitAndStop := by
  intro s g own
  refine ⟨fun h => ?wait, ?stop⟩
  case wait =>
    have hown : s.ownsRep.isSome = own := by
      cases hr : (s.core s.cur.core).rep with
      | none => simp only [ownsRep_none hr, own, hr, Option.isSome_none]
      | some r => by_cases hp : r.owner = s.cur.pos <;> simp [ownsRep_some hr, own, hr, hp]
    obtain ⟨h1, h2⟩ := rwait_forms h
    rw [hown] at h1 h2
    split
    · next ho => exact h1 ho
    · next ho => exact h2 (Bool.eq_false_iff.mpr ho)
  case stop =>
    intro d u h
    have hact (n : Nat) (hn : (match s.ownsRep with | some r => r.issued | none => 0) = n) :
        exec (.rstop g d) s = .next (s.holdChans ((if s.ownsRep.isSome then s.releaseRep s.cur.core else s).retire
          [effS d (BitVec.ofNat 64 n) false]) u) := by
      subst hn
      exact congrArg Host.Outcome.next (issue_ok h (putS_ok (fun _ _ => rfl) 4) fun s l =>
        (if s.ownsRep.isSome then s.releaseRep s.cur.core else s).retire l)
    have hnone (ho : s.ownsRep = none) : Retires (.rstop g d) s u [effS d 0 false] := by
      have he := hact 0 (by rw [ho])
      rw [ho] at he
      exact retiresFrom_retire_dst rfl id he
    cases hr : (s.core s.cur.core).rep with
    | none => exact hnone (ownsRep_none hr)
    | some r =>
      dsimp only
      split
      · next hpos =>
        have ho : s.ownsRep = some r := (ownsRep_some hr).trans (if_pos hpos)
        have he := hact (r.iter * r.words.length + r.idx) (by rw [ho]; rfl)
        rw [ho] at he
        have hcur : (s.releaseRep s.cur.core).cur = s.cur := (congrArg State.cur (wakeSide_releaseRep hr).rest :)
        refine retiresFrom_retire_dst hcur (fun hst => ?_) he
        rw [strand_releaseRep_same hr (by rw [hst]; nofun)]
        exact hst
      · next hpos =>
        exact hnone ((ownsRep_some hr).trans (if_neg hpos))

/-- Settles O27. -/
theorem repeaterForms : Obligations.RepeaterForms := ⟨repeatLoads, repeatWaitAndStop, repeaterEvents⟩

end Sys2Proof.Safety
end


section
/-! SUPPORT. The VPERM group: the elements that the moves place, and the folds of the reductions. -/

namespace Sys2Proof.Safety

open Sys2Proof.Machine

/-! The moves -/

theorem lanes_pos (t : ETy) : 0 < lanes (tyBits t) := by cases t <;> decide

theorem two_dvd_lanes (t : ETy) : lanes (tyBits t) = 2 * (lanes (tyBits t) / 2) := by cases t <;> decide

/-- A list padded with zeros, element by element. -/
theorem pad_eq {n : Nat} {l : List ERes} (hl : l.length ≤ n) :
    pad n l = (List.range n).map fun j => (l[j]?).getD (0, false, 0) := by
  apply List.ext_getElem
  · rw [pad, List.length_append, List.length_replicate, List.length_map, List.length_range]; omega
  · intro j h1 h2
    rw [List.getElem_map, List.getElem_range]
    simp only [pad, List.getElem_append, List.getElem_replicate]
    split
    · next h => rw [List.getElem?_eq_getElem h, Option.getD_some]
    · next h => rw [List.getElem?_eq_none (not_lt.mp h), Option.getD_none]

theorem rankOf_eq (w : Nat) (k : Word) (j : Nat) : rankOf w k j = (List.range j).countP (active w k) :=
  List.countP_eq_length_filter.symm

/-- The elements that VCOMPRESS writes. -/
theorem compressed_eq (w : Nat) (x : PVec) (k : Word) :
    pad (lanes w) (((List.range (lanes w)).filter (active w k)).map (keep w x)) = (List.range (lanes w)).map fun j =>
      ((List.range (lanes w)).filter (active w k))[j]?.elim (0, false, 0) (keep w x) := by
  rw [pad_eq]
  · refine List.map_congr_left fun j _ => ?_
    rw [List.getElem?_map]
    cases ((List.range (lanes w)).filter (active w k))[j]? <;> rfl
  · rw [List.length_map]
    exact (List.length_filter_le ..).trans List.length_range.le

theorem vectorMoves : Claim.VectorMoveResults := by
  intro s g t d w n el
  refine ⟨fun b h => ?vbcast, fun a b => ?vins, fun a b h hb => ?vshuf, fun a b => ?vslide,
    fun a b h => ⟨?vzip, ?vunzip⟩, fun a b h => ⟨?vcompress, ?vexpand⟩⟩
  case vbcast =>
    refine givesV_plain h rfl ?_ rfl
    rw [List.map_const', List.length_range]
  case vins =>
    intro u h
    exact givesV_plain h rfl rfl rfl
  case vshuf =>
    refine givesV_plain h rfl (List.map_congr_left fun j _ => ?_) rfl
    cases b with
    | k i => cases hb
    | v i | s i | imm i | ch c => rfl
  case vslide =>
    intro u h
    refine givesV_plain h rfl ?_ rfl
    rw [bind_pure_comp, List.map_eq_map, List.map_map]
    refine List.map_congr_left fun j _ => ?_
    simp only [Function.comp_apply]
    simp only [Bool.and_eq_true, decide_eq_true_eq]
    rfl
  case vzip =>
    refine givesV_plain h rfl (List.map_congr_left fun j _ => ?_) rfl
    simp only [zipPick, decide_eq_true_eq]
    rfl
  case vunzip =>
    refine givesV_plain h rfl (List.map_congr_left fun j hj => ?_) rfl
    have hn := two_dvd_lanes t
    have hj : j < lanes (tyBits t) := List.mem_range.mp hj
    simp only [unzipPick, decide_eq_true_eq]
    split
    · next hlt => rw [Nat.mod_eq_of_lt hlt]; exact (if_pos hlt).symm
    · next hlt =>
      rw [Nat.mod_eq_sub_mod (not_lt.mp hlt), Nat.mod_eq_of_lt (show j - lanes (tyBits t) / 2 < lanes (tyBits t) / 2 from by omega)]
      exact (if_neg hlt).symm
  case vcompress =>
    refine givesV_plain h rfl ((compressed_eq ..).trans (List.map_congr_left fun j _ => ?_)) rfl
    split
    · next k hk => exact congrArg (Option.elim · _ _) hk
    · next hk => exact congrArg (Option.elim · _ _) hk
  case vexpand =>
    refine givesV_plain h rfl (List.map_congr_left fun j _ => ?_) rfl
    rw [rankOf_eq]
    rfl


/-! The elements that a reduction folds -/

/-- The elements present at the leaves. -/
theorem filterMap_redElems (w : Nat) (x : VReg) (k : Word) :
    (redElems w x k).filterMap id = ((List.range (lanes w)).filter (active w k)).map (elem w x) := by
  rw [redElems, List.filterMap_map]
  induction List.range (lanes w) with
  | nil => rfl
  | cons j l ih =>
    rw [List.filterMap_cons, List.filter_cons, ih, Function.comp_apply, id]
    split <;> simp_all

/-! Sums and extremes of integers -/

theorem sumInts_eq (w : Nat) (x : VReg) (k : Word) (d : Word) :
    sumInts w (redElems w x k) d = (.ofInt 64 (d.toInt +
      ((((List.range (lanes w)).filter (active w k)).map (elem w x)).map (intOf w true)).sum), 0) := by
  rw [sumInts, filterMap_redElems, BitVec.ofInt_add, BitVec.ofInt_toInt]

/-- A fold that keeps one of two words keeps one of all, and the greatest of an order when it keeps the greater. -/
theorem foldl_keeps {le : Int → Int → Prop} (hrefl : ∀ a, le a a) (htrans : ∀ a b c, le a b → le b c → le a c)
    {op : Word → Word → Word} (hop : ∀ r e, op r e = r ∨ op r e = e)
    (hle : ∀ r e, le r.toInt (op r e).toInt ∧ le e.toInt (op r e).toInt) (es : List Word) (r : Word) :
    (∀ y ∈ r.toInt :: es.map BitVec.toInt, le y (es.foldl op r).toInt) ∧
      (es.foldl op r).toInt ∈ r.toInt :: es.map BitVec.toInt := by
  induction es generalizing r with
  | nil => exact ⟨fun y hy => by rw [List.mem_singleton.mp hy]; exact hrefl _, List.mem_cons_self⟩
  | cons e es ih =>
    obtain ⟨hge, hmem⟩ := ih (op r e)
    obtain ⟨hr, he⟩ := hle r e
    have htop := hge _ List.mem_cons_self
    rw [List.foldl_cons]
    constructor
    · intro y hy
      rw [List.map_cons, List.mem_cons, List.mem_cons] at hy
      obtain rfl | rfl | hy := hy
      · exact htrans _ _ _ hr htop
      · exact htrans _ _ _ he htop
      · exact hge _ (List.mem_cons_of_mem _ hy)
    · rw [List.mem_cons] at hmem
      rw [List.map_cons]
      obtain h | h := hmem
      · obtain h' | h' := hop r e
        · rw [h, h']; exact List.mem_cons_self
        · rw [h, h']; exact List.mem_cons_of_mem _ List.mem_cons_self
      · exact List.mem_cons_of_mem _ (List.mem_cons_of_mem _ h)

theorem intMax_ge (r e : Word) : r.toInt ≤ (intMax r e).toInt ∧ e.toInt ≤ (intMax r e).toInt := by
  simp only [intMax, BitVec.slt, decide_eq_true_eq]
  split <;> omega

theorem intMin_le (r e : Word) : (intMin r e).toInt ≤ r.toInt ∧ (intMin r e).toInt ≤ e.toInt := by
  simp only [intMin, BitVec.slt, decide_eq_true_eq]
  split <;> omega

/-- The words that the integer extremes fold stand for the elements. -/
theorem map_toInt_extend (t : ETy) (x : VReg) (l : List Nat) :
    ((l.map (elem (tyBits t) x)).map (extend (tyBits t) true)).map BitVec.toInt =
      (l.map (elem (tyBits t) x)).map (intOf (tyBits t) true) := by
  rw [List.map_map, List.map_map, List.map_map]
  exact List.map_congr_left fun j _ => toInt_extend (tyBits_pos t) (tyBits_le t) (elem_lt ..)

theorem extremum_int {t : ETy} (ht : t.isInt = true) (mx : Bool) (x : VReg) (k d : Word) :
    extremum mx t (redElems (tyBits t) x k) d =
      (((((List.range (lanes (tyBits t))).filter (active (tyBits t) k)).map (elem (tyBits t) x)).map
        (extend (tyBits t) true)).foldl (if mx then intMax else intMin) d, 0) := by
  simp only [extremum, ht, if_true, filterMap_redElems, List.foldl_map]
  cases mx <;> rfl

theorem extremum_fp {t : ETy} (ht : t.isInt = false) (mx : Bool) (x : VReg) (k d : Word) :
    extremum mx t (redElems (tyBits t) x k) d =
      let r := (((List.range (lanes (tyBits t))).filter (active (tyBits t) k)).map (elem (tyBits t) x)).foldl
        (fun (r : Nat × Flags) y => ((fpMinMax (fmtOf t) mx r.1 y).1, r.2 ||| (fpMinMax (fmtOf t) mx r.1 y).2))
        (d.toNat % 2 ^ tyBits t, 0)
      (.ofNat 64 r.1, r.2) := by
  simp only [extremum, ht, Bool.false_eq_true, if_false, filterMap_redElems]

/-! The tree of VFREDADD -/

/-- The flags of `k` nodes from node `a` on. -/
def flagsOf (g : Nat → Flags) (a k : Nat) : Flags := ((List.range' a k).map g).foldr (· ||| ·) 0

theorem flagsOf_succ (g : Nat → Flags) (a k : Nat) : flagsOf g a (k + 1) = g a ||| flagsOf g (a + 1) k := rfl

theorem flagsOf_add (g : Nat → Flags) (a k l : Nat) : flagsOf g a (k + l) = flagsOf g a k ||| flagsOf g (a + k) l := by
  induction k generalizing a with
  | zero => rw [Nat.zero_add, Nat.add_zero]; exact (BitVec.zero_or).symm
  | succ k ih =>
    rw [Nat.add_right_comm, flagsOf_succ, flagsOf_succ, ih, BitVec.or_assoc, Nat.add_right_comm a 1 k]
    rfl

/-- One level of the tree over consecutive nodes. -/
theorem redLevel_map (f : Fmt) (x : Nat → Option Nat) (a k : Nat) :
    redLevel f ((List.range' (2 * a) (2 * k)).map x) =
      ((List.range' a k).map (redNode f x 1), flagsOf (redFlags f x 1) a k) := by
  induction k generalizing a with
  | zero => rfl
  | succ k ih =>
    have hr : List.range' (2 * a) (2 * (k + 1)) = 2 * a :: (2 * a + 1) :: List.range' (2 * (a + 1)) (2 * k) := rfl
    rw [hr, List.map_cons, List.map_cons, flagsOf_succ, redLevel, ih, List.range'_succ, List.map_cons]
    simp only [redNode, redFlags]
    cases x (2 * a) <;> cases x (2 * a + 1) <;> simp [BitVec.or_comm]

/-- The nodes of a tree are those of the tree above its first level. -/
theorem redNode_succ (f : Fmt) (x : Nat → Option Nat) (l j : Nat) :
    redNode f (redNode f x 1) l j = redNode f x (l + 1) j := by
  induction l generalizing j with
  | zero => rfl
  | succ l ih => rw [redNode, ih, ih]; rfl

theorem redFlags_succ (f : Fmt) (x : Nat → Option Nat) (l j : Nat) :
    redFlags f x (l + 1) j = flagsOf (redFlags f x 1) (j * 2 ^ l) (2 ^ l) ||| redFlags f (redNode f x 1) l j := by
  induction l generalizing j with
  | zero => simp [flagsOf, redFlags]
  | succ l ih =>
    have h1 : j * 2 ^ (l + 1) = 2 * j * 2 ^ l := by ring
    have h2 : 2 * j * 2 ^ l + 2 ^ l = (2 * j + 1) * 2 ^ l := by ring
    have h3 : 2 ^ (l + 1) = 2 ^ l + 2 ^ l := by ring
    rw [redFlags, ih, ih, h1, h3, flagsOf_add, h2, redFlags, redNode_succ, redNode_succ]
    ac_rfl

theorem redTree_map (f : Fmt) (l : Nat) (x : Nat → Option Nat) :
    redTree f l ((List.range' 0 (2 ^ l)).map x) = (redNode f x l 0, redFlags f x l 0) := by
  induction l generalizing x with
  | zero => rfl
  | succ l ih =>
    have h := redLevel_map f x 0 (2 ^ l)
    rw [Nat.mul_zero] at h
    rw [redTree, Nat.pow_succ', h]
    dsimp only
    rw [ih, redNode_succ, redFlags_succ, Nat.zero_mul]

/-- A tree without elements raises no flags. -/
theorem redFlags_none (f : Fmt) (x : Nat → Option Nat) (l j : Nat) (h : redNode f x l j = none) :
    redFlags f x l j = 0 := by
  induction l generalizing j with
  | zero => rfl
  | succ l ih =>
    rw [redNode] at h
    rw [redFlags]
    cases ha : redNode f x l (2 * j) with
    | some a => cases hb : redNode f x l (2 * j + 1) <;> rw [ha, hb] at h <;> cases h
    | none =>
      rw [ha] at h
      have hb : redNode f x l (2 * j + 1) = none := h
      rw [hb, ih _ ha, ih _ hb]
      exact (BitVec.or_zero ..).trans (BitVec.or_zero ..)

theorem lanes_eq_two_pow (t : ETy) : lanes (tyBits t) = 2 ^ Nat.log2 (lanes (tyBits t)) := by cases t <;> decide

/-- The leaves of that tree. -/
def redLeaf (t : ETy) (x : VReg) (k : Word) (j : Nat) : Option Nat :=
  if active (tyBits t) k j then some (elem (tyBits t) x j) else none

/-- The tree over the elements of a register. -/
theorem redTree_redElems (f : Fmt) (t : ETy) (x : VReg) (k : Word) :
    redTree f (Nat.log2 (lanes (tyBits t))) (redElems (tyBits t) x k) =
      (redNode f (redLeaf t x k) (Nat.log2 (lanes (tyBits t))) 0,
      redFlags f (redLeaf t x k) (Nat.log2 (lanes (tyBits t))) 0) := by
  rw [← redTree_map, ← lanes_eq_two_pow, ← List.range_eq_range']
  rfl

theorem sumFps_some {t : ETy} {x : VReg} {k d : Word} {y : Nat}
    (hy : redNode (fmtOf t) (redLeaf t x k) (Nat.log2 (lanes (tyBits t))) 0 = some y) :
    sumFps t (redElems (tyBits t) x k) d = (.ofNat 64 (fpAdd (fmtOf t) .rne false (d.toNat % 2 ^ tyBits t) y).1,
      redFlags (fmtOf t) (redLeaf t x k) (Nat.log2 (lanes (tyBits t))) 0 |||
        (fpAdd (fmtOf t) .rne false (d.toNat % 2 ^ tyBits t) y).2) := by
  simp only [sumFps, redTree_redElems, hy]

theorem sumFps_none {t : ETy} {x : VReg} {k d : Word}
    (hy : redNode (fmtOf t) (redLeaf t x k) (Nat.log2 (lanes (tyBits t))) 0 = none) :
    sumFps t (redElems (tyBits t) x k) d = (.ofNat 64 (d.toNat % 2 ^ tyBits t), 0) := by
  simp only [sumFps, redTree_redElems, hy, redFlags_none _ _ _ _ hy]

/-! The reductions -/

section
variable {s : State} {g : Guard} {t : ETy} {d : SOp} {a : VOp} {b : KOp} {i : Instr}
  {f : List (Option Nat) → Word → Word × Flags}

/-- Whether the result of a reduction is poison. -/
def redBad (s : State) (t : ETy) (d : SOp) (a : VOp) (b : KOp) : Bool :=
  let v := s.view (formRed d a b).use
  redPoison (tyBits t) (v.v v.a a) (v.k v.b b) || (v.s v.d d).p

/-- What a reduction computes. -/
def redOf (s : State) (t : ETy) (d : SOp) (a : VOp) (b : KOp) (f : List (Option Nat) → Word → Word × Flags) :
    Word × Flags :=
  let v := s.view (formRed d a b).use
  f (redElems (tyBits t) (v.v v.a a).x (v.k v.b b)) (v.s v.d d).v

theorem red_retires (h : Clear s g (formRed d a b)) (he : exec i s = .next (s.plain g (formRed d a b) (fxRed f t d a b)))
    (hd : takesS d (redBad s t d a b)) {r : Word × Flags} (hr : redOf s t d a b f = r) :
    Retires i s (formRed d a b).use [effS d r.1 (redBad s t d a b), .flags r.2] := by
  subst hr
  refine plain_retires h he (l := [effS d _ _, .flags _]) ?_ (by simp only [List.all_cons, effS_notLs]; rfl)
  have hp := putS_ok (x := (redOf s t d a b f).1) hd (firstPoison (redPoison (tyBits t)
    ((s.view (formRed d a b).use).v (s.view (formRed d a b).use).a a)
    ((s.view (formRed d a b).use).k (s.view (formRed d a b).use).b b)) false
    ((s.view (formRed d a b).use).s (s.view (formRed d a b).use).d d).p)
  simp only [redOf, redBad] at hp
  simp only [fxRed, hp]
  rfl

theorem red_traps (h : Clear s g (formRed d a b)) (he : exec i s = .next (s.plain g (formRed d a b) (fxRed f t d a b)))
    (hd : ¬ takesS d (redBad s t d a b)) {px : Bool} (hpx : redPoison (tyBits t)
      ((s.view (formRed d a b).use).v (s.view (formRed d a b).use).a a)
      ((s.view (formRed d a b).use).k (s.view (formRed d a b).use).b b) = px) :
    Traps i s { cause := 0x09, sub := if px then 1 else 0 } := by
  subst hpx
  obtain ⟨c, rfl, hp⟩ : ∃ c, d = .ch c ∧ redBad s t d a b = true := by
    simpa only [takesS, not_forall, exists_prop, Bool.not_eq_false] using hd
  refine plain_traps h he ?_
  have hput := putS_poison (c := c) (x := (redOf s t (.ch c) a b f).1) hp (firstPoison (redPoison (tyBits t)
    ((s.view (formRed (.ch c) a b).use).v (s.view (formRed (.ch c) a b).use).a a)
    ((s.view (formRed (.ch c) a b).use).k (s.view (formRed (.ch c) a b).use).b b)) false
    ((s.view (formRed (.ch c) a b).use).s (s.view (formRed (.ch c) a b).use).d (.ch c)).p)
  simp only [redOf, redBad] at hput hp
  simp only [fxRed, hput]
  cases hq : redPoison (tyBits t) ((s.view (formRed (.ch c) a b).use).v (s.view (formRed (.ch c) a b).use).a a)
    ((s.view (formRed (.ch c) a b).use).k (s.view (formRed (.ch c) a b).use).b b) with
  | true => rfl
  | false =>
    rw [hq, Bool.false_or] at hp
    rw [hp]
    rfl

end

theorem vectorToScalar : Claim.VectorToScalarResults := by
  intro s g t d a w n sg
  have hsg (l : List Nat) (x : VReg) : (l.map (elem w x)).map sg = (l.map (elem w x)).map (intOf w true) := by
    rw [List.map_map, List.map_map]
    exact List.map_congr_left fun j _ => (intOf_of_lt (elem_lt w x j)).symm
  refine ⟨fun b => ?ext, fun b h => ?reductions⟩
  case ext =>
    intro u h v x y p
    refine ⟨fun hd => ?_, fun hd => ?_⟩
    · exact plain_retires h rfl (putS_ok hd _) (by simp only [List.all_cons, effS_notLs]; rfl)
    · obtain ⟨c, rfl, hp⟩ : ∃ c, d = .ch c ∧ p = true := by
        simpa only [takesS, not_forall, exists_prop, Bool.not_eq_false] using hd
      refine traps_putS h (.inl rfl) rfl ⟨hp, ?_⟩
      show firstPoison (elemP w x.p (y.v.toNat % n)) y.p false = _
      cases hq : elemP w x.p (y.v.toNat % n) with
      | true => rfl
      | false =>
        have hy : y.p = true := by simpa only [p, hq, Bool.false_or] using hp
        rw [hy]
        rfl
  intro u v x z on l p gives
  refine ⟨?poison, fun hd => ?_⟩
  case poison =>
    intro hd i hi
    simp only [List.mem_cons, List.not_mem_nil, or_false] at hi
    obtain rfl | rfl | rfl | rfl := hi <;> exact red_traps h rfl hd rfl
  refine ⟨red_retires (f := sumInts w) (r := (_, 0)) h rfl hd ?sum, fun ht => ⟨⟨_, red_retires (f := extremum true t) h rfl hd (extremum_int ht true ..), ?max⟩,
    ⟨_, red_retires (f := extremum false t) h rfl hd (extremum_int ht false ..), ?min⟩⟩,
    fun ht => ⟨red_retires (f := extremum true t) h rfl hd (extremum_fp ht true ..), red_retires (f := extremum false t) h rfl hd (extremum_fp ht false ..)⟩, ?_⟩
  case sum => exact (sumInts_eq ..).trans (by rw [← hsg]; rfl)
  case max =>
    have hk := foldl_keeps (le := (· ≤ ·)) le_refl (fun _ _ _ => le_trans)
      (fun r e => show intMax r e = r ∨ intMax r e = e from (ite_eq_or_eq ..).symm) intMax_ge
      (l.map (extend w true)) z.v
    rw [map_toInt_extend, ← hsg] at hk
    exact hk
  case min =>
    have hk := foldl_keeps (le := (· ≥ ·)) le_refl (fun _ _ _ h1 h2 => le_trans h2 h1)
      (fun r e => show intMin r e = r ∨ intMin r e = e from ite_eq_or_eq ..) intMin_le
      (l.map (extend w true)) z.v
    rw [map_toInt_extend, ← hsg] at hk
    exact hk
  intro f node top
  split
  · next y hy => exact red_retires (f := sumFps t) h rfl hd (sumFps_some hy)
  · next hy => exact red_retires (f := sumFps t) h rfl hd (sumFps_none hy)

/-- Settles O22: every form writes the elements that its shape places, and each reduction folds the active elements,
VFREDADD along the tree whose levels `redTree` takes one by one and `redNode` from the top. -/
theorem vectorPermutationResults : Obligations.VectorPermutationResults := ⟨vectorMoves, vectorToScalar⟩

end Sys2Proof.Safety
end

section
/-! SUPPORT. A read at its home that must drop a stale copy from a cluster cache over its tags (O47). -/

namespace Sys2Proof.Safety

open Sys2Proof.Machine

/-- A read of the word at address 0 of a loft page without a frame, by core 0 of cluster 0. -/
def staleRead : HReq := ⟨.read, 0, 0, 0, .loft 0, 0, 8, [], releasePage, 0, 0, none, false⟩

/-- That read, at its home. -/
def staleReadFlit : Flit := ⟨0, 0, 0, 0, 512, 0, 0, 0, vcREQ, 0, 0, 0, 0, .held, 0, 0, .req staleRead⟩

/-- A clean copy of the first byte of that word, whose value its home does not hold. -/
def staleCopy : CExt := ⟨.loft 0, 0, [⟨1, false⟩], .c, releasePage, 0, 0⟩

/-- A clean copy of another space in set 0, in use now: the home draws one number before it drops the older copy. -/
def copyInUse : CExt := ⟨.phys, 0, [⟨0, false⟩], .c, releasePage, 0, State.reset.nextId + 1⟩

/-- Cluster 0 holds the stale copy and nine more in one set. -/
def staleReadState : State :=
  { State.reset with
    net := [staleReadFlit]
    clusters := [(0, { Cluster.init with cache := staleCopy :: List.replicate 9 copyInUse })] }

/-- A request that its home serves now (R116, R169, R179), and that `State.homeTry` refuses all the same. -/
structure RefusedAtHome (s : State) (f : Flit) (q : HReq) : Prop where
  request : s.reqFlit 0 = some (f, q)
  flit : s.flit? 0 = some f
  recent : ¬ (1 ≤ (mapGet 0 (s.slice (96 * f.ddie + (f.dstop - 512))).incs f.cluster - f.inc).toNat ∧
    (mapGet 0 (s.slice (96 * f.ddie + (f.dstop - 512))).incs f.cluster - f.inc).toNat ≤ 127)
  here : ¬ ∃ t ∈ (s.slice (96 * f.ddie + (f.dstop - 512))).tombs,
    t.sp = q.sp ∧ t.bay ≤ q.addr / 256 ∧ q.addr / 256 < t.bay + t.n
  free : s.mustWait f q = false
  present : s.absentAt (96 * f.ddie + (f.dstop - 512)) q.sp q.leaf q.addr q.len = []
  refused : (match s.homeTry f q with | .refuse => true | _ => false) = true
  stays : (s.countRefusal q).net = [f]

theorem staleReadState_refused : RefusedAtHome staleReadState staleReadFlit staleRead where
  request := by decide +kernel
  flit := by decide +kernel
  recent := by decide +kernel
  here := by decide +kernel
  free := by decide +kernel
  present := by decide +kernel
  refused := by decide +kernel
  stays := by decide +kernel

theorem staleReadState_refuses : exec (.homeRequest 0) staleReadState = .next (staleReadState.countRefusal staleRead) := by
  have h := staleReadState_refused.refused
  show Host.Outcome.next (staleReadState.homeRequest 0) = _
  rw [State.homeRequest, staleReadState_refused.request]
  dsimp only
  split at h
  · next hr => rw [hr]
  · cases h

/-- Refutes O47: a home that serves a read on a page that is not strong first drops the older copies of its cluster
(`State.supersede`), which makes that cluster's cache fit again; where nothing in an over-full set may be evicted the
state is short, and the home refuses the read. In `staleReadState` the statement has the read answered. -/
theorem not_homeRequests : ¬ Obligations.HomeRequests := by
  intro h
  obtain ⟨-, -, -, hserve⟩ := h staleReadState 0 staleReadFlit staleRead staleReadState_refused.flit rfl rfl
  obtain ⟨hread, -⟩ :=
    hserve staleReadState_refused.recent staleReadState_refused.here rfl staleReadState_refused.free
  obtain ⟨t, k, he, ⟨q, g, hg, -, hmsg, -⟩, -⟩ := hread (.inl rfl) staleReadState_refused.present
  rw [staleReadState_refuses] at he
  cases he
  rw [staleReadState_refused.stays, List.mem_singleton] at hg
  rw [hg] at hmsg
  cases hmsg

end Sys2Proof.Safety
end

section
/-! SUPPORT. Task queues: pops, aging, spills, spawns and steals (O51). -/

namespace Sys2Proof.Safety

open Sys2Proof.Machine

/-! A strand that another party's work passes by -/

/-- A strand stands as it was, but for its RELL word. -/
def Stands (c p : Nat) (s t : State) : Prop :=
  ({ t.strand c p with rell := (s.strand c p).rell } : Strand) = s.strand c p

section
variable {c p : Nat} {s t u : State}

theorem Stands.of_strand (h : t.strand c p = s.strand c p) : Stands c p s t := by rw [Stands, h]

theorem Stands.refl : Stands c p s s := rfl

theorem Stands.trans (h : Stands c p s t) (k : Stands c p t u) : Stands c p s u :=
  (congrArg (fun x : Strand => ({ x with rell := (s.strand c p).rell } : Strand)) k).trans h

theorem Stands.wait (h : Stands c p s t) : (t.strand c p).wait = (s.strand c p).wait := (congrArg Strand.wait h :)

theorem CacheSide.stands (h : CacheSide s t) : Stands c p s t := h.strand c p

theorem Stands.of_cores (h : t.cores = s.cores) : Stands c p s t := .of_strand (strand_of_cores h c p)

theorem stands_setCore {d : Nat} {k : Core} (h : k.strands = (s.core d).strands) : Stands c p s (s.setCore d k) := by
  refine .of_strand ?_
  rw [State.strand, State.strand, core_setCore_eq]
  split
  · next hd => rw [h, hd]
  · rfl

theorem stands_setCluster (s : State) (k : Nat) (x : Cluster) : Stands c p s (s.setCluster k x) := .of_cores rfl

theorem stands_foldl {α : Type} {f : State → α → State} (h : ∀ s x, Stands c p s (f s x)) (l : List α) (s : State) :
    Stands c p s (l.foldl f s) := by
  induction l generalizing s with
  | nil => exact .refl
  | cons x l ih => exact (h s x).trans (ih _)

theorem stands_tlbFill (s : State) (core vd asid dva : Nat) (l : Leaf) : Stands c p s (s.tlbFill core vd asid dva l) := by
  unfold State.tlbFill
  dsimp only
  refine Stands.trans (t := s.fresh.2) (.of_cores rfl) (Stands.trans ?_ (stands_setCluster ..))
  exact stands_setCore rfl

theorem stands_translate (s : State) (core cl tag : Nat) (ll : Bool) (a : GAct) (dva : Nat) :
    Stands c p s (s.translate core cl tag ll a dva).2 := by
  unfold State.translate
  obtain ⟨⟨vd, asid, root⟩, hsp⟩ : ∃ x, s.spaceOf cl tag ll = x := ⟨_, rfl⟩
  rw [hsp]
  dsimp only
  split
  · exact .refl
  · split
    · exact .of_cores rfl
    · split
      · exact .of_cores rfl
      · next t ht =>
        have h : Stands c p s t := (homeSide_walkReads ht).stands
        split
        · exact h
        · exact h.trans (stands_tlbFill ..)

theorem stands_writeDva {core cl tag dva : Nat} {data : List PByte} {ll : Bool}
    (h : s.writeDva core cl tag dva data ll = some t) : Stands c p s t := by
  have ht : Stands c p s _ := stands_translate s core cl tag ll .store dva
  unfold State.writeDva at h
  split at h
  · next x b hx =>
    rw [hx] at ht
    split at h <;> cases h
    exact ht
  · next l b hx =>
    rw [hx] at ht
    obtain ⟨⟨vd, asid, root⟩, hsp⟩ : ∃ x, b.spaceOf cl tag ll = x := ⟨_, rfl⟩
    obtain ⟨⟨sp, a⟩, hk⟩ : ∃ x, keyOf l vd dva = x := ⟨_, rfl⟩
    rw [hsp] at h
    simp only [hk] at h
    refine ht.trans ?_
    split at h
    · split at h <;> cases h
      · exact .of_cores rfl
      · exact ((homeSide_homeTraffic ..).toCacheSide.trans (cacheSide_writeHomes ..)).stands
    · split at h
      · cases h; exact .of_cores rfl
      · split at h <;> cases h
        exact .of_cores rfl

theorem stands_enqueue {cl : Nat} {x : Task} (h : s.enqueue cl x = some t) : Stands c p s t := by
  unfold State.enqueue at h
  dsimp only at h
  split at h
  · cases h; exact .of_cores rfl
  · split at h
    · cases h
    · split at h
      · cases h
      · obtain ⟨u, hu, rfl⟩ := Option.map_eq_some_iff.mp h
        exact (stands_writeDva hu).trans (.of_cores rfl)

theorem stands_enqueueCont {cl : Nat} {tag : BitVec 4} {parent : BitVec 32} {l : List Word} {host : Option (Nat × Nat)}
    (h : s.enqueueCont cl tag parent l host = some t) : Stands c p s t :=
  Stands.trans (t := (s.newGti (dieOfCluster cl) (s.ctx cl tag.toNat).img.vd).2) (.of_cores rfl) (stands_enqueue h)

end

/-! What another strand does -/

section
variable {c p e q : Nat} (h : (c, p) ≠ (e, q))
include h

theorem strand_setRegsOf_other (s : State) (r : RegSet) : (s.setRegsOf e q r).strand c p = s.strand c p := by
  unfold State.setRegsOf
  split
  · dsimp only
    split
    · split <;> exact strand_setPorter ..
    · exact strand_setPorter ..
  · exact strand_setStrand_other _ _ _ _ _ _ h

theorem strand_enterLine_other (s : State) : (s.enterLine e q).strand c p = s.strand c p := by
  unfold State.enterLine
  dsimp only
  split
  · exact strand_setPorter ..
  · exact strand_setStrand_other _ _ _ _ _ _ h

theorem strand_goto_other (s : State) (pc : Pc) : (s.goto e q pc).strand c p = s.strand c p := by
  unfold State.goto
  dsimp only
  split
  · exact strand_setRegsOf_other h ..
  · exact (strand_enterLine_other h ..).trans (strand_setRegsOf_other h ..)

theorem strand_guardTouch_other (s : State) (a n : Nat) : (s.guardTouch e q a n).strand c p = s.strand c p := by
  unfold State.guardTouch
  split
  · rfl
  · dsimp only
    split
    · exact strand_setStrand_other _ _ _ _ _ _ h
    · rfl

theorem stands_retireOf_other (s : State) (l : List Eff) : Stands c p s (s.retireOf e q l) := by
  rw [retireOf_eq]
  refine Stands.trans ?_ (.of_strand (strand_goto_other h ..))
  refine Stands.trans (.of_strand (strand_setRegsOf_other h ..)) (stands_foldl (fun s x => ?_) _ _)
  cases x with
  | chan n ws =>
    dsimp only
    unfold State.chPlace
    split
    · exact .refl
    · exact stands_setCore rfl
  | ls a b => exact Stands.trans (.of_strand (strand_guardTouch_other h ..)) (stands_setCore rfl)
  | _ => exact .refl

theorem strand_setOp_other (s : State) (o : Option Op) : (s.setOp e q o).strand c p = s.strand c p := by
  unfold State.setOp
  split
  · exact strand_setPorter ..
  · exact strand_setStrand_other _ _ _ _ _ _ h

theorem strand_park_other (s : State) (st : RunState) (w : Wait) : (s.park e q st w).strand c p = s.strand c p := by
  unfold State.park
  split
  · exact strand_setPorter ..
  · exact (strand_setStrand_other _ _ _ _ _ _ h).trans (strand_setSt_other _ _ _ _ h)

theorem stands_complete_other (s : State) (l : List Eff) : Stands c p s (s.complete e q l) := by
  unfold State.complete
  split
  · exact .of_cores rfl
  · dsimp only
    refine Stands.trans ?_ (.of_strand (strand_unpark_other _ _ _ h))
    refine Stands.trans ?_ (stands_retireOf_other h ..)
    exact Stands.trans (.of_strand (strand_setOp_other h ..)) (.of_strand ((sameParties_chTake ..).strand c p))

theorem stands_joinDone_other (s : State) (d : Option POp) (b : Bool) : Stands c p s (s.joinDone e q d b) := by
  unfold State.joinDone
  split
  · exact stands_complete_other h ..
  · refine .of_strand ((strand_relook_other _ _ _ h).trans ?_)
    exact (strand_setStrand_other _ _ _ _ _ _ h).trans (strand_setOp_other h ..)

theorem stands_joinPlace_other (s : State) : Stands c p s (s.joinPlace e q) := by
  unfold State.joinPlace
  split
  · exact .refl
  · dsimp only
    split
    · split
      · next hq => exact (stands_enqueueCont hq).trans (stands_joinDone_other h ..)
      · exact .of_strand (strand_park_other h ..)
    · exact .refl

end

/-! A queue entry that comes free -/

/-- One place of `State.queueFreed`. -/
def freedAt (c : Nat) (s : State) (p : Nat) : State :=
  if s.waitOf c p = .queue then
    let t := s.joinPlace c p
    if t.short.isSome then s else t
  else s

theorem queueFreed_eq (s : State) (cl : Nat) : s.queueFreed cl =
    (coresOf cl).foldl (fun s c => (List.range 6).foldl (freedAt c) s) s := rfl

theorem waitOf_strand (s : State) {c p : Nat} (h : p < 6) : s.waitOf c p = (s.strand c p).wait := if_neg (by omega)

/-- A strand that waits for no queue entry is left as it is. -/
theorem stands_freedAt {c p e q : Nat} (hq : q < 6) {s : State} (h : (s.strand c p).wait ≠ .queue) :
    Stands c p s (freedAt e s q) := by
  unfold freedAt
  split
  · next hw =>
    have hne : (c, p) ≠ (e, q) := by
      rintro ⟨⟩
      exact h (waitOf_strand s hq ▸ hw)
    dsimp only
    split
    · exact .refl
    · exact stands_joinPlace_other hne s
  · exact .refl

theorem stands_queueFreed {c p : Nat} (cl : Nat) {s : State} (h : (s.strand c p).wait ≠ .queue) :
    Stands c p s (s.queueFreed cl) := by
  have run {α : Type} (f : State → α → State) (l : List α)
      (hf : ∀ x ∈ l, ∀ t, (t.strand c p).wait ≠ .queue → Stands c p t (f t x)) :
      ∀ t, (t.strand c p).wait ≠ .queue → Stands c p t (l.foldl f t) := by
    induction l with
    | nil => exact fun t _ => .refl
    | cons x l ih =>
      intro t ht
      have k := hf x (.head _) t ht
      exact k.trans (ih (fun y hy => hf y (.tail _ hy)) _ (by rwa [k.wait]))
  rw [queueFreed_eq]
  refine run _ _ (fun d _ t ht => run _ _ (fun q hq u hu => ?_) t ht) s h
  exact stands_freedAt (List.mem_range.mp hq) hu

/-- Where nobody of a cluster waits for a queue entry, one that comes free changes nothing. -/
theorem queueFreed_quiet {s : State} {cl : Nat} (h : ∀ c ∈ coresOf cl, ∀ p < 6, s.waitOf c p ≠ .queue) :
    s.queueFreed cl = s := by
  have run {α : Type} (f : State → α → State) (l : List α) (hf : ∀ x ∈ l, f s x = s) : l.foldl f s = s := by
    induction l with
    | nil => rfl
    | cons x l ih => rw [List.foldl_cons, hf x (.head _)]; exact ih fun y hy => hf y (.tail _ hy)
  rw [queueFreed_eq]
  exact run _ _ fun c hc => run _ _ fun p hp => if_neg (h c hc p (List.mem_range.mp hp))

end Sys2Proof.Safety
end

section
/-! SUPPORT. The start of a strand, and the entry that a pool strand pops (R63, R64). -/

namespace Sys2Proof.Safety

open Sys2Proof.Machine

/-! Scalar registers -/

theorem getS_setS (r : RegSet) (i j : Fin 32) (x : PWord) (hi : i ≠ 0) :
    (r.setS i x).getS j = if j = i then x else r.getS j := by
  obtain ⟨-, -, -, -, -, -, hs, -⟩ := registerFile r x.v x.p false r.v[0] 0
  exact (hs i hi j).1

/-! A start -/

theorem acquire_cores (s : State) (c : Nat) (sc : Scope) : (s.acquire c sc).cores = s.cores := by
  unfold State.acquire
  split <;> rfl

theorem acquire_dies (s : State) (c : Nat) (sc : Scope) : (s.acquire c sc).dies = s.dies := by
  unfold State.acquire
  split <;> rfl

theorem strand_enterLine (s : State) (c p : Nat) : ∃ l, (s.enterLine c p).strand c p = { s.strand c p with line := l } := by
  unfold State.enterLine
  dsimp only
  split
  · exact ⟨_, strand_setPorter ..⟩
  · exact ⟨_, strand_setStrand ..⟩

theorem dies_enterLine (s : State) (c p : Nat) : (s.enterLine c p).dies = s.dies := by
  unfold State.enterLine
  split <;> rfl

/-- What a start leaves of the strand `x` that it is given: it runs, or stands STOPPED where its die lists its GTI. -/
theorem strand_startStrand (s : State) (c p : Nat) (x : Strand) : ∃ l, (s.startStrand c p x).strand c p =
    if (s.die (dieOf c)).stops.contains x.gti = true
    then { x with line := l, st := .stopped, stopBy := .sstop, left := .run, leftWait := .none }
    else { x with line := l, st := .run } := by
  unfold State.startStrand
  extract_lets old s1 s2 s3
  have h1 : s2.strand c p = { x with st := old.st } :=
    (strand_of_cores (acquire_cores s1 c .dev) c p).trans (strand_setStrand ..)
  have h3 : s3.strand c p = { x with st := .run } := by
    rw [(setSt_spec s2 c p .run).2.1, h1]
  obtain ⟨l, hl⟩ := strand_enterLine s3 c p
  rw [h3] at hl
  have hd : ((s3.enterLine c p).die (dieOf c)).stops = (s.die (dieOf c)).stops := by
    have e3 : (s3.die (dieOf c)).stops = (s2.die (dieOf c)).stops :=
      (congrArg Die.stops ((wakeSide_setSt s2 c p .run).dies (dieOf c)) :)
    rw [State.die, dies_enterLine, ← State.die, e3]
    exact congrArg (fun d => (mapGet Die.init d (dieOf c)).stops) (acquire_dies s1 c .dev)
  refine ⟨l, ?_⟩
  unfold State.stopIfListed
  dsimp only
  rw [hl, hd]
  simp only [decide_true, Bool.and_true]
  split
  · rw [strand_setStrand, (setSt_spec ..).2.1, hl]
  · exact hl

/-- The registers that a task starts with (R64). -/
def taskRegs (img : CtxImage) (p : Nat) (t : Task) : RegSet :=
  ((((({ RegSet.zero with g := img.tmpl, pc := t.pc } : RegSet).setS 3 ⟨t.frame, false⟩).setS 4 ⟨t.join, false⟩).setS 5
    ⟨t.arg, false⟩).setS 2 ⟨BitVec.ofNat 64 (0x5000 + 512 * p + 512), false⟩)

theorem getS_taskRegs (img : CtxImage) (p : Nat) (t : Task) (i : Fin 32) : (taskRegs img p t).getS i =
    if i = 2 then ⟨BitVec.ofNat 64 (0x5200 + 512 * p), false⟩ else if i = 3 then ⟨t.frame, false⟩
    else if i = 4 then ⟨t.join, false⟩ else if i = 5 then ⟨t.arg, false⟩ else ⟨0, false⟩ := by
  have h0 : ({ RegSet.zero with g := img.tmpl, pc := t.pc } : RegSet).getS i = ⟨0, false⟩ := by
    unfold RegSet.getS
    split
    · rfl
    · simp [RegSet.zero]
  rw [taskRegs, getS_setS _ 2 i _ (by decide), getS_setS _ 5 i _ (by decide), getS_setS _ 4 i _ (by decide),
    getS_setS _ 3 i _ (by decide), h0, show 0x5000 + 512 * p + 512 = 0x5200 + 512 * p by omega]
  by_cases h5 : i = 5
  · subst h5; rfl
  · simp only [if_neg h5]
    by_cases h4 : i = 4
    · subst h4; rfl
    · simp only [if_neg h4]

theorem strand_startTask (s : State) (c p : Nat) (t : Task) : let y := (s.startTask c p t).strand c p
    y.gti = t.gti ∧ y.parent = t.parent ∧ y.tag = t.tag ∧ y.join = t.join ∧ y.member = (s.strand c p).member ∧
    y.regs = taskRegs (s.ctx (clusterOf c) t.tag.toNat).img p t ∧ y.wait = .none ∧ y.stopPending = false ∧
    ((s.die (dieOf c)).stops.contains t.gti = false → y.st = .run) := by
  obtain ⟨l, hl⟩ := strand_startStrand s c p { (s.strand c p).started (taskRegs (s.ctx (clusterOf c) t.tag.toNat).img p t)
    t.gti t.parent t.tag (s.strand c p).member t.join with host := t.host }
  replace hl : (s.startTask c p t).strand c p = _ := hl
  rw [hl]
  split
  · next hc => exact ⟨rfl, rfl, rfl, rfl, rfl, rfl, rfl, rfl, fun h => absurd (h.symm.trans hc) (by decide)⟩
  · exact ⟨rfl, rfl, rfl, rfl, rfl, rfl, rfl, rfl, fun _ => rfl⟩

theorem taskRegs_rest (img : CtxImage) (p : Nat) (t : Task) : (taskRegs img p t).pc = t.pc ∧ (taskRegs img p t).fs = 0 ∧
    (taskRegs img p t).g = img.tmpl := ⟨rfl, rfl, rfl⟩

/-! The entry that is popped -/

/-- One step of the choice among entries of one priority. -/
def older (b : Option Task) (t : Task) : Option Task :=
  match b with
  | none => some t
  | some x => if t.time < x.time then some t else some x

theorem foldl_older_keeps {t : Task} (l : List Task) (h : ∀ u ∈ l, u ≠ t → t.time < u.time) :
    l.foldl older (some t) = some t := by
  induction l with
  | nil => rfl
  | cons u l ih =>
    have hu : older (some t) u = some t := by
      unfold older
      dsimp only
      split
      · next hlt =>
        by_cases e : u = t
        · rw [e]
        · exact absurd (h u (.head _) e) (by omega)
      · rfl
    rw [List.foldl_cons, hu]
    exact ih fun v hv => h v (.tail _ hv)

/-- The one entry that is older than every other is chosen. -/
theorem foldl_older {t : Task} (l : List Task) (ht : t ∈ l) (h : ∀ u ∈ l, u ≠ t → t.time < u.time) (b : Option Task)
    (hb : ∀ x, b = some x → x ≠ t → t.time < x.time) : l.foldl older b = some t := by
  induction l generalizing b with
  | nil => cases ht
  | cons u l ih =>
    rw [List.foldl_cons]
    by_cases e : u = t
    · have hu : older b u = some t := by
        subst e
        cases b with
        | none => rfl
        | some x =>
          show (if u.time < x.time then some u else some x) = some u
          split
          · rfl
          · by_cases ex : x = u
            · rw [ex]
            · exact absurd (hb x rfl ex) ‹_›
      rw [hu]
      exact foldl_older_keeps l fun v hv => h v (.tail _ hv)
    · refine ih ((List.mem_cons.mp ht).resolve_left (Ne.symm e)) (fun v hv => h v (.tail _ hv)) _ fun x hx hxt => ?_
      have hut := h u (.head _) e
      cases b with
      | none => cases hx; exact hut
      | some y =>
        replace hx : (if u.time < y.time then some u else some y) = some x := hx
        split at hx <;> cases hx
        · exact hut
        · exact hb _ rfl hxt

theorem popChoice_step (ok : Task → Bool) (n : Nat) (l : List Task) : popChoice ok (n + 1) l =
    (((l.filter fun t => t.prio = 4 - (n + 1) && ok t).foldl older none).or (popChoice ok n l)) := by
  rw [popChoice]
  show (match (l.filter fun t => t.prio = 4 - (n + 1) && ok t).foldl older none with
    | some t => some t | none => popChoice ok n l) = _
  cases (l.filter fun t => t.prio = 4 - (n + 1) && ok t).foldl older none <;> rfl

/-- The oldest entry of the highest priority is popped. -/
theorem popChoice_eq {ok : Task → Bool} {l : List Task} {t : Task} (ht : t ∈ l) (hok : ok t = true)
    (h : ∀ u ∈ l, u ≠ t → ok u = true → t.prio < u.prio ∨ (t.prio = u.prio ∧ t.time < u.time)) :
    ∀ n, n ≤ 4 → 4 - n ≤ t.prio → t.prio < 4 → popChoice ok n l = some t := by
  intro n
  induction n with
  | zero => intro _ h1 h2; omega
  | succ n ih =>
    intro hn h1 h2
    rw [popChoice_step]
    by_cases hp : t.prio = 4 - (n + 1)
    · rw [foldl_older (t := t) _ _ _ none (fun _ h => nomatch h)]
      · rfl
      · exact List.mem_filter.mpr ⟨ht, by simp [hp, hok]⟩
      · intro u hu hne
        obtain ⟨hul, hq⟩ := List.mem_filter.mp hu
        simp only [Bool.and_eq_true, decide_eq_true_eq] at hq
        rcases h u hul hne hq.2 with k | k
        · omega
        · exact k.2
    · have hnil : (l.filter fun t => t.prio = 4 - (n + 1) && ok t) = [] := by
        refine List.filter_eq_nil_iff.mpr fun u hu hq => ?_
        simp only [Bool.and_eq_true, decide_eq_true_eq] at hq
        by_cases e : u = t
        · exact hp (e ▸ hq.1)
        · rcases h u hu e hq.2 with k | k <;> omega
      rw [hnil]
      exact ih (by omega) (by omega) h2

end Sys2Proof.Safety
end

section
/-! SUPPORT. The events of the task queues (O51). -/

namespace Sys2Proof.Safety

open Sys2Proof.Machine

/-! A start beside its strand -/

/-- The hardware queue and the spill region of every cluster stand as they were. -/
def SameQueues (s t : State) : Prop :=
  ∀ k, (t.cluster k).queue = (s.cluster k).queue ∧ (t.cluster k).spill = (s.cluster k).spill ∧
    (t.cluster k).steal = (s.cluster k).steal

section
variable {s t u : State}

theorem SameQueues.refl (s : State) : SameQueues s s := fun _ => ⟨rfl, rfl, rfl⟩

theorem SameQueues.trans (h : SameQueues s t) (k : SameQueues t u) : SameQueues s u := fun c =>
  ⟨(k c).1.trans (h c).1, (k c).2.1.trans (h c).2.1, (k c).2.2.trans (h c).2.2⟩

theorem sameQueues_of (h : t.clusters = s.clusters) : SameQueues s t := fun k => by
  rw [cluster_of_clusters h]
  exact ⟨rfl, rfl, rfl⟩

theorem CacheSide.sameQueues (h : CacheSide s t) : SameQueues s t := fun k =>
  ⟨(congrArg Cluster.queue (h.cluster k) :), (congrArg Cluster.spill (h.cluster k) :), (congrArg Cluster.steal (h.cluster k) :)⟩

theorem sameQueues_useCtx (s : State) (cl t : Nat) : SameQueues s (s.useCtx cl t) := fun k => by
  unfold State.useCtx State.setCtx
  dsimp only
  rw [cluster_setCluster_eq]
  split
  · next h => subst h; exact ⟨rfl, rfl, rfl⟩
  · exact ⟨rfl, rfl, rfl⟩

theorem clusters_stopIfListed (s : State) (c p : Nat) : (s.stopIfListed c p).clusters = s.clusters := by
  unfold State.stopIfListed
  dsimp only
  split
  · exact (wakeSide_setSt ..).clusters
  · rfl

theorem sameQueues_startStrand (s : State) (c p : Nat) (x : Strand) : SameQueues s (s.startStrand c p x) := by
  unfold State.startStrand
  extract_lets old s1 s2 s3
  have h2 : SameQueues s s2 := (homeSide_acquire s1 c .dev).sameQueues.trans (sameQueues_useCtx _ _ _)
  refine h2.trans (sameQueues_of ?_)
  exact (clusters_stopIfListed ..).trans ((clusters_enterLine ..).trans (wakeSide_setSt ..).clusters)

theorem strand_startStrand_other {c p e q : Nat} (h : (c, p) ≠ (e, q)) (s : State) (x : Strand) :
    (s.startStrand e q x).strand c p = s.strand c p := by
  unfold State.startStrand
  extract_lets old s1 s2 s3
  have h1 : s2.strand c p = s.strand c p :=
    (strand_of_cores (acquire_cores s1 e .dev) c p).trans (strand_setStrand_other _ _ _ _ _ _ h)
  have h3 : (s3.enterLine e q).strand c p = s.strand c p :=
    (strand_enterLine_other h s3).trans ((strand_setSt_other s2 e q .run h).trans h1)
  unfold State.stopIfListed
  dsimp only
  split
  · exact (strand_setStrand_other _ _ _ _ _ _ h).trans ((strand_setSt_other _ _ _ _ h).trans h3)
  · exact h3

end

/-- Nobody of a cluster waits for a queue entry. -/
def Quiet (s : State) (cl : Nat) : Prop := ∀ c ∈ coresOf cl, ∀ p < 6, s.waitOf c p ≠ .queue

theorem Quiet.of_strand {s t : State} {cl : Nat} (h : Quiet s cl)
    (k : ∀ c p, t.strand c p = s.strand c p ∨ (t.strand c p).wait = .none) : Quiet t cl := by
  intro c hc p hp
  rw [waitOf_strand _ hp]
  rcases k c p with e | e
  · rw [e, ← waitOf_strand s hp]
    exact h c hc p hp
  · rw [e]
    exact fun h => nomatch h

/-! Pops -/

theorem coreOpen_of_cores {s t : State} (h : t.cores = s.cores) (c : Nat) : t.coreOpen c = s.coreOpen c := by
  unfold State.coreOpen State.core
  rw [h]

/-- An idle pool strand takes the first record of its device's (R63, R64). -/
theorem taskPop_eq {s : State} {c p n : Nat} {l : Launch} {t : Task} (hm : (s.strand c p).member = .pool n)
    (hi : (s.strand c p).st = .idle) (ho : s.coreOpen c = true) (hl : mapGet? s.porch.launches n = some l)
    (hr : l.retired = false) (ha : s.leaseAllows l.vd = true)
    (ht : t ∈ (s.cluster (clusterOf c)).queue) (hld : (s.ctx (clusterOf c) t.tag.toNat).loaded = true)
    (hvd : (s.ctx (clusterOf c) t.tag.toNat).img.vd = l.vd) (hp : t.prio < 4)
    (hb : ∀ u ∈ (s.cluster (clusterOf c)).queue, u ≠ t → ((s.ctx (clusterOf c) u.tag.toNat).loaded = true →
      (s.ctx (clusterOf c) u.tag.toNat).img.vd = l.vd) → t.prio < u.prio ∨ (t.prio = u.prio ∧ t.time < u.time)) :
    s.taskPop c p = some (((s.setCluster (clusterOf c) { s.cluster (clusterOf c) with
      queue := (s.cluster (clusterOf c)).queue.erase t }).startTask c p t).queueFreed (clusterOf c)) := by
  have hidle : s.idlePool c p = some (n, l) := by
    unfold State.idlePool
    simp [hm, hi, ho, hl]
  have hpop : popChoice (fun t => !(s.ctx (clusterOf c) t.tag.toNat).loaded || s.taskOk (clusterOf c) l.vd t) 4
      (s.cluster (clusterOf c)).queue = some t := by
    refine popChoice_eq ht (by simp [State.taskOk, hld, hvd]) (fun u hu hne hok => hb u hu hne fun hul => ?_) 4 (by omega)
      (by omega) hp
    simpa [State.taskOk, hul] using hok
  unfold State.taskPop
  rw [hidle]
  dsimp only
  rw [if_neg (by simp [hr, ha]), hpop]
  dsimp only
  rw [if_pos hld]

theorem ctx_setQueue (s : State) (k : Nat) (l : List Task) (i j : Nat) :
    (s.setCluster k { s.cluster k with queue := l }).ctx i j = s.ctx i j := by
  rw [State.ctx, State.ctx, cluster_setCluster_eq]
  split
  · next h => rw [h]
  · rfl

/-! Aging and spills -/

theorem taskAging_eq {s : State} {cl j : Nat} {t : Task} (h : (s.cluster cl).queue[j]? = some t) (h0 : t.prio ≠ 0)
    (hc : t.since + 65536 ≤ s.cycle) : s.taskAging cl j = some (s.setCluster cl { s.cluster cl with
      queue := (s.cluster cl).queue.set j { t with prio := t.prio - 1, since := s.cycle } }) := by
  unfold State.taskAging
  dsimp only
  rw [h]
  dsimp only
  rw [if_neg (by simp only [Bool.or_eq_true, decide_eq_true_eq]; omega)]
  rfl

theorem spillRefill_eq {s : State} {cl : Nat} {t : Task} {l : List Task} (h : (s.cluster cl).spill = t :: l)
    (hr : 0 < queueRoom (s.cluster cl)) : s.spillRefill cl = some ((s.setCluster cl { s.cluster cl with
      queue := (s.cluster cl).queue ++ [{ t with cell := 0 }], spill := l }).queueFreed cl) := by
  unfold State.spillRefill
  dsimp only
  rw [h]
  dsimp only
  rw [if_neg (by omega)]

/-! Spawns -/

/-- A record of a context that the cluster has, with room in the hardware queue. -/
theorem spawnAt_eq {s : State} {cl tag : Nat} {t : Task} {y : CtxImage} (hf : s.findCtx cl y = some tag)
    (hs : (s.cluster cl).spill = []) (hr : 0 < queueRoom (s.cluster cl)) : ∃ b, s.spawnAt cl t (some y) = some b ∧
      b.short = s.short ∧ (b.cluster cl).queue = (s.cluster cl).queue ++
        [{ t with tag := BitVec.ofNat 4 tag, gti := (s.newGti (dieOfCluster cl) y.vd).1, time := s.cycle, since := s.cycle }] := by
  unfold State.spawnAt
  dsimp only
  rw [hf]
  dsimp only
  unfold State.enqueue
  dsimp only
  have hk : ((s.newGti (dieOfCluster cl) y.vd).2).cluster cl = s.cluster cl := rfl
  rw [if_pos (by rw [hk, hs]; simp [hr])]
  refine ⟨_, rfl, rfl, ?_⟩
  rw [(sameQueues_useCtx _ _ _ cl).1, cluster_setCluster]
  rfl

theorem short_send (s : State) (sdie sstop ddie dstop vc vd : Nat) (gti : BitVec 32) (cl : Nat) (m : Msg) :
    (s.send sdie sstop ddie dstop vc vd gti cl m).short = s.short := by
  obtain ⟨i, net, ks, h⟩ := send_eq s sdie sstop ddie dstop vc vd gti cl m
  rw [h]

theorem short_answer (s : State) (f : Flit) (m : Msg) : (s.answer f m).short = s.short :=
  short_send (s.drop f.id) ..

theorem sameQueues_answer (s : State) (f : Flit) (m : Msg) : SameQueues s (s.answer f m) :=
  CacheSide.sameQueues (t := s.answer f m) (CacheSide.trans (t := (s.drop f.id).send f.ddie f.dstop f.sdie f.sstop vcRSP f.vd
    f.gti f.cluster m) (CacheSide.trans (homeSide_setNet s _).toCacheSide (homeSide_send ..).toCacheSide)
      (homeSide_setNet ..).toCacheSide)

theorem sameQueues_sendFrom (s : State) (cl ddie dstop vc vd : Nat) (gti : BitVec 32) (m : Msg) :
    SameQueues s (s.sendFrom cl ddie dstop vc vd gti m) := (homeSide_send ..).toCacheSide.sameQueues

theorem mem_sendFrom (s : State) (cl ddie dstop vc vd : Nat) (gti : BitVec 32) (m : Msg) :
    ∃ g ∈ (s.sendFrom cl ddie dstop vc vd gti m).net, g.msg = m ∧ g.vc = vc ∧ g.ddie = ddie ∧ g.dstop = dstop := by
  unfold State.sendFrom
  obtain ⟨g, hg, -, hmsg, hvc, hd, hst, -⟩ := mem_send s (dieOfCluster cl) (stopOfCluster cl) ddie dstop vc vd gti cl m
  exact ⟨g, hg, hmsg, hvc, hd, hst⟩

theorem answered_any {s b : State} {f : Flit} {m : Msg} : ∃ q, Answered { s with nextId := q } (b.answer f m) f m :=
  ⟨b.nextId, answered_answer b f m⟩

theorem spawnReceive_eq {s : State} {i : Nat} {f : Flit} {core : Nat} {t : Task} {score spos op : Nat} {img : Option CtxImage}
    (hf : s.flit? i = some f) (hm : f.msg = .spawn core t score spos op img) (hb : s.builtinReady core = true)
    (h6 : s.free6 core = true) : s.spawnReceive i = match s.spawnAt (clusterOf core) t img with
      | some s => ((s.tookSix core).answer f (.ack score spos op 1 false false none)).ease.whole
      | none => some ((s.tookSix core).answer f (.ack score spos op 0 false false none)) := by
  unfold State.spawnReceive
  rw [hf]
  dsimp only
  rw [hm]
  dsimp only
  exact (if_neg (by simp [hb])).trans ((if_neg (by simp [h6])).trans rfl)

theorem spawnReceive_none {s : State} {i : Nat} {f : Flit} {core : Nat} {t : Task} {score spos op : Nat}
    {img : Option CtxImage} (hf : s.flit? i = some f) (hm : f.msg = .spawn core t score spos op img)
    (hb : s.builtinReady core = true) (h6 : s.free6 core = true) (hn : s.spawnAt (clusterOf core) t img = none) :
    exec (.spawnReceive i) s = .next ((s.tookSix core).answer f (.ack score spos op 0 false false none)) := by
  have he : exec (.spawnReceive i) s = .next ((s.spawnReceive i).getD s) := rfl
  rw [he, spawnReceive_eq hf hm hb h6, hn]
  rfl

theorem spawnReceive_some {s b : State} {i : Nat} {f : Flit} {core : Nat} {t : Task} {score spos op : Nat}
    {img : Option CtxImage} (hf : s.flit? i = some f) (hm : f.msg = .spawn core t score spos op img)
    (hb : s.builtinReady core = true) (h6 : s.free6 core = true) (hn : s.spawnAt (clusterOf core) t img = some b)
    (hs : b.short = none) : exec (.spawnReceive i) s =
      .next ((b.tookSix core).answer f (.ack score spos op 1 false false none)).anyway := by
  have he : exec (.spawnReceive i) s = .next ((s.spawnReceive i).getD s) := rfl
  have hw := ease_whole (t := (b.tookSix core).answer f (.ack score spos op 1 false false none)) ((short_answer ..).trans hs)
  rw [he, spawnReceive_eq hf hm hb h6, hn]
  dsimp only
  rw [hw]
  rfl

/-! Steals -/

theorem stealRequest_eq {s : State} {cl vd v : Nat} (hq : (s.cluster cl).queue = []) (hs : (s.cluster cl).spill = [])
    (hr : 4 ≤ queueRoom (s.cluster cl)) (hh : s.hungry cl vd = true) (ha : s.leaseAllows vd = true)
    (hw : (mapGet Steal.init (s.cluster cl).steal vd).waiting = false)
    (ht : (mapGet Steal.init (s.cluster cl).steal vd).retryAt = none)
    (hv : (s.neighbours cl vd)[(mapGet Steal.init (s.cluster cl).steal vd).next % (s.neighbours cl vd).length]? = some v) :
    s.stealRequest cl vd = some ((s.setCluster cl { s.cluster cl with
      steal := mapPut (s.cluster cl).steal vd { mapGet Steal.init (s.cluster cl).steal vd with waiting := true } }).sendFrom cl (dieOfCluster v) (stopOfCluster v)
        vcMSG vd 0 (.steal v cl vd)) := by
  unfold State.stealRequest
  dsimp only
  rw [if_neg (by simp [hq, hs, hw, ht, hh, ha, Nat.not_lt.mpr hr]), hv]

/-- Whether an entry ships before another, or as early. -/
def notAfter (a b : Task) : Prop := a.prio < b.prio ∨ (a.prio = b.prio ∧ a.time ≤ b.time)

theorem notAfter.trans {a b c : Task} (h : notAfter a b) (k : notAfter b c) : notAfter a c := by
  unfold notAfter at *
  omega

theorem perm_taskInsert (t : Task) (l : List Task) : (taskInsert t l).Perm (t :: l) := by
  induction l with
  | nil => exact .refl _
  | cons x r ih =>
    unfold taskInsert
    split
    · exact .refl _
    · exact (ih.cons x).trans (.swap t x r)

theorem sorted_taskInsert (t : Task) {l : List Task} (h : l.Pairwise notAfter) : (taskInsert t l).Pairwise notAfter := by
  induction l with
  | nil => exact List.pairwise_singleton ..
  | cons x r ih =>
    obtain ⟨hx, hr⟩ := List.pairwise_cons.mp h
    unfold taskInsert
    split
    · next hc =>
      have htx : notAfter t x := by simpa [notAfter] using hc
      refine List.pairwise_cons.mpr ⟨fun y hy => ?_, h⟩
      rcases List.mem_cons.mp hy with rfl | hy
      · exact htx
      · exact htx.trans (hx y hy)
    · next hc =>
      simp only [Bool.or_eq_true, Bool.and_eq_true, decide_eq_true_eq, not_or, not_and] at hc
      have hxt : notAfter x t := by unfold notAfter; omega
      refine List.pairwise_cons.mpr ⟨fun y hy => ?_, ih hr⟩
      rcases List.mem_cons.mp ((perm_taskInsert t r).mem_iff.mp hy) with rfl | hy
      · exact hxt
      · exact hx y hy

theorem byPriority_spec (l : List Task) : (byPriority l).Perm l ∧ (byPriority l).Pairwise notAfter := by
  induction l with
  | nil => exact ⟨.refl _, .nil⟩
  | cons t l ih => exact ⟨(perm_taskInsert t _).trans (ih.1.cons t), sorted_taskInsert t ih.2⟩

/-- The first entries of the order, whatever is left behind. -/
theorem take_byPriority {l : List Task} {n : Nat} (hn : n ≤ l.length) : ((byPriority l).take n).length = n ∧
    (∀ a ∈ (byPriority l).take n, a ∈ l) ∧ ∀ a ∈ (byPriority l).take n, ∀ b ∈ l, b ∉ (byPriority l).take n → notAfter a b := by
  obtain ⟨hperm, hsort⟩ := byPriority_spec l
  refine ⟨by rw [List.length_take, hperm.length_eq]; omega, fun a ha => hperm.mem_iff.mp (List.mem_of_mem_take ha),
    fun a ha b hb hbn => ?_⟩
  have hb' : b ∈ (byPriority l).take n ++ (byPriority l).drop n := by
    rw [List.take_append_drop]
    exact hperm.mem_iff.mpr hb
  rw [← List.take_append_drop n (byPriority l)] at hsort
  exact (List.pairwise_append.mp hsort).2.2 a ha b ((List.mem_append.mp hb').resolve_left hbn)

theorem ctx_of_clusters {s t : State} (h : t.clusters = s.clusters) (k i : Nat) : t.ctx k i = s.ctx k i := by
  rw [State.ctx, State.ctx, cluster_of_clusters h]

theorem sameQueues_foldl {α : Type} {f : State → α → State} (h : ∀ s x, SameQueues s (f s x)) (l : List α) (s : State) :
    SameQueues s (l.foldl f s) := by
  induction l generalizing s with
  | nil => exact .refl s
  | cons x l ih => exact (h s x).trans (ih _)

theorem strand_foldl_useCtx (l : List Task) (s : State) (cl c p : Nat) :
    (l.foldl (fun s t => s.useCtx cl t.tag.toNat) s).strand c p = s.strand c p := by
  induction l generalizing s with
  | nil => rfl
  | cons x l ih => exact (ih _).trans rfl

/-- What the thief knows after an answer (R67). -/
def stealNext (n : Nat) (x : Steal) (empty : Bool) (cycle : Nat) : Steal :=
  let next := if n = 0 then 0 else (x.next + 1) % n
  if !empty then ⟨next, 0, false, none⟩
  else if x.asked + 1 < n then ⟨next, x.asked + 1, false, none⟩
  else ⟨next, 0, false, some (cycle + 1024)⟩

theorem stealNext_eq {n : Nat} (hn : 0 < n) (x : Steal) (l : List Task) (cycle : Nat) : stealNext n x l.isEmpty cycle =
    ⟨(x.next + 1) % n, if l = [] ∧ x.asked + 1 < n then x.asked + 1 else 0, false,
      if l = [] ∧ n ≤ x.asked + 1 then some (cycle + 1024) else none⟩ := by
  have hn0 : n ≠ 0 := Nat.pos_iff_ne_zero.mp hn
  unfold stealNext
  simp only [if_neg hn0]
  cases l with
  | cons a l => simp
  | nil =>
    by_cases h : x.asked + 1 < n
    · simp [h, Nat.not_le.mpr h]
    · simp [h, Nat.not_lt.mp h]

/-- The records of a shipment, under the thief's tags. -/
def shipped (s : State) (victim thief : Nat) (l : List Task) : List Task :=
  l.map fun t => { t with tag := BitVec.ofNat 4 ((s.findCtx thief (s.ctx victim t.tag.toNat).img).getD 0) }

/-- An answer to a steal where nobody of the victim's cluster waits for a queue entry. -/
theorem stealShipment_spec {s : State} {i : Nat} {f : Flit} {cl thief vd : Nat} (hf : s.flit? i = some f)
    (hm : f.msg = .steal cl thief vd) (hne : thief ≠ cl) (hq : Quiet s cl) : ∃ t, s.stealShipment i = some t ∧
      (t.cluster cl).queue = (s.shipment cl thief vd).foldl (fun q a => q.erase a) (s.cluster cl).queue ∧
      (t.cluster thief).queue = (s.cluster thief).queue ++ shipped s cl thief (s.shipment cl thief vd) ∧
      mapGet Steal.init (t.cluster thief).steal vd = stealNext (s.neighbours thief vd).length
        (mapGet Steal.init (s.cluster thief).steal vd) (s.shipment cl thief vd).isEmpty s.cycle := by
  unfold State.stealShipment
  rw [hf]
  dsimp -zeta only
  rw [hm]
  dsimp -zeta only
  extract_lets l moved n b v b1 k x next y b2 b3
  refine ⟨_, rfl, ?_⟩
  have hk : k = s.cluster thief := cluster_setCluster_other b cl thief _ hne
  have hv : v = s.cluster cl := rfl
  have h3 : SameQueues b2 b3 := sameQueues_foldl (fun s (t : Task) => sameQueues_useCtx s thief t.tag.toNat) _ _
  have hquiet : b3.queueFreed cl = b3 := queueFreed_quiet <| hq.of_strand fun c p => .inl <|
    (strand_foldl_useCtx moved b2 thief c p).trans rfl
  rw [hquiet, (h3 cl).1, (h3 thief).1, (h3 thief).2.2]
  refine ⟨?_, ?_, ?_⟩
  · rw [show b2 = b1.setCluster thief _ from rfl, cluster_setCluster_other _ _ _ _ hne.symm,
      show b1 = b.setCluster cl _ from rfl, cluster_setCluster]
    rfl
  · rw [show b2 = b1.setCluster thief _ from rfl, cluster_setCluster, hk]
    rfl
  · rw [show b2 = b1.setCluster thief _ from rfl, cluster_setCluster]
    dsimp only
    rw [mapGet_mapPut, if_pos rfl]
    show y = stealNext n (mapGet Steal.init (s.cluster thief).steal vd) l.isEmpty s.cycle
    rw [← hk]
    rfl

theorem stealRetry_spec {s : State} {cl vd n m a : Nat} {w : Bool} (h : mapGet? (s.cluster cl).steal vd = some ⟨n, m, w, some a⟩)
    (ha : a ≤ s.cycle) : ∃ t, s.stealRetry cl = some t ∧ mapGet? (t.cluster cl).steal vd = some ⟨n, m, w, none⟩ := by
  unfold State.stealRetry
  extract_lets k past
  have ho : past ⟨n, m, w, some a⟩ = true := decide_eq_true ha
  have hany : (k.steal.any fun e => past e.2) = true := List.any_eq_true.mpr ⟨_, mem_of_mapGet? h, ho⟩
  rw [if_pos hany]
  refine ⟨_, rfl, ?_⟩
  rw [cluster_setCluster]
  dsimp only
  rw [mapGet?_map k.steal (fun _ x => if past x then { x with retryAt := none } else x), h, Option.map_some, if_pos ho]

/-- A strand that has started a task stands as it does once a queue entry has come free. -/
theorem popped_spec {b : State} {c p cl : Nat} {t : Task} {img : CtxImage} {m : Member} {go : Prop}
    (h : let y := b.strand c p
      y.gti = t.gti ∧ y.parent = t.parent ∧ y.tag = t.tag ∧ y.join = t.join ∧ y.member = m ∧ y.regs = taskRegs img p t ∧
      y.wait = .none ∧ y.stopPending = false ∧ (go → y.st = .run)) : let y := (b.queueFreed cl).strand c p
    y.gti = t.gti ∧ y.parent = t.parent ∧ y.tag = t.tag ∧ y.join = t.join ∧ y.member = m ∧ y.regs = taskRegs img p t ∧
    (go → y.st = .run) := by
  obtain ⟨hg, hpa, htag, hj, hmem, hregs, hw, -, hrun⟩ := h
  have hst : Stands c p b (b.queueFreed cl) := stands_queueFreed cl (by rw [hw]; exact fun h => nomatch h)
  obtain ⟨u, hu⟩ : ∃ u, b.queueFreed cl = u := ⟨_, rfl⟩
  rw [hu] at hst ⊢
  exact ⟨(congrArg Strand.gti hst :).trans hg, (congrArg Strand.parent hst :).trans hpa,
    (congrArg Strand.tag hst :).trans htag, (congrArg Strand.join hst :).trans hj,
    (congrArg Strand.member hst :).trans hmem, (congrArg Strand.regs hst :).trans hregs,
    fun hs => (congrArg Strand.st hst :).trans (hrun hs)⟩

/-- Settles O51, event by event. -/
theorem taskQueues : Obligations.TaskQueues := by
  intro s cl k quiet
  refine ⟨?pop, ?age, ?spill, ?spawn, ?ask, ?ship, ?retry⟩
  case pop =>
    rintro c p n l t rfl hm hi ho hl hr ha ht hld hvd hp hb
    have he : exec (.taskPop c p) s = .next ((s.taskPop c p).getD s) := rfl
    rw [he, taskPop_eq hm hi ho hl hr ha ht hld hvd hp hb]
    rw [Option.getD_some]
    refine ⟨_, rfl, fun hq => ?_, ?_⟩
    · rw [queueFreed_quiet]
      · exact (sameQueues_startStrand _ c p _ (clusterOf c)).1.trans (congrArg Cluster.queue (cluster_setCluster ..))
      · refine Quiet.of_strand hq fun d q => ?_
        by_cases e : (d, q) = (c, p)
        · cases e
          exact .inr (strand_startTask _ c p t).2.2.2.2.2.2.1
        · exact .inl (strand_startStrand_other e _ _)
    · have hpop := popped_spec (cl := clusterOf c) (strand_startTask (s.setCluster
        (clusterOf c) { s.cluster (clusterOf c) with queue := (s.cluster (clusterOf c)).queue.erase t }) c p t)
      rw [ctx_setQueue] at hpop
      revert hpop
      generalize State.queueFreed _ _ = x
      rintro ⟨hg, hpa, htag, hj, hmem, hregs, hrun⟩
      refine ⟨hg, hpa, htag, hj, hmem.trans hm, ?_, ?_, ?_, fun i => ?_, hrun⟩
      · exact congrArg RegSet.pc hregs
      · exact congrArg RegSet.fs hregs
      · exact congrArg RegSet.g hregs
      · exact (congrArg (fun r : RegSet => r.getS i) hregs).trans (getS_taskRegs ..)
  case age =>
    intro j t hj h0 hc
    have he : exec (.taskPriorityAging cl j) s = .next ((s.taskAging cl j).getD s) := rfl
    rw [he, taskAging_eq hj h0 hc]
    exact ⟨_, rfl, congrArg Cluster.queue (cluster_setCluster ..)⟩
  case spill =>
    intro t l hs hr hq
    have he : exec (.spillRefill cl) s = .next ((s.spillRefill cl).getD s) := rfl
    rw [he, spillRefill_eq hs hr]
    refine ⟨_, rfl, ?_⟩
    rw [Option.getD_some, queueFreed_quiet (s := s.setCluster cl _) (Quiet.of_strand hq fun c p => .inl rfl),
      cluster_setCluster]
    exact ⟨rfl, rfl⟩
  case spawn =>
    intro i f core task score spos op img hf hm hb h6 hcl hs answers
    subst hcl
    refine ⟨?_, ?_, ?_⟩
    · rintro rfl
      exact ⟨_, spawnReceive_none hf hm hb h6 rfl, answered_any⟩
    · rintro y rfl hn
      exact ⟨_, spawnReceive_none hf hm hb h6 (by rw [State.spawnAt]; dsimp only; rw [hn]), answered_any⟩
    · rintro y tag rfl hn hsp hr
      obtain ⟨b, hb', hbs, hbq⟩ := spawnAt_eq (t := task) hn hsp hr
      refine ⟨_, spawnReceive_some hf hm hb h6 hb' (hbs.trans hs), answered_any, ?_⟩
      rw [← hbq]
      exact (sameQueues_answer (b.tookSix core) f (.ack score spos op 1 false false none) (clusterOf core)).1
  case ask =>
    intro vd v hq hs hr hh ha x l hw ht hv
    have he : exec (.stealRequest cl vd) s = .next ((s.stealRequest cl vd).getD s) := rfl
    rw [he, stealRequest_eq hq hs hr hh ha hw ht hv]
    refine ⟨_, rfl, ?_, ?_⟩
    · rw [Option.getD_some, (sameQueues_sendFrom _ _ _ _ _ _ _ _ cl).2.2, cluster_setCluster]
      exact (mapGet_mapPut ..).trans (if_pos rfl)
    · exact mem_sendFrom ..
  case ship =>
    intro i f thief vd hf hm hne hq ok x n
    have he : exec (.stealShipment i) s = .next ((s.stealShipment i).getD s) := rfl
    obtain ⟨t, ht, h1, h2, h3⟩ := stealShipment_spec hf hm hne hq
    rw [he, ht]
    obtain ⟨hl, hin, hfirst⟩ := take_byPriority (l := ok) (n := min 4 ((ok.length + 1) / 2)) (by omega)
    refine ⟨t, s.shipment cl thief vd, rfl, hl, hin, hfirst, h1, h2, fun hn => ?_⟩
    rw [h3, stealNext_eq hn]
  case retry =>
    intro vd n m w a h ha
    have he : exec (.stealRetryTimer cl) s = .next ((s.stealRetry cl).getD s) := rfl
    obtain ⟨t, ht, hs⟩ := stealRetry_spec h ha
    rw [he, ht]
    exact ⟨t, rfl, hs⟩

end Sys2Proof.Safety
end
